-- ==== Sys2Proof/Word.lean ====
section
/-! DEFINITION. The word types of the device: bytes, 32-bit and 64-bit register words, the 44-bit device
physical address (R15), and bit-field access by the manual's `[h:l]` ranges (R6). -/

namespace Sys2Proof

/-- One byte of memory. -/
abbrev Byte := BitVec 8
/-- A 32-bit register or descriptor word. -/
abbrev W32 := BitVec 32
/-- A 64-bit register, fence value or scalar. -/
abbrev W64 := BitVec 64
/-- A device physical address (R15). -/
abbrev Pa := BitVec 44

/-- A sparse map: key and value pairs, keys strictly rising. -/
abbrev SMap (α : Type) := List (Nat × α)

/-- Bits `[h:l]` of a natural number read as a bit string (R6). -/
def bits (x h l : Nat) : Nat := (x >>> l) % 2 ^ (h + 1 - l)

/-- `x` with bits `[h:l]` replaced by the low bits of `v`. -/
def setBits (x h l v : Nat) : Nat :=
  x % 2 ^ l + (v % 2 ^ (h + 1 - l)) * 2 ^ l + (x >>> (h + 1)) * 2 ^ (h + 1)

/-- `ceil(a / b)` for `b > 0`. -/
def ceilDiv (a b : Nat) : Nat := (a + b - 1) / b

end Sys2Proof
end

