-- ==== Sys2Proof/Syntax.lean ====
section
/-! DEFINITION. The commands of the block: one constructor of `Instr` for each row of spec/opcode_table.json.
The table gives its rows no operands; the operands here are what the row's rule needs from outside the device
(an engine, a register value, the bytes of a packet, a sensor reading). -/

namespace Sys2Proof

/-- The two worlds (R403). -/
inductive World where
  | studio
  | gallery
deriving DecidableEq, Repr

/-- Mailbox endpoints, Table 12.7. -/
inductive Endpoint where
  | host
  | hc
  | cp0
  | cp1
  | pmc
  | sec
deriving DecidableEq, Repr

/-- The operand formats of Table 0.5. -/
inductive Format where
  | int4
  | int8
  | uint8
  | int16
  | e4m3
  | e5m2
  | fp16
  | bf16
  | fp32
  | mxfp4
  | cb4
  | cb8
deriving DecidableEq, Repr

/-- The element type of a vector instruction, Table 5.6. -/
inductive EType where
  | int32
  | fmt (f : Format)
deriving DecidableEq, Repr

/-- Scalar functions, Table 5.4. -/
inductive SFn where
  | add
  | sub
  | and
  | or
  | xor
  | shl
  | shr
  | sra
  | mul
  | min
  | max
  | minu
  | maxu
  | slt
  | sltu
deriving DecidableEq, Repr

/-- VOP2 functions, Table 5.7. -/
inductive V2Fn where
  | add
  | sub
  | mul
  | min
  | max
  | and
  | or
  | xor
  | shl
  | shr
  | sra
  | absdiff
deriving DecidableEq, Repr

/-- VCMP functions, Table 5.7. -/
inductive CmpFn where
  | eq
  | ne
  | lt
  | le
  | gt
  | ge
deriving DecidableEq, Repr

/-- VFN functions, Table 5.7. -/
inductive TFn where
  | exp2
  | log2
  | rcp
  | rsqrt
  | tanh
  | sigmoid
  | silu
  | gelu
deriving DecidableEq, Repr

/-- VRED operations, R136. -/
inductive RedOp where
  | sum
  | max
  | min
  | argmax
  | argmin
deriving DecidableEq, Repr

/-- PLOG functions, Table 5.7. -/
inductive PlogFn where
  | and
  | or
  | xor
  | andn
  | not
  | firstn
deriving DecidableEq, Repr

/-- Special registers, Table 4.1 and Table 5.3. -/
inductive Spr where
  | engid
  | clkn
  | ctxid
  | cycle
  | phaseid
deriving DecidableEq, Repr

/-- Fields of an address register, Table 5.3. -/
inductive AField where
  | base
  | stride (i : Fin 4)
  | bound
deriving DecidableEq, Repr

/-- A 32-bit operand that is an immediate or the low half of a scalar register. -/
inductive Src32 where
  | imm (v : W32)
  | reg (r : Fin 64)
deriving DecidableEq, Repr

/-- A loop count, R101. -/
inductive LoopCount where
  | imm (v : BitVec 16)
  | reg (r : Fin 64)
deriving DecidableEq, Repr

/-- A fence number of FWAIT and FSIG: FIMM, or the low 17 bits of a scalar register (R128). -/
inductive FenceSel where
  | imm (f : BitVec 17)
  | reg (r : Fin 64)
deriving DecidableEq, Repr

/-- A size field of CMM, R122. -/
inductive SizeField where
  | imm (v : BitVec 12)
  | reg (r : Fin 64)
deriving DecidableEq, Repr

/-- The RINGL and RLR fields of CX, Table 5.2. -/
inductive RingLen where
  | imm (v : BitVec 8)
  | reg (r : Fin 64)
deriving DecidableEq, Repr

/-- The row operand of DRN, R137. -/
inductive RowSel where
  | imm (v : BitVec 12)
  | reg (r : Fin 64)
deriving DecidableEq, Repr

/-- Init modes, Table 3.3. -/
inductive InitMode where
  | keep
  | zero
  | bias (b : Fin 4)
deriving DecidableEq, Repr

/-- Roles on a frame ring, R131. -/
inductive Role where
  | consumer
  | producer
deriving DecidableEq, Repr

/-- The four slots of a bundle, Table 4.2. -/
inductive Slot where
  | c
  | a
  | m
  | v
deriving DecidableEq, Repr

/-- The fields of a CMM word, Table 5.1. -/
structure CmmWord where
  scat    : Bool
  psel    : Bool
  ring    : Bool
  complex : Bool
  reuse   : Bool
  init    : InitMode
  nsz     : SizeField
  ksz     : SizeField
  msz     : SizeField
  xfmt    : Format
  sfmt    : Format
deriving DecidableEq, Repr

/-- The fields of a CX word, Table 5.2. -/
structure CxWord where
  ringl : RingLen
  psub  : BitVec 4
  pslot : BitVec 6
  maskp : Fin 16
  acmb  : BitVec 12
  wgs   : Fin 4
  xwg   : Bool
  xa    : Fin 32
  wa    : Fin 32
deriving DecidableEq, Repr

/-- The common V-slot layout, Table 5.6, without FUNCT. -/
structure VCommon where
  et  : EType
  vd  : Fin 32
  va  : Fin 32
  vb  : Fin 32
  vc  : Fin 32
  pr  : Fin 16
  ovf : Bool
  zm  : Bool
deriving DecidableEq, Repr

/-- Where an engine instruction issues: the engine, and the non-stalled ENGCLK cycles that have passed since the
engine's previous issue (0: another slot of the same bundle). Bundles between the two hold only NOPs. -/
structure Issue where
  ne : Fin 6
  dt : Nat
deriving DecidableEq, Repr

/-- A task of the deadlock probe: a command (submission queue, sequence number), with the engine of the part for a
split command (R291). -/
structure TaskId where
  sq  : Nat
  seq : Nat
  eng : Option (Fin 6)
deriving DecidableEq, Repr

/-- The consumer of a stream descriptor list: an SDMA channel or a fetch queue of an engine (R207). -/
inductive Consumer where
  | sdma (c : Fin 16)
  | fetch (ne : Fin 6) (q : Fin 8)
deriving DecidableEq, Repr

/-- Precedence classes of one bank request, R187 and R188. -/
inductive BankClass where
  | reserved
  | remote (waited : Nat)
  | stationary
  | streaming
  | mslot
  | record
  | scrub (waited : Nat)
deriving DecidableEq, Repr

/-- One line access that reaches a slice's bank arbiter in a cycle: its class and its line index (R184). -/
structure BankReq where
  cls  : BankClass
  line : Nat
deriving DecidableEq, Repr

/-- The masters of R403, as the device tells them apart. -/
inductive Master where
  | engine (e : Fin 6)
  | sdma
  | cp
  | camera
  | pcie
  | nvme
  | sec
  | pmc
  | hcMachine
  | hcUser
  | debug (level : Fin 4)
deriving DecidableEq, Repr

/-- An access of memory from outside the unit that performs it: a read of `len` bytes, or a write. -/
inductive Access where
  | read (len : Nat)
  | write (data : List Byte)
deriving DecidableEq, Repr

/-- One registered DIMM as its SPD describes it (R306 to R308). -/
structure Dimm where
  density : Nat
  x4      : Bool
  ranks   : Nat
  speeds  : List Nat
deriving DecidableEq, Repr

/-- One failing bank found by the gesso self-test (Table 8.10). -/
structure BistFail where
  region : Nat
  bank   : Nat
  row    : Nat
deriving DecidableEq, Repr

/-- What the surroundings answer while the boot chain runs: the DIMMs of the four channels (none for an empty
socket), the first failing channel and training step, the banks that fail self-test, and whether the boot flash cannot be
read. -/
structure BootEnv where
  dimms     : List (Option Dimm)
  trainFail : Option (Nat × Nat)
  bist      : List BistFail
  flashFail : Bool := false
deriving DecidableEq, Repr

/-- The cause of a power-on reset (Table 18.6). -/
inductive PorCause where
  | porstN
  | vddAon
deriving DecidableEq, Repr

/-- Switched power domains that the PMC turns off and on by R388; `wfi` has a bit for each application core that waits for an
interrupt. -/
inductive PowerDomain where
  | hc (wfi : Byte)
  | media
deriving DecidableEq, Repr

/-- Who asks the DDR5 memory for a line (R21, Table 9.3): a unit of the real-time class, a transfer or a descriptor burst of a
list, an engine's RLD or RST, the command processors' own traffic, the application cores, inbound PCIe. -/
inductive DdrOrigin where
  | realTime
  | stream (k : Consumer)
  | burst (k : Consumer)
  | engine (e : Fin 6)
  | cp
  | cores
  | pcie
deriving DecidableEq, Repr

/-- The periodic operations of a rank (R323): ZQ calibration, or a reading of the DQS interval oscillators of its
devices. -/
inductive RankOp where
  | zq (rank : Fin 2)
  | osc (rank : Fin 2) (counts : List Nat)
deriving DecidableEq, Repr

/-- The symbols found in error in the two ECC words of a returning DDR5 read, beyond those that are stored in error, and
whether the location is wrong (R327). -/
structure DdrErr where
  symA    : Nat
  symB    : Nat
  address : Bool
deriving DecidableEq, Repr

/-- Which device a refresh-rate reading of mode register address 4 concerns (R322). -/
structure MrReading where
  rank : Nat
  twoX : Bool
  hot  : Bool
deriving DecidableEq, Repr

/-- Readings of one AVSBus and PMBus power sample (R380, R390): per engine rail the power in units of 0.25 W and the rail
voltage in millivolts; the power that each device on the PMBus reports, by its address. -/
structure PowerReading where
  rails : List (Nat × Nat)
  pmb   : List (BitVec 7 × Nat)
deriving DecidableEq, Repr

/-- Readings of the monitored rails in millivolts (Table 16.4). -/
structure RailMv where
  soc  : Nat
  io18 : Nat
  aon  : Nat
deriving DecidableEq, Repr

/-- The Z input of an encoder and the level sampled on it (R362). -/
structure EncZ where
  e : Fin 4
  z : Bool
deriving DecidableEq, Repr

/-- A CAN controller, and whether an error on the bus ends the frame (R373). -/
structure CanBus where
  c   : Fin 2
  err : Bool
deriving DecidableEq, Repr

/-- A CoaXPress image header: the source image count and the lines of the image (R343). -/
structure CxpHeader where
  count : BitVec 16
  lines : BitVec 24
deriving DecidableEq, Repr

/-- The commands: one constructor per row of spec/opcode_table.json. -/
inductive Instr where
  -- resets, supply and temperature
  | powerOnReset (cause : PorCause)
  | resetRelease (modeSel refclk test : Bool)
  | warmReset
  | perstEndpointReset
  | functionLevelReset
  | brownoutReset (r : RailMv)
  | dipEpisodeStart (r : RailMv) (warn : Bool)
  | dipEpisodeEnd
  | nvOperationRelease
  | thermalTrip (sensor : Fin 12) (temp : BitVec 16)
  | tlimitStep (temps : List (BitVec 16))
  | droopSuppress (ne : Fin 6)
  | droopRecover (ne : Fin 6) (pulses : Nat)
  | rootpllLock
  | bootChain (env : BootEnv)
  -- engine commands and instructions
  | commandStart (ne : Fin 6)
  | cmm (h : Issue) (c : CmmWord) (x : CxWord)
  | acmRowWrite (ne : Fin 6)
  | salu (h : Issue) (sd sa sb : Fin 64) (fn : SFn)
  | salui (h : Issue) (sd sa : Fin 64) (fn : SFn) (imm : W32)
  | lil (h : Issue) (sd : Fin 64) (imm : W32)
  | lih (h : Issue) (sd : Fin 64) (imm : W32)
  | movsp (h : Issue) (sd : Fin 64) (spr : Spr)
  | arset (h : Issue) (ak : Fin 32) (fld : AField) (src : Src32)
  | loop (h : Issue) (lvl : Fin 4) (cnt : LoopCount) (body : BitVec 16)
  | brz (h : Issue) (sa : Fin 64) (off : BitVec 20)
  | brnz (h : Issue) (sa : Fin 64) (off : BitVec 20)
  | fwait (h : Issue) (sv : Fin 64) (f : FenceSel) (dl : Fin 64)
  | fsig (h : Issue) (sv : Fin 64) (f : FenceSel)
  | phase (h : Issue) (ph : Byte)
  | end_ (h : Issue)
  | ld (h : Issue) (vd : Fin 32) (ak : Fin 32) (sz : Fin 7) (vpos : BitVec 6) (imm : W32)
  | st (h : Issue) (vs : Fin 32) (ak : Fin 32) (sz : Fin 7) (vpos : BitVec 6) (imm : W32)
  | lds (h : Issue) (sd : Fin 64) (ak : Fin 32) (imm : W32)
  | sts (h : Issue) (ss : Fin 64) (ak : Fin 32) (imm : W32)
  | rld (h : Issue) (vd : Fin 32) (sa : Fin 64) (sz : Fin 7) (vpos : BitVec 6)
  | rst (h : Issue) (vs : Fin 32) (sa : Fin 64) (sz : Fin 7) (vpos : BitVec 6)
  | fqpop (h : Issue) (vd : Fin 32) (q : Fin 8)
  | racq (h : Issue) (sd : Fin 64) (rng : Fin 8) (role : Role)
  | rrel (h : Issue) (rng : Fin 8) (role : Role)
  | biasld (h : Issue) (bb : Fin 4) (vs : Fin 32) (lq : Fin 4)
  | palwr (h : Issue) (ps : Fin 64) (tag : Format) (vs : Fin 32) (e0 : BitVec 8) (cnt : BitVec 9)
  | vop2 (h : Issue) (fn : V2Fn) (c : VCommon)
  | vfma (h : Issue) (c : VCommon)
  | vcmp (h : Issue) (fn : CmpFn) (pd : Fin 16) (c : VCommon)
  | vsel (h : Issue) (c : VCommon)
  | vcvt (h : Issue) (target : EType) (group : Fin 32) (c : VCommon)
  | vfn (h : Issue) (fn : TFn) (c : VCommon)
  | vred (h : Issue) (op : RedOp) (segs : Fin 4) (c : VCommon)
  | vperm (h : Issue) (c : VCommon)
  | vext (h : Issue) (sd : Fin 64) (va : Fin 32) (et : EType) (lane : BitVec 10)
  | vbcast (h : Issue) (sa : Fin 64) (c : VCommon)
  | plog (h : Issue) (fn : PlogFn) (pd pa pb pr : Fin 16) (zm : Bool) (sa : Fin 64)
  | drn (h : Issue) (vd : Fin 32) (pos : BitVec 5) (raw ring : Bool) (chr : Fin 64) (lpi : BitVec 10) (row : RowSel)
  | wgcfg (h : Issue) (set : Fin 4) (field : BitVec 6) (sa : Fin 64)
  | pq (h : Issue) (vd va : Fin 32) (gp : Fin 32) (pr : Fin 16) (slot : Fin 64) (sub : BitVec 4) (cb8 : Bool)
      (cntm1 : BitVec 8)
  | resultWrite (ne : Fin 6)
  | ownStorePerformed (ne : Fin 6)
  | rldReply (ne : Fin 6) (late : Nat)
  | bankGrant (ne : Fin 6) (reqs : List BankReq)
  | pentimentoDecision (h : Issue)
  | decisionBundleResume (ne : Fin 6)
  | activityRamp (ne : Fin 6) (otherStalls : List Nat)
  | clockStep (ne : Fin 6) (n : BitVec 7)
  | stopReq (w : World) (ne : Fin 6)
  | commandComplete (ne : Fin 6)
  | partStart (ne : Fin 6)
  | partEnd (ne : Fin 6)
  -- submission queues and commands
  | kick (sq : Fin 1024)
  | sqPoll (sq : Fin 1024)
  | descriptorAccept (sq : Fin 1024)
  | commandDispatch (cp : Fin 2)
  | nop (sq : Fin 1024) (seq : W32)
  | loadImage (sq : Fin 1024) (seq : W32)
  | unloadImage (sq : Fin 1024) (seq : W32)
  | run (sq : Fin 1024) (seq : W32)
  | sdmaArm (sq : Fin 1024) (seq : W32)
  | abort (sq : Fin 1024) (seq : W32)
  | window (sq : Fin 1024) (seq : W32)
  | completionWrite (cq : Fin 1024)
  | cqCoalesceTimer (cq : Fin 1024)
  -- contexts, queues, PMT
  | contextModeSelect (w : World) (mode : BitVec 2)
  | create (w : World) (ctx : BitVec 12)
  | destroy (w : World) (ctx : BitVec 12)
  | contextFreed (ctx : BitVec 12)
  | queueEnWrite (w : World) (cq : Bool) (q : Fin 1024) (cfg : W32)
  | pmtInstall (w : World)
  | pmtRemove (w : World)
  | pmtRemoveForce (w : World)
  | pmtLookup (w : World)
  | pmtRead (w : World)
  | pmtOpComplete
  | window2Access (off : BitVec 32) (a : Access)
  | configRequest (reg : BitVec 12) (wr : Option W32)
  -- fences and the deadlock probe
  | fenceSignal (sigs : List (Fin 131072 × W64))
  | fencePortSig (w : World) (p : Fin 64) (v : W64)
  | fencePortAttr (w : World) (p : Fin 64) (v : W64)
  | fenceCtxRange (w : World) (c : Fin 256) (v : W64)
  | waitDeadline (t : TaskId)
  | deadlockProbeRequest (t : TaskId)
  | deadlockProbe
  | deadlockVerdict
  -- mailboxes
  | mbxPush (w : World) (ep : Endpoint) (k : Fin 24) (data : W64)
  | mbxPop (w : World) (ep : Endpoint) (k : Fin 24)
  | mbxEnable (w : World) (k : Fin 24) (cfg : W64)
  -- streams, fetch queues and frame rings
  | sdmaChArm (w : World) (c : Fin 16) (v : W64)
  | descriptorBurstRead (c : Consumer)
  | copy (c : Fin 16)
  | mcast (c : Fin 16)
  | fill (c : Fin 16)
  | fetch (ne : Fin 6) (q : Fin 8)
  | link (c : Consumer)
  | descNop (c : Consumer)
  | fetchEntryBegin (ne : Fin 6)
  | fetchReadComplete (ne : Fin 6) (q : Fin 8)
  | queueCancel (w : World) (ne : Fin 6) (q : Fin 8)
  | creditLatchRead (w : World) (ne : Fin 6) (q : Fin 8)
  | ringEnable (w : World) (r : Fin 64)
  | ringDisable (w : World) (r : Fin 64)
  | frPortAcquire (w : World) (r : Fin 64) (role : Role) (port : Fin 8)
  | frPortRelease (w : World) (r : Fin 64) (role : Role) (port : Fin 8)
  -- gesso
  | windowOpen (w : World) (slice : Fin 6) (win : Fin 16) (rd wr : Bool)
  | windowClose (w : World) (slice : Fin 6) (win : Fin 16) (rd wr : Bool)
  | windowClosed (slice : Fin 6) (win : Fin 16)
  | remoteAccess (m : Master) (ctx : BitVec 12) (va : BitVec 48) (a : Access)
  | eccWriteBack (region : Fin 8)
  | gessoPatrolScrub
  | bistStart (w : World) (sel : Byte)
  | bistDone (fails : List BistFail)
  | gsEccInjArm (w : World) (region : Fin 8) (mode : BitVec 2)
  | slcStreamPrefetch (addr : Pa) (nopf : Bool)
  -- DDR5
  | trainingStart (w : World) (dimms : List (Option Dimm))
  | trainingDone (fail : Option (Nat × Nat))
  | ddrUse (w : World)
  | fillAdvance
  | ddrRequestArrive (addr : Pa) (wr : Bool) (data : List Byte) (origin : DdrOrigin)
  | ddrCommandIssue (ch : Fin 4) (legal : List Nat)
  | sameBankRefresh (ch : Fin 4) (rank : Fin 2)
  | modeRegisterPoll (ch : Fin 4) (readings : List MrReading)
  | zqCalibration (ch : Fin 4) (op : RankOp)
  | retryEntryRetire (ch : Fin 4)
  | alertEpisode (ch : Fin 4)
  | ddrReadReturn (ch : Fin 4) (err : DdrErr)
  | ddrCorrectionWriteback (ch : Fin 4)
  | ddrPatrolScrub
  | dmcEccInjArm (w : World) (ch : Fin 4) (mode : BitVec 2)
  -- cameras, pipelines and codecs
  | srcEnable (w : World) (psrc : Byte) (ctl : W32)
  | commit (w : World) (psrc : Byte)
  | csiFrameStart (st : Fin 32) (frame : BitVec 16)
  | csiLongPacket (port : Fin 8) (vc : BitVec 4) (dt : BitVec 6) (payload : List Byte) (crcErr held : Bool)
  | csiFrameEnd (st : Fin 32)
  | cxpImageHeader (c : Fin 8) (head : CxpHeader) (known : Bool)
  | cxpLine (c : Fin 8) (payload : List Byte) (crcErr held : Bool)
  | lfcLine (g : Fin 8)
  | ippContextSwitch (ipp : Fin 2)
  | ippStripe (ipp : Fin 2)
  | encodePicture (unit : Fin 2)
  | decodePicture
  | cxpControlGo (w : World) (c : Fin 8)
  | cxpControlAck (c : Fin 8) (ack : Byte) (data : W32)
  | cxpControlTimeout (c : Fin 8)
  -- time, Ethernet, encoders, actions, CAN
  | timeStep (w : World) (v : W64)
  | timeSecRead (w : World)
  | timeFreqWrite (w : World) (v : W32)
  | servoSample (w : World) (v : W64)
  | holdoverEnter
  | ethReceive (p : Fin 2) (frame : List Byte) (fcsErr : Bool)
  | ethTransmit (p : Fin 2)
  | encoderCount (e : Fin 4) (a b : Bool)
  | encoderIndex (e : EncZ)
  | encoderRecord (e : Fin 4)
  | speedTimeout (e : Fin 4)
  | rollJobStart (w : World) (e : Fin 4) (v : W64)
  | actionFetch (k : Fin 16)
  | actionFire
  | pulseTrailingEdge (pin : Fin 32)
  | actionChannelDisable (w : World) (k : Fin 16) (flush : Bool)
  | actionChannelDisabled (k : Fin 16)
  | canTxreq (w : World) (c : Fin 2) (v : W32)
  | canTransmit (c : CanBus)
  | canReceive (c : CanBus) (rec : List Byte)
  | canRxPop (w : World) (c : Fin 2)
  | busOffRecovery (c : Fin 2)
  -- power
  | reqnWrite (w : World) (e : Fin 6) (n : BitVec 7)
  | avsTimeout (e : Fin 6)
  | idleStateSelect (e : Fin 6)
  | idleExit (e : Fin 6)
  | powerSample (r : PowerReading)
  | allocate
  | pmcCapWrite (w : World) (v : BitVec 16)
  | powerDomainOff (d : PowerDomain)
  | powerDomainOn (d : PowerDomain)
  -- security
  | attest (k : Fin 24)
  | getCert (k : Fin 24)
  | extend (k : Fin 24)
  | flashUpdate (k : Fin 24)
  | counterAdvance (k : Fin 24)
  | keyWrite (k : Fin 24)
  | debugChallengeRead
  | debugResponseGo (resp : List Byte)
  | regionDescriptorWrite (w : World) (n : Fin 64) (cfg : Bool) (v : W64)
  | secBlkworldWrite (w : World) (v : W64)
  | secLockBlk (w : World)
  -- application cores, USB, root port, registers, links
  | hcRelease (w : World) (k : Fin 8)
  | hcHold (w : World) (k : Fin 8)
  | cluster (w : World)
  | usbAttach (speed : BitVec 2)
  | usbDetach
  | usbTransfer (ring : Fin 16) (data : List Byte) (setup : Bool)
  | pcierpCfgGo (w : World) (wr : Bool) (reg : BitVec 12)
  | apertureWrite (w : World) (off : BitVec 19) (data : List Byte)
  | inboundRequest (addr : BitVec 64) (a : Access)
  | registerWrite (w : World) (ep : Endpoint) (addr : Pa) (width : Nat) (v : W64)
  | perstNDeassertion
  | pcieLinkTraining (width speed : Nat)
  | rootPortLinkTraining (width speed : Nat)
  | pcierpCfgCompletion (ur : Bool) (data : W32)
  | pcierpCfgTimeout
  | avsVdone (e : Fin 6)
  | alertNRelease (ch : Fin 4)
  | idleExitDone (e : Fin 6)
  | serdesPllLock
deriving DecidableEq, Repr

end Sys2Proof
end

