-- ==== Sys2Proof/Machine/Formats.lean ====
section
/-! DEFINITION. Number formats, conversions and arithmetic: R33 to R45, R52, R57 to R61, R134 and R142 to R147.
A floating-point value is exact here until one function rounds it. -/

namespace Sys2Proof.Machine

open Sys2Proof

/-- Code of an operand format (Table 0.5). -/
def fmtCode : Format → Nat
  | .int4 => 0 | .int8 => 1 | .uint8 => 2 | .int16 => 3 | .e4m3 => 4 | .e5m2 => 5
  | .fp16 => 6 | .bf16 => 7 | .fp32 => 8 | .mxfp4 => 9 | .cb4 => 10 | .cb8 => 11

/-- The format of a code; codes 0xC to 0xF are reserved. -/
def fmtOfCode : Nat → Option Format
  | 0 => some .int4 | 1 => some .int8 | 2 => some .uint8 | 3 => some .int16 | 4 => some .e4m3 | 5 => some .e5m2
  | 6 => some .fp16 | 7 => some .bf16 | 8 => some .fp32 | 9 => some .mxfp4 | 10 => some .cb4 | 11 => some .cb8
  | _ => none

/-- Bits per element; for MXFP4, of the element plane. -/
def fmtBits : Format → Nat
  | .int4 | .mxfp4 | .cb4 => 4
  | .int8 | .uint8 | .e4m3 | .e5m2 | .cb8 => 8
  | .int16 | .fp16 | .bf16 => 16
  | .fp32 => 32

/-- Bits per element of a vector element type. -/
def etBits : EType → Nat
  | .int32 => 32
  | .fmt f => fmtBits f

/-- Two's complement value of the low `w` bits of `x`. -/
def sx (w x : Nat) : Int :=
  let y := x % 2 ^ w
  if y < 2 ^ (w - 1) then y else (y : Int) - 2 ^ w

/-- The low `w` bits of an integer. -/
def lowBits (w : Nat) (x : Int) : Nat := (x % (2 ^ w : Int)).toNat

/-- `x` limited to `lo .. hi`. -/
def clampI (lo hi x : Int) : Int := if x < lo then lo else if hi < x then hi else x

/-- The range of an integer element type (Table 2.1), none for the others. -/
def intRange : EType → Option (Int × Int)
  | .int32 => some (-2147483648, 2147483647)
  | .fmt .int4 => some (-8, 7)
  | .fmt .int8 => some (-128, 127)
  | .fmt .uint8 => some (0, 255)
  | .fmt .int16 => some (-32768, 32767)
  | _ => none

/-- An exact floating-point value: `fin neg m e` is (−1)^neg × m × 2^e. -/
inductive FV where
  | nan
  | inf (neg : Bool)
  | fin (neg : Bool) (m : Nat) (e : Int)
deriving DecidableEq, Repr

/-- The parameters of a floating format (Table 2.2). `maxc` is the code of the largest finite magnitude. -/
structure Flt where
  w    : Nat
  mb   : Nat
  bias : Nat
  maxc : Nat
  inf  : Option Nat
  nan  : Nat
deriving DecidableEq, Repr

def Flt.f32 : Flt := ⟨32, 23, 127, 0x7F7FFFFF, some 0x7F800000, 0x7FC00000⟩
def Flt.f16 : Flt := ⟨16, 10, 15, 0x7BFF, some 0x7C00, 0x7E00⟩
def Flt.bf16 : Flt := ⟨16, 7, 127, 0x7F7F, some 0x7F80, 0x7FC0⟩
def Flt.e5m2 : Flt := ⟨8, 2, 15, 0x7B, some 0x7C, 0x7E⟩
def Flt.e4m3 : Flt := ⟨8, 3, 7, 0x7E, none, 0x7F⟩
/-- The MXFP4 element, which has neither infinity nor NaN; its `nan` code is never produced. -/
def Flt.e2m1 : Flt := ⟨4, 1, 1, 7, none, 0⟩

/-- The floating parameters of a format; none for integers, MXFP4 blocks and codebook formats. -/
def fltOf : Format → Option Flt
  | .e4m3 => some .e4m3
  | .e5m2 => some .e5m2
  | .fp16 => some .f16
  | .bf16 => some .bf16
  | .fp32 => some .f32
  | _ => none

/-- The floating parameters of an element type. -/
def etFlt : EType → Option Flt
  | .int32 => none
  | .fmt f => fltOf f

/-- Exponent of one unit in the last place of a subnormal. -/
def Flt.qmin (f : Flt) : Int := 1 - (f.bias : Int) - (f.mb : Int)

/-- The value of a code (R35). -/
def Flt.dec (f : Flt) (code : Nat) : FV :=
  let c := code % 2 ^ f.w
  let neg := decide (2 ^ (f.w - 1) ≤ c)
  let mag := c % 2 ^ (f.w - 1)
  if f.inf = some mag then .inf neg
  else if f.w ≠ 4 ∧ f.maxc < mag then .nan
  else
    let fld := mag / 2 ^ f.mb
    let man := mag % 2 ^ f.mb
    if fld = 0 then .fin neg man f.qmin
    else .fin neg (2 ^ f.mb + man) (f.qmin + (fld : Int) - 1)

/-- `m / 2^s` rounded to the nearest integer, ties to even (R40). -/
def rneShift (m s : Nat) : Nat :=
  if s = 0 then m
  else if Nat.log2 m + 2 < s then 0
  else
    let q := m >>> s
    let r := m % 2 ^ s
    let h := 2 ^ (s - 1)
    if h < r ∨ (r = h ∧ q % 2 = 1) then q + 1 else q

/-- The magnitude code of m × 2^e rounded once with an unbounded exponent (R40, R41). A code above `maxc` is an
overflow. -/
def Flt.mag (f : Flt) (m : Nat) (e : Int) : Nat :=
  if m = 0 then 0
  else
    let top : Int := (Nat.log2 m : Int) + e
    let q : Int := max (top - (f.mb : Int)) f.qmin
    let man := if q ≤ e then m <<< (e - q).toNat else rneShift m (q - e).toNat
    (q - f.qmin).toNat * 2 ^ f.mb + man

/-- The sign bit of a code. -/
def Flt.sgn (f : Flt) (neg : Bool) : Nat := if neg then 2 ^ (f.w - 1) else 0

/-- The outcome of an overflow, Table 2.5. -/
def Flt.over (f : Flt) (ovf neg : Bool) : Nat :=
  if ovf then
    match f.inf with
    | some i => f.sgn neg + i
    | none => f.nan
  else f.sgn neg + f.maxc

/-- A finite value rounded to a code, and whether it met overflow. -/
def Flt.encFin (f : Flt) (ovf neg : Bool) (m : Nat) (e : Int) : Nat × Bool :=
  let c := f.mag m e
  if f.maxc < c then (f.over ovf neg, true) else (f.sgn neg + c, false)

/-- The code of an arithmetic result (R134): an infinity stays an infinity whatever OVF holds. -/
def Flt.enc (f : Flt) (ovf : Bool) : FV → Nat
  | .nan => f.nan
  | .inf neg => f.over true neg
  | .fin neg m e => (f.encFin ovf neg m e).1

/-- The code of a conversion's result (Table 2.4): an infinite input follows Table 2.5. -/
def Flt.conv (f : Flt) (ovf : Bool) : FV → Nat
  | .nan => f.nan
  | .inf neg => f.over ovf neg
  | .fin neg m e => (f.encFin ovf neg m e).1

/-- The signed significand of a finite value at exponent `e0`, where `e0` is at most the value's exponent. -/
def sig (neg : Bool) (m : Nat) (e e0 : Int) : Int :=
  let x : Int := ((m <<< (e - e0).toNat : Nat) : Int)
  if neg then -x else x

/-- The exact value of an integer significand at exponent `e`; `z` is the sign of a zero. -/
def FV.ofInt (z : Bool) (x e : Int) : FV :=
  if x = 0 then .fin z 0 e else .fin (decide (x < 0)) x.natAbs e

def FV.neg : FV → FV
  | .nan => .nan
  | .inf s => .inf (!s)
  | .fin s m e => .fin (!s) m e

def FV.abs : FV → FV
  | .nan => .nan
  | .inf _ => .inf false
  | .fin _ m e => .fin false m e

/-- Exact sum (R134): opposite infinities give NaN, an exact zero of opposite signs is +0. -/
def FV.add : FV → FV → FV
  | .nan, _ => .nan
  | _, .nan => .nan
  | .inf a, .inf b => if a = b then .inf a else .nan
  | .inf a, _ => .inf a
  | _, .inf b => .inf b
  | .fin s m e, .fin s' m' e' =>
    let e0 := min e e'
    FV.ofInt (s && s') (sig s m e e0 + sig s' m' e' e0) e0

/-- Exact product (R134): zero times infinity gives NaN. -/
def FV.mul : FV → FV → FV
  | .nan, _ => .nan
  | _, .nan => .nan
  | .inf a, .inf b => .inf (a != b)
  | .inf a, .fin s m _ => if m = 0 then .nan else .inf (a != s)
  | .fin s m _, .inf a => if m = 0 then .nan else .inf (a != s)
  | .fin s m e, .fin s' m' e' => .fin (s != s') (m * m') (e + e')

/-- `a < b` for values that are not NaN; `z` makes −0 less than +0. -/
def FV.lt (z : Bool) : FV → FV → Bool
  | .nan, _ => false
  | _, .nan => false
  | .inf a, .inf b => a && !b
  | .inf a, _ => a
  | _, .inf b => !b
  | .fin s m e, .fin s' m' e' =>
    if m = 0 ∧ m' = 0 then z && s && !s'
    else
      let e0 := min e e'
      decide (sig s m e e0 < sig s' m' e' e0)

/-- The value rounded to an integer, ties to even; none for NaN and infinities. -/
def FV.toInt : FV → Option Int
  | .fin s m e =>
    let x : Int := if 0 ≤ e then ((m <<< e.toNat : Nat) : Int) else ((rneShift m (-e).toNat : Nat) : Int)
    some (if s then -x else x)
  | _ => none

/-- Float to integer (Table 2.4): NaN gives 0, infinities and values out of range saturate; the flag says saturated. -/
def FV.toIntSat (lo hi : Int) (v : FV) : Int × Bool :=
  match v with
  | .nan => (0, false)
  | .inf s => (if s then lo else hi, true)
  | .fin .. =>
    match v.toInt with
    | some x => (clampI lo hi x, decide (x < lo ∨ hi < x))
    | none => (0, false)

/-- The value of a finite E2M1 element (Table 2.3) under a scale byte (R38). -/
def mxVal (scale code : Nat) : FV :=
  if scale % 256 = 255 then .nan
  else
    match Flt.e2m1.dec code with
    | .fin s m e => .fin s m (e + (scale % 256 : Nat) - 127)
    | v => v

/-- The value of an element as an exact float: integers exactly, floats by their code. MXFP4 needs its scale and is not
read here; codebook codes carry no value. -/
def elemVal (t : EType) (code : Nat) : FV :=
  match etFlt t with
  | some f => f.dec code
  | none =>
    match t with
    | .fmt .uint8 => .fin false (code % 256) 0
    | _ => FV.ofInt false (sx (etBits t) code) 0

/-- The integer value of an element of an integer type. -/
def elemInt (t : EType) (code : Nat) : Int :=
  match t with
  | .fmt .uint8 => (code % 256 : Nat)
  | _ => sx (etBits t) code

/-- Conversion of one element (Table 2.4). A wider integer takes the value sign-extended, so that a negative INT4 gives UINT8 its
low eight bits. Between float formats of equal width, which the table does not list, the narrower
row applies: an infinite input follows OVF (DESIGN CHOICE, log entry 63). -/
def convElem (src dst : EType) (ovf : Bool) (code : Nat) : Nat :=
  match intRange dst with
  | some (lo, hi) =>
    match intRange src with
    | some _ =>
      lowBits (etBits dst) (if etBits src < etBits dst then elemInt src code else clampI lo hi (elemInt src code))
    | none => lowBits (etBits dst) ((elemVal src code).toIntSat lo hi).1
  | none =>
    match etFlt dst with
    | some f =>
      if etBits src < etBits dst ∧ (intRange src).isNone then f.enc ovf (elemVal src code)
      else f.conv ovf (elemVal src code)
    | none => 0

/-- Conversion of an exact value to an element (an MXFP4 source). -/
def convVal (dst : EType) (ovf : Bool) (v : FV) : Nat :=
  match intRange dst with
  | some (lo, hi) => lowBits (etBits dst) (v.toIntSat lo hi).1
  | none =>
    match etFlt dst with
    | some f => f.conv ovf v
    | none => 0

/-! ### FP32 operations whose overflow gives infinity -/

def dec32 (c : Nat) : FV := Flt.f32.dec c
def enc32 (v : FV) : Nat := Flt.f32.enc true v
def fadd (a b : Nat) : Nat := enc32 ((dec32 a).add (dec32 b))
def fsub (a b : Nat) : Nat := enc32 ((dec32 a).add (dec32 b).neg)
def fmul (a b : Nat) : Nat := enc32 ((dec32 a).mul (dec32 b))
def ffma (a b c : Nat) : Nat := enc32 (((dec32 a).mul (dec32 b)).add (dec32 c))
def fneg (a : Nat) : Nat := enc32 (dec32 a).neg

/-- Largest `r` with r × r ≤ n, by binary digits from bit `k` down. -/
def isqrtAux (n : Nat) : Nat → Nat → Nat
  | 0, r => r
  | k + 1, r =>
    let r' := r + 2 ^ k
    isqrtAux n k (if r' * r' ≤ n then r' else r)

/-- RCP as an exact-enough value: the quotient to 60 binary places with a sticky bit below it (R145). -/
def rcpVal : FV → FV
  | .nan => .nan
  | .inf s => .fin s 0 0
  | .fin s m e =>
    if m = 0 then .inf s
    else
      let q := 2 ^ 60 / m
      .fin s (2 * q + if q * m = 2 ^ 60 then 0 else 1) (-61 - e)

/-- RSQRT likewise (R145, Table 5.11). -/
def rsqrtVal : FV → FV
  | .nan => .nan
  | .inf s => if s then .nan else .fin false 0 0
  | .fin s m e =>
    if m = 0 then .inf s
    else if s then .nan
    else
      let m' := if e % 2 = 0 then m else 2 * m
      let e' := if e % 2 = 0 then e else e - 1
      let t := isqrtAux (2 ^ 120 / m') 61 0
      .fin false (2 * t + if t * t * m' = 2 ^ 120 then 0 else 1) (-61 - e' / 2)

/-- Whether a value is a finite number. -/
def FV.isFin : FV → Bool
  | .fin .. => true
  | _ => false

/-- EXP2 before its last rounding (R143, Table 5.11). The coefficient c6 is that of the expression (ln 2)⁶/6!, which the printed
decimal misses by one unit of the last place (DESIGN CHOICE, log entry 90). -/
def exp2Val (x : Nat) : FV :=
  match dec32 x with
  | .nan => .nan
  | .inf s => if s then .fin false 0 0 else .inf false
  | .fin s m e =>
    match (FV.fin s m e).toInt with
    | none => .nan
    | some n =>
      let f := enc32 ((FV.fin s m e).add (FV.ofInt false (-n) 0))
      let p := ffma 0x39218489 f 0x3AAEC3FF
      let p := ffma p f 0x3C1D955B
      let p := ffma p f 0x3D635847
      let p := ffma p f 0x3E75FDF0
      let p := ffma p f 0x3F317218
      let p := ffma p f 0x3F800000
      match dec32 p with
      | .fin s' m' e' => .fin s' m' (e' + n)
      | v => v

/-- EXP2 with an overflow mode (R142). -/
def exp2 (ovf : Bool) (x : Nat) : Nat := Flt.f32.enc ovf (exp2Val x)
/-- RCP with an overflow mode (R142). -/
def rcp (ovf : Bool) (x : Nat) : Nat := Flt.f32.enc ovf (rcpVal (dec32 x))
def rsqrt (x : Nat) : Nat := enc32 (rsqrtVal (dec32 x))

/-- LOG2 (R144, Table 5.11). -/
def log2f (x : Nat) : Nat :=
  match dec32 x with
  | .nan => 0x7FC00000
  | .inf s => if s then 0x7FC00000 else 0x7F800000
  | .fin s m e =>
    if m = 0 then 0xFF800000
    else if s then 0x7FC00000
    else
      let l := Nat.log2 m
      let mc := enc32 (.fin false m (-(l : Int)))
      let big := decide (0x3FB504F3 ≤ mc)
      let mm := if big then enc32 (.fin false m (-(l : Int) - 1)) else mc
      let ee : Int := (l : Int) + e + if big then 1 else 0
      let t := fmul (fsub mm 0x3F800000) (rcp true (fadd mm 0x3F800000))
      let q := fmul t t
      let p := ffma q 0x3EA4258A 0x3ED30BB1
      let p := ffma q p 0x3F13BB63
      let p := ffma q p 0x3F76384F
      let p := ffma q p 0x4038AA3B
      ffma t p (enc32 (FV.ofInt false ee 0))

/-- Magnitude code and sign of an FP32 code. -/
def absCode (x : Nat) : Nat := x % 2 ^ 31
def signCode (x : Nat) : Nat := (x / 2 ^ 31 % 2) * 2 ^ 31

/-- TANH (R146, Table 5.11). -/
def tanhf (x : Nat) : Nat :=
  match dec32 x with
  | .nan => 0x7FC00000
  | .inf s => if s then 0xBF800000 else 0x3F800000
  | .fin .. =>
    let a := absCode x
    if a < 0x39800000 then x
    else if a < 0x3E800000 then
      let q := fmul x x
      let p := ffma q 0xBC11371B 0x3CB327A4
      let p := ffma q p 0xBD5D0DD1
      let p := ffma q p 0x3E088889
      let p := ffma q p 0xBEAAAAAB
      ffma x (fmul p q) x
    else if a < 0x41180000 then
      let u := exp2 true (fmul a 0x4038AA3B)
      let w := rcp true (fadd u 0x3F800000)
      signCode x + absCode (ffma 0xC0000000 w 0x3F800000)
    else signCode x + 0x3F800000

/-- SIGMOID (R147). -/
def sigmoidf (u : Nat) : Nat :=
  rcp true (fadd 0x3F800000 (exp2 true (fmul (fneg u) 0x3FB8AA3B)))

/-- SILU (R147). -/
def siluf (u : Nat) : Nat := if u = 0xFF800000 then 0x80000000 else fmul u (sigmoidf u)

/-- GELU_TANH (R147). -/
def geluf (u : Nat) : Nat :=
  if u = 0xFF800000 then 0x80000000
  else
    let q := fmul u u
    let y := ffma 0x3D372713 q 0x3F800000
    let z := fmul u y
    let h := tanhf (fmul 0x3F4C422A z)
    let g := fmul 0x3F000000 u
    ffma g h g

/-- MIN and MAX of R134: NaN if either is NaN; −0 is less than +0. -/
def FV.pick (wantMax : Bool) (a b : FV) : FV :=
  match a, b with
  | .nan, _ => .nan
  | _, .nan => .nan
  | _, _ => if FV.lt true a b = wantMax then b else a

/-- The activation functions of Table 2.10, on FP32 codes. -/
def activate (act arg0 arg1 u : Nat) : Nat :=
  match dec32 u with
  | .nan => 0x7FC00000
  | v =>
    match act with
    | 0 => u
    | 1 => if FV.lt false (.fin false 0 0) v then u else 0
    | 2 => enc32 (FV.pick false (FV.pick true v (dec32 arg0)) (dec32 arg1))
    | 3 => if FV.lt false v (.fin false 0 0) then fmul u arg0 else u
    | 4 => sigmoidf u
    | 5 => tanhf u
    | 6 => siluf u
    | _ => geluf u

/-! ### Lanes -/

/-- The elements of a register of `n` elements of `w` bits. -/
def unpack (w n v : Nat) : List Nat := (List.range n).map fun i => (v >>> (i * w)) % 2 ^ w

/-- Elements of `w` bits packed from element 0 up. -/
def pack (w : Nat) : List Nat → Nat
  | [] => 0
  | x :: xs => x % 2 ^ w + 2 ^ w * pack w xs

/-- Bits `pos .. pos + len − 1` set. -/
def maskAt (pos len : Nat) : Nat := (2 ^ len - 1) <<< pos

/-! ### Vector arithmetic on one element -/

/-- Bitwise and shift functions act on patterns; the shift amount is taken modulo the element width (R134). -/
def patOp (fn : V2Fn) (w a b : Nat) : Option Nat :=
  match fn with
  | .and => some (a &&& b)
  | .or => some (a ||| b)
  | .xor => some (a ^^^ b)
  | .shl => some ((a <<< (b % w)) % 2 ^ w)
  | .shr => some (a >>> (b % w))
  | .sra => some (lowBits w (sx w a / 2 ^ (b % w)))
  | _ => none

/-- Integer arithmetic saturates to the element type's range (R134). -/
def intOp (fn : V2Fn) (a b : Int) : Int :=
  match fn with
  | .add => a + b
  | .sub => a - b
  | .mul => a * b
  | .min => min a b
  | .max => max a b
  | _ => ((a - b).natAbs : Int)

/-- Float arithmetic forms the exact result (R134). -/
def fltOp (fn : V2Fn) (a b : FV) : FV :=
  match fn with
  | .add => a.add b
  | .sub => a.add b.neg
  | .mul => a.mul b
  | .min => FV.pick false a b
  | .max => FV.pick true a b
  | _ => (a.add b.neg).abs

/-- One element of VOP2. -/
def vop2Elem (fn : V2Fn) (t : EType) (ovf : Bool) (a b : Nat) : Nat :=
  match patOp fn (etBits t) a b with
  | some r => r
  | none =>
    match intRange t with
    | some (lo, hi) => lowBits (etBits t) (clampI lo hi (intOp fn (elemInt t a) (elemInt t b)))
    | none =>
      match etFlt t with
      | some f => f.enc ovf (fltOp fn (f.dec a) (f.dec b))
      | none => 0

/-- One element of VFMA. -/
def vfmaElem (t : EType) (ovf : Bool) (a b c : Nat) : Nat :=
  match intRange t with
  | some (lo, hi) => lowBits (etBits t) (clampI lo hi (elemInt t a * elemInt t b + elemInt t c))
  | none =>
    match etFlt t with
    | some f => f.enc ovf (((f.dec a).mul (f.dec b)).add (f.dec c))
    | none => 0

/-- One lane of VCMP: FP32 by IEEE 754, INT32 signed. -/
def vcmpElem (fn : CmpFn) (t : EType) (a b : Nat) : Bool :=
  let (lt, gt, eq, un) : Bool × Bool × Bool × Bool :=
    match etFlt t with
    | some f =>
      let x := f.dec a
      let y := f.dec b
      let l := FV.lt false x y
      let g := FV.lt false y x
      let u := decide (x = .nan ∨ y = .nan)
      (l, g, !l && !g && !u, u)
    | none =>
      let x := elemInt t a
      let y := elemInt t b
      (decide (x < y), decide (y < x), decide (x = y), false)
  match fn with
  | .eq => eq
  | .ne => !eq
  | .lt => lt
  | .le => (lt || eq) && !un
  | .gt => gt
  | .ge => (gt || eq) && !un

/-- One element of VFN (R142 to R147). -/
def vfnElem (fn : TFn) (ovf : Bool) (x : Nat) : Nat :=
  match fn with
  | .exp2 => exp2 ovf x
  | .log2 => log2f x
  | .rcp => rcp ovf x
  | .rsqrt => rsqrt x
  | .tanh => tanhf x
  | .sigmoid => sigmoidf x
  | .silu => siluf x
  | .gelu => geluf x

/-! ### Palette-quantise and MXFP4 encoding -/

/-- A palette entry in its slot tag's format (Table 2.7), as an exact value. -/
def palVal (tag entry : Nat) : FV :=
  match fmtOfCode tag with
  | some .int8 => FV.ofInt false (sx 8 entry) 0
  | some f =>
    match fltOf f with
    | some p => p.dec entry
    | none => .nan
  | none => .nan

/-- The code of `x` against the entries of a palette (R52): the number of midpoints with x > midpoint. -/
def pqCode (tag : Nat) (entries : List Nat) (x : Nat) : Nat :=
  match dec32 x with
  | .nan => 0
  | v =>
    let vals := entries.map (palVal tag)
    let mids := (vals.zip vals.tail).map fun p => dec32 (enc32 ((p.1.add p.2).mul (.fin false 1 (-1))))
    (mids.filter fun m => FV.lt false m v).length

/-- Largest of the magnitudes of finite values, as m × 2^e. -/
def amax : List FV → Nat × Int
  | [] => (0, 0)
  | .fin _ m e :: t =>
    let r := amax t
    if FV.lt false (.fin false r.1 r.2) (.fin false m e) then (m, e) else r
  | _ :: t => amax t

/-- The scale byte, the element codes and the saturation marks of one block (R60). -/
def mxEncode (w : List FV) : Nat × List (Nat × Bool) :=
  if w.any fun v => !v.isFin then (255, w.map fun _ => (0, false))
  else
    let a := amax w
    let sc : Nat :=
      if a.1 = 0 then 127
      else (clampI 0 254 ((Nat.log2 a.1 : Int) + a.2 - 2 + 127)).toNat
    (sc, w.map fun v =>
      match v with
      | .fin s m e => Flt.e2m1.encFin false s m (e - ((sc : Int) - 127))
      | _ => (0, false))

/-- Least value that carries one requantised output: its code, whether it saturated and whether it lies in the guard
band (R58, R59, R169). -/
structure Requant where
  code : Nat
  sat  : Bool
  head : Bool
deriving DecidableEq, Repr

/-- The layer parameters that the drain reads (Table 7.2). -/
structure LayerBlk where
  invS  : Nat
  zx    : Int
  zy    : Int
  qmin  : Int
  qmax  : Int
  arg0  : Nat
  arg1  : Nat
  tfmt  : Nat
  ovf   : Bool
  act   : Nat
  pslot : Nat
  psub  : Nat
  pcnt  : Nat
  mmode : Nat
  guardB : Nat
  satThr : Nat
  headThr : Nat
  nanLim : Nat
  minOuts : Nat
  ch0   : Nat
  nch   : Nat
  dec   : Nat
  alt   : Nat
  altLpi : Nat
  rrLatest : Nat
  start : Nat
  in0   : Nat × Nat
  in1   : Nat × Nat
  inRings : Nat
deriving DecidableEq, Repr

/-- Whether |w| is at least `lim` scaled by 2^(−g) (R169). -/
def headroom (lim : FV) (g : Nat) (w : FV) : Bool :=
  match w, lim with
  | .nan, _ => false
  | .inf _, _ => true
  | .fin _ m e, .fin _ lm le => !FV.lt false (.fin false m e) (.fin false lm (le - (g : Int)))
  | _, _ => false

/-- Requantisation of v to the layer's target, except for MXFP4 and codebook targets (R58, R59). -/
def requant (b : LayerBlk) (v : Nat) : Requant :=
  let w := fmul v b.invS
  match fmtOfCode b.tfmt with
  | some f =>
    match intRange (.fmt f) with
    | some _ =>
      let k := (dec32 w).toIntSat (-2147483648) 2147483647
      let t := clampI (-2147483648) 2147483647 (k.1 + b.zy)
      let q := clampI b.qmin b.qmax t
      ⟨lowBits (fmtBits f) q, k.2 || decide (q ≠ t), decide (b.qmax - b.guardB ≤ t ∨ t ≤ b.qmin + b.guardB)⟩
    | none =>
      match fltOf f with
      | some p =>
        let wv := dec32 w
        let big := match wv with
          | .inf _ => true
          | .fin s m e => (p.encFin b.ovf s m e).2
          | .nan => false
        ⟨p.conv b.ovf wv, big && decide (dec32 v ≠ .nan), headroom (p.dec p.maxc) b.guardB wv⟩
      | none => ⟨0, false, false⟩
  | none => ⟨0, false, false⟩

end Sys2Proof.Machine
end

