-- ==== Sys2Proof/WellFormed.lean ====
section
/-! DEFINITION. Which engine instructions a program can hold: the field values and combinations that chapter 5 forbids
at decode (R119) and the operand pairs, shapes and palettes that the loader verifier rejects by their immediate fields
(R42, R47, R49, R80, R81, R82, R160). Every other command is well formed for every operand. -/

namespace Sys2Proof

open Machine

/-- The arithmetic element types of R133. -/
def EType.arith : EType → Bool
  | .int32 => true
  | .fmt .int4 | .fmt .mxfp4 | .fmt .cb4 | .fmt .cb8 => false
  | .fmt _ => true

/-- FP32 or INT32. -/
def EType.wide : EType → Bool
  | .int32 | .fmt .fp32 => true
  | _ => false

/-- Formats of codebook codes. -/
def Format.isCb : Format → Bool
  | .cb4 | .cb8 => true
  | _ => false

/-- The five slot tags of Table 2.7. -/
def Format.isTag : Format → Bool
  | .int8 | .e4m3 | .e5m2 | .fp16 | .bf16 => true
  | _ => false

/-- 8-bit floating formats. -/
def Format.isFp8 : Format → Bool
  | .e4m3 | .e5m2 => true
  | _ => false

/-- 8-bit integer formats. -/
def Format.isInt8 : Format → Bool
  | .int8 | .uint8 => true
  | _ => false

/-- The operand pairs of Table 2.6: stationary and streaming format. -/
def pairOk (s x : Format) : Bool :=
  match s, x with
  | .int4, .int4 => true
  | .int16, .int16 => true
  | .fp16, .fp16 => true
  | .bf16, .bf16 => true
  | .mxfp4, .mxfp4 => true
  | .uint8, .uint8 => false
  | .int4, x => x.isInt8
  | s, .int4 => s.isInt8
  | s, x => (s.isInt8 && x.isInt8) || (s.isFp8 && x.isFp8)

/-- Planes of an operand (R123). -/
def planes (f : Format) (cplx : Bool) : Nat := (if f = .mxfp4 then 2 else 1) * (if cplx then 2 else 1)

/-- The value of a size field that is an immediate. -/
def SizeField.imm? : SizeField → Option Nat
  | .imm v => some v.toNat
  | .reg _ => none

/-- Whether a size field is an immediate that is at most `n`. -/
def SizeField.immLe (f : SizeField) (n : Nat) : Bool :=
  match f.imm? with
  | some v => decide (v ≤ n)
  | none => false

/-- Whether a size field, where it is an immediate, is at most `n`. -/
def SizeField.leIfImm (f : SizeField) (n : Nat) : Bool :=
  match f.imm? with
  | some v => decide (v ≤ n)
  | none => true

/-- A Canvas instruction's words (R42, R49, R80 to R82, R119, R121 to R125, R160). -/
def cmmOk (c : CmmWord) (x : CxWord) : Bool :=
  c.sfmt != .fp32 && c.xfmt != .fp32 && !c.xfmt.isCb &&
  (c.sfmt.isCb || pairOk c.sfmt c.xfmt) &&
  (!c.sfmt.isCb || c.xfmt.isInt8 || c.xfmt == .int4 || c.xfmt.isFp8 || c.xfmt == .fp16 || c.xfmt == .bf16) &&
  (!c.complex || (c.sfmt != .int16 && c.xfmt != .int16)) &&
  (!c.reuse || (c.ksz.immLe 256 && c.nsz.immLe 256 && c.sfmt != .int16 && !c.complex)) &&
  (!c.ring || (c.ksz.immLe 256 && c.nsz.immLe 256 && c.sfmt != .int16 && !c.complex && c.init != .keep)) &&
  (!c.scat || (x.xwg && c.nsz.leIfImm 256 && c.sfmt != .int16 && !c.ring && !c.complex && !c.reuse)) &&
  (c.reuse || decide (x.wa.val + planes c.sfmt c.complex ≤ 32)) &&
  (x.xwg || decide (x.xa.val + planes c.xfmt c.complex ≤ 32)) &&
  (!(c.sfmt == .cb8 && c.psel) || decide (x.pslot.toNat ≤ 48))

/-- Bytes of an SZ field (R129). -/
def szBytes (sz : Nat) : Nat := 64 * 2 ^ sz

/-- Source element width and target element width of VCVT, with the group limit (R135). -/
def vcvtOk (target : EType) (g : Nat) (c : VCommon) : Bool :=
  c.et != target && c.vc == 0 &&
  c.et != .fmt .cb4 && c.et != .fmt .cb8 && target != .fmt .cb4 && target != .fmt .cb8 &&
  decide (g < max (etBits c.et) (etBits target) / min (etBits c.et) (etBits target)) &&
  (target != .fmt .mxfp4 || c.vd != 31) && (c.et != .fmt .mxfp4 || c.va != 31)

/-- Whether an engine program can hold the instruction (DEDUCED, log entry 57). -/
def Instr.wf : Instr → Bool
  | .cmm _ c x => cmmOk c x
  | .loop _ _ _ body => body != 0
  | .brz _ _ off => off != 0
  | .brnz _ _ off => off != 0
  | .ld _ _ _ sz vpos _ => decide (vpos.toNat * 64 + szBytes sz ≤ 4096)
  | .st _ _ _ sz vpos _ => decide (vpos.toNat * 64 + szBytes sz ≤ 4096)
  | .rld _ _ _ sz vpos => decide (vpos.toNat * 64 + szBytes sz ≤ 4096)
  | .rst _ _ _ sz vpos => decide (vpos.toNat * 64 + szBytes sz ≤ 4096)
  | .palwr _ _ tag _ e0 cnt => tag.isTag && decide (1 ≤ cnt.toNat ∧ e0.toNat + cnt.toNat ≤ 256)
  | .vop2 _ _ c => c.et.arith
  | .vfma _ c => c.et.arith
  | .vcmp _ _ _ c => c.et.wide && c.vd == 0
  | .vsel _ c => c.et.arith
  | .vcvt _ target g c => vcvtOk target g c
  | .vfn _ _ c => c.et == .fmt .fp32
  | .vred _ _ _ c => c.et.wide
  | .vperm _ c => c.et.arith
  | .vext _ _ _ et _ => et.arith
  | .vbcast _ _ c => c.et.arith
  | .drn _ _ pos raw _ chr lpi _ => !raw || (chr == 0 && lpi == 0 && decide (pos.toNat ≤ 3))
  | .wgcfg _ _ field _ => decide (field.toNat ≤ 0x25)
  | .pq _ _ _ gp _ _ _ cb8 cntm1 =>
    if cb8 then decide (gp.val ≤ 3 ∧ 1 ≤ cntm1.toNat) else decide (gp.val ≤ 7 ∧ 1 ≤ cntm1.toNat ∧ cntm1.toNat ≤ 15)
  | _ => true

end Sys2Proof
end

