-- ==== Sys2Proof/Decode.lean ====
section
/-! DEFINITION. The 64-bit instruction words of an engine bundle (R118, R119, Tables 5.1 to 5.7): an encoder for every
engine instruction, a decoder total on every word that answers none for a reserved or forbidden one, and
`decodeTableWord`. No row of the opcode table gives bits, so `decodeTableWord` answers none. -/

namespace Sys2Proof

open Machine

/-- A word cut into fields from bit 0 up; the last element is what lies above them. -/
def splitW : List Nat → Nat → List Nat
  | [], w => [w]
  | k :: ks, w => w % 2 ^ k :: splitW ks (w / 2 ^ k)

/-- Fields, each with its width, joined from bit 0 up. -/
def joinW : List (Nat × Nat) → Nat
  | [] => 0
  | (k, v) :: t => v + 2 ^ k * joinW t

def fin (n : Nat) [NeZero n] (x : Nat) : Fin n := Fin.ofNat n x

def bitN (b : Bool) : Nat := if b then 1 else 0

/-! ### Codes of enumerated fields -/

def SFn.code : SFn → Nat
  | .add => 0 | .sub => 1 | .and => 2 | .or => 3 | .xor => 4 | .shl => 5 | .shr => 6 | .sra => 7
  | .mul => 8 | .min => 9 | .max => 10 | .minu => 11 | .maxu => 12 | .slt => 13 | .sltu => 14

def SFn.ofCode : Nat → Option SFn
  | 0 => some .add | 1 => some .sub | 2 => some .and | 3 => some .or | 4 => some .xor | 5 => some .shl
  | 6 => some .shr | 7 => some .sra | 8 => some .mul | 9 => some .min | 10 => some .max | 11 => some .minu
  | 12 => some .maxu | 13 => some .slt | 14 => some .sltu | _ => none

def V2Fn.code : V2Fn → Nat
  | .add => 0 | .sub => 1 | .mul => 2 | .min => 3 | .max => 4 | .and => 5 | .or => 6 | .xor => 7
  | .shl => 8 | .shr => 9 | .sra => 10 | .absdiff => 11

def V2Fn.ofCode : Nat → Option V2Fn
  | 0 => some .add | 1 => some .sub | 2 => some .mul | 3 => some .min | 4 => some .max | 5 => some .and
  | 6 => some .or | 7 => some .xor | 8 => some .shl | 9 => some .shr | 10 => some .sra | 11 => some .absdiff
  | _ => none

def CmpFn.code : CmpFn → Nat
  | .eq => 0 | .ne => 1 | .lt => 2 | .le => 3 | .gt => 4 | .ge => 5

def CmpFn.ofCode : Nat → Option CmpFn
  | 0 => some .eq | 1 => some .ne | 2 => some .lt | 3 => some .le | 4 => some .gt | 5 => some .ge | _ => none

def TFn.code : TFn → Nat
  | .exp2 => 0 | .log2 => 1 | .rcp => 2 | .rsqrt => 3 | .tanh => 4 | .sigmoid => 5 | .silu => 6 | .gelu => 7

def TFn.ofCode : Nat → Option TFn
  | 0 => some .exp2 | 1 => some .log2 | 2 => some .rcp | 3 => some .rsqrt | 4 => some .tanh | 5 => some .sigmoid
  | 6 => some .silu | 7 => some .gelu | _ => none

def RedOp.code : RedOp → Nat
  | .sum => 0 | .max => 1 | .min => 2 | .argmax => 3 | .argmin => 4

def RedOp.ofCode : Nat → Option RedOp
  | 0 => some .sum | 1 => some .max | 2 => some .min | 3 => some .argmax | 4 => some .argmin | _ => none

def PlogFn.code : PlogFn → Nat
  | .and => 0 | .or => 1 | .xor => 2 | .andn => 3 | .not => 4 | .firstn => 5

def PlogFn.ofCode : Nat → Option PlogFn
  | 0 => some .and | 1 => some .or | 2 => some .xor | 3 => some .andn | 4 => some .not | 5 => some .firstn | _ => none

def Spr.code : Spr → Nat
  | .engid => 0 | .clkn => 1 | .ctxid => 2 | .cycle => 3 | .phaseid => 4

def Spr.ofCode : Nat → Option Spr
  | 0 => some .engid | 1 => some .clkn | 2 => some .ctxid | 3 => some .cycle | 4 => some .phaseid | _ => none

def AField.code : AField → Nat
  | .base => 0 | .stride i => 1 + i.val | .bound => 5

def AField.ofCode : Nat → Option AField
  | 0 => some .base | 1 => some (.stride 0) | 2 => some (.stride 1) | 3 => some (.stride 2) | 4 => some (.stride 3)
  | 5 => some .bound | _ => none

/-- ET and VCVT target codes: bit 4 selects INT32 (Table 5.6, R135). -/
def EType.code : EType → Nat
  | .int32 => 16
  | .fmt f => fmtCode f

def EType.ofCode (c : Nat) : Option EType := if c = 16 then some .int32 else (fmtOfCode c).map .fmt

def InitMode.code : InitMode → Nat
  | .keep => 0 | .zero => 1 | .bias b => 4 + b.val

def InitMode.ofCode : Nat → Option InitMode
  | 0 => some .keep | 1 => some .zero | 4 => some (.bias 0) | 5 => some (.bias 1) | 6 => some (.bias 2)
  | 7 => some (.bias 3) | _ => none

def Role.code : Role → Nat
  | .consumer => 0 | .producer => 1

def Role.ofCode (c : Nat) : Role := if c = 0 then .consumer else .producer

def SizeField.code : SizeField → Nat
  | .imm v => v.toNat
  | .reg r => 4096 + r.val

def SizeField.ofCode (c : Nat) : Option SizeField :=
  if c < 4096 then some (.imm (BitVec.ofNat 12 c))
  else if c < 4096 + 64 then some (.reg (fin 64 (c - 4096)))
  else none

/-! ### Slot C and CX -/

def encodeCmm (c : CmmWord) : Nat :=
  joinW [(8, 0x10), (4, fmtCode c.sfmt), (4, fmtCode c.xfmt), (13, c.msz.code), (13, c.ksz.code), (13, c.nsz.code),
    (3, c.init.code), (1, bitN c.reuse), (1, bitN c.complex), (1, bitN c.ring), (1, bitN c.psel), (1, bitN c.scat)]

def decodeCmm (w : Nat) : Option CmmWord :=
  match splitW [8, 4, 4, 13, 13, 13, 3, 1, 1, 1, 1, 1] w with
  | [0x10, sf, xf, m, k, n, ini, re, co, ri, ps, sc, 0] => do
    let sfmt ← fmtOfCode sf
    let xfmt ← fmtOfCode xf
    let msz ← SizeField.ofCode m
    let ksz ← SizeField.ofCode k
    let nsz ← SizeField.ofCode n
    let init ← InitMode.ofCode ini
    some { scat := sc == 1, psel := ps == 1, ring := ri == 1, complex := co == 1, reuse := re == 1, init := init,
           nsz := nsz, ksz := ksz, msz := msz, xfmt := xfmt, sfmt := sfmt }
  | _ => none

def RingLen.code : RingLen → Nat
  | .imm v => v.toNat
  | .reg r => r.val

def RingLen.rlr : RingLen → Nat
  | .imm _ => 0
  | .reg _ => 1

def encodeCx (x : CxWord) : Nat :=
  joinW [(8, 0x3E), (5, x.wa.val), (5, x.xa.val), (1, bitN x.xwg), (2, x.wgs.val), (12, x.acmb.toNat),
    (8, x.ringl.code), (4, x.maskp.val), (6, x.pslot.toNat), (4, x.psub.toNat), (1, x.ringl.rlr)]

def decodeCx (w : Nat) : Option CxWord :=
  match splitW [8, 5, 5, 1, 2, 12, 8, 4, 6, 4, 1] w with
  | [0x3E, wa, xa, xwg, wgs, acmb, ringl, mp, psl, psu, rlr, 0] =>
    let mk (r : RingLen) : CxWord :=
      { ringl := r, psub := BitVec.ofNat 4 psu, pslot := BitVec.ofNat 6 psl, maskp := fin 16 mp,
        acmb := BitVec.ofNat 12 acmb, wgs := fin 4 wgs, xwg := xwg == 1, xa := fin 32 xa, wa := fin 32 wa }
    if rlr = 0 then some (mk (.imm (BitVec.ofNat 8 ringl)))
    else if ringl < 64 then some (mk (.reg (fin 64 ringl)))
    else none
  | _ => none

/-! ### Slots A, M and V -/

/-- The common V-slot fields with their FUNCT and the instruction's own bits above bit 44 (Table 5.6). -/
def encV (opc funct : Nat) (vd vc : Nat) (c : VCommon) (hi : List (Nat × Nat)) : Nat :=
  joinW ([(8, opc), (5, c.et.code), (5, vd), (5, c.va.val), (5, c.vb.val), (5, vc), (4, c.pr.val), (6, funct),
    (1, bitN c.ovf), (1, bitN c.zm)] ++ hi)

/-- The word of an engine instruction other than CMM (DESIGN CHOICE, log entry 3). -/
def encodeWord : Instr → Option (Slot × Nat)
  | .salu _ sd sa sb fn => some (.a, joinW [(8, 0x20), (6, sd.val), (6, sa.val), (6, sb.val), (4, fn.code)])
  | .salui _ sd sa fn imm =>
    some (.a, joinW [(8, 0x21), (6, sd.val), (6, sa.val), (6, 0), (4, fn.code), (2, 0), (32, imm.toNat)])
  | .lil _ sd imm => some (.a, joinW [(8, 0x22), (6, sd.val), (18, 0), (32, imm.toNat)])
  | .lih _ sd imm => some (.a, joinW [(8, 0x23), (6, sd.val), (18, 0), (32, imm.toNat)])
  | .movsp _ sd spr => some (.a, joinW [(8, 0x24), (6, sd.val), (4, spr.code)])
  | .arset _ ak fld src =>
    some (.a, match src with
      | .imm v => joinW [(8, 0x28), (5, ak.val), (3, fld.code), (1, 0), (6, 0), (9, 0), (32, v.toNat)]
      | .reg r => joinW [(8, 0x28), (5, ak.val), (3, fld.code), (1, 1), (6, r.val), (9, 0), (32, 0)])
  | .loop _ lvl cnt body =>
    some (.a, match cnt with
      | .imm v => joinW [(8, 0x30), (2, lvl.val), (1, 0), (6, 0), (15, 0), (16, body.toNat), (16, v.toNat)]
      | .reg r => joinW [(8, 0x30), (2, lvl.val), (1, 1), (6, r.val), (15, 0), (16, body.toNat), (16, 0)])
  | .brz _ sa off => some (.a, joinW [(8, 0x31), (6, 0), (6, sa.val), (12, 0), (20, off.toNat)])
  | .brnz _ sa off => some (.a, joinW [(8, 0x32), (6, 0), (6, sa.val), (12, 0), (20, off.toNat)])
  | .fwait _ sv f dl =>
    some (.a, match f with
      | .imm v => joinW [(8, 0x38), (6, sv.val), (1, 0), (6, 0), (6, dl.val), (5, 0), (17, v.toNat)]
      | .reg r => joinW [(8, 0x38), (6, sv.val), (1, 1), (6, r.val), (6, dl.val), (5, 0), (17, 0)])
  | .fsig _ sv f =>
    some (.a, match f with
      | .imm v => joinW [(8, 0x39), (6, sv.val), (1, 0), (6, 0), (11, 0), (17, v.toNat)]
      | .reg r => joinW [(8, 0x39), (6, sv.val), (1, 1), (6, r.val), (11, 0), (17, 0)])
  | .phase _ ph => some (.a, joinW [(8, 0x3C), (8, ph.toNat)])
  | .end_ _ => some (.a, joinW [(8, 0x3F)])
  | .ld _ vd ak sz vpos imm =>
    some (.m, joinW [(8, 0x40), (5, vd.val), (5, ak.val), (3, sz.val), (6, vpos.toNat), (5, 0), (32, imm.toNat)])
  | .st _ vs ak sz vpos imm =>
    some (.m, joinW [(8, 0x41), (5, vs.val), (5, ak.val), (3, sz.val), (6, vpos.toNat), (5, 0), (32, imm.toNat)])
  | .lds _ sd ak imm => some (.m, joinW [(8, 0x42), (6, sd.val), (5, ak.val), (13, 0), (32, imm.toNat)])
  | .sts _ ss ak imm => some (.m, joinW [(8, 0x43), (6, ss.val), (5, ak.val), (13, 0), (32, imm.toNat)])
  | .rld _ vd sa sz vpos =>
    some (.m, joinW [(8, 0x48), (5, vd.val), (6, sa.val), (3, sz.val), (6, vpos.toNat)])
  | .rst _ vs sa sz vpos =>
    some (.m, joinW [(8, 0x49), (5, vs.val), (6, sa.val), (3, sz.val), (6, vpos.toNat)])
  | .fqpop _ vd q => some (.m, joinW [(8, 0x50), (5, vd.val), (3, q.val)])
  | .racq _ sd rng role => some (.m, joinW [(8, 0x58), (6, sd.val), (3, rng.val), (1, role.code)])
  | .rrel _ rng role => some (.m, joinW [(8, 0x59), (6, 0), (3, rng.val), (1, role.code)])
  | .biasld _ bb vs lq => some (.m, joinW [(8, 0x60), (2, bb.val), (5, vs.val), (2, lq.val)])
  | .palwr _ ps tag vs e0 cnt =>
    some (.m, joinW [(8, 0x61), (6, ps.val), (4, fmtCode tag), (5, vs.val), (8, e0.toNat), (9, cnt.toNat)])
  | .vop2 _ fn c => some (.v, encV 0x80 fn.code c.vd.val c.vc.val c [])
  | .vfma _ c => some (.v, encV 0x81 0 c.vd.val c.vc.val c [])
  | .vcmp _ fn pd c => some (.v, encV 0x82 fn.code pd.val c.vc.val c [])
  | .vsel _ c => some (.v, encV 0x83 0 c.vd.val c.vc.val c [])
  | .vcvt _ target g c => some (.v, encV 0x84 target.code c.vd.val g.val c [])
  | .vfn _ fn c => some (.v, encV 0x85 fn.code c.vd.val c.vc.val c [])
  | .vred _ op segs c => some (.v, encV 0x86 (op.code + 16 * segs.val) c.vd.val c.vc.val c [])
  | .vperm _ c => some (.v, encV 0x87 0 c.vd.val c.vc.val c [])
  | .vext _ sd va et lane =>
    some (.v, joinW [(8, 0x88), (5, et.code), (5, 0), (5, va.val), (22, 0), (10, lane.toNat), (6, sd.val)])
  | .vbcast _ sa c => some (.v, encV 0x89 0 c.vd.val c.vc.val c [(6, sa.val)])
  | .plog _ fn pd pa pb pr zm sa =>
    some (.v, joinW [(8, 0x8A), (5, EType.int32.code), (5, pd.val), (5, pa.val), (5, pb.val), (5, 0), (4, pr.val), (6, fn.code), (1, 0),
      (1, bitN zm), (6, sa.val)])
  | .drn _ vd pos raw ring chr lpi row =>
    some (.v, match row with
      | .imm v => joinW [(8, 0x90), (5, 0), (5, vd.val), (5, pos.toNat), (1, bitN raw), (1, bitN ring), (6, chr.val),
          (10, lpi.toNat), (1, 0), (6, 0), (12, v.toNat)]
      | .reg r => joinW [(8, 0x90), (5, 0), (5, vd.val), (5, pos.toNat), (1, bitN raw), (1, bitN ring), (6, chr.val),
          (10, lpi.toNat), (1, 1), (6, r.val), (12, 0)])
  | .wgcfg _ set field sa => some (.v, joinW [(8, 0x98), (5, 0), (2, set.val), (6, field.toNat), (6, sa.val)])
  | .pq _ vd va gp pr slot sub cb8 cntm1 =>
    some (.v, joinW [(8, 0x99), (5, 0), (5, vd.val), (5, va.val), (5, gp.val), (5, 0), (4, pr.val), (8, 0),
      (6, slot.val), (4, sub.toNat), (1, bitN cb8), (8, cntm1.toNat)])
  | _ => none

/-- A decoded word that is also well formed. -/
def checked (i : Instr) : Option Instr := if i.wf then some i else none

/-- The A-slot word of an instruction other than CX (Table 5.3); none for a reserved word. -/
def decodeA (h : Issue) (w : Nat) : Option Instr :=
  match w % 256 with
  | 0x20 =>
    match splitW [8, 6, 6, 6, 4] w with
    | [_, sd, sa, sb, fn, 0] => (SFn.ofCode fn).map fun f => .salu h (fin 64 sd) (fin 64 sa) (fin 64 sb) f
    | _ => none
  | 0x21 =>
    match splitW [8, 6, 6, 6, 4, 2, 32] w with
    | [_, sd, sa, 0, fn, 0, imm, 0] =>
      (SFn.ofCode fn).map fun f => .salui h (fin 64 sd) (fin 64 sa) f (BitVec.ofNat 32 imm)
    | _ => none
  | 0x22 =>
    match splitW [8, 6, 18, 32] w with
    | [_, sd, 0, imm, 0] => some (.lil h (fin 64 sd) (BitVec.ofNat 32 imm))
    | _ => none
  | 0x23 =>
    match splitW [8, 6, 18, 32] w with
    | [_, sd, 0, imm, 0] => some (.lih h (fin 64 sd) (BitVec.ofNat 32 imm))
    | _ => none
  | 0x24 =>
    match splitW [8, 6, 4] w with
    | [_, sd, spr, 0] => (Spr.ofCode spr).map fun p => .movsp h (fin 64 sd) p
    | _ => none
  | 0x28 =>
    match splitW [8, 5, 3, 1, 6, 9, 32] w with
    | [_, ak, fld, 0, _, 0, imm, 0] =>
      (AField.ofCode fld).map fun f => .arset h (fin 32 ak) f (.imm (BitVec.ofNat 32 imm))
    | [_, ak, fld, _, sa, 0, _, 0] => (AField.ofCode fld).map fun f => .arset h (fin 32 ak) f (.reg (fin 64 sa))
    | _ => none
  | 0x30 =>
    match splitW [8, 2, 1, 6, 15, 16, 16] w with
    | [_, lvl, 0, _, 0, body, cimm, 0] =>
      checked (.loop h (fin 4 lvl) (.imm (BitVec.ofNat 16 cimm)) (BitVec.ofNat 16 body))
    | [_, lvl, _, creg, 0, body, _, 0] => checked (.loop h (fin 4 lvl) (.reg (fin 64 creg)) (BitVec.ofNat 16 body))
    | _ => none
  | 0x31 =>
    match splitW [8, 6, 6, 12, 20] w with
    | [_, 0, sa, 0, off, 0] => checked (.brz h (fin 64 sa) (BitVec.ofNat 20 off))
    | _ => none
  | 0x32 =>
    match splitW [8, 6, 6, 12, 20] w with
    | [_, 0, sa, 0, off, 0] => checked (.brnz h (fin 64 sa) (BitVec.ofNat 20 off))
    | _ => none
  | 0x38 =>
    match splitW [8, 6, 1, 6, 6, 5, 17] w with
    | [_, sv, 0, _, dl, 0, f, 0] => some (.fwait h (fin 64 sv) (.imm (BitVec.ofNat 17 f)) (fin 64 dl))
    | [_, sv, _, fn, dl, 0, _, 0] => some (.fwait h (fin 64 sv) (.reg (fin 64 fn)) (fin 64 dl))
    | _ => none
  | 0x39 =>
    match splitW [8, 6, 1, 6, 11, 17] w with
    | [_, sv, 0, _, 0, f, 0] => some (.fsig h (fin 64 sv) (.imm (BitVec.ofNat 17 f)))
    | [_, sv, _, fn, 0, _, 0] => some (.fsig h (fin 64 sv) (.reg (fin 64 fn)))
    | _ => none
  | 0x3C =>
    match splitW [8, 8] w with
    | [_, ph, 0] => some (.phase h (BitVec.ofNat 8 ph))
    | _ => none
  | 0x3F => if w = 0x3F then some (.end_ h) else none
  | _ => none

/-- The M-slot word (Table 5.5). -/
def decodeM (h : Issue) (w : Nat) : Option Instr :=
  match w % 256 with
  | 0x40 =>
    match splitW [8, 5, 5, 3, 6, 5, 32] w with
    | [_, vd, ak, sz, vpos, 0, imm, 0] =>
      if sz < 7 then
        checked (.ld h (fin 32 vd) (fin 32 ak) (fin 7 sz) (BitVec.ofNat 6 vpos) (BitVec.ofNat 32 imm))
      else none
    | _ => none
  | 0x41 =>
    match splitW [8, 5, 5, 3, 6, 5, 32] w with
    | [_, vs, ak, sz, vpos, 0, imm, 0] =>
      if sz < 7 then
        checked (.st h (fin 32 vs) (fin 32 ak) (fin 7 sz) (BitVec.ofNat 6 vpos) (BitVec.ofNat 32 imm))
      else none
    | _ => none
  | 0x42 =>
    match splitW [8, 6, 5, 13, 32] w with
    | [_, sd, ak, 0, imm, 0] => some (.lds h (fin 64 sd) (fin 32 ak) (BitVec.ofNat 32 imm))
    | _ => none
  | 0x43 =>
    match splitW [8, 6, 5, 13, 32] w with
    | [_, ss, ak, 0, imm, 0] => some (.sts h (fin 64 ss) (fin 32 ak) (BitVec.ofNat 32 imm))
    | _ => none
  | 0x48 =>
    match splitW [8, 5, 6, 3, 6] w with
    | [_, vd, sa, sz, vpos, 0] =>
      if sz < 7 then checked (.rld h (fin 32 vd) (fin 64 sa) (fin 7 sz) (BitVec.ofNat 6 vpos)) else none
    | _ => none
  | 0x49 =>
    match splitW [8, 5, 6, 3, 6] w with
    | [_, vs, sa, sz, vpos, 0] =>
      if sz < 7 then checked (.rst h (fin 32 vs) (fin 64 sa) (fin 7 sz) (BitVec.ofNat 6 vpos)) else none
    | _ => none
  | 0x50 =>
    match splitW [8, 5, 3] w with
    | [_, vd, q, 0] => some (.fqpop h (fin 32 vd) (fin 8 q))
    | _ => none
  | 0x58 =>
    match splitW [8, 6, 3, 1] w with
    | [_, sd, rng, role, 0] => some (.racq h (fin 64 sd) (fin 8 rng) (Role.ofCode role))
    | _ => none
  | 0x59 =>
    match splitW [8, 6, 3, 1] w with
    | [_, 0, rng, role, 0] => some (.rrel h (fin 8 rng) (Role.ofCode role))
    | _ => none
  | 0x60 =>
    match splitW [8, 2, 5, 2] w with
    | [_, bb, vs, lq, 0] => some (.biasld h (fin 4 bb) (fin 32 vs) (fin 4 lq))
    | _ => none
  | 0x61 =>
    match splitW [8, 6, 4, 5, 8, 9] w with
    | [_, ps, tag, vs, e0, cnt, 0] =>
      match fmtOfCode tag with
      | some t => checked (.palwr h (fin 64 ps) t (fin 32 vs) (BitVec.ofNat 8 e0) (BitVec.ofNat 9 cnt))
      | none => none
    | _ => none
  | _ => none

/-- The common V-slot fields: VD, VC, FUNCT, the bits above bit 44 and the rest as a `VCommon` with VD and VC. -/
def decV (w : Nat) : Option (VCommon × Nat × Nat) :=
  match splitW [8, 5, 5, 5, 5, 5, 4, 6, 1, 1] w with
  | [_, et, vd, va, vb, vc, pr, fn, ovf, zm, hi] =>
    (EType.ofCode et).map fun t =>
      ({ et := t, vd := fin 32 vd, va := fin 32 va, vb := fin 32 vb, vc := fin 32 vc, pr := fin 16 pr,
         ovf := ovf == 1, zm := zm == 1 }, fn, hi)
  | _ => none

/-- The V-slot word (Table 5.7). -/
def decodeV (h : Issue) (w : Nat) : Option Instr :=
  match w % 256 with
  | 0x80 =>
    match decV w with
    | some (c, fn, 0) => (V2Fn.ofCode fn).bind fun f => checked (.vop2 h f c)
    | _ => none
  | 0x81 =>
    match decV w with
    | some (c, 0, 0) => checked (.vfma h c)
    | _ => none
  | 0x82 =>
    match decV w with
    | some (c, fn, 0) =>
      if c.vd.val < 16 then
        (CmpFn.ofCode fn).bind fun f => checked (.vcmp h f (fin 16 c.vd.val) { c with vd := 0 })
      else none
    | _ => none
  | 0x83 =>
    match decV w with
    | some (c, 0, 0) => checked (.vsel h c)
    | _ => none
  | 0x84 =>
    match decV w with
    | some (c, fn, 0) => (EType.ofCode fn).bind fun t => checked (.vcvt h t c.vc { c with vc := 0 })
    | _ => none
  | 0x85 =>
    match decV w with
    | some (c, fn, 0) => (TFn.ofCode fn).bind fun f => checked (.vfn h f c)
    | _ => none
  | 0x86 =>
    match decV w with
    | some (c, fn, 0) => (RedOp.ofCode (fn % 16)).bind fun f => checked (.vred h f (fin 4 (fn / 16)) c)
    | _ => none
  | 0x87 =>
    match decV w with
    | some (c, 0, 0) => checked (.vperm h c)
    | _ => none
  | 0x88 =>
    match splitW [8, 5, 5, 5, 22, 10, 6] w with
    | [_, et, 0, va, 0, lane, sd, 0] =>
      (EType.ofCode et).bind fun t => checked (.vext h (fin 64 sd) (fin 32 va) t (BitVec.ofNat 10 lane))
    | _ => none
  | 0x89 =>
    match decV w with
    | some (c, 0, hi) => if hi < 64 then checked (.vbcast h (fin 64 hi) c) else none
    | _ => none
  | 0x8A =>
    match splitW [8, 5, 5, 5, 5, 5, 4, 6, 1, 1, 6] w with
    | [_, et, pd, pa, pb, _, pr, fn, _, zm, sa, 0] =>
      if pd < 16 ∧ pa < 16 ∧ pb < 16 ∧ (EType.ofCode et).any EType.arith then
        (PlogFn.ofCode fn).map fun f =>
          .plog h f (fin 16 pd) (fin 16 pa) (fin 16 pb) (fin 16 pr) (zm == 1) (fin 64 sa)
      else none
    | _ => none
  | 0x90 =>
    match splitW [8, 5, 5, 5, 1, 1, 6, 10, 1, 6, 12] w with
    | [_, 0, vd, pos, raw, ring, chr, lpi, 0, _, row, 0] =>
      checked (.drn h (fin 32 vd) (BitVec.ofNat 5 pos) (raw == 1) (ring == 1) (fin 64 chr) (BitVec.ofNat 10 lpi)
        (.imm (BitVec.ofNat 12 row)))
    | [_, 0, vd, pos, raw, ring, chr, lpi, _, rows, _, 0] =>
      checked (.drn h (fin 32 vd) (BitVec.ofNat 5 pos) (raw == 1) (ring == 1) (fin 64 chr) (BitVec.ofNat 10 lpi)
        (.reg (fin 64 rows)))
    | _ => none
  | 0x98 =>
    match splitW [8, 5, 2, 6, 6] w with
    | [_, 0, set, field, sa, 0] => checked (.wgcfg h (fin 4 set) (BitVec.ofNat 6 field) (fin 64 sa))
    | _ => none
  | 0x99 =>
    match splitW [8, 5, 5, 5, 5, 5, 4, 8, 6, 4, 1, 8] w with
    | [_, 0, vd, va, gp, 0, pr, 0, slot, sub, cb8, cnt, 0] =>
      checked (.pq h (fin 32 vd) (fin 32 va) (fin 32 gp) (fin 16 pr) (fin 64 slot) (BitVec.ofNat 4 sub) (cb8 == 1)
        (BitVec.ofNat 8 cnt))
    | _ => none
  | _ => none

/-- The word of slots A, M and V (DESIGN CHOICE, log entry 3). -/
def decodeSlot (h : Issue) : Slot → Nat → Option Instr
  | .a, w => decodeA h w
  | .m, w => decodeM h w
  | .v, w => decodeV h w
  | .c, _ => none

/-- A decoded bundle: its instructions by slot; CMM takes slots C and A. -/
structure Bundle where
  c : Option Instr := none
  a : Option Instr := none
  m : Option Instr := none
  v : Option Instr := none
deriving DecidableEq, Repr

/-- One slot that may hold NOP. The outer none is a rejection. -/
def decodeOpt (h : Issue) (sl : Slot) (w : Nat) : Option (Option Instr) :=
  if w = 0 then some none else (decodeSlot h sl w).map some

/-- The four words of a bundle (R118, R121), or the first slot that is rejected: 0 C, 1 A, 2 M, 3 V. -/
def decodeBundle (h : Issue) (wc wa wm wv : Nat) : Except Nat Bundle :=
  let rest (b : Bundle) : Except Nat Bundle :=
    match decodeOpt h .m wm with
    | none => .error 2
    | some m =>
      match decodeOpt h .v wv with
      | none => .error 3
      | some v => .ok { b with m := m, v := v }
  if wc = 0 then
    match decodeOpt h .a wa with
    | none => .error 1
    | some a => rest { a := a }
  else
    match decodeCmm wc with
    | none => .error 0
    | some c =>
      match decodeCx wa with
      | none => .error 1
      | some x => rest { c := some (.cmm h c x) }

/-- The command that a word spells by the opcode table's bits. The table gives no row any bits, so no word spells one
(DESIGN CHOICE, log entry 3). -/
def decodeTableWord (_nbits _w : Nat) : Option Instr := none

end Sys2Proof
end

