-- ==== Sys2Proof/Config.lean ====
section
/-! DEFINITION. What an implementation fixes and what the manual leaves open: constants without a body, so that no
proof can lean on a value of them, and the fused ranges of R454. -/

namespace Sys2Proof.Config

/-- A value the manual leaves open; the argument numbers the occasions (the field `free` of the state)
(DESIGN CHOICE, log entry 9). -/
opaque freeValue : Nat → Nat

/-- What a read shows of a value that the manual does not state or that lies outside the device; the argument numbers the
cases (DESIGN CHOICE, log entries 9, 44). -/
opaque openView : Nat → Nat

/-- Which of the failing status codes of Table 0.6 ends a command where the manual does not state the status; the argument
numbers the cases. -/
opaque openPick : Nat → Nat

/-- A status that the manual leaves open: one of Table 0.6 other than ST_OK, since the device returns no other value
(R12) (DESIGN CHOICE, log entry 54). -/
def openStatus (n : Nat) : Nat :=
  [0x01, 0x02, 0x03, 0x10, 0x20, 0x21, 0x22, 0x30, 0x40, 0x50, 0x51, 0x60, 0x70, 0x80, 0xF0].getD (openPick n % 15) 0x10

/-- Grade of the part before it is reduced to one of the three of Table 0.1. -/
opaque gradeRaw : Nat
/-- Fuse contents before they are reduced to the ranges of R454. -/
opaque nminRaw : Nat → Nat
/-- Fuse contents of VTRIM before they are reduced to the range of R430. -/
opaque vtrimRaw : Nat → Nat

/-- The TEMP field of SYSCTL_ID: 0 C grade, 1 E grade (Table 0.2) (DESIGN CHOICE, log entry 10). -/
def temp : Nat := if gradeRaw % 3 = 1 then 1 else 0
/-- The SPEED field of SYSCTL_ID: 0 grade 14, 1 grade 15 (DESIGN CHOICE, log entry 10). -/
def speed : Nat := if gradeRaw % 3 = 2 then 1 else 0
/-- The largest NMIN of the grade: 32 for grade 14, 30 for grade 15 (R378, R454). -/
def nminFloor : Nat := if speed = 1 then 30 else 32
/-- The fused NMIN of engine `e`, 26 up to the grade's floor (R454) (DESIGN CHOICE, log entry 10). -/
def nmin (e : Nat) : Nat := 26 + nminRaw e % (nminFloor - 25)
/-- The fused VTRIM of engine `e` as a 6-bit two's complement field, −10 to +10 (R430)
(DESIGN CHOICE, log entry 10). -/
def vtrim (e : Nat) : Nat := (vtrimRaw e % 21 + 54) % 64

/-- Fused leakage table: power in units of 0.25 W of domain `d` at temperature `t` (R390)
(DESIGN CHOICE, log entry 42). -/
opaque leakage (d : Nat) (t : Nat) : Nat
/-- The fixed part of PD_AON and PD_IO (R390) (DESIGN CHOICE, log entry 42). -/
opaque fixedPower : Nat

/-- Whether the PMC rounds a power of n / d units up (R390 does not say): even values down, odd values up
(DESIGN CHOICE, log entry 42). -/
opaque roundUp (n d : Nat) : Nat

/-- One-time programmable contents of the part as it leaves Amiloth (Table 17.2): item number to value
(DESIGN CHOICE, log entry 14). -/
opaque otpItem : Nat → Nat
/-- Key store contents written at Amiloth's test: entry and byte (R419) (DESIGN CHOICE, log entry 14). -/
opaque keyStoreInit : Nat → Nat → Nat

/-- Derivation of the device identity key from the UDS (R417); the manual gives no function
(DESIGN CHOICE, log entry 13). -/
opaque deriveDk : Nat → Nat
/-- Derivation of the alias key from DK and the digest of M0 to M5 (R418) (DESIGN CHOICE, log entry 13). -/
opaque deriveAk : Nat → Nat → Nat
/-- The secret number of a signature by a private key over a digest, FIPS 186-5; the last number is the occasion (R410)
(DESIGN CHOICE, log entry 13). -/
opaque signSecret (key digest occasion : Nat) : Nat
/-- The private keys of the manufacturing CA (0) and of the root CA (1), which no device holds (R419). -/
opaque caKey : Nat → Nat
/-- By index of a certificate (3 the root): its serial number, and what R419 leaves open of its DER form: subject attributes (0),
validity (1), the OID of the alias certificate's extension (2) (DESIGN CHOICE, log entry 13). -/
opaque certSerial : Nat → Nat
opaque certPart : Nat → Nat → List Byte
/-- A fresh 32-byte nonce of the debug challenge (R425). -/
opaque nonce : Nat → Nat

/-- The access unit an encoder produces for a picture: standard and profile, rate control, whether it is a key picture,
the occasion, the input bytes (R353). The manual fixes the profile, not the bits (DESIGN CHOICE, log entry 51). -/
opaque encode (std rc : Nat) (key : Bool) (occasion : Nat) (picture : List Byte) : List Byte
/-- What a decoder produces for an access unit: the rows of the picture in order, and whether a stream error ended it after them
(R354); the pictures before it count through the occasion (DESIGN CHOICE, log entry 51). -/
opaque decode (std occasion : Nat) (unit : List Byte) : List (List Byte) × Bool
/-- Whether an access unit holds a key picture (R354) (DESIGN CHOICE, log entry 51). -/
opaque keyUnit (std : Nat) (unit : List Byte) : Bool
/-- The value of the 16-bit sample scale that 1.0 of a matrix offset of the area pipelines stands for (Table 14.6 does not
say) (DESIGN CHOICE, log entry 50). -/
opaque offsetUnit : Nat
/-- Address of the interrupt file of the application cores, to which MSI-X writes of the drive go (R254)
(DESIGN CHOICE, log entry 25). -/
opaque interruptFile : BitVec 64
/-- The SLC set that holds a DDR5 line, R200: 16,384 sets per quarter; the manual gives no index function
(DESIGN CHOICE, log entry 30). -/
opaque slcSet : Nat → Nat
/-- The bank within its quarter and the even row of that bank in which a way of an SLC set stands, by its number; the manual
gives neither (R185) (DESIGN CHOICE, log entry 68). -/
opaque slcBank : Nat → Nat
opaque slcRow : Nat → Nat
/-- By channel and step of training: the iterations that the step plans beyond the first, and the PERCLK cycles that one takes
beyond the first (R310); the manual gives neither (DESIGN CHOICE, log entry 27). -/
opaque trainPlan : Nat → Nat → Nat
opaque trainTicks : Nat → Nat → Nat
/-- The DIMM in a channel's socket, none where it is empty, as its SPD describes it: density, whether its devices are x4,
ranks, the rates it lists. A START that is written to DMC_TRAIN_CTL finds these (R309) (DESIGN CHOICE, log entry 27). -/
opaque dimm : Nat → Option Dimm
/-- The read timing that a rank is given from its devices' DQS interval oscillators (R323); the manual gives no function
(DESIGN CHOICE, log entry 29). -/
opaque readTiming : List Nat → Nat

end Sys2Proof.Config
end

