-- ==== Sys2Proof/Machine/Regs.lean ====
section
/-! DEFINITION. The set-up registers (Table 19.2): every register of the index, its place, its width and its fields
with their access types and reset values, from the register tables of the chapters. Offsets are counted from
0x000_8000_0000 (block index * 0x10_0000 + offset in the block, R18). -/

namespace Sys2Proof.Machine

/-- Register access types, Table 0.4. RSVD bits belong to no field. -/
inductive AccType where
  | rw
  | ro
  | wo
  | w1c
  | w1s
deriving DecidableEq, Repr

/-- One field of a register: its bits `[hi:lo]`, access type and reset value. -/
structure Field where
  hi    : Nat
  lo    : Nat
  typ   : AccType
  reset : Nat
deriving DecidableEq, Repr

/-- The set-up registers, each with the indices its table gives it. -/
inductive Reg where
  /-- SYSCTL_ID, Table 0.2. -/
  | sysctlId
  /-- SYSCTL_STRAP, Table 18.6. -/
  | sysctlStrap
  /-- CLK_STAT, Table 19.3. -/
  | clkStat
  /-- PMC_CAP_MAX, Table 16.8. -/
  | pmcCapMax
  /-- PMC_BO_CFG. -/
  | pmcBoCfg
  /-- PMC_THERM_CFG. -/
  | pmcThermCfg
  /-- PMC_RSTCAUSE. -/
  | pmcRstcause
  /-- PMC_FUSE_NMIN, Table 16.9. -/
  | pmcFuseNmin
  /-- PMC_FUSE_VTRIM. -/
  | pmcFuseVtrim
  /-- PMC_PMB n. -/
  | pmcPmb (i : Nat)
  /-- PMC_CAP, Table 16.10. -/
  | pmcCap
  /-- PMC_PWR. -/
  | pmcPwr
  /-- PMC_BO_STAT. -/
  | pmcBoStat
  /-- PMC_BO_COUNT. -/
  | pmcBoCount
  /-- PMC_NVGATE. -/
  | pmcNvgate
  /-- PMC_EVHEAD. -/
  | pmcEvhead
  /-- PMC_EVNOTE. -/
  | pmcEvnote
  /-- PMC_POLICY. -/
  | pmcPolicy
  /-- PMC_RES. -/
  | pmcRes
  /-- PMC_NE_PERF e, Table 16.11. -/
  | pmcNePerf (i : Nat)
  /-- PMC_NE_RINGS e. -/
  | pmcNeRings (i : Nat)
  /-- PMC_NE_TIMER e. -/
  | pmcNeTimer (i : Nat)
  /-- PMC_NE_DROOP e. -/
  | pmcNeDroop (i : Nat)
  /-- PMC_TS n. -/
  | pmcTs (i : Nat)
  /-- PMC_EVLOG i, low and high word. -/
  | pmcEvlog (i : Nat) (j : Nat)
  /-- SEC_STATUS, Table 17.12. -/
  | secStatus
  /-- SEC_BLKWORLD. -/
  | secBlkworld
  /-- SEC_LOCK. -/
  | secLock
  /-- SEC_VIOL, Table 17.14. -/
  | secViol
  /-- SEC_VLOG. -/
  | secVlog
  /-- SEC_UPD_STAT. -/
  | secUpdStat
  /-- SEC_DBG_STAT. -/
  | secDbgStat
  /-- SEC_RGN_BASE n, Table 17.13. -/
  | secRgnBase (i : Nat)
  /-- SEC_RGN_CFG n. -/
  | secRgnCfg (i : Nat)
  /-- SEC_MEAS i, 64-bit word j (R427). -/
  | secMeas (i : Nat) (j : Nat)
  /-- SEC_CTR j. -/
  | secCtr (i : Nat)
  /-- MBX_CFG k, Table 12.8. -/
  | mbxCfg (i : Nat)
  /-- MBX_PUSH k. -/
  | mbxPushR (i : Nat)
  /-- MBX_POP k. -/
  | mbxPopR (i : Nat)
  /-- MBX_STAT k. -/
  | mbxStat (i : Nat)
  /-- MBX_LOST k. -/
  | mbxLost (i : Nat)
  /-- MBX_BADSRC k. -/
  | mbxBadsrc (i : Nat)
  /-- FENCE_PROBE_CTL, Table 12.4. -/
  | fenceProbeCtl
  /-- FenceProbes counter, Table 12.4. -/
  | fenceProbes
  /-- FenceDeadlocks counter, Table 12.4. -/
  | fenceDeadlocks
  /-- FenceDropped counter, Table 12.4. -/
  | fenceDropped
  /-- FenceOooTotal counter, Table 12.4. -/
  | fenceOooTotal
  /-- FenceBadref counter, Table 12.4. -/
  | fenceBadref
  /-- FENCE_CTX_RANGE c, Table 12.5. -/
  | fenceCtxRangeR (i : Nat)
  /-- FENCE_PORT_CTX p. -/
  | fencePortCtx (i : Nat)
  /-- FENCE_PORT_IDX p, Table 12.6. -/
  | fencePortIdx (i : Nat)
  /-- FENCE_PORT_VAL p. -/
  | fencePortVal (i : Nat)
  /-- FENCE_PORT_SIG p. -/
  | fencePortSigR (i : Nat)
  /-- FENCE_PORT_ATTR p. -/
  | fencePortAttrR (i : Nat)
  /-- CPQ_INIT, Table 11.12. -/
  | cpqInit
  /-- CPQ_READY. -/
  | cpqReady
  /-- CPQ_EVENT: bits 5 to 0 READY, CFGERR, CTXDONE, SQERR, FATAL, UE. -/
  | cpqEvent
  /-- CPQ_EVENT_VEC. -/
  | cpqEventVec
  /-- CPQ_KICK. -/
  | cpqKick
  /-- CPQ_CTX_OP. -/
  | cpqCtxOp
  /-- CPQ_CTX_STAT. -/
  | cpqCtxStat
  /-- CPQ_LOADPROG c, Table 15.10. -/
  | cpqLoadprog (i : Nat)
  /-- CPQ_SQ_BASE q, Table 11.14. -/
  | sqBase (i : Nat)
  /-- CPQ_SQ_DB q. -/
  | sqDb (i : Nat)
  /-- CPQ_SQ_CFG q. -/
  | sqCfg (i : Nat)
  /-- CPQ_SQ_POLL q. -/
  | sqPollR (i : Nat)
  /-- CPQ_CQ_BASE c. -/
  | cqBase (i : Nat)
  /-- CPQ_CQ_DB c. -/
  | cqDb (i : Nat)
  /-- CPQ_CQ_CFG c. -/
  | cqCfg (i : Nat)
  /-- CPQ_CQ_TMR c. -/
  | cqTmr (i : Nat)
  /-- CPQ_CTX_STATE c. -/
  | ctxState (i : Nat)
  /-- CPQ_CTX_ENGCYC c. -/
  | ctxEngcyc (i : Nat)
  /-- PMT_STAGE0, Table 11.13. -/
  | pmtStage0
  /-- PMT_STAGE1. -/
  | pmtStage1
  /-- PMT_INSTALL. -/
  | pmtInstallR
  /-- PMT_RESULT. -/
  | pmtResult
  /-- PMT_INDEX. -/
  | pmtIndex
  /-- PCIE_W2_CTL, Table 11.15. -/
  | pcieW2Ctl
  /-- PCIE_W2_VBASE. -/
  | pcieW2Vbase
  /-- PCIE_W2_REFUSED. -/
  | pcieW2Refused
  /-- PCIE_LINK. -/
  | pcieLink
  /-- MSI-X table entry v, message address. -/
  | msixAddr (i : Nat)
  /-- MSI-X table entry v, message data. -/
  | msixData (i : Nat)
  /-- MSI-X table entry v, vector control. -/
  | msixCtl (i : Nat)
  /-- MSI-X pending bit array word. -/
  | msixPba (i : Nat)
  /-- PCIERP_CTL, Table 19.4. -/
  | rpCtl
  /-- PCIERP_CFG. -/
  | rpCfg
  /-- PCIERP_CFGDATA. -/
  | rpCfgdata
  /-- PCIERP_AP. -/
  | rpAp
  /-- PCIERP_IN_BASE. -/
  | rpInBase
  /-- PCIERP_IN_LIMIT. -/
  | rpInLimit
  /-- USB_CTL, Table 19.5. -/
  | usbCtl
  /-- USB_EP_RING n. -/
  | usbEpRing (i : Nat)
  /-- USB_EP_IDX n. -/
  | usbEpIdx (i : Nat)
  /-- USB_EP_CFG n. -/
  | usbEpCfg (i : Nat)
  /-- ETH_CFG, Table 15.8. -/
  | ethCfg (i : Nat)
  /-- ETH_RXRING. -/
  | ethRxring (i : Nat)
  /-- ETH_TXRING. -/
  | ethTxring (i : Nat)
  /-- ETH_IDX. -/
  | ethIdx (i : Nat)
  /-- ETH_TSLAT. -/
  | ethTslat (i : Nat)
  /-- ETH_RXDROP. -/
  | ethRxdrop (i : Nat)
  /-- TIME_SEC, Table 15.6. -/
  | timeSec
  /-- TIME_NSF. -/
  | timeNsf
  /-- TIME_STEP. -/
  | timeStepR
  /-- TIME_FREQ. -/
  | timeFreq
  /-- TIME_SRV_CTL, Table 15.7. -/
  | timeSrvCtl
  /-- TIME_SRV_THR. -/
  | timeSrvThr
  /-- TIME_SRV_OFS. -/
  | timeSrvOfs
  /-- TIME_SRV_STAT. -/
  | timeSrvStat
  /-- TIME_STEPS. -/
  | timeSteps
  /-- ENC_CFG e, Table 15.9. -/
  | encCfg (i : Nat)
  /-- ENC_POS e. -/
  | encPos (i : Nat)
  /-- ENC_LAST e. -/
  | encLast (i : Nat)
  /-- ENC_SPEED e. -/
  | encSpeed (i : Nat)
  /-- ENC_IDXP e. -/
  | encIdxp (i : Nat)
  /-- ENC_IDXT e. -/
  | encIdxt (i : Nat)
  /-- ENC_ERR e. -/
  | encErr (i : Nat)
  /-- ENC_JOB e. -/
  | encJob (i : Nat)
  /-- ENC_JOBSTAT e. -/
  | encJobstat (i : Nat)
  /-- ENC_JOBMM e. -/
  | encJobmm (i : Nat)
  /-- TIO_CFG n. -/
  | tioCfg (i : Nat)
  /-- TIO_STAT n. -/
  | tioStat (i : Nat)
  /-- TAQ_BASE k. -/
  | taqBase (i : Nat)
  /-- TAQ_CFG k. -/
  | taqCfg (i : Nat)
  /-- TAQ_FENCE k. -/
  | taqFence (i : Nat)
  /-- TAQ counter, Table 15.9. -/
  | taqFired (i : Nat)
  /-- TAQ counter, Table 15.9. -/
  | taqLate (i : Nat)
  /-- TAQ counter, Table 15.9. -/
  | taqDropped (i : Nat)
  /-- TAQ counter, Table 15.9. -/
  | taqDiscarded (i : Nat)
  /-- TAQ_PENDING k. -/
  | taqPending (i : Nat)
  /-- CAN_CTL, Table 15.10. -/
  | canCtl (i : Nat)
  /-- CAN_NBT. -/
  | canNbt (i : Nat)
  /-- CAN_DBT. -/
  | canDbt (i : Nat)
  /-- CAN_TXREQ. -/
  | canTxreqR (i : Nat)
  /-- CAN_RXSTAT. -/
  | canRxstat (i : Nat)
  /-- CAN receive FIFO head record, 64-bit word j (R377). -/
  | canRxhead (i : Nat) (j : Nat)
  /-- CAN transmit buffer b, 64-bit word j (Table 15.4). -/
  | canTxbuf (i : Nat) (j : Nat) (k : Nat)
  /-- CSI_PORT_CFG p, Table 14.10. -/
  | csiPortCfg (i : Nat)
  /-- CSI_DTDROP p. -/
  | csiDtdrop (i : Nat)
  /-- SRC_CTL of source n of block 0x11 + b (CSI, CXP, LFC, IPP0, IPP1), Table 14.9. -/
  | srcCtl (i : Nat) (j : Nat)
  /-- SRC_GEN. -/
  | srcGen (i : Nat) (j : Nat)
  /-- SRC_NORING. -/
  | srcNoring (i : Nat) (j : Nat)
  /-- SRC_LOST. -/
  | srcLost (i : Nat) (j : Nat)
  /-- SRC_ERR. -/
  | srcErr (i : Nat) (j : Nat)
  /-- SRC_TRIG. -/
  | srcTrig (i : Nat) (j : Nat)
  /-- CSI_ST_CFG s. -/
  | csiStCfg (i : Nat)
  /-- CSI_ST_GEOM s. -/
  | csiStGeom (i : Nat)
  /-- CXP_CC_ADDR c, Table 14.11. -/
  | cxpCcAddr (i : Nat)
  /-- CXP_CC_DATA c. -/
  | cxpCcData (i : Nat)
  /-- CXP_CC_CTL c. -/
  | cxpCcCtl (i : Nat)
  /-- CXP_CAM_CFG c. -/
  | cxpCamCfg (i : Nat)
  /-- CXP_CAM_GEOM c. -/
  | cxpCamGeom (i : Nat)
  /-- LFC_CFG g. -/
  | lfcCfg (i : Nat)
  /-- LFC_GEOM g. -/
  | lfcGeom (i : Nat)
  /-- LFC_TBASE0 g. -/
  | lfcTbase0 (i : Nat)
  /-- LFC_TBASE1 g. -/
  | lfcTbase1 (i : Nat)
  /-- LFC_LST g. -/
  | lfcLst (i : Nat)
  /-- IPP_CX_IN x. -/
  | ippCxIn (i : Nat) (j : Nat)
  /-- IPP_CX_PB x. -/
  | ippCxPb (i : Nat) (j : Nat)
  /-- IPP_CX_OUT x. -/
  | ippCxOut (i : Nat) (j : Nat)
  /-- IPP_TAPSKIP x. -/
  | ippTapskip (i : Nat) (j : Nat)
  /-- CDC_CTL, Table 14.12. -/
  | cdcCtl (i : Nat) (j : Nat)
  /-- CDC_RC. -/
  | cdcRc (i : Nat) (j : Nat)
  /-- VENC_OVERSIZE. -/
  | vencOversize (i : Nat) (j : Nat)
  /-- SDMA_CH_ARM c, Table 9.15. -/
  | sdmaArmR (i : Nat)
  /-- SDMA_CH_CFG c. -/
  | sdmaCfg (i : Nat)
  /-- SDMA_CH_STATUS c. -/
  | sdmaStatus (i : Nat)
  /-- SDMA_CH_BYTES c. -/
  | sdmaBytes (i : Nat)
  /-- FR_BASE r, Table 9.12. -/
  | frBase (i : Nat)
  /-- FR_CFG r, Table 9.13. -/
  | frCfg (i : Nat)
  /-- FR_REC r. -/
  | frRec (i : Nat)
  /-- FR_FENCE r. -/
  | frFence (i : Nat)
  /-- FR_CTL r. -/
  | frCtl (i : Nat)
  /-- FR_PSEQ r, Table 9.14. -/
  | frPseq (i : Nat)
  /-- FR_FSEQ r. -/
  | frFseq (i : Nat)
  /-- FR_DROPS r. -/
  | frDrops (i : Nat)
  /-- FR_CSEQ r k. -/
  | frCseq (i : Nat) (j : Nat)
  /-- FR_PORT_OP r. -/
  | frPortOp (i : Nat)
  /-- FR_PORT_RES r. -/
  | frPortRes (i : Nat)
  /-- DMC_CFG, Table 13.5. -/
  | dmcCfg
  /-- DMC_TRAIN_CTL. -/
  | dmcTrainCtl
  /-- DMC_TRAIN_STATUS, Table 13.6. -/
  | dmcTrainStatus
  /-- DMC_FILL, Table 13.7. -/
  | dmcFill
  /-- DMC_SCRUB. -/
  | dmcScrub
  /-- DMC_ECC_INJ, Table 13.8. -/
  | dmcEccInj
  /-- DMC_HASH i, Table 13.10. -/
  | dmcHash (i : Nat)
  /-- DMC_CH_STATUS, Table 13.9. -/
  | dmcChStatus (i : Nat)
  /-- DMC_PANIC_LVL. -/
  | dmcPanicLvl (i : Nat)
  /-- DMC_CE_COUNT, _UE_, _POISON_, _ALERT_, _PANIC_, _REF2X_COUNT (j = 0 to 5) of a channel, Table 13.11. -/
  | dmcCount (i : Nat) (j : Nat)
  /-- DMC_UE_LOG. -/
  | dmcUeLog (i : Nat)
  /-- DMC_CE_LOG. -/
  | dmcCeLog (i : Nat)
  /-- GS_SCRUB_CTL, Table 8.4. -/
  | gsScrubCtl
  /-- GS_ECC_INJ, Table 8.5. -/
  | gsEccInj
  /-- GS_CE_COUNT r, Table 8.6. -/
  | gsCeCount (i : Nat)
  /-- GS_UE_COUNT r. -/
  | gsUeCount (i : Nat)
  /-- GS_WB_DROP. -/
  | gsWbDrop
  /-- GS_UE_LOG, Table 8.7. -/
  | gsUeLog
  /-- GS_CE_LOG. -/
  | gsCeLog
  /-- GS_BIST_CTL, Table 8.8. -/
  | gsBistCtl
  /-- GS_BIST_STATUS, Table 8.9. -/
  | gsBistStatus
  /-- GS_BIST_FAIL, Table 8.10. -/
  | gsBistFail
  /-- GS_NOWIN_REFUSED s. -/
  | gsNowinRefused (i : Nat)
  /-- GS_WIN_BASE s w, Table 8.11. -/
  | gsWinBase (i : Nat) (j : Nat)
  /-- GS_WIN_SIZE s w. -/
  | gsWinSize (i : Nat) (j : Nat)
  /-- GS_WIN_CTL s w. -/
  | gsWinCtl (i : Nat) (j : Nat)
  /-- GS_WIN_REFUSED s w. -/
  | gsWinRefused (i : Nat) (j : Nat)
  /-- GS_PF_CTL, Table 9.17. -/
  | gsPfCtl
  /-- GS_PF_ISSUED, GS_PF_USED, GS_PF_DROPPED (i = 0 to 2), Table 9.17. -/
  | gsPf (i : Nat)
  /-- HCL_RST, Table 19.3. -/
  | hclRst
  /-- HCL_PDREQ. -/
  | hclPdreq
  /-- HCL_STAT. -/
  | hclStat
  /-- NE_CTL e, Table 4.11. -/
  | neCtl (i : Nat)
  /-- NE_STATUS e. -/
  | neStatus (i : Nat)
  /-- NE_TASK_BASE e. -/
  | neTaskBase (i : Nat)
  /-- NE_TASK_LIMIT e. -/
  | neTaskLimit (i : Nat)
  /-- NE_FAULT_STATUS e. -/
  | neFaultStatus (i : Nat)
  /-- NE_FAULT_PC e. -/
  | neFaultPc (i : Nat)
  /-- NE_FAULT_INFO e. -/
  | neFaultInfo (i : Nat)
  /-- engine counter, Table 4.16. -/
  | neCyc (i : Nat)
  /-- engine counter, Table 4.16. -/
  | neStallBank (i : Nat)
  /-- engine counter, Table 4.16. -/
  | neStallRemote (i : Nat)
  /-- engine counter, Table 4.16. -/
  | neStallWait (i : Nat)
  /-- engine counter, Table 4.16. -/
  | neStallPwr (i : Nat)
  /-- engine counter, Table 4.16. -/
  | neHmonCnt (i : Nat)
  /-- Canvas counter, Table 3.8. -/
  | cvsLoadcyc (i : Nat)
  /-- Canvas counter, Table 3.8. -/
  | cvsStrmcyc (i : Nat)
  /-- Canvas counter, Table 3.8. -/
  | cvsMacs (i : Nat)
  /-- NE_CVS_STAT e, Table 3.9. -/
  | cvsStat (i : Nat)
  /-- NE_CVS_BIASCNT e, Table 3.10. -/
  | cvsBiascnt (i : Nat)
  /-- NE_PNT_CTL e, Table 7.8. -/
  | pntCtl (i : Nat)
  /-- NE_PNT_RERUNS e. -/
  | pntReruns (i : Nat)
  /-- NE_PNT_REFUSED e. -/
  | pntRefused (i : Nat)
  /-- NE_PNT_LAST e. -/
  | pntLast (i : Nat)
  /-- NE_FQ_STAT e q, Table 9.7. -/
  | fqStat (i : Nat) (j : Nat)
  /-- NE_FQ_CRGRANT e q. -/
  | fqCrgrant (i : Nat) (j : Nat)
  /-- NE_FQ_CRRET e q. -/
  | fqCrret (i : Nat) (j : Nat)
  /-- NE_FQ_CROUT e q. -/
  | fqCrout (i : Nat) (j : Nat)
  /-- NE_FQ_DISCARD e q. -/
  | fqDiscard (i : Nat) (j : Nat)
  /-- NE_FQ_CTL e q. -/
  | fqCtl (i : Nat) (j : Nat)
deriving DecidableEq, Repr

/-- The offset of a register from 0x000_8000_0000 (Table 19.2). -/
def Reg.addr : Reg → Nat
  | .sysctlId => 0x0
  | .sysctlStrap => 0x10
  | .clkStat => 0x100000
  | .pmcCapMax => 0x200000
  | .pmcBoCfg => 0x200008
  | .pmcThermCfg => 0x200010
  | .pmcRstcause => 0x200018
  | .pmcFuseNmin => 0x200040
  | .pmcFuseVtrim => 0x200048
  | .pmcPmb i => 0x200080 + 0x8 * i
  | .pmcCap => 0x280000
  | .pmcPwr => 0x280008
  | .pmcBoStat => 0x280010
  | .pmcBoCount => 0x280018
  | .pmcNvgate => 0x280020
  | .pmcEvhead => 0x280028
  | .pmcEvnote => 0x280030
  | .pmcPolicy => 0x280038
  | .pmcRes => 0x280040
  | .pmcNePerf i => 0x280100 + 0x40 * i
  | .pmcNeRings i => 0x280108 + 0x40 * i
  | .pmcNeTimer i => 0x280110 + 0x40 * i
  | .pmcNeDroop i => 0x280118 + 0x40 * i
  | .pmcTs i => 0x280400 + 0x8 * i
  | .pmcEvlog i j => 0x281000 + 0x10 * i + 0x8 * j
  | .secStatus => 0x300000
  | .secBlkworld => 0x300008
  | .secLock => 0x300010
  | .secViol => 0x300018
  | .secVlog => 0x300020
  | .secUpdStat => 0x300028
  | .secDbgStat => 0x300030
  | .secRgnBase i => 0x300100 + 0x10 * i
  | .secRgnCfg i => 0x300108 + 0x10 * i
  | .secMeas i j => 0x300800 + 0x20 * i + 0x8 * j
  | .secCtr i => 0x300a00 + 0x8 * i
  | .mbxCfg i => 0x400000 + 0x1000 * i
  | .mbxPushR i => 0x400008 + 0x1000 * i
  | .mbxPopR i => 0x400010 + 0x1000 * i
  | .mbxStat i => 0x400018 + 0x1000 * i
  | .mbxLost i => 0x400020 + 0x1000 * i
  | .mbxBadsrc i => 0x400028 + 0x1000 * i
  | .fenceProbeCtl => 0x500000
  | .fenceProbes => 0x500008
  | .fenceDeadlocks => 0x500010
  | .fenceDropped => 0x500018
  | .fenceOooTotal => 0x500020
  | .fenceBadref => 0x500028
  | .fenceCtxRangeR i => 0x501000 + 0x8 * i
  | .fencePortCtx i => 0x502000 + 0x8 * i
  | .fencePortIdx i => 0x540000 + 0x1000 * i
  | .fencePortVal i => 0x540008 + 0x1000 * i
  | .fencePortSigR i => 0x540010 + 0x1000 * i
  | .fencePortAttrR i => 0x540018 + 0x1000 * i
  | .cpqInit => 0x600000
  | .cpqReady => 0x600008
  | .cpqEvent => 0x600010
  | .cpqEventVec => 0x600018
  | .cpqKick => 0x600020
  | .cpqCtxOp => 0x600028
  | .cpqCtxStat => 0x600030
  | .cpqLoadprog i => 0x600038 + 0x8 * i
  | .sqBase i => 0x610000 + 0x20 * i
  | .sqDb i => 0x610008 + 0x20 * i
  | .sqCfg i => 0x610010 + 0x20 * i
  | .sqPollR i => 0x610018 + 0x20 * i
  | .cqBase i => 0x620000 + 0x20 * i
  | .cqDb i => 0x620008 + 0x20 * i
  | .cqCfg i => 0x620010 + 0x20 * i
  | .cqTmr i => 0x620018 + 0x20 * i
  | .ctxState i => 0x640000 + 0x10 * i
  | .ctxEngcyc i => 0x640008 + 0x10 * i
  | .pmtStage0 => 0x700000
  | .pmtStage1 => 0x700008
  | .pmtInstallR => 0x700010
  | .pmtResult => 0x700018
  | .pmtIndex => 0x700020
  | .pcieW2Ctl => 0x800000
  | .pcieW2Vbase => 0x800008
  | .pcieW2Refused => 0x800010
  | .pcieLink => 0x800018
  | .msixAddr i => 0x880000 + 0x10 * i
  | .msixData i => 0x880008 + 0x10 * i
  | .msixCtl i => 0x88000c + 0x10 * i
  | .msixPba i => 0x888000 + 0x8 * i
  | .rpCtl => 0x900000
  | .rpCfg => 0x900008
  | .rpCfgdata => 0x900010
  | .rpAp => 0x900018
  | .rpInBase => 0x900020
  | .rpInLimit => 0x900028
  | .usbCtl => 0xa00000
  | .usbEpRing i => 0xa00100 + 0x20 * i
  | .usbEpIdx i => 0xa00108 + 0x20 * i
  | .usbEpCfg i => 0xa00110 + 0x20 * i
  | .ethCfg i => 0xb00000 + 0x100000 * i
  | .ethRxring i => 0xb00008 + 0x100000 * i
  | .ethTxring i => 0xb00010 + 0x100000 * i
  | .ethIdx i => 0xb00018 + 0x100000 * i
  | .ethTslat i => 0xb00020 + 0x100000 * i
  | .ethRxdrop i => 0xb00028 + 0x100000 * i
  | .timeSec => 0xd00000
  | .timeNsf => 0xd00008
  | .timeStepR => 0xd00010
  | .timeFreq => 0xd00018
  | .timeSrvCtl => 0xd00020
  | .timeSrvThr => 0xd00028
  | .timeSrvOfs => 0xd00030
  | .timeSrvStat => 0xd00038
  | .timeSteps => 0xd00040
  | .encCfg i => 0xe00000 + 0x80 * i
  | .encPos i => 0xe00008 + 0x80 * i
  | .encLast i => 0xe00010 + 0x80 * i
  | .encSpeed i => 0xe00018 + 0x80 * i
  | .encIdxp i => 0xe00020 + 0x80 * i
  | .encIdxt i => 0xe00028 + 0x80 * i
  | .encErr i => 0xe00030 + 0x80 * i
  | .encJob i => 0xe00038 + 0x80 * i
  | .encJobstat i => 0xe00040 + 0x80 * i
  | .encJobmm i => 0xe00048 + 0x80 * i
  | .tioCfg i => 0xe01000 + 0x10 * i
  | .tioStat i => 0xe01008 + 0x10 * i
  | .taqBase i => 0xe02000 + 0x40 * i
  | .taqCfg i => 0xe02008 + 0x40 * i
  | .taqFence i => 0xe02010 + 0x40 * i
  | .taqFired i => 0xe02018 + 0x40 * i
  | .taqLate i => 0xe02020 + 0x40 * i
  | .taqDropped i => 0xe02028 + 0x40 * i
  | .taqDiscarded i => 0xe02030 + 0x40 * i
  | .taqPending i => 0xe02038 + 0x40 * i
  | .canCtl i => 0xf00000 + 0x100000 * i
  | .canNbt i => 0xf00008 + 0x100000 * i
  | .canDbt i => 0xf00010 + 0x100000 * i
  | .canTxreqR i => 0xf00018 + 0x100000 * i
  | .canRxstat i => 0xf00020 + 0x100000 * i
  | .canRxhead i j => 0xf00800 + 0x100000 * i + 0x8 * j
  | .canTxbuf i j k => 0xf01000 + 0x100000 * i + 0x50 * j + 0x8 * k
  | .csiPortCfg i => 0x1100000 + 0x100 * i
  | .csiDtdrop i => 0x1100008 + 0x100 * i
  | .srcCtl i j => 0x1110000 + 0x100000 * i + 0x100 * j
  | .srcGen i j => 0x1110008 + 0x100000 * i + 0x100 * j
  | .srcNoring i j => 0x1110010 + 0x100000 * i + 0x100 * j
  | .srcLost i j => 0x1110018 + 0x100000 * i + 0x100 * j
  | .srcErr i j => 0x1110020 + 0x100000 * i + 0x100 * j
  | .srcTrig i j => 0x1110028 + 0x100000 * i + 0x100 * j
  | .csiStCfg i => 0x1110040 + 0x100 * i
  | .csiStGeom i => 0x1110048 + 0x100 * i
  | .cxpCcAddr i => 0x1200000 + 0x100 * i
  | .cxpCcData i => 0x1200008 + 0x100 * i
  | .cxpCcCtl i => 0x1200010 + 0x100 * i
  | .cxpCamCfg i => 0x1210040 + 0x100 * i
  | .cxpCamGeom i => 0x1210048 + 0x100 * i
  | .lfcCfg i => 0x1310040 + 0x100 * i
  | .lfcGeom i => 0x1310048 + 0x100 * i
  | .lfcTbase0 i => 0x1310050 + 0x100 * i
  | .lfcTbase1 i => 0x1310058 + 0x100 * i
  | .lfcLst i => 0x1310060 + 0x100 * i
  | .ippCxIn i j => 0x1410040 + 0x100000 * i + 0x100 * j
  | .ippCxPb i j => 0x1410048 + 0x100000 * i + 0x100 * j
  | .ippCxOut i j => 0x1410050 + 0x100000 * i + 0x100 * j
  | .ippTapskip i j => 0x1410058 + 0x100000 * i + 0x100 * j
  | .cdcCtl i j => 0x1610000 + 0x100000 * i + 0x100 * j
  | .cdcRc i j => 0x1610008 + 0x100000 * i + 0x100 * j
  | .vencOversize i j => 0x1610010 + 0x100000 * i + 0x100 * j
  | .sdmaArmR i => 0x1900000 + 0x80 * i
  | .sdmaCfg i => 0x1900008 + 0x80 * i
  | .sdmaStatus i => 0x1900010 + 0x80 * i
  | .sdmaBytes i => 0x1900018 + 0x80 * i
  | .frBase i => 0x1901000 + 0x80 * i
  | .frCfg i => 0x1901008 + 0x80 * i
  | .frRec i => 0x1901010 + 0x80 * i
  | .frFence i => 0x1901018 + 0x80 * i
  | .frCtl i => 0x1901020 + 0x80 * i
  | .frPseq i => 0x1901028 + 0x80 * i
  | .frFseq i => 0x1901030 + 0x80 * i
  | .frDrops i => 0x1901038 + 0x80 * i
  | .frCseq i j => 0x1901040 + 0x80 * i + 0x8 * j
  | .frPortOp i => 0x1903000 + 0x10 * i
  | .frPortRes i => 0x1903008 + 0x10 * i
  | .dmcCfg => 0x1a00000
  | .dmcTrainCtl => 0x1a00008
  | .dmcTrainStatus => 0x1a00010
  | .dmcFill => 0x1a00018
  | .dmcScrub => 0x1a00020
  | .dmcEccInj => 0x1a00028
  | .dmcHash i => 0x1a00100 + 0x8 * i
  | .dmcChStatus i => 0x1b00000 + 0x100000 * i
  | .dmcPanicLvl i => 0x1b00008 + 0x100000 * i
  | .dmcCount i j => 0x1b00100 + 0x100000 * i + 0x8 * j
  | .dmcUeLog i => 0x1b00200 + 0x100000 * i
  | .dmcCeLog i => 0x1b00208 + 0x100000 * i
  | .gsScrubCtl => 0x1f00000
  | .gsEccInj => 0x1f00008
  | .gsCeCount i => 0x1f00100 + 0x8 * i
  | .gsUeCount i => 0x1f00140 + 0x8 * i
  | .gsWbDrop => 0x1f00180
  | .gsUeLog => 0x1f00200
  | .gsCeLog => 0x1f00208
  | .gsBistCtl => 0x1f00300
  | .gsBistStatus => 0x1f00308
  | .gsBistFail => 0x1f00310
  | .gsNowinRefused i => 0x1f00400 + 0x8 * i
  | .gsWinBase i j => 0x1f01000 + 0x100 * i + 0x10 * j
  | .gsWinSize i j => 0x1f01004 + 0x100 * i + 0x10 * j
  | .gsWinCtl i j => 0x1f01008 + 0x100 * i + 0x10 * j
  | .gsWinRefused i j => 0x1f0100c + 0x100 * i + 0x10 * j
  | .gsPfCtl => 0x1f02000
  | .gsPf i => 0x1f02008 + 0x8 * i
  | .hclRst => 0x2200000
  | .hclPdreq => 0x2200008
  | .hclStat => 0x2200010
  | .neCtl i => 0x2300000 + 0x100000 * i
  | .neStatus i => 0x2300008 + 0x100000 * i
  | .neTaskBase i => 0x2300010 + 0x100000 * i
  | .neTaskLimit i => 0x2300014 + 0x100000 * i
  | .neFaultStatus i => 0x2300020 + 0x100000 * i
  | .neFaultPc i => 0x2300024 + 0x100000 * i
  | .neFaultInfo i => 0x2300028 + 0x100000 * i
  | .neCyc i => 0x2300100 + 0x100000 * i
  | .neStallBank i => 0x2300108 + 0x100000 * i
  | .neStallRemote i => 0x2300110 + 0x100000 * i
  | .neStallWait i => 0x2300118 + 0x100000 * i
  | .neStallPwr i => 0x2300120 + 0x100000 * i
  | .neHmonCnt i => 0x2300128 + 0x100000 * i
  | .cvsLoadcyc i => 0x2300400 + 0x100000 * i
  | .cvsStrmcyc i => 0x2300408 + 0x100000 * i
  | .cvsMacs i => 0x2300410 + 0x100000 * i
  | .cvsStat i => 0x2300418 + 0x100000 * i
  | .cvsBiascnt i => 0x2300420 + 0x100000 * i
  | .pntCtl i => 0x2300500 + 0x100000 * i
  | .pntReruns i => 0x2300508 + 0x100000 * i
  | .pntRefused i => 0x2300510 + 0x100000 * i
  | .pntLast i => 0x2300518 + 0x100000 * i
  | .fqStat i j => 0x2300600 + 0x100000 * i + 0x40 * j
  | .fqCrgrant i j => 0x2300608 + 0x100000 * i + 0x40 * j
  | .fqCrret i j => 0x2300610 + 0x100000 * i + 0x40 * j
  | .fqCrout i j => 0x2300618 + 0x100000 * i + 0x40 * j
  | .fqDiscard i j => 0x2300620 + 0x100000 * i + 0x40 * j
  | .fqCtl i j => 0x2300628 + 0x100000 * i + 0x40 * j

/-- The width of a register in bits (R447). -/
def Reg.width : Reg → Nat
  | .sysctlId => 32
  | .sysctlStrap => 32
  | .clkStat => 32
  | .pmcCapMax => 32
  | .pmcBoCfg => 32
  | .pmcThermCfg => 32
  | .pmcRstcause => 32
  | .pmcFuseNmin => 64
  | .pmcFuseVtrim => 64
  | .pmcPmb _ => 32
  | .pmcCap => 32
  | .pmcPwr => 64
  | .pmcBoStat => 32
  | .pmcBoCount => 64
  | .pmcNvgate => 64
  | .pmcEvhead => 64
  | .pmcEvnote => 32
  | .pmcPolicy => 64
  | .pmcRes => 32
  | .pmcNePerf _ => 64
  | .pmcNeRings _ => 64
  | .pmcNeTimer _ => 64
  | .pmcNeDroop _ => 64
  | .pmcTs _ => 32
  | .pmcEvlog _ _ => 64
  | .secStatus => 32
  | .secBlkworld => 64
  | .secLock => 32
  | .secViol => 64
  | .secVlog => 64
  | .secUpdStat => 32
  | .secDbgStat => 32
  | .secRgnBase _ => 64
  | .secRgnCfg _ => 64
  | .secMeas _ _ => 64
  | .secCtr _ => 64
  | .mbxCfg _ => 64
  | .mbxPushR _ => 64
  | .mbxPopR _ => 64
  | .mbxStat _ => 32
  | .mbxLost _ => 64
  | .mbxBadsrc _ => 64
  | .fenceProbeCtl => 32
  | .fenceProbes => 64
  | .fenceDeadlocks => 64
  | .fenceDropped => 64
  | .fenceOooTotal => 64
  | .fenceBadref => 64
  | .fenceCtxRangeR _ => 64
  | .fencePortCtx _ => 64
  | .fencePortIdx _ => 32
  | .fencePortVal _ => 64
  | .fencePortSigR _ => 64
  | .fencePortAttrR _ => 64
  | .cpqInit => 32
  | .cpqReady => 32
  | .cpqEvent => 32
  | .cpqEventVec => 32
  | .cpqKick => 32
  | .cpqCtxOp => 32
  | .cpqCtxStat => 64
  | .cpqLoadprog _ => 32
  | .sqBase _ => 64
  | .sqDb _ => 64
  | .sqCfg _ => 32
  | .sqPollR _ => 32
  | .cqBase _ => 64
  | .cqDb _ => 64
  | .cqCfg _ => 32
  | .cqTmr _ => 32
  | .ctxState _ => 32
  | .ctxEngcyc _ => 64
  | .pmtStage0 => 64
  | .pmtStage1 => 64
  | .pmtInstallR => 32
  | .pmtResult => 64
  | .pmtIndex => 32
  | .pcieW2Ctl => 32
  | .pcieW2Vbase => 64
  | .pcieW2Refused => 64
  | .pcieLink => 32
  | .msixAddr _ => 64
  | .msixData _ => 32
  | .msixCtl _ => 32
  | .msixPba _ => 64
  | .rpCtl => 32
  | .rpCfg => 32
  | .rpCfgdata => 32
  | .rpAp => 64
  | .rpInBase => 64
  | .rpInLimit => 64
  | .usbCtl => 32
  | .usbEpRing _ => 64
  | .usbEpIdx _ => 32
  | .usbEpCfg _ => 32
  | .ethCfg _ => 32
  | .ethRxring _ => 64
  | .ethTxring _ => 64
  | .ethIdx _ => 64
  | .ethTslat _ => 32
  | .ethRxdrop _ => 64
  | .timeSec => 64
  | .timeNsf => 64
  | .timeStepR => 64
  | .timeFreq => 32
  | .timeSrvCtl => 32
  | .timeSrvThr => 64
  | .timeSrvOfs => 64
  | .timeSrvStat => 64
  | .timeSteps => 64
  | .encCfg _ => 32
  | .encPos _ => 64
  | .encLast _ => 64
  | .encSpeed _ => 64
  | .encIdxp _ => 64
  | .encIdxt _ => 64
  | .encErr _ => 64
  | .encJob _ => 64
  | .encJobstat _ => 64
  | .encJobmm _ => 32
  | .tioCfg _ => 32
  | .tioStat _ => 32
  | .taqBase _ => 64
  | .taqCfg _ => 32
  | .taqFence _ => 64
  | .taqFired _ => 64
  | .taqLate _ => 64
  | .taqDropped _ => 64
  | .taqDiscarded _ => 64
  | .taqPending _ => 32
  | .canCtl _ => 32
  | .canNbt _ => 32
  | .canDbt _ => 32
  | .canTxreqR _ => 32
  | .canRxstat _ => 32
  | .canRxhead _ _ => 64
  | .canTxbuf _ _ _ => 64
  | .csiPortCfg _ => 32
  | .csiDtdrop _ => 64
  | .srcCtl _ _ => 32
  | .srcGen _ _ => 32
  | .srcNoring _ _ => 64
  | .srcLost _ _ => 64
  | .srcErr _ _ => 64
  | .srcTrig _ _ => 64
  | .csiStCfg _ => 32
  | .csiStGeom _ => 64
  | .cxpCcAddr _ => 32
  | .cxpCcData _ => 32
  | .cxpCcCtl _ => 32
  | .cxpCamCfg _ => 32
  | .cxpCamGeom _ => 64
  | .lfcCfg _ => 32
  | .lfcGeom _ => 64
  | .lfcTbase0 _ => 64
  | .lfcTbase1 _ => 64
  | .lfcLst _ => 64
  | .ippCxIn _ _ => 32
  | .ippCxPb _ _ => 64
  | .ippCxOut _ _ => 64
  | .ippTapskip _ _ => 64
  | .cdcCtl _ _ => 32
  | .cdcRc _ _ => 64
  | .vencOversize _ _ => 64
  | .sdmaArmR _ => 64
  | .sdmaCfg _ => 32
  | .sdmaStatus _ => 64
  | .sdmaBytes _ => 64
  | .frBase _ => 64
  | .frCfg _ => 64
  | .frRec _ => 64
  | .frFence _ => 64
  | .frCtl _ => 32
  | .frPseq _ => 64
  | .frFseq _ => 64
  | .frDrops _ => 64
  | .frCseq _ _ => 64
  | .frPortOp _ => 32
  | .frPortRes _ => 32
  | .dmcCfg => 32
  | .dmcTrainCtl => 32
  | .dmcTrainStatus => 32
  | .dmcFill => 64
  | .dmcScrub => 32
  | .dmcEccInj => 32
  | .dmcHash _ => 64
  | .dmcChStatus _ => 32
  | .dmcPanicLvl _ => 32
  | .dmcCount _ _ => 64
  | .dmcUeLog _ => 64
  | .dmcCeLog _ => 64
  | .gsScrubCtl => 32
  | .gsEccInj => 32
  | .gsCeCount _ => 64
  | .gsUeCount _ => 64
  | .gsWbDrop => 64
  | .gsUeLog => 64
  | .gsCeLog => 64
  | .gsBistCtl => 32
  | .gsBistStatus => 64
  | .gsBistFail => 64
  | .gsNowinRefused _ => 64
  | .gsWinBase _ _ => 32
  | .gsWinSize _ _ => 32
  | .gsWinCtl _ _ => 32
  | .gsWinRefused _ _ => 32
  | .gsPfCtl => 32
  | .gsPf _ => 64
  | .hclRst => 32
  | .hclPdreq => 32
  | .hclStat => 32
  | .neCtl _ => 32
  | .neStatus _ => 32
  | .neTaskBase _ => 32
  | .neTaskLimit _ => 32
  | .neFaultStatus _ => 32
  | .neFaultPc _ => 32
  | .neFaultInfo _ => 64
  | .neCyc _ => 64
  | .neStallBank _ => 64
  | .neStallRemote _ => 64
  | .neStallWait _ => 64
  | .neStallPwr _ => 64
  | .neHmonCnt _ => 64
  | .cvsLoadcyc _ => 64
  | .cvsStrmcyc _ => 64
  | .cvsMacs _ => 64
  | .cvsStat _ => 32
  | .cvsBiascnt _ => 64
  | .pntCtl _ => 32
  | .pntReruns _ => 64
  | .pntRefused _ => 64
  | .pntLast _ => 64
  | .fqStat _ _ => 32
  | .fqCrgrant _ _ => 64
  | .fqCrret _ _ => 64
  | .fqCrout _ _ => 64
  | .fqDiscard _ _ => 64
  | .fqCtl _ _ => 32

/-- The reset masks of DMC_HASH 0 to 6, Table 13.10. -/
def hashReset : Nat → Nat
  | 0 => 0x0020200080
  | 1 => 0x0040400100
  | 2 => 0x0000800200
  | 3 => 0x0001000400
  | 4 => 0x0002000800
  | 5 => 0x0004001000
  | 6 => 0x0008002000
  | _ => 0

/-- The fields of a register, from the table that defines it. -/
def Reg.fields : Reg → List Field
  | .sysctlId => [⟨31, 16, .ro, 0x2860⟩, ⟨15, 12, .ro, 1⟩, ⟨11, 8, .ro, 0⟩, ⟨7, 4, .ro, 0⟩, ⟨3, 0, .ro, 0⟩]
  | .sysctlStrap => [⟨9, 8, .ro, 0⟩, ⟨1, 1, .ro, 0⟩, ⟨0, 0, .ro, 0⟩]
  | .clkStat => [⟨2, 2, .ro, 0⟩, ⟨1, 1, .ro, 0⟩, ⟨0, 0, .ro, 0⟩]
  | .pmcCapMax => [⟨15, 0, .rw, 0x320⟩]
  | .pmcBoCfg => [⟨31, 16, .rw, 0x6a4⟩, ⟨15, 0, .rw, 0x2bc⟩]
  | .pmcThermCfg => [⟨15, 8, .rw, 3⟩, ⟨7, 0, .rw, 0x64⟩]
  | .pmcRstcause => [⟨0, 0, .ro, 0⟩]
  | .pmcFuseNmin => [⟨41, 0, .ro, 0⟩]
  | .pmcFuseVtrim => [⟨35, 0, .ro, 0⟩]
  | .pmcPmb _ => [⟨15, 15, .rw, 0⟩, ⟨9, 8, .rw, 0⟩, ⟨6, 0, .rw, 0⟩]
  | .pmcCap => [⟨15, 0, .rw, 0x320⟩]
  | .pmcPwr => [⟨63, 48, .ro, 0⟩, ⟨47, 32, .ro, 0x320⟩, ⟨31, 16, .ro, 0x320⟩, ⟨15, 0, .ro, 0⟩]
  | .pmcBoStat => [⟨31, 31, .ro, 0⟩, ⟨30, 30, .ro, 0⟩, ⟨13, 8, .ro, 0⟩, ⟨6, 0, .ro, 0⟩]
  | .pmcBoCount => [⟨63, 0, .rw, 0⟩]
  | .pmcNvgate => [⟨50, 32, .rw, 0⟩, ⟨18, 0, .rw, 0⟩]
  | .pmcEvhead => [⟨63, 0, .ro, 0⟩]
  | .pmcEvnote => [⟨31, 31, .rw, 0⟩, ⟨3, 0, .rw, 0⟩]
  | .pmcPolicy => [⟨47, 32, .rw, 0x14⟩, ⟨19, 16, .rw, 2⟩, ⟨15, 0, .rw, 0x78⟩]
  | .pmcRes => [⟨31, 16, .rw, 0x50⟩, ⟨15, 0, .rw, 0x10⟩]
  | .pmcNePerf _ => [⟨63, 48, .rw, 0⟩, ⟨47, 32, .rw, 0⟩, ⟨31, 29, .ro, 0⟩, ⟨28, 28, .ro, 0⟩, ⟨27, 27, .rw, 0⟩, ⟨26, 24, .rw, 3⟩, ⟨14, 8, .ro, 0x20⟩, ⟨6, 0, .rw, 0x20⟩]
  | .pmcNeRings _ => [⟨63, 0, .rw, 0⟩]
  | .pmcNeTimer _ => [⟨63, 0, .rw, 0⟩]
  | .pmcNeDroop _ => [⟨63, 0, .rw, 0⟩]
  | .pmcTs _ => [⟨15, 0, .ro, 0⟩]
  | .pmcEvlog _ _ => [⟨63, 0, .ro, 0⟩]
  | .secStatus => [⟨23, 20, .ro, 0⟩, ⟨17, 17, .ro, 0⟩, ⟨16, 16, .ro, 0⟩, ⟨9, 8, .ro, 0⟩, ⟨7, 0, .ro, 0⟩]
  | .secBlkworld => [⟨40, 0, .rw, 0x37c00000f⟩]
  | .secLock => [⟨0, 0, .w1s, 0⟩]
  | .secViol => [⟨63, 0, .rw, 0⟩]
  | .secVlog => [⟨63, 63, .w1c, 0⟩, ⟨62, 56, .ro, 0⟩, ⟨55, 55, .ro, 0⟩, ⟨19, 0, .ro, 0⟩]
  | .secUpdStat => [⟨31, 31, .ro, 0⟩, ⟨30, 30, .ro, 0⟩, ⟨13, 0, .ro, 0⟩]
  | .secDbgStat => [⟨31, 31, .ro, 0⟩, ⟨4, 4, .w1s, 0⟩, ⟨3, 2, .ro, 0⟩]
  | .secRgnBase _ => [⟨43, 16, .rw, 0⟩]
  | .secRgnCfg _ => [⟨43, 16, .rw, 0⟩, ⟨3, 3, .w1s, 0⟩, ⟨2, 2, .rw, 0⟩, ⟨1, 1, .rw, 0⟩, ⟨0, 0, .rw, 0⟩]
  | .secMeas _ _ => [⟨63, 0, .ro, 0⟩]
  | .secCtr _ => [⟨63, 0, .ro, 0⟩]
  | .mbxCfg _ => [⟨63, 63, .rw, 0⟩, ⟨62, 62, .rw, 0⟩, ⟨61, 61, .rw, 0⟩, ⟨59, 56, .rw, 0⟩, ⟨55, 52, .rw, 0⟩, ⟨42, 32, .rw, 0⟩, ⟨10, 0, .rw, 0⟩]
  | .mbxPushR _ => [⟨63, 0, .wo, 0⟩]
  | .mbxPopR _ => [⟨63, 0, .ro, 0⟩]
  | .mbxStat _ => [⟨15, 12, .ro, 0⟩, ⟨4, 4, .w1c, 0⟩, ⟨3, 3, .w1c, 0⟩, ⟨2, 2, .w1c, 0⟩, ⟨1, 1, .w1c, 0⟩]
  | .mbxLost _ => [⟨63, 0, .rw, 0⟩]
  | .mbxBadsrc _ => [⟨63, 0, .rw, 0⟩]
  | .fenceProbeCtl => [⟨31, 31, .rw, 1⟩, ⟨30, 30, .ro, 0⟩, ⟨15, 0, .rw, 0x64⟩]
  | .fenceProbes => [⟨63, 0, .rw, 0⟩]
  | .fenceDeadlocks => [⟨63, 0, .rw, 0⟩]
  | .fenceDropped => [⟨63, 0, .rw, 0⟩]
  | .fenceOooTotal => [⟨63, 0, .rw, 0⟩]
  | .fenceBadref => [⟨63, 0, .rw, 0⟩]
  | .fenceCtxRangeR _ => [⟨63, 63, .w1c, 0⟩, ⟨49, 32, .rw, 0⟩, ⟨16, 0, .rw, 0⟩]
  | .fencePortCtx _ => [⟨11, 0, .rw, 0⟩]
  | .fencePortIdx _ => [⟨16, 0, .rw, 0⟩]
  | .fencePortVal _ => [⟨63, 0, .ro, 0⟩]
  | .fencePortSigR _ => [⟨63, 0, .wo, 0⟩]
  | .fencePortAttrR _ => [⟨63, 63, .w1c, 0⟩, ⟨47, 32, .ro, 0⟩, ⟨1, 1, .ro, 0⟩, ⟨0, 0, .rw, 0⟩]
  | .cpqInit => [⟨1, 0, .rw, 0⟩]
  | .cpqReady => [⟨31, 31, .ro, 0⟩, ⟨30, 30, .ro, 0⟩, ⟨19, 16, .ro, 0⟩, ⟨13, 0, .ro, 0⟩]
  | .cpqEvent => [⟨5, 0, .w1c, 0⟩]
  | .cpqEventVec => [⟨31, 31, .rw, 0⟩, ⟨10, 0, .rw, 0⟩]
  | .cpqKick => [⟨9, 0, .wo, 0⟩]
  | .cpqCtxOp => [⟨17, 16, .wo, 0⟩, ⟨11, 0, .wo, 0⟩]
  | .cpqCtxStat => [⟨47, 32, .ro, 0⟩, ⟨31, 31, .ro, 0⟩, ⟨27, 16, .ro, 0⟩, ⟨15, 0, .ro, 0⟩]
  | .cpqLoadprog _ => [⟨31, 31, .ro, 0⟩, ⟨25, 16, .ro, 0⟩, ⟨13, 0, .ro, 0⟩]
  | .sqBase _ => [⟨63, 12, .rw, 0⟩]
  | .sqDb _ => [⟨63, 4, .rw, 0⟩]
  | .sqCfg _ => [⟨31, 31, .rw, 0⟩, ⟨30, 29, .ro, 0⟩, ⟨28, 26, .rw, 0⟩, ⟨25, 16, .rw, 0⟩, ⟨15, 12, .rw, 3⟩, ⟨11, 0, .rw, 0⟩]
  | .sqPollR _ => [⟨15, 0, .rw, 0⟩]
  | .cqBase _ => [⟨63, 12, .rw, 0⟩]
  | .cqDb _ => [⟨63, 4, .rw, 0⟩]
  | .cqCfg _ => [⟨31, 31, .rw, 0⟩, ⟨23, 16, .rw, 1⟩, ⟨15, 12, .rw, 3⟩, ⟨10, 0, .rw, 0⟩]
  | .cqTmr _ => [⟨15, 0, .rw, 0⟩]
  | .ctxState _ => [⟨31, 16, .ro, 0⟩, ⟨1, 0, .ro, 0⟩]
  | .ctxEngcyc _ => [⟨63, 0, .rw, 0⟩]
  | .pmtStage0 => [⟨63, 63, .ro, 0⟩, ⟨62, 62, .rw, 0⟩, ⟨61, 61, .rw, 0⟩, ⟨60, 60, .rw, 0⟩, ⟨59, 48, .rw, 0⟩, ⟨47, 16, .rw, 0⟩]
  | .pmtStage1 => [⟨63, 52, .ro, 0⟩, ⟨43, 16, .rw, 0⟩]
  | .pmtInstallR => [⟨2, 0, .wo, 0⟩]
  | .pmtResult => [⟨63, 48, .ro, 0⟩, ⟨47, 32, .ro, 0⟩, ⟨31, 31, .ro, 0⟩, ⟨30, 30, .w1c, 0⟩, ⟨16, 0, .ro, 0⟩]
  | .pmtIndex => [⟨16, 0, .rw, 0⟩]
  | .pcieW2Ctl => [⟨31, 31, .rw, 0⟩, ⟨11, 0, .rw, 0⟩]
  | .pcieW2Vbase => [⟨47, 21, .rw, 0⟩]
  | .pcieW2Refused => [⟨63, 0, .rw, 0⟩]
  | .pcieLink => [⟨7, 4, .ro, 0⟩, ⟨3, 0, .ro, 0⟩]
  | .msixAddr _ => [⟨63, 0, .rw, 0⟩]
  | .msixData _ => [⟨31, 0, .rw, 0⟩]
  | .msixCtl _ => [⟨0, 0, .rw, 1⟩]
  | .msixPba _ => [⟨63, 0, .ro, 0⟩]
  | .rpCtl => [⟨31, 31, .rw, 0⟩, ⟨7, 4, .ro, 0⟩, ⟨3, 0, .ro, 0⟩]
  | .rpCfg => [⟨31, 31, .w1s, 0⟩, ⟨30, 30, .rw, 0⟩, ⟨29, 29, .w1c, 0⟩, ⟨11, 0, .rw, 0⟩]
  | .rpCfgdata => [⟨31, 0, .rw, 0⟩]
  | .rpAp => [⟨63, 19, .rw, 0⟩]
  | .rpInBase => [⟨43, 16, .rw, 0⟩]
  | .rpInLimit => [⟨43, 16, .rw, 0⟩]
  | .usbCtl => [⟨31, 31, .rw, 0⟩, ⟨30, 30, .ro, 0⟩, ⟨29, 28, .ro, 0⟩]
  | .usbEpRing _ => [⟨43, 12, .rw, 0⟩, ⟨3, 0, .rw, 4⟩]
  | .usbEpIdx _ => [⟨31, 16, .ro, 0⟩, ⟨15, 0, .rw, 0⟩]
  | .usbEpCfg _ => [⟨31, 31, .rw, 0⟩, ⟨30, 30, .rw, 0⟩, ⟨29, 28, .rw, 0⟩, ⟨10, 0, .rw, 0x40⟩]
  | .ethCfg _ => [⟨31, 31, .rw, 0⟩, ⟨30, 30, .rw, 0⟩, ⟨29, 28, .rw, 0⟩]
  | .ethRxring _ => [⟨43, 12, .rw, 0⟩, ⟨3, 0, .rw, 4⟩]
  | .ethTxring _ => [⟨43, 12, .rw, 0⟩, ⟨3, 0, .rw, 4⟩]
  | .ethIdx _ => [⟨63, 48, .ro, 0⟩, ⟨47, 32, .rw, 0⟩, ⟨31, 16, .ro, 0⟩, ⟨15, 0, .rw, 0⟩]
  | .ethTslat _ => [⟨31, 16, .rw, 0⟩, ⟨15, 0, .rw, 0⟩]
  | .ethRxdrop _ => [⟨63, 0, .rw, 0⟩]
  | .timeSec => [⟨47, 0, .ro, 0⟩]
  | .timeNsf => [⟨47, 16, .ro, 0⟩, ⟨15, 0, .ro, 0⟩]
  | .timeStepR => [⟨63, 0, .wo, 0⟩]
  | .timeFreq => [⟨31, 0, .rw, 0⟩]
  | .timeSrvCtl => [⟨31, 31, .rw, 0⟩, ⟨30, 30, .rw, 1⟩, ⟨23, 20, .rw, 2⟩, ⟨19, 16, .rw, 4⟩, ⟨15, 0, .rw, 0xbb8⟩]
  | .timeSrvThr => [⟨63, 32, .rw, 0xf4240⟩, ⟨31, 0, .rw, 0x64⟩]
  | .timeSrvOfs => [⟨63, 0, .wo, 0⟩]
  | .timeSrvStat => [⟨63, 62, .ro, 0⟩, ⟨31, 0, .ro, 0⟩]
  | .timeSteps => [⟨63, 0, .rw, 0⟩]
  | .encCfg _ => [⟨31, 31, .rw, 0⟩, ⟨30, 29, .rw, 0⟩, ⟨28, 28, .rw, 0⟩, ⟨27, 27, .rw, 0⟩, ⟨26, 25, .rw, 1⟩, ⟨24, 22, .rw, 4⟩, ⟨15, 0, .rw, 0x64⟩]
  | .encPos _ => [⟨47, 0, .ro, 0⟩]
  | .encLast _ => [⟨63, 0, .ro, 0⟩]
  | .encSpeed _ => [⟨63, 0, .ro, 0⟩]
  | .encIdxp _ => [⟨47, 0, .ro, 0⟩]
  | .encIdxt _ => [⟨63, 0, .ro, 0⟩]
  | .encErr _ => [⟨63, 0, .rw, 0⟩]
  | .encJob _ => [⟨63, 48, .rw, 0⟩, ⟨47, 0, .rw, 0⟩]
  | .encJobstat _ => [⟨63, 48, .ro, 0⟩, ⟨47, 0, .ro, 0⟩]
  | .encJobmm _ => [⟨31, 0, .ro, 0⟩]
  | .tioCfg _ => [⟨31, 31, .rw, 0⟩, ⟨30, 30, .rw, 0⟩, ⟨29, 29, .rw, 0⟩, ⟨28, 28, .rw, 0⟩, ⟨26, 0, .rw, 0⟩]
  | .tioStat _ => [⟨0, 0, .ro, 0⟩]
  | .taqBase _ => [⟨47, 12, .rw, 0⟩]
  | .taqCfg _ => [⟨31, 31, .rw, 0⟩, ⟨30, 30, .rw, 0⟩, ⟨29, 29, .w1c, 0⟩, ⟨28, 27, .ro, 0⟩, ⟨26, 23, .rw, 4⟩, ⟨11, 0, .rw, 0⟩]
  | .taqFence _ => [⟨48, 32, .rw, 0⟩, ⟨16, 0, .rw, 0⟩]
  | .taqFired _ => [⟨63, 0, .rw, 0⟩]
  | .taqLate _ => [⟨63, 0, .rw, 0⟩]
  | .taqDropped _ => [⟨63, 0, .rw, 0⟩]
  | .taqDiscarded _ => [⟨63, 0, .rw, 0⟩]
  | .taqPending _ => [⟨13, 0, .ro, 0⟩]
  | .canCtl _ => [⟨31, 31, .rw, 0⟩, ⟨30, 30, .rw, 0⟩, ⟨29, 29, .rw, 1⟩, ⟨25, 24, .ro, 0⟩, ⟨23, 16, .ro, 0⟩, ⟨15, 8, .ro, 0⟩]
  | .canNbt _ => [⟨31, 24, .rw, 0⟩, ⟨23, 16, .rw, 0⟩, ⟨15, 8, .rw, 0⟩, ⟨7, 0, .rw, 0⟩]
  | .canDbt _ => [⟨31, 24, .rw, 0⟩, ⟨23, 16, .rw, 0⟩, ⟨15, 8, .rw, 0⟩, ⟨7, 0, .rw, 0⟩]
  | .canTxreqR _ => [⟨31, 0, .w1s, 0⟩]
  | .canRxstat _ => [⟨7, 7, .w1c, 0⟩, ⟨6, 0, .ro, 0⟩]
  | .canRxhead _ _ => [⟨63, 0, .ro, 0⟩]
  | .canTxbuf _ _ _ => [⟨63, 0, .rw, 0⟩]
  | .csiPortCfg _ => [⟨31, 31, .rw, 0⟩, ⟨30, 30, .rw, 0⟩, ⟨29, 28, .rw, 0⟩, ⟨27, 24, .rw, 0⟩, ⟨23, 16, .rw, 0xe4⟩, ⟨11, 0, .rw, 0⟩]
  | .csiDtdrop _ => [⟨63, 0, .rw, 0⟩]
  | .srcCtl _ _ => [⟨31, 31, .rw, 0⟩, ⟨30, 30, .w1s, 0⟩, ⟨29, 29, .w1c, 0⟩, ⟨28, 27, .rw, 0⟩, ⟨26, 22, .rw, 0⟩, ⟨21, 20, .rw, 0⟩, ⟨19, 19, .rw, 0⟩, ⟨15, 0, .rw, 0⟩]
  | .srcGen _ _ => [⟨31, 0, .ro, 0⟩]
  | .srcNoring _ _ => [⟨63, 0, .rw, 0⟩]
  | .srcLost _ _ => [⟨63, 0, .rw, 0⟩]
  | .srcErr _ _ => [⟨63, 0, .rw, 0⟩]
  | .srcTrig _ _ => [⟨63, 0, .rw, 0⟩]
  | .csiStCfg _ => [⟨15, 10, .rw, 0⟩, ⟨3, 0, .rw, 0⟩]
  | .csiStGeom _ => [⟨63, 48, .rw, 0⟩, ⟨47, 32, .rw, 0⟩, ⟨31, 0, .rw, 0⟩]
  | .cxpCcAddr _ => [⟨31, 0, .rw, 0⟩]
  | .cxpCcData _ => [⟨31, 0, .rw, 0⟩]
  | .cxpCcCtl _ => [⟨31, 31, .w1s, 0⟩, ⟨30, 30, .rw, 0⟩, ⟨23, 16, .ro, 0⟩, ⟨0, 0, .w1c, 0⟩]
  | .cxpCamCfg _ => [⟨31, 31, .rw, 0⟩, ⟨30, 28, .rw, 0⟩, ⟨27, 26, .rw, 0⟩, ⟨25, 23, .rw, 0⟩, ⟨22, 17, .rw, 0⟩, ⟨16, 12, .rw, 0⟩, ⟨11, 11, .rw, 0⟩]
  | .cxpCamGeom _ => [⟨63, 48, .rw, 0⟩, ⟨47, 32, .rw, 0⟩, ⟨31, 0, .rw, 0⟩]
  | .lfcCfg _ => [⟨31, 30, .rw, 0⟩, ⟨29, 29, .rw, 0⟩, ⟨28, 28, .rw, 0⟩, ⟨27, 12, .rw, 0x4000⟩, ⟨11, 11, .rw, 0⟩]
  | .lfcGeom _ => [⟨63, 48, .rw, 0⟩, ⟨47, 32, .rw, 0⟩, ⟨31, 0, .rw, 0⟩]
  | .lfcTbase0 _ => [⟨47, 6, .rw, 0⟩]
  | .lfcTbase1 _ => [⟨47, 6, .rw, 0⟩]
  | .lfcLst _ => [⟨47, 6, .rw, 0⟩]
  | .ippCxIn _ _ => [⟨31, 31, .rw, 0⟩, ⟨30, 30, .rw, 0⟩, ⟨29, 24, .rw, 0⟩, ⟨23, 21, .rw, 0⟩, ⟨15, 0, .rw, 0x40⟩]
  | .ippCxPb _ _ => [⟨43, 6, .rw, 0⟩]
  | .ippCxOut _ _ => [⟨63, 48, .rw, 0⟩, ⟨47, 32, .rw, 0⟩, ⟨31, 29, .rw, 0⟩, ⟨28, 26, .rw, 0⟩, ⟨25, 24, .rw, 0⟩, ⟨23, 23, .rw, 0⟩, ⟨22, 20, .rw, 6⟩, ⟨19, 19, .rw, 0⟩, ⟨18, 18, .rw, 0⟩]
  | .ippTapskip _ _ => [⟨63, 0, .rw, 0⟩]
  | .cdcCtl _ _ => [⟨31, 31, .rw, 0⟩, ⟨30, 30, .w1s, 0⟩, ⟨29, 27, .rw, 0⟩, ⟨26, 25, .rw, 0⟩, ⟨24, 22, .rw, 0⟩, ⟨21, 16, .rw, 0⟩, ⟨15, 13, .rw, 0⟩]
  | .cdcRc _ _ => [⟨63, 32, .rw, 0⟩, ⟨31, 30, .rw, 0⟩, ⟨29, 24, .rw, 0x1a⟩, ⟨15, 0, .rw, 0x3c⟩]
  | .vencOversize _ _ => [⟨63, 0, .rw, 0⟩]
  | .sdmaArmR _ => [⟨47, 6, .wo, 0⟩]
  | .sdmaCfg _ => [⟨27, 16, .rw, 0⟩, ⟨0, 0, .rw, 0⟩]
  | .sdmaStatus _ => [⟨63, 48, .ro, 0⟩, ⟨47, 32, .ro, 0⟩, ⟨31, 8, .ro, 0⟩, ⟨7, 2, .ro, 0⟩, ⟨1, 0, .ro, 0⟩]
  | .sdmaBytes _ => [⟨63, 0, .rw, 0⟩]
  | .frBase _ => [⟨47, 16, .rw, 0⟩]
  | .frCfg _ => [⟨63, 48, .rw, 0⟩, ⟨43, 32, .rw, 0⟩, ⟨23, 16, .rw, 0⟩, ⟨10, 8, .rw, 0⟩, ⟨6, 0, .rw, 0⟩]
  | .frRec _ => [⟨47, 6, .rw, 0⟩]
  | .frFence _ => [⟨48, 32, .rw, 0⟩, ⟨16, 0, .rw, 0⟩]
  | .frCtl _ => [⟨4, 4, .w1c, 0⟩, ⟨3, 3, .w1c, 0⟩, ⟨2, 1, .ro, 0⟩, ⟨0, 0, .rw, 0⟩]
  | .frPseq _ => [⟨63, 0, .ro, 0⟩]
  | .frFseq _ => [⟨63, 0, .ro, 0⟩]
  | .frDrops _ => [⟨63, 0, .rw, 0⟩]
  | .frCseq _ _ => [⟨63, 0, .ro, 0⟩]
  | .frPortOp _ => [⟨14, 14, .wo, 0⟩, ⟨13, 13, .wo, 0⟩, ⟨12, 12, .wo, 0⟩, ⟨10, 8, .wo, 0⟩]
  | .frPortRes _ => [⟨16, 16, .ro, 0⟩, ⟨5, 0, .ro, 0⟩]
  | .dmcCfg => [⟨31, 31, .w1s, 0⟩, ⟨1, 0, .rw, 2⟩]
  | .dmcTrainCtl => [⟨0, 0, .wo, 0⟩]
  | .dmcTrainStatus => [⟨31, 31, .ro, 0⟩, ⟨30, 30, .ro, 0⟩, ⟨29, 29, .ro, 0⟩, ⟨28, 27, .ro, 0⟩, ⟨26, 24, .ro, 0⟩, ⟨23, 22, .ro, 0⟩, ⟨13, 0, .ro, 0⟩]
  | .dmcFill => [⟨63, 48, .ro, 0⟩, ⟨47, 44, .ro, 0⟩, ⟨38, 21, .ro, 0⟩, ⟨15, 15, .ro, 0⟩, ⟨13, 0, .ro, 0⟩]
  | .dmcScrub => [⟨31, 0, .rw, 0x186a0⟩]
  | .dmcEccInj => [⟨8, 8, .w1s, 0⟩, ⟨5, 4, .rw, 0⟩, ⟨1, 0, .rw, 0⟩]
  | .dmcHash i => [⟨39, 0, .rw, hashReset i⟩]
  | .dmcChStatus _ => [⟨31, 30, .ro, 0⟩, ⟨29, 29, .ro, 0⟩, ⟨28, 28, .ro, 0⟩, ⟨27, 26, .ro, 0⟩, ⟨8, 0, .ro, 0⟩]
  | .dmcPanicLvl _ => [⟨24, 16, .rw, 0x40⟩, ⟨8, 0, .rw, 0x80⟩]
  | .dmcCount _ _ => [⟨63, 0, .rw, 0⟩]
  | .dmcUeLog _ => [⟨63, 63, .w1c, 0⟩, ⟨62, 61, .ro, 0⟩, ⟨60, 60, .ro, 0⟩, ⟨59, 59, .ro, 0⟩, ⟨58, 56, .ro, 0⟩, ⟨55, 54, .ro, 0⟩, ⟨53, 37, .ro, 0⟩, ⟨36, 26, .ro, 0⟩, ⟨25, 22, .ro, 0⟩]
  | .dmcCeLog _ => [⟨63, 63, .w1c, 0⟩, ⟨62, 61, .ro, 0⟩, ⟨60, 60, .ro, 0⟩, ⟨59, 59, .ro, 0⟩, ⟨58, 56, .ro, 0⟩, ⟨55, 54, .ro, 0⟩, ⟨53, 37, .ro, 0⟩, ⟨36, 26, .ro, 0⟩, ⟨25, 22, .ro, 0⟩]
  | .gsScrubCtl => [⟨15, 0, .rw, 0x10⟩]
  | .gsEccInj => [⟨8, 8, .w1s, 0⟩, ⟨6, 4, .rw, 0⟩, ⟨1, 0, .rw, 0⟩]
  | .gsCeCount _ => [⟨63, 0, .rw, 0⟩]
  | .gsUeCount _ => [⟨63, 0, .rw, 0⟩]
  | .gsWbDrop => [⟨63, 0, .rw, 0⟩]
  | .gsUeLog => [⟨63, 61, .ro, 0⟩, ⟨60, 59, .ro, 0⟩, ⟨58, 58, .w1c, 0⟩, ⟨27, 0, .ro, 0⟩]
  | .gsCeLog => [⟨63, 61, .ro, 0⟩, ⟨60, 59, .ro, 0⟩, ⟨58, 58, .w1c, 0⟩, ⟨27, 0, .ro, 0⟩]
  | .gsBistCtl => [⟨8, 8, .wo, 0⟩, ⟨7, 0, .rw, 0xff⟩]
  | .gsBistStatus => [⟨47, 40, .ro, 0⟩, ⟨39, 32, .ro, 0⟩, ⟨17, 17, .w1c, 0⟩, ⟨16, 16, .ro, 0⟩, ⟨13, 0, .ro, 0⟩]
  | .gsBistFail => [⟨47, 32, .ro, 0⟩, ⟨31, 29, .ro, 0⟩, ⟨28, 20, .ro, 0⟩, ⟨12, 0, .ro, 0⟩]
  | .gsNowinRefused _ => [⟨63, 0, .rw, 0⟩]
  | .gsWinBase _ _ => [⟨31, 16, .rw, 0⟩]
  | .gsWinSize _ _ => [⟨31, 16, .rw, 0⟩]
  | .gsWinCtl _ _ => [⟨9, 8, .ro, 0⟩, ⟨4, 4, .w1c, 0⟩, ⟨3, 3, .rw, 0⟩, ⟨2, 2, .rw, 0⟩, ⟨1, 1, .wo, 0⟩, ⟨0, 0, .wo, 0⟩]
  | .gsWinRefused _ _ => [⟨31, 0, .rw, 0⟩]
  | .gsPfCtl => [⟨14, 8, .rw, 0x10⟩, ⟨0, 0, .rw, 1⟩]
  | .gsPf _ => [⟨63, 0, .rw, 0⟩]
  | .hclRst => [⟨8, 8, .w1s, 0⟩, ⟨7, 0, .rw, 0xff⟩]
  | .hclPdreq => [⟨7, 0, .rw, 0⟩]
  | .hclStat => [⟨8, 8, .ro, 0⟩, ⟨7, 0, .ro, 0⟩]
  | .neCtl _ => [⟨1, 1, .w1s, 0⟩, ⟨0, 0, .rw, 0⟩]
  | .neStatus _ => [⟨31, 24, .ro, 0⟩, ⟨3, 0, .ro, 0⟩]
  | .neTaskBase _ => [⟨31, 16, .ro, 0⟩]
  | .neTaskLimit _ => [⟨31, 16, .ro, 0⟩]
  | .neFaultStatus _ => [⟨31, 16, .ro, 0⟩, ⟨15, 0, .ro, 0⟩]
  | .neFaultPc _ => [⟨31, 0, .ro, 0⟩]
  | .neFaultInfo _ => [⟨63, 32, .ro, 0⟩, ⟨1, 0, .ro, 0⟩]
  | .neCyc _ => [⟨63, 0, .rw, 0⟩]
  | .neStallBank _ => [⟨63, 0, .rw, 0⟩]
  | .neStallRemote _ => [⟨63, 0, .rw, 0⟩]
  | .neStallWait _ => [⟨63, 0, .rw, 0⟩]
  | .neStallPwr _ => [⟨63, 0, .rw, 0⟩]
  | .neHmonCnt _ => [⟨63, 0, .rw, 0⟩]
  | .cvsLoadcyc _ => [⟨63, 0, .rw, 0⟩]
  | .cvsStrmcyc _ => [⟨63, 0, .rw, 0⟩]
  | .cvsMacs _ => [⟨63, 0, .rw, 0⟩]
  | .cvsStat _ => [⟨8, 8, .ro, 0⟩, ⟨7, 4, .ro, 1⟩, ⟨0, 0, .ro, 0⟩]
  | .cvsBiascnt _ => [⟨60, 48, .ro, 0⟩, ⟨44, 32, .ro, 0⟩, ⟨28, 16, .ro, 0⟩, ⟨12, 0, .ro, 0⟩]
  | .pntCtl _ => [⟨15, 8, .rw, 0xff⟩, ⟨1, 0, .rw, 2⟩]
  | .pntReruns _ => [⟨63, 0, .rw, 0⟩]
  | .pntRefused _ => [⟨63, 0, .rw, 0⟩]
  | .pntLast _ => [⟨63, 32, .ro, 0⟩, ⟨23, 16, .ro, 0⟩, ⟨9, 0, .ro, 0⟩]
  | .fqStat _ _ => [⟨31, 28, .ro, 0⟩, ⟨25, 13, .ro, 0⟩, ⟨12, 0, .ro, 0⟩]
  | .fqCrgrant _ _ => [⟨63, 0, .ro, 0⟩]
  | .fqCrret _ _ => [⟨63, 0, .ro, 0⟩]
  | .fqCrout _ _ => [⟨63, 0, .ro, 0⟩]
  | .fqDiscard _ _ => [⟨63, 0, .rw, 0⟩]
  | .fqCtl _ _ => [⟨0, 0, .w1s, 0⟩]

/-- `some i` when `a` is element `i` of an array of `n` registers `stride` apart from `base`. -/
def inArray (a base stride n : Nat) : Option Nat :=
  if base ≤ a ∧ (a - base) % stride = 0 ∧ (a - base) / stride < n then some ((a - base) / stride) else none

/-- As `inArray`, for an array of arrays. -/
def inArray2 (a base s1 n1 s2 n2 : Nat) : Option (Nat × Nat) :=
  if base ≤ a ∧ (a - base) / s1 < n1 then (inArray ((a - base) % s1) 0 s2 n2).map (fun j => ((a - base) / s1, j))
  else none

/-- As `inArray2`, one level deeper. -/
def inArray3 (a base s1 n1 s2 n2 s3 n3 : Nat) : Option (Nat × Nat × Nat) :=
  if base ≤ a ∧ (a - base) / s1 < n1 then
    (inArray2 ((a - base) % s1) 0 s2 n2 s3 n3).map (fun p => ((a - base) / s1, p.1, p.2))
  else none

/-- Sources per block: CSI, CXP, LFC, IPP0, IPP1 (R355). -/
def srcCount : Nat → Nat
  | 0 | 3 | 4 => 32
  | _ => 8

/-- The first answer of a list of candidates. -/
def firstSome : List (Option Reg) → Option Reg
  | [] => none
  | some r :: _ => some r
  | none :: rest => firstSome rest

/-- The candidates of one block for offset `a` (from 0x000_8000_0000). -/
def regsOfBlock (b a : Nat) : List (Option Reg) :=
  match b with
  | 0x0 =>
    [if a = 0x0 then some .sysctlId else none,
     if a = 0x10 then some .sysctlStrap else none]
  | 0x1 =>
    [if a = 0x100000 then some .clkStat else none]
  | 0x2 =>
    [if a = 0x200000 then some .pmcCapMax else none,
     if a = 0x200008 then some .pmcBoCfg else none,
     if a = 0x200010 then some .pmcThermCfg else none,
     if a = 0x200018 then some .pmcRstcause else none,
     if a = 0x200040 then some .pmcFuseNmin else none,
     if a = 0x200048 then some .pmcFuseVtrim else none,
     (inArray a 0x200080 0x8 8).map .pmcPmb,
     if a = 0x280000 then some .pmcCap else none,
     if a = 0x280008 then some .pmcPwr else none,
     if a = 0x280010 then some .pmcBoStat else none,
     if a = 0x280018 then some .pmcBoCount else none,
     if a = 0x280020 then some .pmcNvgate else none,
     if a = 0x280028 then some .pmcEvhead else none,
     if a = 0x280030 then some .pmcEvnote else none,
     if a = 0x280038 then some .pmcPolicy else none,
     if a = 0x280040 then some .pmcRes else none,
     (inArray a 0x280100 0x40 6).map .pmcNePerf,
     (inArray a 0x280108 0x40 6).map .pmcNeRings,
     (inArray a 0x280110 0x40 6).map .pmcNeTimer,
     (inArray a 0x280118 0x40 6).map .pmcNeDroop,
     (inArray a 0x280400 0x8 12).map .pmcTs,
     (inArray2 a 0x281000 0x10 64 0x8 2).map (fun p => .pmcEvlog p.1 p.2)]
  | 0x3 =>
    [if a = 0x300000 then some .secStatus else none,
     if a = 0x300008 then some .secBlkworld else none,
     if a = 0x300010 then some .secLock else none,
     if a = 0x300018 then some .secViol else none,
     if a = 0x300020 then some .secVlog else none,
     if a = 0x300028 then some .secUpdStat else none,
     if a = 0x300030 then some .secDbgStat else none,
     (inArray a 0x300100 0x10 64).map .secRgnBase,
     (inArray a 0x300108 0x10 64).map .secRgnCfg,
     (inArray2 a 0x300800 0x20 8 0x8 4).map (fun p => .secMeas p.1 p.2),
     (inArray a 0x300a00 0x8 8).map .secCtr]
  | 0x4 =>
    [(inArray a 0x400000 0x1000 24).map .mbxCfg,
     (inArray a 0x400008 0x1000 24).map .mbxPushR,
     (inArray a 0x400010 0x1000 24).map .mbxPopR,
     (inArray a 0x400018 0x1000 24).map .mbxStat,
     (inArray a 0x400020 0x1000 24).map .mbxLost,
     (inArray a 0x400028 0x1000 24).map .mbxBadsrc]
  | 0x5 =>
    [if a = 0x500000 then some .fenceProbeCtl else none,
     if a = 0x500008 then some .fenceProbes else none,
     if a = 0x500010 then some .fenceDeadlocks else none,
     if a = 0x500018 then some .fenceDropped else none,
     if a = 0x500020 then some .fenceOooTotal else none,
     if a = 0x500028 then some .fenceBadref else none,
     (inArray a 0x501000 0x8 256).map .fenceCtxRangeR,
     (inArray a 0x502000 0x8 64).map .fencePortCtx,
     (inArray a 0x540000 0x1000 64).map .fencePortIdx,
     (inArray a 0x540008 0x1000 64).map .fencePortVal,
     (inArray a 0x540010 0x1000 64).map .fencePortSigR,
     (inArray a 0x540018 0x1000 64).map .fencePortAttrR]
  | 0x6 =>
    [if a = 0x600000 then some .cpqInit else none,
     if a = 0x600008 then some .cpqReady else none,
     if a = 0x600010 then some .cpqEvent else none,
     if a = 0x600018 then some .cpqEventVec else none,
     if a = 0x600020 then some .cpqKick else none,
     if a = 0x600028 then some .cpqCtxOp else none,
     if a = 0x600030 then some .cpqCtxStat else none,
     (inArray a 0x600038 0x8 2).map .cpqLoadprog,
     (inArray a 0x610000 0x20 1024).map .sqBase,
     (inArray a 0x610008 0x20 1024).map .sqDb,
     (inArray a 0x610010 0x20 1024).map .sqCfg,
     (inArray a 0x610018 0x20 1024).map .sqPollR,
     (inArray a 0x620000 0x20 1024).map .cqBase,
     (inArray a 0x620008 0x20 1024).map .cqDb,
     (inArray a 0x620010 0x20 1024).map .cqCfg,
     (inArray a 0x620018 0x20 1024).map .cqTmr,
     (inArray a 0x640000 0x10 4096).map .ctxState,
     (inArray a 0x640008 0x10 4096).map .ctxEngcyc]
  | 0x7 =>
    [if a = 0x700000 then some .pmtStage0 else none,
     if a = 0x700008 then some .pmtStage1 else none,
     if a = 0x700010 then some .pmtInstallR else none,
     if a = 0x700018 then some .pmtResult else none,
     if a = 0x700020 then some .pmtIndex else none]
  | 0x8 =>
    [if a = 0x800000 then some .pcieW2Ctl else none,
     if a = 0x800008 then some .pcieW2Vbase else none,
     if a = 0x800010 then some .pcieW2Refused else none,
     if a = 0x800018 then some .pcieLink else none,
     (inArray a 0x880000 0x10 2048).map .msixAddr,
     (inArray a 0x880008 0x10 2048).map .msixData,
     (inArray a 0x88000c 0x10 2048).map .msixCtl,
     (inArray a 0x888000 0x8 32).map .msixPba]
  | 0x9 =>
    [if a = 0x900000 then some .rpCtl else none,
     if a = 0x900008 then some .rpCfg else none,
     if a = 0x900010 then some .rpCfgdata else none,
     if a = 0x900018 then some .rpAp else none,
     if a = 0x900020 then some .rpInBase else none,
     if a = 0x900028 then some .rpInLimit else none]
  | 0xa =>
    [if a = 0xa00000 then some .usbCtl else none,
     (inArray a 0xa00100 0x20 16).map .usbEpRing,
     (inArray a 0xa00108 0x20 16).map .usbEpIdx,
     (inArray a 0xa00110 0x20 16).map .usbEpCfg]
  | 0xb | 0xc =>
    [(inArray a 0xb00000 0x100000 2).map .ethCfg,
     (inArray a 0xb00008 0x100000 2).map .ethRxring,
     (inArray a 0xb00010 0x100000 2).map .ethTxring,
     (inArray a 0xb00018 0x100000 2).map .ethIdx,
     (inArray a 0xb00020 0x100000 2).map .ethTslat,
     (inArray a 0xb00028 0x100000 2).map .ethRxdrop]
  | 0xd =>
    [if a = 0xd00000 then some .timeSec else none,
     if a = 0xd00008 then some .timeNsf else none,
     if a = 0xd00010 then some .timeStepR else none,
     if a = 0xd00018 then some .timeFreq else none,
     if a = 0xd00020 then some .timeSrvCtl else none,
     if a = 0xd00028 then some .timeSrvThr else none,
     if a = 0xd00030 then some .timeSrvOfs else none,
     if a = 0xd00038 then some .timeSrvStat else none,
     if a = 0xd00040 then some .timeSteps else none]
  | 0xe =>
    [(inArray a 0xe00000 0x80 4).map .encCfg,
     (inArray a 0xe00008 0x80 4).map .encPos,
     (inArray a 0xe00010 0x80 4).map .encLast,
     (inArray a 0xe00018 0x80 4).map .encSpeed,
     (inArray a 0xe00020 0x80 4).map .encIdxp,
     (inArray a 0xe00028 0x80 4).map .encIdxt,
     (inArray a 0xe00030 0x80 4).map .encErr,
     (inArray a 0xe00038 0x80 4).map .encJob,
     (inArray a 0xe00040 0x80 4).map .encJobstat,
     (inArray a 0xe00048 0x80 4).map .encJobmm,
     (inArray a 0xe01000 0x10 32).map .tioCfg,
     (inArray a 0xe01008 0x10 32).map .tioStat,
     (inArray a 0xe02000 0x40 16).map .taqBase,
     (inArray a 0xe02008 0x40 16).map .taqCfg,
     (inArray a 0xe02010 0x40 16).map .taqFence,
     (inArray a 0xe02018 0x40 16).map .taqFired,
     (inArray a 0xe02020 0x40 16).map .taqLate,
     (inArray a 0xe02028 0x40 16).map .taqDropped,
     (inArray a 0xe02030 0x40 16).map .taqDiscarded,
     (inArray a 0xe02038 0x40 16).map .taqPending]
  | 0xf | 0x10 =>
    [(inArray a 0xf00000 0x100000 2).map .canCtl,
     (inArray a 0xf00008 0x100000 2).map .canNbt,
     (inArray a 0xf00010 0x100000 2).map .canDbt,
     (inArray a 0xf00018 0x100000 2).map .canTxreqR,
     (inArray a 0xf00020 0x100000 2).map .canRxstat,
     (inArray2 a 0xf00800 0x100000 2 0x8 10).map (fun p => .canRxhead p.1 p.2),
     (inArray3 a 0xf01000 0x100000 2 0x50 32 0x8 10).map (fun p => .canTxbuf p.1 p.2.1 p.2.2)]
  | 0x11 =>
    [(inArray a 0x1100000 0x100 8).map .csiPortCfg,
     (inArray a 0x1100008 0x100 8).map .csiDtdrop,
     (inArray2 a 0x1110000 0x100000 5 0x100 32).bind (fun p => if p.2 < srcCount p.1 then some (.srcCtl p.1 p.2) else none),
     (inArray2 a 0x1110008 0x100000 5 0x100 32).bind (fun p => if p.2 < srcCount p.1 then some (.srcGen p.1 p.2) else none),
     (inArray2 a 0x1110010 0x100000 5 0x100 32).bind (fun p => if p.2 < srcCount p.1 then some (.srcNoring p.1 p.2) else none),
     (inArray2 a 0x1110018 0x100000 5 0x100 32).bind (fun p => if p.2 < srcCount p.1 then some (.srcLost p.1 p.2) else none),
     (inArray2 a 0x1110020 0x100000 5 0x100 32).bind (fun p => if p.2 < srcCount p.1 then some (.srcErr p.1 p.2) else none),
     (inArray2 a 0x1110028 0x100000 5 0x100 32).bind (fun p => if p.2 < srcCount p.1 then some (.srcTrig p.1 p.2) else none),
     (inArray a 0x1110040 0x100 32).map .csiStCfg,
     (inArray a 0x1110048 0x100 32).map .csiStGeom]
  | 0x12 =>
    [(inArray2 a 0x1110000 0x100000 5 0x100 32).bind (fun p => if p.2 < srcCount p.1 then some (.srcCtl p.1 p.2) else none),
     (inArray2 a 0x1110008 0x100000 5 0x100 32).bind (fun p => if p.2 < srcCount p.1 then some (.srcGen p.1 p.2) else none),
     (inArray2 a 0x1110010 0x100000 5 0x100 32).bind (fun p => if p.2 < srcCount p.1 then some (.srcNoring p.1 p.2) else none),
     (inArray2 a 0x1110018 0x100000 5 0x100 32).bind (fun p => if p.2 < srcCount p.1 then some (.srcLost p.1 p.2) else none),
     (inArray2 a 0x1110020 0x100000 5 0x100 32).bind (fun p => if p.2 < srcCount p.1 then some (.srcErr p.1 p.2) else none),
     (inArray2 a 0x1110028 0x100000 5 0x100 32).bind (fun p => if p.2 < srcCount p.1 then some (.srcTrig p.1 p.2) else none),
     (inArray a 0x1200000 0x100 8).map .cxpCcAddr,
     (inArray a 0x1200008 0x100 8).map .cxpCcData,
     (inArray a 0x1200010 0x100 8).map .cxpCcCtl,
     (inArray a 0x1210040 0x100 8).map .cxpCamCfg,
     (inArray a 0x1210048 0x100 8).map .cxpCamGeom]
  | 0x13 =>
    [(inArray2 a 0x1110000 0x100000 5 0x100 32).bind (fun p => if p.2 < srcCount p.1 then some (.srcCtl p.1 p.2) else none),
     (inArray2 a 0x1110008 0x100000 5 0x100 32).bind (fun p => if p.2 < srcCount p.1 then some (.srcGen p.1 p.2) else none),
     (inArray2 a 0x1110010 0x100000 5 0x100 32).bind (fun p => if p.2 < srcCount p.1 then some (.srcNoring p.1 p.2) else none),
     (inArray2 a 0x1110018 0x100000 5 0x100 32).bind (fun p => if p.2 < srcCount p.1 then some (.srcLost p.1 p.2) else none),
     (inArray2 a 0x1110020 0x100000 5 0x100 32).bind (fun p => if p.2 < srcCount p.1 then some (.srcErr p.1 p.2) else none),
     (inArray2 a 0x1110028 0x100000 5 0x100 32).bind (fun p => if p.2 < srcCount p.1 then some (.srcTrig p.1 p.2) else none),
     (inArray a 0x1310040 0x100 8).map .lfcCfg,
     (inArray a 0x1310048 0x100 8).map .lfcGeom,
     (inArray a 0x1310050 0x100 8).map .lfcTbase0,
     (inArray a 0x1310058 0x100 8).map .lfcTbase1,
     (inArray a 0x1310060 0x100 8).map .lfcLst]
  | 0x14 | 0x15 =>
    [(inArray2 a 0x1110000 0x100000 5 0x100 32).bind (fun p => if p.2 < srcCount p.1 then some (.srcCtl p.1 p.2) else none),
     (inArray2 a 0x1110008 0x100000 5 0x100 32).bind (fun p => if p.2 < srcCount p.1 then some (.srcGen p.1 p.2) else none),
     (inArray2 a 0x1110010 0x100000 5 0x100 32).bind (fun p => if p.2 < srcCount p.1 then some (.srcNoring p.1 p.2) else none),
     (inArray2 a 0x1110018 0x100000 5 0x100 32).bind (fun p => if p.2 < srcCount p.1 then some (.srcLost p.1 p.2) else none),
     (inArray2 a 0x1110020 0x100000 5 0x100 32).bind (fun p => if p.2 < srcCount p.1 then some (.srcErr p.1 p.2) else none),
     (inArray2 a 0x1110028 0x100000 5 0x100 32).bind (fun p => if p.2 < srcCount p.1 then some (.srcTrig p.1 p.2) else none),
     (inArray2 a 0x1410040 0x100000 2 0x100 32).map (fun p => .ippCxIn p.1 p.2),
     (inArray2 a 0x1410048 0x100000 2 0x100 32).map (fun p => .ippCxPb p.1 p.2),
     (inArray2 a 0x1410050 0x100000 2 0x100 32).map (fun p => .ippCxOut p.1 p.2),
     (inArray2 a 0x1410058 0x100000 2 0x100 32).map (fun p => .ippTapskip p.1 p.2)]
  | 0x16 | 0x17 | 0x18 =>
    [(inArray2 a 0x1610000 0x100000 3 0x100 16).map (fun p => .cdcCtl p.1 p.2),
     (inArray2 a 0x1610008 0x100000 3 0x100 16).map (fun p => .cdcRc p.1 p.2),
     (inArray2 a 0x1610010 0x100000 3 0x100 16).map (fun p => .vencOversize p.1 p.2)]
  | 0x19 =>
    [(inArray a 0x1900000 0x80 16).map .sdmaArmR,
     (inArray a 0x1900008 0x80 16).map .sdmaCfg,
     (inArray a 0x1900010 0x80 16).map .sdmaStatus,
     (inArray a 0x1900018 0x80 16).map .sdmaBytes,
     (inArray a 0x1901000 0x80 64).map .frBase,
     (inArray a 0x1901008 0x80 64).map .frCfg,
     (inArray a 0x1901010 0x80 64).map .frRec,
     (inArray a 0x1901018 0x80 64).map .frFence,
     (inArray a 0x1901020 0x80 64).map .frCtl,
     (inArray a 0x1901028 0x80 64).map .frPseq,
     (inArray a 0x1901030 0x80 64).map .frFseq,
     (inArray a 0x1901038 0x80 64).map .frDrops,
     (inArray2 a 0x1901040 0x80 64 0x8 8).map (fun p => .frCseq p.1 p.2),
     (inArray a 0x1903000 0x10 64).map .frPortOp,
     (inArray a 0x1903008 0x10 64).map .frPortRes]
  | 0x1a =>
    [if a = 0x1a00000 then some .dmcCfg else none,
     if a = 0x1a00008 then some .dmcTrainCtl else none,
     if a = 0x1a00010 then some .dmcTrainStatus else none,
     if a = 0x1a00018 then some .dmcFill else none,
     if a = 0x1a00020 then some .dmcScrub else none,
     if a = 0x1a00028 then some .dmcEccInj else none,
     (inArray a 0x1a00100 0x8 7).map .dmcHash]
  | 0x1b | 0x1c | 0x1d | 0x1e =>
    [(inArray a 0x1b00000 0x100000 4).map .dmcChStatus,
     (inArray a 0x1b00008 0x100000 4).map .dmcPanicLvl,
     (inArray2 a 0x1b00100 0x100000 4 0x8 6).map (fun p => .dmcCount p.1 p.2),
     (inArray a 0x1b00200 0x100000 4).map .dmcUeLog,
     (inArray a 0x1b00208 0x100000 4).map .dmcCeLog]
  | 0x1f =>
    [if a = 0x1f00000 then some .gsScrubCtl else none,
     if a = 0x1f00008 then some .gsEccInj else none,
     (inArray a 0x1f00100 0x8 8).map .gsCeCount,
     (inArray a 0x1f00140 0x8 8).map .gsUeCount,
     if a = 0x1f00180 then some .gsWbDrop else none,
     if a = 0x1f00200 then some .gsUeLog else none,
     if a = 0x1f00208 then some .gsCeLog else none,
     if a = 0x1f00300 then some .gsBistCtl else none,
     if a = 0x1f00308 then some .gsBistStatus else none,
     if a = 0x1f00310 then some .gsBistFail else none,
     (inArray a 0x1f00400 0x8 6).map .gsNowinRefused,
     (inArray2 a 0x1f01000 0x100 6 0x10 16).map (fun p => .gsWinBase p.1 p.2),
     (inArray2 a 0x1f01004 0x100 6 0x10 16).map (fun p => .gsWinSize p.1 p.2),
     (inArray2 a 0x1f01008 0x100 6 0x10 16).map (fun p => .gsWinCtl p.1 p.2),
     (inArray2 a 0x1f0100c 0x100 6 0x10 16).map (fun p => .gsWinRefused p.1 p.2),
     if a = 0x1f02000 then some .gsPfCtl else none,
     (inArray a 0x1f02008 0x8 3).map .gsPf]
  | 0x22 =>
    [if a = 0x2200000 then some .hclRst else none,
     if a = 0x2200008 then some .hclPdreq else none,
     if a = 0x2200010 then some .hclStat else none]
  | 0x23 | 0x24 | 0x25 | 0x26 | 0x27 | 0x28 =>
    [(inArray a 0x2300000 0x100000 6).map .neCtl,
     (inArray a 0x2300008 0x100000 6).map .neStatus,
     (inArray a 0x2300010 0x100000 6).map .neTaskBase,
     (inArray a 0x2300014 0x100000 6).map .neTaskLimit,
     (inArray a 0x2300020 0x100000 6).map .neFaultStatus,
     (inArray a 0x2300024 0x100000 6).map .neFaultPc,
     (inArray a 0x2300028 0x100000 6).map .neFaultInfo,
     (inArray a 0x2300100 0x100000 6).map .neCyc,
     (inArray a 0x2300108 0x100000 6).map .neStallBank,
     (inArray a 0x2300110 0x100000 6).map .neStallRemote,
     (inArray a 0x2300118 0x100000 6).map .neStallWait,
     (inArray a 0x2300120 0x100000 6).map .neStallPwr,
     (inArray a 0x2300128 0x100000 6).map .neHmonCnt,
     (inArray a 0x2300400 0x100000 6).map .cvsLoadcyc,
     (inArray a 0x2300408 0x100000 6).map .cvsStrmcyc,
     (inArray a 0x2300410 0x100000 6).map .cvsMacs,
     (inArray a 0x2300418 0x100000 6).map .cvsStat,
     (inArray a 0x2300420 0x100000 6).map .cvsBiascnt,
     (inArray a 0x2300500 0x100000 6).map .pntCtl,
     (inArray a 0x2300508 0x100000 6).map .pntReruns,
     (inArray a 0x2300510 0x100000 6).map .pntRefused,
     (inArray a 0x2300518 0x100000 6).map .pntLast,
     (inArray2 a 0x2300600 0x100000 6 0x40 8).map (fun p => .fqStat p.1 p.2),
     (inArray2 a 0x2300608 0x100000 6 0x40 8).map (fun p => .fqCrgrant p.1 p.2),
     (inArray2 a 0x2300610 0x100000 6 0x40 8).map (fun p => .fqCrret p.1 p.2),
     (inArray2 a 0x2300618 0x100000 6 0x40 8).map (fun p => .fqCrout p.1 p.2),
     (inArray2 a 0x2300620 0x100000 6 0x40 8).map (fun p => .fqDiscard p.1 p.2),
     (inArray2 a 0x2300628 0x100000 6 0x40 8).map (fun p => .fqCtl p.1 p.2)]
  | _ => []

/-- The register at an offset from 0x000_8000_0000, none where no chapter assigns one (R18). -/
def Reg.ofAddr (a : Nat) : Option Reg := firstSome (regsOfBlock (a / 0x100000) a)

/-- Block index of a register (Table 1.4). -/
def Reg.block (r : Reg) : Nat := r.addr / 0x100000

/-- The value of a register whose fields all hold their reset values. -/
def fieldsReset : List Field → Nat
  | [] => 0
  | f :: rest => f.reset * 2 ^ f.lo + fieldsReset rest

/-- The reset value of a register (Table 19.2). -/
def Reg.reset (r : Reg) : W64 := BitVec.ofNat 64 (fieldsReset r.fields)

end Sys2Proof.Machine
end

