-- ==== Sys2Proof/Machine/State.lean ====
section
/-! DEFINITION. The state of the device as plain data, the reasons a command can stop, and the state after reset.
Arrays of units are sparse maps from the unit's number; a number not listed holds the unit's default, which is its
value at reset. Software-visible registers have their one home in `regs`, except the read-only fields that mirror the
structured state below; `Machine/Views.lean` computes those. -/

namespace Sys2Proof.Machine

open Sys2Proof

/-- Reasons a step stops with a fault. Every trap of the device (an engine fault, a refused access, an error flag) is a
next state; this type holds what remains. -/
inductive Fault where
  /-- Raised by an engine instruction whose fields the manual reserves or forbids at decode (R119): the loader verifier
  rejects every image that holds it, so no engine issues it. Safe: the manual gives such a word no effect. -/
  | reservedEncoding
deriving DecidableEq, Repr

/-- Reasons a command is refused. -/
inductive Refusal where
  /-- Raised by `exec` for a command whose meaning is not written. Safe: the model stops where the device goes on. -/
  | notModelled (mnemonic : String)
deriving DecidableEq, Repr

/-- Fuses that differ from part to part (R454). -/
structure Fuses where
  temp  : Nat
  speed : Nat
  nmin  : List Nat
  vtrim : List Nat
deriving DecidableEq, Repr

/-- An address register (Table 4.1). -/
structure AReg where
  base  : W32 := 0
  st0   : W32 := 0
  st1   : W32 := 0
  st2   : W32 := 0
  st3   : W32 := 0
  bound : W32 := 0xFFFFFFFF
deriving DecidableEq, Repr

/-- A loop that runs: its level, its body, the current iteration and the iterations left (R101, R102). -/
structure LoopFrame where
  lvl   : Nat
  first : Nat
  last  : Nat
  idx   : Nat
  left  : Nat
deriving DecidableEq, Repr

/-- Control flow of an engine program: the bundle of the present cycle, the cycles that pass before it issues, a taken
branch waiting for the bundle's end, and the loops that run, innermost first (R96, R101, R127, R175). While an alternate
body runs, `altRet` is its decision bundle and `altLast` its last bundle; `resume` holds the block and the record that the
decision bundle writes when it issues at last (R174); `decided` says that the present decision bundle may issue, and
`record` the address and the bytes of the record that it stores as it issues. -/
structure Ctl where
  pc       : Nat := 0
  hold     : Nat := 0
  redirect : Option Nat := none
  loops    : List LoopFrame := []
  altRet   : Option Nat := none
  altLast  : Nat := 0
  resume   : Option (Nat × List Byte) := none
  decided  : Bool := false
  record   : Option (Nat × List Byte) := none
deriving DecidableEq, Repr

/-- Where a result lands. -/
inductive Dest where
  | sreg (r : Nat)
  | vreg (r : Nat)
  | preg (r : Nat)
  | areg (r : Nat) (f : AField)
  | bias (b : Nat)
  | pal (slot : Nat) (tag : Nat)
  | win (set field : Nat)
deriving DecidableEq, Repr

/-- What NE_FAULT_STATUS, NE_FAULT_PC and NE_FAULT_INFO report (R109). -/
structure FaultRec where
  status : Nat
  sub    : Nat
  pc     : Nat
  slot   : Nat
  detail : Nat
deriving DecidableEq, Repr

/-- An outstanding remote load whose reply has not arrived (R130): its address, the translated pieces it reads, the byte
of the register where they go, and the bundle that issued it. -/
structure RemoteLoad where
  va      : Nat
  pieces  : List (Nat × Nat)
  pos     : Nat
  pc      : Nat
deriving DecidableEq, Repr

/-- A posted remote store on its way (R130): the translated pieces, the bytes, the bundle that issued it. -/
structure Posted where
  va     : Nat
  pieces : List (Nat × Nat)
  data   : List Byte
  pc     : Nat
deriving DecidableEq, Repr

/-- A result still owed: the cycle it lands, its destination, the bits it writes and their value; a fault found in the
data it waits for (R107), and the remote load behind it. `mv` says that the M or the V slot owes it: other slots of its
bundle may not read the destination (R120, Table 5.9). -/
structure PendRes where
  iss   : Nat
  due   : Nat
  dest  : Dest
  mask  : Nat
  val   : Nat
  fault : Option FaultRec := none
  rld   : Option RemoteLoad := none
  mv    : Bool := true
deriving DecidableEq, Repr

/-- An own-slice store not yet performed (R106): issue cycle, the cycle it is performed, physical address, bytes. -/
structure PendStore where
  iss  : Nat
  due  : Nat
  pc   : Nat
  addr : Nat
  data : List Byte
deriving DecidableEq, Repr

/-- A signal or ring release that waits for the program's earlier writes (R128, R131). -/
inductive SyncAct where
  | signal (fence : Nat) (v : W64)
  | release (ring : Nat) (port : Nat) (role : Role)
deriving DecidableEq, Repr

/-- A `SyncAct` with the cycle in which it issued. -/
structure PendSync where
  iss : Nat
  act : SyncAct
deriving DecidableEq, Repr

/-- The three accumulator formats (R33). -/
inductive AccFmt where
  | i32
  | i64
  | f32
deriving DecidableEq, Repr

/-- An ACM row in flight (R67, R85): the cycle at whose end it is written, the row, its column sums (for `f32`, the
FP32 codes), the columns that are written, the accumulate stage's options, and the issue cycle and bundle of its Canvas
instruction. -/
structure RowWrite where
  due  : Nat
  row  : Nat
  fmt  : AccFmt
  sums : List Int
  mask : Nat
  neg  : Bool
  ring : Bool
  base : Nat
  pair : Bool
  iss  : Nat := 0
  pc   : Nat := 0
deriving DecidableEq, Repr

/-- One ACM row (R84): 256 columns of 32 bits, 256 ACC_SAT bits, the init tag and the undrained bit; with it
the accumulator format of the Canvas instruction that last tagged or wrote the row, by which the drain reads it (R56,
R137), and the row's place in an INT64 pair of rows (R79). -/
structure AcmRow where
  data : Nat := 0
  sat  : Nat := 0
  tag  : Nat := 1
  undr : Bool := false
  fmt  : AccFmt := .i32
  half : Nat := 0
deriving DecidableEq, Repr

/-- A memory plane of an operand (R123, R124): physical start and pitch. -/
structure Plane where
  start : Nat
  pitch : Nat
deriving DecidableEq, Repr

/-- A Canvas instruction in progress, with everything it sampled at issue (R124). -/
structure CanvasOp where
  issue : Nat
  pc    : Nat
  cw    : CmmWord
  cx    : CxWord
  sfm   : Format
  m     : Nat
  k     : Nat
  n     : Nat
  ringl : Nat
  mask  : Nat
  stat  : List Plane
  strm  : List Plane
  win   : List Nat
  oh    : Nat
  ow    : Nat
  step  : Nat
  steps : Nat
deriving DecidableEq, Repr

/-- The stationary tile in the array and the record kept with it (R64, R73, R82): format of its values, stationary format
and palette selection of the instruction that loaded it, live rows and columns, whether that instruction had one fold and
one tile; values by reduction row, MXFP4 scale bytes by block. -/
structure Tile where
  valid  : Bool := false
  fmt    : Format := .int8
  sfmt   : Format := .int8
  pal    : Option (Nat × Nat × Bool) := none
  rowsOn : Nat := 0
  colsOn : Nat := 0
  single : Bool := false
  rows   : SMap (List Nat) := []
  scales : SMap (List Nat) := []
deriving DecidableEq, Repr

/-- A palette slot (R46): 256 entries of 16 bits and the slot tag. -/
structure PalSlot where
  entries : Nat := 0
  tag     : Nat := 1
deriving DecidableEq, Repr

/-- A range monitor entry (Table 7.3). -/
structure Monitor where
  outs  : Nat := 0
  satc  : Nat := 0
  headc : Nat := 0
  nanc  : Nat := 0
deriving DecidableEq, Repr

/-- A run of a stream descriptor list (R206, R210): the context, the address of the next descriptor to read, the
descriptors read and not executed (each 64 bytes), the index of the next descriptor to execute, whether a LAST or LINK
has been read, the command that armed it and the device fences it declares, the engines that refused (R213), PRIO of the
list's first descriptor once it is known (R211), whether a signal of the list was out of order (R289). -/
structure ListRun where
  ctx      : Nat
  next     : Nat
  buf      : List (List Byte)
  stopped  : Bool
  idx      : Nat
  owner    : Option TaskId
  declared : List Nat
  failmask : Nat
  first    : Option Nat := none
  ooo      : Bool := false
deriving DecidableEq, Repr

/-- States of a fetch entry (Table 9.6); FREE entries are not listed. -/
inductive FqSt where
  | filling
  | ready
  | dropping
  | failed
deriving DecidableEq, Repr

/-- A fetch entry in use: state, data read so far, source reads in flight (address, length), source bytes of the entry
that have been asked for, the failure it carries (R221), the signal that its last read releases (R209), PRIO of its descriptor,
the reads still to be issued (R220), and its descriptor's number in the list. -/
structure FqEnt where
  st   : FqSt
  data : List Byte
  src  : List (Nat × Nat)
  nsrc : Nat
  stat : Nat
  sub  : Nat
  det  : Nat
  sig  : Option (Nat × Nat) := none
  prio : Nat := 0
  todo : List (Nat × Nat) := []
  desc : Nat := 0
deriving DecidableEq, Repr

/-- A FETCH descriptor being cut into entries: source segments not yet begun, LAST, its signal (device fence, value),
PRIO, and its number in the list. -/
structure CurFetch where
  segs : List (Nat × Nat)
  last : Bool
  sig  : Option (Nat × Nat)
  prio : Nat := 0
  desc : Nat := 0
deriving DecidableEq, Repr

/-- A fetch queue (R216 to R223). -/
structure FetchQ where
  state   : Nat := 0
  esz     : Nat := 0
  entries : Nat := 0
  run     : Option ListRun := none
  ents    : List FqEnt := []
  granted : Nat := 0
  ret     : Nat := 0
  lret    : Option Nat := none
  lout    : Option Nat := none
  late    : Option FqEnt := none
  cur     : Option CurFetch := none
deriving DecidableEq, Repr

/-- A task handed to an engine (R90 to R95, R235). -/
structure Task where
  id      : TaskId
  ctx     : Nat
  image   : Nat
  tbase   : Nat
  tlimit  : Nat
  args    : List W64
  fbind   : List (Nat × Nat × Nat × Nat)
  prio    : Nat
  s53     : Nat
  s54     : Nat
  s55     : Nat
  declared : List Nat
deriving DecidableEq, Repr

/-- What an engine command ended with; its result for the command processor (R95, R107). -/
structure EngResult where
  task    : Task
  fault   : FaultRec
  pent    : Bool
  empty   : Bool
  ooo     : Bool
  discard : Nat
deriving DecidableEq, Repr

/-- What an engine does: idle, issuing, waiting for a fence, a queue or a ring, held by the power budget, or `ending` after
END, a fault or an abort while its writes drain. -/
inductive RunSt where
  | idle
  | issuing
  | waitFence
  | waitFq (q vd : Nat)
  | waitRing (operand : Nat) (sd : Nat) (role : Role)
  | budget
  | ending
deriving DecidableEq, Repr

/-- Engine idle states, Table 16.2, and the exiting state of PMC_NE_PERF.STATE. -/
inductive IdleSt where
  | active
  | gated
  | retain
  | sliceOff
  | exiting
deriving DecidableEq, Repr

/-- A clock step in progress (R381): the divider asked for and whether it waits for VDone or for a voltage lowering. -/
structure ClockStepSt where
  n       : Nat
  waitV   : Bool
  lowering : Bool
deriving DecidableEq, Repr

/-- One neural engine: its architectural state (Table 4.1), its command, its pipelines and its power state. `endHold` says that
a bundle which waits for its queue or ring holds END; `began` that the command's first bundle has issued (R173); `reads`
are the slice reads of the present bundle, whose decoding the cycle's end counts (R194); `regReads` are the registers its
slots have read (R120); `endCyc` is the cycle in which the command ended; `clk` counts ENGCLK
cycles, stalled ones too (R187); `idleSince` is in eighths of a nanosecond (R386); `elapsed` counts the command's cycles, stalled ones too (R257), of which `before` passed before
its first bundle (R173). -/
structure Engine where
  sregs   : SMap W64 := []
  aregs   : SMap AReg := []
  pregs   : SMap Nat := []
  vregs   : SMap Nat := []
  acm     : SMap AcmRow := []
  bias    : SMap Nat := []
  pal     : SMap PalSlot := []
  win     : SMap Nat := []
  ctl     : Ctl := {}
  run     : RunSt := .idle
  endHold : Bool := false
  cyc     : Nat := 0
  elapsed : Nat := 0
  before  : Nat := 0
  began   : Bool := false
  reads   : List (Nat × Nat) := []
  regReads : List Dest := []
  endCyc  : Nat := 0
  noIssue : Nat := 0
  phaseid : Nat := 0
  pend    : List PendRes := []
  stores  : List PendStore := []
  syncs   : List PendSync := []
  rows    : List RowWrite := []
  ops     : List CanvasOp := []
  tile    : Tile := {}
  cBusy   : Nat := 0
  mons    : SMap Monitor := []
  reruns  : Nat := 0
  pntCtl  : Nat := 0x0FF02
  guards  : List Nat := []
  queue   : List Task := []
  task    : Option Task := none
  pent    : Bool := false
  empty   : Bool := false
  ooo     : Bool := false
  discard : Nat := 0
  flt     : FaultRec := ⟨0, 0, 0, 0, 0⟩
  faulted : Bool := false
  endRec  : FaultRec := ⟨0, 0, 0, 0, 0⟩
  late    : Option FaultRec := none
  posted  : List Posted := []
  opened  : Bool := false
  tbase   : Nat := 0
  tlimit  : Nat := 0
  neCyc   : Nat := 0
  stBank  : Nat := 0
  stRemote : Nat := 0
  stWait  : Nat := 0
  stPwr   : Nat := 0
  hmon    : Nat := 0
  loadCyc : Nat := 0
  strmCyc : Nat := 0
  macs    : Nat := 0
  pntRe   : Nat := 0
  pntRefused : Nat := 0
  pntLast : Nat × Nat × Nat := (0, 0, 0)
  lastCtx : Option Nat := none
  lastImg : Option Nat := none
  stop    : Bool := false
  held    : List (Nat × Nat × Role) := []
  fqs     : SMap FetchQ := []
  fqRr    : Nat := 0
  idle    : IdleSt := .active
  idleSince : Nat := 0
  exitTo  : Nat := 0
  curN    : Nat := 32
  vmv     : Nat := 750
  step    : Option ClockStepSt := none
  clk     : Nat := 0
  ramp    : Bool := false
  droop   : Bool := false
  floorHeld : Bool := false
  alloc   : Nat := 0
  fall    : Option Nat := none
  grant   : Nat := 32
  peak    : Nat := 0
  phaseEnd : Option Nat := none
  facc    : Nat := 0
deriving DecidableEq, Repr

/-- A sync list entry as read at acceptance (R265, R291): context-relative fence, kind 0 WAIT, 1 SIGNAL, 2 DECLARE,
PARTS, value. -/
structure SyncEnt where
  fence : Nat
  kind  : Nat
  parts : Nat
  val   : Nat
deriving DecidableEq, Repr

/-- Progress of an accepted command. -/
inductive CmdPhase where
  | accepted
  | prewait (next : Nat)
  | dispatched
  | running
deriving DecidableEq, Repr

/-- How one part of a split command stands (R233 to R239). -/
structure Part where
  eng    : Nat
  result : Option EngResult
deriving DecidableEq, Repr

/-- A completion record before it is written (Table 11.7); `key` is its command's number in `Cmd.seq`. -/
structure Rec where
  key     : Nat := 0
  cq      : Nat
  ctx     : Nat
  cmdId   : Nat
  seq     : Nat
  sq      : Nat
  status  : Nat
  sub     : Nat := 0
  flags   : Nat := 0
  partmap : Nat := 0
  failEng : Nat := 255
  failSlot : Nat := 0
  index   : Nat := 0
  detail  : Nat := 0
  discard : Nat := 0
  irq     : Bool := false
  pins    : List Nat := []
  signals : List (Nat × Nat) := []
deriving DecidableEq, Repr

/-- A command from acceptance to commit (R261 to R266). `parts` and `order` follow a split command and the order in which
its parts failed; `targets` and `naborted` follow an ABORT that waits for the records of its targets; `orphans` are the
orphaned fences of R239; `plan` has the engines of a split command with their stripes, as its dispatch found them (R236).
`seq` names the command among those of its queue that have not committed; the record's SEQ is `rseq`, from which it differs
only where the queue was enabled again while commands of it were outstanding. `cq` is the completion queue in which its
acceptance reserved an entry (R261). -/
structure Cmd where
  sq     : Nat
  seq    : Nat
  rseq   : Nat := 0
  cq     : Nat := 0
  ctx    : Nat
  desc   : List Byte
  sync   : List SyncEnt
  phase  : CmdPhase
  pins   : List Nat
  pre    : Option (Nat × Nat × Nat)
  startT : Nat := 0
  parts  : List Part := []
  order  : List Nat := []
  aborting : Bool := false
  targets : List (Nat × Nat) := []
  naborted : Nat := 0
  orphans : List Nat := []
  plan    : List (Nat × Nat × Nat) := []
deriving DecidableEq, Repr

/-- A submission queue (R258 to R261): HOST_INDEX as last read, descriptors accepted, descriptors read and not yet
accepted, ERROR, the entries beyond those that the last read showed, and what `Cmd.seq` is counted from. -/
structure Sq where
  host    : Nat := 0
  dev     : Nat := 0
  fetched : List (List Byte) := []
  error   : Bool := false
  needKick : Bool := false
  left    : Nat := 0
  base    : Nat := 0
deriving DecidableEq, Repr

/-- A completion queue (R261, R268, R269): records written, entries reserved, HOST_INDEX as last read, records since
the last message. -/
structure Cq where
  dev      : Nat := 0
  reserved : Nat := 0
  host     : Nat := 0
  since    : Nat := 0
deriving DecidableEq, Repr

/-- A PMT entry in use (R271). -/
structure PmtEntry where
  size : Bool
  wr   : Bool
  rd   : Bool
  ctx  : Nat
  vpn  : Nat
  ppn  : Nat
  pin  : Nat
deriving DecidableEq, Repr

/-- A PMT operation that runs (R272, R273, R276): what takes effect when BUSY clears. A removal has invalidated its entry when
it starts, and keeps it while accesses translated through it are under way; a forced one keeps the commands it aborted and removes
once their records are written. A LOOKUP that finds nothing
keeps the CTX and VPN it looked up. -/
inductive PmtOp where
  | install (idx : Nat) (e : PmtEntry)
  | remove (idx : Nat) (e : PmtEntry)
  | force (idx : Nat) (who : List (Nat × Nat))
  | read (idx : Nat)
  | lookup (idx : Option Nat) (key : Nat)
  | fail (status sub : Nat)
deriving DecidableEq, Repr

/-- A palette-section record (R114): slot, tag, entries. -/
structure PalRec where
  slot    : Nat
  tag     : Nat
  entries : List Nat
deriving DecidableEq, Repr

/-- A loaded image (R264): what the device keeps of it. -/
structure Image where
  ctx      : Nat
  engs     : Nat
  tbase    : Nat
  taskMin  : Nat
  engMask  : Nat
  scatter  : Bool
  fqMask   : Nat
  ringOps  : Nat
  entry    : Nat
  textOff  : Nat
  bundles  : Nat
  altOff   : Option Nat
  layOff   : Option Nat
  layers   : Nat
  chrecs   : Nat
  precOff  : Nat
  maxRer   : Nat
  palettes : List PalRec
deriving DecidableEq, Repr

/-- A device fence (R285). -/
structure Fence where
  val : W64 := 0
  ooo : Nat := 0
  ext : Bool := false
deriving DecidableEq, Repr

/-- Kinds of waits, Table 12.2. -/
inductive WaitKind where
  | fwait
  | pre
  | desc (c : Consumer)
deriving DecidableEq, Repr

/-- A registered wait (R293): the task, none for a list armed by a register; the device fence, its context-relative
number, the target, the absolute deadline in nanoseconds of device time, and the tick it started. -/
structure WaitReg where
  task     : Option TaskId
  kind     : WaitKind
  fence    : Nat
  rel      : Nat
  target   : Nat
  deadline : Option Nat
  start    : Nat
deriving DecidableEq, Repr

/-- Who holds a ring slot (R225, R230). -/
inductive Holder where
  | task (t : TaskId)
  | software
  | hardware
deriving DecidableEq, Repr

/-- A held slot of a ring port. -/
structure HeldSlot where
  slot   : Nat
  holder : Holder
deriving DecidableEq, Repr

/-- A published slot (CONSUMER) with its sequence number; slots neither listed nor held by the producer are FREE. -/
structure PubSlot where
  slot : Nat
  seq  : Nat
deriving DecidableEq, Repr

/-- A pixel format: samples per pixel, bits per sample, bytes per sample in the raw ring (Table 14.4). -/
structure PixFmt where
  samples : Nat
  width   : Nat
  bytes   : Nat
deriving DecidableEq, Repr

/-- A frame ring (R224 to R229); `raws` gives by slot the pixel format and the geometry with which a camera began it (R352). -/
structure Ring where
  state  : Nat := 0
  pseq   : Nat := 0
  fseq   : Nat := 0
  cseq   : SMap Nat := []
  pub    : List PubSlot := []
  prod   : Option HeldSlot := none
  cons   : SMap HeldSlot := []
  drops  : Nat := 0
  pubT   : List Nat := []
  pins   : List Nat := []
  raws   : SMap (PixFmt × Nat) := []
deriving DecidableEq, Repr

/-- The engine, and the ring a bundle acquired from, as they stood when the present bundle began to issue, and the fetch
entry it popped: a fault in any slot undoes the bundle's other slots (R104, R107). -/
structure Snap where
  eng  : Engine
  ring : Option (Nat × Ring) := none
  pop  : Option (Nat × FqEnt) := none
deriving DecidableEq, Repr

/-- An SDMA channel (Table 9.4). -/
structure Sdma where
  cur     : Option ListRun := none
  latched : Option ListRun := none
  last    : Nat := 0
  armRes  : Nat := 0
  lastIdx : Nat := 0
  lastFail : Nat := 0
deriving DecidableEq, Repr

/-- A slot or frame of a hardware producer in progress with the stamps it gathers (Table 14.2): the slot it holds (`mode`
0), or a frame that is dropped for want of a FREE slot (1) or of a ring (2); lines received and written, bytes written; `rows` are
the lines of a CoaXPress image as its header gives them (R343). -/
structure OpenSlot where
  mode   : Nat := 0
  ring   : Nat := 0
  slot   : Nat := 0
  lines  : Nat := 0
  seen   : Nat := 0
  bytes  : Nat := 0
  flags  : Nat := 0
  errs   : Nat := 0
  tStart : Nat := 0
  tEnd   : Nat := 0
  pStart : Nat := 0
  pEnd   : Nat := 0
  frame  : Nat := 0
  gen    : Nat := 0
  enc    : Nat := 255
  rows   : Nat := 0
deriving DecidableEq, Repr

/-- A camera line on its way to an LFC group (R345): its pixels widened to 16 bits, whether it was lost (R335) or has a CRC
error, its time stamp and position stamp by encoder, and NOTRIG. -/
structure LfcIn where
  pixels : List Nat
  lost   : Bool
  crc    : Bool
  t      : Nat
  pos    : List Nat
  noTrig : Bool
deriving DecidableEq, Repr

/-- A hardware source (R333 to R352), by its PSRC: the shadowed register values in use, a COMMIT that waits, the slot in
progress, the trigger stamp FIFO (time, position by encoder), the slots begun, for an LFC group the lines that wait, and for a camera the
trigger packets sent (R344) and whether its image of a group has a format that is discarded (R343). -/
structure Source where
  active  : List Nat := []
  pending : Bool := false
  opened  : Option OpenSlot := none
  fifo    : List (Nat × List Nat) := []
  frames  : Nat := 0
  lines   : List LfcIn := []
  packets : Nat := 0
  alien   : Bool := false
deriving DecidableEq, Repr

/-- An area pipeline (R349 to R351): the context served, the last one served, and by context the parameter block, the
output rows done of a frame in progress, its primary slot, its tap slot, and its input: ring, port, pixel format and geometry
(R352). -/
structure Ipp where
  cur   : Option Nat := none
  rr    : Nat := 31
  param : SMap (List Byte) := []
  row   : SMap Nat := []
  out   : SMap OpenSlot := []
  tap   : SMap OpenSlot := []
  src   : SMap (Nat × Nat × PixFmt × Nat) := []
deriving DecidableEq, Repr

/-- A codec unit (R353, R354): the session served last, and by session the pictures to come before the next key picture,
whether the decoder skips to a key picture, and the commits applied. -/
structure Codec where
  rr   : Nat := 15
  gop  : SMap Nat := []
  skip : SMap Bool := []
  gens : SMap Nat := []
  rc   : SMap Nat := []
deriving DecidableEq, Repr

/-- Device time (R356, R357): seconds, nanoseconds, fraction of a nanosecond in units of 2⁻⁴⁰ ns, the increment in
those units, whether the counter runs, the NSF latched by a read of TIME_SEC, PERCLK cycles since reset. -/
structure Clock where
  sec   : Nat := 0
  ns    : Nat := 0
  frac  : Nat := 0
  inc   : Nat := 5 * 2 ^ 40
  runs  : Bool := false
  latch : Option Nat := none
  ticks : Nat := 0
deriving DecidableEq, Repr

/-- The servo (R360, R361): state code, accumulator in 2⁻¹⁶ ns, consecutive good and bad samples, the FREQ values of
the last 64 samples in LOCKED, the last offset, and the PERCLK cycle of the last sample. -/
structure Servo where
  state : Nat := 0
  acc   : Int := 0
  good  : Nat := 0
  bad   : Nat := 0
  hist  : List Int := []
  last  : Int := 0
  since : Nat := 0
deriving DecidableEq, Repr

/-- An encoder (R362 to R364, R376): accepted input levels; by input, the PERCLK cycle and the device time of the sample in which
a level that is not yet accepted was first seen; position, time of the last count and its PERCLK cycle, records newest
first, speed in 2⁻¹⁶ counts/s, the cycle in which spans began, the end of the running span with a count, the
index latch, the roll job's start, the position after the last count, whether a job has been started and the greatest
TRAVELLED of the job. -/
structure Enc where
  a     : Bool := false
  b     : Bool := false
  z     : Bool := false
  ca    : Option (Nat × Nat) := none
  cb    : Option (Nat × Nat) := none
  cz    : Option (Nat × Nat) := none
  pos   : Nat := 0
  last  : Nat := 0
  tick  : Nat := 0
  recs  : List (Nat × Nat) := []
  speed : Int := 0
  t0    : Nat := 0
  span  : Option Nat := none
  idxp  : Nat := 0
  idxt  : Nat := 0
  job0  : Nat := 0
  lp    : Nat := 0
  job   : Bool := false
  top   : Nat := 0
deriving DecidableEq, Repr

/-- A timed action in the action queue (Table 15.2): its D (R368) and, once it is due by position, its fire time, and its place in the order
of acceptance. -/
structure Act where
  chan   : Nat
  op     : Nat
  flags  : Nat
  target : Nat
  enc    : Nat
  width  : Nat
  when_  : Nat
  late   : Nat
  d      : Nat
  fireT  : Option Nat := none
  seq    : Nat := 0
deriving DecidableEq, Repr

/-- An action channel (R366, R371): STATE code, entries fetched, whether it stops. -/
structure ActChan where
  state    : Nat := 0
  fetched  : Nat := 0
  stopping : Bool := false
deriving DecidableEq, Repr

/-- An application core that is not held in reset (R451): whether it is in machine mode, and its program counter, as the release
leaves them; what a core then runs is outside the block (DESIGN CHOICE, log entry 99). -/
structure HcCore where
  machine : Bool := true
  pc      : Nat := 0x4000000000
deriving DecidableEq, Repr

/-- Line control: pin levels as actions drive them, trailing edges to come (pin, time, place of the pulse in the order of
acceptance), the number of entries accepted, the action queue, the channel
served last, the last fire of each pin (time, position by encoder), SAFE levels in force. -/
structure Line where
  level  : Nat := 0
  edges  : List (Nat × Nat × Nat) := []
  seq    : Nat := 0
  queue  : List Act := []
  rr     : Nat := 15
  fires  : SMap (Nat × List Nat) := []
  safe   : Bool := false
deriving DecidableEq, Repr

/-- A non-volatile operation (Table 16.5): an erase of a sector or a program command of the boot flash that an update issues
(R422), the programming of an OTP item, a key-store write, a write through the aperture, and the operations of the first grant of
debug level 3, of which the first is held and the others follow it: the key store is erased and LIFECYCLE programmed before M7 is
extended by a digest (R426). -/
inductive NvKind where
  | flashErase (off : Nat)
  | flashProgram (off : Nat) (data : List Byte)
  | otp (item : Nat) (val : Nat)
  | key (entry : Nat) (data : List Byte)
  | aperture (off : Nat) (data : List Byte)
  | rma (digest : Nat)
deriving DecidableEq, Repr

/-- A held non-volatile operation, and the SEC request it answers: channel, OP, TAG. -/
structure NvOp where
  kind   : NvKind
  answer : Option (Nat × Nat × Nat)
deriving DecidableEq, Repr

/-- An interrupt the device has raised: MSI-X vector, source of the application cores' interrupt file, or internal to an
endpoint. -/
inductive Irq where
  | msix (v : Nat)
  | hc (source : Nat)
  | internal (ep : Endpoint)
deriving DecidableEq, Repr

/-- The PMC (R378 to R401); `held` are the aperture writes that wait, of which those beyond 64 have not completed at their cores
(R398); `calm` is the time from which every rail and PWRWARN_N have been good (R399); `wake` holds interrupts of the application cores that wait for PD_HC (R30, R303), and `mail` says
that a mailbox message does (R27). -/
structure Pmc where
  hold     : Bool := false
  pwrwarn  : Bool := false
  holdQ    : List NvOp := []
  held     : List NvOp := []
  order    : List Bool := []
  releasing : Bool := false
  heldOps  : Nat := 0
  dipT     : Nat := 0
  calm     : Option Nat := none
  causes   : Nat := 0
  lowMv    : Nat := 0xFFFF
  needs    : List (Nat × Nat × Nat) := []
  demRt    : Nat := 0
  demMem   : Nat := 0
  allocRt  : Nat := 0
  allocMem : Nat := 0
  avail    : Nat := 0
  pkg      : Nat := 0
  overWin  : Nat := 0
  winSum   : Option Nat := none
  dipDur   : Nat := 0
  mediaWake : List Nat := []
  effcap   : Nat := 800
  tlimit   : Nat := 800
  throttled : Bool := false
  temps    : SMap Nat := []
  pdHc     : Bool := true
  pdMedia  : Bool := true
  wake     : List Irq := []
  mail     : Bool := false
deriving DecidableEq, Repr

/-- A FLASH_UPDATE that runs (R422): its request (channel, TAG, NOWAIT), the image in device memory (address, bytes), the slot
it writes, the flash commands and read-backs done, whether the next command waits in the hold queue, and whether one was held. -/
structure FlashUpd where
  ch     : Nat
  tag    : Nat
  nowait : Bool
  addr   : Nat
  size   : Nat
  slot   : Nat
  done   : Nat := 0
  waits  : Bool := false
  heldOp : Bool := false
deriving DecidableEq, Repr

/-- The security core (R406 to R426): whether stage 1 of the boot chain has run, whether the owner manifest names an
application-core stage, measurements, OTP items programmed, key store, identity
keys, what the manifests gave, debug, boot and update state. OTP items: 0 UDS, 1 to 4 KEYHASH0 to KEYHASH3, 5 REVOKE, 6 and 7
DBGHASH0 and DBGHASH1, 8 LIFECYCLE (0 MANUF, 1 DEPLOYED, 2 RMA), 9 OWNREQ, 10 + j CTRj (its value), 74 DSN. -/
structure Sec where
  up      : Bool := false
  app     : Bool := false
  meas    : SMap Nat := []
  otp     : SMap Nat := []
  keys    : SMap (List Byte) := []
  udsOff  : Bool := false
  dk      : Nat := 0
  ak      : Nat := 0
  akValid : Bool := false
  vsvn    : Nat := 0
  osvn    : Nat := 0
  sigReq  : Bool := false
  imgKeys : List Nat := []
  subsys  : Nat := 0x1F9D
  dbgLvl  : Nat := 0
  dbgMax  : Nat := 0
  fails   : Nat := 0
  locked  : Bool := false
  nonceNo : Nat := 0
  nonce   : Option Nat := none
  slot    : Nat := 0
  fallback : Bool := false
  bootErr : Nat := 0
  upd     : Option FlashUpd := none
  aliasNo : Nat := 0
  rr      : Nat := 23
deriving DecidableEq, Repr

/-- The gesso (R187, R194 to R205): write-back queues and patrol positions by region, a self-test that runs with the PERCLK
cycle in which it began, and by slice and bank the ENGCLK cycle of the last aged remote access and of the last aged scrub or
write-back that the bank granted. -/
structure Gesso where
  wbq   : SMap (List Nat) := []
  scrub : SMap Nat := []
  bist  : Option Nat := none
  bistAt : Nat := 0
  agedRemote : SMap Nat := []
  agedScrub  : SMap Nat := []
deriving DecidableEq, Repr

/-- A line of the SLC (R200): the line held, whether it is dirty, whether an uncorrectable word of it has been found while it
was dirty, and the marks of its four ECC words, as `State.ecc` has them for the rest of the gesso. -/
structure SlcLine where
  addr   : Nat
  dirty  : Bool
  poison : Bool
  marks  : List Nat := [0, 0, 0, 0]
deriving DecidableEq, Repr

/-- A stream tracker (R231): last miss, stride, misses at that stride, the next prefetch address. -/
structure Tracker where
  last   : Nat
  stride : Int
  count  : Nat
  ahead  : Nat
deriving DecidableEq, Repr

/-- The SLC: lines by quarter × 2^18 + set × 16 + way, tree pseudo-LRU bits by quarter × 2^14 + set, trackers most
recently used first, and prefetched lines not yet used. -/
structure Slc where
  lines    : SMap SlcLine := []
  plru     : SMap Nat := []
  trackers : List Tracker := []
  fetched  : List Nat := []
deriving DecidableEq, Repr

/-- What a DDR5 request is for: a demand of the device, a stream prefetch (R231), a line of the background fill (R312), a
patrol read (R330), a correction write-back (R328). -/
inductive DdrWho where
  | demand (o : DdrOrigin)
  | prefetch
  | fill
  | scrub
  | wback
deriving DecidableEq, Repr

/-- A DDR5 request in a channel (R317, R320): the line, the bytes of a write (none are carried by a fill or a
correction write-back), class and priority, its number in order of arrival, the cycles it has waited where it stands, and what
it is for. -/
structure DdrReq where
  addr  : Nat
  wr    : Option (List Byte)
  rt    : Bool
  prio  : Nat
  order : Nat
  wait  : Nat
  who   : DdrWho := .prefetch
deriving DecidableEq, Repr

/-- The answer to a demand on a channel (R326, R328, R329): who asked, the line, whether it was a write, the status, and
the data of a read. -/
structure DdrReply where
  origin : DdrOrigin
  addr   : Nat
  wr     : Bool
  status : Nat
  data   : List Byte
deriving DecidableEq, Repr

/-- DDR5 commands as the retry buffer holds them (R324). -/
inductive DdrCmd where
  | act (bank row : Nat)
  | pre (bank : Nat)
  | rd (r : DdrReq)
  | wr (r : DdrReq)
  | refresh (rank bank : Nat)
  | zq (rank : Nat)
  | osc (rank : Nat)
  | mrr (rank : Nat)
deriving DecidableEq, Repr

/-- A DDR5 channel (R309, R315 to R330): `trained` counts the training steps it has finished; `opener` names by bank the
request for which its row was opened; `rr` is the source port served last at the channel's input (R212); `owed`, `refAt` and
`refLast` hold by rank the refreshes owed, the time up to which intervals have been counted and that of the last
refresh (R321); `osc` and `readAdj` the last oscillator reading and the read timing set from it (R323); `replies` answers the
demands, oldest first; `eff2x` are the ranks that are refreshed at 2× (R322), and `fillNext` is the offset from which the next
line to fill is sought (R312). `refAt` and `refLast` are in units of 0.5 ns. -/
structure Dmc where
  state   : Nat := 0
  queues  : SMap (List DdrReq) := []
  input   : List DdrReq := []
  ingest  : List DdrReq := []
  panic   : Bool := false
  wrDir   : Bool := false
  opened  : SMap (Option Nat) := []
  hits    : SMap Nat := []
  ptr     : Nat := 0
  retry   : List DdrCmd := []
  alerts  : Nat := 0
  reads   : List DdrReq := []
  wback   : List Nat := []
  refBank : SMap Nat := []
  ref2x   : Nat := 0
  zq      : SMap Nat := []
  scrub   : Nat := 0
  order   : Nat := 0
  trained : Nat := 0
  opener  : SMap Nat := []
  rr      : Nat := 0
  owed    : SMap Nat := []
  refAt   : SMap Nat := []
  refLast : SMap Nat := []
  osc     : SMap (List Nat) := []
  readAdj : SMap Nat := []
  replies : List DdrReply := []
  eff2x   : Nat := 0
  fillNext : Nat := 0
deriving DecidableEq, Repr

/-- DDR5 as a whole (R306 to R313): the organisation found by training, the installed capacity in bytes, the rate, the
fill boundary, the training state and the PERCLK cycle in which it began, and the block of 2 MiB that the fill is in, which
passes the boundary once a channel has FAILED (R331). -/
structure Ddr where
  density : Nat := 0
  x4      : Bool := false
  ranks   : Nat := 0
  cap     : Nat := 0
  speed   : Nat := 0
  fill    : Nat := 0
  busy    : Bool := false
  done    : Bool := false
  failed  : Bool := false
  failCh  : Nat := 0
  step    : Nat := 0
  prog    : Nat := 0
  chmap   : Nat := 0
  fillBusy : Bool := false
  trainAt : Nat := 0
  fillAt  : Nat := 0
  chans   : SMap Dmc := []
  selfRefresh : Bool := false
deriving DecidableEq, Repr

/-- The PCIe endpoint and the root port (R248 to R254, R452): configuration registers that can be written, PERST_N asserted,
retry status still possible and the PERCLK cycle in which its 100 ms began, the links, and the memory writes issued to the
drive. -/
structure Pcie where
  cfg     : SMap W32 := []
  perst   : Bool := false
  early   : Bool := true
  width   : Nat := 0
  speed   : Nat := 0
  rpWidth : Nat := 0
  rpSpeed : Nat := 0
  rpWrites : List (Nat × List Byte) := []
  openedAt : Nat := 0
deriving DecidableEq, Repr

/-- The deadlock probe (R296 to R298): running, one further probe asked for, the wait the snapshot found stuck, and the age of
each wait, in PERCLK cycles, when it was last looked at for a request. -/
structure Probe where
  asked   : List (WaitReg × Nat) := []
  busy    : Bool := false
  further : Bool := false
  verdict : Option WaitReg := none
deriving DecidableEq, Repr

/-- The answer to the last read or access that came from outside: whether it was performed, its status and data. -/
structure Resp where
  ok     : Bool := true
  status : Nat := 0
  data   : List Byte := []
deriving DecidableEq, Repr

/-- The state of the device. -/
structure State where
  /-- Commands that wait, first in, first out. -/
  pending : List Instr
  /-- Memory: gesso slices, media region, DDR5 and host memory, by device physical address (Table 1.2). -/
  mem     : List (Nat × Byte)
  /-- Set-up registers, by offset from 0x000_8000_0000. -/
  regs    : SMap W64
  /-- Words of the wider structures that a 64-bit read of the lowest word has latched, by offset (R447). -/
  wide    : SMap Nat
  /-- Fuses. -/
  fuse    : Fuses
  /-- Occasions on which a free value has been taken; the model's own field. -/
  free    : Nat
  /-- Standalone mode (R4). -/
  standalone : Bool
  /-- STRAP_REFCLK as sampled. -/
  refclk  : Bool
  /-- Held in reset: PORST_N low, or STRAP_TEST sampled high. -/
  held    : Bool
  /-- STRAP_TEST was sampled high (R436). -/
  testHeld : Bool
  /-- The boot chain has ended with success (R282). -/
  ready   : Bool
  /-- A Function Level Reset whose contexts are not all FREE (R253). -/
  flrBusy : Bool
  /-- Stage of CPQ_READY, its PROGRESS and FAILED. -/
  stage   : Nat × Nat × Bool
  /-- Cause of the last reset, SYSCTL_STRAP.LASTRST. -/
  lastRst : Nat
  /-- ST_FATAL has been reported (R281). -/
  fatal   : Bool
  /-- The conservation guarantees are suspended (R14). -/
  suspended : Bool
  /-- THERMTRIP_N is driven low and the engine and core clocks are stopped (R394). -/
  tripped : Bool
  /-- Locks of CLK_STAT: ROOTPLL, DDR5 PLL, SerDes. -/
  rootLock : Bool
  ddrLock : Bool
  sdLock  : Bool
  clock   : Clock
  servo   : Servo
  engines : SMap Engine
  /-- Start of the bundle that issues, by engine. -/
  snaps   : SMap Snap
  /-- Words of memory whose stored code is in error, by physical address / 32. In the slices and the media region 1 is
  correctable and 2 uncorrectable (R194); a DDR5 word, by its first half, has the number of its bad symbols, or
  `poisonMark` (R327, R329). The SLC's words stand in its lines. A word of host memory has how the host completes a read of it:
  1 Unsupported Request, 2 Completer Abort, 3 poisoned data, 4 completion timeout (R274) (DESIGN CHOICE, log entry 74). -/
  ecc     : SMap Nat
  gesso   : Gesso
  slc     : Slc
  ddr     : Ddr
  pmt     : SMap PmtEntry
  pmtOp   : Option PmtOp
  sqs     : SMap Sq
  cqs     : SMap Cq
  cmds    : List Cmd
  commitQ : List Rec
  rrCp    : SMap Nat
  images  : SMap Image
  fences  : SMap Fence
  waits   : List WaitReg
  probe   : Probe
  mbx     : SMap (List W64)
  sdmas   : SMap Sdma
  rings   : SMap Ring
  sources : SMap Source
  ipps    : SMap Ipp
  codecs  : SMap Codec
  encs    : SMap Enc
  line    : Line
  chans   : SMap ActChan
  canRx   : SMap (List (List Byte))
  pmc     : Pmc
  sec     : Sec
  /-- Boot flash contents (R411): flash offset to byte; an unlisted byte reads 0xFF, the erased value. -/
  flash   : SMap Byte
  pcie    : Pcie
  /-- The USB port: 0 detached, 4 plus the speed code attached. -/
  usb     : Nat
  /-- Bytes that an OUT transfer in progress has put into the buffer of its descriptor, by ring (R453). -/
  usbOut  : SMap Nat
  /-- Application cores that are not held in reset, by number (R451). -/
  cores   : SMap HcCore
  /-- Interrupts raised, oldest first. -/
  irqs    : List Irq
  resp    : Resp
deriving DecidableEq, Repr

/-- Fuses as the part was made (R454) (DESIGN CHOICE, log entry 10). -/
def Fuses.ofConfig : Fuses where
  temp  := Config.temp
  speed := Config.speed
  nmin  := [Config.nmin 0, Config.nmin 1, Config.nmin 2, Config.nmin 3, Config.nmin 4, Config.nmin 5]
  vtrim := [Config.vtrim 0, Config.vtrim 1, Config.vtrim 2, Config.vtrim 3, Config.vtrim 4, Config.vtrim 5]

/-- The device as power-on reset is released, in attached mode: the straps of RESET_RELEASE are low, ROOTPLL is not yet locked,
and the boot chain has not run (DESIGN CHOICE, log entry 7). -/
def State.reset : State where
  pending := []
  mem := []
  regs := []
  wide := []
  fuse := Fuses.ofConfig
  free := 0
  standalone := false
  refclk := false
  held := false
  testHeld := false
  ready := false
  flrBusy := false
  stage := (0, 0, false)
  lastRst := 0
  fatal := false
  suspended := false
  tripped := false
  rootLock := false
  ddrLock := false
  sdLock := false
  clock := {}
  servo := {}
  engines := []
  snaps := []
  ecc := []
  gesso := {}
  slc := {}
  ddr := {}
  pmt := []
  pmtOp := none
  sqs := []
  cqs := []
  cmds := []
  commitQ := []
  rrCp := []
  images := []
  fences := []
  waits := []
  probe := {}
  mbx := []
  sdmas := []
  rings := []
  sources := []
  ipps := []
  codecs := []
  encs := []
  line := {}
  chans := []
  canRx := []
  pmc := {}
  sec := {}
  flash := []
  pcie := {}
  usb := 0
  usbOut := []
  cores := []
  irqs := []
  resp := {}

end Sys2Proof.Machine
end

