-- ==== Sys2Proof/Machine/Ops.lean ====
section
/-! DEFINITION. The named operations over sparse maps, memory, registers, interrupts and the address map that every family
of commands shares. -/

namespace Sys2Proof.Machine

open Sys2Proof

/-! ### Sparse maps -/

/-- The value at a key; `d` gives what an unlisted key holds. -/
def mget {α : Type} (d : Nat → α) : SMap α → Nat → α
  | [], k => d k
  | (k', v) :: t, k => if k' = k then v else mget d t k

/-- The value at a key, none where nothing is listed. -/
def mfind {α : Type} : SMap α → Nat → Option α
  | [], _ => none
  | (k', v) :: t, k => if k' = k then some v else mfind t k

/-- A value put at a key, in rising order of keys. -/
def minsert {α : Type} (k : Nat) (v : α) : SMap α → SMap α
  | [] => [(k, v)]
  | (k', v') :: t =>
    if k < k' then (k, v) :: (k', v') :: t
    else if k' = k then (k, v) :: t
    else (k', v') :: minsert k v t

/-- A key taken out. -/
def merase {α : Type} (k : Nat) : SMap α → SMap α
  | [] => []
  | (k', v') :: t => if k' = k then merase k t else (k', v') :: merase k t

/-- A value set in a map whose unlisted keys hold `d`: setting the default takes the entry out. -/
def mset {α : Type} [DecidableEq α] (d : Nat → α) (k : Nat) (v : α) (m : SMap α) : SMap α :=
  if v = d k then merase k m else minsert k v m

/-! ### Memory -/

/-- What a byte of memory that nothing has written reads as (DESIGN CHOICE, log entry 1). -/
def memDefault (_ : Nat) : Byte := 0

/-- The canonical form of memory: addresses strictly rising, no entry equal to what an unlisted address reads as. -/
abbrev Memory.wf (m : List Host.Cell) : Prop :=
  List.Pairwise (fun a b => a.1 < b.1) m ∧ ∀ c ∈ m, c.2 ≠ memDefault c.1

/-- One byte of memory by physical address (DESIGN CHOICE, log entry 1). -/
def State.byte (s : State) (a : Nat) : Byte := mget memDefault s.mem a

/-- `s` with one byte of memory set. -/
def State.setByte (s : State) (a : Nat) (b : Byte) : State := { s with mem := mset memDefault a b s.mem }

/-- `n` bytes from address `a` up. -/
def State.bytes (s : State) (a n : Nat) : List Byte := (List.range n).map fun i => s.byte (a + i)

/-- Memory with bytes stored from address `a` up. -/
def memPut (m : List Host.Cell) (a : Nat) : List Byte → List Host.Cell
  | [] => m
  | b :: t => memPut (mset memDefault a b m) (a + 1) t

/-- `s` with bytes stored from address `a` up. -/
def State.setBytes (s : State) (a : Nat) (bs : List Byte) : State := { s with mem := memPut s.mem a bs }

/-- A little-endian value (R7). -/
def le : List Byte → Nat
  | [] => 0
  | b :: t => b.toNat + 256 * le t

/-- The `n` little-endian bytes of a value (R7). -/
def leBytes (n v : Nat) : List Byte := (List.range n).map fun i => BitVec.ofNat 8 (v >>> (8 * i))

/-- A little-endian field of a byte string. -/
def fieldAt (bs : List Byte) (off n : Nat) : Nat := le ((bs.drop off).take n)

/-- A big-endian value. -/
def beNat (bs : List Byte) : Nat := bs.foldl (fun a b => a * 256 + b.toNat) 0

/-- The `n` big-endian bytes of a value. -/
def beBytes (n v : Nat) : List Byte := (leBytes n v).reverse

/-- A little-endian field of memory. -/
def State.field (s : State) (a n : Nat) : Nat := le (s.bytes a n)

/-! ### Set-up registers -/

/-- A register's stored bits. -/
def State.rget (s : State) (r : Reg) : Nat := (mget (fun _ => r.reset) s.regs r.addr).toNat

/-- `s` with a register's stored bits replaced. -/
def State.rset (s : State) (r : Reg) (v : Nat) : State :=
  { s with regs := mset (fun _ => r.reset) r.addr (BitVec.ofNat 64 v) s.regs }

/-- Bits `[h:l]` of a register. -/
def State.fget (s : State) (r : Reg) (h l : Nat) : Nat := bits (s.rget r) h l

/-- `s` with bits `[h:l]` of a register replaced. -/
def State.fset (s : State) (r : Reg) (h l v : Nat) : State := s.rset r (setBits (s.rget r) h l v)

/-- `s` with a counter register that wraps at 2^w advanced by `n`. -/
def State.rinc (s : State) (r : Reg) (w n : Nat) : State := s.rset r ((s.rget r + n) % 2 ^ w)

/-- `s` with a counter register that saturates at 2^w − 1 advanced by `n`. -/
def State.rsat (s : State) (r : Reg) (w n : Nat) : State := s.rset r (min (s.rget r + n) (2 ^ w - 1))

/-! ### Engines -/

/-- One engine. -/
def State.eng (s : State) (e : Nat) : Engine := mget (fun _ => {}) s.engines e

/-- `s` with one engine replaced. -/
def State.setEng (s : State) (e : Nat) (x : Engine) : State := { s with engines := minsert e x s.engines }

/-- `s` with one engine changed. -/
def State.modEng (s : State) (e : Nat) (f : Engine → Engine) : State := s.setEng e (f (s.eng e))

/-! ### Free values and time -/

/-- A value the manual leaves open, and the state in which the next one is another (DESIGN CHOICE, log entry 9). -/
def State.takeFree (s : State) : Nat × State := (Config.freeValue s.free, { s with free := s.free + 1 })

/-- Device time in nanoseconds (R356). -/
def State.now (s : State) : Nat := s.clock.sec * 1000000000 + s.clock.ns

/-! ### Interrupts and events -/

/-- What the writable bits of a configuration register hold after reset (PRESUMED, log entry 20). -/
def cfgInit : Nat → Nat
  | 0x1E => 0x2810
  | 0x28 => 0x5
  | 0x43 => 0x00462030
  | 0x45 => 0x2000
  | _ => 0

/-- The stored bits of a configuration register, by its number of four bytes. -/
def State.cfgReg (s : State) (r : Nat) : Nat := (mget (fun r => BitVec.ofNat 32 (cfgInit r)) s.pcie.cfg r).toNat

/-- `s` with bits of a configuration register set. -/
def State.cfgSet (s : State) (r v : Nat) : State :=
  { s with pcie := { s.pcie with cfg := minsert r (BitVec.ofNat 32 (s.cfgReg r ||| v)) s.pcie.cfg } }

/-- Whether the function is in D3hot: PowerState of the power management control register. -/
def State.d3hot (s : State) : Bool := s.cfgReg 0x11 % 4 == 3

/-- Whether messages are sent at all: in attached mode the MSI-X capability's Enable bit set and Function Mask clear, and
the function not in D3hot (R269, R283, R303). The capability's control word is in configuration register 0x2C, bits 31
and 30. -/
def State.msixOpen (s : State) : Bool :=
  s.standalone || (s.cfgReg 0x2C / 2 ^ 31 % 2 == 1 && s.cfgReg 0x2C / 2 ^ 30 % 2 == 0 && !s.d3hot)

/-- An interrupt of the application cores; while PD_HC is off it waits for the PMC (R27, R303, R388). -/
def State.coreIrq (s : State) (i : Irq) : State :=
  if s.pmc.pdHc then { s with irqs := s.irqs ++ [i] }
  else { s with pmc := { s.pmc with wake := s.pmc.wake ++ [i] } }

/-- An interrupt of the application cores by its source. -/
def State.hcIrq (s : State) (source : Nat) : State := s.coreIrq (.hc source)

/-- A vector is sent: in standalone mode to the interrupt controller of the application cores (Table 1.9). -/
def State.sendMsix (s : State) (v : Nat) : State :=
  if s.standalone then s.coreIrq (.msix v) else { s with irqs := s.irqs ++ [.msix v] }

/-- Raise MSI-X vector `v`: a masked vector sets its pending bit. -/
def State.msix (s : State) (v : Nat) : State :=
  if s.msixOpen && s.rget (.msixCtl v) % 2 == 0 then s.sendMsix v
  else s.fset (.msixPba (v / 64)) (v % 64) (v % 64) 1

/-- Pending vectors that are no longer held back are sent. -/
def State.msixFlush (s : State) : State :=
  if s.msixOpen then
    (List.range 2048).foldl (fun t v =>
      if t.fget (.msixPba (v / 64)) (v % 64) (v % 64) = 1 ∧ t.rget (.msixCtl v) % 2 = 0 then
        (t.fset (.msixPba (v / 64)) (v % 64) (v % 64) 0).sendMsix v
      else t) s
  else s

/-- Device events of R280: 5 READY, 4 CFGERR, 3 CTXDONE, 2 SQERR, 1 FATAL, 0 UE. -/
def State.event (s : State) (bit : Nat) : State :=
  let s := s.fset .cpqEvent bit bit 1
  if s.fget .cpqEventVec 31 31 = 1 then s.msix (s.fget .cpqEventVec 10 0) else s

/-- ST_FATAL is reported (R14, R281). -/
def State.reportFatal (s : State) : State := ({ s with fatal := true, suspended := true } : State).event 1

/-- An uncorrectable memory error is reported (R14, R197). -/
def State.reportUe (s : State) : State := ({ s with suspended := true } : State).event 0

/-! ### The physical address map (Tables 1.2 and 1.3) -/

/-- Where a device physical address lies. -/
inductive Region where
  | slice (e off : Nat)
  | slc
  | media (off : Nat)
  | regs (off : Nat)
  | ddr (off : Nat)
  | host (off : Nat)
  | reserved
deriving DecidableEq, Repr

/-- Bytes of a slice. -/
def sliceSize : Nat := 0xE000000

/-- First byte of slice `e`. -/
def sliceBase (e : Nat) : Nat := e * sliceSize

/-- First byte of the media region, of the set-up registers, of DDR5 and of the outbound range. -/
def mediaBase : Nat := 0x5C000000
def regsBase : Nat := 0x80000000
def ddrBase : Nat := 0x4000000000
def hostBase : Nat := 0x10000000000

def regionOf (a : Nat) : Region :=
  if a < 0x54000000 then .slice (a / sliceSize) (a % sliceSize)
  else if a < mediaBase then .slc
  else if a < 0x60000000 then .media (a - mediaBase)
  else if a < regsBase then .reserved
  else if a < 0x90000000 then .regs (a - regsBase)
  else if a < ddrBase then .reserved
  else if a < 0x8000000000 then .ddr (a - ddrBase)
  else if a < hostBase then .reserved
  else if a < 0x100000000000 then .host (a - hostBase)
  else .reserved

/-- DMC_CFG.USE: DDR5 is enabled for use (R311). -/
def State.ddrUsed (s : State) : Bool := s.fget .dmcCfg 31 31 == 1

/-- Whether an address has a target (R16, R17, R311, R312). -/
def State.backed (s : State) (a : Nat) : Bool :=
  match regionOf a with
  | .slice .. => true
  | .media _ => true
  | .ddr o => s.ddrUsed && decide (o < s.ddr.fill)
  | .host _ => !s.standalone
  | _ => false

/-- Whether the memory at an address can be accessed: it has a target, and for the media region PD_MEDIA is on (the manual
gives no result for an access while it is off) (DESIGN CHOICE, log entry 70). -/
def State.reachable (s : State) (a : Nat) : Bool :=
  s.backed a && match regionOf a with
    | .media _ => s.pmc.pdMedia
    | _ => true

/-- Device physical address of a host memory address (R258, R283). -/
def State.hostPa (s : State) (a : Nat) : Nat := if s.standalone then a else hostBase + a

/-- Whether every byte of a host memory access can be reached. -/
def State.hostOk (s : State) (a n : Nat) : Bool :=
  if s.standalone then
    s.ddrUsed && decide (ddrBase ≤ a ∧ a + n ≤ ddrBase + s.ddr.fill)
  else decide (hostBase + a + n ≤ 0x100000000000)

end Sys2Proof.Machine
end

