-- ==== Sys2Proof/Machine/Memory.lean ====
section
/-! DEFINITION. Accesses of memory: error correction in the gesso (R194 to R198), the place of a DDR5 line and its code
(R315, R316, R327 to R329), the system-level cache (R200), region descriptors (R406), slice windows (R190 to R193) and
translation (R270 to R274). The bytes of memory stand once, in `State.mem`; the SLC and the channels hold which copies of
them are in error (DESIGN CHOICE, log entry 69). -/

namespace Sys2Proof.Machine

open Sys2Proof

/-! ### Places in the gesso (R183 to R185) -/

/-- Gesso region index of an address (R205), none outside the gesso. -/
def gessoRegion (a : Nat) : Option Nat :=
  match regionOf a with
  | .slice e _ => some e
  | .media _ => some 7
  | _ => none

/-- Byte offset of an address within its gesso region. -/
def gessoOffset (a : Nat) : Nat :=
  match regionOf a with
  | .slice _ o => o
  | .media o => o
  | _ => 0

/-- Banks of a region (Table 8.1), lines of a region (R183). -/
def regionBanks (r : Nat) : Nat := if r < 6 then 448 else if r = 6 then 256 else 128
def regionLines (r : Nat) : Nat := regionBanks r * 8192

/-- Bank and row of a line of a region (R184, R185). -/
def lineBank (r l : Nat) : Nat := l % regionBanks r
def lineRow (r l : Nat) : Nat := l / regionBanks r

/-- The line index within region 6 of one half of a way of the SLC: two consecutive lines of one bank of the quarter
(R185); the bank and the row are open (DESIGN CHOICE, log entry 68). -/
def slcIndex (slot half : Nat) : Nat :=
  (Config.slcRow slot % 4096 * 2 + half) * 256 + slot / 2 ^ 18 * 64 + Config.slcBank slot % 64

/-! ### DDR5 lines (R314 to R316) -/

/-- Ones among the low `n` bits. -/
def onesIn : Nat → Nat → Nat
  | 0, _ => 0
  | n + 1, x => x % 2 + onesIn n (x / 2)

/-- Parity of an address under a mask. -/
def parity (d mask : Nat) : Nat := onesIn 40 (d &&& mask) % 2

/-- The hash masks in use: DMC_HASH6 is not used with 8 Gbit devices. -/
def State.hashes (s : State) : List Nat :=
  (List.range (if s.ddr.density = 8 then 6 else 7)).map fun i => s.rget (.dmcHash i)

/-- The pivot of a mask: its lowest set bit. -/
def pivot (m : Nat) : Nat := ((List.range 40).find? fun i => m / 2 ^ i % 2 == 1).getD 40

/-- The bits of `d` at positions `ps`, the first least significant. -/
def gather (d : Nat) : List Nat → Nat
  | [] => 0
  | p :: t => d / 2 ^ p % 2 + 2 * gather d t

/-- The place of a line. -/
structure DdrLoc where
  ch   : Nat
  bg   : Nat
  ba   : Nat
  cl   : Nat
  rank : Nat
  row  : Nat
deriving DecidableEq, Repr

/-- Channel of an offset in DDR5. -/
def State.ddrChannel (s : State) (d : Nat) : Nat :=
  parity d (s.rget (.dmcHash 0)) + 2 * parity d (s.rget (.dmcHash 1))

/-- Line bits of a row: 64 lines with x8 devices, 128 with x4. -/
def State.clBits (s : State) : Nat := if s.ddr.x4 then 7 else 6

/-- R315. -/
def State.ddrLoc (s : State) (d : Nat) : DdrLoc :=
  let pv := s.hashes.map pivot
  let rest := (List.range 31).filterMap fun i => if pv.contains (i + 7) then none else some (i + 7)
  let h (i : Nat) : Nat := parity d (s.rget (.dmcHash i))
  let n := s.clBits
  let r := if s.ddr.ranks = 2 then 1 else 0
  { ch := s.ddrChannel d
    bg := h 2 + 2 * h 3 + 4 * h 4
    ba := h 5 + (if s.ddr.density = 8 then 0 else 2 * h 6)
    cl := gather d (rest.take n)
    rank := gather d ((rest.drop n).take r)
    row := gather d (rest.drop (n + r)) }

/-- One channel. -/
def State.dmc (s : State) (c : Nat) : Dmc := mget (fun _ => {}) s.ddr.chans c
def State.setDmc (s : State) (c : Nat) (x : Dmc) : State := { s with ddr := { s.ddr with chans := minsert c x s.ddr.chans } }

/-! ### The lines of the SLC (R200) -/

/-- Quarter and set of a line (DESIGN CHOICE, log entry 30). -/
def State.slcSet (s : State) (line : Nat) : Nat := s.ddrChannel (line * 128 - ddrBase) * 16384 + Config.slcSet line % 16384

/-- The way of a set that holds a line. -/
def State.slcWay (s : State) (set line : Nat) : Option Nat :=
  (List.range 16).find? fun w => match mfind s.slc.lines (set * 16 + w) with
    | some x => x.addr == line
    | none => false

/-- The place of a line, where the SLC holds it: set × 16 + way. -/
def State.slcSlot (s : State) (line : Nat) : Option Nat :=
  (s.slcWay (s.slcSet line) line).map fun w => s.slcSet line * 16 + w

/-- The 15 tree bits after a use of way `w`: each node on its path points away from it. -/
def plruTouch (b w : Nat) : Nat :=
  [(0, 3), (1 + w / 8, 2), (3 + w / 4, 1), (7 + w / 2, 0)].foldl
    (fun m p => setBits m p.1 p.1 (1 - w / 2 ^ p.2 % 2)) b

/-- The way the tree bits point at. -/
def plruVictim (b : Nat) : Nat :=
  let b3 := b % 2
  let b2 := b / 2 ^ (1 + b3) % 2
  let b1 := b / 2 ^ (3 + 2 * b3 + b2) % 2
  let b0 := b / 2 ^ (7 + 4 * b3 + 2 * b2 + b1) % 2
  8 * b3 + 4 * b2 + 2 * b1 + b0

/-- A use of the line at `slot`. -/
def State.slcTouch (s : State) (slot : Nat) : State :=
  let set := slot / 16
  { s with slc := { s.slc with
      plru := minsert set (plruTouch (mget (fun _ => 0) s.slc.plru set) (slot % 16)) s.slc.plru } }

/-- The mark of ECC word `k` of a line, and a line with that mark replaced. -/
def SlcLine.mark (x : SlcLine) (k : Nat) : Nat := x.marks.getD k 0
def SlcLine.setMark (x : SlcLine) (k m : Nat) : SlcLine := { x with marks := x.marks.set k m }

/-- A line of the SLC changed. -/
def State.modLine (s : State) (slot : Nat) (f : SlcLine → SlcLine) : State :=
  match mfind s.slc.lines slot with
  | some x => { s with slc := { s.slc with lines := minsert slot (f x) s.slc.lines } }
  | none => s

/-! ### Corrections and uncorrectable errors of the gesso (R194 to R197) -/

/-- Offset within region `r` of an ECC word, by its number in memory; a word of the SLC stands where its line does. -/
def State.eccOffset (s : State) (r w : Nat) : Nat :=
  if r = 6 then
    match s.slcSlot (w / 4) with
    | some slot => slcIndex slot (w / 2 % 2) * 64 + w % 2 * 32
    | none => 0
  else gessoOffset (w * 32) / 32 * 32

/-- The fields of GS_UE_LOG and GS_CE_LOG. -/
def eccLog (r src off : Nat) : Nat := r * 2 ^ 61 + src * 2 ^ 59 + 2 ^ 58 + off % 2 ^ 28

/-- A correction counted and recorded (R196). -/
def State.ceCount (s : State) (r src w : Nat) : State :=
  (s.rinc (.gsCeCount r) 64 1).rset .gsCeLog (eccLog r src (s.eccOffset r w))

/-- A correction in region `r` (R196): counted, recorded and queued for write-back, unless the queue of 64 is full; a word that
waits in the queue already is neither queued again nor counted as dropped (DESIGN CHOICE, log entry 96). -/
def State.corrected (s : State) (r src w : Nat) : State :=
  let s := s.ceCount r src w
  let q := mget (fun _ => []) s.gesso.wbq r
  if q.contains w then s
  else if q.length < 64 then { s with gesso := { s.gesso with wbq := minsert r (q ++ [w]) s.gesso.wbq } }
  else s.rinc .gsWbDrop 64 1

/-- An uncorrectable error in region `r` (R197). The word and its bank stay in service (R198): later reads decode it as
before. -/
def State.uncorrected (s : State) (r src w : Nat) : State :=
  let s := s.rinc (.gsUeCount r) 64 1
  let s := if s.fget .gsUeLog 58 58 = 1 then s else s.rset .gsUeLog (eccLog r src (s.eccOffset r w))
  s.reportUe

/-- A pending write-back of a word is cancelled by a write to it (R196). -/
def State.wbCancel (s : State) (r w : Nat) : State :=
  match mfind s.gesso.wbq r with
  | some q => { s with gesso := { s.gesso with wbq := minsert r (q.filter (· ≠ w)) s.gesso.wbq } }
  | none => s

/-- A write to region `r` meets an armed injection (Table 8.5): the mark that the written word takes, and ARM cleared. ARM is
ignored while MODE is 3. -/
def State.gsInject (s : State) (r : Nat) : Nat × State :=
  if s.fget .gsEccInj 8 8 = 1 ∧ s.fget .gsEccInj 6 4 = r ∧ s.fget .gsEccInj 1 0 ≠ 3 then
    (s.fget .gsEccInj 1 0, s.fset .gsEccInj 8 8 0)
  else (0, s)

/-- A read of one ECC word of a slice, of the media region or of host memory: whether it delivers data, and the state with
its correction or error recorded. No word, row or bank leaves service (R198). -/
def State.eccRead (s : State) (src w : Nat) : Bool × State :=
  match mget (fun _ => 0) s.ecc w, gessoRegion (w * 32) with
  | 0, _ => (true, s)
  | 1, some r => (true, s.corrected r src w)
  | _, some r => (false, s.uncorrected r src w)
  | _, none => (false, s)

/-- Reads of ECC words in order; data is delivered only if every word delivers. -/
def State.eccReads (s : State) (src : Nat) : List Nat → Bool × State
  | [] => (true, s)
  | w :: t =>
    let r := s.eccRead src w
    let q := r.2.eccReads src t
    (r.1 && q.1, q.2)

/-- The ECC words that `n` bytes from `a` up touch. -/
def eccWords (a n : Nat) : List Nat :=
  if n = 0 then [] else (List.range ((a + n - 1) / 32 + 1 - a / 32)).map fun i => a / 32 + i

/-- The bytes of `bs`, stored from `a` up, that fall in ECC word `w`, with the address of the first. -/
def wordPart (a : Nat) (bs : List Byte) (w : Nat) : Nat × List Byte :=
  let lo := max a (w * 32)
  (lo, (bs.drop (lo - a)).take (w * 32 + 32 - lo))

/-- A write of part of one gesso ECC word (R195, R196, R205): a write of less than the word reads it first, which counts a
correction, and is not performed where the word is uncorrectable; any write cancels a pending write-back; an armed injection
corrupts it. `src` is the port of the writer. -/
def State.gessoWrite (s : State) (src a : Nat) (bs : List Byte) (w : Nat) (r : Nat) : Bool × State :=
  let p := wordPart a bs w
  let m := mget (fun _ => 0) s.ecc w
  if 2 ≤ m ∧ p.2.length < 32 then (false, s.uncorrected r src w)
  else
    let s := if m = 1 ∧ p.2.length < 32 then s.ceCount r src w else s
    let s := ({ s.setBytes p.1 p.2 with ecc := merase w s.ecc } : State).wbCancel r w
    let q := s.gsInject r
    (true, if q.1 = 0 then q.2 else { q.2 with ecc := minsert w q.1 q.2.ecc })

/-- A write of part of one ECC word outside DDR5. -/
def State.wordWrite (s : State) (src a : Nat) (bs : List Byte) (w : Nat) : Bool × State :=
  match gessoRegion (w * 32) with
  | some r => s.gessoWrite src a bs w r
  | none => (true, s.setBytes (wordPart a bs w).1 (wordPart a bs w).2)

/-- Writes of the parts of ECC words in order. -/
def State.wordWrites (s : State) (src a : Nat) (bs : List Byte) : List Nat → Bool × State
  | [] => (true, s)
  | w :: t =>
    let r := s.wordWrite src a bs w
    let q := r.2.wordWrites src a bs t
    (r.1 && q.1, q.2)

/-! ### The code of a DDR5 word (R326 to R329) -/

/-- The mark of a DDR5 word that was written with the poison encoding (R329); a larger mark has that many more symbols in
error. -/
def poisonMark : Nat := 100

/-- DMC_UE_LOG and DMC_CE_LOG for the ECC word at offset `d` (Table 13.11). -/
def ddrLog (l : DdrLoc) (src d nsym : Nat) : Nat :=
  2 ^ 63 + src * 2 ^ 61 + d / 64 % 2 * 2 ^ 60 + l.rank * 2 ^ 59 + l.bg * 2 ^ 56 + l.ba * 2 ^ 54 + l.row % 2 ^ 17 * 2 ^ 37 +
    16 * l.cl % 2 ^ 11 * 2 ^ 26 + nsym % 16 * 2 ^ 22

/-- A corrected DDR5 word (R328): counted, recorded, and its line written back once. -/
def State.ddrCorrected (s : State) (src d nsym : Nat) : State :=
  let l := s.ddrLoc d
  let s := (s.rinc (.dmcCount l.ch 0) 64 1).rset (.dmcCeLog l.ch) (ddrLog l src d nsym)
  let x := s.dmc l.ch
  if x.wback.contains (d / 128) then s else s.setDmc l.ch { x with wback := x.wback ++ [d / 128] }

/-- The line at offset `d` is not to be written back: a word of it is uncorrectable. -/
def State.noWback (s : State) (d : Nat) : State :=
  let ch := s.ddrChannel d
  let x := s.dmc ch
  if x.wback.contains (d / 128) then s.setDmc ch { x with wback := x.wback.filter (· ≠ d / 128) } else s

/-- An uncorrectable DDR5 word, or one with the poison encoding (R329). -/
def State.ddrUncorrected (s : State) (src d : Nat) (poison : Bool) : State :=
  let l := s.ddrLoc d
  let s := s.rinc (.dmcCount l.ch (if poison then 2 else 1)) 64 1
  let s := if s.fget (.dmcUeLog l.ch) 63 63 = 1 then s
    else s.rset (.dmcUeLog l.ch) (ddrLog l (if poison then 2 else src) d 0)
  s.reportUe

/-- Symbols corrected in one ECC word (Table 13.4). -/
def State.symLimit (s : State) : Nat := if s.ddr.x4 then 8 else 4

/-- Whether an error beyond the limit is certainly reported (Table 13.4) (DESIGN CHOICE, log entry 28). -/
def State.symSure (s : State) (n : Nat) : Bool := !s.ddr.x4 && decide (n ≤ 12)

/-- What a decode answers: data as it was written, an uncorrectable error, or a false codeword at a distance of `n`
symbols. -/
inductive Decoded where
  | good
  | bad
  | wrong (n : Nat)
deriving DecidableEq, Repr

/-- The decode of the ECC word at offset `d` (R327 to R329), with `n` symbols in error beyond those that are stored in error;
`address` says that the location is wrong. Beyond what Table 13.4 assures, the outcome is open
(DESIGN CHOICE, log entry 28). -/
def State.ddrDecode (s : State) (src d n : Nat) (address : Bool) : Decoded × State :=
  let m := mget (fun _ => 0) s.ecc ((ddrBase + d) / 64 * 2)
  let poison := decide (poisonMark ≤ m)
  let t := n + if poison then m - poisonMark + 1 else m
  if poison && t == 1 && !address then (.bad, s.ddrUncorrected src d true)
  else if address || (poison && decide (t ≤ s.symLimit)) || (decide (s.symLimit < t) && s.symSure t) then
    (.bad, s.ddrUncorrected src d false)
  else if t = 0 then (.good, s)
  else if t ≤ s.symLimit then (.good, s.ddrCorrected src d t)
  else
    let p := s.takeFree
    let k := p.1 / 2 % (s.symLimit + 1)
    if p.1 % 2 = 0 then (.bad, p.2.ddrUncorrected src d false)
    else (.wrong k, if k = 0 then p.2 else p.2.ddrCorrected src d k)

/-- A false codeword is delivered for the ECC word at offset `d` (DESIGN CHOICE, log entry 28): its bytes are open, and its
errors are now those of that codeword. -/
def State.ddrWrong (s : State) (d n : Nat) : State :=
  let w := (ddrBase + d) / 64 * 2
  { s.setBytes (w * 32) ((List.range 64).map fun i => BitVec.ofNat 8 (Config.freeValue (s.free + i))) with
    free := s.free + 64
    ecc := if n = 0 then merase w s.ecc else minsert w n s.ecc }

/-- One ECC word through the decoder: whether its data is delivered. -/
def State.ddrWord (s : State) (src d n : Nat) (address : Bool) : Bool × State :=
  match s.ddrDecode src d n address with
  | (.good, t) => (true, t)
  | (.bad, t) => (false, t)
  | (.wrong k, t) => (true, t.ddrWrong d k)

/-- Whether the channel of an offset in DDR5 is FAILED (R326). -/
def State.ddrFailed (s : State) (d : Nat) : Bool :=
  (s.ddr.chans.any fun p => p.2.state == 3) && (s.dmc (s.ddrChannel d)).state == 3

/-- A request to a FAILED channel fails: counted, with the device error event (R326). -/
def State.chanFailure (s : State) (ch : Nat) : State := (s.rinc (.dmcCount ch 1) 64 1).reportUe

/-- Whether both words of the line at offset `d` decode as exactly the poison encoding (R329). -/
def State.ddrPoisoned (s : State) (d : Nat) (e : DdrErr) : Bool :=
  let w := (ddrBase + d) / 64 * 2
  e == ⟨0, 0, false⟩ && mget (fun _ => 0) s.ecc w == poisonMark && mget (fun _ => 0) s.ecc (w + 2) == poisonMark

/-- A read of the line at offset `d`: both its ECC words, with the symbols in error beyond those stored (R316, R327). One read of
a poisoned line counts once (R329), and a line with an uncorrectable word is not written back (R328). -/
def State.ddrLine (s : State) (src d : Nat) (e : DdrErr) : Bool × State :=
  if s.ddrPoisoned d e then (false, (s.ddrUncorrected src d true).noWback d)
  else
    let p := s.ddrWord src d e.symA e.address
    let q := p.2.ddrWord src (d + 64) e.symB e.address
    if p.1 && q.1 then (true, q.2) else (false, q.2.noWback d)

/-- A line read from its channel for the SLC. -/
def State.ddrFetch (s : State) (d : Nat) : Bool × State :=
  if s.ddrFailed d then (false, s.chanFailure (s.ddrChannel d)) else s.ddrLine 0 d ⟨0, 0, false⟩

/-- A write to a channel meets an armed DMC_ECC_INJ (Table 13.8): the bad symbols that its first ECC word takes, and ARM
cleared. ARM is ignored while MODE is 3. -/
def State.ddrInject (s : State) (ch : Nat) : Nat × State :=
  let m := s.fget .dmcEccInj 1 0
  if s.fget .dmcEccInj 8 8 = 1 ∧ s.fget .dmcEccInj 5 4 = ch ∧ m ≠ 3 then
    (if m = 1 then 1 else if m = 2 then 9 else 0, s.fset .dmcEccInj 8 8 0)
  else (0, s)

/-- A line written to its channel: its code is new, or the poison encoding (R329); a correction write-back that waits for it is
dropped (R328). -/
def State.ddrStore (s : State) (d : Nat) (poison : Bool) : State :=
  let ch := s.ddrChannel d
  if s.ddrFailed d then s.chanFailure ch
  else
    let w := (ddrBase + d) / 128 * 4
    let q := (s.noWback d).ddrInject ch
    if poison then { q.2 with ecc := minsert w (poisonMark + q.1) (minsert (w + 2) poisonMark q.2.ecc) }
    else
      let m := merase w (merase (w + 2) q.2.ecc)
      { q.2 with ecc := if q.1 = 0 then m else minsert w q.1 m }

/-! ### Accesses through the SLC (R28, R200) -/

/-- A line leaves its place: a dirty line passes the decoder and is written to DDR5, with poison where a word of it is
uncorrectable (R200, R329). -/
def State.slcEvict (s : State) (slot : Nat) : State :=
  match mfind s.slc.lines slot with
  | none => s
  | some x =>
    let s := if x.dirty then
        let t := (List.range 4).foldl (fun (t : State) k =>
          if x.mark k = 1 then t.ceCount 6 2 (x.addr * 4 + k)
          else if 2 ≤ x.mark k then t.uncorrected 6 2 (x.addr * 4 + k) else t) s
        t.ddrStore (x.addr * 128 - ddrBase) (x.poison || x.marks.any fun m => decide (2 ≤ m))
      else s
    let q := mget (fun _ => []) s.gesso.wbq 6
    { s with
      slc := { s.slc with lines := merase slot s.slc.lines, fetched := s.slc.fetched.filter (· ≠ x.addr) }
      gesso := if q.isEmpty then s.gesso
        else { s.gesso with wbq := minsert 6 (q.filter fun w => w / 4 ≠ x.addr) s.gesso.wbq } }

/-- The place that a line takes: a way that holds nothing, or the one the tree bits point at. -/
def State.slcVictim (s : State) (line : Nat) : Nat :=
  let set := s.slcSet line
  let free := (List.range 16).find? fun w => (mfind s.slc.lines (set * 16 + w)).isNone
  set * 16 + free.getD (plruVictim (mget (fun _ => 0) s.slc.plru set))

/-- A line brought into its set. The data of a fetched line is written into it, and meets an armed injection (R205); a line that
is wholly written has no data before. -/
def State.slcFill (s : State) (line : Nat) (fetch : Bool) : State :=
  let slot := s.slcVictim line
  let q := if fetch then (s.slcEvict slot).gsInject 6 else (0, s.slcEvict slot)
  ({ q.2 with slc := { q.2.slc with
      lines := minsert slot ⟨line, false, false, [q.1, 0, 0, 0]⟩ q.2.slc.lines } } : State).slcTouch slot

/-- A demand finds its line in the SLC or allocates it; `fetch` says that its data is read from DDR5. A line that is
uncorrectable is not allocated (R329). -/
def State.slcLine (s : State) (line : Nat) (fetch : Bool) : Bool × State :=
  match s.slcSlot line with
  | some slot => (true, s.slcTouch slot)
  | none =>
    let r := if fetch then s.ddrFetch (line * 128 - ddrBase) else (true, s)
    if r.1 then (true, r.2.slcFill line fetch) else r

/-- An uncorrectable error in a clean line (R200): the line is read again from DDR5, and the error counts as a
correction. -/
def State.slcRefetch (s : State) (slot w : Nat) : Bool × State :=
  let s := s.ceCount 6 3 w
  ({ s with slc := { s.slc with lines := merase slot s.slc.lines } } : State).slcLine (w / 4) true

/-- A read of one ECC word of a line that the SLC holds. -/
def State.slcWord (s : State) (src w : Nat) : Bool × State :=
  match s.slcSlot (w / 4) with
  | none => (true, s)
  | some slot =>
    match mfind s.slc.lines slot with
    | none => (true, s)
    | some x =>
      match x.mark (w % 4) with
      | 0 => (true, s)
      | 1 => (true, s.corrected 6 src w)
      | _ =>
        if x.dirty then (false, (s.uncorrected 6 src w).modLine slot fun y => { y with poison := true })
        else s.slcRefetch slot w

def State.slcWords (s : State) (src : Nat) : List Nat → Bool × State
  | [] => (true, s)
  | w :: t =>
    let r := s.slcWord src w
    let q := r.2.slcWords src t
    (r.1 && q.1, q.2)

/-- A prefetched line is read by a demand access: it counts as used (Table 9.17). -/
def State.pfUsed (s : State) (line : Nat) : State :=
  if s.slc.fetched.contains line then
    ({ s with slc := { s.slc with fetched := s.slc.fetched.filter (· ≠ line) } } : State).rinc (.gsPf 1) 64 1
  else s

/-- The lines of 128 bytes that `n` bytes from `a` up touch. -/
def lineUnits (a n : Nat) : List Nat :=
  if n = 0 then [] else (List.range ((a + n - 1) / 128 + 1 - a / 128)).map fun i => a / 128 + i

/-- The ECC words of a line that `n` bytes from `a` up touch. -/
def lineWords (a n line : Nat) : List Nat :=
  (List.range 4).filterMap fun k =>
    let w := line * 4 + k
    if a / 32 ≤ w ∧ w ≤ (a + n - 1) / 32 then some w else none

/-- Reads of lines in order. -/
def State.lineReads (s : State) (src a n : Nat) : List Nat → Bool × State
  | [] => (true, s)
  | l :: t =>
    let r := (s.pfUsed l).slcLine l true
    let r := if r.1 then r.2.slcWords src (lineWords a n l) else r
    let q := r.2.lineReads src a n t
    (r.1 && q.1, q.2)

/-- A write of part of one ECC word of a line that the SLC holds (R195, R200). -/
def State.slcPut (s : State) (src a : Nat) (bs : List Byte) (w : Nat) : Bool × State :=
  let p := wordPart a bs w
  match s.slcSlot (w / 4) with
  | none => (false, s)
  | some slot =>
    let x := (mfind s.slc.lines slot).getD ⟨w / 4, false, false, [0, 0, 0, 0]⟩
    let m := x.mark (w % 4)
    let r : Bool × State :=
      if p.2.length < 32 then
        if m = 0 then (true, s)
        else if m = 1 then (true, s.ceCount 6 src w)
        else if x.dirty then (false, (s.uncorrected 6 src w).modLine slot fun y => { y with poison := true })
        else s.slcRefetch slot w
      else (true, s)
    if r.1 then
      let q := ((r.2.setBytes p.1 p.2).wbCancel 6 w).gsInject 6
      let slot := (q.2.slcSlot (w / 4)).getD slot
      (true, q.2.modLine slot fun y =>
        let z := y.setMark (w % 4) q.1
        { z with dirty := true, poison := z.poison && z.marks.any fun m => decide (2 ≤ m) })
    else r

def State.slcPuts (s : State) (src a : Nat) (bs : List Byte) : List Nat → Bool × State
  | [] => (true, s)
  | w :: t =>
    let r := s.slcPut src a bs w
    let q := r.2.slcPuts src a bs t
    (r.1 && q.1, q.2)

/-- Writes of the parts of lines in order: a write of a whole line needs no data from DDR5. -/
def State.lineWrites (s : State) (src a : Nat) (bs : List Byte) : List Nat → Bool × State
  | [] => (true, s)
  | l :: t =>
    let r := s.slcLine l (!decide (a ≤ l * 128 ∧ l * 128 + 128 ≤ a + bs.length))
    let r := if r.1 then r.2.slcPuts src a bs (lineWords a bs.length l) else r
    let q := r.2.lineWrites src a bs t
    (r.1 && q.1, q.2)

/-! ### Physical accesses -/

/-- Whether an address lies in DDR5. -/
def inDdr (a : Nat) : Bool :=
  match regionOf a with
  | .ddr _ => true
  | _ => false

/-- A physical read: the bytes, none on an uncorrectable error. `src` is the SOURCE of the error logs. -/
def State.pread (s : State) (src a n : Nat) : Option (List Byte) × State :=
  let r := if inDdr a then s.lineReads src a n (lineUnits a n) else s.eccReads src (eccWords a n)
  if r.1 then (some (r.2.bytes a n), r.2) else (none, r.2)

/-- Whether no word needs the error-correction path: no marks, no write-backs, no armed injection, no FAILED channel. -/
def State.eccClean (s : State) : Bool :=
  s.ecc.isEmpty && s.gesso.wbq.isEmpty && s.fget .gsEccInj 8 8 == 0 && s.fget .dmcEccInj 8 8 == 0 &&
  !(s.ddr.chans.any fun p => p.2.state == 3 || !p.2.wback.isEmpty) &&
  s.slc.lines.all fun p => !p.2.poison && p.2.marks == [0, 0, 0, 0]

/-- Whether an address lies in the outbound range while the endpoint has no link: a posted write is lost
(PRESUMED, log entry 74). -/
def State.linkDown (s : State) (a : Nat) : Bool := decide (hostBase ≤ a) && s.pcie.width == 0

/-- A physical write; false when some word reported an uncorrectable error (R195). `src` is the SOURCE of the error logs. -/
def State.pwrite (s : State) (src a : Nat) (bs : List Byte) : Bool × State :=
  if s.linkDown a then (true, s)
  else if inDdr a then s.lineWrites src a bs (lineUnits a bs.length)
  else if s.eccClean then (true, s.setBytes a bs)
  else s.wordWrites src a bs (eccWords a bs.length)

/-! ### Region descriptors (R406) -/

/-- The enabled descriptors in order: base unit, limit unit, STUDIO, GRD. -/
def State.regionList (s : State) : List (Nat × Nat × Bool × Bool) :=
  (List.range 64).filterMap fun n =>
    let c := s.rget (.secRgnCfg n)
    if c % 2 = 1 then some (bits (s.rget (.secRgnBase n)) 43 16, bits c 43 16, bits c 1 1 == 1, bits c 2 2 == 1)
    else none

/-- Whether the 64-byte line of an address admits an access (R406). -/
def lineAdmits (l : List (Nat × Nat × Bool × Bool)) (w : World) (wr : Bool) (a : Nat) : Bool :=
  match l.find? fun d => decide (d.1 ≤ a / 65536 ∧ a / 65536 ≤ d.2.1) with
  | none => true
  | some d => !d.2.2.1 || w == .studio || (d.2.2.2 && !wr)

/-- Whether every line of an access is admitted (R406). Descriptors work in 64 KiB units, so one line of each unit that
the access touches decides. -/
def State.regionAdmits (s : State) (w : World) (wr : Bool) (a n : Nat) : Bool :=
  let l := s.regionList
  (List.range ((a + n - 1) / 65536 + 1 - a / 65536)).all fun i => lineAdmits l w wr ((a / 65536 + i) * 65536)

/-! ### A slice's own port (R407) -/

/-- What an engine's read of its own slice finds (R194, R407): the bytes, or the status and sub-code of its fault, a line that
the region descriptors refuse before an uncorrectable error. -/
def State.ownRead (s : State) (a n : Nat) : Except (Nat × Nat) (List Byte) × State :=
  if !s.regionAdmits .gallery false a n then (.error (0x20, 4), s)
  else
    match s.pread 0 a n with
    | (some bs, s) => (.ok bs, s)
    | (none, s) => (.error (0x70, 0), s)

/-- An engine's write of its own slice: the status and sub-code of its fault, if it has one. -/
def State.ownWrite (s : State) (a : Nat) (bs : List Byte) : Option (Nat × Nat) × State :=
  if !s.regionAdmits .gallery true a bs.length then (some (0x20, 4), s)
  else
    let r := s.pwrite 0 a bs
    (if r.1 then none else some (0x70, 0), r.2)

/-! ### Slice windows (R190 to R193) -/

/-- A window's state, range and permissions. -/
def State.winState (s : State) (e w : Nat) : Nat := s.fget (.gsWinCtl e w) 9 8
def State.winLo (s : State) (e w : Nat) : Nat := s.fget (.gsWinBase e w) 31 16 * 65536
def State.winHi (s : State) (e w : Nat) : Nat := s.winLo e w + s.fget (.gsWinSize e w) 31 16 * 65536

/-- Whether some one OPEN window of slice `e` permits an access to all of these bytes of the slice, given by offset and
length (R190). -/
def State.winAdmits (s : State) (e : Nat) (l : List (Nat × Nat)) (wr : Bool) : Bool :=
  (List.range 16).any fun w =>
    s.winState e w == 1 && s.fget (.gsWinCtl e w) (if wr then 3 else 2) (if wr then 3 else 2) == 1 &&
    l.all fun p => decide (s.winLo e w ≤ p.1 ∧ p.1 + p.2 ≤ s.winHi e w)

/-- The bytes of an access that lie in slice `e`, by offset and length. -/
def sliceBytes (e : Nat) (ps : List (Nat × Nat)) : List (Nat × Nat) :=
  ps.filterMap fun p => match regionOf p.1 with
    | .slice f o => if f = e then some (o, p.2) else none
    | _ => none

/-- The window against which a refusal is counted (R193), for the first refused byte. -/
def State.winOwner (s : State) (e o : Nat) : Option Nat :=
  let cover := (List.range 16).filter fun w => decide (s.winLo e w ≤ o ∧ o < s.winHi e w)
  match cover.find? fun w => s.winState e w != 0 with
  | some w => some w
  | none => cover.head?

/-- A refusal counted once; the answer is the window number an engine reports (R193). -/
def State.winRefuse (s : State) (e o : Nat) : Nat × State :=
  match s.winOwner e o with
  | some w => (16 * e + w, s.rsat (.gsWinRefused e w) 32 1)
  | none => (0xFFFFFFFF, s.rinc (.gsNowinRefused e) 64 1)

/-! ### Translation (R270 to R274) -/

/-- The set of an entry (R270). -/
def pmtSet (p vpn ctx : Nat) : Nat :=
  ((vpn % 2 ^ 14) ^^^ (bits vpn 27 14) ^^^ (bits vpn 31 28) ^^^ (ctx % 4096 * 4) ^^^ (p * 2 ^ 13)) % 2 ^ 14

/-- The way of the entry of class `p` that maps a page in a context, as an index. -/
def State.pmtFind (s : State) (p ctx vpn : Nat) : Option Nat :=
  let base := pmtSet p vpn ctx * 8
  (List.range 8).findSome? fun w =>
    match mfind s.pmt (base + w) with
    | some e => if e.size = (p == 1) ∧ e.ctx = ctx ∧ e.vpn = (if p = 1 then vpn * 32 else vpn) then some (base + w) else none
    | none => none

/-- Context number that entries carry: zero in tagged mode (R271). -/
def State.pmtCtx (s : State) (ctx : Nat) : Nat := if s.rget .cpqInit = 2 then 0 else ctx

/-- The index of the entry that translates an address, of either class. -/
def State.pmtEntry (s : State) (ctx va : Nat) : Option Nat :=
  match s.pmtFind 1 (s.pmtCtx ctx) (va / 2 ^ 21 % 2 ^ 27) with
  | some i => some i
  | none => s.pmtFind 0 (s.pmtCtx ctx) (va / 2 ^ 16 % 2 ^ 32)

/-- A failed access: status, sub-code, and the address or window it reports. -/
structure AccErr where
  st  : Nat
  sub : Nat
  det : Nat
deriving DecidableEq, Repr

/-- Translation of one address (R274). -/
def State.xlat (s : State) (ctx va : Nat) (wr : Bool) : Except AccErr Nat :=
  match s.pmtEntry ctx va with
  | none => .error ⟨0x20, 1, va % 2 ^ 32⟩
  | some i =>
    match mfind s.pmt i with
    | none => .error ⟨0x20, 1, va % 2 ^ 32⟩
    | some e =>
      if (if wr then e.wr else e.rd) then
        .ok (e.ppn * 65536 + va % (if e.size then 2 ^ 21 else 2 ^ 16))
      else .error ⟨0x20, 2, va % 2 ^ 32⟩

/-- A virtual range cut at 64 KiB boundaries: physical start and length of each piece. A missing mapping reports the first byte
of the first piece that has none (DESIGN CHOICE, log entry 89). -/
def State.pieces (s : State) (ctx : Nat) (wr : Bool) : Nat → Nat → Nat → Except AccErr (List (Nat × Nat))
  | 0, _, _ => .ok []
  | k + 1, va, n =>
    if n = 0 then .ok []
    else
      let m := min n (65536 - va % 65536)
      match s.xlat ctx va wr with
      | .error e => .error e
      | .ok pa =>
        match s.pieces ctx wr k (va + m) (n - m) with
        | .error e => .error e
        | .ok t => .ok ((pa, m) :: t)

/-- Translation of `n` bytes from `va` up. -/
def State.xlatRange (s : State) (ctx va n : Nat) (wr : Bool) : Except AccErr (List (Nat × Nat)) :=
  s.pieces ctx wr (n / 65536 + 2) va n

/-- How a read of host memory fails (R274): without a link it times out, and a marked word is completed with an error. -/
def State.hostFailure (s : State) (a n : Nat) : Option Nat :=
  if s.pcie.width = 0 then some 4
  else (eccWords a n).findSome? fun w => mfind s.ecc w

/-- A failed host read as configuration space reports it (R280): Received Master Abort and Received Target Abort of the Status
register, Poisoned TLP and Completion Timeout of the AER uncorrectable error status, with a non-fatal error detected
(PRESUMED, log entry 74). -/
def State.hostReport (s : State) (kind : Nat) : State :=
  match kind with
  | 1 => s.cfgSet 0x01 0x20000000
  | 2 => s.cfgSet 0x01 0x10000000
  | 3 => (s.cfgSet 0x41 0x1000).cfgSet 0x1E 0x20000
  | _ => (s.cfgSet 0x41 0x4000).cfgSet 0x1E 0x20000

/-- The check that follows translation for one piece of an access (R190, R201, R274, R407): region descriptors, then the
slice's windows, of which one must hold every byte `all` of the access that lies in the slice. In SLICE_OFF every access is
refused; a read of host memory is refused as the host completes it. The detail of an ST_UNMAPPED is `pos`, the piece's place in
the access. -/
def State.pieceCheck (s : State) (w : World) (bypass wr : Bool) (all : List (Nat × Nat)) (pos : Nat) (p : Nat × Nat) :
    Option AccErr × State :=
  if !s.reachable p.1 then (some ⟨0x20, 1, pos⟩, s)
  else if !s.regionAdmits w wr p.1 p.2 then (some ⟨0x20, 4, pos⟩, s)
  else
    match regionOf p.1 with
    | .slice e o =>
      if (s.eng e).idle != .sliceOff && (bypass || s.winAdmits e (sliceBytes e all) wr) then (none, s)
      else
        let r := s.winRefuse e o
        (some ⟨0x30, 0, r.1⟩, r.2)
    | .host _ =>
      if wr then (none, s)
      else
        match s.hostFailure p.1 p.2 with
        | some k => (some ⟨0x20, 3, pos⟩, s.hostReport k)
        | none => (none, s)
    | _ => (none, s)

/-- The first of the remaining pieces of an access that is refused; the first stands at byte `pos` of the access. -/
def State.checkFrom (s : State) (w : World) (bypass wr : Bool) (all : List (Nat × Nat)) :
    Nat → List (Nat × Nat) → Option AccErr × State
  | _, [] => (none, s)
  | pos, p :: t =>
    match s.pieceCheck w bypass wr all pos p with
    | (some e, s) => (some e, s)
    | (none, s) => s.checkFrom w bypass wr all (pos + p.2) t

/-- The check of a whole access: the first piece that is refused. -/
def State.piecesCheck (s : State) (w : World) (bypass wr : Bool) (ps : List (Nat × Nat)) : Option AccErr × State :=
  s.checkFrom w bypass wr ps 0 ps

/-- A refusal of `piecesCheck` as an access from address `va` up reports it: an ST_UNMAPPED gives the low 32 bits of the address
of the refused piece (Table 4.6). -/
def AccErr.from (a : AccErr) (va : Nat) : AccErr := if a.st = 0x20 then { a with det := (va + a.det) % 2 ^ 32 } else a

/-- Reads of pieces in order. -/
def State.readPieces (s : State) (src : Nat) : List (Nat × Nat) → Option (List Byte) × State
  | [] => (some [], s)
  | p :: t =>
    match s.pread src p.1 p.2 with
    | (none, s) => (none, s)
    | (some bs, s) =>
      match s.readPieces src t with
      | (none, s) => (none, s)
      | (some r, s) => (some (bs ++ r), s)

/-- Writes of pieces in order; false when a word reported an uncorrectable error. -/
def State.writePieces (s : State) (src : Nat) : List (Nat × Nat) → List Byte → Bool × State
  | [], _ => (true, s)
  | p :: t, bs =>
    let r := s.pwrite src p.1 (bs.take p.2)
    let q := r.2.writePieces src t (bs.drop p.2)
    (r.1 && q.1, q.2)

/-- A read through a context's virtual space (R130, R190, R274, R407). -/
def State.vread (s : State) (w : World) (ctx va n : Nat) : Except AccErr (List Byte) × State :=
  match s.xlatRange ctx va n false with
  | .error e => (.error e, s)
  | .ok ps =>
    match s.piecesCheck w false false ps with
    | (some e, s) => (.error (e.from va), s)
    | (none, s) =>
      match s.readPieces 1 ps with
      | (none, s) => (.error ⟨0x70, 0, va % 2 ^ 32⟩, s)
      | (some bs, s) => (.ok bs, s)

/-- A write through a context's virtual space. A refused write touches no byte. -/
def State.vwrite (s : State) (w : World) (ctx va : Nat) (bs : List Byte) : Option AccErr × State :=
  match s.xlatRange ctx va bs.length true with
  | .error e => (some e, s)
  | .ok ps =>
    match s.piecesCheck w false true ps with
    | (some e, s) => (some (e.from va), s)
    | (none, s) =>
      let r := s.writePieces 1 ps bs
      (if r.1 then none else some ⟨0x70, 0, va % 2 ^ 32⟩, r.2)

end Sys2Proof.Machine
end

