-- ==== Sys2Proof/Machine/Slc.lean ====
section
/-! DEFINITION. The way of a request into a DDR5 channel: origin, class and priority (R21, R211, R212), bank queues and channel
input (R317), and the SLC's stream trackers with their prefetches (R231, R232). -/

namespace Sys2Proof.Machine

open Sys2Proof

/-! ### Origin and priority (R21, R211) -/

/-- Priority of a descriptor, by its bytes (Table 9.1). -/
def descPrio (b : List Byte) : Nat := fieldAt b 2 1 % 8

/-- The run of a list that a consumer executes. -/
def State.listOf (s : State) : Consumer → Option ListRun
  | .sdma c => (mget (fun _ => ({} : Sdma)) s.sdmas c.val).cur
  | .fetch e q => (mget (fun _ => ({} : FetchQ)) (s.eng e.val).fqs q.val).run

/-- Whether a fetch entry has a read in flight that touches the line at `a`. -/
def State.entReads (s : State) (ctx a : Nat) (x : FqEnt) : Bool :=
  x.src.any fun r => match s.xlatRange ctx r.1 r.2 false with
    | .ok ps => ps.any fun p => decide (p.1 < a + 128 ∧ a < p.1 + p.2)
    | .error _ => false

/-- PRIO of the descriptor whose transfer a consumer performs: the one at the head of an SDMA channel's list; that of the
entry of a fetch queue for which the line at `a` is read. -/
def State.streamPrio (s : State) (a : Nat) : Consumer → Nat
  | .sdma c =>
    match (s.listOf (.sdma c)).map (·.buf) with
    | some (b :: _) => descPrio b
    | _ => 0
  | .fetch e q =>
    match (mget (fun _ => ({} : FetchQ)) (s.eng e.val).fqs q.val).ents.find? fun x =>
        x.st == .filling && s.entReads ((s.eng e.val).task.elim 0 (·.ctx)) a x with
    | some x => x.prio
    | none => 0

/-- Priority of bulk traffic for the line at `a` (Table 9.3). -/
def State.originPrio (s : State) (a : Nat) : DdrOrigin → Nat
  | .realTime => 7
  | .stream k => s.streamPrio a k
  | .burst k => ((s.listOf k).bind (·.first)).getD 6
  | .engine e => match (s.eng e.val).task with
    | some t => t.prio % 8
    | none => 0
  | .cp => 6
  | .cores => 5
  | .pcie => 4

/-- Source port at the Stretcher (Table 1.5): the engines 0 to 5, SDMA 6, the PCIe endpoint 7, the HC cluster 8, the command
processors 9. -/
def originPort : DdrOrigin → Nat
  | .realTime => 11
  | .stream (.sdma _) | .burst (.sdma _) => 6
  | .stream (.fetch e _) | .burst (.fetch e _) | .engine e => e.val
  | .cp => 9
  | .cores => 8
  | .pcie => 7

/-- Source port of a request; the SLC and the controller themselves are 10. -/
def DdrWho.port : DdrWho → Nat
  | .demand o => originPort o
  | _ => 10

/-! ### Bank queues and channel input (R212, R317) -/

/-- Banks per group, and bank queues of a channel. -/
def State.bankCount (s : State) : Nat := if s.ddr.density = 8 then 2 else 4
def State.queueCount (s : State) : Nat := (if s.ddr.ranks = 2 then 2 else 1) * 8 * s.bankCount

/-- Bank queue of a location, in bank order: rank, bank group, bank. -/
def State.bankOf (s : State) (l : DdrLoc) : Nat := (l.rank * 8 + l.bg) * s.bankCount + l.ba

/-- Offset of an address in DDR5. -/
def ddrOff (a : Nat) : Nat := a - ddrBase

def State.reqBank (s : State) (r : DdrReq) : Nat := s.bankOf (s.ddrLoc (ddrOff r.addr))
def State.reqRow (s : State) (r : DdrReq) : Nat := (s.ddrLoc (ddrOff r.addr)).row
def Dmc.queue (x : Dmc) (b : Nat) : List DdrReq := mget (fun _ => []) x.queues b

/-- MCLK in units of 0.1 GHz (Table 13.2). -/
def State.mclk (s : State) : Nat := if s.ddr.speed = 0 then 12 else if s.ddr.speed = 1 then 14 else 16

/-- Effective priority at the channel input (R212): a request that has waited 1,024 FABCLK cycles takes 7. FABCLK is 1.4 GHz;
`wait` counts MCLK cycles. -/
def State.inputPrio (s : State) (r : DdrReq) : Nat := if 1024 * s.mclk ≤ r.wait * 14 then 7 else r.prio

/-- How far a source port is behind the one served last, in the round of the eleven bulk ports. -/
def portRank (rr port : Nat) : Nat := (port + 11 - (rr + 1) % 11) % 11

/-- The request that a bulk arbitration point serves next (R212): highest effective priority, then round robin by source
port, then the oldest. -/
def State.pickInput (s : State) (rr : Nat) : List DdrReq → Option DdrReq
  | [] => none
  | r :: t =>
    match s.pickInput rr t with
    | none => some r
    | some q =>
      let k (x : DdrReq) : Nat × Nat × Nat := (7 - s.inputPrio x, portRank rr x.who.port, x.order)
      let a := k r
      let b := k q
      if a.1 < b.1 ∨ (a.1 = b.1 ∧ (a.2.1 < b.2.1 ∨ (a.2.1 = b.2.1 ∧ a.2.2 < b.2.2))) then some r else some q

/-- A request into its bank queue, or to the channel input while that is full. -/
def State.bulkIn (s : State) (x : Dmc) (r : DdrReq) : Dmc :=
  let b := s.reqBank r
  let r := { r with wait := 0 }
  if (x.queue b).length < 16 then { x with queues := minsert b (x.queue b ++ [r]) x.queues }
  else { x with input := x.input ++ [r] }

/-- A place has become free: the request that R212 names among those whose bank queue has room leaves the channel input, with the
effective priority it has there (R317). -/
def State.letIn (s : State) (x : Dmc) : Dmc :=
  match s.pickInput x.rr (x.input.filter fun q => decide ((x.queue (s.reqBank q)).length < 16)) with
  | some q => s.bulkIn { x with rr := q.who.port, input := x.input.filter fun z => z.order ≠ q.order } { q with prio := s.inputPrio q }
  | none => x

/-- All entries of the bank queues. -/
def Dmc.entries (x : Dmc) : List DdrReq := x.queues.flatMap (·.2)

/-- Whether a channel reports pressure (R319). -/
def Dmc.pressure (x : Dmc) : Bool := x.panic || decide (768 ≤ x.entries.length)

/-- A bulk request of the SLC or of the controller itself, of priority 0. A FAILED channel fails it (R326). -/
def State.askBulk (s : State) (a : Nat) (wr : Option (List Byte)) (who : DdrWho) : State :=
  let ch := s.ddrChannel (ddrOff a)
  let x := s.dmc ch
  if x.state = 3 then s.chanFailure ch
  else s.setDmc ch (s.bulkIn { x with order := x.order + 1 } ⟨a, wr, false, 0, x.order, 0, who⟩)

/-- Every request that a channel holds. -/
def Dmc.requests (x : Dmc) : List DdrReq := x.entries ++ x.input ++ x.ingest ++ x.reads

/-! ### Stream trackers (R231, R232) -/

/-- Whether a stride can train a tracker. -/
def strideOk (d : Int) : Bool := d % 128 == 0 && decide (128 ≤ d.natAbs ∧ d.natAbs ≤ 4096)

/-- A prefetch of one address (R231): dropped and counted where it is unbacked or its channel reports pressure; nothing for a
line that is held or asked for; else a read of priority 0 enters the channel. -/
def State.prefetchOne (s : State) (a : Nat) : State :=
  let x := s.dmc (s.ddrChannel (ddrOff a))
  if !s.backed a || x.pressure then s.rinc (.gsPf 2) 64 1
  else if (s.slcSlot (a / 128)).isSome || x.requests.any (fun r => r.addr == a && r.wr.isNone) then s
  else (s.askBulk a none .prefetch).rinc (.gsPf 0) 64 1

/-- Prefetches of a trained tracker: up to DEPTH lines ahead along the stride, none across a 64 KiB boundary. -/
def State.prefetchAhead (s : State) (a : Nat) (d : Int) : Nat → State
  | 0 => s
  | n + 1 =>
    let b := (a : Int) + d
    if 0 ≤ b ∧ b.toNat / 65536 = a / 65536 then (s.prefetchOne b.toNat).prefetchAhead b.toNat d n else s

/-- The tracker that a miss at `a` matches: one whose stride it continues, or an untrained one it can give a stride. -/
def matchTracker (a : Nat) (t : Tracker) : Bool :=
  let d : Int := (a : Int) - t.last
  if 2 ≤ t.count then d == t.stride else strideOk d

/-- A tracker after a further miss: three misses at one stride train it. -/
def Tracker.miss (t : Tracker) (a : Nat) : Tracker :=
  let d : Int := (a : Int) - t.last
  { t with last := a, stride := d, count := if t.count ≠ 1 ∧ d = t.stride then min 3 (t.count + 1) else 2 }

/-- A demand miss among the trackers, most recently used first: a match moves to the front, else the least recently used
is replaced. The answer is the tracker in front. -/
def State.trackMiss (s : State) (a : Nat) : Tracker × State :=
  match s.slc.trackers.find? (matchTracker a) with
  | some t =>
    let u := t.miss a
    (u, { s with slc := { s.slc with trackers := u :: s.slc.trackers.filter (· ≠ t) } })
  | none =>
    let u : Tracker := ⟨a, 0, 1, 0⟩
    (u, { s with slc := { s.slc with trackers := (u :: s.slc.trackers).take 64 } })

/-- The trackers at a demand read of the line at `a` by a unit that trains them: a miss allocates or trains one, and a trained
one keeps DEPTH lines asked for ahead. -/
def State.demandLine (s : State) (a : Nat) : State :=
  if s.fget .gsPfCtl 0 0 = 0 then s
  else
    match s.slcSlot (a / 128) with
    | some _ =>
      match s.slc.trackers.find? fun t => t.count == 3 && decide ((a : Int) - t.last = t.stride) with
      | some t =>
        ({ s with slc := { s.slc with trackers := t.miss a :: s.slc.trackers.filter (· ≠ t) } } : State).prefetchAhead a
          t.stride (s.fget .gsPfCtl 14 8)
      | none => s
    | none =>
      let p := s.trackMiss a
      if p.1.count = 3 then p.2.prefetchAhead a p.1.stride (s.fget .gsPfCtl 14 8) else p.2

/-- The trackers at demand reads of the lines of these pieces. -/
def State.train (s : State) (ps : List (Nat × Nat)) : State :=
  (ps.filter fun p => inDdr p.1).foldl (fun t p => (lineUnits p.1 p.2).foldl (fun u l => u.demandLine (l * 128)) t) s

/-- A write of GS_PF_CTL with EN 0 frees every tracker (Table 9.17). -/
def State.freeTrackers (s : State) : State :=
  if s.fget .gsPfCtl 0 0 = 0 then { s with slc := { s.slc with trackers := [] } } else s

/-- A read through a context's virtual space by a unit that trains the trackers (R231). -/
def State.vreadTrain (s : State) (w : World) (ctx va n : Nat) : Except AccErr (List Byte) × State :=
  match s.xlatRange ctx va n false with
  | .error e => (.error e, s)
  | .ok ps =>
    match s.piecesCheck w false false ps with
    | (some e, s) => (.error (e.from va), s)
    | (none, s) =>
      match (s.train ps).readPieces 1 ps with
      | (none, s) => (.error ⟨0x70, 0, va % 2 ^ 32⟩, s)
      | (some bs, s) => (.ok bs, s)

/-! ### Host memory (R258, R274) -/

/-- A host memory read by a command processor (R258, R274); none where it fails, with that reported. In standalone mode host
memory is DDR5 (R283): the region descriptors apply (R407), and the read trains the trackers (R231). -/
def State.hostRead (s : State) (a n : Nat) : Option (List Byte) × State :=
  if !s.hostOk a n then (none, s)
  else if s.standalone then
    if s.regionAdmits .gallery false a n then (s.train [(a, n)]).pread 1 a n else (none, s)
  else
    match s.hostFailure (hostBase + a) n with
    | some k => (none, s.hostReport k)
    | none => (some (s.bytes (hostBase + a) n), s)

/-- A host memory write by the device; nothing is written where no target exists, or where a region descriptor refuses it. -/
def State.hostWrite (s : State) (a : Nat) (bs : List Byte) : State :=
  if s.hostOk a bs.length && (!s.standalone || s.regionAdmits .gallery true a bs.length) then (s.pwrite 1 (s.hostPa a) bs).2
  else s

/-- SLC_STREAM_PREFETCH (R231): a demand read of one DDR5 line by a unit that trains trackers; `nopf` says that its
descriptor has NOPF set. -/
def execSlcStreamPrefetch (addr : Pa) (nopf : Bool) (s : State) : Host.Outcome State Fault Refusal :=
  .next <|
    let a := addr.toNat / 128 * 128
    if inDdr a && s.backed a then ((if nopf then s else s.demandLine a).pread 1 a 128).2 else s

end Sys2Proof.Machine
end

