-- ==== Sys2Proof/Machine/Base.lean ====
section
/-! DEFINITION. Operations that several families share: status codes, the end of an engine command (R95, R107), the
cancellation of fetch queues (R222), and the commit of a command's record (R267, R268). -/

namespace Sys2Proof.Machine

open Sys2Proof

/-! ### Status codes (Table 0.6) -/

def stOk : Nat := 0x0000
def stPartial : Nat := 0x0001
def stAborted : Nat := 0x0002
def stAlreadyDone : Nat := 0x0003
def stRejected : Nat := 0x0010
def stUnmapped : Nat := 0x0020
def stPinned : Nat := 0x0021
def stBound : Nat := 0x0022
def stWindowClosed : Nat := 0x0030
def stHazard : Nat := 0x0040
def stWaitTimeout : Nat := 0x0050
def stDeadlock : Nat := 0x0051
def stBusyPending : Nat := 0x0060
def stEccUncorr : Nat := 0x0070
def stNvHeld : Nat := 0x0080
def stFatal : Nat := 0x00F0

/-- Slot numbers of NE_FAULT_INFO (Table 4.15). -/
def slotNo : Slot → Nat
  | .c => 0 | .a => 1 | .m => 2 | .v => 3

/-- Rank of a status in Table 4.6; the lowest reports (R108). -/
def faultRank (st : Nat) : Nat :=
  if st = stEccUncorr then 0
  else if st = stHazard then 1
  else if st = stBound then 2
  else if st = stUnmapped then 3
  else if st = stRejected then 4
  else if st = stWindowClosed then 5
  else 6

/-- The fault reported of two detected together (R108): the one highest in Table 4.6, then the lowest slot. -/
def pickFault (a b : FaultRec) : FaultRec :=
  if faultRank b.status < faultRank a.status ∨ (faultRank b.status = faultRank a.status ∧ b.slot < a.slot) then b else a

/-- A fault found after issue, to be taken at the next bundle boundary (R107). -/
def Engine.setLate (x : Engine) (f : FaultRec) : Engine :=
  { x with late := some (match x.late with
      | none => f
      | some g => pickFault g f) }

/-- A further fault of a command that has faulted in this cycle reports instead if it ranks higher (R108). -/
def Engine.rerank (x : Engine) (f : FaultRec) : Engine :=
  let g := pickFault x.endRec f
  { x with
    flt := g, endRec := g,
    hmon := if g.status = stHazard ∧ x.endRec.status ≠ stHazard then (x.hmon + 1) % 2 ^ 64 else x.hmon }

/-! ### Register accesses (R404, R405, R282) -/

/-- The registers of Studio blocks that are readable from both worlds (R405). -/
def bothRead (off : Nat) : Bool :=
  [Reg.sysctlId.addr, Reg.sysctlStrap.addr, Reg.secStatus.addr].contains (off / 4 * 4) ||
  [Reg.pmcFuseNmin.addr, Reg.pmcFuseVtrim.addr].contains (off / 8 * 8) ||
  decide (0x300800 ≤ off ∧ off < 0x300900) || decide (0x300A00 ≤ off ∧ off < 0x300A40)

/-- Whether the register at an offset is a Studio register: the block's world (R404), the PMC's split (R402), the mailbox
channels' worlds, of which MBS0 to MBS7 are channels 16 to 23 (Table 1.4, R300), and GS_ECC_INJ (R205). -/
def State.studioReg (s : State) (off : Nat) : Bool :=
  if off / 0x100000 = 2 then decide (off % 0x100000 < 0x80000)
  else if off / 0x100000 = 4 then decide (0x410000 ≤ off ∧ off < 0x418000)
  else s.rget .secBlkworld / 2 ^ (off / 0x100000) % 2 == 1 || off / 4 * 4 == Reg.gsEccInj.addr

/-- Whether a register admits an access of a world (R404, R405). -/
def State.regOpen (s : State) (w : World) (off : Nat) (wr : Bool) : Bool :=
  w == .studio || !s.studioReg off || (!wr && bothRead off)

/-- A refused register access is counted, and recorded where SEC_VLOG holds no valid entry (R405). -/
def State.violation (s : State) (off : Nat) (wr : Bool) : State :=
  let s := s.rinc .secViol 64 1
  if s.fget .secVlog 63 63 = 1 then s
  else
    s.rset .secVlog (2 ^ 63 + off / 0x100000 % 128 * 2 ^ 56 + (if wr then 2 ^ 55 else 0) + off % 0x100000)

/-- Block indices of CPQ, PMT and PCIE, whose registers wait for READY (R282) (DESIGN CHOICE, log entry 27). -/
def waitsReady (blk : Nat) : Bool := blk == 6 || blk == 7 || blk == 8

/-- A register access of a world at an offset, with the effect `f` where it is admitted. -/
def State.regOp (s : State) (w : World) (off : Nat) (wr : Bool) (f : State → State) : State :=
  if !s.regOpen w off wr then s.violation off wr
  else if waitsReady (off / 0x100000) ∧ s.ready = false ∧ off ≠ Reg.cpqReady.addr then s
  else f s

/-! ### Application cores (R451) -/

/-- HCk is released in machine mode at 0x040_0000_0000, or is reset and held; a core in reset waits for no interrupt. -/
def State.coreHold (s : State) (k : Nat) (hold : Bool) : State :=
  let was := s.fget .hclRst k k
  if hold then { (s.fset .hclRst k k 1).fset .hclStat k k 0 with cores := merase k s.cores }
  else if was = 1 then { s.fset .hclRst k k 0 with cores := minsert k {} s.cores } else s

/-- The eight HOLD bits of HCL_RST take a value. -/
def State.coresHold (s : State) (v : Nat) : State :=
  (List.range 8).foldl (fun t k => t.coreHold k (v / 2 ^ k % 2 == 1)) s

/-- Whether an application core can issue an access: one is released, PD_HC is on and HCCLK runs (R388, R394, R451). -/
def State.hcRunning (s : State) : Bool := s.pmc.pdHc && !s.tripped && s.fget .hclRst 7 0 != 0xFF

/-! ### Fetch queues: cancellation (R222) -/

/-- One entry under cancellation (Table 9.6): it becomes DROPPING while a read is in flight, else FREE. -/
def FqEnt.cancel (x : FqEnt) : Option FqEnt :=
  if x.st = .filling ∨ x.st = .dropping then
    if x.src.isEmpty then none else some { x with st := .dropping, todo := [] }
  else none

/-- Whether a queue has a credit (R219). -/
def FetchQ.credit (f : FetchQ) : Bool := decide (f.ents.length < f.entries)

/-- A FAILED entry that waits for a credit takes one that has been returned (R219, R221). -/
def FetchQ.settle (f : FetchQ) : FetchQ :=
  match f.late with
  | some x => if f.credit then { f with ents := f.ents ++ [x], granted := f.granted + 1, late := none } else f
  | none => f

/-- A cancelled queue, and the source bytes of the entries never popped. -/
def FetchQ.cancel (q : FetchQ) : FetchQ × Nat :=
  if q.state = 1 ∨ q.state = 2 ∨ q.state = 5 then
    let keep := q.ents.filterMap FqEnt.cancel
    ({ q with
        state := if keep.isEmpty then 4 else 3
        run := none
        late := none
        ents := keep
        ret := q.ret + (q.ents.length - keep.length)
        cur := none },
     (q.ents.map (·.nsrc)).sum)
  else (q, 0)

/-- Queue `q` of engine `e` cancelled; NE_FQ_DISCARD and the command's count grow alike. -/
def State.fqCancel (s : State) (e q : Nat) : State :=
  let x := s.eng e
  let r := (mget (fun _ => ({} : FetchQ)) x.fqs q).cancel
  if (mfind x.fqs q).isNone then s
  else
    let s := { s with waits := s.waits.filter fun w => !(match w.kind with
      | .desc (.fetch f k) => f.val == e && k.val == q
      | _ => false) }
    (s.setEng e { x with fqs := minsert q r.1 x.fqs, discard := x.discard + r.2 }).rinc (.fqDiscard e q) 64 r.2

/-- Every queue of an engine cancelled. -/
def State.fqCancelAll (s : State) (e : Nat) : State := (List.range 8).foldl (fun t q => t.fqCancel e q) s

/-! ### End of an engine command -/

/-- The engine that runs a task. -/
def State.engOfTask (s : State) (t : TaskId) : Option Nat :=
  (List.range 6).find? fun e => match (s.eng e).task with
    | some k => k.id == t
    | none => false

/-- The command stops: no later bundle issues, the Canvas performs no further load or pass, the fetch queues are
cancelled, a registered wait ends. Accepted writes and owed results still land (R95, R107). A fault is recorded in
NE_FAULT_STATUS, NE_FAULT_PC and NE_FAULT_INFO (R109) and a hazard counted (DESIGN CHOICE, log entry 8). A pass of the
Canvas that is under way at a fault stops where it stands (DESIGN CHOICE, log entry 64). -/
def State.engStop (s : State) (e : Nat) (rec : FaultRec) (isFault : Bool) : State :=
  let x := s.eng e
  let tid := x.task.map (·.id)
  let s := { s with waits := s.waits.filter fun w => !decide (w.kind = WaitKind.fwait ∧ w.task = tid) }
  let y : Engine := { x with
    run := .ending
    endHold := false
    ops := []
    cBusy := x.cyc
    late := none
    stop := false
    endCyc := x.cyc
    endRec := rec
    flt := if isFault then rec else x.flt
    faulted := isFault
    hmon := if rec.status = stHazard then (x.hmon + 1) % 2 ^ 64 else x.hmon }
  (s.setEng e y).fqCancelAll e

/-! ### Bundles -/

/-- ELAPSED (R173): cycles since the first bundle issued. -/
def Engine.elapsedNow (x : Engine) : Nat := if x.began then x.elapsed - x.before else 0

/-- A bundle of the command issues: the first starts ELAPSED (R173). -/
def Engine.start (x : Engine) : Engine := { x with began := true, before := if x.began then x.before else x.elapsed }

/-- The bundle of the present cycle begins to issue. Its first slot keeps the engine as it stands, for R104 and R107; the
first bundle of a command starts ELAPSED (R173), and a decision bundle stores its record (R174). -/
def State.openBundle (s : State) (e : Nat) : State :=
  let x := s.eng e
  if x.opened then s
  else
    let y : Engine := { x.start with
      opened := true
      regReads := []
      stores := x.stores ++ x.ctl.record.toList.map fun r => ⟨x.cyc, x.cyc + 6, x.ctl.pc, r.1, r.2⟩
      ctl := { x.ctl with record := none } }
    { s.setEng e y with snaps := minsert e { eng := x } s.snaps }

/-- A popped entry back at the head of its queue. -/
def Engine.unpop (x : Engine) (q : Nat) (ent : FqEnt) : Engine :=
  let f := mget (fun _ => ({} : FetchQ)) x.fqs q
  let g := { f with ents := ent :: f.ents, ret := f.ret - 1 }
  let g := if g.entries < g.ents.length then
      { g with ents := g.ents.dropLast, granted := g.granted - 1, late := g.ents.getLast? }
    else g
  { x with fqs := minsert q g x.fqs }

/-- What slots change, as it stood before them. -/
def Engine.restore (x y : Engine) : Engine :=
  { x with
    pend := y.pend, syncs := y.syncs, ops := y.ops, acm := y.acm, mons := y.mons, cBusy := y.cBusy, ctl := y.ctl
    began := y.began, before := y.before, reads := y.reads, run := y.run, endHold := y.endHold, phaseid := y.phaseid, phaseEnd := y.phaseEnd, held := y.held, stores := y.stores, posted := y.posted, empty := y.empty }

/-- The bundle's slots undone. -/
def State.undoBundle (s : State) (e : Nat) : State :=
  match mfind s.snaps e with
  | none => s
  | some p =>
    let x := (s.eng e).restore p.eng
    let s : State := { s.setEng e (match p.pop with
      | some (q, ent) => x.unpop q ent
      | none => x) with snaps := minsert e { p with pop := none } s.snaps }
    match p.ring with
    | some (r, x) => { s with rings := minsert r x s.rings }
    | none => s

/-- A fault at issue: the bundle takes no effect in any slot and the command ends (R104, R107). -/
def State.issueFault (s : State) (e : Nat) (slot : Slot) (a : AccErr) : State :=
  let s := s.undoBundle e
  s.engStop e ⟨a.st, a.sub, (s.eng e).ctl.pc, slotNo slot, a.det⟩ true

/-- The ring a bundle acquires from, kept as it stood. -/
def State.keepRing (s : State) (e r : Nat) (x : Ring) : State :=
  match mfind s.snaps e with
  | some p => { s with snaps := minsert e { p with ring := some (r, x) } s.snaps }
  | none => s

/-! ### Records (R267, R268) -/

/-- A completion record under construction for a command. -/
def Cmd.record (c : Cmd) : Rec :=
  { key := c.seq, cq := c.cq, ctx := c.ctx, cmdId := fieldAt c.desc 8 4, seq := c.rseq, sq := c.sq, status := 0,
    irq := fieldAt c.desc 1 1 % 2 == 1, pins := c.pins }

/-- Device fence of a context-relative number (R286); none at or above COUNT. In tagged mode every tag uses the range
of context 0. -/
def State.fenceMap (s : State) (ctx f : Nat) : Option Nat :=
  let c := s.pmtCtx ctx
  if f < s.fget (.fenceCtxRangeR c) 49 32 then some (s.fget (.fenceCtxRangeR c) 16 0 + f) else none

/-- The SIGNAL entries of a command's sync list, by device fence, in list order (R265). -/
def State.cmdSignals (s : State) (c : Cmd) : List (Nat × Nat) :=
  (c.sync.filter fun e => e.kind == 1).filterMap fun e => (s.fenceMap c.ctx e.fence).map fun d => (d, e.val)

/-- The CQ of a submission queue. -/
def State.cqOf (s : State) (sq : Nat) : Nat := s.fget (.sqCfg sq) 25 16

/-- A command of the accepted ones. -/
def State.cmd? (s : State) (sq seq : Nat) : Option Cmd := s.cmds.find? fun c => c.sq == sq && c.seq == seq

/-- `s` with one accepted command changed. -/
def State.modCmd (s : State) (sq seq : Nat) (f : Cmd → Cmd) : State :=
  { s with cmds := s.cmds.map fun c => if c.sq = sq ∧ c.seq = seq then f c else c }

/-- The first failing status of a context since its creation (R257). -/
def State.ctxFault (s : State) (ctx st : Nat) : State :=
  if st = stOk ∨ st = stPartial ∨ st = stAborted ∨ s.fget (.ctxState ctx) 31 16 ≠ 0 then s
  else s.fset (.ctxState ctx) 31 16 st

/-- ABORT commands whose last target has committed: they commit with ST_OK, after their targets (R278). -/
def State.commitAborts (s : State) : State :=
  let ready (c : Cmd) : Bool := c.phase == .running && fieldAt c.desc 0 1 == 6 && c.targets.isEmpty
  let recs := (s.cmds.filter ready).map fun c =>
    if s.fatal then { c.record with status := stFatal }
    else
      { c.record with
        detail := if fieldAt c.desc 18 1 % 2 = 1 then c.naborted else 0, signals := s.cmdSignals c }
  { s with cmds := s.cmds.filter fun c => !ready c, commitQ := s.commitQ ++ recs }

/-- The record with which a command commits: after ST_FATAL has been reported, ST_FATAL (R281). SIGNAL entries go with the
record only on ST_OK. -/
def State.recordOf (s : State) (c : Cmd) (st sub : Nat) (f : Rec → Rec) : Rec :=
  if s.fatal then { c.record with status := stFatal }
  else f { c.record with status := st, sub := sub, signals := if st = stOk then s.cmdSignals c else [] }

/-- The command commits (R268, R278): its record joins the commit queue in commit order, its waits and declarations lapse,
and ABORTs that waited for it commit behind it. -/
def State.commit (s : State) (c : Cmd) (st sub : Nat) (f : Rec → Rec) : State :=
  let r := s.recordOf c st sub f
  ({ s.ctxFault c.ctx r.status with
    cmds := (s.cmds.filter fun d => !(d.sq == c.sq && d.seq == c.seq)).map fun d =>
      { d with targets := d.targets.filter (· ≠ (c.sq, c.seq)) }
    commitQ := s.commitQ ++ [r]
    waits := s.waits.filter fun w => !(match w.task with
      | some t => t.sq == c.sq && t.seq == c.seq
      | none => false) } : State).commitAborts

/-- ST_FATAL stops the device (R281): every accepted command that does not run yet commits with it at once; one that runs takes
it when it ends. -/
def State.fatalStop (s : State) : State :=
  let t := s.reportFatal
  (t.cmds.filter fun c => c.phase != .running).foldl (fun u c => u.commit c stFatal 0 id) t

end Sys2Proof.Machine
end

