-- ==== Sys2Proof/Machine/Budget.lean ====
section
/-! DEFINITION. The package cap (R378, R379, R389 to R391): operating points, learned needs, floors, and the allocation
procedure, which runs at the start and end of commands, at PHASE, and when a cap changes. -/

namespace Sys2Proof.Machine

open Sys2Proof

/-! ### Operating points (R379) -/

/-- Rail target before trim in millivolts, Table 16.1. -/
def railMv (n : Nat) : Nat :=
  if 64 ≤ n then 600 else if 45 ≤ n then 650 else if 36 ≤ n then 700 else if 32 ≤ n then 750 else if 29 ≤ n then 800 else 850

/-- Trimmed target of an engine's rail in millivolts. -/
def State.trimMv (s : State) (e n : Nat) : Nat :=
  let t := s.fuse.vtrim.getD e 0 % 64
  railMv n + 5 * (t % 32) - (if 32 ≤ t then 160 else 0)

def State.nmin (s : State) (e : Nat) : Nat := s.fuse.nmin.getD e 32
def State.reqN (s : State) (e : Nat) : Nat := s.fget (.pmcNePerf e) 6 0

/-! ### Needs (R390) -/

/-- A quotient in units of 0.25 W; whether a rest rounds up is open (DESIGN CHOICE, log entry 42), but a tie goes to even
(R40). -/
def powerDiv (n d : Nat) : Nat :=
  n / d + (if n % d = 0 then 0 else if 2 * (n % d) = d then n / d % 2 else Config.roundUp n d % 2)

/-- The key of the phase that runs on an engine. -/
def Engine.phaseKey (x : Engine) : Nat × Nat :=
  (match x.task with
   | some t => t.image
   | none => 0, x.phaseid)

/-- The learned need at N = 32 of a phase. -/
def State.learned (s : State) (k : Nat × Nat) : Nat :=
  match s.pmc.needs.find? fun p => p.1 == k.1 && p.2.1 == k.2 with
  | some p => p.2.2
  | none => s.fget .pmcPolicy 15 0

/-- The table with a phase's entry first, at most 2,048 entries. -/
def State.setNeed (s : State) (k : Nat × Nat) (l : Nat) : State :=
  { s with pmc := { s.pmc with
      needs := ((k.1, k.2, l) :: s.pmc.needs.filter fun p => !(p.1 == k.1 && p.2.1 == k.2)).take 2048 } }

/-- A phase begins: its entry, if it has one, is the most recently used. -/
def State.touchNeed (s : State) (k : Nat × Nat) : State :=
  if s.pmc.needs.any fun p => p.1 == k.1 && p.2.1 == k.2 then s.setNeed k (s.learned k) else s

/-- A phase of engine `e` ends, at a PHASE or at END. -/
def State.learnPhase (s : State) (e : Nat) (k : Nat × Nat) : State :=
  let l := s.learned k
  let s := s.setNeed k (max (s.eng e).peak (l - l / 16))
  s.modEng e fun x => { x with peak := 0 }

/-- need(n) of an engine's running phase. -/
def State.needAt (s : State) (e n : Nat) : Nat :=
  let v := s.trimMv e n
  powerDiv (s.learned (s.eng e).phaseKey * 32 * v * v * (16 + s.fget .pmcPolicy 19 16)) (n * 750 * 750 * 16)

/-- The floor of the command on an engine. -/
def State.floorOf (s : State) (e : Nat) : Nat := s.needAt e 112

/-- Temperature code of a sensor. -/
def State.temp (s : State) (n : Nat) : Nat := mget (fun _ => 0) s.pmc.temps n

/-- The fixed part F: leakage of the powered domains at their temperatures, PD_AON and PD_IO; at most 32 W. Domains 0 to 5
are PD_NEe, 6 to 11 PD_GSe, 12 PD_SOC, 13 PD_HC, 14 PD_MEDIA (DESIGN CHOICE, log entry 42). -/
def State.fixedPart (s : State) : Nat :=
  let ne := ((List.range 6).filter fun e => (s.eng e).idle != .retain && (s.eng e).idle != .sliceOff).map fun e =>
    Config.leakage e (s.temp e)
  let gs := ((List.range 6).filter fun e => (s.eng e).idle != .sliceOff).map fun e => Config.leakage (6 + e) (s.temp e)
  min 128 (ne.sum + gs.sum + Config.leakage 12 (s.temp 6) + (if s.pmc.pdHc then Config.leakage 13 (s.temp 8) else 0) +
    (if s.pmc.pdMedia then Config.leakage 14 (s.temp 10) else 0) + Config.fixedPower)

/-! ### Allocation (R389, R391) -/

/-- min(PMC_CAP, PMC_CAP_MAX, TLIMIT), which the effective cap follows. -/
def State.capTarget (s : State) : Nat := min (min (s.fget .pmcCap 15 0) (s.fget .pmcCapMax 15 0)) s.pmc.tlimit

/-- Engines whose command holds a floor. -/
def State.holders (s : State) : List Nat := (List.range 6).filter fun e => (s.eng e).task.isSome && (s.eng e).floorHeld

/-- Priority class of the command on an engine, 0 to 7. -/
def State.classOf (s : State) (e : Nat) : Nat :=
  match (s.eng e).task with
  | some t => min 7 t.prio
  | none => 0

/-- The engine whose floor is withdrawn first: lowest class, then highest number. -/
def State.victim (s : State) : List Nat → Option Nat
  | [] => none
  | e :: t =>
    match s.victim t with
    | none => some e
    | some f => if s.classOf e < s.classOf f then some e else some f

/-- Floors withdrawn while those held exceed `lim`. -/
def State.withdraw (s : State) (lim : Nat) : Nat → State
  | 0 => s
  | k + 1 =>
    if lim < (s.holders.map s.floorOf).sum then
      match s.victim s.holders with
      | some e => (s.modEng e fun x => { x with floorHeld := false }).withdraw lim k
      | none => s
    else s

/-- The largest operating point that fits, from divider `n` up. -/
def State.climb (s : State) (e fl avail : Nat) : Nat → Nat → Nat
  | 0, n => n
  | k + 1, n => if n < 112 ∧ avail < s.needAt e n - fl then s.climb e fl avail k (n + 1) else n

/-- One engine's turn in the procedure: what is left, and the grants (engine, divider, allocation). -/
def State.planOne (s : State) (p : Nat × List (Nat × Nat × Nat)) (e : Nat) : Nat × List (Nat × Nat × Nat) :=
  let fl := s.floorOf e
  let held := (s.eng e).floorHeld
  if !held && decide (p.1 < fl) then p
  else
    let avail := if held then p.1 else p.1 - fl
    let n := s.climb e fl avail 112 (min 112 (max (s.reqN e) (s.nmin e)))
    (avail - (s.needAt e n - fl), p.2 ++ [(e, n, s.needAt e n)])

/-- Engines with a command, by falling class, then rising number. -/
def State.planOrder (s : State) : List Nat :=
  (List.range 8).flatMap fun c => (List.range 6).filter fun e => (s.eng e).task.isSome && s.classOf e == 7 - c

/-- Whether an engine still counts at an old value: it runs at an operating point above its grant, or has not stopped
after its floor was withdrawn. -/
def Engine.falling (x : Engine) : Bool := x.fall.isSome || (!x.floorHeld && decide (0 < x.alloc))

/-- A grant whose allocation does not rise: at once where the divider stays, else counted at its old value until the clock
step has been made. -/
def Engine.lower (x : Engine) (n a : Nat) : Engine :=
  if n = x.curN then { x with grant := n, alloc := a, fall := none } else { x with grant := n, fall := some a }

/-- A grant whose allocation rises: an engine that waited for budget issues. -/
def Engine.raise (x : Engine) (n a : Nat) : Engine :=
  { x with grant := n, alloc := a, fall := none, floorHeld := true, run := if x.run = .budget then .issuing else x.run }

/-- Whether an allocation still stands above its new value. -/
def State.anyFalling (s : State) : Bool := (List.range 6).any fun e => (s.eng e).falling

/-- Grants applied: falls first; no allocation rises while a fall is under way. -/
def State.applyGrants (s : State) (gs : List (Nat × Nat × Nat)) : State :=
  let falls := gs.filter fun g => (s.eng g.1).floorHeld && decide (g.2.2 ≤ (s.eng g.1).alloc)
  let s := falls.foldl (fun t g => t.modEng g.1 fun x => x.lower g.2.1 g.2.2) s
  if s.anyFalling then s
  else
    (gs.filter fun g => !((s.eng g.1).floorHeld && decide (g.2.2 ≤ (s.eng g.1).alloc))).foldl
      (fun t g => t.modEng g.1 fun x => x.raise g.2.1 g.2.2) s

/-- The allocations of the real-time and the memory class: they fall at once, and rise only when no other is falling
(R391). -/
def State.classAlloc (s : State) (rt mem : Nat) : State :=
  { s with pmc := { s.pmc with
      allocRt := if s.anyFalling then min s.pmc.allocRt rt else rt
      allocMem := if s.anyFalling then min s.pmc.allocMem mem else mem } }

/-- `n` ENGCLK cycles of an engine have passed: in a droop as many pulses have been suppressed (R383). -/
def State.suppress (s : State) (e n : Nat) : State := if (s.eng e).droop then s.rinc (.pmcNeDroop e) 64 n else s

/-- The sum of allocations. -/
def State.allocSum (s : State) : Nat := ((List.range 6).map fun e => (s.eng e).alloc).sum + s.pmc.allocRt + s.pmc.allocMem

/-- The effective cap follows its target (R389). -/
def State.followCap (s : State) : State :=
  let t := s.capTarget
  if s.pmc.effcap ≤ t ∨ s.allocSum + s.fixedPart ≤ t then { s with pmc := { s.pmc with effcap := t } } else s

/-- The allocation procedure (R391). -/
def State.allocate (s : State) : State :=
  let p := s.capTarget
  let f := s.fixedPart
  let s := s.withdraw (p - f - s.fget .pmcRes 15 0 - s.fget .pmcRes 31 16) 6
  let avail := p - f - (s.holders.map s.floorOf).sum
  let rt := min avail (max s.pmc.demRt (s.fget .pmcRes 15 0))
  let mem := min (avail - rt) (max s.pmc.demMem (s.fget .pmcRes 31 16))
  let r := s.planOrder.foldl s.planOne (avail - rt - mem, [])
  let s : State := { s with pmc := { s.pmc with
    allocRt := min s.pmc.allocRt rt, allocMem := min s.pmc.allocMem mem, avail := r.1 } }
  ((s.applyGrants r.2).classAlloc rt mem).followCap

end Sys2Proof.Machine
end

