-- ==== Sys2Proof/Machine/CanvasOps.lean ====
section
/-! DEFINITION. The Canvas array apart from its issue checks: the sequence of loads and passes (R64 to R69, R78 to R82),
the operand reads (R74, R123, R124, R149 to R156), the column sums (R42 to R45) and the accumulation into ACM (R71, R75,
R79, R81). -/

namespace Sys2Proof.Machine

open Sys2Proof

/-! ### Shape of an instruction -/

/-- Accumulator of a pair, by the effective stationary format (Table 2.6). -/
def accOf (f : Format) : AccFmt :=
  match f with
  | .int4 | .int8 | .uint8 => .i32
  | .int16 => .i64
  | _ => .f32

/-- Two loads and four passes: INT16 and complex instructions (R70). -/
def CanvasOp.dbl (o : CanvasOp) : Bool := o.sfm == .int16 || o.cw.complex
def CanvasOp.loads (o : CanvasOp) : Nat := if o.cw.reuse then 0 else if o.dbl then 2 else 1
def CanvasOp.passes (o : CanvasOp) : Nat := if o.dbl then 4 else 1

/-- Whether two vectors enter per cycle (Table 3.1). -/
def CanvasOp.pairRate (o : CanvasOp) : Bool :=
  (o.sfm == .int4 && o.cw.xfmt == .int4) || o.cw.xfmt == .mxfp4

/-- Whether a vector takes two cycles. -/
def CanvasOp.halfRate (o : CanvasOp) : Bool := o.cw.xfmt == .fp16 || o.cw.xfmt == .bf16

/-- Streaming cycles of a pass (Table 3.1). -/
def CanvasOp.strm1 (o : CanvasOp) : Nat :=
  if o.pairRate then (o.m + 1) / 2 else if o.halfRate then 2 * o.m else o.m

def CanvasOp.fk (o : CanvasOp) : Nat := ceilDiv o.k 256
def CanvasOp.fn (o : CanvasOp) : Nat := ceilDiv o.n 256

/-- Cycles of one fold. -/
def CanvasOp.foldLen (o : CanvasOp) : Nat := o.loads * 256 + o.passes * o.strm1

/-- C-slot occupancy (R70). -/
def CanvasOp.occupancy (o : CanvasOp) : Nat := o.fn * o.fk * o.foldLen

/-- Live reduction rows of fold `i` and live columns of tile `j` (R68). -/
def CanvasOp.rowsOn (o : CanvasOp) (i : Nat) : Nat := min 256 (o.k - 256 * i)
def CanvasOp.colsOn (o : CanvasOp) (j : Nat) : Nat := min 256 (o.n - 256 * j)

/-- What a step of an instruction does. -/
inductive Phase where
  | load (half row : Nat)
  | stream (pass q : Nat)
deriving DecidableEq, Repr

/-- Tile, fold and work of step `t` (R68, Tables 3.5 and 3.6). -/
def CanvasOp.at (o : CanvasOp) (t : Nat) : Nat × Nat × Phase :=
  let idx := t / o.foldLen
  let r := t % o.foldLen
  let sc := o.strm1
  let ph : Phase :=
    if o.loads = 0 then .stream 0 r
    else if r < 256 then .load 0 r
    else if o.loads = 1 then .stream 0 (r - 256)
    else if r < 256 + 2 * sc then .stream ((r - 256) / sc) ((r - 256) % sc)
    else if r < 512 + 2 * sc then .load 1 (r - 256 - 2 * sc)
    else .stream (2 + (r - 512 - 2 * sc) / sc) ((r - 512 - 2 * sc) % sc)
  (idx / o.fk, idx % o.fk, ph)

/-- The vectors that streaming cycle `q` reads (R66). -/
def CanvasOp.vectors (o : CanvasOp) (q : Nat) : List Nat :=
  if o.pairRate then (if 2 * q + 1 < o.m then [2 * q, 2 * q + 1] else [2 * q])
  else if o.halfRate then (if q % 2 = 0 then [q / 2] else [])
  else [q]

/-- Cycles from the read of a vector to its entry (R66, R67). -/
def CanvasOp.lag (o : CanvasOp) : Nat := if o.halfRate then 1 else 0

/-- ACM rows of the footprint (R69, R79, R80, R81, R162); `win` holds SOH and SOW at 0x24 and 0x25. -/
def CanvasOp.wf (o : CanvasOp) (i : Nat) : Nat := o.win.getD i 0
def CanvasOp.footprint (o : CanvasOp) : Nat :=
  if o.cw.scat then o.wf 0x24 * o.wf 0x25
  else if o.cw.ring then o.ringl
  else if o.dbl then 2 * o.fn * o.m
  else o.fn * o.m

/-- Input position of streamed vector `v` (R153). -/
def CanvasOp.pos (o : CanvasOp) (v : Nat) : Nat := o.wf 0x17 * o.ow + o.wf 0x18 + v

/-- Whether vector `v` lies before the end of the output (R153). -/
def CanvasOp.inOut (o : CanvasOp) (v : Nat) : Bool := !o.cx.xwg || decide (o.pos v < o.oh * o.ow)

/-- The ACM rows that vector `v` of tile `j` accumulates into in pass `p`; none for a dropped scatter result. INT16
vectors write two rows (R79). A scatter result goes by its input pixel (R154, R161). -/
def CanvasOp.rowsOf (o : CanvasOp) (j p v : Nat) : List Nat :=
  let base := o.cx.acmb.toNat
  if o.cw.scat then
    let iy : Int := (o.pos v / o.ow * o.wf 0x0D : Nat) - (o.wf 0x11 : Int)
    let ix : Int := (o.pos v % o.ow * o.wf 0x0E : Nat) - (o.wf 0x13 : Int)
    let ty : Int := iy * o.wf 0x1A + (o.wf 0x20 * o.wf 0x1C : Nat) - (o.wf 0x1E : Int)
    let tx : Int := ix * o.wf 0x1B + (o.wf 0x21 * o.wf 0x1D : Nat) - (o.wf 0x1F : Int)
    let y := ty - o.wf 0x22
    let x := tx - o.wf 0x23
    if o.inOut v = true ∧ 0 ≤ y ∧ y < o.wf 0x24 ∧ 0 ≤ x ∧ x < o.wf 0x25 then
      [base + y.toNat * o.wf 0x25 + x.toNat]
    else []
  else if o.cw.ring then [base + v % o.ringl]
  else if o.sfm = .int16 then [base + 2 * (j * o.m + v), base + 2 * (j * o.m + v) + 1]
  else if o.cw.complex then
    [base + j * o.m + v + if p = 1 ∨ p = 2 then o.fn * o.m else 0]
  else [base + j * o.m + v]

/-- Shift of a pass (Table 3.5). -/
def passShift (o : CanvasOp) (p : Nat) : Nat :=
  if o.sfm = .int16 then (if p = 0 then 0 else if p = 3 then 16 else 8) else 0

/-- Last cycle, counted from issue, whose write accumulates into a row of the footprint (R105, R162); with K = 0 the rows
are readable from issue + 8 (Table 3.4). -/
def CanvasOp.lastWrite (o : CanvasOp) (row : Nat) : Nat :=
  if o.k = 0 then 7
  else if o.cw.scat ∨ o.cw.ring then o.steps + 262
  else
    let d := row - o.cx.acmb.toNat
    let u := if o.sfm = .int16 then d / 2 else if o.cw.complex then d % (o.fn * o.m) else d
    let j := u / o.m
    let v := u % o.m
    let p := if o.sfm = .int16 then 3 else if o.cw.complex then (if o.fn * o.m ≤ d then 2 else 3) else 0
    let q := if o.pairRate then v / 2 else if o.halfRate then 2 * v + 1 else v
    let off :=
      if o.loads = 0 then q
      else if o.loads = 1 then 256 + q
      else 512 + p * o.strm1 + q
    (j * o.fk + (o.fk - 1)) * o.foldLen + off + 263

/-- The cycles, counted from issue, in which the vectors of row `row` of the footprint enter, fold by fold and pass by pass
(R66 to R68, Tables 3.5 and 3.6); empty for a ring or a scatter, whose rows follow from its vectors. -/
def CanvasOp.entries (o : CanvasOp) (row : Nat) : List Nat :=
  if o.k = 0 ∨ o.cw.scat ∨ o.cw.ring then []
  else
    let d := row - o.cx.acmb.toNat
    let u := if o.sfm = .int16 then d / 2 else if o.cw.complex then d % (o.fn * o.m) else d
    let v := u % o.m
    let q := if o.pairRate then v / 2 else if o.halfRate then 2 * v + 1 else v
    let passes := if o.sfm = .int16 then [0, 1, 2, 3]
      else if o.cw.complex then (if o.fn * o.m ≤ d then [1, 2] else [0, 3]) else [0]
    (List.range o.fk).flatMap fun i => passes.map fun p =>
      (u / o.m * o.fk + i) * o.foldLen + q +
        (if o.loads = 0 then 0 else if o.loads = 1 then 256 else (if p < 2 then 256 else 512) + p * o.strm1)

/-- Whether a row is owed by an instruction at a cycle (R105). Ring-mode instructions owe no row
(DEDUCED, log entry 40). -/
def CanvasOp.owes (o : CanvasOp) (row cyc : Nat) : Bool :=
  !o.cw.ring && decide (o.cx.acmb.toNat ≤ row ∧ row < o.cx.acmb.toNat + o.footprint ∧
    cyc ≤ o.issue + o.lastWrite row)

/-! ### Operand reads -/

/-- `n` elements of `w` bits that start `bit` bits into a byte string (R34). -/
def elems (w n bit : Nat) (bs : List Byte) : List Nat :=
  let v := le bs >>> bit
  (List.range n).map fun i => (v >>> (i * w)) % 2 ^ w

/-- Elements and the ECC words of the slice that hold them. -/
abbrev Gathered := List Nat × List Nat

/-- A row of a dense plane: `n` elements of `w` bits from element `c` of row `r` (R124). -/
def denseRow (s : State) (p : Plane) (w r c n : Nat) : Gathered :=
  let a := p.start + r * p.pitch + c * w / 8
  let bit := c * w % 8
  let len := (bit + n * w + 7) / 8
  (elems w n bit (s.bytes a len), eccWords a len)

/-- Elements of 4, 8 or 16 bits, each at a byte address and nibble; where none is named, `pad`. -/
def scattered (s : State) (w pad : Nat) (l : List (Option (Nat × Nat))) : Gathered :=
  let len := (w + 7) / 8
  (l.map fun q => match q with
    | none => pad
    | some p => if w = 4 then s.field p.1 1 / 16 ^ p.2 % 16 else s.field p.1 len % 2 ^ w,
   (l.filterMap id).flatMap fun p => eccWords p.1 len)

/-- The words that the reads of one cycle touch, each decoded once (R194): the first that the region descriptors `l` refuse
(R407) or that holds an uncorrectable error. -/
def State.touch (s : State) (l : List (Nat × Nat × Bool × Bool)) : List Nat → Option Nat × State
  | [] => (none, s)
  | w :: t =>
    let r := if lineAdmits l .gallery false (w * 32) then s.eccRead 0 w else (false, s)
    let q := r.2.touch l t
    (if r.1 then q.1 else some w, q.2)

/-- The elements of some reads of one cycle, or the word found in error or refused. -/
def State.deliver {α : Type} (s : State) (v : α) (words : List Nat) : Except Nat α × State :=
  match s.touch s.regionList words.eraseDups with
  | (none, s) => (.ok v, s)
  | (some w, s) => (.error w, s)

/-- A plane of an operand by number; a missing plane reads as one at zero, which no well-formed instruction names. -/
def planeAt (l : List Plane) (i : Nat) : Plane := l.getD i ⟨0, 0⟩

/-- Where a window element lies: pixel and channel, or padding (R154, R155). -/
inductive WinEl where
  | pixel (y x c : Nat)
  | pad
deriving DecidableEq, Repr

/-- Element `k` of the window of vector `v` (R154, R155). -/
def CanvasOp.winEl (o : CanvasOp) (v k : Nat) : WinEl :=
  let cin := o.wf 0x07
  let kw := o.wf 0x0C
  let kh := o.wf 0x0B
  let c := k % cin
  let kx := k / cin % kw
  let ky := k / cin / kw % kh
  let g := k / cin / kw / kh
  let oy := o.pos v / o.ow
  let ox := o.pos v % o.ow
  let iy : Int := (oy * o.wf 0x0D + ky * o.wf 0x0F : Nat) - (o.wf 0x11 : Int)
  let ix : Int := (ox * o.wf 0x0E + kx * o.wf 0x10 : Nat) - (o.wf 0x13 : Int)
  let ih : Int := (o.wf 0x05 : Nat)
  let iw : Int := (o.wf 0x06 : Nat)
  let ch := o.wf 0x08 + g * cin + c
  if 0 ≤ iy ∧ iy < ih ∧ 0 ≤ ix ∧ ix < iw then .pixel iy.toNat ix.toNat ch
  else if o.wf 0x15 = 2 then .pixel (clampI 0 (ih - 1) iy).toNat (clampI 0 (iw - 1) ix).toNat ch
  else .pad

/-- Value of a padding element (Table 6.2). -/
def CanvasOp.padEl (o : CanvasOp) : Nat := if o.wf 0x15 = 1 then o.wf 0x16 % 2 ^ fmtBits o.cw.xfmt else 0
def CanvasOp.padScale (o : CanvasOp) : Nat := if o.wf 0x15 = 1 then o.wf 0x16 / 256 % 256 else 0x7F

/-- Where window element `k` of plane `pl` lies in memory (R149); none for padding. `pl` counts operand planes: for MXFP4 it
is an element plane. -/
def CanvasOp.elAt (o : CanvasOp) (pl v k : Nat) : Option (Nat × Nat) :=
  match o.winEl v k with
  | .pad => none
  | .pixel y x c =>
    some ((planeAt o.strm pl).start + y * o.wf 0x09 + x * o.wf 0x0A + c * fmtBits o.cw.xfmt / 8, c % 2)

/-- Where the scale byte of the block of window element `k` lies (R149, R457). -/
def CanvasOp.scaleAt (o : CanvasOp) (pl v k : Nat) : Option (Nat × Nat) :=
  match o.winEl v k with
  | .pad => none
  | .pixel y x c => some ((planeAt o.strm pl).start + y * (o.wf 0x09 / 16) + x * (o.wf 0x0A / 16) + c / 32, 0)

/-- A streaming vector: its live elements and, for MXFP4, the scale bytes of its blocks, all read in one cycle. -/
def CanvasOp.readVec (o : CanvasOp) (s : State) (im : Bool) (v i : Nat) : Except Nat (List Nat × List Nat) × State :=
  let n := if o.inOut v then o.rowsOn i else 0
  let mx := o.cw.xfmt == .mxfp4
  let pl := (if mx then 2 else 1) * if im then 1 else 0
  let w := fmtBits o.cw.xfmt
  let els : Gathered :=
    if n = 0 then ([], [])
    else if o.cx.xwg then scattered s w o.padEl ((List.range n).map fun r => o.elAt pl v (256 * i + r))
    else denseRow s (planeAt o.strm pl) w v (256 * i) n
  let nb := if mx then (n + 31) / 32 else 0
  let scs : Gathered :=
    if nb = 0 then ([], [])
    else if o.cx.xwg then scattered s 8 o.padScale ((List.range nb).map fun b => o.scaleAt (pl + 1) v (256 * i + 32 * b))
    else denseRow s (planeAt o.strm (pl + 1)) 8 v (8 * i) nb
  s.deliver (els.1, scs.1) (els.2 ++ scs.2)

/-- The palette selection of an instruction (R48, R82): the sub-bank counts only for CB4 in TILE mode. -/
def palSel (c : CmmWord) (x : CxWord) : Option (Nat × Nat × Bool) :=
  if c.sfmt.isCb then some (x.pslot.toNat, if c.sfmt = .cb4 ∧ c.psel = false then x.psub.toNat else 0, c.psel) else none

/-- A looked-up palette value of code `c` in column `n` (Table 2.8). -/
def palLookup (pal : SMap PalSlot) (x : CxWord) (group cb8 : Bool) (c n : Nat) : Nat :=
  let p := x.pslot.toNat
  let g := n / 16
  let slot := if group && cb8 then p + g else p
  let entry := if cb8 then c else if group then 16 * g + c else 16 * x.psub.toNat + c
  let t := mget (fun _ => ({} : PalSlot)) pal slot
  let v := (t.entries >>> (16 * entry)) % 65536
  if t.tag = 6 ∨ t.tag = 7 then v else v % 256

/-- Row `r` of a stationary tile, as codes of the effective format in the live columns; for INT16 the low or high byte.
A masked reduction row is empty (R74). -/
def CanvasOp.tileRow (o : CanvasOp) (pal : SMap PalSlot) (s : State) (half j i r : Nat) : Gathered :=
  let kk := 256 * i + r
  let cols := o.colsOn j
  if o.k ≤ kk then ([], [])
  else
    let im := if o.cw.complex then half else 0
    if o.cw.sfmt = .mxfp4 then
      let p := planeAt o.stat (2 * im)
      scattered s 4 0 ((List.range cols).map fun n => some (p.start + (256 * j + n) * p.pitch + kk / 2, kk % 2))
    else
      let l := denseRow s (planeAt o.stat im) (fmtBits o.cw.sfmt) kk (256 * j) cols
      if o.cw.sfmt.isCb then
        ((l.1.zip (List.range cols)).map fun p => palLookup pal o.cx o.cw.psel (o.cw.sfmt == .cb8) p.1 p.2, l.2)
      else if o.sfm = .int16 then (l.1.map fun v => if half = 0 then v % 256 else v / 256, l.2)
      else l

/-- The scale bytes of every live column of an MXFP4 tile, by block, which enter with reduction row 0 (R64):
`8 × columns` values. -/
def CanvasOp.tileScales (o : CanvasOp) (s : State) (half j i r : Nat) : Gathered :=
  if o.cw.sfmt = .mxfp4 ∧ r = 0 then
    let im := if o.cw.complex then half else 0
    let p := planeAt o.stat (2 * im + 1)
    let nb := (o.rowsOn i + 31) / 32
    scattered s 8 0 ((List.range (nb * o.colsOn j)).map fun u =>
      some (p.start + (256 * j + u % o.colsOn j) * p.pitch + (8 * i + u / o.colsOn j), 0))
  else ([], [])

/-! ### Column sums -/

/-- Exact integer sum of products. -/
def intSum (f g : Nat → Int) (xs ws : List Nat) : Int := ((xs.zip ws).map fun p => f p.1 * g p.2).sum

/-- FP32 sum of rounded products in increasing order of reduction row, from +0 (R44). -/
def fltSum (f g : Nat → FV) (xs ws : List Nat) : Nat :=
  (xs.zip ws).foldl (fun acc p => fadd acc (enc32 ((f p.1).mul (g p.2)))) 0

/-- The exact sum of one MXFP4 block pair under its scales, rounded once (R45). -/
def blockSum (xa xb : Nat) (xs ws : List Nat) : Nat :=
  if xa % 256 = 255 ∨ xb % 256 = 255 then 0x7FC00000
  else
    let v := (xs.zip ws).foldl (fun (acc : FV) p => acc.add ((Flt.e2m1.dec p.1).mul (Flt.e2m1.dec p.2)))
      (FV.fin false 0 0)
    match v with
    | .fin s m e => enc32 (.fin s m (e + ((xa % 256 + xb % 256 : Nat) : Int) - 254))
    | _ => 0x7FC00000

/-- Block sums of a column in increasing block order, from +0, each addition rounded (R45). -/
def mxSum : Nat → List Nat → List Nat → List Nat → List Nat → Nat
  | acc, xa :: ta, xb :: tb, xs, ws =>
    mxSum (fadd acc (blockSum xa xb (xs.take 32) (ws.take 32))) ta tb (xs.drop 32) (ws.drop 32)
  | acc, _, _, _, _ => acc

/-- The column sum of a pass over the live rows, as an integer or as an FP32 code. `ws` are the tile's values in the
column, `xs` the vector's. -/
def CanvasOp.colSum (o : CanvasOp) (p : Nat) (xs xsc ws wsc : List Nat) : Int :=
  match accOf o.sfm with
  | .i32 => intSum (elemInt (.fmt o.cw.xfmt)) (elemInt (.fmt o.sfm)) xs ws
  | .i64 =>
    let xh : Nat → Int := if p % 2 = 0 then fun x => ((x % 256 : Nat) : Int) else fun x => sx 8 (x / 256)
    let wh : Nat → Int := if p < 2 then fun w => (w : Int) else fun w => sx 8 w
    intSum xh wh xs ws * 2 ^ passShift o p
  | .f32 =>
    if o.sfm = .mxfp4 then (mxSum 0 xsc wsc xs ws : Nat)
    else (fltSum (elemVal (.fmt o.cw.xfmt)) (elemVal (.fmt o.sfm)) xs ws : Nat)

/-- Column `n` of the resident tile over its first `rows` reduction rows. -/
def Tile.col (t : Tile) (rows n : Nat) : List Nat :=
  (List.range rows).map fun r => (mget (fun _ => []) t.rows r).getD n 0

/-- Scale bytes of column `n`, by block. -/
def Tile.colScales (t : Tile) (cols blocks n : Nat) : List Nat :=
  (List.range blocks).map fun b => (mget (fun _ => []) t.scales 0).getD (b * cols + n) 0

/-! ### Accumulator memory -/

def Engine.acmRow (x : Engine) (r : Nat) : AcmRow := mget (fun _ => {}) x.acm r
def Engine.biasBuf (x : Engine) (b : Nat) : Nat := mget (fun _ => 0) x.bias b

/-- Entry `n` of a bias buffer, 32 bits. -/
def biasEntry (buf n : Nat) : Nat := (buf >>> (32 * n)) % 2 ^ 32

/-- The 256 columns of a row as it reads (R71, R72): a tagged row reads as its tag's value. -/
def Engine.rowData (x : Engine) (w : AcmRow) : Nat :=
  if w.tag = 0 then w.data
  else if w.tag = 1 then 0
  else
    let buf := x.biasBuf (w.tag - 4)
    if w.fmt = .i64 then
      pack 64 ((List.range 128).map fun p => lowBits 64 (sx 32 (biasEntry buf (128 * w.half + p))))
    else buf

/-- The ACC_SAT bits of a row as it reads (DEDUCED, log entry 59). -/
def AcmRow.satBits (w : AcmRow) : Nat := if w.tag = 0 then w.sat else 0

/-- Rows tagged BIAS b (R72, Table 3.10). -/
def Engine.biasCount (x : Engine) (b : Nat) : Nat := (x.acm.filter fun p => p.2.tag == 4 + b).length

/-- One integer accumulation with saturation (R43). -/
def accInt (w : Nat) (old : Nat) (sum : Int) : Nat × Bool :=
  let lo : Int := -(2 ^ (w - 1) : Nat)
  let hi : Int := (2 ^ (w - 1) : Nat) - 1
  let v := sx w old + sum
  (lowBits w (clampI lo hi v), decide (v < lo ∨ hi < v))

/-- The value and saturation of one entry after an accumulation; `keep` is false in later laps of a ring (R81). -/
def accumulate (f : AccFmt) (neg keep : Bool) (old : Nat) (sum : Int) : Nat × Bool :=
  match f with
  | .i32 => accInt 32 (if keep then old else 0) (if neg then -sum else sum)
  | .i64 => accInt 64 (if keep then old else 0) (if neg then -sum else sum)
  | .f32 =>
    let c := if neg then fneg sum.toNat else sum.toNat
    (if keep then fadd old c else c, false)

/-- A row after a write: enabled entries accumulate, the others keep their values; the tag becomes VALID (R71, R75). -/
def Engine.writeRow (x : Engine) (w : RowWrite) : AcmRow :=
  let r := x.acmRow w.row
  let wd := if w.pair then 64 else 32
  let n := if w.pair then 128 else 256
  let keep := !(w.ring && r.tag == 0)
  let old := unpack wd n (x.rowData { r with fmt := if r.tag = 0 then r.fmt else w.fmt })
  let sat := r.satBits
  let upd := (List.range n).map fun i =>
    let o := old.getD i 0
    let col := if w.pair then 2 * i else i
    let sb := sat / 2 ^ col % 2 == 1
    if w.mask / 2 ^ i % 2 = 1 then
      let a := accumulate w.fmt w.neg keep o (w.sums.getD i 0)
      (a.1, a.2 || (keep && sb))
    else (o, sb)
  { data := pack wd (upd.map (·.1))
    sat := pack (if w.pair then 2 else 1) (upd.map fun p => bit p.2)
    tag := 0
    undr := r.undr || w.ring
    fmt := w.fmt
    half := if w.pair then (w.row - w.base) % 2 else 0 }
where
  bit (b : Bool) : Nat := if b then 1 else 0

/-- An ACM write at the end of its cycle. In ring mode a row whose undrained bit is set is a hazard, and the write is not
performed (R81); the fault is that of the Canvas instruction that sent the row (R109). -/
def Engine.performRow (x : Engine) (w : RowWrite) : Engine :=
  if w.ring && (x.acmRow w.row).undr then
    x.setLate ⟨stHazard, 7, w.pc, 0, w.row⟩
  else { x with acm := minsert w.row (x.writeRow w) x.acm }

/-- The ACM writes due in the present cycle, in order. -/
def Engine.performRows (x : Engine) : Engine :=
  let due := x.rows.filter fun w => decide (w.due ≤ x.cyc)
  due.foldl Engine.performRow { x with rows := x.rows.filter fun w => !decide (w.due ≤ x.cyc) }

/-! ### One cycle of an instruction in progress -/

/-- The row writes of one vector: INT16 gives two rows of 128 pairs, others one row. -/
def CanvasOp.rowWrites (o : CanvasOp) (cyc j p v cols : Nat) (sums : List Int) : List RowWrite :=
  let colMask := (2 ^ cols - 1) &&& (o.mask % 2 ^ 256)
  let due := cyc + o.lag + 263
  let neg := o.cw.complex && p == 3
  ((o.rowsOf j p v).zip (List.range 2)).map fun q =>
    if o.sfm = .int16 then
      { due := due, row := q.1, fmt := .i64, sums := (sums.drop (128 * q.2)).take 128,
        mask := (colMask >>> (128 * q.2)) % 2 ^ 128, neg := false, ring := false, base := o.cx.acmb.toNat, pair := true,
        iss := o.issue, pc := o.pc }
    else
      { due := due, row := q.1, fmt := accOf o.sfm, sums := sums, mask := colMask, neg := neg, ring := o.cw.ring,
        base := o.cx.acmb.toNat, pair := false, iss := o.issue, pc := o.pc }

/-- Number of ones among the low `n` bits. -/
def popcount : Nat → Nat → Nat
  | 0, _ => 0
  | n + 1, x => x % 2 + popcount n (x / 2)

/-- An uncorrectable error on operand data of the Canvas (R108), or a refusal at the slice's own port (R407): the detail is the
task-relative offset of the ECC word (DEDUCED, log entry 65). -/
def State.operandLost (s : State) (e : Nat) (o : CanvasOp) (w : Nat) : State :=
  let ok := s.regionAdmits .gallery false (w * 32) 32
  s.modEng e fun x => x.setLate ⟨if ok then stEccUncorr else stUnmapped, if ok then 0 else 4, o.pc, 0,
    (w * 32 - sliceBase e - x.tbase) % 2 ^ 32⟩

/-- One streamed vector: read it, form the column sums against the resident tile, and send the row writes. -/
def streamVec (o : CanvasOp) (e j i p : Nat) (s : State) (v : Nat) : State :=
  let im := o.cw.complex && (p == 1 || p == 3)
  match o.readVec s im v i with
  | (.error w, s) => s.operandLost e o w
  | (.ok (xs, xsc), s) =>
    s.modEng e fun x =>
      let cols := o.colsOn j
      let rows := xs.length
      let sums := (List.range cols).map fun n =>
        o.colSum p xs xsc (x.tile.col rows n) (x.tile.colScales x.tile.colsOn ((rows + 31) / 32) n)
      let cm := (2 ^ cols - 1) &&& (o.mask % 2 ^ 256)
      { x with rows := x.rows ++ o.rowWrites x.cyc j p v cols sums
               macs := (x.macs + rows * popcount 256 cm) % 2 ^ 64 }

/-- The work of one step of an instruction in the present cycle. -/
def canvasWork (s : State) (e : Nat) (o : CanvasOp) : State :=
  let (j, i, ph) := o.at o.step
  match ph with
  | .load half r =>
    let x := s.eng e
    let sc := o.tileScales s half j i r
    let l := o.tileRow x.pal s half j i r
    match s.deliver l.1 (l.2 ++ sc.2) with
    | (.error w, s) => s.operandLost e o w
    | (.ok row, s) =>
      s.modEng e fun x =>
        let t := x.tile
        let t : Tile := if r = 0 then { t with rows := [] } else t
        let t : Tile := { t with
          valid := true
          fmt := o.sfm
          sfmt := o.cw.sfmt
          pal := palSel o.cw o.cx
          rowsOn := o.rowsOn i
          colsOn := o.colsOn j
          single := o.fk == 1 && o.fn == 1 && !o.dbl
          rows := minsert r row t.rows
          scales := if o.cw.sfmt = .mxfp4 ∧ r = 0 then minsert 0 sc.1 t.scales else t.scales }
        { x with tile := t, loadCyc := (x.loadCyc + 1) % 2 ^ 64 }
  | .stream p q =>
    let s := (o.vectors q).foldl (streamVec o e j i p) s
    s.modEng e fun x => { x with strmCyc := (x.strmCyc + 1) % 2 ^ 64 }

/-- The Canvas in one non-stalled cycle: each instruction that occupies the array takes its step. An instruction is kept
until its last row has been written, because its rows stay owed until then (R105). -/
def canvasCycle (s : State) (e : Nat) : State :=
  let s := ((s.eng e).ops.filter fun o => decide (o.step < o.steps ∧ o.k ≠ 0)).foldl (fun t o => canvasWork t e o) s
  s.modEng e fun x =>
    { x with ops := (x.ops.map fun o => if o.step < o.steps then { o with step := o.step + 1 } else o).filter fun o =>
        decide (x.cyc < o.issue + o.steps + 263) }

end Sys2Proof.Machine
end

