-- ==== Sys2Proof/Machine/Operands.lean ====
section
/-! DEFINITION. The operand forms of engine instructions: reads of the register files with the checks of the hazard
monitor (R88 to R90, R104, R120), results that land later, address formation (R102, R129), and the immediates and
register-sourced fields of chapter 5. -/

namespace Sys2Proof.Machine

open Sys2Proof

/-! ### Register files (Table 4.1) -/

/-- Scalar register; S0 reads zero. -/
def Engine.sreg (x : Engine) (r : Nat) : Nat := if r = 0 then 0 else (mget (fun _ => (0 : W64)) x.sregs r).toNat
/-- Vector register, 32,768 bits. -/
def Engine.vreg (x : Engine) (r : Nat) : Nat := mget (fun _ => 0) x.vregs r
/-- Predicate register, 1,024 bits; PR0 reads all ones. -/
def Engine.preg (x : Engine) (r : Nat) : Nat := if r = 0 then 2 ^ 1024 - 1 else mget (fun _ => 0) x.pregs r
/-- Address register. -/
def Engine.areg (x : Engine) (k : Nat) : AReg := mget (fun _ => {}) x.aregs k

/-- Width of a window configuration field (Table 6.1). -/
def winWidth (f : Nat) : Nat :=
  if f ≤ 0x04 ∨ f = 0x09 ∨ f = 0x0A then 32
  else if f = 0x15 then 2
  else if f = 0x19 then 9
  else if (0x0B ≤ f ∧ f ≤ 0x14) ∨ (0x1A ≤ f ∧ f ≤ 0x21) then 8
  else 16

/-- Reset value of a window configuration field (Table 6.1). -/
def winReset (f : Nat) : Nat :=
  if f = 0x04 then 0xFFFFFFFF
  else if (0x05 ≤ f ∧ f ≤ 0x07) ∨ (0x0B ≤ f ∧ f ≤ 0x10) ∨ (0x19 ≤ f ∧ f ≤ 0x1D) then 1
  else 0

/-- Field of a window configuration set. -/
def Engine.winField (x : Engine) (set f : Nat) : Nat := mget (fun k => winReset (k % 64)) x.win (set * 64 + f)

/-- A palette slot. -/
def Engine.palSlot (x : Engine) (p : Nat) : PalSlot := mget (fun _ => {}) x.pal p

/-! ### Faults of one instruction (R104, R108) -/

/-- The fault that reports among those an instruction meets: the one highest in Table 4.6. -/
def worst : List (Option AccErr) → Option AccErr
  | [] => none
  | none :: t => worst t
  | some a :: t =>
    match worst t with
    | none => some a
    | some b => if faultRank b.st < faultRank a.st then some b else some a

/-- A hazard of Table 4.5. -/
def hazard (sub det : Nat) : Option AccErr := some ⟨stHazard, sub, det⟩

/-- The register that an engine which waits for a queue or a ring will write. -/
def Engine.awaited (x : Engine) : Option Dest :=
  match x.run with
  | .waitFq _ vd => some (.vreg vd)
  | .waitRing _ sd _ => some (.sreg sd)
  | _ => none

/-- Whether a write to a register is outstanding: one of an earlier bundle, or one of the M or V slot of the present bundle;
an A-slot write of the present bundle is none (R120, Table 5.9) (DEDUCED, log entry 66). -/
def Engine.outstanding (x : Engine) (d : Dest) : Bool :=
  x.awaited == some d || x.pend.any fun p => p.dest == d && (decide (p.iss < x.cyc) || p.mv)

/-- Read of a scalar register while a write is outstanding (sub-code 0x0004). -/
def Engine.needS (x : Engine) (r : Nat) : Option AccErr :=
  if r ≠ 0 ∧ x.outstanding (.sreg r) then hazard 4 r else none

/-- Read of a vector register with a write outstanding (sub-code 0x0002). -/
def Engine.needV (x : Engine) (r : Nat) : Option AccErr :=
  if x.outstanding (.vreg r) then hazard 2 r else none

/-- Read of a predicate register with a write outstanding (sub-code 0x0003). -/
def Engine.needP (x : Engine) (r : Nat) : Option AccErr :=
  if r ≠ 0 ∧ x.outstanding (.preg r) then hazard 3 r else none

/-! ### Results -/

/-- Whether two results write one register, palette entry or bias buffer. -/
def sameDest (a : Dest) (am : Nat) (b : Dest) (bm : Nat) : Bool :=
  match a, b with
  | .pal p _, .pal q _ => p == q && am &&& bm != 0
  | _, _ => a == b

/-- The number that a write-order hazard reports. -/
def Dest.number : Dest → Nat
  | .sreg r | .vreg r | .preg r | .areg r _ | .bias r | .pal r _ | .win r _ => r

/-- Whether writes to a destination are discarded: S0 and PR0 (Table 4.1). -/
def Dest.null : Dest → Bool
  | .sreg r | .preg r => r == 0
  | _ => false

/-- The hazard of a read of a register whose write is outstanding (sub-codes 0x0002 to 0x0004). -/
def Dest.readHazard : Dest → Option AccErr
  | .sreg r => hazard 4 r
  | .vreg r => hazard 2 r
  | .preg r => hazard 3 r
  | _ => none

/-- A write that would land before, or with, an older outstanding write of an earlier bundle (sub-code 0x0005). -/
def Engine.orderA (x : Engine) (lat : Nat) (d : Dest) (mask : Nat) : Option AccErr :=
  if d.null = false ∧
      x.pend.any (fun p => sameDest p.dest p.mask d mask && decide (p.iss < x.cyc ∧ x.cyc + lat ≤ p.due)) then
    hazard 5 d.number
  else none

/-- The checks of a write of the M or V slot: its order, and that no other slot of the bundle has read the register
(R120, Table 5.9) (DEDUCED, log entry 66). -/
def Engine.order (x : Engine) (lat : Nat) (d : Dest) (mask : Nat) : Option AccErr :=
  match x.orderA lat d mask with
  | some a => some a
  | none => if d.null = false ∧ x.regReads.contains d then d.readHazard else none

/-- A result that lands `lat` cycles after the present one (R120): the bits of `mask` become those of `val`. -/
def Engine.put (x : Engine) (lat : Nat) (d : Dest) (mask val : Nat) : Engine :=
  if d.null then x else { x with pend := x.pend ++ [{ iss := x.cyc, due := x.cyc + lat, dest := d, mask := mask, val := val }] }

/-- A result of the A slot. -/
def Engine.putA (x : Engine) (lat : Nat) (d : Dest) (mask val : Nat) : Engine :=
  if d.null then x
  else { x with pend := x.pend ++
    [{ iss := x.cyc, due := x.cyc + lat, dest := d, mask := mask, val := val, mv := false }] }

/-- All bits of a scalar, vector and predicate register. -/
def allS : Nat := 2 ^ 64 - 1
def allV : Nat := 2 ^ 32768 - 1
def allP : Nat := 2 ^ 1024 - 1

/-- `old` with the bits of `mask` replaced. -/
def blend (old mask val : Nat) : Nat := (old ^^^ (old &&& mask)) ||| (val &&& mask)

/-- A field of an address register replaced. -/
def AReg.set (a : AReg) (f : AField) (v : W32) : AReg :=
  match f with
  | .base => { a with base := v }
  | .bound => { a with bound := v }
  | .stride i =>
    match i.val with
    | 0 => { a with st0 := v }
    | 1 => { a with st1 := v }
    | 2 => { a with st2 := v }
    | _ => { a with st3 := v }

/-- A result written to its register. -/
def Engine.land (x : Engine) (p : PendRes) : Engine :=
  match p.dest with
  | .sreg r => { x with sregs := minsert r (BitVec.ofNat 64 (blend (x.sreg r) p.mask p.val)) x.sregs }
  | .vreg r => { x with vregs := minsert r (blend (x.vreg r) p.mask p.val) x.vregs }
  | .preg r => { x with pregs := minsert r (blend (x.preg r) p.mask p.val) x.pregs }
  | .areg r f => { x with aregs := minsert r ((x.areg r).set f (BitVec.ofNat 32 p.val)) x.aregs }
  | .bias b => { x with bias := minsert b p.val x.bias }
  | .pal q t => { x with pal := minsert q { entries := blend (x.palSlot q).entries p.mask p.val, tag := t } x.pal }
  | .win s f => { x with win := minsert (s * 64 + f) (p.val % 2 ^ winWidth f) x.win }

/-- A palette slot with the writes that land in the present cycle applied; an instruction that issues now reads these
(R120). -/
def Engine.palView (x : Engine) (q : Nat) : PalSlot :=
  ((x.pend.filter fun p => (match p.dest with
      | .pal r _ => r == q
      | _ => false) && decide (p.due ≤ x.cyc)).foldl Engine.land x).palSlot q

/-! ### Addresses (R102, R129) -/

/-- Current index of a loop level; zero while the level does not run. -/
def Engine.idx (x : Engine) (l : Nat) : Nat :=
  match x.ctl.loops.find? fun f => f.lvl == l with
  | some f => f.idx
  | none => 0

/-- Offset through an address register: exact, signed. -/
def Engine.form (x : Engine) (k : Nat) (imm : Int) : Int :=
  let a := x.areg k
  (a.base.toNat : Int) + imm + x.idx 0 * a.st0.toInt + x.idx 1 * a.st1.toInt + x.idx 2 * a.st2.toInt +
    x.idx 3 * a.st3.toInt

/-- An offset with its low bits ignored. -/
def alignTo (n : Nat) (off : Int) : Int := off / n * n

/-- The bound check of an access of `size` bytes at `off` under a bound of its own (Table 4.6). An access beyond both its
bound and the task limit reports the smaller of them, and the bound where they are equal (DEDUCED from R157, log entry
65). -/
def Engine.boundBad (x : Engine) (off : Int) (size bound : Nat) : Option AccErr :=
  let det := (off % (2 ^ 32 : Int)).toNat
  if off < 0 then some ⟨stBound, 4, det⟩
  else if (min bound x.tlimit : Nat) < off + size then some ⟨stBound, if x.tlimit < bound then 2 else 1, det⟩
  else none

/-- Physical address of a task-relative offset of engine `e`. -/
def Engine.pa (x : Engine) (e : Nat) (off : Int) : Nat := sliceBase e + x.tbase + off.toNat

/-- An access through an address register: its offset, with `al` low bytes ignored. -/
def Engine.access (x : Engine) (k : Nat) (imm : W32) (al : Nat) : Int := alignTo al (x.form k imm.toInt)

/-- Bound check of an access through an address register. -/
def Engine.accessBad (x : Engine) (k : Nat) (off : Int) (size : Nat) : Option AccErr :=
  x.boundBad off size (x.areg k).bound.toNat

/-- Whether a byte range touches a 64-byte line of an own-slice store not yet performed (R106, sub-code 0x0009). -/
def Engine.storeHazard (x : Engine) (pa n det : Nat) : Option AccErr :=
  if x.stores.any fun st => decide (pa / 64 ≤ (st.addr + st.data.length - 1) / 64 ∧ st.addr / 64 ≤ (pa + n - 1) / 64) then
    hazard 9 det
  else none

/-! ### Fields that name a register or an immediate -/

/-- A source of 32 bits, and the scalar register it reads (0: none). -/
def Engine.src32 (x : Engine) : Src32 → Nat
  | .imm v => v.toNat
  | .reg r => x.sreg r.val % 2 ^ 32
def rnSrc : Src32 → Nat
  | .imm _ => 0
  | .reg r => r.val

def Engine.loopCount (x : Engine) : LoopCount → Nat
  | .imm v => v.toNat
  | .reg r => x.sreg r.val % 2 ^ 32
def rnLoop : LoopCount → Nat
  | .imm _ => 0
  | .reg r => r.val

def Engine.fenceNo (x : Engine) : FenceSel → Nat
  | .imm f => f.toNat
  | .reg r => x.sreg r.val % 2 ^ 17
def rnFence : FenceSel → Nat
  | .imm _ => 0
  | .reg r => r.val

/-- A size field: a register gives its low 16 bits (R122). -/
def Engine.size (x : Engine) : SizeField → Nat
  | .imm v => v.toNat
  | .reg r => x.sreg r.val % 2 ^ 16
def rnSize : SizeField → Nat
  | .imm _ => 0
  | .reg r => r.val

/-- A ring length: the immediate is length / 16 − 1, a register gives its low 13 bits (Table 5.2). -/
def Engine.ringLen (x : Engine) : RingLen → Nat
  | .imm v => (v.toNat + 1) * 16
  | .reg r => x.sreg r.val % 2 ^ 13
def rnRing : RingLen → Nat
  | .imm _ => 0
  | .reg r => r.val

/-- The row of DRN: the low 12 bits of a register (R137). -/
def Engine.rowSel (x : Engine) : RowSel → Nat
  | .imm v => v.toNat
  | .reg r => x.sreg r.val % 2 ^ 12
def rnRow : RowSel → Nat
  | .imm _ => 0
  | .reg r => r.val

end Sys2Proof.Machine
end

