-- ==== Sys2Proof/Machine/Flags.lean ====
section
/-! DEFINITION. Flags and counts that instructions compute: the completion flags (R13, Table 11.7), the range monitors
(R169, Table 7.3) and the tests of a pentimento decision (R172). -/

namespace Sys2Proof.Machine

open Sys2Proof

/-- One bit. -/
def bit (b : Bool) : Nat := if b then 1 else 0

/-- The FLAGS byte of a completion record (Table 11.7). -/
def flagByte (pentimento empty oooSeen nvDeferred : Bool) : Nat :=
  bit pentimento + 2 * bit empty + 4 * bit oooSeen + 8 * bit nvDeferred

/-! ### Range monitors -/

/-- What the drain finds of one output: saturated, within the guard band, NaN before requantisation. -/
structure OutStat where
  sat  : Bool
  head : Bool
  nan  : Bool
deriving DecidableEq, Repr

/-- One counted output; counters saturate at their maximum (Table 7.3). -/
def Monitor.add (m : Monitor) (o : OutStat) : Monitor where
  outs  := min (m.outs + 1) (2 ^ 48 - 1)
  satc  := min (m.satc + bit o.sat) (2 ^ 32 - 1)
  headc := min (m.headc + bit o.head) (2 ^ 32 - 1)
  nanc  := min (m.nanc + bit o.nan) (2 ^ 32 - 1)

/-- The entry of a layer. -/
def Engine.monitor (x : Engine) (lpi : Nat) : Monitor := mget (fun _ => {}) x.mons lpi

/-- The outputs of one drain counted into the entry of its layer. -/
def Engine.count (x : Engine) (lpi : Nat) (os : List OutStat) : Engine :=
  { x with mons := minsert lpi (os.foldl Monitor.add (x.monitor lpi)) x.mons }

/-! ### The decision (R172) -/

/-- Outcomes of a decision, with their codes in Table 7.4. -/
inductive Decision where
  | fits
  | rerun
  | refusedCount
  | refusedDeadline
  | countOnly
deriving DecidableEq, Repr

def Decision.code : Decision → Nat
  | .fits => 1
  | .rerun => 2
  | .refusedCount => 3
  | .refusedDeadline => 4
  | .countOnly => 5

/-- Effective mode under GMODE: 0 off, 1 count, 2 auto, 3 force. GMODE never holds 3 (Table 7.8). -/
def effMode (gmode mmode : Nat) : Nat :=
  match gmode with
  | 0 => 0
  | 1 => min mmode 1
  | _ => mmode

def satHit (b : LayerBlk) (m : Monitor) : Bool := b.satThr != 0 && decide (b.satThr * m.outs < m.satc * 2 ^ 20)
def headHit (b : LayerBlk) (m : Monitor) : Bool := b.headThr != 0 && decide (b.headThr * m.outs < m.headc * 2 ^ 20)
def nanHit (b : LayerBlk) (m : Monitor) : Bool := b.nanLim != 0 && decide (b.nanLim ≤ m.nanc)

/-- Whether the tests ask for a re-run. -/
def triggered (eff : Nat) (b : LayerBlk) (m : Monitor) : Bool :=
  (decide (b.minOuts ≤ m.outs) && (satHit b m || headHit b m || nanHit b m)) || eff == 3

/-- The outcome, for an effective mode that is not off. -/
def decision (eff : Nat) (b : LayerBlk) (m : Monitor) (reruns cap elapsed : Nat) : Decision :=
  if triggered eff b m = false then .fits
  else if eff = 1 then .countOnly
  else if cap ≤ reruns then .refusedCount
  else if b.rrLatest ≠ 0xFFFFFFFF ∧ b.rrLatest < elapsed then .refusedDeadline
  else .rerun

/-- The TESTS byte (Table 7.4). -/
def testBits (eff : Nat) (b : LayerBlk) (m : Monitor) : Nat :=
  bit (satHit b m) + 2 * bit (headHit b m) + 4 * bit (nanHit b m) + 8 * bit (eff == 3)

/-- The bytes of a pentimento record (Table 7.4). -/
def pntRecord (d : Decision) (tests : Nat) (m : Monitor) : List Byte :=
  leBytes 1 d.code ++ leBytes 1 tests ++ leBytes 2 0 ++ leBytes 4 m.satc ++ leBytes 4 m.headc ++ leBytes 4 m.nanc

end Sys2Proof.Machine
end

