-- ==== Sys2Proof/Machine/Fences.lean ====
section
/-! DEFINITION. Fences, waits and the deadlock probe (R285 to R299), with the commands of those rows. -/

namespace Sys2Proof.Machine

open Sys2Proof

/-! ### Fences -/

/-- A device fence. -/
def State.fence (s : State) (f : Nat) : Fence := mget (fun _ => {}) s.fences f

/-- One signal (R289): max of old and new, or one more out of order. The answer says whether it was out of order. -/
def State.applySignal (s : State) (f v : Nat) : Bool × State :=
  let x := s.fence f
  if x.val.toNat < v then
    (false, { s with fences := minsert f { x with val := BitVec.ofNat 64 v } s.fences })
  else
    (true, ({ s with fences := minsert f { x with ooo := min (x.ooo + 1) 65535 } s.fences } : State).rinc
      .fenceOooTotal 64 1)

/-- Whether a ring that is ENABLED or DRAINING signals a fence (R292), or an action channel as its consumed fence
(R366). -/
def State.ringSignalled (s : State) (f : Nat) : Bool :=
  ((List.range 64).any fun r =>
    (mget (fun _ => ({} : Ring)) s.rings r).state != 0 &&
    (s.fenceMap (s.fget (.frCfg r) 43 32) (s.fget (.frFence r) 48 32) == some f ||
     s.fenceMap (s.fget (.frCfg r) 43 32) (s.fget (.frFence r) 16 0) == some f)) ||
  ((List.range 16).any fun k =>
    (mget (fun _ => ({} : ActChan)) s.chans k).state == 1 &&
    s.fenceMap (s.fget (.taqCfg k) 11 0) (s.fget (.taqFence k) 48 32) == some f)

/-! ### Ends of waits (Table 12.2) -/

/-- A pre-wait that holds: the command looks at its next sync entry. -/
def bumpPre (c : Cmd) : Cmd :=
  match c.phase with
  | .prewait k => { c with phase := .prewait (k + 1) }
  | _ => c

/-- The next pre-wait of a command that is being dispatched is registered; those that hold already are passed over. The
list is the sync list from entry `k` on. With none left the command is dispatched (R265, R293). -/
def State.nextPre (s : State) (c : Cmd) (k : Nat) : List SyncEnt → State
  | [] => s.modCmd c.sq c.seq fun d => { d with phase := .dispatched }
  | e :: t =>
    if e.kind ≠ 0 then s.nextPre c (k + 1) t
    else
      match s.fenceMap c.ctx e.fence with
      | none => s.nextPre c (k + 1) t
      | some f =>
        if e.val ≤ (s.fence f).val.toNat then s.nextPre c (k + 1) t
        else
          let dl := fieldAt c.desc 4 4
          let end_ : Option Nat := if dl = 0 then none else some (c.startT + dl * 1000)
          let w : WaitReg := ⟨some ⟨c.sq, c.seq, none⟩, .pre, f, e.fence, e.val, end_, s.clock.ticks⟩
          { (s.modCmd c.sq c.seq fun d => { d with phase := .prewait k }) with waits := s.waits ++ [w] }

/-- A list's completion with a failure or success (R215): the SDMA_ARM command that armed it commits; the channel goes
IDLE or starts its latched list (Table 9.4). -/
def State.sdmaEnd (s : State) (c st sub detail : Nat) : State :=
  let d := mget (fun _ => ({} : Sdma)) s.sdmas c
  match d.cur with
  | none => s
  | some r =>
    let st' := if st = stOk ∧ r.failmask ≠ 0 then stPartial else st
    let d' : Sdma := { d with cur := d.latched, latched := none, last := st', lastIdx := r.idx, lastFail := r.failmask }
    let s := { s with
      sdmas := minsert c d' s.sdmas
      waits := s.waits.filter fun w => !(match w.kind with
        | .desc (.sdma k) => k.val == c
        | _ => false) }
    match r.owner with
    | none => s
    | some t =>
      match s.cmd? t.sq t.seq with
      | none => s
      | some k => s.commit k st' sub fun x => { x with
          partmap := r.failmask, index := r.idx, detail := detail, flags := if r.ooo then x.flags ||| 4 else x.flags }

/-- A wait ends without being satisfied: timeout, deadlock verdict (Table 12.2). A fetch list that ends so has a FAILED entry, which
takes the next credit (R219). -/
def State.failWait (s : State) (w : WaitReg) (st : Nat) : State :=
  let s := { s with waits := s.waits.filter (· ≠ w) }
  match w.kind, w.task with
  | .fwait, some t =>
    match s.engOfTask t with
    | none => s
    | some e => s.engStop e ⟨st, 0, (s.eng e).ctl.pc, 1, w.rel⟩ true
  | .pre, some t =>
    match s.cmd? t.sq t.seq with
    | none => s
    | some c => s.commit c st 0 fun r => { r with detail := w.rel }
  | .desc (.sdma c), _ => s.sdmaEnd c.val st 0 w.rel
  | .desc (.fetch e q), _ =>
      let fq := mget (fun _ => ({} : FetchQ)) (s.eng e.val).fqs q.val
      let failed : FqEnt := { st := .failed, data := [], src := [], nsrc := 0, stat := st, sub := 0, det := w.rel }
      let fq' : FetchQ := { fq with state := 2, run := none, late := some failed }
      let s := s.modEng e.val fun x => { x with fqs := minsert q.val fq'.settle x.fqs }
      match (s.eng e.val).run with
      | .waitFq k _ => if k = q.val ∧ fq.ents.isEmpty = true then s.issueFault e.val .m ⟨st, 0, w.rel⟩ else s
      | _ => s
  | _, none => s

/-- A wait is satisfied (R290, R293). -/
def State.satisfyWait (s : State) (w : WaitReg) : State :=
  let s := { s with waits := s.waits.filter (· ≠ w) }
  match w.kind, w.task with
  | .fwait, some t =>
    match s.engOfTask t with
    | none => s
    | some e => s.modEng e fun x => if x.run = .waitFence then { x with run := .issuing } else x
  | .pre, some t =>
    match s.cmd? t.sq t.seq with
    | none => s
    | some c =>
      match c.phase with
      | .prewait k => s.nextPre c (k + 1) (c.sync.drop (k + 1))
      | _ => s
  | _, _ => s

/-- Every wait on a fence that its value satisfies ends. -/
def State.wake (s : State) (f : Nat) : State :=
  (s.waits.filter fun w => w.fence == f && decide (w.target ≤ (s.fence f).val.toNat)).foldl
    (fun t w => t.satisfyWait w) s

/-- A signal with the waits it satisfies; the answer says whether it was out of order. -/
def State.signal (s : State) (f v : Nat) : Bool × State :=
  let r := s.applySignal f v
  (r.1, r.2.wake f)

/-- Signals in order; the answer says whether one was out of order. -/
def State.signals (s : State) : List (Nat × Nat) → Bool × State
  | [] => (false, s)
  | p :: t =>
    let r := s.signal p.1 p.2
    let q := r.2.signals t
    (r.1 || q.1, q.2)

/-- A ring signal (R292): dropped and counted where the number is at or above COUNT (R288). -/
def State.ringSignal (s : State) (ctx f v : Nat) : State :=
  match s.fenceMap ctx f with
  | some d => (s.signal d v).2
  | none => s.rinc .fenceBadref 64 1

/-! ### Declared signallers (R291) -/

/-- Whether a command, or the part of it on engine `e`, declares device fence `f`. -/
def State.declares (s : State) (c : Cmd) (e : Option Nat) (f : Nat) : Bool :=
  c.sync.any fun y =>
    (y.kind == 1 || (y.kind == 2 && (y.parts == 0 || (match e with
      | some n => y.parts / 2 ^ n % 2 == 1
      | none => false)))) &&
    s.fenceMap c.ctx y.fence == some f

/-- The device fences a command declares for a part on engine `e`. -/
def State.declaredList (s : State) (c : Cmd) (e : Option Nat) : List Nat :=
  c.sync.filterMap fun y =>
    if y.kind == 1 || (y.kind == 2 && (y.parts == 0 || (match e with
      | some n => y.parts / 2 ^ n % 2 == 1
      | none => false)))
    then s.fenceMap c.ctx y.fence else none

/-- The first fence number of a sync list that is at or above COUNT (R288). -/
def State.syncOver (s : State) (c : Cmd) : Option Nat :=
  (c.sync.find? fun e => (s.fenceMap c.ctx e.fence).isNone).map (·.fence)

/-! ### The deadlock probe (R296 to R298) -/

/-- A task as the probe sees it. -/
structure ProbeTask where
  id    : TaskId
  isFence : Bool
  needs : List TaskId
  live  : Bool
deriving DecidableEq, Repr

/-- SPLIT of a RUN. -/
def Cmd.split (c : Cmd) : Bool := fieldAt c.desc 0 1 == 4 && fieldAt c.desc 1 1 / 2 % 2 == 1

/-- The engines of a split command (R233): its parts, the plan its dispatch made, or before that the ENGMASK of its split
block; none for a command that is not split. -/
def State.splitEngines (s : State) (c : Cmd) : List Nat :=
  if !c.split then []
  else if !c.parts.isEmpty then c.parts.map (·.eng)
  else if !c.plan.isEmpty then c.plan.map (·.1)
  else
    match (s.vread .gallery c.ctx (fieldAt c.desc 18 6) 1).1 with
    | .ok b => (List.range 6).filter fun e => fieldAt b 0 1 / 2 ^ e % 2 == 1
    | .error _ => []

/-- The part of a command on engine `e` as a task. -/
def Cmd.partTask (c : Cmd) (e : Nat) : TaskId := ⟨c.sq, c.seq, if h : e < 6 then some ⟨e, h⟩ else none⟩

/-- Whether the part on engine `e` of a command has ended. -/
def Cmd.partEnded (c : Cmd) (e : Nat) : Bool := c.parts.any fun p => p.eng == e && p.result.isSome

/-- The tasks of a command: one, or one for each part of a split command that has not ended (R291). -/
def State.cmdTasks (s : State) (c : Cmd) : List TaskId :=
  if c.split then ((s.splitEngines c).filter fun e => !c.partEnded e).map c.partTask else [⟨c.sq, c.seq, none⟩]

/-- All tasks: accepted, uncommitted. -/
def State.tasks (s : State) : List TaskId := s.cmds.flatMap s.cmdTasks

/-- Whether a task declares a device fence. -/
def State.taskDeclares (s : State) (t : TaskId) (f : Nat) : Bool :=
  match s.cmd? t.sq t.seq with
  | some c => s.declares c (t.eng.map (·.val)) f
  | none => false

/-- The holder of the engine or channel that a task that has not started waits for (R297). -/
def State.holder (s : State) (c : Cmd) (t : TaskId) : List TaskId :=
  let onEng (e : Nat) : List TaskId :=
    match (s.eng e).task with
    | some k => if k.id = t then [] else [k.id]
    | none => []
  match fieldAt c.desc 0 1 with
  | 4 =>
    match t.eng with
    | some e => onEng e.val
    | none => onEng (fieldAt c.desc 18 1)
  | 5 =>
    match (mget (fun _ => ({} : Sdma)) s.sdmas (fieldAt c.desc 16 1)).cur with
    | some r => (match r.owner with
      | some o => [o]
      | none => [])
    | none => []
  | _ => []

/-- Whether a task has started: an engine has taken it, its channel executes its list, or its command runs. -/
def State.started (s : State) (c : Cmd) (t : TaskId) : Bool :=
  c.phase == .running &&
  match fieldAt c.desc 0 1 with
  | 4 => (s.engOfTask t).isSome
  | 5 =>
    (match (mget (fun _ => ({} : Sdma)) s.sdmas (fieldAt c.desc 16 1)).cur with
    | some r => r.owner == some t
    | none => false)
  | _ => true

/-- Whether every pre-wait of a command holds. -/
def State.preHold (s : State) (c : Cmd) : Bool :=
  c.sync.all fun e => e.kind != 0 || match s.fenceMap c.ctx e.fence with
    | some f => decide (e.val ≤ (s.fence f).val.toNat)
    | none => true

/-- Whether a registered wait is that of a task: a pre-wait of a split command is one of each of its parts (R291, R293). -/
def WaitReg.heldBy (w : WaitReg) (t : TaskId) : Bool :=
  w.task == some t || (w.kind == .pre && w.task == some ⟨t.sq, t.seq, none⟩)

/-- The snapshot of one task (R297). -/
def State.probeTask (s : State) (t : TaskId) : ProbeTask :=
  match s.waits.find? fun w => w.heldBy t with
  | some w =>
    let needs := s.tasks.filter fun k => s.taskDeclares k w.fence
    { id := t, isFence := true, needs := needs,
      live := decide (w.target ≤ (s.fence w.fence).val.toNat) || (s.fence w.fence).ext || s.ringSignalled w.fence ||
              needs.isEmpty }
  | none =>
    match s.cmd? t.sq t.seq with
    | none => { id := t, isFence := false, needs := [], live := true }
    | some c =>
      if s.started c t || !s.preHold c then { id := t, isFence := false, needs := [], live := true }
      else
        let earlier := if fieldAt c.desc 1 1 / 4 % 2 = 1 then
            (s.cmds.filter fun d => d.sq == c.sq && decide (d.seq < c.seq)).flatMap s.cmdTasks
          else []
        let needs := s.holder c t ++ earlier
        { id := t, isFence := false, needs := needs, live := needs.isEmpty }

/-- Whether a task is live in a snapshot. -/
def isLive (l : List ProbeTask) (t : TaskId) : Bool := l.any fun p => p.id == t && p.live

/-- One round of the algorithm. -/
def probeRound (l : List ProbeTask) : List ProbeTask :=
  l.map fun p =>
    if p.live then p
    else if p.isFence then { p with live := p.needs.any (isLive l) }
    else { p with live := p.needs.all (isLive l) }

/-- Rounds until nothing more can change: as many as there are tasks. -/
def probeRounds : Nat → List ProbeTask → List ProbeTask
  | 0, l => l
  | n + 1, l => probeRounds n (probeRound l)

/-- Whether wait `a` is older than `b`: earlier start; ties by lower SQ, SEQ, engine. -/
def waitOlder (a b : WaitReg) : Bool :=
  let key (w : WaitReg) : Nat × Nat × Nat × Nat :=
    match w.task with
    | some t => (w.start, t.sq, t.seq, match t.eng with
      | some e => e.val
      | none => 0)
    | none => (w.start, 0, 0, 0)
  let x := key a
  let y := key b
  decide (x.1 < y.1 ∨ (x.1 = y.1 ∧ (x.2.1 < y.2.1 ∨ (x.2.1 = y.2.1 ∧
    (x.2.2.1 < y.2.2.1 ∨ (x.2.2.1 = y.2.2.1 ∧ x.2.2.2 < y.2.2.2))))))

/-- The youngest of some waits. -/
def youngest : List WaitReg → Option WaitReg
  | [] => none
  | w :: t =>
    match youngest t with
    | none => some w
    | some v => if waitOlder v w then some w else some v

/-- The wait on which a probe of the present state gives its verdict (R297). -/
def State.probeVerdict (s : State) : Option WaitReg :=
  let l := s.tasks.map s.probeTask
  let l := probeRounds l.length l
  youngest (s.waits.filter fun w => l.any fun p => w.heldBy p.id && p.isFence && !p.live)

/-! ### Commands -/

/-- R289: signals that reach one fence in one FABCLK cycle are applied in increasing order of value; all are put in that
order. -/
def sortSignals : List (Fin 131072 × W64) → List (Nat × Nat)
  | [] => []
  | p :: t => ins (p.1.val, p.2.toNat) (sortSignals t)
where
  ins (x : Nat × Nat) : List (Nat × Nat) → List (Nat × Nat)
    | [] => [x]
    | y :: t => if y.2 < x.2 then y :: ins x t else x :: y :: t

/-- FENCE_SIGNAL (R289). -/
def execFenceSignal (sigs : List (Fin 131072 × W64)) (s : State) : Host.Outcome State Fault Refusal :=
  .next (s.signals (sortSignals sigs)).2

/-- The device fence of a port, none while IDX is at or above COUNT (R299). -/
def State.portFence (s : State) (p : Nat) : Option Nat :=
  s.fenceMap (s.fget (.fencePortCtx p) 11 0) (s.fget (.fencePortIdx p) 16 0)

/-- FENCE_PORT_SIG (R292, R299): applied only to an EXT fence; otherwise ERR of the port is set. -/
def execFencePortSig (w : World) (p : Fin 64) (v : W64) (s : State) : Host.Outcome State Fault Refusal :=
  .next <|
    s.regOp w (Reg.fencePortSigR p.val |>.addr) true fun s =>
      match s.portFence p.val with
      | some f => if (s.fence f).ext then (s.signal f v.toNat).2 else s.fset (.fencePortAttrR p.val) 63 63 1
      | none => s.fset (.fencePortAttrR p.val) 63 63 1

/-- FENCE_PORT_ATTR (R299): sets EXT of the port's fence; a 1 in bit 63 clears ERR. With no fence, ERR is set. -/
def execFencePortAttr (w : World) (p : Fin 64) (v : W64) (s : State) : Host.Outcome State Fault Refusal :=
  .next <|
    s.regOp w (Reg.fencePortAttrR p.val |>.addr) true fun s =>
      match s.portFence p.val with
      | none => s.fset (.fencePortAttrR p.val) 63 63 1
      | some f =>
        let s := { s with fences := minsert f { s.fence f with ext := v.toNat % 2 == 1 } s.fences }
        if v.toNat / 2 ^ 63 = 1 then s.fset (.fencePortAttrR p.val) 63 63 0 else s

/-- State of a context: 0 FREE, 1 ACTIVE, 2 DESTROYING. In tagged mode every tag is ACTIVE, except while its destruction
runs (R256). -/
def State.ctxSt (s : State) (c : Nat) : Nat :=
  let v := s.fget (.ctxState c) 1 0
  if s.rget .cpqInit = 2 ∧ v = 0 then 1 else v

/-- Whether a fence range would overlap the non-empty range of another context (R286). -/
def State.rangeOverlaps (s : State) (c base count : Nat) : Bool :=
  count != 0 && (List.range 256).any fun d =>
    d != c &&
    (let b := s.fget (.fenceCtxRangeR d) 16 0
     let n := s.fget (.fenceCtxRangeR d) 49 32
     n != 0 && decide (base < b + n ∧ b < base + count))

/-- FENCE_CTX_RANGE (R286). -/
def execFenceCtxRange (w : World) (c : Fin 256) (v : W64) (s : State) : Host.Outcome State Fault Refusal :=
  .next <|
    s.regOp w (Reg.fenceCtxRangeR c.val |>.addr) true fun s =>
      let base := bits v.toNat 16 0
      let count := bits v.toNat 49 32
      let s := if v.toNat / 2 ^ 63 = 1 then s.fset (.fenceCtxRangeR c.val) 63 63 0 else s
      if s.ctxSt c.val ≠ 0 then s
      else if 131072 < count ∨ 131072 < base + count ∨ s.rangeOverlaps c.val base count = true then
        s.fset (.fenceCtxRangeR c.val) 63 63 1
      else (s.fset (.fenceCtxRangeR c.val) 49 32 count).fset (.fenceCtxRangeR c.val) 16 0 base

/-- The registered wait of a task. -/
def State.waitOf (s : State) (t : TaskId) : Option WaitReg := s.waits.find? fun w => w.task == some t

/-- WAIT_DEADLINE (R294): the deadline of a task's wait has passed in device time; the wait ends with ST_WAIT_TIMEOUT. A
wait with no deadline, or one still ahead, is not ended. -/
def execWaitDeadline (t : TaskId) (s : State) : Host.Outcome State Fault Refusal :=
  .next <|
    match s.waitOf t with
    | none => s
    | some w =>
      match w.deadline with
      | none => s
      | some d => if d ≤ s.now then s.failWait w stWaitTimeout else s

/-- INTERVAL of the probe in PERCLK cycles of 5 ns: units of 100 µs (Table 12.4). -/
def State.probeInterval (s : State) : Nat := max 1 (s.fget .fenceProbeCtl 15 0) * 20000

/-- Age of a wait, and its age when it was last looked at for a request. -/
def State.waitAge (s : State) (w : WaitReg) : Nat := s.clock.ticks - w.start
def Probe.askedAt (p : Probe) (w : WaitReg) : Nat := ((p.asked.find? fun q => q.1 == w).map (·.2)).getD 0

/-- A wait has been looked at; waits that no longer stand are forgotten. -/
def State.askNow (s : State) (w : WaitReg) : State :=
  { s with probe := { s.probe with
      asked := (w, s.waitAge w) :: s.probe.asked.filter fun q => q.1 != w && s.waits.contains q.1 } }

/-- Every registered wait has been looked at: no request stays due for an age reached before now. -/
def State.askAll (s : State) : State := s.waits.foldl State.askNow s

/-- DEADLOCK_PROBE_REQUEST (R296): the age of a task's wait has reached a whole multiple of INTERVAL since it was last looked
at; a probe starts, or one further probe is recorded. Nothing is recorded while EN is 0. -/
def execDeadlockProbeRequest (t : TaskId) (s : State) : Host.Outcome State Fault Refusal :=
  .next <|
    match s.waitOf t with
    | none => s
    | some w =>
      let due := decide (s.probe.askedAt w / s.probeInterval < s.waitAge w / s.probeInterval)
      let s := s.askNow w
      if due && s.fget .fenceProbeCtl 31 31 == 1 then { s with probe := { s.probe with further := true } } else s

/-- DEADLOCK_PROBE (R296, R297): a requested probe starts, takes its snapshot and judges. -/
def execDeadlockProbe (s : State) : Host.Outcome State Fault Refusal :=
  .next <|
    if s.probe.busy ∨ s.probe.further = false ∨ s.fget .fenceProbeCtl 31 31 = 0 then s
    else ({ s with probe := { s.probe with busy := true, further := false, verdict := s.probeVerdict } } : State).rinc .fenceProbes 64 1

/-- DEADLOCK_VERDICT (R298): the probe ends; its verdict ends the wait if it still stands unsatisfied, and is dropped
otherwise. -/
def execDeadlockVerdict (s : State) : Host.Outcome State Fault Refusal :=
  .next <|
    if s.probe.busy = false then s
    else
      let v := s.probe.verdict
      let s := { s with probe := { s.probe with busy := false, verdict := none } }
      match v with
      | none => s
      | some w =>
        if s.waits.contains w then
          if w.target ≤ (s.fence w.fence).val.toNat then (s.satisfyWait w).rinc .fenceDropped 64 1
          else (s.failWait w stDeadlock).rinc .fenceDeadlocks 64 1
        else s.rinc .fenceDropped 64 1

end Sys2Proof.Machine
end

