-- ==== Sys2Proof/Machine/Sources.lean ====
section
/-! DEFINITION. Hardware sources (R333 to R338, R352): producer codes, the registers of each source, shadowed
configuration, slot extents, and the checks of an enable. With them the accessors of frame rings. -/

namespace Sys2Proof.Machine

open Sys2Proof

/-! ### Ring accessors (R224) -/

def State.ring (s : State) (r : Nat) : Ring := mget (fun _ => {}) s.rings r
def State.setRing (s : State) (r : Nat) (x : Ring) : State := { s with rings := minsert r x s.rings }
def State.ringSlots (s : State) (r : Nat) : Nat := s.fget (.frCfg r) 6 0
def State.ringCons (s : State) (r : Nat) : Nat := s.fget (.frCfg r) 10 8 + 1
def State.ringCtx (s : State) (r : Nat) : Nat := s.fget (.frCfg r) 43 32
def State.ringPsrc (s : State) (r : Nat) : Nat := s.fget (.frCfg r) 23 16
def State.ringStride (s : State) (r : Nat) : Nat := s.fget (.frCfg r) 63 48 * 65536
/-- Virtual address of a slot (R224). -/
def State.slotVa (s : State) (r i : Nat) : Nat := s.fget (.frBase r) 47 16 * 65536 + i * s.ringStride r
/-- Virtual address of a slot's record (R224). -/
def State.recVa (s : State) (r i : Nat) : Nat := s.fget (.frRec r) 47 6 * 64 + 64 * i

/-! ### Producer codes (Table 14.1) -/

/-- Whether a PSRC is none of the reserved ones. -/
def psrcOk (p : Nat) : Bool :=
  decide (p ≤ 0x30) || decide (0x40 ≤ p ∧ p ≤ 0x82) || decide (0xA0 ≤ p ∧ p ≤ 0xDF)

/-- Block (0 CSI, 1 CXP, 2 LFC, 3 IPP0, 4 IPP1) and number of a real-time source. -/
def srcIndex (p : Nat) : Option (Nat × Nat) :=
  if 0x01 ≤ p ∧ p ≤ 0x20 then some (0, p - 0x01)
  else if 0x21 ≤ p ∧ p ≤ 0x28 then some (1, p - 0x21)
  else if 0x29 ≤ p ∧ p ≤ 0x30 then some (2, p - 0x29)
  else if 0x40 ≤ p ∧ p ≤ 0x5F then some (3, p - 0x40)
  else if 0x60 ≤ p ∧ p ≤ 0x7F then some (4, p - 0x60)
  else none

/-- The real-time sources. -/
def rtSources : List Nat := (List.range 0x80).filter fun p => (srcIndex p).isSome

def State.source (s : State) (p : Nat) : Source := mget (fun _ => {}) s.sources p
def State.setSource (s : State) (p : Nat) (x : Source) : State := { s with sources := minsert p x s.sources }

/-- SRC_CTL of a real-time source. -/
def srcReg (p : Nat) : Option Reg := (srcIndex p).map fun q => .srcCtl q.1 q.2

/-- A field of SRC_CTL. -/
def State.srcField (s : State) (p h l : Nat) : Nat :=
  match srcReg p with
  | some r => s.fget r h l
  | none => 0

/-- `s` with a field of SRC_CTL set. -/
def State.setSrcField (s : State) (p h l v : Nat) : State :=
  match srcReg p with
  | some r => s.fset r h l v
  | none => s

def State.srcEn (s : State) (p : Nat) : Bool := s.srcField p 31 31 == 1
def State.srcBudget (s : State) (p : Nat) : Nat := s.srcField p 15 0

/-- A counter of a source advanced. -/
def State.srcCount (s : State) (p : Nat) (f : Nat → Nat → Reg) (n : Nat) : State :=
  match srcIndex p with
  | some q => s.rinc (f q.1 q.2) 64 n
  | none => s

/-- SRC_GEN. -/
def State.srcGenOf (s : State) (p : Nat) : Nat :=
  match srcIndex p with
  | some q => s.rget (.srcGen q.1 q.2)
  | none => 0

/-! ### Configuration in use and its shadow (R352) -/

/-- The registers of a source that hold shadowed fields, as written. -/
def State.shadow (s : State) (p : Nat) : List Nat :=
  match srcIndex p with
  | some (0, n) => [s.rget (.csiStGeom n)]
  | some (1, n) => [s.rget (.cxpCamGeom n)]
  | some (2, n) => [s.rget (.lfcCfg n)]
  | some (b, n) => [s.rget (.ippCxIn (b - 3) n), s.rget (.ippCxPb (b - 3) n), s.rget (.ippCxOut (b - 3) n)]
  | none => []

/-- Word `i` of the configuration in use. -/
def State.inUse (s : State) (p i : Nat) : Nat := (s.source p).active.getD i 0

/-- WIDTH, HEIGHT or LPS, and ROWP of a geometry word. -/
def geomW (g : Nat) : Nat := bits g 63 48
def geomH (g : Nat) : Nat := bits g 47 32
def geomP (g : Nat) : Nat := bits g 31 0

/-- Table 14.4. -/
def csiFmt (dt : Nat) : Option PixFmt :=
  if dt = 0x1E then some ⟨2, 8, 1⟩
  else if dt = 0x24 then some ⟨3, 8, 1⟩
  else if dt = 0x2A then some ⟨1, 8, 1⟩
  else if dt = 0x2B then some ⟨1, 10, 2⟩
  else if dt = 0x2C then some ⟨1, 12, 2⟩
  else if dt = 0x2D then some ⟨1, 14, 2⟩
  else if dt = 0x2E then some ⟨1, 16, 2⟩
  else none

/-- PFMT in the order of R343: Mono8 to Mono16, the four Bayer orders at 8, 10 and 12 bits, RGB8. -/
def cxpFmt (f : Nat) : Option PixFmt :=
  if f = 0 then some ⟨1, 8, 1⟩
  else if f ≤ 4 then some ⟨1, 8 + 2 * f, 2⟩
  else if f ≤ 8 then some ⟨1, 8, 1⟩
  else if f ≤ 12 then some ⟨1, 10, 2⟩
  else if f ≤ 16 then some ⟨1, 12, 2⟩
  else if f = 17 then some ⟨3, 8, 1⟩
  else none

/-- Pixel format and geometry in use of a camera (R341, R343). -/
def State.rawFormat (s : State) (p : Nat) : Option (PixFmt × Nat) :=
  match srcIndex p with
  | some (0, n) => (csiFmt (s.fget (.csiStCfg n) 15 10)).map fun f => (f, s.inUse p 0)
  | some (1, n) => (cxpFmt (s.fget (.cxpCamCfg n) 22 17)).map fun f => (f, s.inUse p 0)
  | _ => none

/-- Bytes of a slot that a source's geometry needs (R336). -/
def State.srcExtent (s : State) (p : Nat) (cfg : List Nat) : Nat :=
  match srcIndex p with
  | some (0, _) => geomH (cfg.getD 0 0) * geomP (cfg.getD 0 0)
  | some (1, n) =>
    if s.fget (.cxpCamCfg n) 31 31 = 1 then 0 else geomH (cfg.getD 0 0) * geomP (cfg.getD 0 0)
  | some (2, n) => geomH (s.rget (.lfcGeom n)) * geomP (s.rget (.lfcGeom n))
  | _ => 0

/-- The ring that a source writes into: the ENABLED ring whose PSRC is its code (R333). -/
def State.ringFor (s : State) (p : Nat) : Option Nat :=
  (List.range 64).find? fun r => (s.ring r).state == 1 && s.ringPsrc r == p

/-- Whether a configuration's extent fits the slots of the source's ring. -/
def State.extentFits (s : State) (p : Nat) (cfg : List Nat) : Bool :=
  match s.ringFor p with
  | some r => decide (s.srcExtent p cfg ≤ s.ringStride r)
  | none => true

/-! ### Checks of a configuration -/

def inRange (lo hi x : Nat) : Bool := decide (lo ≤ x ∧ x ≤ hi)

/-- Whether a geometry word of a camera is in range (Table 14.10). -/
def geomOk (g : Nat) : Bool := inRange 1 16384 (geomW g) && inRange 1 65535 (geomH g) && geomP g % 64 == 0

/-- Links of a camera (R342), or lanes of an LFC group (R345): the first, and 0 one, 1 two, 2 four; none where they do not
exist. -/
def linksOf (c n : Nat) : Option (List Nat) :=
  if n = 0 then some [c]
  else if n = 1 ∧ c % 2 = 0 then some [c, c + 1]
  else if n = 2 ∧ c % 4 = 0 then some [c, c + 1, c + 2, c + 3]
  else none

/-- Lanes of a group. -/
def State.lanes (s : State) (g : Nat) : Nat := 2 ^ s.fget (.lfcCfg g) 31 30

/-- Whether the links of camera `c` meet those of another enabled camera. -/
def State.linksFree (s : State) (c : Nat) (l : List Nat) : Bool :=
  (List.range 8).all fun d =>
    d == c || !s.srcEn (0x21 + d) ||
    !(((linksOf d (s.fget (.cxpCamCfg d) 27 26)).getD []).any fun x => l.contains x)

/-- Whether the lanes of group `g` meet those of another enabled group. -/
def State.lanesFree (s : State) (g : Nat) (l : List Nat) : Bool :=
  (List.range 8).all fun d =>
    d == g || !s.srcEn (0x29 + d) || !(((linksOf d (s.fget (.lfcCfg d) 31 30)).getD []).any fun x => l.contains x)

/-- Whether a correction table lies in the media region. -/
def State.tableOk (s : State) (g : Nat) (r : Reg) : Bool :=
  decide (mediaBase ≤ s.fget r 47 6 * 64 ∧
    s.fget r 47 6 * 64 + 4 * geomW (s.rget (.lfcGeom g)) ≤ mediaBase + 0x4000000)

/-- Whether the configuration `cfg` of a source is one that Table 14.10 admits. -/
def State.cfgOk (s : State) (p : Nat) (cfg : List Nat) : Bool :=
  match srcIndex p with
  | some (0, n) => geomOk (cfg.getD 0 0) && (csiFmt (s.fget (.csiStCfg n) 15 10)).isSome
  | some (1, n) =>
    (s.fget (.cxpCamCfg n) 31 31 == 1 || geomOk (cfg.getD 0 0)) && s.fget (.cxpCamCfg n) 25 23 != 0 &&
    (match linksOf n (s.fget (.cxpCamCfg n) 27 26) with
     | some l => s.linksFree n l
     | none => false)
  | some (2, n) =>
    let g := s.rget (.lfcGeom n)
    inRange 1 32768 (geomW g) && geomH g != 0 && geomP g % 64 == 0 && geomW g % s.lanes n == 0 &&
    s.tableOk n (.lfcTbase0 n) && s.tableOk n (.lfcTbase1 n) &&
    (match linksOf n (s.fget (.lfcCfg n) 31 30) with
     | some l => s.lanesFree n l
     | none => false)
  | some (_, _) =>
    let i := cfg.getD 0 0
    let o := cfg.getD 2 0
    (bits i 31 31 == 0 || (inRange 16 4096 (bits i 15 0) && bits i 15 0 % 16 == 0)) &&
    decide (bits o 31 29 ≤ 4 ∧ bits o 28 26 ≤ 4) && bits o 25 24 != 3 && bits o 22 20 != 7
  | none => false

/-- Whether another enabled stream of the port has the same VC and DT (R340). -/
def State.vcdtFree (s : State) (p : Nat) : Bool :=
  match srcIndex p with
  | some (0, n) => (List.range 4).all fun v =>
      let m := n / 4 * 4 + v
      m == n || !s.srcEn (0x01 + m) || s.rget (.csiStCfg m) != s.rget (.csiStCfg n)
  | _ => true

/-- Sum of BUDGET over the enabled real-time sources other than `p`. -/
def State.budgetSum (s : State) (p : Nat) : Nat :=
  ((rtSources.filter fun q => q != p && s.srcEn q).map s.srcBudget).sum

/-- Whether a write of EN = 1 enables a source (R334, R336, R338, R340, R342). -/
def State.srcMayEnable (s : State) (p : Nat) : Bool :=
  decide (s.budgetSum p + s.srcBudget p ≤ 16000) && s.srcField p 28 27 != 3 && s.cfgOk p (s.shadow p) && s.vcdtFree p &&
  s.extentFits p (s.shadow p)

/-- What the enable of a ring asks of its PSRC (R333, R336). -/
def State.ringPsrcOk (s : State) (r : Nat) : Bool :=
  let p := s.ringPsrc r
  psrcOk p &&
  (p == 0 ||
    ((List.range 64).all fun q => q == r || (s.ring q).state == 0 || s.ringPsrc q != p) &&
    (!s.srcEn p || decide (s.srcExtent p (s.source p).active ≤ s.ringStride r)))

/-! ### COMMIT and EN -/

/-- A pending COMMIT at a frame start (R336, R352). -/
def State.applyCommit (s : State) (p : Nat) : State :=
  let x := s.source p
  if x.pending then
    let s := (s.setSource p { x with pending := false }).setSrcField p 30 30 0
    if s.cfgOk p (s.shadow p) && s.extentFits p (s.shadow p) then
      match srcIndex p with
      | some q => (s.setSource p { x with pending := false, active := s.shadow p }).rinc (.srcGen q.1 q.2) 32 1
      | none => s
    else s.setSrcField p 29 29 1
  else s

/-- COMMIT written (R352). -/
def State.srcCommit (s : State) (p : Nat) : State :=
  (s.setSource p { s.source p with pending := true }).setSrcField p 30 30 1

/-- Whether a frame of a source is in progress: a slot that is filled, or a frame that an area pipeline serves. -/
def State.srcBusy (s : State) (p : Nat) : Bool :=
  (s.source p).opened.isSome ||
  match srcIndex p with
  | some (b, n) =>
    3 ≤ b && (let y := mget (fun _ => ({} : Ipp)) s.ipps (b - 3); y.cur == some n || (mfind y.row n).isSome)
  | none => false

/-- EN = 1 written to a source that is not enabled. While PD_MEDIA is off the enable waits for it (R388); the configuration of
a frame still in progress stands to its end (R352). -/
def State.srcEnable (s : State) (p : Nat) : State :=
  if s.pmc.pdMedia = false then { s with pmc := { s.pmc with mediaWake := s.pmc.mediaWake ++ [p] } }
  else if s.srcMayEnable p then
    let x := s.source p
    let s := s.setSrcField p 31 31 1
    if s.srcBusy p then s.srcCommit p else s.setSource p { x with active := s.shadow p }
  else s.setSrcField p 29 29 1

/-- EN = 0 written while the enable still waits for PD_MEDIA: nothing waits any more. -/
def State.mediaCancel (s : State) (p : Nat) : State :=
  { s with pmc := { s.pmc with mediaWake := s.pmc.mediaWake.filter (· != p) } }

/-- A write of SRC_CTL (R352, R355). -/
def State.srcCtlWrite (s : State) (p v : Nat) : State :=
  let s := if bits v 29 29 = 1 then s.setSrcField p 29 29 0 else s
  let on := s.srcEn p
  let s := if on then s else (s.setSrcField p 28 19 (bits v 28 19)).setSrcField p 15 0 (bits v 15 0)
  let s := if bits v 30 30 = 1 then s.srcCommit p else s
  if bits v 31 31 = 1 then (if on then s else s.srcEnable p)
  else (s.mediaCancel p).setSrcField p 31 31 0

/-- SRC_ENABLE (R334): a write of SRC_CTL. A code that is no real-time source has no such register. -/
def execSrcEnable (w : World) (psrc : Byte) (ctl : W32) (s : State) : Host.Outcome State Fault Refusal :=
  .next <|
    match srcReg psrc.toNat with
    | some r => s.regOp w r.addr true fun s => s.srcCtlWrite psrc.toNat ctl.toNat
    | none => s

/-- COMMIT (R352): a write of SRC_CTL that sets COMMIT and leaves the other fields. -/
def execCommit (w : World) (psrc : Byte) (s : State) : Host.Outcome State Fault Refusal :=
  .next <|
    match srcReg psrc.toNat with
    | some r => s.regOp w r.addr true fun s => s.srcCommit psrc.toNat
    | none => s

end Sys2Proof.Machine
end

