-- ==== Sys2Proof/Machine/Rings.lean ====
section
/-! DEFINITION. Frame rings (R224 to R230, R277) and the commands RING_ENABLE, RING_DISABLE, FR_PORT_ACQUIRE and
FR_PORT_RELEASE. A slot is PRODUCER while the producer port holds it, CONSUMER while it is listed in `pub`, and FREE
otherwise. -/

namespace Sys2Proof.Machine

open Sys2Proof

/-! ### Slots -/

def Ring.cseqOf (x : Ring) (k : Nat) : Nat := mget (fun _ => 0) x.cseq k

/-- Whether a slot is FREE (R225). -/
def Ring.free (x : Ring) (i : Nat) : Bool :=
  !(x.pub.any fun p => p.slot == i) && !(match x.prod with
    | some h => h.slot == i
    | none => false)

/-! ### Transitions (Table 9.10) -/

/-- Producer acquire: the ring is ENABLED, the port is free and slot PSEQ mod SLOTS is FREE. -/
def State.prodAcquire (s : State) (r : Nat) (h : Holder) : Option (Nat × State) :=
  let x := s.ring r
  let i := x.pseq % s.ringSlots r
  if x.state = 1 ∧ x.prod = none ∧ x.free i = true then some (i, s.setRing r { x with prod := some ⟨i, h⟩ }) else none

/-- Consumer acquire on port `k`: the ring is ENABLED, the port is free and CSEQ[k] < PSEQ. -/
def State.consAcquire (s : State) (r k : Nat) (h : Holder) : Option (Nat × State) :=
  let x := s.ring r
  let i := x.cseqOf k % s.ringSlots r
  if x.state = 1 ∧ (mfind x.cons k).isNone ∧ x.cseqOf k < x.pseq then
    some (i, s.setRing r { x with cons := minsert k ⟨i, h⟩ x.cons })
  else none

/-- The published slots that every port has gone past, and that no port holds. -/
def Ring.dead (x : Ring) (n : Nat) : List PubSlot :=
  x.pub.filter fun p =>
    ((List.range n).all fun k => decide (p.seq < x.cseqOf k)) && !(x.cons.any fun c => c.2.slot == p.slot)

/-- Each dead slot becomes FREE, FSEQ rises by one and the free fence is signalled with it. -/
def State.freeSlots (s : State) (r : Nat) : List PubSlot → State
  | [] => s
  | p :: t =>
    let x := s.ring r
    let y := { x with pub := x.pub.filter (· ≠ p), fseq := x.fseq + 1 }
    ((s.setRing r y).ringSignal (s.ringCtx r) (s.fget (.frFence r) 48 32) y.fseq).freeSlots r t

/-- Pins released once by an owner of entries `ps`. -/
def unpin (pmt : SMap PmtEntry) : List Nat → SMap PmtEntry
  | [] => pmt
  | i :: t =>
    match mfind pmt i with
    | some e => unpin (minsert i { e with pin := e.pin - 1 } pmt) t
    | none => unpin pmt t

/-- What follows every release, every end of a holder and the write of EN = 0 (R225, R229): in a DRAINING ring every
port that holds nothing gives up the published slots; dead slots become FREE; a DRAINING ring with every slot FREE
becomes DISABLED and unpins its entries. -/
def State.ringSettle (s : State) (r : Nat) : State :=
  let x := s.ring r
  let n := s.ringCons r
  let x := if x.state = 2 then
      { x with cseq := (List.range n).foldl (fun m k => if (mfind x.cons k).isNone then minsert k x.pseq m else m) x.cseq }
    else x
  let s := (s.setRing r x).freeSlots r (x.dead n)
  let y := s.ring r
  if y.state = 2 ∧ y.pub.isEmpty ∧ y.prod.isNone then
    { (s.setRing r { y with state := 0, pins := [] }) with pmt := unpin s.pmt y.pins }
  else s

/-- The bytes of a slot record (Table 9.11). -/
def slotRecord (seq valid drops psrc : Nat) (stamps : List Byte) : List Byte :=
  leBytes 8 seq ++ leBytes 4 valid ++ leBytes 2 (min drops 65535) ++ leBytes 1 psrc ++ leBytes 1 0 ++
    (if stamps.length = 48 then stamps else List.replicate 48 0)

/-- The write of a slot record. Where the producer gives no VALID_BYTES the field keeps what stands there: software writes it
itself (R354, Table 9.11) (DEDUCED, log entry 100). -/
def State.recordWrite (s : State) (ctx va seq : Nat) (valid : Option Nat) (drops psrc : Nat) (stamps : List Byte) :
    Option AccErr × State :=
  let d := slotRecord seq (valid.getD 0) drops psrc stamps
  match valid with
  | some _ => s.vwrite .gallery ctx va d
  | none =>
    match s.vwrite .gallery ctx va (d.take 8) with
    | (none, s) => s.vwrite .gallery ctx (va + 12) (d.drop 12)
    | (some e, s) => (some e, s)

/-- Producer release (R225): the record is written, the slot becomes CONSUMER, PSEQ rises and the fill fence is signalled
with it; a record write that fails sets RECERR and changes nothing else of this. -/
def State.prodRelease (s : State) (r : Nat) (valid : Option Nat) (drops : Nat) (stamps : List Byte) : State :=
  let x := s.ring r
  match x.prod with
  | none => s
  | some h =>
    let w := s.recordWrite (s.ringCtx r) (s.recVa r h.slot) x.pseq valid drops (s.ringPsrc r) stamps
    let s := match w.1 with
      | none => w.2
      | some _ => w.2.fset (.frCtl r) 4 4 1
    let y := { x with
      prod := none, pub := x.pub ++ [⟨h.slot, x.pseq⟩], pseq := x.pseq + 1, pubT := (s.now :: x.pubT).take 9 }
    ((s.setRing r y).ringSignal (s.ringCtx r) (s.fget (.frFence r) 16 0) y.pseq).ringSettle r

/-- Consumer release on port `k` (R225). -/
def State.consRelease (s : State) (r k : Nat) : State :=
  let x := s.ring r
  match mfind x.cons k with
  | none => s
  | some _ =>
    (s.setRing r { x with cons := merase k x.cons, cseq := minsert k (x.cseqOf k + 1) x.cseq }).ringSettle r

/-- A producer holder ends without release: the slot becomes FREE, PSEQ unchanged. -/
def State.prodEnd (s : State) (r : Nat) : State := (s.setRing r { s.ring r with prod := none }).ringSettle r

/-! ### Engines on rings (R131, R228) -/

/-- Ring operand `j` of the command on an engine: ring, consumer port. It is read from the live register S56 + j at issue, and an
outstanding write of that register is no hazard (DESIGN CHOICE, log entry 92). -/
def Engine.ringOp (x : Engine) (j : Nat) : Nat × Nat :=
  let w := (mget (fun _ => (0 : W64)) x.sregs (56 + j)).toNat
  (w % 64, bits w 10 8)

/-- The port number under which an engine holds: 0 for the producer port. -/
def portOf (p : Nat) (role : Role) : Nat := if role = .producer then 0 else p

/-- Whether RACQ or RREL of an operand in a role faults with ST_BOUND 0x0008 (R228). -/
def State.ringMisuse (s : State) (e j : Nat) (role : Role) (acq : Bool) : Bool :=
  let x := s.eng e
  let p := x.ringOp j
  let ctx := match x.task with
    | some t => t.ctx
    | none => 0
  s.ringCtx p.1 != s.pmtCtx ctx || !decide (p.2 < s.ringCons p.1) || (acq && role == .producer && s.ringPsrc p.1 != 0) ||
    x.held.contains (p.1, portOf p.2 role, role) == acq

/-- The acquire of a waiting or issuing RACQ: the slot handle lands in SD four cycles after issue. None while no slot is
ready. -/
def State.tryRacq (s : State) (e j sd : Nat) (role : Role) : Option State :=
  let x := s.eng e
  let p := x.ringOp j
  match x.task with
  | none => none
  | some t =>
    let before := s.ring p.1
    let got := match role with
      | .producer => s.prodAcquire p.1 (.task t.id)
      | .consumer => s.consAcquire p.1 p.2 (.task t.id)
    match got with
    | none => none
    | some (i, s) =>
      let h := (s.slotVa p.1 i) % 2 ^ 48 + i * 2 ^ 48
      let r : PendRes := ⟨x.cyc, x.cyc + 4, .sreg sd, 2 ^ 64 - 1, h, none, none, true⟩
      some ((s.keepRing e p.1 before).setEng e { x with
        run := if x.endHold || x.run == .ending then .ending else .issuing
        endHold := false
        held := x.held ++ [(p.1, portOf p.2 role, role)]
        pend := if sd = 0 then x.pend else x.pend ++ [r] })

/-- Engine `e`, if it waits for a slot of ring `r` in a role, acquires it when one is ready; the checks of R228 are made
again first. -/
def State.racqWake (s : State) (r : Nat) (role : Role) (port e : Nat) : State :=
  let x := s.eng e
  match x.run with
  | .waitRing j sd ro =>
    if ro = role ∧ (x.ringOp j).1 = r ∧ portOf (x.ringOp j).2 ro = port then
      if (s.ring r).state = 1 ∧ s.ringMisuse e j ro true = true then
        s.issueFault e .m ⟨stBound, 8, j⟩
      else
        match s.tryRacq e j sd ro with
        | some t => t
        | none => s
    else s
  | _ => s

/-- Waiting engines after a change of ring `r`, the producer before consumers, ports in increasing order (R226). -/
def State.ringWake (s : State) (r : Nat) : State :=
  let es := List.range 6
  let s := es.foldl (fun t e => t.racqWake r .producer 0 e) s
  (List.range 8).foldl (fun t k => es.foldl (fun t e => t.racqWake r .consumer k e) t) s

/-- A release by an engine in a role. -/
def State.engRelease (s : State) (r port : Nat) (role : Role) : State :=
  (match role with
   | .producer => s.prodRelease r (some (s.ringStride r)) 0 []
   | .consumer => s.consRelease r port).ringWake r

/-- Slots that a command still holds when it ends (R225): the producer's slot becomes FREE, a consumer's is released. -/
def State.ringEnds (s : State) : List (Nat × Nat × Role) → State
  | [] => s
  | h :: t =>
    ((match h.2.2 with
      | .producer => s.prodEnd h.1
      | .consumer => s.consRelease h.1 h.2.1).ringWake h.1).ringEnds t

/-! ### Pins (R275, R277) -/

/-- The PMT entries that cover a virtual range, none where a byte is unmapped. The range is walked page by page. -/
def State.coverFrom (s : State) (ctx hi : Nat) : Nat → Nat → Option (List Nat)
  | 0, va => if va < hi then none else some []
  | k + 1, va =>
    if hi ≤ va then some []
    else
      match s.pmtEntry ctx va with
      | none => none
      | some i =>
        match mfind s.pmt i with
        | none => none
        | some e =>
          let step := if e.size then 2 ^ 21 else 2 ^ 16
          (s.coverFrom ctx hi k (va / step * step + step)).map fun t => if t.contains i then t else i :: t

/-- The entries that cover `n` bytes from `va` up. -/
def State.cover (s : State) (ctx va n : Nat) : Option (List Nat) := s.coverFrom ctx (va + n) (n / 65536 + 2) va

/-- Every entry's PIN raised by one. -/
def pinAll (pmt : SMap PmtEntry) : List Nat → SMap PmtEntry
  | [] => pmt
  | i :: t =>
    match mfind pmt i with
    | some e => pinAll (minsert i { e with pin := e.pin + 1 } pmt) t
    | none => pinAll pmt t

/-- Whether an entry's PIN is 4,095. -/
def pinFull (pmt : SMap PmtEntry) (i : Nat) : Bool :=
  match mfind pmt i with
  | some e => e.pin == 4095
  | none => false

/-- Lists without repeats. -/
def union (a b : List Nat) : List Nat := a ++ b.filter fun x => !a.contains x

/-- The entries a ring pins, none where its enable is refused for them (R277). -/
def State.ringPins (s : State) (r : Nat) : Option (List Nat) :=
  match s.cover (s.ringCtx r) (s.slotVa r 0) (s.ringSlots r * s.ringStride r),
        s.cover (s.ringCtx r) (s.recVa r 0) (64 * s.ringSlots r) with
  | some a, some b => if (union a b).any (pinFull s.pmt) then none else some (union a b)
  | _, _ => none

/-! ### Commands -/

/-- RING_ENABLE (R229, R333, R336): a write of EN = 1. -/
def execRingEnable (w : World) (r : Fin 64) (s : State) : Host.Outcome State Fault Refusal :=
  .next <|
    s.regOp w (Reg.frCtl r.val |>.addr) true fun s =>
      let x := s.ring r.val
      if x.state = 1 then s
      else if x.state = 2 then s.fset (.frCtl r.val) 3 3 1
      else if 3 ≤ s.ringSlots r.val ∧ s.ringSlots r.val ≤ 64 ∧ 1 ≤ s.fget (.frCfg r.val) 63 48 ∧ s.ringPsrcOk r.val = true then
        match s.ringPins r.val with
        | none => s.fset (.frCtl r.val) 3 3 1
        | some ps =>
          (({ (s.setRing r.val { state := 1, pins := ps }) with pmt := pinAll s.pmt ps } : State).fset
            (.frCtl r.val) 0 0 1).ringWake r.val
      else s.fset (.frCtl r.val) 3 3 1

/-- RING_DISABLE (R229): a write of EN = 0 makes an ENABLED ring DRAINING. -/
def execRingDisable (w : World) (r : Fin 64) (s : State) : Host.Outcome State Fault Refusal :=
  .next <|
    s.regOp w (Reg.frCtl r.val |>.addr) true fun s =>
      let s := s.fset (.frCtl r.val) 0 0 0
      if (s.ring r.val).state = 1 then (s.setRing r.val { s.ring r.val with state := 2 }).ringSettle r.val else s

/-- FR_PORT_RES after an operation (R230). -/
def State.portRes (s : State) (r : Nat) (ok : Bool) (slot : Nat) : State :=
  s.rset (.frPortRes r) (if ok then 65536 + slot else s.fget (.frPortRes r) 5 0)

/-- FR_PORT_ACQUIRE (R230). -/
def execFrPortAcquire (w : World) (r : Fin 64) (role : Role) (port : Fin 8) (s : State) :
    Host.Outcome State Fault Refusal :=
  .next <|
    s.regOp w (Reg.frPortOp r.val |>.addr) true fun s =>
      let got := match role with
        | .producer => if s.ringPsrc r.val ≠ 0 then none else s.prodAcquire r.val .software
        | .consumer => if port.val < s.ringCons r.val then s.consAcquire r.val port.val .software else none
      match got with
      | some (i, t) => t.portRes r.val true i
      | none => s.portRes r.val false 0

/-- FR_PORT_RELEASE (R230): acts only on a slot that software holds in that role and port. -/
def execFrPortRelease (w : World) (r : Fin 64) (role : Role) (port : Fin 8) (s : State) :
    Host.Outcome State Fault Refusal :=
  .next <|
    s.regOp w (Reg.frPortOp r.val |>.addr) true fun s =>
      match role with
      | .producer =>
        match (s.ring r.val).prod with
        | some ⟨i, .software⟩ => ((s.prodRelease r.val none 0 []).portRes r.val true i).ringWake r.val
        | _ => s.portRes r.val false 0
      | .consumer =>
        match mfind (s.ring r.val).cons port.val with
        | some ⟨i, .software⟩ =>
          if port.val < s.ringCons r.val then ((s.consRelease r.val port.val).portRes r.val true i).ringWake r.val
          else s.portRes r.val false 0
        | _ => s.portRes r.val false 0

end Sys2Proof.Machine
end

