-- ==== Sys2Proof/Machine/Engine.lean ====
section
/-! DEFINITION. The engine in time: the layer blocks (R165, R166), control flow (R96, R101, R127, R175), the cycle in which
results, stores, signals and faults take effect (R98, R106, R107, R120, R128 to R131), and the issue of one slot of a
bundle (R104, R107, R108). The commands of a bundle arrive one slot after another: FWAIT first, then C, A, M, V. -/

namespace Sys2Proof.Machine

open Sys2Proof

/-! ### Layer parameter blocks -/

/-- Signed 32-bit field. -/
def s32At (bs : List Byte) (off : Nat) : Int := sx 32 (fieldAt bs off 4)

/-- A layer parameter block from its 128 bytes (Table 7.2). -/
def parseLayer (bs : List Byte) : LayerBlk where
  invS := fieldAt bs 0 4
  zx := s32At bs 4
  zy := s32At bs 8
  qmin := s32At bs 12
  qmax := s32At bs 16
  arg0 := fieldAt bs 20 4
  arg1 := fieldAt bs 24 4
  tfmt := fieldAt bs 28 1 % 16
  ovf := fieldAt bs 28 1 / 16 % 2 == 1
  act := fieldAt bs 29 1 % 16
  pslot := fieldAt bs 30 1 % 64
  psub := fieldAt bs 31 1 % 16
  pcnt := fieldAt bs 32 1 + 1
  mmode := fieldAt bs 33 1 % 4
  guardB := fieldAt bs 34 1
  satThr := fieldAt bs 36 4
  headThr := fieldAt bs 40 4
  nanLim := fieldAt bs 44 4
  minOuts := fieldAt bs 48 4
  ch0 := fieldAt bs 52 2
  nch := fieldAt bs 54 2 + 1
  dec := fieldAt bs 56 4
  alt := fieldAt bs 60 2
  altLpi := fieldAt bs 62 2
  rrLatest := fieldAt bs 64 4
  start := fieldAt bs 68 4
  in0 := (fieldAt bs 72 4, fieldAt bs 76 4)
  in1 := (fieldAt bs 80 4, fieldAt bs 84 4)
  inRings := fieldAt bs 88 1

/-- The image that the engine's command runs. -/
def State.imageOf (s : State) (e : Nat) : Option Image :=
  match (s.eng e).task with
  | some t => mfind s.images t.image
  | none => none

/-- Physical address of the layer parameter section and the number of its blocks and channel records. -/
def State.layerSec (s : State) (e : Nat) : Option (Nat × Nat × Nat) :=
  match s.imageOf e with
  | some i => i.layOff.map fun o => ((s.eng e).pa e o, i.layers, i.chrecs)
  | none => none

/-- Block `j` as the task region holds it now (R168). -/
def State.layer (s : State) (e j : Nat) : Option LayerBlk :=
  match s.layerSec e with
  | some (p, _, _) => some (parseLayer (s.bytes (p + 64 + 128 * j) 128))
  | none => none

/-- The blocks with their indices. -/
def State.layers (s : State) (e : Nat) : List (Nat × LayerBlk) :=
  match s.layerSec e with
  | some (p, n, _) => (List.range n).map fun j => (j, parseLayer (s.bytes (p + 64 + 128 * j) 128))
  | none => []

/-- GMODE as sampled at the command's start (R182). -/
def Engine.gmode (x : Engine) : Nat := x.pntCtl % 4

/-- The block whose decision bundle is the one about to issue, with an effective mode that is not off. -/
def State.decisionDue (s : State) (e : Nat) : Option (Nat × LayerBlk) :=
  let x := s.eng e
  (s.layers e).find? fun p => p.2.dec == x.ctl.pc && effMode x.gmode p.2.mmode != 0

/-- Whether the engine stands at a decision bundle that has not been decided. -/
def State.undecided (s : State) (e : Nat) : Bool :=
  let x := s.eng e
  x.ctl.hold == 0 && !x.ctl.decided && (s.decisionDue e).isSome

/-- The input guards that are open as the present bundle issues (R179): those open before, and those whose START_BUNDLE it
is; at a decision bundle that takes no decision, that block's guard closes. The stores of a START_BUNDLE are guarded, those of a
decision bundle are not (DESIGN CHOICE, log entry 94). -/
def State.guardsNow (s : State) (e : Nat) : List Nat :=
  let x := s.eng e
  let ls := s.layers e
  let opens := (ls.filter fun p => p.2.start == x.ctl.pc && p.2.dec != 0xFFFFFFFF).map (·.1)
  let shuts := (ls.filter fun p => p.2.dec == x.ctl.pc && effMode x.gmode p.2.mmode == 0).map (·.1)
  (union x.guards opens).filter fun j => !shuts.contains j

/-- The bundle of the present cycle has issued: its guards stand. -/
def State.guardIssue (s : State) (e : Nat) : State := s.setEng e { s.eng e with guards := s.guardsNow e }

/-- Whether `n` bytes at a task-relative offset overlap an open retained input range (R179). -/
def State.guarded (s : State) (e : Nat) (off : Int) (n : Nat) : Bool :=
  (s.guardsNow e).any fun j =>
    match s.layer e j with
    | none => false
    | some b =>
      let hit (r : Nat × Nat) : Bool := r.2 != 0 && decide (off < (r.1 + r.2 : Nat) ∧ (r.1 : Int) < off + n)
      hit b.in0 || hit b.in1

/-- The reads that give a store the ranges of the open guards: their blocks, by address and length. -/
def State.guardReads (s : State) (e : Nat) : List (Nat × Nat) :=
  match s.layerSec e with
  | some (p, _, _) => (s.guardsNow e).map fun j => (p + 64 + 128 * j, 128)
  | none => []

/-- The first of some reads of the slice that gives no data, as the fault that its bundle takes (R107, R194, R407). -/
def State.lostRead (s : State) (e slot : Nat) (rs : List (Nat × Nat)) : Option FaultRec :=
  let x := s.eng e
  rs.findSome? fun r => match (s.ownRead r.1 r.2).1 with
    | .error f => some ⟨f.1, f.2, x.ctl.pc, slot, (r.1 - sliceBase e - x.tbase) % 2 ^ 32⟩
    | .ok _ => none

/-! ### Control flow -/

/-- Where control goes when it would next reach bundle `n`: past the end of a body it returns to the first bundle for
the next iteration, or leaves the loop (R101, R127). -/
def loopBack (n : Nat) : List LoopFrame → Nat × List LoopFrame
  | [] => (n, [])
  | f :: t =>
    if f.last + 1 = n then
      if 1 < f.left then (f.first, { f with idx := f.idx + 1, left := f.left - 1 } :: t) else loopBack n t
    else (n, f :: t)

/-- Control after the present bundle has issued. A taken branch, a skipped body and the end of an alternate body each
leave two cycles without issue (R127, R175). -/
def Ctl.next (c : Ctl) : Ctl :=
  let r := loopBack (c.redirect.getD (c.pc + 1)) c.loops
  let c' : Ctl := { c with
    pc := r.1
    hold := if c.redirect.isSome then 2 else 0
    redirect := none
    loops := r.2
    decided := false }
  match c.altRet with
  | some d => if r.1 = c.altLast + 1 then { c' with pc := d, hold := 2, altRet := none } else c'
  | none => c'

/-- Control over one non-stalled cycle. A bundle of no operations starts ELAPSED as well as any other, where it is the
command's first (R173). -/
def State.control (s : State) (e : Nat) : State :=
  let x := s.eng e
  if x.run ≠ .issuing then s
  else if x.ctl.hold ≠ 0 then s.setEng e { x with ctl := { x.ctl with hold := x.ctl.hold - 1 } }
  else (s.guardIssue e).modEng e fun x => { x.start with ctl := x.ctl.next }

/-! ### What lands in a cycle -/

/-- The data of a remote load when its reply arrives (R130): checks of regions and windows, then the read. An uncorrectable
error on remote data reports the low 32 bits of the virtual address (DESIGN CHOICE, log entry 65). -/
def State.remoteReply (s : State) (p : PendRes) (r : RemoteLoad) : PendRes × State :=
  match s.piecesCheck .gallery false false r.pieces with
  | (some a, s) => ({ p with rld := none, fault := some ⟨a.st, a.sub, r.pc, 2, (a.from r.va).det⟩ }, s)
  | (none, s) =>
    match s.readPieces 1 r.pieces with
    | (none, s) => ({ p with rld := none, fault := some ⟨stEccUncorr, 0, r.pc, 2, r.va % 2 ^ 32⟩ }, s)
    | (some bs, s) => ({ p with rld := none, val := le bs <<< (8 * r.pos) }, s)

/-- A result at its cycle: written, unless a fault was found in the data it waits for (R107). -/
def State.landRes (s : State) (e : Nat) (p : PendRes) : State :=
  let q := match p.rld with
    | some r => s.remoteReply p r
    | none => (p, s)
  q.2.modEng e fun x =>
    match q.1.fault with
    | some f => x.setLate f
    | none => x.land q.1

def PendRes.isPal (p : PendRes) : Bool :=
  match p.dest with
  | .pal .. => true
  | _ => false

/-- The results due by the present cycle land: palette writes, or all others. -/
def State.landDue (s : State) (e : Nat) (pal : Bool) : State :=
  let x := s.eng e
  let due (p : PendRes) : Bool := decide (p.due ≤ x.cyc) && p.isPal == pal
  (x.pend.filter due).foldl (fun t p => t.landRes e p) (s.setEng e { x with pend := x.pend.filter fun p => !due p })

/-- One posted remote store performed; a refused one is not applied, in part or in full (R130). -/
def State.postOne (s : State) (e : Nat) (p : Posted) : State :=
  match s.piecesCheck .gallery false true p.pieces with
  | (some a, s) => s.modEng e fun x => x.setLate ⟨a.st, a.sub, p.pc, 2, (a.from p.va).det⟩
  | (none, s) =>
    match s.writePieces 1 p.pieces p.data with
    | (true, s) => s
    | (false, s) => s.modEng e fun x => x.setLate ⟨stEccUncorr, 0, p.pc, 2, p.va % 2 ^ 32⟩

def State.postDue (s : State) (e : Nat) : State :=
  let x := s.eng e
  x.posted.foldl (fun t p => t.postOne e p) (s.setEng e { x with posted := [] })

/-- One own-slice store performed (R106), or refused at the slice's own port (R407) (DESIGN CHOICE, log entry 65, for the
detail). -/
def State.storeOne (s : State) (e : Nat) (st : PendStore) : State :=
  match s.ownWrite st.addr st.data with
  | (none, s) => s
  | (some f, s) => s.modEng e fun x => x.setLate ⟨f.1, f.2, st.pc, 2, (st.addr - sliceBase e - x.tbase) % 2 ^ 32⟩

def State.storesDue (s : State) (e : Nat) : State :=
  let x := s.eng e
  (x.stores.filter fun st => decide (st.due ≤ x.cyc)).foldl (fun t st => t.storeOne e st)
    (s.setEng e { x with stores := x.stores.filter fun st => !decide (st.due ≤ x.cyc) })

/-- A signal or a ring release takes effect (R128, R131). -/
def State.syncOne (s : State) (e : Nat) (y : PendSync) : State :=
  match y.act with
  | .signal f v =>
    let r := s.signal f v.toNat
    r.2.modEng e fun x => { x with ooo := x.ooo || r.1 }
  | .release r port role => s.engRelease r port role

/-- Whether a write that the program issued by cycle `c` has not been performed: a posted store, an own-slice store, or an
ACM write of a Canvas instruction (R95, R128, R131). -/
def Engine.owesWrite (x : Engine) (c : Nat) : Bool :=
  !x.posted.isEmpty || (x.stores.any fun st => decide (st.iss ≤ c)) || (x.rows.any fun w => decide (w.iss ≤ c)) ||
    x.ops.any fun o => decide (o.k ≠ 0 ∧ o.issue ≤ c ∧ x.cyc < o.issue + o.steps + 263)

/-- The signals and releases whose earlier writes have all been performed, in program order. -/
def State.syncsDue (s : State) (e : Nat) : State :=
  let x := s.eng e
  let ready (y : PendSync) : Bool := !x.owesWrite y.iss
  (x.syncs.filter ready).foldl (fun t y => t.syncOne e y)
    (s.setEng e { x with syncs := x.syncs.filter fun y => !ready y })

/-- A bundle boundary (R107, R108, R117, R391): a fault found late ends the command, else a stop request does; one found in
the cycle in which a bundle faulted is ranked with that fault; an engine whose floor was withdrawn stops in a budget
wait. -/
def State.boundary (s : State) (e : Nat) : State :=
  let x := s.eng e
  let live := x.run == .issuing || (x.run == .ending && x.endRec.status == stOk)
  match x.late with
  | some f =>
    if live then s.engStop e f true
    else if x.run == .ending && x.faulted && decide (x.cyc ≤ x.endCyc + 1) then s.setEng e { x.rerank f with late := none }
    else s.setEng e { x with late := none }
  | none =>
    if x.stop && x.run == .issuing then s.engStop e ⟨stAborted, 0, x.ctl.pc, 0, 0⟩ false
    else if !x.floorHeld && x.run == .issuing then (s.setEng e { x with run := .budget, alloc := 0, fall := none }).followCap
    else if x.run == .ending then s.fqCancelAll e
    else s

/-- Whether a bundle issues in the present cycle. -/
def Engine.issues (x : Engine) : Bool := x.run == .issuing && x.ctl.hold == 0

/-- The counters of one non-stalled cycle (R98, R173); `iss` says that a bundle issued in it (R382). -/
def Engine.tock (x : Engine) (iss : Bool) : Engine :=
  { x with cyc := x.cyc + 1, clk := x.clk + 1, neCyc := (x.neCyc + 1) % 2 ^ 64, elapsed := x.elapsed + 1, opened := false,
           noIssue := if iss then 0 else x.noIssue + 1 }

/-- A PHASE of the bundle takes effect on the budget (R390, R391). -/
def State.phaseDue (s : State) (e : Nat) : State :=
  match (s.eng e).phaseEnd with
  | none => s
  | some old =>
    let x := s.eng e
    let s := (s.setEng e { x with phaseEnd := none }).learnPhase e (x.phaseKey.1, old)
    (s.touchNeed x.phaseKey).allocate

/-- The slice reads of the bundle that has issued pass the decoder: their corrections and errors are counted (R194, R196,
R197). -/
def State.readsDue (s : State) (e : Nat) : State :=
  let x := s.eng e
  x.reads.foldl (fun t r => (t.ownRead r.1 r.2).2) (s.setEng e { x with reads := [] })

/-- One non-stalled ENGCLK cycle of engine `e`. Canvas lookups of the cycle see palettes as they were before its palette
writes (R50); ACM rows are written at the end of the cycle (R67). After a thermal trip the clock stands (R394). -/
def tick (e : Nat) (s : State) : State :=
  if s.tripped then s else
  let s := (canvasCycle (s.readsDue e) e).modEng e Engine.performRows
  let s := (s.landDue e true).postDue e
  let iss := (s.eng e).issues
  let s := ((s.control e).modEng e fun x => x.tock iss).suppress e 1
  ((((s.landDue e false).storesDue e).syncsDue e).phaseDue e).boundary e

/-- Whether an activity ramp begins before the engine issues again (R382). -/
def Engine.rampDue (x : Engine) : Bool := x.ramp || (decide (64 ≤ x.noIssue) && x.ctl.hold == 0)

/-- `n` cycles of an engine that issues; false where it stops issuing, reaches a decision, or has a ramp to make, before they have
passed. -/
def advance (e : Nat) : Nat → State → State × Bool
  | 0, s => (s, true)
  | n + 1, s =>
    if (s.eng e).run = .issuing ∧ s.undecided e = false ∧ (s.eng e).rampDue = false then advance e n (tick e s) else (s, false)

/-! ### Issue of one slot -/

/-- Whether a slot can issue: the engine issues and no bubble, decision or ramp stands before the bundle, or the bundle has
begun and only waits for its queue or ring, or holds END. -/
def State.canIssue (s : State) (e dt : Nat) : Bool :=
  let x := s.eng e
  match x.run with
  | .issuing => x.ctl.hold == 0 && !s.undecided e && !x.rampDue
  | .waitFq .. => dt == 0 && x.opened
  | .waitRing .. => dt == 0 && x.opened
  | .ending => dt == 0 && x.opened && x.endRec.status == stOk
  | _ => false

/-- The state by which the further slots of a faulted bundle are judged: the engine and its ring as the bundle found
them. -/
def State.atBundle (s : State) (e : Nat) : State :=
  match mfind s.snaps e with
  | none => s
  | some p =>
    let t := s.setEng e p.eng
    match p.ring with
    | some (r, x) => { t with rings := minsert r x t.rings }
    | none => t

/-- A further slot of a bundle that has faulted. -/
def State.furtherFault (s : State) (e : Nat) (slot : Slot) (chk : State → Option AccErr) : State :=
  match chk (s.atBundle e) with
  | none => s
  | some a => s.modEng e fun x => x.rerank ⟨a.st, a.sub, x.endRec.pc, slotNo slot, a.det⟩

/-- The registers that a slot reads are kept for the bundle's later slots. -/
def Engine.noteReads (x : Engine) (rd : List Dest) : Engine := { x with regReads := x.regReads ++ rd }

/-- One slot of the bundle that issues `h.dt` cycles after the engine's previous issue: its checks, then its effect; `rd` are
the registers that it reads. Nothing issues after a thermal trip, or while the engine is not ACTIVE
(R386, R387, R394). -/
def issue (h : Issue) (slot : Slot) (rd : List Dest) (chk : State → Option AccErr) (eff : State → State) (s : State) :
    State :=
  let e := h.ne.val
  let r := advance e h.dt s
  if s.tripped || (s.eng e).idle != .active then s
  else if r.2 && r.1.canIssue e h.dt then
    let t := r.1.openBundle e
    match chk t with
    | none => (eff t).modEng e fun x => x.noteReads rd
    | some a => t.issueFault e slot a
  else if h.dt = 0 ∧ (s.eng e).run = .ending ∧ (s.eng e).opened = true then s.furtherFault e slot chk
  else r.1

/-- An instruction that the loader verifier rejects at decode is no instruction of a program (R119)
(DEDUCED, log entry 57). -/
def wfOr (ok : Bool) (s : State) : Host.Outcome State Fault Refusal :=
  if ok then .next s else .fault .reservedEncoding

end Sys2Proof.Machine
end

