-- ==== Sys2Proof/Machine/EngineScalar.lean ====
section
/-! DEFINITION. A-slot instructions (Tables 5.3 and 5.4; R101, R110, R126 to R128). CX acts only as the companion of CMM
and is part of that instruction. -/

namespace Sys2Proof.Machine

open Sys2Proof

/-! ### Scalar arithmetic (R126) -/

/-- Table 5.4. Arithmetic wraps; shifts use the low 6 bits. -/
def sfn (fn : SFn) (a b : W64) : W64 :=
  match fn with
  | .add => a + b
  | .sub => a - b
  | .and => a &&& b
  | .or => a ||| b
  | .xor => a ^^^ b
  | .shl => a <<< (b.toNat % 64)
  | .shr => a >>> (b.toNat % 64)
  | .sra => a.sshiftRight (b.toNat % 64)
  | .mul => a * b
  | .min => if a.slt b then a else b
  | .max => if a.slt b then b else a
  | .minu => if a.ult b then a else b
  | .maxu => if a.ult b then b else a
  | .slt => if a.slt b then 1 else 0
  | .sltu => if a.ult b then 1 else 0

/-- MUL is a multi-cycle write (Table 5.8). -/
def sfnLat (fn : SFn) : Nat := if fn = .mul then 3 else 1

/-- A scalar register as a word. -/
def Engine.sw (x : Engine) (r : Nat) : W64 := BitVec.ofNat 64 (x.sreg r)

/-- A scalar result of the present bundle. -/
def State.putS (s : State) (e lat sd : Nat) (v : W64) : State :=
  s.modEng e fun x => x.putA lat (.sreg sd) allS v.toNat

/-- Checks of an instruction that reads scalar registers and writes one. -/
def scalarChk (e lat : Nat) (rs : List Nat) (sd : Nat) (s : State) : Option AccErr :=
  worst ((rs.map fun r => (s.eng e).needS r) ++ [(s.eng e).orderA lat (.sreg sd) allS])

/-- SALU. -/
def execSalu (h : Issue) (sd sa sb : Fin 64) (fn : SFn) (s : State) : Host.Outcome State Fault Refusal :=
  let e := h.ne.val
  .next (issue h .a [.sreg sa.val, .sreg sb.val] (scalarChk e (sfnLat fn) [sa.val, sb.val] sd.val)
    (fun s => s.putS e (sfnLat fn) sd.val (sfn fn ((s.eng e).sw sa.val) ((s.eng e).sw sb.val))) s)

/-- SALUI. -/
def execSalui (h : Issue) (sd sa : Fin 64) (fn : SFn) (imm : W32) (s : State) : Host.Outcome State Fault Refusal :=
  let e := h.ne.val
  .next (issue h .a [.sreg sa.val] (scalarChk e (sfnLat fn) [sa.val] sd.val)
    (fun s => s.putS e (sfnLat fn) sd.val (sfn fn ((s.eng e).sw sa.val) (imm.signExtend 64))) s)

/-- LIL. -/
def execLil (h : Issue) (sd : Fin 64) (imm : W32) (s : State) : Host.Outcome State Fault Refusal :=
  let e := h.ne.val
  .next (issue h .a [] (scalarChk e 1 [] sd.val) (fun s => s.putS e 1 sd.val (imm.signExtend 64)) s)

/-- LIH: the low half keeps its value read at issue. -/
def execLih (h : Issue) (sd : Fin 64) (imm : W32) (s : State) : Host.Outcome State Fault Refusal :=
  let e := h.ne.val
  .next (issue h .a [.sreg sd.val] (scalarChk e 1 [sd.val] sd.val)
    (fun s => s.putS e 1 sd.val (imm ++ ((s.eng e).sw sd.val).truncate 32)) s)

/-- Special registers (Tables 4.1 and 5.3). CTXID is the context of the command, 0 for every tag in tagged mode (R214). -/
def Engine.spr (x : Engine) (e : Nat) : Spr → Nat
  | .engid => e
  | .clkn => x.curN
  | .ctxid => x.lastCtx.getD 0
  | .cycle => x.neCyc
  | .phaseid => x.phaseid

/-- MOVSP. -/
def execMovsp (h : Issue) (sd : Fin 64) (spr : Spr) (s : State) : Host.Outcome State Fault Refusal :=
  let e := h.ne.val
  .next (issue h .a [] (scalarChk e 1 [] sd.val)
    (fun s => s.putS e 1 sd.val (BitVec.ofNat 64 ((s.eng e).spr e spr))) s)

/-- ARSET: effective for accesses of later cycles (R103). -/
def execArset (h : Issue) (ak : Fin 32) (fld : AField) (src : Src32) (s : State) : Host.Outcome State Fault Refusal :=
  let e := h.ne.val
  .next (issue h .a [.sreg (rnSrc src)] (fun s => worst [(s.eng e).needS (rnSrc src)])
    (fun s => s.modEng e fun x => x.put 1 (.areg ak.val fld) (2 ^ 32 - 1) (x.src32 src)) s)

/-! ### Control flow (R101, R127) -/

/-- A transfer to another bundle at the end of this one. -/
def State.redirectTo (s : State) (e target : Nat) : State :=
  s.modEng e fun x => { x with ctl := { x.ctl with redirect := some target } }

/-- LOOP. A count of zero skips the body at the cost of a taken branch. -/
def execLoop (h : Issue) (lvl : Fin 4) (cnt : LoopCount) (body : BitVec 16) (s : State) :
    Host.Outcome State Fault Refusal :=
  let e := h.ne.val
  wfOr (body != 0) (issue h .a [.sreg (rnLoop cnt)] (fun s => worst [(s.eng e).needS (rnLoop cnt)])
    (fun s =>
      let x := s.eng e
      let c := x.ctl
      let n := x.loopCount cnt
      if n = 0 then s.redirectTo e (c.pc + body.toNat + 1)
      else s.setEng e { x with ctl := { c with loops := ⟨lvl.val, c.pc + 1, c.pc + body.toNat, 0, n⟩ :: c.loops } }) s)

/-- BRZ. -/
def execBrz (h : Issue) (sa : Fin 64) (off : BitVec 20) (s : State) : Host.Outcome State Fault Refusal :=
  let e := h.ne.val
  wfOr (off != 0) (issue h .a [.sreg sa.val] (fun s => worst [(s.eng e).needS sa.val])
    (fun s => if (s.eng e).sreg sa.val = 0 then s.redirectTo e ((s.eng e).ctl.pc + off.toNat) else s) s)

/-- BRNZ. -/
def execBrnz (h : Issue) (sa : Fin 64) (off : BitVec 20) (s : State) : Host.Outcome State Fault Refusal :=
  let e := h.ne.val
  wfOr (off != 0) (issue h .a [.sreg sa.val] (fun s => worst [(s.eng e).needS sa.val])
    (fun s => if (s.eng e).sreg sa.val = 0 then s else s.redirectTo e ((s.eng e).ctl.pc + off.toNat)) s)

/-! ### Fences (R128) -/

/-- Context of the engine's command. -/
def Engine.ctx (x : Engine) : Nat :=
  match x.task with
  | some t => t.ctx
  | none => 0

/-- A fence number at or above COUNT (R288). -/
def State.fenceBad (s : State) (e f : Nat) : Option AccErr :=
  if (s.fenceMap (s.eng e).ctx f).isNone then some ⟨stBound, 0xD, f⟩ else none

/-- The engine begins a fence wait: its bundle has not issued (R128, R293). A task holds one registered wait, so a wait of its
fetch lists that is registered gives way (DESIGN CHOICE, log entry 71). -/
def State.beginFwait (s : State) (e rel dev target : Nat) (dl : Option Nat) : State :=
  let s := s.undoBundle e
  let x := s.eng e
  let w : WaitReg := ⟨x.task.map (·.id), .fwait, dev, rel, target, dl, s.clock.ticks⟩
  { s.setEng e { x with run := .waitFence, opened := false } with
    waits := (s.waits.filter fun v => !(v.task.isSome && v.task == w.task)) ++ [w] }

/-- Whether a fence has been orphaned for the engine's command (R239). -/
def State.orphaned (s : State) (e d : Nat) : Bool :=
  match (s.eng e).task with
  | none => false
  | some t =>
    match s.cmd? t.id.sq t.id.seq with
    | some c => c.orphans.contains d
    | none => false

/-- FWAIT: the bundle issues in the first cycle in which the fence has reached SV. -/
def execFwait (h : Issue) (sv : Fin 64) (f : FenceSel) (dl : Fin 64) (s : State) : Host.Outcome State Fault Refusal :=
  let e := h.ne.val
  .next (issue h .a [.sreg sv.val, .sreg (rnFence f), .sreg dl.val]
    (fun s =>
      let x := s.eng e
      worst [x.needS sv.val, x.needS (rnFence f), x.needS dl.val, s.fenceBad e (x.fenceNo f)])
    (fun s =>
      let x := s.eng e
      match s.fenceMap x.ctx (x.fenceNo f) with
      | none => s
      | some d =>
        if x.sreg sv.val ≤ (s.fence d).val.toNat then s
        else if s.orphaned e d then (s.undoBundle e).engStop e ⟨stAborted, 0, x.ctl.pc, 1, 0⟩ false
        else
          s.beginFwait e (x.fenceNo f) d (x.sreg sv.val) (if dl = 0 then none else some (s.now + x.sreg dl.val))) s)

/-- Whether the engine's command declares a device fence (R291, R292). -/
def Engine.declaresFence (x : Engine) (d : Nat) : Bool :=
  match x.task with
  | some t => t.declared.contains d
  | none => false

/-- FSIG: the signal takes effect once the writes of earlier bundles and its own have been performed. -/
def execFsig (h : Issue) (sv : Fin 64) (f : FenceSel) (s : State) : Host.Outcome State Fault Refusal :=
  let e := h.ne.val
  .next (issue h .a [.sreg sv.val, .sreg (rnFence f)]
    (fun s =>
      let x := s.eng e
      let n := x.fenceNo f
      worst [x.needS sv.val, x.needS (rnFence f), s.fenceBad e n,
        match s.fenceMap x.ctx n with
        | some d => if x.declaresFence d then none else some ⟨stBound, 0xE, n⟩
        | none => none])
    (fun s =>
      let x := s.eng e
      match s.fenceMap x.ctx (x.fenceNo f) with
      | some d => s.setEng e { x with syncs := x.syncs ++ [⟨x.cyc, .signal d (x.sw sv.val)⟩] }
      | none => s) s)

/-! ### PHASE and END -/

/-- PHASE (R110). The phase before it ends with the cycle, and the PMC allocates (R390, R391). -/
def execPhase (h : Issue) (ph : Byte) (s : State) : Host.Outcome State Fault Refusal :=
  let e := h.ne.val
  .next (issue h .a [] (fun _ => none) (fun s => s.modEng e fun x => { x with phaseid := ph.toNat, phaseEnd := some x.phaseid }) s)

/-- END: other slots of the bundle execute, later bundles do not issue (R95, R127). The fetch queues are cancelled at the
end of the cycle (R222). -/
def execEnd (h : Issue) (s : State) : Host.Outcome State Fault Refusal :=
  let e := h.ne.val
  .next (issue h .a [] (fun _ => none)
    (fun s => s.modEng e fun x => { x with run := .ending, endRec := ⟨stOk, 0, 0, 0, 0⟩ }) s)

end Sys2Proof.Machine
end

