-- ==== Sys2Proof/Machine/EngineMem.lean ====
section
/-! DEFINITION. M-slot instructions (Table 5.5; R129 to R132, R216 to R222, R228) and the engine's memory events:
BANK_GRANT (R187, R188), RLD_REPLY, OWN_STORE_PERFORMED, RESULT_WRITE and ACM_ROW_WRITE. -/

namespace Sys2Proof.Machine

open Sys2Proof

/-! ### Own slice -/

/-- A result owed by a load: its bytes at byte `pos` of the destination, or the fault found (R107, R407). What the
decoder records of the read follows at the cycle's end, when the bundle stands. -/
def State.loadOwn (s : State) (e lat : Nat) (d : Dest) (off : Int) (pos n : Nat) : State :=
  let x := s.eng e
  let p : PendRes := { iss := x.cyc, due := x.cyc + lat, dest := d, mask := maskAt (8 * pos) (8 * n), val := 0 }
  let q : PendRes := match (s.ownRead (x.pa e off) n).1 with
    | .ok bs => { p with val := le bs <<< (8 * pos) }
    | .error f => { p with fault := some ⟨f.1, f.2, x.ctl.pc, 2, (off % (2 ^ 32 : Int)).toNat⟩ }
  let y : Engine := { x with reads := x.reads ++ [(x.pa e off, n)] }
  s.setEng e (if d.null && q.fault.isNone then y else { y with pend := y.pend ++ [q] })

/-- Checks of a load through an address register. -/
def loadChk (e lat : Nat) (d : Dest) (ak : Nat) (imm : W32) (al pos n : Nat) (s : State) : Option AccErr :=
  let x := s.eng e
  let off := x.access ak imm al
  worst [x.order lat d (maskAt (8 * pos) (8 * n)), x.accessBad ak off n,
    x.storeHazard (x.pa e off) n (off % (2 ^ 32 : Int)).toNat]

/-- LD. -/
def execLd (h : Issue) (vd ak : Fin 32) (sz : Fin 7) (vpos : BitVec 6) (imm : W32) (s : State) :
    Host.Outcome State Fault Refusal :=
  let e := h.ne.val
  let n := szBytes sz
  let pos := 64 * vpos.toNat
  wfOr (Instr.wf (.ld h vd ak sz vpos imm)) (issue h .m [] (loadChk e 14 (.vreg vd.val) ak.val imm 64 pos n)
    (fun s => s.loadOwn e 14 (.vreg vd.val) ((s.eng e).access ak.val imm 64) pos n) s)

/-- LDS. -/
def execLds (h : Issue) (sd : Fin 64) (ak : Fin 32) (imm : W32) (s : State) : Host.Outcome State Fault Refusal :=
  let e := h.ne.val
  .next (issue h .m [] (loadChk e 14 (.sreg sd.val) ak.val imm 8 0 8)
    (fun s => s.loadOwn e 14 (.sreg sd.val) ((s.eng e).access ak.val imm 8) 0 8) s)

/-- Checks of a store: bound, limit, and the open input guards (R179). -/
def storeChk (e ak : Nat) (imm : W32) (al n : Nat) (s : State) : List (Option AccErr) :=
  let x := s.eng e
  let off := x.access ak imm al
  [x.accessBad ak off n, if s.guarded e off n then some ⟨stBound, 7, (off % (2 ^ 32 : Int)).toNat⟩ else none]

/-- An own-slice store, performed six cycles after issue (Table 5.8). The ranges of the open guards are read through the decoder;
where they cannot be read, the store is not performed and the fault is taken at the next bundle boundary (R107, R179, R194). -/
def State.storeOwn (s : State) (e : Nat) (off : Int) (bs : List Byte) : State :=
  let rs := s.guardReads e
  let lost := s.lostRead e 2 rs
  s.modEng e fun x =>
    let y : Engine := { x with reads := x.reads ++ rs }
    match lost with
    | some f => y.setLate f
    | none => { y with stores := y.stores ++ [⟨x.cyc, x.cyc + 6, x.ctl.pc, x.pa e off, bs⟩] }

/-- ST. -/
def execSt (h : Issue) (vs ak : Fin 32) (sz : Fin 7) (vpos : BitVec 6) (imm : W32) (s : State) :
    Host.Outcome State Fault Refusal :=
  let e := h.ne.val
  let n := szBytes sz
  wfOr (Instr.wf (.st h vs ak sz vpos imm)) (issue h .m [.vreg vs.val]
    (fun s => worst ((s.eng e).needV vs.val :: storeChk e ak.val imm 64 n s))
    (fun s => s.storeOwn e ((s.eng e).access ak.val imm 64)
      (leBytes n ((s.eng e).vreg vs.val >>> (512 * vpos.toNat)))) s)

/-- STS. -/
def execSts (h : Issue) (ss : Fin 64) (ak : Fin 32) (imm : W32) (s : State) : Host.Outcome State Fault Refusal :=
  let e := h.ne.val
  .next (issue h .m [.sreg ss.val] (fun s => worst ((s.eng e).needS ss.val :: storeChk e ak.val imm 8 8 s))
    (fun s => s.storeOwn e ((s.eng e).access ak.val imm 8) (leBytes 8 ((s.eng e).sreg ss.val))) s)

/-! ### Remote access (R130) -/

/-- The virtual address that SA gives: bits [47:0], bits [5:0] ignored. -/
def Engine.remoteVa (x : Engine) (sa : Nat) : Nat := x.sreg sa % 2 ^ 48 / 64 * 64

/-- A missing mapping (R274). -/
def State.remoteBad (s : State) (e sa n : Nat) (wr : Bool) : Option AccErr :=
  match s.xlatRange (s.eng e).ctx ((s.eng e).remoteVa sa) n wr with
  | .error a => some a
  | .ok _ => none

/-- The translated pieces. -/
def State.remotePieces (s : State) (e sa n : Nat) (wr : Bool) : List (Nat × Nat) :=
  match s.xlatRange (s.eng e).ctx ((s.eng e).remoteVa sa) n wr with
  | .error _ => []
  | .ok ps => ps

/-- RLD. -/
def execRld (h : Issue) (vd : Fin 32) (sa : Fin 64) (sz : Fin 7) (vpos : BitVec 6) (s : State) :
    Host.Outcome State Fault Refusal :=
  let e := h.ne.val
  let n := szBytes sz
  let pos := 64 * vpos.toNat
  wfOr (Instr.wf (.rld h vd sa sz vpos)) (issue h .m [.sreg sa.val]
    (fun s => worst [(s.eng e).needS sa.val, (s.eng e).order 320 (.vreg vd.val) (maskAt (8 * pos) (8 * n)),
      s.remoteBad e sa.val n false])
    (fun s =>
      let x := s.eng e
      let p : PendRes := {
        iss := x.cyc, due := x.cyc + 320, dest := .vreg vd.val, mask := maskAt (8 * pos) (8 * n), val := 0
        rld := some ⟨x.remoteVa sa.val, s.remotePieces e sa.val n false, pos, x.ctl.pc⟩ }
      s.setEng e { x with pend := x.pend ++ [p] }) s)

/-- RST: posted. -/
def execRst (h : Issue) (vs : Fin 32) (sa : Fin 64) (sz : Fin 7) (vpos : BitVec 6) (s : State) :
    Host.Outcome State Fault Refusal :=
  let e := h.ne.val
  let n := szBytes sz
  wfOr (Instr.wf (.rst h vs sa sz vpos)) (issue h .m [.vreg vs.val, .sreg sa.val]
    (fun s => worst [(s.eng e).needV vs.val, (s.eng e).needS sa.val, s.remoteBad e sa.val n true])
    (fun s =>
      let x := s.eng e
      s.setEng e { x with posted := x.posted ++ [⟨x.remoteVa sa.val, s.remotePieces e sa.val n true,
        leBytes n (x.vreg vs.val >>> (512 * vpos.toNat)), x.ctl.pc⟩] }) s)

/-! ### Fetch queues (R131, R216, R221, R222) -/

def Engine.fq (x : Engine) (q : Nat) : FetchQ := mget (fun _ => {}) x.fqs q

/-- What stops a pop: a cancelled queue (sub-code 0x000A), or a failed head entry. -/
def Engine.popBad (x : Engine) (q : Nat) : Option AccErr :=
  let f := x.fq q
  if f.state = 3 ∨ f.state = 4 then hazard 0xA q
  else
    match f.ents with
    | c :: _ => if c.st = .failed then some ⟨c.stat, c.sub, c.det⟩ else none
    | [] => none

/-- The head entry popped into VD, or a queue wait while none is ready. -/
def State.popFq (s : State) (e q vd : Nat) : State :=
  let x := s.eng e
  let f := x.fq q
  let ends := x.endHold || x.run == .ending
  let wait := s.setEng e { x with run := .waitFq q vd, endHold := ends }
  match f.ents with
  | [] => wait
  | c :: t =>
    if c.st = .ready then
      let y : Engine := { x with
        run := if ends then .ending else .issuing
        endHold := false
        fqs := minsert q ({ f with ents := t, ret := f.ret + 1 } : FetchQ).settle x.fqs }
      let s := s.setEng e (y.put 4 (.vreg vd) (maskAt 0 (512 * 2 ^ f.esz)) (le c.data))
      match mfind s.snaps e with
      | some p => { s with snaps := minsert e { p with pop := some (q, c) } s.snaps }
      | none => s
    else wait

/-- FQPOP. -/
def execFqpop (h : Issue) (vd : Fin 32) (q : Fin 8) (s : State) : Host.Outcome State Fault Refusal :=
  let e := h.ne.val
  .next (issue h .m []
    (fun s => worst [(s.eng e).order 4 (.vreg vd.val) allV, (s.eng e).popBad q.val])
    (fun s => s.popFq e q.val vd.val) s)

/-- An engine that waits for a queue, after the queue has changed. -/
def State.fqWake (s : State) (e : Nat) : State :=
  match (s.eng e).run with
  | .waitFq q vd =>
    match (s.eng e).popBad q with
    | some a => s.issueFault e .m a
    | none => s.popFq e q vd
  | _ => s

/-! ### Frame rings (R131, R228) -/

/-- RACQ. -/
def execRacq (h : Issue) (sd : Fin 64) (rng : Fin 8) (role : Role) (s : State) : Host.Outcome State Fault Refusal :=
  let e := h.ne.val
  .next (issue h .m []
    (fun s => worst [(s.eng e).order 4 (.sreg sd.val) allS,
      if s.ringMisuse e rng.val role true then some ⟨stBound, 8, rng.val⟩ else none])
    (fun s =>
      match s.tryRacq e rng.val sd.val role with
      | some t => t
      | none => s.modEng e fun x => { x with
          run := .waitRing rng.val sd.val role, endHold := x.endHold || x.run == .ending }) s)

/-- RREL: the release takes effect once the writes of earlier bundles and its own have been performed. -/
def execRrel (h : Issue) (rng : Fin 8) (role : Role) (s : State) : Host.Outcome State Fault Refusal :=
  let e := h.ne.val
  .next (issue h .m []
    (fun s => worst [if s.ringMisuse e rng.val role false then some ⟨stBound, 8, rng.val⟩ else none])
    (fun s =>
      let x := s.eng e
      let p := x.ringOp rng.val
      let k := portOf p.2 role
      s.setEng e { x with
        held := x.held.filter (· ≠ (p.1, k, role))
        syncs := x.syncs ++ [⟨x.cyc, .release p.1 k role⟩] }) s)

/-! ### Bias buffers and palettes (R72, R132) -/

/-- BIASLD. A Canvas instruction of the same bundle has tagged its rows when the count is judged
(DESIGN CHOICE, log entry 64). -/
def execBiasld (h : Issue) (bb : Fin 4) (vs : Fin 32) (lq : Fin 4) (s : State) : Host.Outcome State Fault Refusal :=
  let e := h.ne.val
  .next (issue h .m [.vreg vs.val]
    (fun s =>
      let x := s.eng e
      worst [x.needV vs.val, x.order 2 (.bias bb.val) (maskAt 0 8192),
        if x.biasCount bb.val = 0 then none else hazard 8 bb.val])
    (fun s => s.modEng e fun x =>
      x.put 2 (.bias bb.val) (maskAt 0 8192) (x.vreg vs.val >>> (8192 * lq.val) % 2 ^ 8192)) s)

/-- PALWR. -/
def execPalwr (h : Issue) (ps : Fin 64) (tag : Format) (vs : Fin 32) (e0 : BitVec 8) (cnt : BitVec 9) (s : State) :
    Host.Outcome State Fault Refusal :=
  let e := h.ne.val
  let d : Dest := .pal ps.val (fmtCode tag)
  let m := maskAt (16 * e0.toNat) (16 * cnt.toNat)
  wfOr (Instr.wf (.palwr h ps tag vs e0 cnt)) (issue h .m [.vreg vs.val]
    (fun s => worst [(s.eng e).needV vs.val, (s.eng e).order 2 d m])
    (fun s => s.modEng e fun x => x.put 2 d m ((x.vreg vs.val % 2 ^ (16 * cnt.toNat)) <<< (16 * e0.toNat))) s)

/-! ### Bank arbitration (R187, R188) -/

/-- Precedence in one cycle of a bank: lower goes first; the second number orders a class. `t` is the cycle, `ra` and
`sa` say whether an aged remote access and an aged scrub may be granted. -/
def bankRank (t : Nat) (ra sa : Bool) (q : BankReq) : Nat × Nat :=
  match q.cls with
  | .reserved => (0, 0)
  | .remote w => if 16 ≤ w + t ∧ ra = true then (1, 0) else (7, 2 ^ 32 - w)
  | .scrub w => if 4096 ≤ w + t ∧ sa = true then (2, 0) else (8, 2 ^ 32 - w)
  | .stationary => (3, q.line)
  | .streaming => (4, q.line)
  | .mslot => (5, q.line)
  | .record => (6, q.line)

def rankLt (a b : Nat × Nat) : Bool := decide (a.1 < b.1 ∨ (a.1 = b.1 ∧ a.2 < b.2))

/-- The request that a bank grants in a cycle. -/
def bankPick (t : Nat) (ra sa : Bool) : List BankReq → Option BankReq
  | [] => none
  | q :: l =>
    match bankPick t ra sa l with
    | none => some q
    | some b => if rankLt (bankRank t ra sa b) (bankRank t ra sa q) then some b else some q

/-- Whether an access is one of the engine's datapath. -/
def ownAccess (q : BankReq) : Bool :=
  match q.cls with
  | .stationary | .streaming | .mslot | .record => true
  | _ => false

/-- Whether a bank may grant an aged access at `t`, after the last one it granted. -/
def agedOk (t gap : Nat) : Option Nat → Bool
  | none => true
  | some c => decide (c + gap ≤ t)

/-- What the arbitration at one bank leaves: the index of the cycle in which the last of the engine's accesses is granted,
which is the number of stalled cycles, and the ENGCLK cycles of the last aged remote access and the last aged scrub or
write-back granted. -/
structure BankRun where
  stall  : Nat
  remote : Option Nat
  scrub  : Option Nat
deriving DecidableEq, Repr

/-- The arbitration at one bank from cycle `t` of the issue cycle on, while requests wait; `c0` is the ENGCLK
cycle of the issue, `b` what earlier cycles left (R187). -/
def bankRun (c0 : Nat) : Nat → Nat → BankRun → List BankReq → BankRun
  | 0, _, b, _ => b
  | n + 1, t, b, l =>
    if l.isEmpty then b
    else
      let ra := agedOk (c0 + t) 16 b.remote
      let sa := agedOk (c0 + t) 4096 b.scrub
      match bankPick t ra sa l with
      | none => b
      | some q =>
        bankRun c0 n (t + 1)
          { stall := if ownAccess q then t else b.stall
            remote := match q.cls with
              | .remote w => if 16 ≤ w + t ∧ ra = true then some (c0 + t) else b.remote
              | _ => b.remote
            scrub := match q.cls with
              | .scrub w => if 4096 ≤ w + t ∧ sa = true then some (c0 + t) else b.scrub
              | _ => b.scrub }
          (l.erase q)

/-- The arbitration at bank `b` over `n` cycles from engine `e`'s issue cycle on. -/
def State.bankAt (s : State) (e : Nat) (reqs : List BankReq) (n b : Nat) : BankRun :=
  let k := e * 448 + b
  bankRun (s.eng e).clk n 0 ⟨0, mfind s.gesso.agedRemote k, mfind s.gesso.agedScrub k⟩ (reqs.filter fun q => lineBank e q.line == b)

/-- The accesses of engine `e`'s issue cycle at every bank they reach (R184): the largest stall, and the slice's banks with
their last aged grants of the issue cycle and the stalled cycles. -/
def State.bankCycle (s : State) (e : Nat) (reqs : List BankReq) : Nat × State :=
  let banks := (reqs.map fun q => lineBank e q.line).eraseDups
  let stall := (banks.map fun b => (s.bankAt e reqs reqs.length b).stall).foldl max 0
  (stall, banks.foldl (fun t b =>
    let x := s.bankAt e reqs (stall + 1) b
    let put (o : Option Nat) (m : SMap Nat) : SMap Nat := match o with
      | some c => minsert (e * 448 + b) c m
      | none => m
    { t with gesso := { t.gesso with
        agedRemote := put x.remote t.gesso.agedRemote, agedScrub := put x.scrub t.gesso.agedScrub } }) s)

/-- BANK_GRANT: the accesses of the issue cycle are granted; each cycle in which one of the engine's remains ungranted is a
global stall. -/
def execBankGrant (ne : Fin 6) (reqs : List BankReq) (s : State) : Host.Outcome State Fault Refusal :=
  .next <|
    let x := s.eng ne.val
    if s.tripped = false ∧ (x.run = .issuing ∨ x.run = .ending) then
      let r := s.bankCycle ne.val reqs
      (r.2.setEng ne.val { x with
        stBank := (x.stBank + r.1) % 2 ^ 64
        elapsed := x.elapsed + r.1
        clk := x.clk + r.1
        noIssue := x.noIssue + r.1 }).suppress ne.val r.1
    else s

/-! ### Events of the pipelines -/

/-- Up to `n` cycles of an engine that issues or drains. -/
def coast (e : Nat) : Nat → State → State
  | 0, s => s
  | n + 1, s =>
    let x := s.eng e
    if x.run = .ending ∨ (x.run = .issuing ∧ s.undecided e = false) then coast e n (tick e s) else s

/-- The least of some numbers. -/
def least : List Nat → Option Nat
  | [] => none
  | a :: t =>
    match least t with
    | none => some a
    | some b => some (min a b)

/-- RESULT_WRITE (R120): the engine runs to the cycle in which its next result lands. -/
def execResultWrite (ne : Fin 6) (s : State) : Host.Outcome State Fault Refusal :=
  let x := s.eng ne.val
  .next (match least (x.pend.map (·.due)) with
    | some d => coast ne.val (d - x.cyc + if x.pend.any (fun p => p.isPal && p.due == d) then 1 else 0) s
    | none => s)

/-- The cycle at whose end the next ACM row is written: a row in flight, or the first that an instruction in progress
will send. -/
def Engine.nextRow (x : Engine) : Option Nat :=
  let fut (o : CanvasOp) : Option Nat :=
    ((List.range 515).find? fun k => decide (o.step + k < o.steps) && match (o.at (o.step + k)).2.2 with
      | .stream _ q => !(o.vectors q).isEmpty
      | .load .. => false).map fun k => x.cyc + k + o.lag + 263
  least (x.rows.map (·.due) ++ x.ops.filterMap fut)

/-- ACM_ROW_WRITE (R67): the engine runs past the end of the cycle in which its next ACM row is written. -/
def execAcmRowWrite (ne : Fin 6) (s : State) : Host.Outcome State Fault Refusal :=
  let x := s.eng ne.val
  .next (match x.nextRow with
    | some d => coast ne.val (d - x.cyc + 1) s
    | none => s)

/-- OWN_STORE_PERFORMED (R106): the engine runs to the cycle in which its next own-slice store is performed. -/
def execOwnStorePerformed (ne : Fin 6) (s : State) : Host.Outcome State Fault Refusal :=
  let x := s.eng ne.val
  .next (match least (x.stores.map (·.due)) with
    | some d => coast ne.val (d - x.cyc) s
    | none => s)

/-- The first outstanding remote load answered. -/
def State.answerRld (s : State) : List PendRes → Option (List PendRes × State)
  | [] => none
  | p :: t =>
    match p.rld with
    | some r =>
      let q := s.remoteReply p r
      some (q.1 :: t, q.2)
    | none => (s.answerRld t).map fun z => (p :: z.1, z.2)

/-- RLD_REPLY (R130): the reply to the oldest remote load arrives, `late` cycles after the cycle its latency assumes; the
engine is stalled in those cycles. A reply that arrives earlier is held. -/
def execRldReply (ne : Fin 6) (late : Nat) (s : State) : Host.Outcome State Fault Refusal :=
  .next <|
    let e := ne.val
    match (s.eng e).pend.find? fun p => p.rld.isSome with
    | none => s
    | some p =>
      let n := if s.tripped then 0 else late
      let s := if late = 0 then s else coast e (p.due - (s.eng e).cyc - 1) s
      match s.answerRld (s.eng e).pend with
      | none => s
      | some (l, s) =>
        (s.modEng e fun x => { x with
          pend := l, stRemote := (x.stRemote + n) % 2 ^ 64, elapsed := x.elapsed + n, clk := x.clk + n
          noIssue := x.noIssue + n }).suppress e n

end Sys2Proof.Machine
end

