-- ==== Sys2Proof/Machine/Streams.lean ====
section
/-! DEFINITION. Stream descriptor lists (R206 to R210), the SDMA channels (R213 to R215) and the fetch side of the fetch
queues (R216 to R223), with their commands. -/

namespace Sys2Proof.Machine

open Sys2Proof

/-! ### Descriptors (Tables 9.1 and 9.2) -/

/-- A stream descriptor. -/
structure Desc where
  op      : Nat
  last    : Bool
  wait    : Bool
  signal  : Bool
  nopf    : Bool
  prio    : Nat
  engs    : Nat
  rows    : Nat
  src     : Nat
  dst     : Nat
  rowlen  : Nat
  spitch  : Nat
  dpitch  : Nat
  sfence  : Nat
  svalue  : Nat
  wfence  : Nat
  wvalue  : Nat
deriving DecidableEq, Repr

def parseDesc (b : List Byte) : Desc where
  op := fieldAt b 0 1
  last := fieldAt b 1 1 % 2 == 1
  wait := fieldAt b 1 1 / 2 % 2 == 1
  signal := fieldAt b 1 1 / 4 % 2 == 1
  nopf := fieldAt b 1 1 / 8 % 2 == 1
  prio := fieldAt b 2 1 % 8
  engs := fieldAt b 3 1 % 64
  rows := fieldAt b 4 4
  src := fieldAt b 8 8
  dst := fieldAt b 16 8
  rowlen := fieldAt b 24 4
  spitch := fieldAt b 28 4
  dpitch := fieldAt b 32 4
  sfence := fieldAt b 36 4 % 2 ^ 17
  svalue := fieldAt b 40 8
  wfence := fieldAt b 48 4 % 2 ^ 17
  wvalue := fieldAt b 56 8

def opCopy : Nat := 1
def opMcast : Nat := 2
def opFill : Nat := 3
def opFetch : Nat := 4
def opLink : Nat := 5
def opNop : Nat := 6

/-- Number of ones among the low six bits. -/
def ones6 (m : Nat) : Nat := popcount 6 m

/-- Whether a descriptor is invalid for its consumer, apart from the destination of MCAST (R207). -/
def descInvalid (k : Consumer) (b : List Byte) : Bool :=
  let d := parseDesc b
  let sdma := match k with
    | .sdma _ => true
    | .fetch .. => false
  !(if sdma then d.op == opCopy || d.op == opMcast || d.op == opFill || d.op == opLink || d.op == opNop
    else d.op == opFetch || d.op == opLink || d.op == opNop) ||
  fieldAt b 1 1 / 16 != 0 || fieldAt b 2 1 / 8 != 0 || fieldAt b 3 1 / 64 != 0 ||
  (d.op != opMcast && fieldAt b 3 1 != 0) || fieldAt b 36 4 / 2 ^ 17 != 0 || fieldAt b 48 4 / 2 ^ 17 != 0 ||
  fieldAt b 52 4 != 0 ||
  (d.op != opFill && decide (2 ^ 48 ≤ d.src)) || decide (2 ^ 48 ≤ d.dst) ||
  ((d.op == opFetch || d.op == opLink || d.op == opNop) && d.dst != 0) ||
  decide (1048576 < d.rows ∨ 16777216 < d.rowlen) ||
  (d.op == opLink && d.src % 64 != 0) || (d.op == opMcast && decide (ones6 d.engs < 2))

/-! ### Runs of a list -/

/-- The run of a consumer. -/
def State.runOf (s : State) (k : Consumer) : Option ListRun := s.listOf k

/-- `s` with the run of a consumer replaced. -/
def State.setRun (s : State) (k : Consumer) (r : ListRun) : State :=
  match k with
  | .sdma c => { s with sdmas := minsert c.val { mget (fun _ => ({} : Sdma)) s.sdmas c.val with cur := some r } s.sdmas }
  | .fetch e q => s.modEng e.val fun x => { x with fqs := minsert q.val { x.fq q.val with run := some r } x.fqs }

/-- A fetch queue changed. -/
def State.modFq (s : State) (e q : Nat) (f : FetchQ → FetchQ) : State :=
  s.modEng e fun x => { x with fqs := minsert q (f (x.fq q)) x.fqs }

/-- A list fails (R215, R221). An SDMA channel ends its list; a fetch queue takes a credit for a FAILED entry and stops. -/
def State.listFail (s : State) (k : Consumer) (a : AccErr) : State :=
  match k with
  | .sdma c => s.sdmaEnd c.val a.st a.sub a.det
  | .fetch e q =>
    let f := (s.eng e.val).fq q.val
    if f.credit then
      (s.modFq e.val q.val fun f => { f with
        state := 2, run := none, cur := none, granted := f.granted + 1
        ents := f.ents ++ [{ st := .failed, data := [], src := [], nsrc := 0, stat := a.st, sub := a.sub
                             det := if a.st = stRejected then q.val else a.det }] }).fqWake e.val
    else s

/-- Descriptors of a burst up to and with the first LAST or LINK; the flag says whether one was met (R210). -/
def cutBurst : Nat → List Byte → List (List Byte) × Bool
  | 0, _ => ([], false)
  | n + 1, b =>
    let d := parseDesc b
    if d.last ∨ d.op = opLink then ([b.take 64], true)
    else
      let r := cutBurst n (b.drop 64)
      (b.take 64 :: r.1, r.2)

/-- The read of a burst; an SDMA channel's reads train the stream trackers, a fetch engine's never do (R220, R231). -/
def State.burstRead (s : State) (k : Consumer) (r : ListRun) (n : Nat) : Except AccErr (List Byte) × State :=
  match k with
  | .sdma _ => s.vreadTrain .gallery r.ctx r.next (64 * n)
  | .fetch .. => s.vread .gallery r.ctx r.next (64 * n)

/-- Whether a FETCH descriptor of a consumer is still being cut: the descriptor behind it is not taken yet. -/
def State.cutting (s : State) : Consumer → Bool
  | .sdma _ => false
  | .fetch e q => ((s.eng e.val).fq q.val).cur.isSome

/-- DESCRIPTOR_BURST_READ (R210): up to 16 consecutive descriptors that do not cross 64 KiB, when four or fewer remain
(DESIGN CHOICE, log entry 8). A burst that fails ends the list once every descriptor before it has been executed and cut. -/
def execDescriptorBurstRead (k : Consumer) (s : State) : Host.Outcome State Fault Refusal :=
  .next <|
    match s.runOf k with
    | none => s
    | some r =>
      if r.stopped ∨ 4 < r.buf.length then s
      else
        let n := min 16 ((65536 - r.next % 65536) / 64)
        match s.burstRead k r n with
        | (.error a, t) => if r.buf.isEmpty && !t.cutting k then t.listFail k a else t
        | (.ok bs, t) =>
          let q := cutBurst n bs
          t.setRun k { r with
            next := r.next + 64 * n, buf := r.buf ++ q.1, stopped := q.2
            first := some (r.first.getD (descPrio bs)) }

/-- The signal of a descriptor is given; one out of order is marked for the record of the list's command (R289). -/
def State.descSignal (s : State) (k : Consumer) (sig : Option (Nat × Nat)) : State :=
  match sig with
  | none => s
  | some (f, v) =>
    let r := s.signal f v
    if r.1 then
      match k with
      | .sdma c =>
        match r.2.runOf (.sdma c) with
        | some q => r.2.setRun (.sdma c) { q with ooo := true }
        | none => r.2
      | .fetch e _ => r.2.modEng e.val fun x => { x with ooo := true }
    else r.2

/-- The list goes on behind its head descriptor. -/
def State.descNext (s : State) (k : Consumer) (f : ListRun → ListRun) : State :=
  match s.runOf k with
  | some r => s.setRun k (f { r with idx := r.idx + 1 })
  | none => s

/-- The head descriptor has been executed: its signal is given, and its list goes on. -/
def State.descDone (s : State) (k : Consumer) (d : Desc) (sig : Option (Nat × Nat)) : State :=
  let s := s.descSignal k sig
  if d.last then
    match k with
    | .sdma c => s.sdmaEnd c.val stOk 0 0
    | .fetch e q => s.modFq e.val q.val fun f => { f with state := if f.state = 1 then 5 else f.state, run := none }
  else s.descNext k fun r => { r with buf := r.buf.tail }

/-- The fence checks of a descriptor (R288, R292). -/
def State.descFenceBad (s : State) (r : ListRun) (d : Desc) : Option AccErr :=
  let cnt (f : Nat) : Option Nat := s.fenceMap r.ctx f
  if (d.wait = true ∧ (cnt d.wfence).isNone) ∨ (d.signal = true ∧ (cnt d.sfence).isNone) then
    some ⟨stRejected, 0x16, if d.wait = true ∧ (cnt d.wfence).isNone then d.wfence else d.sfence⟩
  else
    match d.signal, cnt d.sfence with
    | true, some f =>
      let ok := match r.owner with
        | some _ => r.declared.contains f
        | none => (s.fence f).ext
      if ok then none else some ⟨stRejected, 0x17, d.sfence⟩
    | _, _ => none

/-- The signal of a descriptor: device fence and value. -/
def State.descSig (s : State) (r : ListRun) (d : Desc) : Option (Nat × Nat) :=
  if d.signal then (s.fenceMap r.ctx d.sfence).map fun f => (f, d.svalue) else none

/-- Whether the WAIT of a descriptor holds (R209). -/
def State.descReady (s : State) (r : ListRun) (d : Desc) : Bool :=
  !d.wait || match s.fenceMap r.ctx d.wfence with
    | some f => decide (d.wvalue ≤ (s.fence f).val.toNat)
    | none => true

/-- Whether a list's command has orphaned a fence (R239). -/
def State.orphanedFor (s : State) (r : ListRun) (f : Nat) : Bool :=
  match r.owner with
  | some t => (match s.cmd? t.sq t.seq with
    | some c => c.orphans.contains f
    | none => false)
  | none => false

/-- The wait of a descriptor is registered, unless its task holds a registered wait already (R293); a part whose fetch list
begins to wait on an orphaned fence ends with ST_ABORTED (R239) (DESIGN CHOICE, log entry 71). -/
def State.descWait (s : State) (k : Consumer) (r : ListRun) (d : Desc) : State :=
  match s.fenceMap r.ctx d.wfence with
  | none => s
  | some f =>
    match s.orphanedFor r f, k with
    | true, .fetch e _ => s.engStop e.val ⟨stAborted, 0, (s.eng e.val).ctl.pc, 1, 0⟩ false
    | _, _ =>
      if s.waits.any fun w => w.kind == .desc k || (r.owner.isSome && w.task == r.owner) then s
      else { s with waits := s.waits ++ [⟨r.owner, .desc k, f, d.wfence, d.wvalue, none, s.clock.ticks⟩] }

/-- The execution of the head descriptor of a list by the command for operation `op`. -/
def State.execDesc (s : State) (k : Consumer) (op : Nat) (act : State → ListRun → Desc → State) : State :=
  match s.runOf k with
  | none => s
  | some r =>
    match r.buf with
    | [] => s
    | b :: _ =>
      if s.cutting k then s
      else if descInvalid k b then s.listFail k ⟨stRejected, 0x19, 0⟩
      else
        let d := parseDesc b
        if d.op ≠ op then s
        else
          match s.descFenceBad r d with
          | some a => s.listFail k a
          | none => if s.descReady r d then act s r d else s.descWait k r d

/-! ### Transfers (R208, R213) -/

/-- One row to be moved: source and destination pieces. -/
structure RowMove where
  src : List (Nat × Nat)
  dst : List (Nat × Nat)
deriving DecidableEq, Repr

/-- Translation of a row's range with its checks. A failing row is not performed. -/
def State.rowSide (s : State) (ctx va n : Nat) (wr : Bool) : Except AccErr (List (Nat × Nat)) × State :=
  match s.xlatRange ctx va n wr with
  | .error a => (.error a, s)
  | .ok ps =>
    match s.piecesCheck .gallery false wr ps with
    | (some a, t) => (.error a, t)
    | (none, t) => (.ok ps, t)

/-- The rows `r`, `r + 1`, … of a descriptor up to the first that fails. With `fill` no source is read. -/
def State.planRows (s : State) (ctx : Nat) (d : Desc) (fill : Bool) : Nat → Nat → List RowMove × Option AccErr × State
  | 0, _ => ([], none, s)
  | n + 1, r =>
    let a : Except AccErr (List (Nat × Nat)) × State :=
      if fill then (.ok [], s) else s.rowSide ctx (d.src + r * d.spitch) d.rowlen false
    match a with
    | (.error e, t) => ([], some e, t)
    | (.ok sp, t) =>
      match t.rowSide ctx (d.dst + r * d.dpitch) d.rowlen true with
      | (.error e, t) => ([], some e, t)
      | (.ok dp, t) =>
        let q := t.planRows ctx d fill n (r + 1)
        (⟨sp, dp⟩ :: q.1, q.2.1, q.2.2)

/-- The data of the rows, up to the first that meets an uncorrectable error; the reads of a descriptor without NOPF train the
stream trackers (R231). -/
def State.readRows (s : State) (nopf : Bool) : List RowMove → List (RowMove × List Byte) × Bool × State
  | [] => ([], true, s)
  | m :: t =>
    match (if nopf then s else s.train m.src).readPieces 1 m.src with
    | (none, s) => ([], false, s)
    | (some bs, s) =>
      let q := s.readRows nopf t
      ((m, bs) :: q.1, q.2.1, q.2.2)

/-- Rows written in order, up to the first whose write reports an uncorrectable error: how many, and whether all. -/
def State.writeRows (s : State) : List (RowMove × List Byte) → Nat × Bool × State
  | [] => (0, true, s)
  | m :: t =>
    match s.writePieces 1 m.1.dst m.2 with
    | (true, s) =>
      let q := s.writeRows t
      (q.1 + 1, q.2.1, q.2.2)
    | (false, s) => (0, false, s)

/-- The bytes of pieces, one physical address each. -/
def pieceAddrs (ps : List (Nat × Nat)) : List Nat := ps.flatMap fun p => (List.range p.2).map fun i => p.1 + i

/-- Destination and source address of every byte moved, in order. -/
def byteMoves (ms : List RowMove) : List (Nat × Nat) := ms.flatMap fun m => (pieceAddrs m.dst).zip (pieceAddrs m.src)

/-- Destination lines that an overlap of source and destination touches (R208). -/
def overlapLines (bm : List (Nat × Nat)) : List Nat :=
  ((bm.filter fun p => bm.any fun q => q.2 == p.1).map fun p => p.1 / 64).eraseDups

/-- The address whose byte, as it stands after the first writing of every row, a byte holds in the end, where the lines
`late` hold what the source holds after the last write; none where such lines only name each other. -/
def lateByte (bm : List (Nat × Nat)) (late : List Nat) : Nat → Nat → Option Nat
  | 0, _ => none
  | n + 1, a =>
    if late.contains (a / 64) then
      match (bm.filter fun p => p.1 == a).getLast? with
      | some p => lateByte bm late n p.2
      | none => some a
    else some a

/-- The lines of `late` that the source after the last write determines; the others hold the source before the first. -/
def lateLines (bm : List (Nat × Nat)) (late : List Nat) : List Nat :=
  late.filter fun l => (bm.filter fun p => p.1 / 64 == l).all fun p => (lateByte bm late (bm.length + 1) p.1).isSome

/-- Each overlapped line holds, whole, the bytes of the source before the first write or after the last: a free choice
(DESIGN CHOICE, log entry 52). -/
def State.overlapFix (s : State) (ms : List RowMove) : State :=
  let bm := byteMoves ms
  let ls := overlapLines bm
  let late := lateLines bm (((ls.zip (List.range ls.length)).filter fun p =>
    Config.freeValue (s.free + p.2) % 2 == 1).map (·.1))
  (bm.filter fun p => late.contains (p.1 / 64)).foldl (fun t p =>
      match lateByte bm late (bm.length + 1) p.1 with
      | some b => t.setByte p.1 (s.byte b)
      | none => t)
    { s with free := s.free + ls.length }

/-- The eight bytes of a FILL pattern along a row. -/
def fillRow (pat n : Nat) : List Byte := (List.range n).map fun j => BitVec.ofNat 8 (pat >>> (8 * (j % 8)))

/-- What a transfer leaves: its failure, the rows written, and the state. -/
def State.transfer (s : State) (ctx : Nat) (d : Desc) (fill : Bool) : Option AccErr × Nat × State :=
  let rows := if d.rowlen = 0 then 0 else d.rows
  let p := s.planRows ctx d fill rows 0
  let ms := p.1
  let t := p.2.2
  let q : List (RowMove × List Byte) × Bool × State :=
    if fill then (ms.map fun m => (m, fillRow d.src d.rowlen), true, t) else t.readRows d.nopf ms
  let w := q.2.2.writeRows q.1
  let u := if fill then w.2.2 else w.2.2.overlapFix (q.1.map (·.1))
  (if q.2.1 = true ∧ w.2.1 = true then p.2.1 else some ⟨stEccUncorr, 0, 0⟩, w.1, u)

/-- SDMA_CH_BYTES counts bytes written. -/
def State.countBytes (s : State) (c n : Nat) : State := s.rinc (.sdmaBytes c) 64 n

/-- COPY and FILL on a channel: the rows written count, also those before a failure. -/
def State.sdmaMove (s : State) (c : Fin 16) (fill : Bool) (r : ListRun) (d : Desc) : State :=
  let sig := s.descSig r d
  let q := s.transfer r.ctx d fill
  let t := q.2.2.countBytes c.val (q.2.1 * d.rowlen)
  match q.1 with
  | some a => t.listFail (.sdma c) a
  | none => t.descDone (.sdma c) d sig

/-- COPY (R207, R208). -/
def execCopy (c : Fin 16) (s : State) : Host.Outcome State Fault Refusal :=
  .next (s.execDesc (.sdma c) opCopy fun s r d => s.sdmaMove c false r d)

/-- FILL (R207). -/
def execFill (c : Fin 16) (s : State) : Host.Outcome State Fault Refusal :=
  .next (s.execDesc (.sdma c) opFill fun s r d => s.sdmaMove c true r d)

/-! ### Multicast (R213) -/

/-- The lowest engine of a mask, and the engines of a mask. -/
def maskList (m : Nat) : List Nat := (List.range 6).filter fun e => m / 2 ^ e % 2 == 1

/-- Where a virtual address lies, whatever the permissions of its page. -/
def State.placeOf (s : State) (ctx va : Nat) : Option Nat :=
  (s.pmtEntry ctx va).bind fun i => (mfind s.pmt i).map fun e => e.ppn * 65536 + va % (if e.size then 2 ^ 21 else 2 ^ 16)

/-- Whether some byte of a range translates to memory outside slice `e`; a byte with no mapping does not (R213). -/
def State.strays (s : State) (ctx e : Nat) : Nat → Nat → Nat → Bool
  | 0, _, _ => false
  | k + 1, va, n =>
    if n = 0 then false
    else
      let m := min n (65536 - va % 65536)
      (match s.placeOf ctx va with
        | some a => !decide (sliceBase e ≤ a ∧ a + m ≤ sliceBase (e + 1))
        | none => false) || s.strays ctx e k (va + m) (n - m)

/-- Whether an MCAST is invalid for its destination (R213). -/
def State.mcastStrays (s : State) (ctx e : Nat) (d : Desc) (rows : Nat) : Bool :=
  (List.range rows).any fun r => s.strays ctx e (d.rowlen / 65536 + 2) (d.dst + r * d.dpitch) d.rowlen

/-- The rows of an MCAST, up to the first whose source or destination fails; a destination has no windows yet. -/
def State.mcastRows (s : State) (ctx : Nat) (d : Desc) : Nat → Nat → List RowMove × Option AccErr × State
  | 0, _ => ([], none, s)
  | n + 1, r =>
    match s.rowSide ctx (d.src + r * d.spitch) d.rowlen false with
    | (.error a, t) => ([], some a, t)
    | (.ok sp, t) =>
      match t.xlatRange ctx (d.dst + r * d.dpitch) d.rowlen true with
      | .error a => ([], some a, t)
      | .ok dp =>
        let q := t.mcastRows ctx d n (r + 1)
        (⟨sp, dp⟩ :: q.1, q.2.1, q.2.2)

/-- Whether every piece of a row passes the regions and windows of a target; a refusal is counted. -/
def State.mcastCheck (s : State) : List RowMove → Bool × State
  | [] => (true, s)
  | m :: t =>
    match s.piecesCheck .gallery false true m.dst with
    | (some _, s) => (false, s)
    | (none, s) => s.mcastCheck t

/-- What one target of an MCAST, or several, did: the engines that refused, whether no write met an uncorrectable error, and the
rows written. -/
structure McastRes where
  mask  : Nat
  ok    : Bool
  moves : List RowMove
deriving DecidableEq, Repr

/-- The rows of an MCAST as target `e` has them. -/
def mcastTo (e0 e : Nat) (rows : List (RowMove × List Byte)) : List (RowMove × List Byte) :=
  rows.map fun m => ({ m.1 with dst := m.1.dst.map fun p => (p.1 - sliceBase e0 + sliceBase e, p.2) }, m.2)

/-- Rows into one target slice, in full or, where it refuses, not at all. -/
def State.mcastOne (s : State) (e0 : Nat) (rows : List (RowMove × List Byte)) (e : Nat) : McastRes × State :=
  let rows := mcastTo e0 e rows
  match s.mcastCheck (rows.map (·.1)) with
  | (false, s) => (⟨2 ^ e, true, []⟩, s)
  | (true, s) =>
    let w := s.writeRows rows
    (⟨0, w.2.1, (rows.take w.1).map (·.1)⟩, w.2.2)

/-- Every target in turn. -/
def State.mcastAll (s : State) (e0 : Nat) (rows : List (RowMove × List Byte)) : List Nat → McastRes × State
  | [] => (⟨0, true, []⟩, s)
  | e :: t =>
    let a := s.mcastOne e0 rows e
    let q := a.2.mcastAll e0 rows t
    (⟨a.1.mask + q.1.mask, a.1.ok && q.1.ok, a.1.moves ++ q.1.moves⟩, q.2)

/-- MCAST (R208, R213, R215): a destination outside the slice of the lowest target makes it invalid; else its rows up to the first
that fails are written into every target that does not refuse. Where source and destinations overlap, lines are open as those
of a COPY are (DESIGN CHOICE, log entry 52). -/
def execMcast (c : Fin 16) (s : State) : Host.Outcome State Fault Refusal :=
  .next (s.execDesc (.sdma c) opMcast fun s r d =>
    let es := maskList d.engs
    let e0 := es.headD 0
    let rows := if d.rowlen = 0 then 0 else d.rows
    if s.mcastStrays r.ctx e0 d rows then s.listFail (.sdma c) ⟨stRejected, 0x19, 0⟩
    else
      let sig := s.descSig r d
      let p := s.mcastRows r.ctx d rows 0
      let q := p.2.2.readRows d.nopf p.1
      let w := q.2.2.mcastAll e0 q.1 es
      let t := ((w.2.overlapFix w.1.moves).setRun (.sdma c) { r with failmask := r.failmask ||| w.1.mask }).countBytes c.val
        (w.1.moves.length * d.rowlen)
      if q.2.1 && w.1.ok then
        match p.2.1 with
        | none => t.descDone (.sdma c) d sig
        | some a => t.listFail (.sdma c) a
      else t.listFail (.sdma c) ⟨stEccUncorr, 0, 0⟩)

/-! ### LINK and NOP -/

/-- LINK: the list goes on at SRC. -/
def execLink (k : Consumer) (s : State) : Host.Outcome State Fault Refusal :=
  .next (s.execDesc k opLink fun s r d =>
    (s.descSignal k (s.descSig r d)).descNext k fun r => { r with next := d.src, buf := [], stopped := false })

/-- NOP: WAIT and SIGNAL act. -/
def execDescNop (k : Consumer) (s : State) : Host.Outcome State Fault Refusal :=
  .next (s.execDesc k opNop fun s r d => s.descDone k d (s.descSig r d))

/-! ### Arming (R214, Table 9.4) -/

/-- A fresh run. -/
def newRun (ctx list : Nat) (owner : Option TaskId) (declared : List Nat) : ListRun where
  ctx := ctx
  next := list
  buf := []
  stopped := false
  idx := 0
  owner := owner
  declared := declared
  failmask := 0

/-- An arm of channel `c`: none where a list is latched already (ST_BUSY_PENDING). -/
def State.sdmaArm (s : State) (c : Nat) (r : ListRun) : Option State :=
  let d := mget (fun _ => ({} : Sdma)) s.sdmas c
  match d.cur, d.latched with
  | none, _ => some { s with sdmas := minsert c { d with cur := some r, lastIdx := 0, lastFail := 0 } s.sdmas }
  | some _, none => some { s with sdmas := minsert c { d with latched := some r } s.sdmas }
  | some _, some _ => none

/-- Context of a channel (SDMA_CH_CFG.CTX). -/
def State.sdmaCtx (s : State) (c : Nat) : Nat := s.fget (.sdmaCfg c) 27 16

/-- SDMA_CH_ARM (R214): a write of the list address arms; the outcome stands in ARM_RESULT. -/
def execSdmaChArm (w : World) (c : Fin 16) (v : W64) (s : State) : Host.Outcome State Fault Refusal :=
  .next <|
    s.regOp w (Reg.sdmaArmR c.val |>.addr) true fun s =>
      let res (st : Nat) (s : State) : State :=
        { s with sdmas := minsert c.val { mget (fun _ => ({} : Sdma)) s.sdmas c.val with armRes := st } s.sdmas }
      if s.fget (.sdmaCfg c.val) 0 0 = 0 then res stRejected s
      else
        match s.sdmaArm c.val (newRun (s.sdmaCtx c.val) (bits v.toNat 47 6 * 64) none []) with
        | some t => res stOk t
        | none => res stBusyPending s

/-- The running list of a channel ends with ST_ABORTED, and the latched one without starting (Table 9.4). -/
def State.sdmaAbort (s : State) (c : Nat) : State :=
  let d := mget (fun _ => ({} : Sdma)) s.sdmas c
  let s := s.sdmaEnd c stAborted 0 0
  if d.latched.isSome then s.sdmaEnd c stAborted 0 0 else s

/-! ### The fetch side (R216 to R221) -/

/-- Source segments of a FETCH descriptor, one for each row. -/
def fetchSegs (d : Desc) : List (Nat × Nat) :=
  if d.rowlen = 0 then [] else (List.range d.rows).map fun r => (d.src + r * d.spitch, d.rowlen)

/-- FETCH: its bytes are cut into entries by FETCH_ENTRY_BEGIN. -/
def execFetch (ne : Fin 6) (q : Fin 8) (s : State) : Host.Outcome State Fault Refusal :=
  .next <|
    s.execDesc (.fetch ne q) opFetch fun s r d =>
      let segs := fetchSegs d
      if segs.isEmpty then s.descDone (.fetch ne q) d (s.descSig r d)
      else
        (s.setRun (.fetch ne q) { r with buf := r.buf.tail, idx := r.idx + 1 }).modFq ne.val q.val fun f =>
          { f with cur := some ⟨segs, d.last, s.descSig r d, d.prio, r.idx⟩ }

/-- `n` bytes cut from source segments, in reads of up to 256 bytes, and the rest. -/
def cutSegs : Nat → Nat → List (Nat × Nat) → List (Nat × Nat) × List (Nat × Nat)
  | 0, _, l => ([], l)
  | _ + 1, _, [] => ([], [])
  | k + 1, n, (a, m) :: t =>
    if n = 0 then ([], (a, m) :: t)
    else
      let x := min n (min m 256)
      let q := cutSegs k (n - x) (if x = m then t else (a + x, m - x) :: t)
      ((a, x) :: q.1, q.2)

/-- Source reads in flight on an engine. -/
def Engine.readsOut (x : Engine) : Nat := (x.fqs.map fun p => (p.2.ents.map fun c => c.src.length).sum).sum

/-- Whether a queue can begin an entry: data left and a credit. -/
def Engine.canBegin (x : Engine) (q : Nat) : Bool := (x.fq q).cur.isSome && (x.fq q).credit

/-- The next entry of a queue: its reads, the segments left, and the descriptor. -/
def Engine.beginOf (x : Engine) (q : Nat) : Option (List (Nat × Nat) × List (Nat × Nat) × CurFetch) :=
  let f := x.fq q
  match f.cur with
  | none => none
  | some c =>
    let r := cutSegs (64 * 2 ^ f.esz) (64 * 2 ^ f.esz) c.segs
    if f.credit then some (r.1, r.2, c) else none

/-- Reads of an entry issued while `room` lasts. -/
def FqEnt.issue (c : FqEnt) (room : Nat) : FqEnt :=
  { c with src := c.src ++ c.todo.take room, todo := c.todo.drop room, nsrc := c.nsrc + ((c.todo.take room).map (·.2)).sum }

/-- Reads of a queue's entries issued in order while `room` lasts, and the room left. -/
def issueEnts : Nat → List FqEnt → Nat × List FqEnt
  | room, [] => (room, [])
  | room, c :: t =>
    let q := issueEnts (room - c.todo.length) t
    (q.1, c.issue room :: q.2)

/-- The fetch side issues the reads that its entries still owe, up to 128 outstanding on the engine (R220); queues in rising
order (DESIGN CHOICE, log entry 72). -/
def Engine.issueReads (x : Engine) : Engine :=
  ((List.range 8).foldl (fun (p : Nat × Engine) q =>
    let r := issueEnts p.1 (p.2.fq q).ents
    if (mfind p.2.fqs q).isNone then p
    else (r.1, { p.2 with fqs := minsert q { p.2.fq q with ents := r.2 } p.2.fqs })) (128 - x.readsOut, x)).2

/-- FETCH_ENTRY_BEGIN (R220): the next queue in round robin that has a credit begins an entry, and its reads are issued as the
limit of 128 allows. -/
def execFetchEntryBegin (ne : Fin 6) (s : State) : Host.Outcome State Fault Refusal :=
  .next <|
    let x := s.eng ne.val
    match ((List.range 8).map fun i => (x.fqRr + i) % 8).find? fun q => x.canBegin q with
    | none => s
    | some q =>
      match x.beginOf q with
      | none => s
      | some (reads, rest, c) =>
        if 128 ≤ x.readsOut then s
        else
          let done := rest.isEmpty
          let ent : FqEnt := {
            st := .filling, data := [], src := [], nsrc := 0, stat := 0, sub := 0, det := 0
            sig := if done then c.sig else none, prio := c.prio, todo := reads, desc := c.desc }
          ((s.setEng ne.val { x with fqRr := (q + 1) % 8 }).modFq ne.val q fun f => { f with
            granted := f.granted + 1
            ents := f.ents ++ [ent]
            cur := if done then none else some { c with segs := rest }
            run := if done && c.last then none else f.run
            state := if (done && c.last) = true ∧ f.state = 1 then 5 else f.state }).modEng ne.val Engine.issueReads

/-- The entries with the oldest read in flight answered by `f`. -/
def answerEnt (f : FqEnt → List FqEnt) : List FqEnt → List FqEnt
  | [] => []
  | c :: t => if c.src.isEmpty then c :: answerEnt f t else f c ++ t

/-- A source read of entry `c` has failed (R221): the entry is FAILED, the queue takes no further descriptor, and the
descriptor's signal is not given (R209). -/
def FetchQ.readFail (f : FetchQ) (c : FqEnt) (a : AccErr) : FetchQ :=
  { f with
    state := 2, run := none, cur := none
    ents := (answerEnt (fun c => [{ c with st := .failed, src := [], todo := [], stat := a.st, sub := a.sub, det := a.det }])
      f.ents).map fun y => if y.desc = c.desc then { y with sig := none } else y }

/-- FETCH_READ_COMPLETE (R219, R221): the oldest source read in flight of a queue completes. -/
def execFetchReadComplete (ne : Fin 6) (q : Fin 8) (s : State) : Host.Outcome State Fault Refusal :=
  .next <|
    let x := s.eng ne.val
    let f := x.fq q.val
    match f.ents.find? fun c => !c.src.isEmpty with
    | none => s
    | some c =>
      match c.src with
      | [] => s
      | (va, n) :: rest =>
        if c.st = .dropping then
          s.modFq ne.val q.val fun f =>
            let ents := answerEnt (fun c => if rest.isEmpty then [] else [{ c with src := rest }]) f.ents
            { f with
              ents := ents
              ret := f.ret + (f.ents.length - ents.length)
              state := if ents.isEmpty = true ∧ f.state = 3 then 4 else f.state }
        else
          match s.vread .gallery x.ctx va n with
          | (.error a, t) =>
            ((t.modFq ne.val q.val fun f => f.readFail c a).modEng ne.val Engine.issueReads).fqWake ne.val
          | (.ok bs, t) =>
            let full := rest.isEmpty && c.todo.isEmpty
            let fill : FqEnt → FqEnt := fun c =>
              if full then
                { c with
                  st := .ready, src := [], sig := none
                  data := (c.data ++ bs) ++ List.replicate (64 * 2 ^ f.esz - (c.data ++ bs).length) 0 }
              else { c with src := rest, data := c.data ++ bs }
            let t := t.modFq ne.val q.val fun f => { f with ents := answerEnt (fun c => [fill c]) f.ents }
            let t := t.modEng ne.val Engine.issueReads
            ((if full then t.descSignal (.fetch ne q) c.sig else t)).fqWake ne.val

/-- QUEUE_CANCEL: a write of 1 to NE_FQ_CTL.CANCEL (R222). -/
def execQueueCancel (w : World) (ne : Fin 6) (q : Fin 8) (s : State) : Host.Outcome State Fault Refusal :=
  .next (s.regOp w (Reg.fqCtl ne.val q.val |>.addr) true fun s => (s.fqCancel ne.val q.val).fqWake ne.val)

/-- CREDIT_LATCH_READ: a read of NE_FQ_CRGRANT latches CRRET and CROUT (R223). -/
def execCreditLatchRead (w : World) (ne : Fin 6) (q : Fin 8) (s : State) : Host.Outcome State Fault Refusal :=
  .next <|
    ({ s with resp := { ok := true, status := 0, data := leBytes 8 0 } } : State).regOp w
      (Reg.fqCrgrant ne.val q.val |>.addr) false fun s =>
        let f := (s.eng ne.val).fq q.val
        { s.modFq ne.val q.val (fun f => { f with lret := some f.ret, lout := some (f.granted - f.ret) }) with
          resp := { ok := true, status := 0, data := leBytes 8 f.granted } }

end Sys2Proof.Machine
end

