-- ==== Sys2Proof/Machine/Gesso.lean ====
section
/-! DEFINITION. The gesso: slice windows (R190 to R193), accesses by other masters (R190, R403, R407), write-back and
patrol scrub (R196, R199), self-test (R203, R204) and error injection (R205). -/

namespace Sys2Proof.Machine

open Sys2Proof

/-! ### Windows -/

/-- Bit `b` of a number set or cleared. -/
def bitOf (b : Bool) : Nat := if b then 1 else 0

/-- Whether an OPEN may act on a CLOSED window (R191); in SLICE_OFF every window stays CLOSED (R201). -/
def State.winOpenOk (s : State) (e w : Nat) : Bool :=
  let b := s.fget (.gsWinBase e w) 31 16
  let n := s.fget (.gsWinSize e w) 31 16
  (s.eng e).idle != .sliceOff && decide (b + n ≤ 3584 ∧ 1 ≤ n) &&
  !((List.range 16).any fun v =>
    v != w && s.winState e v != 0 && decide (s.winLo e w < s.winHi e v ∧ s.winLo e v < s.winHi e w))

/-- A write of GS_WIN_CTL with its RD, WR, OPEN and CLOSE (R191, R192). In SLICE_OFF an OPEN sets ERR
(DESIGN CHOICE, log entry 73). -/
def State.winCtl (s : State) (e w : Nat) (rd wr op cl : Bool) : State :=
  let st := s.winState e w
  if st = 0 then
    let s := (s.fset (.gsWinCtl e w) 2 2 (bitOf rd)).fset (.gsWinCtl e w) 3 3 (bitOf wr)
    if op then
      if s.winOpenOk e w then s.fset (.gsWinCtl e w) 9 8 1 else s.fset (.gsWinCtl e w) 4 4 1
    else s
  else
    let s := if s.fget (.gsWinCtl e w) 3 2 = bitOf rd + 2 * bitOf wr then s else s.fset (.gsWinCtl e w) 4 4 1
    if cl ∧ st = 1 then s.fset (.gsWinCtl e w) 9 8 2 else s

/-- A write of GS_WIN_BASE or GS_WIN_SIZE: its upper half is taken while the window is CLOSED (R191). -/
def State.winSet (s : State) (e w : Nat) (r : Reg) (v : Nat) : State :=
  if s.winState e w = 0 then s.fset r 31 16 (bits v 31 16) else s.fset (.gsWinCtl e w) 4 4 1

/-- WINDOW_OPEN (R191): a write of GS_WIN_CTL with OPEN. -/
def execWindowOpen (w : World) (slice : Fin 6) (win : Fin 16) (rd wr : Bool) (s : State) :
    Host.Outcome State Fault Refusal :=
  .next (s.regOp w (Reg.gsWinCtl slice.val win.val |>.addr) true fun s => s.winCtl slice.val win.val rd wr true false)

/-- WINDOW_CLOSE (R192): a write of GS_WIN_CTL with CLOSE. -/
def execWindowClose (w : World) (slice : Fin 6) (win : Fin 16) (rd wr : Bool) (s : State) :
    Host.Outcome State Fault Refusal :=
  .next (s.regOp w (Reg.gsWinCtl slice.val win.val |>.addr) true fun s => s.winCtl slice.val win.val rd wr false true)

/-- Whether a command is a running WINDOW command that closes this window. -/
def Cmd.closes (e w : Nat) (c : Cmd) : Bool :=
  c.phase == .running && fieldAt c.desc 0 1 == 7 && fieldAt c.desc 16 1 == e && fieldAt c.desc 17 1 == w

/-- WINDOW_CLOSED (R192): a CLOSING window whose accepted accesses have been performed becomes CLOSED. Every access of
this model is performed in the step of its check. WINDOW commands that wait for it commit. -/
def execWindowClosed (slice : Fin 6) (win : Fin 16) (s : State) : Host.Outcome State Fault Refusal :=
  .next <|
    let e := slice.val
    let w := win.val
    if s.winState e w = 2 then
      let cs := s.cmds.filter (Cmd.closes e w)
      cs.foldl (fun t c => t.commit c stOk 0 id) (s.fset (.gsWinCtl e w) 9 8 0)
    else s

/-! ### Accesses by the masters of R403 -/

/-- World of a master (Table 17.1); the debug port has that of its level (Table 17.11). -/
def masterWorld : Master → World
  | .sec | .pmc | .hcMachine => .studio
  | .debug l => if 2 ≤ l.val then .studio else .gallery
  | _ => .gallery

/-- Masters that slice windows do not bind (R190). -/
def masterBypass : Master → Bool
  | .sec | .debug _ => true
  | _ => false

/-- Masters whose addresses are translated through the PMT. -/
def masterTranslates : Master → Bool
  | .sec | .pmc | .hcMachine | .hcUser | .debug _ | .nvme => false
  | _ => true

/-- Masters whose reads allocate and train the stream trackers (R231). -/
def masterTrains : Master → Bool
  | .sdma | .cp | .hcMachine | .hcUser | .pcie | .nvme => true
  | _ => false

/-- The first failing status of an access, with the data of a read; `train` says that its reads train the stream trackers. -/
def State.physAccess (s : State) (w : World) (bypass train : Bool) (ps : List (Nat × Nat)) (va : Nat) (a : Access) :
    Except AccErr (List Byte) × State :=
  match a with
  | .read _ =>
    match s.piecesCheck w bypass false ps with
    | (some e, s) => (.error e, s)
    | (none, s) =>
      match (if train then s.train ps else s).readPieces 1 ps with
      | (none, s) => (.error ⟨stEccUncorr, 0, va % 2 ^ 32⟩, s)
      | (some bs, s) => (.ok bs, s)
  | .write d =>
    match s.piecesCheck w bypass true ps with
    | (some e, s) => (.error e, s)
    | (none, s) =>
      match s.writePieces 1 ps d with
      | (true, s) => (.ok [], s)
      | (false, s) => (.error ⟨stEccUncorr, 0, va % 2 ^ 32⟩, s)

def accLen : Access → Nat
  | .read n => n
  | .write d => d.length

def accWr : Access → Bool
  | .read _ => false
  | .write _ => true

/-- A physical range cut at 64 KiB boundaries. -/
def cutPhys : Nat → Nat → Nat → List (Nat × Nat)
  | 0, _, _ => []
  | k + 1, a, n =>
    if n = 0 then [] else
      let m := min n (65536 - a % 65536)
      (a, m) :: cutPhys k (a + m) (n - m)

/-- An access by a master: through the PMT, or by device physical address. -/
def State.masterAccess (s : State) (m : Master) (ctx va : Nat) (a : Access) : Except AccErr (List Byte) × State :=
  if masterTranslates m then
    match s.xlatRange ctx va (accLen a) (accWr a) with
    | .error e => (.error e, s)
    | .ok ps => s.physAccess (masterWorld m) (masterBypass m) (masterTrains m) ps va a
  else s.physAccess (masterWorld m) (masterBypass m) (masterTrains m) (cutPhys (accLen a / 65536 + 2) (va % 2 ^ 44) (accLen a)) va a

/-- The answer as the issuer sees it. -/
def State.answer (s : State) (r : Except AccErr (List Byte)) : State :=
  match r with
  | .ok d => { s with resp := { ok := true, status := 0, data := d } }
  | .error e => { s with resp := { ok := false, status := e.st, data := [] } }

/-! ### Write-back and patrol scrub -/

/-- A queued word of region `r` is written back corrected; a word of the SLC stands in its line. -/
def State.writeBack (s : State) (r w : Nat) : State :=
  if r = 6 then
    match s.slcSlot (w / 4) with
    | some slot => s.modLine slot fun x => if x.mark (w % 4) = 1 then x.setMark (w % 4) 0 else x
    | none => s
  else { s with ecc := if mget (fun _ => 0) s.ecc w = 1 then merase w s.ecc else s.ecc }

/-- ECC_WRITE_BACK (R196): the oldest queued word of a region is written back corrected. -/
def execEccWriteBack (region : Fin 8) (s : State) : Host.Outcome State Fault Refusal :=
  .next <|
    match mget (fun _ => []) s.gesso.wbq region.val with
    | [] => s
    | w :: t => State.writeBack { s with gesso := { s.gesso with wbq := minsert region.val t s.gesso.wbq } } region.val w

/-- Whether a region is powered (R199, R201, R202); the SLC always is. -/
def State.regionPowered (s : State) (r : Nat) : Bool :=
  if r = 7 then s.pmc.pdMedia else if r = 6 then true else (s.eng r).idle != .sliceOff

/-- A patrol read of the half `h` of a line that the SLC holds. -/
def State.slcHalf (s : State) (x : SlcLine) (h : Nat) : State := (s.slcWords 2 [x.addr * 4 + 2 * h, x.addr * 4 + 2 * h + 1]).2

/-- A patrol read of line `i` of the SLC: the words of every half line that stands there. -/
def State.slcScrub (s : State) (i : Nat) : State :=
  s.slc.lines.foldl (fun t p =>
    let t := if slcIndex p.1 0 = i then t.slcHalf p.2 0 else t
    if slcIndex p.1 1 = i then t.slcHalf p.2 1 else t) s

/-- One patrol read in region `r`: the next line's ECC words pass the decoder; the position moves on. -/
def State.scrubOne (s : State) (r : Nat) : State :=
  if s.regionPowered r then
    let i := mget (fun _ => 0) s.gesso.scrub r
    let a := (if r = 7 then mediaBase else sliceBase r) + 64 * i
    let t := if r = 6 then s.slcScrub i else (s.eccReads 2 (eccWords a 64)).2
    { t with gesso := { t.gesso with scrub := minsert r ((i + 1) % regionLines r) t.gesso.scrub } }
  else s

/-- A region is powered again: its scrubber resumes at line 0 (R199). -/
def State.scrubReset (s : State) (r : Nat) : State := { s with gesso := { s.gesso with scrub := merase r s.gesso.scrub } }

/-- GESSO_PATROL_SCRUB (R199): INTERVAL microseconds have passed; one line of each region is read. -/
def execGessoPatrolScrub (s : State) : Host.Outcome State Fault Refusal :=
  .next <|
    if s.fget .gsScrubCtl 15 0 = 0 then s else (List.range 8).foldl (fun t r => t.scrubOne r) s

/-! ### Zero fill -/

/-- Every byte of `n` bytes from `a` reads as zero with a valid code (R202, R203). -/
def State.zeroFill (s : State) (a n : Nat) : State :=
  { s with
    mem := s.mem.filter fun c => !decide (a ≤ c.1 ∧ c.1 < a + n)
    ecc := s.ecc.filter fun c => !decide (a / 32 ≤ c.1 ∧ c.1 < (a + n) / 32) }

/-- A region zero-filled: its contents, pending write-backs and, for the SLC, its lines. -/
def State.zeroRegion (s : State) (r : Nat) : State :=
  let s := { s with gesso := { s.gesso with wbq := merase r s.gesso.wbq } }
  if r = 6 then { s with slc := { s.slc with lines := [], plru := [], fetched := [] } }
  else if r = 7 then s.zeroFill mediaBase 0x4000000
  else s.zeroFill (sliceBase r) sliceSize

/-! ### Self-test (R203, R204) -/

/-- Regions a selection names. -/
def selRegions (sel : Nat) : List Nat := (List.range 8).filter fun r => sel / 2 ^ r % 2 == 1

/-- Whether an engine has a command queued or running. -/
def Engine.busy (x : Engine) : Bool := x.task.isSome || !x.queue.isEmpty || x.run != .idle

/-- Whether a start is refused. -/
def State.bistRefused (s : State) (sel : Nat) : Bool :=
  (selRegions sel).any fun r =>
    if r = 6 then s.fget .dmcCfg 31 31 == 1
    else if r = 7 then false
    else (s.eng r).busy || (List.range 16).any fun w => s.winState r w != 0

/-- The slices that a test selects run at N = 32, which the PMC sets for it (R203); that they stay at 32 after it, until the next
change of divider, is the model's choice (DESIGN CHOICE, log entry 95). -/
def State.bistClock (s : State) (sel : Nat) : State :=
  ((selRegions sel).filter fun r => decide (r < 6)).foldl (fun t e => t.modEng e fun x => { x with curN := 32 }) s

/-- A write of GS_BIST_CTL with START: refused with ERR, or the test runs. While a test runs, SEL is taken and the start is
ignored without ERR (DESIGN CHOICE, log entry 95). -/
def State.bistStart (s : State) (sel : Nat) : State :=
  let s := s.fset .gsBistCtl 7 0 sel
  if s.gesso.bist.isSome then s
  else if s.bistRefused sel then s.fset .gsBistStatus 17 17 1
  else
    (({ s with gesso := { s.gesso with bist := some sel, bistAt := s.clock.ticks } } : State).bistClock sel).rset .gsBistStatus
      (s.fget .gsBistStatus 17 17 * 2 ^ 17 + 2 ^ 16)

/-- Region cycles that the test of a region takes (R203): 10 × 8,192 × 4. -/
def bistCycles : Nat := 327680

/-- The time a region's test takes, and the cycles completed in a time, in units of 1/28 of a PERCLK cycle of 5 ns: ENGCLK at
N = 32 and FABCLK are 1.4 GHz, MEDCLK is 0.8 GHz. -/
def bistTime (r : Nat) : Nat := if r = 7 then bistCycles * 7 else bistCycles * 4
def bistPart (r t : Nat) : Nat := if r = 7 then t / 7 else t / 4

/-- Region cycles completed after a time, region after region. -/
def bistDone : List Nat → Nat → Nat
  | [], _ => 0
  | r :: t, u => if bistTime r ≤ u then bistCycles + bistDone t (u - bistTime r) else bistPart r u

/-- PROGRESS of a test that runs (R204); 10,000 only in the cycle in which it ends. -/
def State.bistProgress (s : State) : Nat :=
  match s.gesso.bist with
  | none => s.fget .gsBistStatus 13 0
  | some sel =>
    let rs := selRegions sel
    min 9999 (10000 * bistDone rs ((s.clock.ticks - s.gesso.bistAt) * 28) / max 1 (bistCycles * rs.length))

/-- The test ends: results, first failure, zero fill of every region tested. A region that failed stays in service, its failing
banks with it (R198): no later access is refused for them. -/
def State.bistEnd (s : State) (sel : Nat) (fails : List BistFail) : State :=
  let rs := selRegions sel
  let fs := fails.filter fun f => rs.contains f.region
  let bad := (rs.filter fun r => fs.any fun f => f.region == r).foldl (fun m r => m + 2 ^ r) 0
  let s := rs.foldl (fun t r => t.zeroRegion r) { s with gesso := { s.gesso with bist := none } }
  let s := s.rset .gsBistStatus
    (bad * 2 ^ 40 + (sel - bad) * 2 ^ 32 + s.fget .gsBistStatus 17 17 * 2 ^ 17 + 10000)
  s.rset .gsBistFail (match fs with
    | [] => 0
    | f :: _ =>
      (fs.map fun g => (g.region, g.bank)).eraseDups.length % 65536 * 2 ^ 32 + f.region % 8 * 2 ^ 29 +
        f.bank % 512 * 2 ^ 20 + f.row % 8192)

/-- BIST_START (R203). -/
def execBistStart (w : World) (sel : Byte) (s : State) : Host.Outcome State Fault Refusal :=
  .next (s.regOp w (Reg.gsBistCtl |>.addr) true fun s => s.bistStart sel.toNat)

/-- BIST_DONE (R203, R204). -/
def execBistDone (fails : List BistFail) (s : State) : Host.Outcome State Fault Refusal :=
  .next <|
    match s.gesso.bist with
    | none => s
    | some sel => s.bistEnd sel fails

/-! ### Error injection (R205) -/

/-- A write of GS_ECC_INJ from the Studio world: REGION and MODE are taken, and ARM unless MODE is 3. -/
def State.eccInj (s : State) (region mode : Nat) (arm : Bool) : State :=
  let s := (s.fset .gsEccInj 6 4 region).fset .gsEccInj 1 0 mode
  if arm && mode != 3 then s.fset .gsEccInj 8 8 1 else s

/-- GS_ECC_INJ_ARM (R205). From the Gallery world it is discarded and counted (R405). -/
def execGsEccInjArm (w : World) (region : Fin 8) (mode : BitVec 2) (s : State) : Host.Outcome State Fault Refusal :=
  .next <|
    match w with
    | .gallery => s.violation (Reg.gsEccInj |>.addr) true
    | .studio => s.eccInj region.val mode.toNat true

end Sys2Proof.Machine
end

