-- ==== Sys2Proof/Machine/Commands.lean ====
section
/-! DEFINITION. The end of commands: an engine command's result (R95, R107), the parts of a split command (R237 to R239)
and abort (R100, R238, R278), with COMMAND_COMPLETE, PART_END, STOP_REQ and ABORT. -/

namespace Sys2Proof.Machine

open Sys2Proof

/-! ### Results of engine commands -/

/-- The later of the numbers of a list and `n`. -/
def latest (n : Nat) : List Nat → Nat
  | [] => n
  | a :: t => latest (max n a) t

/-- Cycles until everything the engine's command has issued is performed (R95). -/
def Engine.drainCycles (x : Engine) : Nat :=
  latest (max x.cyc x.cBusy)
    (x.pend.map (·.due) ++ x.stores.map (·.due) ++ x.rows.map (·.due) ++ x.ops.map fun o => o.issue + o.steps + 263)
    + 2 - x.cyc

/-- The engine runs until its command has ended and drained; a stop request is taken at the bundle boundary first. -/
def State.runOut (s : State) (e : Nat) : State :=
  let s := if (s.eng e).run = .issuing ∧ (s.eng e).stop = true then tick e s else s
  if (s.eng e).run = .ending then coast e (s.eng e).drainCycles s else s

/-- What the engine's ended command reports. -/
def Engine.resultOf (x : Engine) (t : Task) : EngResult :=
  ⟨t, x.endRec, x.pent, x.empty, x.ooo, x.discard⟩

/-- The engine is idle; slots its command still holds are returned (R225), its cycles counted for the context (R257), its
last phase learned where END has ended it, its power returned and the rest allocated anew (R390, R391). -/
def State.engIdle (s : State) (e : Nat) : State :=
  let x := s.eng e
  let s := (s.ringEnds x.held).rinc (.ctxEngcyc x.ctx) 64 x.elapsed
  let s := if x.endRec.status = stOk then s.learnPhase e x.phaseKey else s
  State.allocate { s.setEng e { s.eng e with
      run := .idle, task := none, held := [], ops := [], pend := [], opened := false, stop := false, late := none
      idleSince := 8 * s.now, floorHeld := false, alloc := 0, fall := none, phaseEnd := none } with snaps := merase e s.snaps }

/-- Flags of a record (R13): bit 0 PENTIMENTO, 1 EMPTY, 2 OOO_SEEN. -/
def EngResult.flags (r : EngResult) : Nat := bitOf r.pent + 2 * bitOf r.empty + 4 * bitOf r.ooo

/-- Status of a result; the engine command that an abort reached before it committed ends ST_ABORTED (R278). -/
def EngResult.status (r : EngResult) (aborting : Bool) : Nat :=
  if aborting && r.fault.status == stOk then stAborted else r.fault.status

/-- Whether a result names an engine that failed: every status but ST_OK and ST_ABORTED is an engine fault. -/
def EngResult.failed (r : EngResult) : Bool := r.fault.status != stOk && r.fault.status != stAborted

/-- A record filled from a result of engine `e` (R109, R267). -/
def EngResult.fill (r : EngResult) (e : Nat) (x : Rec) : Rec :=
  { x with
    failEng := if r.failed then e else 255
    failSlot := r.fault.slot
    index := r.fault.pc
    detail := r.fault.detail }

/-- The record of an unsplit engine command. -/
def State.commitEngine (s : State) (c : Cmd) (e : Nat) (r : EngResult) : State :=
  s.commit c (r.status c.aborting) (if r.failed then r.fault.sub else 0) fun x =>
    { r.fill e x with flags := r.flags, discard := min r.discard 0xFFFFFFFF }

/-! ### Parts (R237, R239) -/

/-- The engine of a part as its task names it. -/
def engFin (e : Nat) : Option (Fin 6) := if h : e < 6 then some ⟨e, h⟩ else none

/-- Whether a part still running or queued, or another accepted command, declares a fence (R239). -/
def State.stillDeclared (s : State) (c : Cmd) (f : Nat) : Bool :=
  s.cmds.any fun d =>
    let d := if d.sq = c.sq ∧ d.seq = c.seq then c else d
    (s.cmdTasks d).any fun t => s.declares d (t.eng.map (·.val)) f

/-- A sibling that waits on an orphaned fence, in an FWAIT or with a fetch list, ends with ST_ABORTED. -/
def State.orphanWaits (s : State) (c : Cmd) (f : Nat) : State :=
  (List.range 6).foldl (fun t e =>
    if t.waits.any fun w => w.task == some ⟨c.sq, c.seq, engFin e⟩ && w.fence == f then
      t.engStop e ⟨stAborted, 0, (t.eng e).ctl.pc, 1, 0⟩ false
    else t) s

/-- The fences a failed part of engine `e` leaves orphaned. -/
def State.orphanFences (s : State) (c : Cmd) (e : Nat) : List Nat :=
  (s.declaredList c (some e)).filter fun f => !s.stillDeclared c f

/-- Parts that did not end ST_OK. -/
def partMap (ps : List Part) : Nat :=
  (ps.filter fun p => match p.result with
    | some r => r.fault.status != stOk
    | none => false).foldl (fun m p => m + 2 ^ p.eng) 0

/-- The record of a split command whose last part has ended (Table 10.3): its first failure is the first part that did not end
ST_OK, by whatever status. -/
def State.commitSplit (s : State) (c : Cmd) : State :=
  let rs := c.parts.filterMap (·.result)
  let pm := partMap c.parts
  let st := if c.aborting then stAborted else if pm = 0 then stOk else stPartial
  let first := c.order.head?.bind fun e => (c.parts.find? fun p => p.eng == e).bind fun p => p.result.map fun r => (e, r)
  s.commit c st (match first with
      | some (_, r) => r.fault.sub
      | none => 0) fun x =>
    let y := match first with
      | some (e, r) => { r.fill e x with failEng := e }
      | none => x
    { y with
      partmap := pm
      flags := bitOf (rs.any (·.pent)) + 2 * bitOf (rs.any (·.empty)) + 4 * bitOf (rs.any (·.ooo))
      discard := min (rs.map (·.discard)).sum 0xFFFFFFFF }

/-- A part of a split command ends with a result. -/
def State.partDone (s : State) (c : Cmd) (e : Nat) (r : EngResult) : State :=
  let bad := r.fault.status ≠ stOk
  let c := { c with
    parts := c.parts.map fun p => if p.eng = e then { p with result := some r } else p
    order := if bad then c.order ++ [e] else c.order }
  let fs := if bad then s.orphanFences c e else []
  let c := { c with orphans := union c.orphans fs }
  let s := s.modCmd c.sq c.seq fun _ => c
  let s := fs.foldl (fun t f => t.orphanWaits c f) s
  if c.parts.all (·.result.isSome) then s.commitSplit c else s

/-- The engine's ended command leaves the engine, and its command, or its part, ends. After a thermal trip the engine's clock stands
(R394). -/
def State.engDone (s : State) (e : Nat) (part : Bool) : State :=
  match (s.eng e).task with
  | none => s
  | some t =>
    if s.tripped = true ∨ t.id.eng.isSome ≠ part then s
    else
      let s := s.runOut e
      let x := s.eng e
      if x.run ≠ .ending then s
      else
        let r := x.resultOf t
        let s := s.engIdle e
        match s.cmd? t.id.sq t.id.seq with
        | none => s
        | some c => if part then s.partDone c e r else s.commitEngine c e r

/-- COMMAND_COMPLETE (R95): an unsplit engine command has ended and every write it issued has been performed. -/
def execCommandComplete (ne : Fin 6) (s : State) : Host.Outcome State Fault Refusal := .next (s.engDone ne.val false)

/-- PART_END (R237, R239). -/
def execPartEnd (ne : Fin 6) (s : State) : Host.Outcome State Fault Refusal := .next (s.engDone ne.val true)

/-! ### Stops (R100, R117) -/

/-- A stop of the engine's command: a fence, queue, ring or power wait ends at once, an issuing engine stops at the next
bundle boundary. -/
def State.engAbort (s : State) (e : Nat) : State :=
  let x := s.eng e
  match x.run with
  | .idle | .ending => s
  | .issuing => s.setEng e { x with stop := true }
  | _ => s.engStop e ⟨stAborted, 0, x.ctl.pc, 0, 0⟩ false

/-- STOP_REQ (R117): a write of NE_CTL with STOP_REQ. -/
def execStopReq (w : World) (ne : Fin 6) (s : State) : Host.Outcome State Fault Refusal :=
  .next (s.regOp w (Reg.neCtl ne.val |>.addr) true fun s => s.engAbort ne.val)

/-! ### Abort (R278) -/

/-- A task queued on an engine leaves its queue. -/
def State.unqueue (s : State) (t : TaskId) (e : Nat) : State :=
  s.modEng e fun x => { x with queue := x.queue.filter fun k => !(k.id == t) }

/-- The result of a part that ends unstarted. -/
def abortedResult (t : Task) : EngResult := ⟨t, ⟨stAborted, 0, 0, 0, 0⟩, false, false, false, 0⟩

/-- The abort of one part or of an unsplit engine command on engine `e`. -/
def State.abortOn (s : State) (c : Cmd) (t : TaskId) (e : Nat) : State :=
  match (s.eng e).queue.find? fun k => k.id == t with
  | some k =>
    let s := s.unqueue t e
    if t.eng.isSome then
      match s.cmd? c.sq c.seq with
      | some d => s.partDone d e (abortedResult k)
      | none => s
    else s.commit c stAborted 0 id
  | none =>
    match (s.eng e).task with
    | some k => if k.id = t then s.engAbort e else s
    | none => s

/-- The abort of an SDMA_ARM command: its running list stops, or its latched list never starts (Table 9.4). -/
def State.abortArm (s : State) (c : Cmd) : State :=
  let ch := fieldAt c.desc 16 1
  let d := mget (fun _ => ({} : Sdma)) s.sdmas ch
  let mine (r : Option ListRun) : Bool := match r with
    | some r => r.owner == some ⟨c.sq, c.seq, none⟩
    | none => false
  if mine d.cur then s.sdmaEnd ch stAborted 0 0
  else if mine d.latched then ({ s with sdmas := minsert ch { d with latched := none } s.sdmas } : State).commit c stAborted 0 id
  else s.commit c stAborted 0 id

/-- The load that a command processor was executing leaves its SQ in CPQ_LOADPROG, PROGRESS frozen at 0 (R374). -/
def State.loadStops (s : State) (c : Cmd) : State :=
  if fieldAt c.desc 0 1 = 2 ∧ c.phase = .dispatched then s.rset (.cpqLoadprog (c.sq % 2)) (c.sq * 65536) else s

/-- The abort of one accepted, uncommitted command; of a split command that does not run yet, no part has ended ST_OK
(R238). -/
def State.abortCmd (s : State) (sq seq : Nat) : State :=
  match s.cmd? sq seq with
  | none => s
  | some c =>
    let s := s.modCmd sq seq fun d => { d with aborting := true }
    let c := { c with aborting := true }
    if c.phase ≠ .running then
      (s.loadStops c).commit c stAborted 0 fun r => { r with partmap := (s.splitEngines c).foldl (fun m e => m + 2 ^ e) 0 }
    else
      match fieldAt c.desc 0 1 with
      | 4 =>
        if c.parts.isEmpty then
          (List.range 6).foldl (fun t e => t.abortOn c ⟨sq, seq, none⟩ e) s
        else
          (c.parts.filter fun p => p.result.isNone).foldl (fun t p => t.abortOn c ⟨sq, seq, engFin p.eng⟩ p.eng) s
      | 5 => s.abortArm c
      | _ => s.commit c stAborted 0 id

/-- Commands aborted in turn. -/
def State.abortAll (s : State) : List (Nat × Nat) → State
  | [] => s
  | p :: t => (s.abortCmd p.1 p.2).abortAll t

/-- Target SQ, ALL and SEQ of an ABORT. -/
def abortSq (d : List Byte) : Nat := fieldAt d 16 2 % 1024
def abortEvery (d : List Byte) : Bool := fieldAt d 18 1 % 2 == 1
def abortSeq (d : List Byte) : Nat := fieldAt d 20 4

/-- Whether a sequence number of a queue has been accepted: it lies below the number of descriptors accepted. -/
def State.seqAccepted (s : State) (q seq : Nat) : Bool :=
  let n := (mget (fun _ => ({} : Sq)) s.sqs q).dev
  n != 0 && decide ((n + 2 ^ 32 - 1 - seq) % 2 ^ 32 < min n (2 ^ 31))

/-- The context of a submission queue's commands in isolated mode; in tagged mode queues belong to no context. -/
def State.sqCtx (s : State) (q : Nat) : Nat := if s.rget .cpqInit = 2 then 0 else s.fget (.sqCfg q) 11 0

/-- Whether an ABORT fails with 0x0012 (Table 11.6). -/
def State.abortRefused (s : State) (c : Cmd) : Bool :=
  let q := abortSq c.desc
  s.sqCtx q != s.sqCtx c.sq || (!abortEvery c.desc && !s.seqAccepted q (abortSeq c.desc))

/-- The commands that an ABORT names, of those accepted before it (R278); a SEQ counts from the queue's last enable. -/
def State.abortTargets (s : State) (c : Cmd) : List (Nat × Nat) :=
  let base := (mget (fun _ => ({} : Sq)) s.sqs (abortSq c.desc)).base
  (s.cmds.filter fun d => d.sq == abortSq c.desc && !(d.sq == c.sq && d.seq == c.seq) &&
    (abortEvery c.desc || d.seq == (base + abortSeq c.desc) % 2 ^ 32)).map fun d => (d.sq, d.seq)

/-- An accepted ABORT takes effect on the commands that its acceptance found (R278); a sync entry at or above COUNT stops it
(R288). -/
def State.abortRun (s : State) (c : Cmd) : State :=
  if s.abortRefused c then s.commit c stRejected 0x12 id
  else
    match s.syncOver c with
    | some f => s.commit c stBound 0xD fun r => { r with detail := f }
    | none =>
      let ts := c.targets
      if ts.isEmpty && !abortEvery c.desc then
        s.commit c stAlreadyDone 0 id
      else
        let s := s.modCmd c.sq c.seq fun d => { d with phase := .running, naborted := ts.length }
        (s.abortAll ts).commitAborts

end Sys2Proof.Machine
end

