-- ==== Sys2Proof/Machine/Run.lean ====
section
/-! DEFINITION. RUN and its checks (R91, R218, R228, R233, R234, R264), stripes (R236), and the start of engine commands
(R93, R94, R170, R182, R235): RUN, COMMAND_START, PART_START. -/

namespace Sys2Proof.Machine

open Sys2Proof

/-- A command-level failure (Table 11.6): status, sub-code, DETAIL and the engine that reports it. -/
structure CmdErr where
  st  : Nat
  sub : Nat
  det : Nat := 0
  eng : Nat := 255
deriving DecidableEq, Repr

/-- A command completes with a failure, without running. -/
def State.failCmd (s : State) (c : Cmd) (x : CmdErr) : State :=
  s.commit c x.st x.sub fun r => { r with detail := x.det, failEng := x.eng }

/-- A read by a command processor through the command's context, which trains the stream trackers (R231); its failure is the
command's. -/
def State.cpRead (s : State) (ctx va n : Nat) : Except CmdErr (List Byte) × State :=
  match s.vreadTrain .gallery ctx va n with
  | (.ok bs, s) => (.ok bs, s)
  | (.error a, s) => (.error { st := a.st, sub := a.sub, det := a.det }, s)

/-! ### Fetch binding (R217, R218) -/

/-- Whether an entry of a fetch binding is well formed. -/
def bindOk (b : List Byte) : Bool :=
  let bound := fieldAt b 1 1 == 1
  decide (fieldAt b 0 1 ≤ 6 ∧ fieldAt b 1 1 ≤ 1) && fieldAt b 4 4 == 0 &&
  (!bound || (decide (1 ≤ fieldAt b 2 2 ∧ fieldAt b 2 2 ≤ 4096 ∧ fieldAt b 8 8 < 2 ^ 48) && fieldAt b 8 8 % 64 == 0))

/-- Bound queues of a binding: queue, ESZ, ENTRIES, LIST. -/
def bindQueues (b : List Byte) : List (Nat × Nat × Nat × Nat) :=
  (List.range 8).filterMap fun q =>
    let x := (b.drop (16 * q)).take 16
    if fieldAt x 1 1 = 1 then some (q, fieldAt x 0 1, fieldAt x 2 2, fieldAt x 8 8) else none

/-- The binding against the image's FQ_MASK. -/
def bindCheck (b : List Byte) (mask : Nat) : Bool :=
  let qs := bindQueues b
  ((List.range 8).all fun q => bindOk ((b.drop (16 * q)).take 16)) &&
  ((List.range 8).all fun q => (qs.any fun x => x.1 == q) == (mask / 2 ^ q % 2 == 1)) &&
  decide ((qs.map fun x => x.2.2.1 * (64 * 2 ^ x.2.1)).sum ≤ 262144)

/-- The fetch binding of a command, empty for address 0. -/
def State.readBind (s : State) (c : Cmd) : Except CmdErr (List Byte) × State :=
  let a := fieldAt c.desc 32 8
  if a = 0 then (.ok (List.replicate 128 0), s) else s.cpRead c.ctx a 128

/-! ### Ring operands (R228) -/

/-- Whether ring operand word `w` of a command of a context fails; in tagged mode every command belongs to context 0
(R214). -/
def State.ringOpBad (s : State) (ctx w : Nat) : Bool :=
  let r := w % 64
  (s.ring r).state != 1 || s.ringCtx r != s.pmtCtx ctx || !decide (bits w 10 8 < s.ringCons r) ||
    bits w 7 6 != 0 || bits w 15 11 != 0

/-- The lowest failing ring operand. -/
def State.ringOpsBad (s : State) (ctx n : Nat) (args : List Byte) : Option Nat :=
  (List.range n).find? fun j => s.ringOpBad ctx (fieldAt args (8 * j) 8)

/-! ### One part -/

/-- What a part asks for: engine, TBASE and TLIMIT in 64 KiB units, ARGS, S53 to S55. -/
structure PartReq where
  eng    : Nat
  tbase  : Nat
  tlimit : Nat
  args   : Nat
  s53    : Nat := 0
  s54    : Nat := 0
  s55    : Nat := 0
deriving DecidableEq, Repr

/-- Whether R264 admits an image on the engine of a part: loaded there, at this TBASE, with a TLIMIT that holds it. -/
def Image.admits (im : Image) (p : PartReq) : Bool :=
  decide (p.eng ≤ 5) && im.engs / 2 ^ p.eng % 2 == 1 && p.tbase * 65536 == im.tbase && decide (im.taskMin ≤ p.tlimit * 65536)

/-- The task of a part, or its first failure (R91, R234), in the order of R234's list; `ok` says whether the part's
entry in the split block is well formed, and `bind` is what the read of the fetch binding gave. The failing part's engine is
reported. -/
def State.partTask (s : State) (c : Cmd) (split : Bool) (im : Image) (bind : Except CmdErr (List Byte)) (p : PartReq × Bool) :
    Except CmdErr Task × State :=
  let who := if split then p.1.eng else 255
  let err (st sub : Nat) : Except CmdErr Task := .error { st := st, sub := sub, eng := who }
  let e := p.1.eng
  if !p.2 then (err stBound 9, s)
  else if 3584 < p.1.tbase + p.1.tlimit then (err stBound 0, s)
  else if split && im.engMask / 2 ^ e % 2 == 0 then (err stRejected 6, s)
  else if split && im.scatter && e < 4 then (err stRejected 6, s)
  else
    match bind with
    | .error x => (.error { x with eng := who }, s)
    | .ok bind =>
      if !bindCheck bind im.fqMask then (err stBound 8, s)
      else
        match s.cpRead c.ctx p.1.args 64 with
        | (.error x, s) => (.error { x with eng := who }, s)
        | (.ok args, s) =>
          match s.ringOpsBad c.ctx im.ringOps args with
          | some j => (.error { st := stBound, sub := 8, det := j, eng := who }, s)
          | none =>
            let id : TaskId := ⟨c.sq, c.seq, if split then engFin e else none⟩
            (.ok {
              id := id, ctx := c.ctx, image := fieldAt c.desc 16 2
              tbase := p.1.tbase * 65536, tlimit := p.1.tlimit * 65536
              args := (List.range 8).map fun j => BitVec.ofNat 64 (fieldAt args (8 * j) 8)
              fbind := bindQueues bind, prio := s.fget (.sqCfg c.sq) 28 26
              s53 := p.1.s53, s54 := p.1.s54, s55 := p.1.s55
              declared := s.declaredList c (if split then some e else none) }, s)

/-- The tasks of every part, or the first failure. -/
def State.partTasks (s : State) (c : Cmd) (split : Bool) (im : Image) (bind : Except CmdErr (List Byte)) :
    List (PartReq × Bool) → Except CmdErr (List Task) × State
  | [] => (.ok [], s)
  | p :: t =>
    match s.partTask c split im bind p with
    | (.error x, s) => (.error x, s)
    | (.ok k, s) =>
      match s.partTasks c split im bind t with
      | (.error x, s) => (.error x, s)
      | (.ok ks, s) => (.ok (k :: ks), s)

/-! ### Split blocks (R233, R236) -/

/-- Engines of a mask in increasing order. -/
def splitEngs (b : List Byte) : List Nat := maskList (fieldAt b 0 1)

/-- Whether a part entry is well formed. -/
def partEntryOk (b : List Byte) (e : Nat) : Bool :=
  let p := (b.drop (32 + 16 * e)).take 16
  if fieldAt b 0 1 / 2 ^ e % 2 = 1 then fieldAt p 8 8 % 64 == 0 && decide (fieldAt p 8 8 < 2 ^ 48)
  else p.all (· == 0)

/-- Table 10.1, and the zero entries of engines outside ENGMASK: what a split block says of every part. -/
def splitHeadOk (b : List Byte) : Bool :=
  let h := fieldAt b 4 4
  let g := fieldAt b 8 4
  decide (1 ≤ fieldAt b 0 1 ∧ fieldAt b 0 1 < 64 ∧ fieldAt b 1 1 < 4) && fieldAt b 2 2 == 0 &&
  (if fieldAt b 1 1 % 2 = 1 then decide (1 ≤ h ∧ h ≤ 1048576 ∧ 1 ≤ g ∧ g ≤ h) else h == 0 && g == 0) &&
  ((b.drop 12).take 20).all (· == 0) &&
  (List.range 6).all fun e => (splitEngs b).contains e || partEntryOk b e

/-- Position of engine `e` when engines are ordered by `c` descending, then by number. -/
def clockRank (cs : List (Nat × Nat)) (e c : Nat) : Nat :=
  (cs.filter fun p => decide (c < p.2) || (p.2 == c && decide (p.1 < e))).length

/-- R236: granules of each engine; `ns` gives each engine with its divider. -/
def granules (h g : Nat) (ns : List (Nat × Nat)) : List (Nat × Nat) :=
  let u := ceilDiv h g
  let cs := ns.map fun p => (p.1, 2 ^ 20 / p.2)
  let w := (cs.map (·.2)).sum
  let q := cs.map fun p => (p.1, p.2, u * p.2 / w)
  let r := u - (q.map (·.2.2)).sum
  q.map fun p => (p.1, p.2.2 + if clockRank cs p.1 p.2.1 < r then 1 else 0)

/-- First row and row count of each engine. -/
def stripeRows (h g : Nat) : Nat → List (Nat × Nat) → List (Nat × Nat × Nat)
  | _, [] => []
  | row, p :: t =>
    let first := min row h
    (p.1, first, min (row + p.2 * g) h - first) :: stripeRows h g (row + p.2 * g) t

/-- The divider of an engine for R236. -/
def State.divider (s : State) (nsel e : Nat) : Nat := if nsel = 1 then (s.eng e).curN else s.fuse.nmin.getD e 32

/-- The stripes of a split block. -/
def State.stripes (s : State) (b : List Byte) : List (Nat × Nat × Nat) :=
  let es := splitEngs b
  if fieldAt b 1 1 % 2 = 1 then
    stripeRows (fieldAt b 4 4) (fieldAt b 8 4) 0
      (granules (fieldAt b 4 4) (fieldAt b 8 4) (es.map fun e => (e, s.divider (fieldAt b 1 1 / 2 % 2) e)))
  else es.map fun e => (e, 0, 0)

/-- The parts of a split block by their stripes, each with whether its entry is well formed; an ARGS of 0 selects the
command's argument block. -/
def splitReqs (c : Cmd) (b : List Byte) (st : List (Nat × Nat × Nat)) : List (PartReq × Bool) :=
  (st.zip (List.range st.length)).map fun p =>
    let e := p.1.1
    let a := fieldAt b (40 + 16 * e) 8
    ({ eng := e, tbase := fieldAt b (32 + 16 * e) 4, tlimit := fieldAt b (36 + 16 * e) 4
       args := if a = 0 then fieldAt c.desc 24 8 else a, s53 := p.2, s54 := p.1.2.1, s55 := p.1.2.2 }, partEntryOk b e)

/-! ### RUN -/

/-- TBASE and TLIMIT of the part of engine `e` as its entry has them. -/
def partReq (b : List Byte) (e : Nat) : PartReq :=
  { eng := e, tbase := fieldAt b (32 + 16 * e) 4, tlimit := fieldAt b (36 + 16 * e) 4, args := 0 }

/-- The tasks of a RUN and the stripes of its parts, or its failure: admission by R264 comes first (Table 11.6). The dividers of R236 are sampled once: a plan that the
dispatch has made is kept (DESIGN CHOICE, log entry 54). -/
def State.runPlan (s : State) (c : Cmd) : Except CmdErr (List Task × List (Nat × Nat × Nat)) × State :=
  match mfind s.images (fieldAt c.desc 16 2) with
  | none => (.error { st := stRejected, sub := 0x11 }, s)
  | some im =>
    if s.pmtCtx im.ctx ≠ s.pmtCtx c.ctx then (.error { st := stRejected, sub := 0x11 }, s)
    else if c.split then
      let a := fieldAt c.desc 18 6
      if a % 64 ≠ 0 then (.error { st := Config.openStatus 1, sub := 0 }, s)
      else
        match s.cpRead c.ctx a 128 with
        | (.error x, s) => (.error x, s)
        | (.ok b, s) =>
          if let some e := (splitEngs b).find? fun e => !im.admits (partReq b e) then
            (.error { st := stRejected, sub := 0x11, eng := e }, s)
          else if !splitHeadOk b then (.error { st := stBound, sub := 9, eng := (splitEngs b).headD 255 }, s)
          else
            let st := if c.plan.isEmpty then s.stripes b else c.plan
            let q := s.readBind c
            match q.2.partTasks c true im q.1 (splitReqs c b st) with
            | (.error x, s) => (.error x, s)
            | (.ok ts, s) => (.ok (ts, st), s)
    else
      let r : PartReq := { eng := fieldAt c.desc 18 1, tbase := fieldAt c.desc 20 2, tlimit := fieldAt c.desc 22 2
                           args := fieldAt c.desc 24 8 }
      if !im.admits r then (.error { st := stRejected, sub := 0x11 }, s)
      else
        let q := s.readBind c
        match q.2.partTasks c false im q.1 [(r, true)] with
        | (.error x, s) => (.error x, s)
        | (.ok ts, s) => (.ok (ts, []), s)

/-- BARRIER of a command. -/
def Cmd.barrier (c : Cmd) : Bool := fieldAt c.desc 1 1 / 4 % 2 == 1

/-- Whether BARRIER lets a command start: every earlier command of its queue has committed (R262). -/
def State.barrierOk (s : State) (c : Cmd) : Bool :=
  !c.barrier || (s.cmds.find? fun d => d.sq == c.sq).map (·.seq) == some c.seq

/-- A dispatched command of an opcode that can start. -/
def State.ready? (s : State) (sq seq op : Nat) : Option Cmd :=
  match s.cmd? sq seq with
  | some c => if c.phase = .dispatched ∧ fieldAt c.desc 0 1 = op ∧ s.barrierOk c = true then some c else none
  | none => none

/-- The engine of a task. -/
def Task.engine (t : Task) (c : Cmd) : Nat :=
  match t.id.eng with
  | some e => e.val
  | none => fieldAt c.desc 18 1

/-- Tasks queued on their engines. -/
def State.enqueue (s : State) (c : Cmd) : List Task → State
  | [] => s
  | t :: ts => (s.modEng (t.engine c) fun x => { x with queue := x.queue ++ [t] }).enqueue c ts

/-- RUN (R264, R234): the command's checks are made again, then each part is queued on its engine. -/
def execRun (sq : Fin 1024) (seq : W32) (s : State) : Host.Outcome State Fault Refusal :=
  .next <|
    match s.ready? sq.val seq.toNat 4 with
    | none => s
    | some c =>
      match s.runPlan c with
      | (.error x, s) => s.failCmd c x
      | (.ok p, s) =>
        let parts := if c.split then p.1.map fun t => ⟨t.engine c, none⟩ else []
        (s.modCmd c.sq c.seq fun d => { d with phase := .running, parts := parts }).enqueue c p.1

/-! ### Start of an engine command -/

/-- The task an idle engine takes next: the highest priority, then the first queued. -/
def nextTask : List Task → Option Task
  | [] => none
  | t :: ts =>
    match nextTask ts with
    | none => some t
    | some u => if t.prio < u.prio then some u else some t

/-- The entries of a palette record, 16 bits each. -/
def packEntries (es : List Nat) : Nat := le (es.flatMap fun x => leBytes 2 x)

/-- The palette section loaded: each record writes its entries from 0 up and the slot's tag (R114). -/
def loadPalettes (pal : SMap PalSlot) : List PalRec → SMap PalSlot
  | [] => pal
  | r :: t =>
    let old := (mget (fun _ => ({} : PalSlot)) pal r.slot).entries
    let n := 16 * r.entries.length
    loadPalettes (minsert r.slot ⟨old / 2 ^ n * 2 ^ n + packEntries r.entries % 2 ^ n, r.tag⟩ pal) t

/-- R94: on a change of context the engine clears what persists; the resident tile goes with it, since no command begins with
REUSE (R82) (DESIGN CHOICE, log entry 64). -/
def Engine.clearCtx (x : Engine) : Engine :=
  { x with vregs := [], acm := [], bias := [], pal := [], lastImg := none, tile := {} }

/-- Scalar registers at the start (R93, R235). -/
def startRegs (t : Task) : SMap W64 :=
  let args := (t.args.zip (List.range 8)).map fun p => (56 + p.2, p.1)
  [(53, BitVec.ofNat 64 t.s53), (54, BitVec.ofNat 64 t.s54), (55, BitVec.ofNat 64 t.s55)] ++ args

/-- The fetch queues of a command: each bound queue starts (R218). -/
def startQueues (t : Task) : SMap FetchQ :=
  t.fbind.foldl (fun m q =>
    minsert q.1 { state := 1, esz := q.2.1, entries := q.2.2.1
                  run := some (newRun t.ctx q.2.2.2 (some t.id) t.declared) } m) []

/-- The engine as the command's first bundle finds it (R93, R94, R110, R150, R170, R182); `ctx` is the command's context, 0 for
every tag in tagged mode (R214). The 32 cycles in which a change of context zeroes the vector registers count neither in NE_CYC
nor in the command's cycles (DESIGN CHOICE, log entry 88). -/
def Engine.begin (x : Engine) (t : Task) (im : Image) (ctx ctl : Nat) : Engine :=
  let x := if x.lastCtx = some ctx then x else x.clearCtx
  { x with
    pal := if x.lastImg = some t.image then x.pal else loadPalettes x.pal im.palettes
    lastCtx := some ctx
    lastImg := some t.image
    sregs := startRegs t
    aregs := [], pregs := [], win := [], mons := [], guards := [], held := [], pend := [], stores := [], syncs := []
    rows := [], ops := [], posted := []
    ctl := { pc := im.entry }
    run := .budget
    endHold := false
    floorHeld := false
    peak := 0
    phaseEnd := none
    cBusy := x.cyc
    elapsed := 0
    before := 0
    began := false
    reads := []
    phaseid := 0
    reruns := 0
    pntCtl := ctl
    queue := x.queue.filter fun k => !(k.id == t.id)
    task := some t
    pent := false, empty := false, ooo := false, discard := 0
    flt := ⟨0, 0, 0, 0, 0⟩
    faulted := false
    endRec := ⟨0, 0, 0, 0, 0⟩
    late := none
    opened := false
    tbase := t.tbase
    tlimit := t.tlimit
    fqs := startQueues t
    fqRr := 0
    stop := false }

/-- Whether an engine can start a command: idle, powered and enabled (R117). -/
def State.engFree (s : State) (e : Nat) : Bool :=
  let x := s.eng e
  x.run == .idle && x.idle == .active && s.fget (.neCtl e) 0 0 == 1 && !s.tripped

/-- An idle engine starts its next task, where that is a part or not as `part` says. Its first bundle waits for a grant
(R391). -/
def State.engStart (s : State) (e : Nat) (part : Bool) : State :=
  match nextTask (s.eng e).queue with
  | none => s
  | some t =>
    if t.id.eng.isSome ≠ part ∨ s.engFree e = false then s
    else
      match mfind s.images t.image with
      | none => s
      | some im =>
        let s := s.setEng e ((s.eng e).begin t im (s.pmtCtx t.ctx) (s.rget (.pntCtl e)))
        (s.touchNeed (s.eng e).phaseKey).allocate

/-- COMMAND_START (R93): an idle engine starts an unsplit command. -/
def execCommandStart (ne : Fin 6) (s : State) : Host.Outcome State Fault Refusal := .next (s.engStart ne.val false)

/-- PART_START (R234, R235). -/
def execPartStart (ne : Fin 6) (s : State) : Host.Outcome State Fault Refusal := .next (s.engStart ne.val true)

end Sys2Proof.Machine
end

