-- ==== Sys2Proof/Machine/Queues.lean ====
section
/-! DEFINITION. Submission and completion queues (R258 to R269, R275, R281): KICK, SQ_POLL, DESCRIPTOR_ACCEPT,
COMMAND_DISPATCH, NOP, SDMA_ARM, WINDOW, COMPLETION_WRITE, CQ_COALESCE_TIMER, QUEUE_EN_WRITE. -/

namespace Sys2Proof.Machine

open Sys2Proof

/-! ### Queue registers -/

def State.sq (s : State) (q : Nat) : Sq := mget (fun _ => {}) s.sqs q
def State.setSq (s : State) (q : Nat) (x : Sq) : State := { s with sqs := minsert q x s.sqs }
def State.cq (s : State) (c : Nat) : Cq := mget (fun _ => {}) s.cqs c
def State.setCq (s : State) (c : Nat) (x : Cq) : State := { s with cqs := minsert c x s.cqs }

/-- Entries of a ring: 2^(LOGSZ + 1). -/
def State.sqSize (s : State) (q : Nat) : Nat := 2 ^ (s.fget (.sqCfg q) 15 12 + 1)
def State.cqSize (s : State) (c : Nat) : Nat := 2 ^ (s.fget (.cqCfg c) 15 12 + 1)
def State.sqEn (s : State) (q : Nat) : Bool := s.fget (.sqCfg q) 31 31 == 1
def State.cqEn (s : State) (c : Nat) : Bool := s.fget (.cqCfg c) 31 31 == 1

/-- Host addresses of the rings and doorbell records. -/
def State.sqRing (s : State) (q : Nat) : Nat := s.rget (.sqBase q) / 4096 * 4096
def State.cqRing (s : State) (c : Nat) : Nat := s.rget (.cqBase c) / 4096 * 4096
def State.sqBell (s : State) (q : Nat) : Nat := s.rget (.sqDb q) / 16 * 16
def State.cqBell (s : State) (c : Nat) : Nat := s.rget (.cqDb c) / 16 * 16

/-- Tagged mode (R255). -/
def State.tagged (s : State) : Bool := s.rget .cpqInit == 2

/-! ### Doorbell records (R259, R260) -/

/-- DEV_INDEX and DEV_FLAGS of a submission queue, one write of 8 bytes. -/
def State.writeSqBell (s : State) (q : Nat) : State :=
  s.hostWrite (s.sqBell q + 8) (leBytes 4 (s.sq q).dev ++ leBytes 4 (bitOf (s.sq q).needKick))

/-- A failed read of descriptors or of a doorbell record (R281). -/
def State.sqError (s : State) (q : Nat) : State :=
  (s.setSq q { s.sq q with error := true, fetched := [] }).event 2

/-- `n` descriptors of 64 bytes. -/
def cutDescs (n : Nat) (bs : List Byte) : List (List Byte) :=
  (List.range n).map fun i => (bs.drop (64 * i)).take 64

/-- A burst is fetched: up to 16 descriptors, of `n` that the record shows, that do not wrap past the ring's end (R261). -/
def State.fetchBurst (s : State) (q n : Nat) : State :=
  let x := s.sq q
  let at_ := x.dev % s.sqSize q
  let k := min (min n 16) (s.sqSize q - at_)
  match s.hostRead (s.sqRing q + 64 * at_) (64 * k) with
  | (none, t) => t.sqError q
  | (some bs, t) =>
    let t := t.setSq q { x with fetched := cutDescs k bs, left := n - k, needKick := false }
    if x.needKick then t.writeSqBell q else t

/-- The doorbell record of a queue is read; unless a burst is held, the next one is fetched. With nothing left and POLL 0,
NEED_KICK is written; no host write can come between that write and the second read within one step, so the second read
shows what the first did (R260, R261, R281). -/
def State.sqRead (s : State) (q : Nat) : State :=
  if !s.sqEn q || (s.sq q).error || s.fatal || !s.ready then s
  else
    match s.hostRead (s.sqBell q) 16 with
    | (none, t) => t.sqError q
    | (some r, t) =>
      let x := { t.sq q with host := fieldAt r 0 4 }
      let n := min ((x.host + 2 ^ 32 - x.dev % 2 ^ 32) % 2 ^ 32) (t.sqSize q)
      if !x.fetched.isEmpty then t.setSq q { x with left := n - x.fetched.length }
      else if n = 0 then
        if t.fget (.sqPollR q) 15 0 = 0 then (t.setSq q { x with needKick := true, left := 0 }).writeSqBell q
        else t.setSq q { x with left := 0 }
      else (t.setSq q x).fetchBurst q n

/-- KICK (R250, R260): a write to CPQ_KICK or to a kick page. -/
def execKick (sq : Fin 1024) (s : State) : Host.Outcome State Fault Refusal := .next (s.sqRead sq.val)

/-- SQ_POLL (R260): POLL microseconds have passed. -/
def execSqPoll (sq : Fin 1024) (s : State) : Host.Outcome State Fault Refusal :=
  .next (if s.fget (.sqPollR sq.val) 15 0 = 0 then s else s.sqRead sq.val)

/-! ### Acceptance (R261, R263, R265, R266, R275) -/

/-- Operand bytes that must be zero, and operand ranges, by opcode (Table 11.5). -/
def operandsBad (d : List Byte) : Bool :=
  let z (o n : Nat) : Bool := fieldAt d o n == 0
  let va (o : Nat) : Bool := decide (fieldAt d o 8 < 2 ^ 48)
  let image : Bool := decide (fieldAt d 16 2 < 4096)
  !(match fieldAt d 0 1 with
    | 1 => z 16 24
    | 2 => image && decide (fieldAt d 18 1 < 64) && z 19 1 && va 24
    | 3 => image && z 18 22
    | 4 => image && va 24 && va 32 && (fieldAt d 1 1 / 2 % 2 == 1 || z 19 1)
    | 5 => decide (fieldAt d 16 1 < 16) && z 17 7 && va 24 && fieldAt d 24 8 % 64 == 0 && z 32 8
    | 6 => decide (fieldAt d 16 2 < 1024 ∧ fieldAt d 18 1 < 2) && z 19 1 && z 24 16
    | 7 => decide (fieldAt d 17 1 < 16 ∧ fieldAt d 19 1 < 4) && z 24 16
    | _ => false)

/-- A reserved opcode or field, a misaligned list or a count out of range, in the descriptor itself. -/
def descBad (tagged : Bool) (d : List Byte) : Bool :=
  operandsBad d || decide (8 ≤ fieldAt d 1 1) || (fieldAt d 1 1 / 2 % 2 == 1 && fieldAt d 0 1 != 4) ||
  (if tagged then decide (4096 ≤ fieldAt d 2 2) else fieldAt d 2 2 != 0) || fieldAt d 12 4 != 0 ||
  fieldAt d 40 8 % 16 != 0 || decide (2 ^ 48 ≤ fieldAt d 40 8) || decide (1024 < fieldAt d 48 2) ||
  decide (256 < fieldAt d 50 2) || fieldAt d 52 4 != 0 || fieldAt d 56 8 % 16 != 0 ||
  decide (2 ^ 48 ≤ fieldAt d 56 8)

/-- Entries of 16 bytes. -/
def cut16 (n : Nat) (bs : List Byte) : List (List Byte) := (List.range n).map fun i => (bs.drop (16 * i)).take 16

/-- An object list entry that breaks R265. -/
def objBad (e : List Byte) : Bool :=
  decide (2 ^ 48 ≤ fieldAt e 0 8 ∨ fieldAt e 8 8 = 0 ∨ 2 ^ 40 < fieldAt e 8 8)

/-- A sync list entry that breaks R265 or R291. -/
def syncBad (split : Bool) (e : List Byte) : Bool :=
  let kind := fieldAt e 4 1
  decide (2 ^ 17 ≤ fieldAt e 0 4 ∨ 2 < kind ∨ 64 ≤ fieldAt e 5 1) || fieldAt e 6 2 != 0 ||
  ((kind != 2 || !split) && fieldAt e 5 1 != 0) || (kind == 2 && fieldAt e 8 8 != 0)

def parseSync (e : List Byte) : SyncEnt := ⟨fieldAt e 0 4 % 2 ^ 17, fieldAt e 4 1, fieldAt e 5 1, fieldAt e 8 8⟩

/-- The first address of a range that has no mapping, page by page. -/
def State.unmappedFrom (s : State) (ctx hi : Nat) : Nat → Nat → Option Nat
  | 0, va => if va < hi then some va else none
  | k + 1, va =>
    if hi ≤ va then none
    else
      match s.pmtEntry ctx va with
      | none => some va
      | some _ => s.unmappedFrom ctx hi k (va / 65536 * 65536 + 65536)

/-- The entries that cover every object (R275): none unless every byte is mapped; else the first failure with the index of
its object. -/
def State.coverObjs (s : State) (ctx : Nat) : Nat → List (List Byte) → Except (Nat × Nat) (List Nat)
  | _, [] => .ok []
  | i, e :: t =>
    match s.cover ctx (fieldAt e 0 8) (fieldAt e 8 8) with
    | none => .error (i, (s.unmappedFrom ctx (fieldAt e 0 8 + fieldAt e 8 8) (fieldAt e 8 8 / 65536 + 2)
        (fieldAt e 0 8)).getD 0 % 2 ^ 32)
    | some ps =>
      match s.coverObjs ctx (i + 1) t with
      | .error x => .error x
      | .ok qs => .ok (union ps qs)

/-- The index of the first object one of whose entries has PIN = 4,095. -/
def State.fullObj (s : State) (ctx : Nat) (objs : List (List Byte)) : Nat :=
  (objs.map fun e => match s.cover ctx (fieldAt e 0 8) (fieldAt e 8 8) with
    | some ps => ps.any (pinFull s.pmt)
    | none => false).idxOf true

/-- What acceptance finds: the sync list and the entries to pin, or the failure with its INDEX. -/
def State.acceptCheck (s : State) (c : Cmd) : Except (CmdErr × Nat) (List SyncEnt × List Nat) × State :=
  let rej : Except (CmdErr × Nat) (List SyncEnt × List Nat) := .error ({ st := stRejected, sub := 0x10 }, 0)
  if descBad s.tagged c.desc then (rej, s)
  else
    let no := fieldAt c.desc 48 2
    let ns := fieldAt c.desc 50 2
    match s.cpRead c.ctx (fieldAt c.desc 40 8) (16 * no) with
    | (.error x, s) => (.error (x, 0), s)
    | (.ok ob, s) =>
      match s.cpRead c.ctx (fieldAt c.desc 56 8) (16 * ns) with
      | (.error x, s) => (.error (x, 0), s)
      | (.ok sb, s) =>
        let objs := cut16 no ob
        let syncs := cut16 ns sb
        if objs.any objBad || syncs.any (syncBad c.split) ||
            (fieldAt c.desc 0 1 == 6 && syncs.any fun e => fieldAt e 4 1 == 0) then (rej, s)
        else
          match s.coverObjs c.ctx 0 objs with
          | .error (i, a) => (.error ({ st := stUnmapped, sub := 1, det := a }, i), s)
          | .ok ps =>
            if ps.any (pinFull s.pmt) then (.error ({ st := stBound, sub := 0xC }, s.fullObj c.ctx objs), s)
            else (.ok (syncs.map parseSync, ps), s)

/-- Free entries of a completion queue: those not written and not reserved below HOST_INDEX + SIZE. -/
def State.cqRoom (s : State) (c : Nat) : Bool :=
  let x := s.cq c
  decide ((x.dev + x.reserved + 2 ^ 32 - x.host) % 2 ^ 32 < s.cqSize c)

/-- The CQ's HOST_INDEX read afresh. -/
def State.cqRefresh (s : State) (c : Nat) : State :=
  match s.hostRead (s.cqBell c) 16 with
  | (some r, t) => t.setCq c { t.cq c with host := fieldAt r 0 4 }
  | (none, t) => t

/-- Whether a queue may accept: CQ room, 256 commands of the queue, 4,096 in all, no ST_FATAL (R261, R281). -/
def State.mayAccept (s : State) (q : Nat) : Bool :=
  s.sqEn q && !(s.sq q).error && !s.fatal && s.cqRoom (s.cqOf q) &&
  decide ((s.cmds.filter fun c => c.sq == q).length < 256) && decide (s.cmds.length < 4096)

/-- The context of a queue's descriptor. -/
def State.descCtx (s : State) (q : Nat) (d : List Byte) : Nat :=
  if s.tagged then fieldAt d 2 2 % 4096 else s.fget (.sqCfg q) 11 0

/-- One descriptor accepted: an entry of the CQ is reserved, DEV_INDEX rises and is written, and the command is checked and
pins its objects. A failure completes at once and holds no pin; a command of a tag that is being destroyed ends
ST_ABORTED. An ABORT takes effect at its acceptance, on the commands accepted before it (R278). -/
def State.acceptOne (s : State) (q : Nat) (d : List Byte) : State :=
  let x := s.sq q
  let cq := s.cqOf q
  let s := (s.setSq q { x with dev := x.dev + 1, fetched := x.fetched.tail }).setCq cq
    { s.cq cq with reserved := (s.cq cq).reserved + 1 }
  let s := s.writeSqBell q
  let c : Cmd := { sq := q, seq := (x.base + x.dev) % 2 ^ 32, rseq := x.dev % 2 ^ 32, cq := cq, ctx := s.descCtx q d, desc := d
                   sync := [], phase := .accepted, pins := [], pre := none }
  if s.tagged && s.ctxSt c.ctx == 2 then s.commit c stAborted 0 id
  else
    match s.acceptCheck c with
    | (.error (e, i), s) => s.commit c e.st e.sub fun r => { r with detail := e.det, index := i }
    | (.ok (sy, ps), s) =>
      let c := { c with sync := sy, pins := ps }
      let ab := fieldAt d 0 1 == 6
      let c := if ab then { c with phase := .dispatched, targets := s.abortTargets c } else c
      let s : State := { s with cmds := s.cmds ++ [c], pmt := pinAll s.pmt ps }
      if ab then s.abortRun c else s

/-- The next descriptor of a burst is accepted as the host's memory now holds it, if `want` admits it. After the burst's last the
doorbell record is read again where its last read showed entries left, and where POLL is 0 (DEDUCED, log entry 5). -/
def State.acceptNext (s : State) (q : Nat) (want : List Byte → Bool) : State :=
  let s := s.cqRefresh (s.cqOf q)
  match (s.sq q).fetched with
  | [] => s
  | _ :: rest =>
    if s.mayAccept q then
      match s.hostRead (s.sqRing q + 64 * ((s.sq q).dev % s.sqSize q)) 64 with
      | (none, s) => s.sqError q
      | (some d, s) =>
        if want d then
          let s := s.acceptOne q d
          if rest.isEmpty && ((s.sq q).left != 0 || s.fget (.sqPollR q) 15 0 == 0) then s.sqRead q else s
        else s
    else s

/-- DESCRIPTOR_ACCEPT (R259, R260, R261). -/
def execDescriptorAccept (sq : Fin 1024) (s : State) : Host.Outcome State Fault Refusal :=
  .next (s.acceptNext sq.val fun _ => true)

/-- ABORT (R278): the next descriptor of the queue, if it is the ABORT of this number, is accepted, which is when it takes
effect. -/
def execAbort (sq : Fin 1024) (seq : W32) (s : State) : Host.Outcome State Fault Refusal :=
  .next <|
    let x := s.sq sq.val
    if (x.base + x.dev) % 2 ^ 32 = seq.toNat then s.acceptNext sq.val fun d => fieldAt d 0 1 == 6 else s

/-! ### Dispatch (R262, R265, R266, R288) -/

/-- Whether a WINDOW command's open would be refused (R191). -/
def State.winCmdRefused (s : State) (d : List Byte) : Bool :=
  let e := fieldAt d 16 1
  let w := fieldAt d 17 1
  s.winState e w != 0 ||
  !(((s.fset (.gsWinBase e w) 31 16 (fieldAt d 20 2)).fset (.gsWinSize e w) 31 16 (fieldAt d 22 2)).winOpenOk e w)

/-- Whether SDMA_ARM fails with 0x0018. -/
def State.armRefused (s : State) (c : Cmd) : Bool :=
  let ch := fieldAt c.desc 16 1
  s.fget (.sdmaCfg ch) 0 0 == 0 || s.sdmaCtx ch != s.pmtCtx c.ctx

/-- The checks of Table 11.6 marked Dispatch (DESIGN CHOICE, log entry 54). -/
def State.dispatchCheck (s : State) (c : Cmd) : Except CmdErr (List (Nat × Nat × Nat)) × State :=
  let ask (bad : Bool) (x : CmdErr) : Except CmdErr (List (Nat × Nat × Nat)) × State := (if bad then .error x else .ok [], s)
  match fieldAt c.desc 0 1 with
  | 2 => ask (mfind s.images (fieldAt c.desc 16 2)).isSome { st := stRejected, sub := 0x11 }
  | 4 =>
    match s.runPlan c with
    | (.error x, s) => (.error x, s)
    | (.ok p, s) => (.ok p.2, s)
  | 5 => ask (s.armRefused c) { st := stRejected, sub := 0x18 }
  | 7 =>
    if 5 < fieldAt c.desc 16 1 ∨ ¬ (fieldAt c.desc 18 1 = 1 ∨ fieldAt c.desc 18 1 = 2) then
      ask true { st := Config.openStatus 2, sub := 0 }
    else ask (fieldAt c.desc 18 1 == 1 && s.winCmdRefused c.desc) { st := stRejected, sub := 0x13 }
  | _ => ask false { st := stOk, sub := 0 }

/-- The next command of a queue in acceptance order (R262). -/
def nextOf (cs : List Cmd) (q : Nat) : Option Cmd := cs.find? fun c => c.sq == q && c.phase == .accepted

/-- Commands that a command processor can dispatch: one for each of its queues. -/
def State.candidates (s : State) (cp : Nat) : List Cmd :=
  let qs := ((s.cmds.filter fun c => c.sq % 2 == cp).map (·.sq)).eraseDups
  qs.filterMap (nextOf s.cmds)

/-- PRIO of a queue. -/
def State.sqPrio (s : State) (q : Nat) : Nat := s.fget (.sqCfg q) 28 26

/-- Of two candidates the one to dispatch: the higher PRIO, then the nearer to the round robin pointer. -/
def State.better (s : State) (cp : Nat) (a b : Cmd) : Cmd :=
  let pa := s.sqPrio a.sq
  let pb := s.sqPrio b.sq
  if pa < pb then b
  else if pb < pa then a
  else
    let p := mget (fun _ => 0) s.rrCp (cp * 8 + pa)
    if (b.sq + 1024 - p) % 1024 < (a.sq + 1024 - p) % 1024 then b else a

/-- The command that a command processor dispatches next. -/
def State.pick (s : State) (cp : Nat) : List Cmd → Option Cmd
  | [] => none
  | c :: t =>
    match s.pick cp t with
    | none => some c
    | some d => some (s.better cp c d)

/-- A command dispatched: its checks, which sample the dividers of a split command (R236), then its pre-waits. -/
def State.dispatch (s : State) (c : Cmd) : State :=
  match s.dispatchCheck c with
  | (.error x, s) => s.failCmd c x
  | (.ok plan, s) =>
    match s.syncOver c with
    | some f => s.failCmd c { st := stBound, sub := 0xD, det := f }
    | none =>
      let c := { c with startT := s.now, phase := .prewait 0, plan := plan }
      (s.modCmd c.sq c.seq fun _ => c).nextPre c 0 c.sync

/-- COMMAND_DISPATCH (R262) (DEDUCED, log entry 5). -/
def execCommandDispatch (cp : Fin 2) (s : State) : Host.Outcome State Fault Refusal :=
  .next <|
    match s.pick cp.val (s.candidates cp.val) with
    | none => s
    | some c =>
      ({ s with rrCp := minsert (cp.val * 8 + s.sqPrio c.sq) ((c.sq + 1) % 1024) s.rrCp } : State).dispatch c

/-! ### NOP, SDMA_ARM, WINDOW -/

/-- NOP. -/
def execNop (sq : Fin 1024) (seq : W32) (s : State) : Host.Outcome State Fault Refusal :=
  .next <|
    match s.ready? sq.val seq.toNat 1 with
    | none => s
    | some c => s.commit c stOk 0 id

/-- SDMA_ARM (R214): the list starts or is latched, or the command completes with ST_BUSY_PENDING. -/
def execSdmaArm (sq : Fin 1024) (seq : W32) (s : State) : Host.Outcome State Fault Refusal :=
  .next <|
    match s.ready? sq.val seq.toNat 5 with
    | none => s
    | some c =>
      if s.armRefused c then s.failCmd c { st := stRejected, sub := 0x18 }
      else
        let r := newRun c.ctx (fieldAt c.desc 24 8) (some ⟨c.sq, c.seq, none⟩) (s.declaredList c none)
        match s.sdmaArm (fieldAt c.desc 16 1) r with
        | none => s.commit c stBusyPending 0 id
        | some t => t.modCmd c.sq c.seq fun d => { d with phase := .running }

/-- WINDOW (R191, R192): an open completes once the window is OPEN, a close once it is CLOSED. -/
def execWindow (sq : Fin 1024) (seq : W32) (s : State) : Host.Outcome State Fault Refusal :=
  .next <|
    match s.ready? sq.val seq.toNat 7 with
    | none => s
    | some c =>
      let d := c.desc
      let e := fieldAt d 16 1
      let w := fieldAt d 17 1
      if fieldAt d 18 1 = 1 then
        if s.winCmdRefused d then s.failCmd c { st := stRejected, sub := 0x13 }
        else
          let s := (s.fset (.gsWinBase e w) 31 16 (fieldAt d 20 2)).fset (.gsWinSize e w) 31 16 (fieldAt d 22 2)
          (s.winCtl e w (fieldAt d 19 1 % 2 == 1) (fieldAt d 19 1 / 2 % 2 == 1) true false).commit c stOk 0 id
      else if s.winState e w = 0 then s.commit c stOk 0 id
      else
        let rd := s.fget (.gsWinCtl e w) 2 2 == 1
        let wr := s.fget (.gsWinCtl e w) 3 3 == 1
        (s.winCtl e w rd wr false true).modCmd c.sq c.seq fun x => { x with phase := .running }

/-! ### Completion (R267 to R269) -/

/-- The 32 bytes of a completion record (Table 11.7). -/
def recBytes (r : Rec) (phase : Nat) : List Byte :=
  leBytes 4 r.cmdId ++ leBytes 4 r.seq ++ leBytes 2 (r.sq % 1024 + 32768 * phase) ++ leBytes 2 r.status ++
    leBytes 2 r.sub ++ leBytes 1 r.flags ++ leBytes 1 r.partmap ++ leBytes 1 r.failEng ++ leBytes 1 (r.failSlot % 4) ++
    leBytes 2 0 ++ leBytes 4 r.index ++ leBytes 4 r.detail ++ leBytes 4 r.discard

/-- PHASE of index `i` in a ring of `n` entries. -/
def phaseOf (i n : Nat) : Nat := if i / n % 2 = 0 then 1 else 0

/-- The message of a CQ; the count of records since the last message starts again. -/
def State.cqMessage (s : State) (c : Nat) : State :=
  (s.setCq c { s.cq c with since := 0 }).msix (s.fget (.cqCfg c) 10 0)

/-- A record written: its SIGNAL entries first, then the record, DEV_INDEX, the pins and the message. -/
def State.writeRec (s : State) (r : Rec) : State :=
  let g := s.signals r.signals
  let s := g.2
  let r := if g.1 then { r with flags := r.flags ||| 4 } else r
  let x := s.cq r.cq
  let n := s.cqSize r.cq
  let s := s.hostWrite (s.cqRing r.cq + 32 * (x.dev % n)) (recBytes r (phaseOf x.dev n))
  let s := s.setCq r.cq { x with dev := x.dev + 1, reserved := x.reserved - 1, since := x.since + 1 }
  let s := s.hostWrite (s.cqBell r.cq + 8) (leBytes 4 (x.dev + 1) ++ leBytes 4 0)
  let s := { s with pmt := unpin s.pmt r.pins }
  if r.irq ∨ max 1 (s.fget (.cqCfg r.cq) 23 16) ≤ x.since + 1 then s.cqMessage r.cq else s

/-- COMPLETION_WRITE (R268): records are written in commit order, so the oldest committed record is written, where it is one of
this CQ. -/
def execCompletionWrite (cq : Fin 1024) (s : State) : Host.Outcome State Fault Refusal :=
  .next <|
    match s.commitQ with
    | [] => s
    | r :: t => if r.cq = cq.val then ({ s with commitQ := t } : State).writeRec r else s

/-- CQ_COALESCE_TIMER (R269): TMR microseconds have passed since the first record after the last message. -/
def execCqCoalesceTimer (cq : Fin 1024) (s : State) : Host.Outcome State Fault Refusal :=
  .next (if s.fget (.cqTmr cq.val) 15 0 ≠ 0 ∧ (s.cq cq.val).since ≠ 0 then s.cqMessage cq.val else s)

/-! ### Queue enables (R258) -/

/-- A refused enable or disable. -/
def State.cfgErr (s : State) : State := s.event 4

/-- Whether a submission queue may be enabled. -/
def State.sqMayEnable (s : State) (q : Nat) : Bool :=
  s.rget .cpqInit != 0 && decide (3 ≤ s.fget (.sqCfg q) 15 12) && s.cqEn (s.cqOf q) &&
  (s.tagged || (decide (s.fget (.sqCfg q) 11 0 < 256) && s.ctxSt (s.fget (.sqCfg q) 11 0) == 1))

/-- What the numbers of a queue's commands are counted from once it is enabled again: commands of it may be outstanding
(R281). -/
def State.sqBase (s : State) (q : Nat) : Nat :=
  if s.cmds.any fun c => c.sq == q then (s.sq q).base + (s.sq q).dev else 0

/-- A write of CPQ_SQ_CFG. -/
def State.sqCfgWrite (s : State) (q v : Nat) : State :=
  let en := bits v 31 31
  if s.sqEn q then
    if en = 1 then s
    else (s.fset (.sqCfg q) 31 31 0).setSq q { s.sq q with fetched := [], error := false }
  else
    let s := (s.fset (.sqCfg q) 28 26 (bits v 28 26)).fset (.sqCfg q) 25 0 (bits v 25 0)
    if en = 0 then s
    else if s.sqMayEnable q then (s.fset (.sqCfg q) 31 31 1).setSq q { base := s.sqBase q }
    else s.cfgErr

/-- A write of CPQ_CQ_CFG. -/
def State.cqCfgWrite (s : State) (c v : Nat) : State :=
  let en := bits v 31 31
  if s.cqEn c then
    if en = 1 then s
    else if (List.range 1024).any fun q => s.sqEn q && s.cqOf q == c then s.cfgErr
    else s.fset (.cqCfg c) 31 31 0
  else
    let s := ((s.fset (.cqCfg c) 23 16 (bits v 23 16)).fset (.cqCfg c) 15 12 (bits v 15 12)).fset (.cqCfg c) 10 0 (bits v 10 0)
    if en = 0 then s
    else if s.rget .cpqInit != 0 && decide (3 ≤ s.fget (.cqCfg c) 15 12) then
      (s.fset (.cqCfg c) 31 31 1).setCq c { reserved := (s.cq c).reserved }
    else s.cfgErr

/-- QUEUE_EN_WRITE (R258): a write of CPQ_SQ_CFG or CPQ_CQ_CFG. -/
def execQueueEnWrite (w : World) (cq : Bool) (q : Fin 1024) (cfg : W32) (s : State) : Host.Outcome State Fault Refusal :=
  .next <|
    if cq then s.regOp w (Reg.cqCfg q.val |>.addr) true fun s => s.cqCfgWrite q.val cfg.toNat
    else s.regOp w (Reg.sqCfg q.val |>.addr) true fun s => s.sqCfgWrite q.val cfg.toNat

end Sys2Proof.Machine
end

