-- ==== Sys2Proof/Machine/Pmt.lean ====
section
/-! DEFINITION. The Page Mapping Table (R270 to R276) and window 2 (R251): PMT_INSTALL, PMT_REMOVE, PMT_REMOVE_FORCE,
PMT_LOOKUP, PMT_READ, PMT_OP_COMPLETE, WINDOW2_ACCESS. -/

namespace Sys2Proof.Machine

open Sys2Proof

/-! ### Staging registers (Table 11.13) -/

/-- The staged entry. -/
def State.staged (s : State) : PmtEntry where
  size := s.fget .pmtStage0 62 62 == 1
  wr := s.fget .pmtStage0 61 61 == 1
  rd := s.fget .pmtStage0 60 60 == 1
  ctx := s.fget .pmtStage0 59 48
  vpn := s.fget .pmtStage0 47 16
  ppn := s.fget .pmtStage1 43 16
  pin := 0

/-- The staging registers loaded with an entry in use, or cleared but for a key that a LOOKUP keeps. -/
def State.stageRegs (s : State) (e : Option PmtEntry) (key : Nat) : State :=
  match e with
  | none => (s.rset .pmtStage0 key).rset .pmtStage1 0
  | some e =>
    (s.rset .pmtStage0 (2 ^ 63 + bitOf e.size * 2 ^ 62 + bitOf e.wr * 2 ^ 61 + bitOf e.rd * 2 ^ 60 + e.ctx * 2 ^ 48 +
      e.vpn * 65536)).rset .pmtStage1 (e.pin * 2 ^ 52 + e.ppn * 65536)

/-- PMT_RESULT after an operation; OVERRUN stays. -/
def State.pmtDone (s : State) (st sub idx : Nat) : State :=
  { s with pmtOp := none }.rset .pmtResult
    (st * 2 ^ 48 + sub * 2 ^ 32 + s.fget .pmtResult 30 30 * 2 ^ 30 + idx)

/-! ### Installs (R271, R272) -/

/-- 64 KiB units of an entry's page. -/
def PmtEntry.units (e : PmtEntry) : Nat := if e.size then 32 else 1

/-- Whether a line of a page belongs to the Studio world. -/
def State.studioPage (s : State) (e : PmtEntry) : Bool :=
  let l := s.regionList
  (List.range e.units).any fun i =>
    match l.find? fun d => decide (d.1 ≤ e.ppn + i ∧ e.ppn + i ≤ d.2.1) with
    | some d => d.2.2.1
    | none => false

/-- The entry's form and target (R271, R407). -/
def State.pmtFormOk (s : State) (w : World) (e : PmtEntry) : Bool :=
  (!e.size || (e.vpn % 32 == 0 && e.ppn % 32 == 0)) && (!s.tagged || e.ctx == 0) &&
  s.backed (e.ppn * 65536) && s.backed ((e.ppn + e.units) * 65536 - 1) &&
  (w == .studio || !s.studioPage e)

/-- Whether an entry of the same context overlaps, in either class. -/
def State.pmtOverlaps (s : State) (e : PmtEntry) : Bool :=
  s.pmt.any fun p => p.2.ctx == e.ctx && decide (e.vpn < p.2.vpn + p.2.units ∧ p.2.vpn < e.vpn + e.units)

/-- The set of an entry. -/
def PmtEntry.set (e : PmtEntry) : Nat := if e.size then pmtSet 1 (e.vpn / 32) e.ctx else pmtSet 0 e.vpn e.ctx

/-- The lowest free way of the entry's set, as an index. -/
def State.freeWay (s : State) (e : PmtEntry) : Option Nat :=
  ((List.range 8).map fun w => e.set * 8 + w).find? fun i => (mfind s.pmt i).isNone

/-- What an INSTALL does when BUSY clears. -/
def State.installOp (s : State) (w : World) : PmtOp :=
  let e := s.staged
  if !s.pmtFormOk w e then .fail stRejected 0x15
  else if s.pmtOverlaps e then .fail stBound 0xB
  else
    match s.freeWay e with
    | none => .fail stBound 0xA
    | some i => .install i e

/-- The index of the entry that matches the staged CTX, VPN and SIZE: the low bits of a 2 MiB page's VPN are never ignored
(R271). -/
def State.stagedIdx (s : State) : Option Nat :=
  let e := s.staged
  if e.size then (if e.vpn % 32 = 0 then s.pmtFind 1 e.ctx (e.vpn / 32) else none) else s.pmtFind 0 e.ctx e.vpn

/-! ### Operations -/

/-- An operation starts; while BUSY a write only sets OVERRUN (R272). -/
def State.pmtStart (s : State) (f : State → State) : State :=
  if s.pmtOp.isSome then s.fset .pmtResult 30 30 1 else (f s).fset .pmtResult 31 31 1

/-- The access to PMT_INSTALL that starts an operation. -/
def State.pmtWrite (s : State) (w : World) (f : State → State) : State :=
  s.regOp w (Reg.pmtInstallR |>.addr) true fun s => s.pmtStart f

/-- PMT_INSTALL (R272). -/
def execPmtInstall (w : World) (s : State) : Host.Outcome State Fault Refusal :=
  .next (s.pmtWrite w fun s => { s with pmtOp := some (s.installOp w) })

/-- PMT_REMOVE (R273): the entry is invalid from the start of the operation, so that no later command pins it. -/
def execPmtRemove (w : World) (s : State) : Host.Outcome State Fault Refusal :=
  .next <| s.pmtWrite w fun s =>
    match s.stagedIdx with
    | none => { s with pmtOp := some (.fail stUnmapped 1) }
    | some i =>
      match mfind s.pmt i with
      | some e =>
        if e.pin = 0 then { s with pmtOp := some (.remove i e), pmt := merase i s.pmt }
        else { s with pmtOp := some (.fail stPinned 0) }
      | none => { s with pmtOp := some (.fail stUnmapped 1) }

/-- Commands that pin an entry. -/
def State.pinners (s : State) (i : Nat) : List (Nat × Nat) :=
  (s.cmds.filter fun c => c.pins.contains i).map fun c => (c.sq, c.seq)

/-- PMT_REMOVE_FORCE (R276): the accepted, uncommitted commands that pin the entry are aborted. -/
def execPmtRemoveForce (w : World) (s : State) : Host.Outcome State Fault Refusal :=
  .next <| s.pmtWrite w fun s =>
    match s.stagedIdx with
    | none => { s with pmtOp := some (.fail stUnmapped 1) }
    | some i => ({ s with pmtOp := some (.force i (s.pinners i)) } : State).abortAll (s.pinners i)

/-- PMT_LOOKUP: the entry of either class that translates CTX and VPN. -/
def execPmtLookup (w : World) (s : State) : Host.Outcome State Fault Refusal :=
  .next <| s.pmtWrite w fun s =>
    let e := s.staged
    let i := match s.pmtFind 1 e.ctx (e.vpn / 32) with
      | some i => some i
      | none => s.pmtFind 0 e.ctx e.vpn
    { s with pmtOp := some (.lookup i (e.ctx * 2 ^ 48 + e.vpn * 65536)) }

/-- PMT_READ. -/
def execPmtRead (w : World) (s : State) : Host.Outcome State Fault Refusal :=
  .next <| s.pmtWrite w fun s => { s with pmtOp := some (.read (s.fget .pmtIndex 16 0)) }

/-- Whether the records of these commands have been written. -/
def State.recorded (s : State) (l : List (Nat × Nat)) : Bool :=
  l.all fun p => (s.cmd? p.1 p.2).isNone && s.commitQ.all fun r => r.sq != p.1 || r.key != p.2

/-- An entry removed whatever its pins: who pinned it holds no pin of what is installed there later. -/
def State.dropEntry (s : State) (i : Nat) : State :=
  let drop (l : List Nat) : List Nat := l.filter (· ≠ i)
  { s with
    pmt := merase i s.pmt
    cmds := s.cmds.map fun c => { c with pins := drop c.pins }
    commitQ := s.commitQ.map fun r => { r with pins := drop r.pins }
    rings := s.rings.map fun p => (p.1, { p.2 with pins := drop p.2.pins }) }

/-- Whether a range of virtual addresses meets the page of an entry. -/
def PmtEntry.meets (e : PmtEntry) (va n : Nat) : Bool :=
  decide (va < (e.vpn + e.units) * 65536 ∧ e.vpn * 65536 < va + n)

/-- Whether an access translated through an entry is still under way: a remote load that waits for its data, or a posted store
(R130, R273). Every other access of this model is performed in the step that translates it. -/
def State.underWay (s : State) (e : PmtEntry) : Bool :=
  (List.range 6).any fun k =>
    let x := s.eng k
    s.pmtCtx x.ctx == e.ctx &&
    (x.posted.any (fun p => e.meets p.va p.data.length) ||
      x.pend.any fun p => match p.rld with
        | some r => e.meets r.va (r.pieces.map (·.2)).sum
        | none => false)

/-- PMT_OP_COMPLETE (R272, R273, R276): BUSY clears and the operation takes effect. A removal waits until no access translated
through the entry is under way, a forced one also until the records of the aborted commands are written. -/
def execPmtOpComplete (s : State) : Host.Outcome State Fault Refusal :=
  .next <|
    match s.pmtOp with
    | none => s
    | some (.fail st sub) => s.pmtDone st sub 0
    | some (.install i e) => ({ s with pmt := minsert i e s.pmt } : State).pmtDone stOk 0 i
    | some (.remove i e) => if s.underWay e then s else s.pmtDone stOk 0 i
    | some (.force i l) => if s.recorded l && !(mfind s.pmt i).any s.underWay then (s.dropEntry i).pmtDone stOk 0 i else s
    | some (.read i) =>
      match mfind s.pmt i with
      | some e => (s.stageRegs (some e) 0).pmtDone stOk 0 i
      | none => (s.stageRegs none 0).pmtDone stOk 0 0
    | some (.lookup (some i) _) => (s.stageRegs (mfind s.pmt i) 0).pmtDone stOk 0 i
    | some (.lookup none key) => (s.stageRegs none key).pmtDone stUnmapped 1 0

/-! ### Window 2 (R251) -/

/-- A refused access is counted, and logged as an advisory non-fatal error: bit 13 of the AER correctable error status, and a
correctable error detected in Device Status. -/
def State.w2Refuse (s : State) (e : AccErr) : State :=
  ((((s.cfgSet 0x44 0x2000).cfgSet 0x1E 0x10000).rinc .pcieW2Refused 64 1)).answer (.error e)

/-- An access through window 2. -/
def State.w2Access (s : State) (off : Nat) (a : Access) : State :=
  let ctx := s.fget .pcieW2Ctl 11 0
  let va := (s.fget .pcieW2Vbase 47 21 * 2 ^ 21 + off) % 2 ^ 48
  if s.fget .pcieW2Ctl 31 31 = 0 then s.w2Refuse ⟨stUnmapped, 1, va % 2 ^ 32⟩
  else
    match s.xlatRange ctx va (accLen a) (accWr a) with
    | .error e => s.w2Refuse e
    | .ok ps =>
      if ps.any fun p => decide (hostBase ≤ p.1) then s.w2Refuse ⟨stUnmapped, 1, va % 2 ^ 32⟩
      else
        let r := s.physAccess .gallery false true ps va a
        match r.1 with
        | .ok d => r.2.answer (.ok d)
        | .error e => if e.st = stEccUncorr then r.2.answer (.error e) else r.2.w2Refuse e

/-- WINDOW2_ACCESS (R251): while the endpoint is trained (PRESUMED, log entry 23). -/
def execWindow2Access (off : BitVec 32) (a : Access) (s : State) : Host.Outcome State Fault Refusal :=
  .next (if s.pcie.width = 0 then s else s.w2Access off.toNat a)

end Sys2Proof.Machine
end

