-- ==== Sys2Proof/Machine/Camera.lean ====
section
/-! DEFINITION. Camera ingest and the line path (R335 to R348): slots of hardware producers and their stamps, CSI-2
streams, CoaXPress cameras, LFC groups, the CoaXPress control channel. -/

namespace Sys2Proof.Machine

open Sys2Proof

/-- The next of `n` in round robin after `k` for which `f` holds. -/
def nextRr (n k : Nat) (f : Nat → Bool) : Option Nat := ((List.range n).map fun j => (k + 1 + j) % n).find? f

/-! ### Free bytes and stamps (R337, R338) -/

/-- `n` bytes that the manual leaves open (DESIGN CHOICE, log entry 49). -/
def State.freeBytes (s : State) (n : Nat) : List Byte × State := (leBytes n s.takeFree.1, s.takeFree.2)

/-- The time of an event at the pins: device time within 8 ns (R338) (DESIGN CHOICE, log entry 48). -/
def State.pinTime (s : State) : Nat × State :=
  let f := s.takeFree
  (s.now + f.1 % 17 - 8, f.2)

def State.enc (s : State) (e : Nat) : Enc := mget (fun _ => {}) s.encs e
def State.setEnc (s : State) (e : Nat) (x : Enc) : State := { s with encs := minsert e x s.encs }

/-- Positions of the four encoders. -/
def State.positions (s : State) : List Nat := (List.range 4).map fun e => (s.enc e).pos

/-- The position stamp of a source from the positions of the encoders; open while ENCEN is 0
(DESIGN CHOICE, log entry 48). -/
def State.srcPos (s : State) (p : Nat) (ps : List Nat) : Nat × State :=
  if s.srcField p 19 19 = 1 then (ps.getD (s.srcField p 21 20) 0, s)
  else (s.takeFree.1 % 2 ^ 48, s.takeFree.2)

/-- The stamp of TSRC 0. -/
def State.stamp0 (s : State) (p : Nat) : Nat × Nat × State :=
  let t := s.pinTime
  let q := t.2.srcPos p s.positions
  (t.1, q.1, q.2)

/-- A stamp that the manual leaves open (DESIGN CHOICE, log entry 48). -/
def State.stampFree (s : State) : Nat × Nat × State :=
  let a := s.takeFree
  let b := a.2.takeFree
  (a.1 % 2 ^ 64, b.1 % 2 ^ 48, b.2)

/-- A stamp by TSRC (Table 14.3): `entry` is what the trigger stamp FIFO gave; `trig` says that the source has one
(DESIGN CHOICE, log entry 48). -/
def State.stamp (s : State) (p : Nat) (entry : Option (Nat × List Nat)) (trig : Bool) : Nat × Nat × State :=
  match s.srcField p 28 27 with
  | 0 => s.stamp0 p
  | 1 =>
    match (if p ≤ 0x28 then mfind s.line.fires (s.srcField p 26 22) else none) with
    | some x => let q := s.srcPos p x.2; (x.1, q.1, q.2)
    | none => s.stampFree
  | _ =>
    match entry with
    | some x => let q := s.srcPos p x.2; (x.1, q.1, q.2)
    | none => if trig then s.stamp0 p else s.stampFree

/-- Bytes 16 to 63 of a slot record (Table 14.2). -/
def OpenSlot.stamps (o : OpenSlot) : List Byte :=
  leBytes 8 o.tStart ++ leBytes 8 o.tEnd ++ leBytes 6 o.pStart ++ leBytes 1 o.enc ++ leBytes 1 0 ++ leBytes 6 o.pEnd ++
    leBytes 2 0 ++ leBytes 4 o.lines ++ leBytes 4 o.frame ++ leBytes 1 (o.flags % 64) ++ leBytes 1 0 ++
    leBytes 2 (min o.errs 65535) ++ leBytes 4 o.gen

/-- Flags of Table 14.2. -/
def flTrunc : Nat := 1
def flOverlong : Nat := 2
def flCrc : Nat := 4
def flLost : Nat := 8
def flNotrig : Nat := 16
def flTapskip : Nat := 32

def OpenSlot.flag (o : OpenSlot) (f : Nat) : OpenSlot := { o with flags := o.flags ||| f }

/-! ### Slots of hardware producers (R227, R333, R336) -/

/-- The ring that holds or drains for a source's code. -/
def State.ringNamed (s : State) (p : Nat) : Option Nat :=
  (List.range 64).find? fun r => (s.ring r).state != 0 && s.ringPsrc r == p

/-- The acquire of a hardware producer: a slot, a dropped frame counted in FR_DROPS, or no ring. -/
def State.hwAcquire (s : State) (p : Nat) : OpenSlot × State :=
  match s.ringNamed p with
  | none => ({ mode := 2 }, s)
  | some r =>
    match s.prodAcquire r .hardware with
    | some (i, s) => ({ mode := 0, ring := r, slot := i }, s)
    | none =>
      ({ mode := 1, ring := r }, (s.setRing r { s.ring r with drops := (s.ring r).drops + 1 }).rinc (.frDrops r) 64 1)

/-- Whether a slot is still held: a ring that was drained by force may have taken it back. -/
def State.slotHeld (s : State) (o : OpenSlot) : Bool :=
  o.mode == 0 && decide ((s.ring o.ring).prod = some ⟨o.slot, .hardware⟩)

/-- A line or row written at offset `off` of the slot in progress, within the slot's extent (R336); one that passes it
counts in SRC_ERR. Data without a ring counts in SRC_NORING. -/
def State.putLine (s : State) (p : Nat) (o : OpenSlot) (off : Nat) (data : List Byte) : OpenSlot × State :=
  if o.mode = 2 then (o, s.srcCount p .srcNoring data.length)
  else if s.slotHeld o = false ∨ o.flags &&& flLost ≠ 0 then (o, s)
  else if off + data.length > s.ringStride o.ring then ((o.flag flTrunc).flag flOverlong, s.srcCount p .srcErr 1)
  else
    match s.vwrite .gallery (s.ringCtx o.ring) (s.slotVa o.ring o.slot + off) data with
    | (none, s) => ({ o with lines := o.lines + 1, bytes := o.bytes + data.length }, s)
    | (some _, s) => (o, s)

/-- The slot is published with its stamps (R225, R227). -/
def State.hwPublish (s : State) (o : OpenSlot) : State :=
  if s.slotHeld o then
    let d := (s.ring o.ring).drops
    ((s.setRing o.ring { s.ring o.ring with drops := 0 }).prodRelease o.ring (some o.bytes) d o.stamps).ringWake o.ring
  else s

/-- The slot or frame in progress ends. -/
def State.closeSlot (s : State) (p : Nat) (o : OpenSlot) : State :=
  let s := s.hwPublish o
  s.setSource p { s.source p with opened := none }

/-- The slot in progress replaced. -/
def State.setOpen (s : State) (p : Nat) (o : OpenSlot) : State :=
  s.setSource p { s.source p with opened := some o }

/-- The format of a camera's frame noted with the slot that holds it (R352) (DEDUCED, log entry 101). -/
def State.noteRaw (s : State) (p : Nat) (o : OpenSlot) : State :=
  match s.rawFormat p, o.mode with
  | some g, 0 => s.setRing o.ring { s.ring o.ring with raws := minsert o.slot g (s.ring o.ring).raws }
  | _, _ => s

/-- A slot or frame begins (R336, R352): a waiting COMMIT applies, the slot is acquired; `frame` is its number. -/
def State.openSlot (s : State) (p frame : Nat) : OpenSlot × State :=
  let s := s.applyCommit p
  let a := s.hwAcquire p
  let s := a.2.noteRaw p a.1
  let o := { a.1 with frame := frame % 2 ^ 32, gen := s.srcGenOf p,
                      enc := if s.srcField p 19 19 = 1 then s.srcField p 21 20 else 255 }
  (o, s.setSource p { s.source p with frames := (s.source p).frames + (if a.1.mode = 2 then 0 else 1) })

/-- A source takes data: it is enabled, or ends its frame. -/
def State.srcLive (s : State) (p : Nat) : Bool := s.srcEn p || (s.source p).opened.isSome

/-! ### Unpacking -/

/-- The samples of `n` bits packed in the order in which CSI-2 sends RAW10 to RAW16: the high bytes of a group, then the
low bits of all of them (PRESUMED, log entry 84). -/
def csiGroup (w : Nat) (g : List Byte) : List Nat :=
  if w = 16 then [(g.getD 0 0).toNat * 256 + (g.getD 1 0).toNat]
  else
    let n := if w = 12 then 2 else 4
    let low := le (g.drop n)
    let k := w - 8
    (List.range n).map fun i => (g.getD i 0).toNat * 2 ^ k + low / 2 ^ (k * i) % 2 ^ k

/-- A byte string cut into groups of `n`; a rest is left out. -/
def groups (n : Nat) : Nat → List Byte → List (List Byte)
  | 0, _ => []
  | k + 1, bs => if bs.length < n ∨ n = 0 then [] else bs.take n :: groups n k (bs.drop n)

/-- Bytes of a CSI-2 packing group. -/
def csiGroupBytes (w : Nat) : Nat := if w = 10 then 5 else if w = 12 then 3 else if w = 14 then 7 else 2

/-- The samples of a CSI-2 payload. -/
def csiSamples (f : PixFmt) (payload : List Byte) : List Nat :=
  if f.bytes = 1 then payload.map BitVec.toNat
  else (groups (csiGroupBytes f.width) payload.length payload).flatMap (csiGroup f.width)

/-- The samples of a CoaXPress payload: packed from the least significant bit up (PRESUMED, log entry 84). -/
def cxpSamples (f : PixFmt) (payload : List Byte) : List Nat :=
  if f.bytes = 1 then payload.map BitVec.toNat
  else unpack f.width (8 * payload.length / f.width) (le payload)

/-- Samples as the raw ring holds them: little-endian, right-justified (Table 14.4). -/
def rawBytes (f : PixFmt) (xs : List Nat) : List Byte := xs.flatMap (leBytes f.bytes)

/-! ### MIPI CSI-2 (R340, R341) -/

/-- One received line of a frame in progress at row `o.seen`. -/
def State.camLine (s : State) (p : Nat) (o : OpenSlot) (geom : Nat) (data : List Byte) (crcErr held : Bool) : OpenSlot × State :=
  let r := o.seen
  let s := if crcErr then s.srcCount p .srcErr 1 else s
  let o := { o with seen := r + 1 }
  if geomH geom ≤ r then (o.flag flOverlong, s)
  else if held then ((o.flag flTrunc).flag flLost, s.srcCount p .srcLost 1)
  else
    let o := if crcErr then { o.flag flCrc with errs := o.errs + 1 } else o
    s.putLine p o (r * geomP geom) data

/-- The flags of a frame that ends: TRUNC with fewer than HEIGHT lines. -/
def OpenSlot.ended (o : OpenSlot) (geom : Nat) : OpenSlot := if o.seen < geomH geom then o.flag flTrunc else o

/-- CSI_FRAME_START (R341): an open slot is published with TRUNC, and the next frame begins. -/
def execCsiFrameStart (i : Fin 32) (frame : BitVec 16) (s : State) : Host.Outcome State Fault Refusal :=
  .next <|
    let p := 0x01 + i.val
    if s.fget (.csiPortCfg (i.val / 4)) 31 31 = 0 then s
    else
      let s := match (s.source p).opened with
        | some o => s.closeSlot p (o.flag flTrunc)
        | none => s
      if s.srcEn p then
        let q := s.openSlot p frame.toNat
        let t := q.2.stamp p none false
        t.2.2.setOpen p { q.1 with tStart := t.1, pStart := t.2.1, tEnd := t.1, pEnd := t.2.1 }
      else s

/-- The stream of a port that takes a packet. -/
def State.csiStream (s : State) (port vc dt : Nat) : Option Nat :=
  ((List.range 4).map fun v => 4 * port + v).find? fun i =>
    s.srcLive (0x01 + i) && s.fget (.csiStCfg i) 3 0 == vc && s.fget (.csiStCfg i) 15 10 == dt

/-- CSI_LONG_PACKET (R340, R341): a line, whose receipt is T_END and P_END of a frame that no frame end closes (R337). -/
def execCsiLongPacket (port : Fin 8) (vc : BitVec 4) (dt : BitVec 6) (payload : List Byte) (crcErr held : Bool) (s : State) :
    Host.Outcome State Fault Refusal :=
  .next <|
    if s.fget (.csiPortCfg port.val) 31 31 = 0 then s
    else
      match s.csiStream port.val vc.toNat dt.toNat, csiFmt dt.toNat with
      | some i, some f =>
        match (s.source (0x01 + i)).opened with
        | some o =>
          let t := s.stamp0 (0x01 + i)
          let q := t.2.2.camLine (0x01 + i) { o with tEnd := t.1, pEnd := t.2.1 } (s.inUse (0x01 + i) 0)
            (rawBytes f (csiSamples f payload)) crcErr held
          q.2.setOpen (0x01 + i) q.1
        | none => s
      | _, _ => s.rinc (.csiDtdrop port.val) 64 1

/-- CSI_FRAME_END (R341). -/
def execCsiFrameEnd (i : Fin 32) (s : State) : Host.Outcome State Fault Refusal :=
  .next <|
    let p := 0x01 + i.val
    match (s.source p).opened with
    | some o =>
      let t := s.stamp0 p
      t.2.2.closeSlot p { o.ended (s.inUse p 0) with tEnd := t.1, pEnd := t.2.1 }
    | none => s

/-! ### CoaXPress (R342 to R344) -/

/-- CXP_IMAGE_HEADER (R341, R343): a header opens a slot of a raw camera and gives the lines of its image
(PRESUMED, log entry 101); an image of another format is discarded, by a camera of a group with all its lines. -/
def execCxpImageHeader (c : Fin 8) (head : CxpHeader) (known : Bool) (s : State) : Host.Outcome State Fault Refusal :=
  .next <|
    let p := 0x21 + c.val
    if s.fget (.cxpCamCfg c.val) 31 31 = 1 then
      let bad := known = false ∨ (cxpFmt (s.fget (.cxpCamCfg c.val) 22 17)).isNone
      let s := s.setSource p { s.source p with alien := decide bad }
      if s.srcEn p ∧ bad then s.srcCount p .srcErr 1 else s
    else
      let s := match (s.source p).opened with
        | some o => s.closeSlot p (o.ended (s.inUse p 0))
        | none => s
      if s.srcEn p = false then s
      else if known = false ∨ (cxpFmt (s.fget (.cxpCamCfg c.val) 22 17)).isNone then s.srcCount p .srcErr 1
      else
        let q := s.openSlot p head.count.toNat
        let o := { q.1 with rows := head.lines.toNat }
        if s.srcField p 28 27 = 2 then q.2.setOpen p o
        else
          let t := q.2.stamp p none false
          t.2.2.setOpen p { o with tStart := t.1, pStart := t.2.1, tEnd := t.1, pEnd := t.2.1 }

/-- The oldest entry of the trigger stamp FIFO is popped by a line of a camera with TRIGEN (R344): the entry, NOTRIG. -/
def State.popTrig (s : State) (c : Nat) : Option (Nat × List Nat) × Bool × State :=
  if s.fget (.cxpCamCfg c) 11 11 = 0 then (none, false, s)
  else
    let x := s.source (0x21 + c)
    match x.fifo with
    | e :: t => (some e, false, s.setSource (0x21 + c) { x with fifo := t })
    | [] => (none, true, s.rinc (.srcTrig 1 c) 64 1)

/-- A line of a raw camera: stamps, the line, and with the last line of the image the end of its frame (R341, R343). -/
def State.cxpRaw (s : State) (c : Nat) (payload : List Byte) (crcErr held : Bool) : State :=
  let p := 0x21 + c
  let e := s.popTrig c
  let s := e.2.2
  match (s.source p).opened, cxpFmt (s.fget (.cxpCamCfg c) 22 17) with
  | some o, some f =>
    let g := s.inUse p 0
    let t := if s.srcField p 28 27 = 2 then s.stamp p e.1 e.2.1 else s.stamp0 p
    let s := t.2.2
    let o := if s.srcField p 28 27 = 2 ∧ o.seen = 0 then { o with tStart := t.1, pStart := t.2.1 } else o
    let o := { o with tEnd := t.1, pEnd := t.2.1 }
    let q := s.camLine p (if e.2.1 then o.flag flNotrig else o) g (rawBytes f (cxpSamples f payload)) crcErr held
    if q.1.rows ≤ q.1.seen then q.2.closeSlot p (q.1.ended g) else q.2.setOpen p q.1
  | _, _ => s

/-- A line sent to its LFC group: widened pixels and stamps wait there (R345, R347). A line of a discarded image only takes its
trigger stamp. -/
def State.cxpToLfc (s : State) (c g : Nat) (payload : List Byte) (crcErr held : Bool) : State :=
  let e := s.popTrig c
  let s := e.2.2
  match (if (s.source (0x21 + c)).alien then none else cxpFmt (s.fget (.cxpCamCfg c) 22 17)) with
  | none => s
  | some f =>
    let p := 0x29 + g
    let s := if held then s.rinc (.srcLost 1 c) 64 1 else s
    let px := (cxpSamples f payload).map fun x => x * 2 ^ (16 - f.width)
    let t := s.pinTime
    let s := t.2
    let l : LfcIn := match s.srcField p 28 27, e.1 with
      | 2, some x => ⟨px, held, crcErr, x.1, x.2, false⟩
      | _, _ => ⟨px, held, crcErr, t.1, s.positions, e.2.1⟩
    let x := s.source p
    if s.srcLive p then s.setSource p { x with lines := x.lines ++ [l] } else s

/-- CXP_LINE (R343 to R345). -/
def execCxpLine (c : Fin 8) (payload : List Byte) (crcErr held : Bool) (s : State) : Host.Outcome State Fault Refusal :=
  .next <|
    if s.srcLive (0x21 + c.val) then
      if s.fget (.cxpCamCfg c.val) 31 31 = 1 then
        s.cxpToLfc c.val (s.fget (.cxpCamCfg c.val) 30 28) payload crcErr held
      else s.cxpRaw c.val payload crcErr held
    else s

/-! ### Line path (R345 to R348) -/

/-- A correction entry as it applies to one widened pixel (R347). -/
def lfcPixel (gg entry x : Nat) : Nat :=
  let off : Int := sx 15 (bits entry 15 1)
  let t : Int := (x : Int) + 2 * off
  let t := if t < 0 then 0 else t.toNat
  min ((t * bits entry 31 16 * gg + 2 ^ 27) >>> 28) 65535

/-- A pixel after the replacement of defects: its value, and whether it kept its own for want of a neighbour. -/
def lfcDefect (es ys : List Nat) (i : Nat) : Nat × Bool :=
  let y := ys.getD i 0
  if es.getD i 0 % 2 = 0 then (y, false)
  else
    let l := if 0 < i ∧ es.getD (i - 1) 0 % 2 = 0 then some (ys.getD (i - 1) 0) else none
    let r := if i + 1 < ys.length ∧ es.getD (i + 1) 0 % 2 = 0 then some (ys.getD (i + 1) 0) else none
    match l, r with
    | some a, some b => ((a + b + 1) / 2, false)
    | some a, none => (a, false)
    | none, some b => (b, false)
    | none, none => (y, true)

/-- FP16 of v / 65,535 by RNE. -/
def fp16Of (v : Nat) : Nat :=
  let m := v * 2 ^ 40 / 65535
  Flt.f16.enc false (.fin false (2 * m + (if v * 2 ^ 40 % 65535 = 0 then 0 else 1)) (-41))

/-- UINT8 of a 16-bit sample. -/
def u8Of (v : Nat) : Nat := min ((v + 128) / 256) 255

/-- Table entries for a line of `n` pixels (R346); bytes that cannot be read are open
(DESIGN CHOICE, log entry 49). -/
def State.lfcTable (s : State) (g cfg n : Nat) : List Nat × State :=
  let a := s.fget (if bits cfg 29 29 = 1 then .lfcTbase1 g else .lfcTbase0 g) 47 6 * 64
  let r := s.pread 1 a (4 * n)
  let b := match r.1 with
    | some bs => (bs, r.2)
    | none => r.2.freeBytes (4 * n)
  ((List.range n).map fun i => fieldAt b.1 (4 * i) 4, b.2)

/-- The corrected bytes of a line and the pixels that count in SRC_ERR. -/
def lfcLineBytes (cfg : Nat) (es px : List Nat) : List Byte × Nat :=
  let ys := (List.range px.length).map fun i => lfcPixel (bits cfg 27 12) (es.getD i 0) (px.getD i 0)
  let zs := (List.range px.length).map (lfcDefect es ys)
  (zs.flatMap fun z => if bits cfg 28 28 = 1 then leBytes 2 (fp16Of z.1) else leBytes 1 (u8Of z.1),
   (zs.filter fun z => z.2).length)

/-- The line stamp of line `j` of a slot (R348). -/
def State.lineStamp (s : State) (g : Nat) (o : OpenSlot) (j : Nat) (t pos : Nat) (l : LfcIn) : State :=
  if s.fget (.lfcCfg g) 11 11 = 1 ∧ s.slotHeld o = true then
    let va := s.fget (.lfcLst g) 47 6 * 64 + 16 * (o.slot * geomH (s.rget (.lfcGeom g)) + j)
    (s.vwrite .gallery (s.ringCtx o.ring) va
      (leBytes 8 t ++ leBytes 6 pos ++ leBytes 1 (bitOf l.noTrig + 2 * bitOf l.crc) ++ leBytes 1 0)).2
  else s

/-- One line of a group into its slot in progress. -/
def State.lfcInto (s : State) (g : Nat) (o : OpenSlot) (l : LfcIn) : OpenSlot × State :=
  let p := 0x29 + g
  let j := o.seen
  let cfg := s.inUse p 0
  let geom := s.rget (.lfcGeom g)
  let q := s.srcPos p l.pos
  let s := if l.crc then q.2.srcCount p .srcErr 1 else q.2
  let o := { o with seen := j + 1, tEnd := l.t, pEnd := q.1 }
  let o := if j = 0 then { o with tStart := l.t, pStart := q.1 } else o
  let o := if l.noTrig then o.flag flNotrig else o
  if l.lost then ((o.flag flTrunc).flag flLost, s)
  else
    let o := if l.crc then { o.flag flCrc with errs := o.errs + 1 } else o
    let px := l.pixels.take (geomW geom)
    let tb := s.lfcTable g cfg px.length
    let b := lfcLineBytes cfg tb.1 px
    let s := tb.2.srcCount p .srcErr b.2
    let r := s.putLine p o (j * geomP geom) b.1
    (r.1, r.2.lineStamp g o j l.t q.1 l)

/-- LFC_LINE (R345 to R348): the group takes the oldest line that waits. -/
def execLfcLine (g : Fin 8) (s : State) : Host.Outcome State Fault Refusal :=
  .next <|
    let p := 0x29 + g.val
    let x := s.source p
    match x.lines with
    | [] => s
    | l :: t =>
      let s := s.setSource p { x with lines := t }
      match x.opened, s.srcEn p with
      | none, false => s
      | some o, _ =>
        let r := s.lfcInto g.val o l
        if geomH (s.rget (.lfcGeom g.val)) ≤ r.1.seen then r.2.closeSlot p r.1 else r.2.setOpen p r.1
      | none, true =>
        let q := s.openSlot p x.frames
        let r := q.2.lfcInto g.val q.1 l
        if r.1.mode = 2 then r.2
        else if geomH (s.rget (.lfcGeom g.val)) ≤ r.1.seen then r.2.closeSlot p r.1
        else r.2.setOpen p r.1

/-! ### CoaXPress control channel (Table 14.11) -/

/-- CXP_CONTROL_GO: a request is issued; GO reads 1 until it is answered. -/
def execCxpControlGo (w : World) (c : Fin 8) (s : State) : Host.Outcome State Fault Refusal :=
  .next (s.regOp w (Reg.cxpCcCtl c.val |>.addr) true fun s => s.fset (.cxpCcCtl c.val) 31 31 1)

/-- CXP_CONTROL_ACK: the acknowledgement code, and the data of a read. -/
def execCxpControlAck (c : Fin 8) (ack : Byte) (data : W32) (s : State) : Host.Outcome State Fault Refusal :=
  .next <|
    if s.fget (.cxpCcCtl c.val) 31 31 = 1 then
      let s := (s.fset (.cxpCcCtl c.val) 31 31 0).fset (.cxpCcCtl c.val) 23 16 ack.toNat
      if s.fget (.cxpCcCtl c.val) 30 30 = 0 then s.rset (.cxpCcData c.val) data.toNat else s
    else s

/-- CXP_CONTROL_TIMEOUT: no acknowledgement within 200 ms. -/
def execCxpControlTimeout (c : Fin 8) (s : State) : Host.Outcome State Fault Refusal :=
  .next <|
    if s.fget (.cxpCcCtl c.val) 31 31 = 1 then (s.fset (.cxpCcCtl c.val) 31 31 0).fset (.cxpCcCtl c.val) 0 0 1 else s

end Sys2Proof.Machine
end

