-- ==== Sys2Proof/Machine/Ipp.lean ====
section
/-! DEFINITION. The area pipelines (R349 to R351): the stages T0 to T7 as functions of a pixel, the choice of the context
served, and the rows a stripe writes. -/

namespace Sys2Proof.Machine

open Sys2Proof

/-! ### Stages (Table 14.6) -/

/-- A frame as the pipeline sees it: width, height, samples per pixel, its rows of samples widened to 16 bits, its
parameter block, and the values of results that the manual leaves open. -/
structure IppFrame where
  w       : Nat
  h       : Nat
  samples : Nat
  rows    : List (List Nat)
  param   : List Byte
  free    : Nat → Nat

/-- Fields of the parameter block. -/
def IppFrame.u16 (f : IppFrame) (off : Nat) : Nat := fieldAt f.param off 2
def IppFrame.i16 (f : IppFrame) (off : Nat) : Int := sx 16 (f.u16 off)
def IppFrame.cfa (f : IppFrame) : Nat := fieldAt f.param 0x12 1
def IppFrame.gw (f : IppFrame) : Nat := fieldAt f.param 0x10 1
def IppFrame.gh (f : IppFrame) : Nat := fieldAt f.param 0x11 1

/-- Saturation of a signed result to the 16-bit scale. -/
def sat16 (x : Int) : Nat := if x < 0 then 0 else min x.toNat 65535

/-- Round half up of a quotient by `d`. -/
def halfUp (n : Int) (d : Nat) : Int := (2 * n + d) / (2 * d : Int)

/-- Whether the manual states the results of stages T1 to T7: CFA order and samples agree, the grid and the frame are in
range. YUV422 input has no stated conversion to RGB (DESIGN CHOICE, log entry 50). -/
def IppFrame.stated (f : IppFrame) : Bool :=
  decide (f.cfa ≤ 5) && f.samples == (if f.cfa = 5 then 3 else 1) && inRange 2 32 f.gw && inRange 2 32 f.gh &&
  inRange 16 8192 f.w && inRange 16 65535 f.h

/-- T0. -/
def IppFrame.t0 (f : IppFrame) (x y c : Nat) : Nat := (f.rows.getD y []).getD (x * f.samples + c) 0

/-- Phase of a sample: the place in the 2 × 2 pattern of a CFA, 0 for mono, the channel for RGB. -/
def IppFrame.phase (f : IppFrame) (x y c : Nat) : Nat :=
  if f.cfa ≤ 3 then y % 2 * 2 + x % 2 else if f.cfa = 4 then 0 else c

/-- Black level subtracted. -/
def IppFrame.black (f : IppFrame) (x y c : Nat) : Nat := f.t0 x y c - f.u16 (2 * f.phase x y c)

/-- Insertion in rising order. -/
def insertNat (a : Nat) : List Nat → List Nat
  | [] => [a]
  | b :: t => if a ≤ b then a :: b :: t else b :: insertNat a t

def sortNat : List Nat → List Nat
  | [] => []
  | a :: t => insertNat a (sortNat t)

/-- The eight same-phase neighbours of a pixel, none where the frame's edge leaves fewer
(DESIGN CHOICE, log entry 85). -/
def IppFrame.neighbours (f : IppFrame) (x y c : Nat) : Option (List Nat) :=
  let d := if f.cfa ≤ 3 then 2 else 1
  if d ≤ x ∧ d ≤ y ∧ x + d < f.w ∧ y + d < f.h then
    some [f.black (x - d) (y - d) c, f.black x (y - d) c, f.black (x + d) (y - d) c, f.black (x - d) y c,
      f.black (x + d) y c, f.black (x - d) (y + d) c, f.black x (y + d) c, f.black (x + d) (y + d) c]
  else none

/-- T1: black level and defects. -/
def IppFrame.t1 (f : IppFrame) (x y c : Nat) : Nat :=
  let v := f.black x y c
  let thr := f.u16 8
  if thr = 0 then v
  else
    match f.neighbours x y c with
    | none => v
    | some ns =>
      if (ns.all fun n => decide (n + thr < v)) || (ns.all fun n => decide (v + thr < n)) then
        let l := sortNat ns
        (l.getD 3 0 + l.getD 4 0 + 1) / 2
      else v

/-- T2: flat field, one rounding of the exact product. -/
def IppFrame.t2 (f : IppFrame) (x y c : Nat) : Nat :=
  let u := x * (f.gw - 1)
  let v := y * (f.gh - 1)
  let dx := f.w - 1
  let dy := f.h - 1
  let ph := f.phase x y c
  let g (i j : Nat) : Nat := f.u16 (0x400 + 2 * ((min j (f.gh - 1) * f.gw + min i (f.gw - 1)) * 4 + ph))
  let i := u / dx
  let j := v / dy
  let a := u % dx
  let b := v % dy
  let n := g i j * ((dx - a) * (dy - b)) + g (i + 1) j * (a * (dy - b)) + g i (j + 1) * ((dx - a) * b) +
    g (i + 1) (j + 1) * (a * b)
  sat16 (halfUp (f.t1 x y c * n : Nat) (4096 * (dx * dy)))

/-- Colour of a place of the CFA: 0 red, 1 green, 2 blue. -/
def cfaColour (order px py : Nat) : Nat :=
  let k := py % 2 * 2 + px % 2
  match order with
  | 0 => [0, 1, 1, 2].getD k 0
  | 1 => [1, 0, 2, 1].getD k 0
  | 2 => [1, 2, 0, 1].getD k 0
  | _ => [2, 1, 1, 0].getD k 0

/-- T3: bilinear interpolation over 3 × 3, the edge samples replicated; mono and RGB pass. -/
def IppFrame.t3 (f : IppFrame) (x y c : Nat) : Nat :=
  if f.cfa = 5 then f.t2 x y c
  else if f.cfa = 4 ∨ cfaColour f.cfa x y = c then f.t2 x y 0
  else
    let ps := [(0, 0), (1, 0), (2, 0), (0, 1), (2, 1), (0, 2), (1, 2), (2, 2)].filter fun q : Nat × Nat =>
      cfaColour f.cfa (x + q.1 + 1) (y + q.2 + 1) == c
    let vs := ps.map fun q => f.t2 (min (x + q.1 - 1) (f.w - 1)) (min (y + q.2 - 1) (f.h - 1)) 0
    sat16 (halfUp vs.sum vs.length)

/-- T4: white balance, matrix and offsets. -/
def IppFrame.t4 (f : IppFrame) (x y c : Nat) : Nat :=
  let term (k : Nat) : Int := f.i16 (0x30 + 2 * (3 * c + k)) * f.i16 (0x20 + 2 * k) * f.t3 x y k
  sat16 (halfUp (term 0 + term 1 + term 2 + f.i16 (0x50 + 2 * c) * Config.offsetUnit * 4096) (2 ^ 24))

/-- T5: tone curve; beyond the last entry the manual states no value (DESIGN CHOICE, log entry 50). -/
def IppFrame.t5 (f : IppFrame) (x y c : Nat) : Nat :=
  let v := f.t4 x y c
  let base := 0x2400 + 0x2000 * (if f.cfa = 4 then 0 else c)
  let i := v / 16
  let a := v % 16
  if i = 4095 ∧ a ≠ 0 then f.free ((y * f.w + x) * 3 + c) % 65536
  else sat16 (halfUp (f.u16 (base + 2 * i) * (16 - a) + f.u16 (base + 2 * (i + 1)) * a : Nat) 16)

/-- T6: Y, Cb, Cr before chroma is averaged. -/
def IppFrame.t6 (f : IppFrame) (x y c : Nat) : Nat :=
  let term (k : Nat) : Int := f.i16 (0x60 + 2 * (3 * c + k)) * f.t5 x y k
  sat16 (halfUp (term 0 + term 1 + term 2 + f.i16 (0x80 + 2 * c) * Config.offsetUnit) (2 ^ 13))

/-- T6 chroma: the mean of 2 × 2 pixels. -/
def IppFrame.chroma (f : IppFrame) (i j c : Nat) : Nat :=
  let at_ (dx dy : Nat) : Nat := f.t6 (min (2 * i + dx) (f.w - 1)) (min (2 * j + dy) (f.h - 1)) c
  sat16 (halfUp (at_ 0 0 + at_ 1 0 + at_ 0 1 + at_ 1 1 : Nat) 4)

/-- The value after tap `k`, open where the manual states none (DESIGN CHOICE, log entry 50). -/
def IppFrame.tapVal (f : IppFrame) (k x y c : Nat) : Nat :=
  if k = 0 then f.t0 x y c
  else if f.stated = false then f.free ((y * f.w + x) * 3 + c) % 65536
  else
    match k with
    | 1 => f.t1 x y c
    | 2 => f.t2 x y c
    | 3 => f.t3 x y c
    | 4 => f.t4 x y c
    | 5 => f.t5 x y c
    | _ => f.t6 x y c

def IppFrame.chromaVal (f : IppFrame) (i j c : Nat) : Nat :=
  if f.stated then f.chroma i j c else f.free ((2 * j * f.w + 2 * i) * 3 + c) % 65536

/-! ### Outputs -/

/-- Rows of a tap with their offsets in the slot (Table 14.6) (DESIGN CHOICE, log entry 85). -/
def IppFrame.tapRows (f : IppFrame) (k : Nat) (p010 : Bool) : List (Nat × List Byte) :=
  if k < 6 then
    let n := if k ≤ 2 then f.samples else 3
    (List.range f.h).map fun y =>
      (y * (f.w * n * 2), (List.range f.w).flatMap fun x => (List.range n).flatMap fun c => leBytes 2 (f.tapVal k x y c))
  else
    let b := if p010 then 2 else 1
    let px (v : Nat) : List Byte := if p010 then leBytes 2 (min ((v + 32) / 64) 1023 * 64) else leBytes 1 (u8Of v)
    let cw := (f.w + 1) / 2
    ((List.range f.h).map fun y => (y * (f.w * b), (List.range f.w).flatMap fun x => px (f.tapVal 6 x y 0))) ++
    ((List.range ((f.h + 1) / 2)).map fun j =>
      (f.w * f.h * b + j * (2 * cw * b),
       (List.range cw).flatMap fun i => px (f.chromaVal i j 1) ++ px (f.chromaVal i j 2)))

/-- The mean of a block of T7. -/
def IppFrame.blockMean (f : IppFrame) (k x0 y0 bx by_ c : Nat) : Nat :=
  let vs := (List.range by_).flatMap fun dy => (List.range bx).map fun dx => f.tapVal k (x0 + dx) (y0 + dy) c
  sat16 (halfUp vs.sum vs.length)

/-- Fields of IPP_CX_OUT. -/
structure OutCfg where
  cx   : Nat
  cy   : Nat
  sfx  : Nat
  sfy  : Nat
  ofmt : Nat
  och  : Nat
  tsel : Nat
  tap  : Bool
  p010 : Bool

def outCfg (v : Nat) : OutCfg :=
  ⟨bits v 63 48, bits v 47 32, bits v 31 29, bits v 28 26, bits v 25 24, bits v 23 23, bits v 22 20, bits v 19 19 == 1,
   bits v 18 18 == 1⟩

/-- Output size of T7. -/
def ippW (f : IppFrame) (o : OutCfg) : Nat := (f.w - o.cx) / 2 ^ o.sfx
def ippH (f : IppFrame) (o : OutCfg) : Nat := (f.h - o.cy) / 2 ^ o.sfy

/-- One sample in the output format (R350). -/
def outSample (ofmt v : Nat) : List Byte :=
  if ofmt = 0 then leBytes 1 (u8Of v)
  else if ofmt = 1 then leBytes 1 (lowBits 8 (u8Of v - 128 : Int))
  else leBytes 2 (fp16Of v)

/-- Row `r` of the primary output, channels last. -/
def IppFrame.outRow (f : IppFrame) (o : OutCfg) (r : Nat) : List Byte :=
  (List.range (ippW f o)).flatMap fun i =>
    (List.range (if o.och = 0 then 3 else 1)).flatMap fun c =>
      outSample o.ofmt (f.blockMean (if o.och = 0 then 5 else 6) (o.cx + i * 2 ^ o.sfx) (o.cy + r * 2 ^ o.sfy) (2 ^ o.sfx)
        (2 ^ o.sfy) c)

/-- Bytes of an output row: rows stand without gaps (DESIGN CHOICE, log entry 85). -/
def outPitch (f : IppFrame) (o : OutCfg) : Nat := ippW f o * (if o.och = 0 then 3 else 1) * (if o.ofmt = 2 then 2 else 1)

/-! ### Contexts (R351) -/

def State.ipp (s : State) (i : Nat) : Ipp := mget (fun _ => {}) s.ipps i
def State.setIpp (s : State) (i : Nat) (x : Ipp) : State := { s with ipps := minsert i x s.ipps }

/-- PSRC codes of a context's outputs. -/
def ippPrimary (i x : Nat) : Nat := 0x40 + 0x20 * i + x
def ippTap (i x : Nat) : Nat := 0xA0 + 0x20 * i + x

def State.inRing (s : State) (i x : Nat) : Nat := s.fget (.ippCxIn i x) 29 24
def State.inPort (s : State) (i x : Nat) : Nat := s.fget (.ippCxIn i x) 23 21

/-- Whether a ring's consumer port has a published slot that it can take. -/
def State.slotWaits (s : State) (r k : Nat) : Bool :=
  (s.ring r).state == 1 && decide (k < s.ringCons r) && (mfind (s.ring r).cons k).isNone &&
  decide ((s.ring r).cseqOf k < (s.ring r).pseq)

/-- Whether the ring of a producer code has a FREE slot. -/
def State.slotFree (s : State) (p : Nat) : Bool :=
  match s.ringFor p with
  | some r => (s.ring r).prod.isNone && (s.ring r).free ((s.ring r).pseq % s.ringSlots r)
  | none => false

/-- Whether a context is ready: a frame in progress, or an input slot and a FREE output slot. -/
def State.ippReady (s : State) (i x : Nat) : Bool :=
  (mfind (s.ipp i).row x).isSome ||
  (s.srcEn (ippPrimary i x) && s.slotWaits (s.inRing i x) (s.inPort i x) && s.slotFree (ippPrimary i x))

/-- The context an idle pipeline serves next. -/
def State.ippNext (s : State) (i : Nat) : Option Nat :=
  match nextRr 32 (s.ipp i).rr fun x => s.ippReady i x && s.fget (.ippCxIn i x) 30 30 == 1 with
  | some x => some x
  | none => nextRr 32 (s.ipp i).rr fun x => s.ippReady i x

/-- The parameter block, with open bytes where it cannot be read (DESIGN CHOICE, log entry 49). -/
def State.paramBlock (s : State) (a : Nat) : List Byte × State :=
  match s.physAccess .gallery false false (cutPhys 3 a 40960) a (.read 40960) with
  | (.ok d, s) => (d, s)
  | (.error _, s) => s.freeBytes 40960

/-- IPP_CONTEXT_SWITCH (R349, R351, R352): at a frame start a waiting COMMIT applies and the parameter block is read. -/
def execIppContextSwitch (ipp : Fin 2) (s : State) : Host.Outcome State Fault Refusal :=
  .next <|
    let i := ipp.val
    if (s.ipp i).cur.isSome then s
    else
      match s.ippNext i with
      | none => s
      | some x =>
        if (mfind (s.ipp i).row x).isSome then s.setIpp i { s.ipp i with cur := some x, rr := x }
        else
          let s := s.applyCommit (ippPrimary i x)
          let b := s.paramBlock (bits (s.inUse (ippPrimary i x) 1) 43 6 * 64)
          b.2.setIpp i { b.2.ipp i with cur := some x, rr := x, param := minsert x b.1 (b.2.ipp i).param }

/-! ### Frames -/

/-- Pixel format and geometry of the frame in a slot: those with which its camera began it (R352), else those of the camera
that the ring names; an empty frame for a ring that no camera fills (DEDUCED, log entry 101). -/
def State.rawFrame (s : State) (r slot : Nat) : PixFmt × Nat :=
  ((mfind (s.ring r).raws slot).or (s.rawFormat (s.ringPsrc r))).getD (⟨1, 8, 1⟩, 0)

/-- A read by the pipeline or a codec, with open bytes where it fails (DESIGN CHOICE, log entry 49). -/
def State.mediaRead (s : State) (ctx va n : Nat) : List Byte × State :=
  match s.vread .gallery ctx va n with
  | (.ok d, s) => (d, s)
  | (.error _, s) => s.freeBytes n

/-- Rows of a raw frame, widened to 16 bits. -/
def State.rawRows (s : State) (r slot : Nat) (f : PixFmt) (g : Nat) : Nat → List (List Nat) × State
  | 0 => ([], s)
  | k + 1 =>
    let b := s.mediaRead (s.ringCtx r) (s.slotVa r slot + (geomH g - (k + 1)) * geomP g) (geomW g * f.samples * f.bytes)
    let t := b.2.rawRows r slot f g k
    (((List.range (geomW g * f.samples)).map fun i =>
      fieldAt b.1 (i * f.bytes) f.bytes % 2 ^ f.width * 2 ^ (16 - f.width)) :: t.1, t.2)

/-- The slot of an output with the stamps, FRAME and FLAGS of its input's record (R337). -/
def copyStamps (o : OpenSlot) (rec : List Byte) (gen : Nat) : OpenSlot :=
  { o with
    tStart := fieldAt rec 16 8, tEnd := fieldAt rec 24 8, pStart := fieldAt rec 32 6, enc := fieldAt rec 38 1
    pEnd := fieldAt rec 40 6, frame := fieldAt rec 52 4, flags := fieldAt rec 56 1, errs := fieldAt rec 58 2, gen := gen }

/-- Rows written in order. -/
def State.putRows (s : State) (p : Nat) (o : OpenSlot) : List (Nat × List Byte) → OpenSlot × State
  | [] => (o, s)
  | r :: t =>
    let q := s.putLine p o r.1 r.2
    q.2.putRows p q.1 t

/-- The first stripe of a frame: input and output slots are acquired, the tap's too or it is skipped (R350). None where
no slot is left. -/
def State.ippBegin (s : State) (i x : Nat) : Option State :=
  let p := ippPrimary i x
  let r := s.inRing i x
  let k := s.inPort i x
  if s.slotWaits r k && s.slotFree p then
    match s.consAcquire r k .hardware with
    | none => none
    | some (slot, s) =>
      let b := s.mediaRead (s.ringCtx r) (s.recVa r slot) 64
      let a := b.2.hwAcquire p
      let s := a.2
      let o := copyStamps a.1 b.1 (s.srcGenOf p)
      let cfg := outCfg (s.inUse p 2)
      let y := { s.ipp i with src := minsert x (r, k, s.rawFrame r slot) (s.ipp i).src }
      if cfg.tap = false then some (s.setIpp i { y with row := minsert x 0 y.row, out := minsert x o y.out })
      else if (s.ringNamed (ippTap i x)).isSome ∧ s.slotFree (ippTap i x) = false then
        some ((s.rinc (.ippTapskip i x) 64 1).setIpp i
          { y with row := minsert x 0 y.row, out := minsert x (o.flag flTapskip) y.out })
      else
        let t := s.hwAcquire (ippTap i x)
        let q := copyStamps t.1 b.1 (s.srcGenOf p)
        some (t.2.setIpp i { y with row := minsert x 0 y.row, out := minsert x o y.out, tap := minsert x q y.tap })
  else none

/-- A frame ends without its slots, which a drained ring took back. -/
def State.ippDrop (s : State) (i x : Nat) : State :=
  let y := s.ipp i
  let give (s : State) (o : Option OpenSlot) : State := match o with
    | some o => if s.slotHeld o then (s.prodEnd o.ring).ringWake o.ring else s
    | none => s
  give (give (s.setIpp i { y with row := merase x y.row, out := merase x y.out, tap := merase x y.tap, src := merase x y.src }) (mfind y.out x))
    (mfind y.tap x)

/-- A turn of a context: output rows of the frame or stripe; with the last the tap is written, the slots are published
and the input is released. -/
def State.ippTurn (s : State) (i x : Nat) : State :=
  let p := ippPrimary i x
  let c := mget (fun _ => (s.inRing i x, s.inPort i x, s.rawFrame (s.inRing i x) 0)) (s.ipp i).src x
  let r := c.1
  let k := c.2.1
  match mfind (s.ring r).cons k, mfind (s.ipp i).out x with
  | some hold, some o =>
    let g := c.2.2
    let rd := s.rawRows r hold.slot g.1 g.2 (geomH g.2)
    let s := rd.2
    let base := s.free
    let f : IppFrame := ⟨geomW g.2, geomH g.2, g.1.samples, rd.1, mget (fun _ => []) (s.ipp i).param x,
      fun n => Config.freeValue (base + n)⟩
    let s : State := { s with free := base + 3 * geomW g.2 * geomH g.2 }
    let cfg := outCfg (s.inUse p 2)
    let r0 := mget (fun _ => 0) (s.ipp i).row x
    let oh := ippH f cfg
    let r1 := if s.fget (.ippCxIn i x) 31 31 = 0 then oh else min oh (r0 + bits (s.inUse p 0) 15 0)
    let q := s.putRows p o ((List.range (r1 - r0)).map fun d => ((r0 + d) * outPitch f cfg, f.outRow cfg (r0 + d)))
    let s := q.2
    if r1 < oh then s.setIpp i { s.ipp i with row := minsert x r1 (s.ipp i).row, out := minsert x q.1 (s.ipp i).out }
    else
      let s := match mfind (s.ipp i).tap x with
        | some t => let w := s.putRows p t (f.tapRows cfg.tsel cfg.p010); w.2.hwPublish w.1
        | none => s
      let s := s.hwPublish q.1
      let s := (s.consRelease r k).ringWake r
      s.setIpp i { s.ipp i with
        row := merase x (s.ipp i).row, out := merase x (s.ipp i).out, tap := merase x (s.ipp i).tap, src := merase x (s.ipp i).src }
  | _, _ => s.ippDrop i x

/-- IPP_STRIPE (R350, R351). -/
def execIppStripe (ipp : Fin 2) (s : State) : Host.Outcome State Fault Refusal :=
  .next <|
    let i := ipp.val
    match (s.ipp i).cur with
    | none => s
    | some x =>
      let s := s.setIpp i { s.ipp i with cur := none }
      if (mfind (s.ipp i).row x).isSome then s.ippTurn i x
      else
        match s.ippBegin i x with
        | some s => s.ippTurn i x
        | none => s

end Sys2Proof.Machine
end

