-- ==== Sys2Proof/Machine/Codec.lean ====
section
/-! DEFINITION. The encoders and the decoder (R352 to R354). Units are numbered 0 VENC0, 1 VENC1, 2 VDEC0. -/

namespace Sys2Proof.Machine

open Sys2Proof

def State.codec (s : State) (u : Nat) : Codec := mget (fun _ => {}) s.codecs u
def State.setCodec (s : State) (u : Nat) (x : Codec) : State := { s with codecs := minsert u x s.codecs }

/-- PSRC of a unit's output. -/
def codecPsrc (u : Nat) : Nat := if u = 2 then 0x80 else 0x81 + u

def State.cdcRing (s : State) (u k : Nat) : Nat := s.fget (.cdcCtl u k) 21 16
def State.cdcPort (s : State) (u k : Nat) : Nat := s.fget (.cdcCtl u k) 15 13

/-- The session a unit serves next (R353). -/
def State.cdcNext (s : State) (u : Nat) : Option Nat :=
  nextRr 16 (s.codec u).rr fun k =>
    s.fget (.cdcCtl u k) 31 31 == 1 && s.slotWaits (s.cdcRing u k) (s.cdcPort u k) && s.slotFree (codecPsrc u)

/-- A waiting COMMIT of a session applies at its next picture (R352). -/
def State.cdcCommit (s : State) (u k : Nat) : State :=
  if s.fget (.cdcCtl u k) 30 30 = 1 then
    let x := s.codec u
    (s.fset (.cdcCtl u k) 30 30 0).setCodec u
      { x with rc := minsert k (s.rget (.cdcRc u k)) x.rc, gens := minsert k (mget (fun _ => 0) x.gens k + 1) x.gens }
  else s

/-- A picture of a session begins: its input slot and record, the bytes of the slot that are valid, and its output slot. -/
def State.cdcBegin (s : State) (u k : Nat) : Option (List Byte × List Byte × OpenSlot × State) :=
  let s := s.cdcCommit u k
  let r := s.cdcRing u k
  match s.consAcquire r (s.cdcPort u k) .hardware with
  | none => none
  | some (slot, s) =>
    let rec_ := s.mediaRead (s.ringCtx r) (s.recVa r slot) 64
    let d := rec_.2.mediaRead (s.ringCtx r) (s.slotVa r slot) (min (fieldAt rec_.1 8 4) (s.ringStride r))
    let a := d.2.hwAcquire (codecPsrc u)
    let o := copyStamps a.1 rec_.1 (mget (fun _ => 0) (s.codec u).gens k)
    some (rec_.1, d.1, o, a.2)

/-- The input slot of a session is released. -/
def State.cdcEnd (s : State) (u k : Nat) : State :=
  (s.consRelease (s.cdcRing u k) (s.cdcPort u k)).ringWake (s.cdcRing u k)

/-- An access unit in the output slot; none where it does not fit. It is no row and counts in no LINES
(DESIGN CHOICE, log entry 51). -/
def State.cdcPut (s : State) (o : OpenSlot) (d : List Byte) : Option (OpenSlot × State) :=
  if s.ringStride o.ring < d.length then none
  else
    match s.vwrite .gallery (s.ringCtx o.ring) (s.slotVa o.ring o.slot) d with
    | (none, s) => some ({ o with bytes := d.length }, s)
    | (some _, s) => some (o, s)

/-- One picture coded (R353, R354) (DESIGN CHOICE, log entry 51). -/
def State.encodeOne (s : State) (u k : Nat) : State :=
  match s.cdcBegin u k with
  | none => s
  | some (_, d, o, s) =>
    let x := s.codec u
    let rc := mget (fun _ => 0) x.rc k
    let left := mget (fun _ => 0) x.gop k
    let au := Config.encode (s.fget (.cdcCtl u k) 26 22) rc (left == 0) s.free d
    let s : State := { s with free := s.free + 1 }
    match s.cdcPut o au with
    | some (o, s) =>
      ((s.setCodec u { x with rr := k, gop := minsert k (if left = 0 then bits rc 15 0 else left - 1) x.gop }).hwPublish o).cdcEnd
        u k
    | none =>
      let s := (s.rinc (.vencOversize u k) 64 1).setCodec u { x with rr := k, gop := minsert k 0 x.gop }
      ((s.prodEnd o.ring).ringWake o.ring).cdcEnd u k

/-- ENCODE_PICTURE (R353, R354). -/
def execEncodePicture (unit : Fin 2) (s : State) : Host.Outcome State Fault Refusal :=
  .next <|
    match s.cdcNext unit.val with
    | none => s
    | some k => s.encodeOne unit.val k

/-- Rows with their offsets, without gaps (DESIGN CHOICE, log entry 51). -/
def rowsFrom : Nat → List (List Byte) → List (Nat × List Byte)
  | _, [] => []
  | n, r :: t => (n, r) :: rowsFrom (n + r.length) t

/-- One access unit decoded (R336, R354): its rows are written up to a stream error, which ends the output with TRUNC; after a stream error units are consumed without output up to the next key picture
(DESIGN CHOICE, log entry 51). -/
def State.decodeOne (s : State) (k : Nat) : State :=
  match s.cdcBegin 2 k with
  | none => s
  | some (_, d, o, s) =>
    let x := s.codec 2
    let std := s.fget (.cdcCtl 2 k) 26 22
    if mget (fun _ => false) x.skip k && !Config.keyUnit std d then
      (((s.setCodec 2 { x with rr := k }).prodEnd o.ring).ringWake o.ring).cdcEnd 2 k
    else
      let out := Config.decode std s.free d
      let s : State := { s with free := s.free + 1 }
      let s := s.setCodec 2 { x with rr := k, skip := minsert k out.2 x.skip }
      let q := s.putRows (codecPsrc 2) o (rowsFrom 0 out.1)
      (q.2.hwPublish (if out.2 then q.1.flag flTrunc else q.1)).cdcEnd 2 k

/-- DECODE_PICTURE (R354). -/
def execDecodePicture (s : State) : Host.Outcome State Fault Refusal :=
  .next <|
    match s.cdcNext 2 with
    | none => s
    | some k => s.decodeOne k

/-- A codec session enabled (R352): CDC_RC comes into use, and the next picture is a key picture. While PD_MEDIA is off the
enable waits for it (R388). -/
def State.cdcEnable (s : State) (u k : Nat) : State :=
  if s.pmc.pdMedia = false then { s with pmc := { s.pmc with mediaWake := s.pmc.mediaWake ++ [0x100 + 16 * u + k] } }
  else
    let x := s.codec u
    (s.setCodec u { x with rc := minsert k (s.rget (.cdcRc u k)) x.rc, gop := minsert k 0 x.gop,
                           skip := minsert k false x.skip }).fset (.cdcCtl u k) 31 31 1

/-- A write of CDC_CTL (R352, R355): fields but EN and COMMIT are locked while EN is 1. -/
def State.cdcCtlWrite (s : State) (u k v : Nat) : State :=
  let on := s.fget (.cdcCtl u k) 31 31 == 1
  let s := if on then s else s.fset (.cdcCtl u k) 29 13 (bits v 29 13)
  let s := if bits v 30 30 = 1 then s.fset (.cdcCtl u k) 30 30 1 else s
  if bits v 31 31 = 0 then (s.mediaCancel (0x100 + 16 * u + k)).fset (.cdcCtl u k) 31 31 0
  else if on then s else s.cdcEnable u k

end Sys2Proof.Machine
end

