-- ==== Sys2Proof/Machine/Line.lean ====
section
/-! DEFINITION. Encoders, timed IO pins, timed actions and action channels (R362 to R372, R376). -/

namespace Sys2Proof.Machine

open Sys2Proof

/-! ### Rounding -/

/-- The quotient of an integer by a positive number, rounded to nearest even. -/
def rneDiv (n : Int) (d : Nat) : Int :=
  let q := n / (d : Int)
  let r := 2 * (n % (d : Int))
  if r < d then q else if r > d then q + 1 else if q % 2 = 0 then q else q + 1

/-! ### Positions (R363) -/

/-- The difference of two positions, in −2⁴⁷ to 2⁴⁷ − 1. -/
def posDiff (a b : Nat) : Int := sx 48 ((a + 2 ^ 48 - b % 2 ^ 48) % 2 ^ 48)

/-- A position moved by a signed number of counts. -/
def posAdd (p : Nat) (d : Int) : Nat := lowBits 48 ((p : Int) + d)

/-! ### Due actions (R368) -/

def Act.byPos (a : Act) : Bool := a.flags % 2 == 1
def Act.rev (a : Act) : Bool := a.flags / 2 % 2 == 1
def Act.nocomp (a : Act) : Bool := a.flags / 4 % 2 == 1
def Act.cansel (a : Act) : Nat := a.flags / 8 % 2

/-- D of an action at a speed in 2⁻¹⁶ counts/s; a CAN request has no pin and no latency. -/
def State.actD (s : State) (a : Act) : Nat :=
  let v := (s.enc a.enc).speed
  if a.nocomp || (decide (0 < v) && a.rev) || (decide (v < 0) && !a.rev) || a.op == 4 then 0
  else (2 * (v.natAbs * s.fget (.tioCfg a.target) 26 0) + 65536000000000) / (2 * 65536000000000)

/-- The due point of a position action: its fire position. -/
def Act.firePos (a : Act) : Nat := if a.rev then posAdd a.when_ a.d else posAdd a.when_ (-(a.d : Int))

/-- How far the position lies beyond the due point, negative before it. -/
def Act.beyond (a : Act) (pos : Nat) : Int := if a.rev then posDiff a.firePos pos else posDiff pos a.firePos

/-- Lateness (R369). -/
def State.lateness (s : State) (a : Act) : Int :=
  if a.byPos then a.beyond (s.enc a.enc).pos else (s.now : Int) - a.when_

/-- Position actions of encoder `e` that are due take their fire time: that of the sample that made them due, plus 20 ns. -/
def State.markDue (s : State) (e t : Nat) : State :=
  { s with line := { s.line with queue := s.line.queue.map fun a =>
      if a.byPos && a.enc == e && a.fireT.isNone && decide (0 ≤ a.beyond (s.enc e).pos) then
        { a with fireT := some (t + 20) }
      else a } }

/-- D recomputed at a record for the actions of an encoder that are not yet due. -/
def State.redoD (s : State) (e : Nat) : State :=
  { s with line := { s.line with queue := s.line.queue.map fun a =>
      if a.byPos && a.enc == e && a.fireT.isNone then { a with d := s.actD a } else a } }

/-! ### Encoders (R362 to R364) -/

def State.encField (s : State) (e h l : Nat) : Nat := s.fget (.encCfg e) h l

/-- PERCLK cycles of a span; a SPAN of zero, outside the range of Table 15.9, counts as one (DESIGN CHOICE, log entry 46). -/
def State.spanCycles (s : State) (e : Nat) : Nat := max 1 (s.encField e 15 0) * 200

/-- The speed of the records at hand, in 2⁻¹⁶ counts/s; open where no time passed between them
(DESIGN CHOICE, log entry 46). -/
def State.speedOf (s : State) (e : Nat) (rs : List (Nat × Nat)) : Int × State :=
  let w := 2 ^ s.encField e 24 22
  match rs.head?, rs[min w (rs.length - 1)]? with
  | some k, some o =>
    if rs.length ≤ 1 then (0, s)
    else
      let dt : Int := (k.1 : Int) - o.1
      let n := posDiff k.2 o.2 * 65536000000000
      if dt = 0 then (sx 64 s.takeFree.1, s.takeFree.2)
      else (if dt < 0 then rneDiv (-n) dt.natAbs else rneDiv n dt.natAbs, s)
  | _, _ => (0, s)

/-- The record of a span that has ended (R364). -/
def State.encSettle (s : State) (e : Nat) : State :=
  let x := s.enc e
  match x.span with
  | some fin =>
    if fin ≤ s.clock.ticks then
      let rs := ((x.last, x.lp) :: x.recs).take (2 ^ s.encField e 24 22 + 1)
      let v := s.speedOf e rs
      ((v.2.setEnc e { x with recs := rs, speed := v.1, span := none }).redoD e).markDue e x.last
    else s
  | none => s

/-- The position of an encoder takes a value; the roll job's greatest TRAVELLED follows (R376). -/
def Enc.move (x : Enc) (p : Nat) : Enc := { x with pos := p, top := max x.top (posDiff p x.job0).natAbs }

/-- A count of `d` at an edge that was first seen at time `t`. -/
def State.encMove (s : State) (e : Nat) (d : Int) (t : Nat) : State :=
  let s := s.encSettle e
  let x := s.enc e
  let d := if s.encField e 28 28 = 1 then -d else d
  let c := s.spanCycles e
  let y := x.move (posAdd x.pos d)
  (s.setEnc e { y with
    lp := y.pos, last := t, tick := s.clock.ticks
    span := some (x.span.getD (x.t0 + ((s.clock.ticks - x.t0) / c + 1) * c)) }).markDue e t

/-- Place of the levels in the quadrature sequence. -/
def quadState (a b : Bool) : Nat := match a, b with
  | false, false => 0
  | true, false => 1
  | true, true => 2
  | false, true => 3

/-- Counts of a change of levels by MODE; none for a change that skips a quadrature state. A leading B, and direction low,
count upward (DESIGN CHOICE, log entry 83). -/
def encDelta (mode : Nat) (a b a' b' : Bool) : Option Int :=
  if mode = 3 then some (if !a && a' then (if b' then -1 else 1) else 0)
  else
    let o := quadState a b
    let n := quadState a' b'
    let d : Int := if n = (o + 1) % 4 then 1 else if o = (n + 1) % 4 then -1 else 0
    if n = (o + 2) % 4 then none
    else if mode = 0 then some d
    else if mode = 1 then some (if a != a' then d else 0)
    else some (if a != a' && !b && !b' then d else 0)

/-- The filter of an input (R362): from the sample in which a level that differs from the accepted one was first seen, the
accepted level and the level sampled now, the sample that stays noted and the one at which the change was first seen, once
`n` further samples have shown it. -/
def inputFilter (seen : Option (Nat × Nat)) (acc lvl : Bool) (n tick t : Nat) : Option (Nat × Nat) × Option (Nat × Nat) :=
  if lvl = acc then (none, none)
  else
    let c := seen.getD (tick, t)
    if n ≤ tick - c.1 then (none, some c) else (some c, none)

/-- An accepted change of A and B that was first seen at time `t` (R362). -/
def State.encAccept (s : State) (e : Nat) (a b : Bool) (t : Nat) : State :=
  let x := s.enc e
  let s := s.setEnc e { x with a := a, b := b }
  if s.encField e 31 31 = 0 then s
  else
    match encDelta (s.encField e 30 29) x.a x.b a b with
    | none => s.rinc (.encErr e) 64 1
    | some d => if d = 0 then s else s.encMove e d t

/-- A sample of A and B: changes first seen in one sample are accepted together, else the earlier first. -/
def State.encSample (s : State) (e : Nat) (a b : Bool) : State :=
  let x := s.enc e
  let n := s.encField e 26 25
  let fa := inputFilter x.ca x.a a n s.clock.ticks s.now
  let fb := inputFilter x.cb x.b b n s.clock.ticks s.now
  let s := s.setEnc e { x with ca := fa.1, cb := fb.1 }
  match fa.2, fb.2 with
  | none, none => s
  | some p, none => s.encAccept e a x.b p.2
  | none, some q => s.encAccept e x.a b q.2
  | some p, some q =>
    if p.1 = q.1 then s.encAccept e a b p.2
    else if p.1 < q.1 then (s.encAccept e a x.b p.2).encAccept e a b q.2
    else (s.encAccept e x.a b q.2).encAccept e a b p.2

/-- An accepted rising edge of Z that was first seen at time `t` (R363). -/
def State.encIndex (s : State) (e t : Nat) : State :=
  if s.encField e 31 31 = 0 then s
  else
    let s := s.encSettle e
    let x := s.enc e
    let x := { x with idxp := x.pos, idxt := t }
    if s.encField e 27 27 = 1 then (s.setEnc e (x.move 0)).markDue e t else s.setEnc e x

/-- A sample of Z. -/
def State.encZ (s : State) (e : Nat) (z : Bool) : State :=
  let x := s.enc e
  let f := inputFilter x.cz x.z z (s.encField e 26 25) s.clock.ticks s.now
  match f.2 with
  | none => s.setEnc e { x with cz := f.1 }
  | some p =>
    let s := s.setEnc e { x with cz := f.1, z := z }
    if z then s.encIndex e p.2 else s

/-- The samples of an encoder's inputs in a PERCLK cycle in which their levels stand: a change that waits may be accepted. -/
def State.encTick (s : State) (e : Nat) : State :=
  let x := s.enc e
  let s := if x.ca = none ∧ x.cb = none then s else s.encSample e (x.a != x.ca.isSome) (x.b != x.cb.isSome)
  if x.cz = none then s else s.encZ e !x.z

/-- ENCODER_COUNT (R362): the levels of A and B as sampled from now on; a change is accepted when it has been stable for
FILT + 1 samples. -/
def execEncoderCount (e : Fin 4) (a b : Bool) (s : State) : Host.Outcome State Fault Refusal := .next (s.encSample e.val a b)

/-- ENCODER_INDEX (R362, R363): the level of Z as sampled from now on; an accepted rising edge latches. -/
def execEncoderIndex (e : EncZ) (s : State) : Host.Outcome State Fault Refusal := .next (s.encZ e.e.val e.z)

/-- ENCODER_RECORD (R364): the end of a span in which a count occurred. -/
def execEncoderRecord (e : Fin 4) (s : State) : Host.Outcome State Fault Refusal := .next (s.encSettle e.val)

/-- SPEED_TIMEOUT (R364): no count for 64 spans; a record that was due is taken before all are discarded. -/
def execSpeedTimeout (e : Fin 4) (s : State) : Host.Outcome State Fault Refusal :=
  .next <|
    let s := s.encSettle e.val
    let x := s.enc e.val
    if x.tick + 64 * s.spanCycles e.val ≤ s.clock.ticks then
      s.setEnc e.val { x with speed := 0, recs := [], span := none }
    else s

/-- A roll job starts at the current position (R376). -/
def State.rollJob (s : State) (e v : Nat) : State :=
  (s.rset (.encJob e) v).setEnc e { s.enc e with job0 := (s.enc e).pos, job := true, top := 0 }

/-- ROLL_JOB_START (R376): a write of ENC_JOB. -/
def execRollJobStart (w : World) (e : Fin 4) (v : W64) (s : State) : Host.Outcome State Fault Refusal :=
  .next (s.regOp w (Reg.encJob e.val |>.addr) true fun s => s.rollJob e.val v.toNat)

/-- A write of ENC_CFG: fields but EN are locked while EN is 1; spans begin with the enable. -/
def State.encCfgWrite (s : State) (e v : Nat) : State :=
  let on := s.encField e 31 31 == 1
  let s := if on then s else (s.fset (.encCfg e) 30 22 (bits v 30 22)).fset (.encCfg e) 15 0 (bits v 15 0)
  let s := if !on && bits v 31 31 == 1 then s.setEnc e { s.enc e with t0 := s.clock.ticks, tick := s.clock.ticks, span := none }
    else s
  s.fset (.encCfg e) 31 31 (bits v 31 31)

/-! ### Firing (R344, R365, R368 to R370) -/

/-- Whether the queue fires (R365). -/
def State.lineRuns (s : State) : Bool := !s.line.safe && !s.fatal

/-- A rising edge of a pin sends a trigger packet to every camera that it triggers and pushes its stamp into the camera's
trigger FIFO; a full FIFO discards the stamp (R344). With PD_MEDIA off there is no camera block to do so (R26). -/
def State.trigger (s : State) (pin t : Nat) (ps : List Nat) : State :=
  (List.range 8).foldl (fun s c =>
    if s.pmc.pdMedia = true ∧ s.fget (.cxpCamCfg c) 11 11 = 1 ∧ s.fget (.cxpCamCfg c) 16 12 = pin then
      let x := s.source (0x21 + c)
      let x := { x with packets := x.packets + 1 }
      let s := s.setSource (0x21 + c) x
      if x.fifo.length < 1024 then s.setSource (0x21 + c) { x with fifo := x.fifo ++ [(t, ps)] }
      else s.rinc (.srcTrig 1 c) 64 1
    else s) s

/-- A trailing edge of a pulse: its pin goes low. -/
def State.pinLow (s : State) (p : Nat × Nat × Nat) : State :=
  { s with line := { s.line with
      edges := s.line.edges.erase p, level := setBits s.line.level p.1 p.1 0 } }

/-- Whether a held action is due. -/
def State.due (s : State) (a : Act) : Bool := if a.byPos then a.fireT.isSome else decide (a.when_ ≤ s.now)

/-- An action leaves the queue. -/
def State.unqueueAct (s : State) (a : Act) : State :=
  { s with line := { s.line with queue := s.line.queue.filter fun b => b.seq != a.seq } }

/-- The due trailing edge of a list whose pulse was accepted first. -/
def firstEdge : List (Nat × Nat × Nat) → Option (Nat × Nat × Nat)
  | [] => none
  | p :: t =>
    match firstEdge t with
    | some q => if q.2.2 < p.2.2 then some q else some p
    | none => some p

/-- The trailing edge of a pin that is due and whose pulse was accepted first, before place `n`. -/
def State.edgeOf (s : State) (pin n : Nat) : Option (Nat × Nat × Nat) :=
  firstEdge (s.line.edges.filter fun p => p.1 == pin && decide (p.2.1 ≤ s.now) && decide (p.2.2 < n))

/-- The due action of a pin that was accepted first, before place `n`; none while the queue does not fire. -/
def State.actionOf (s : State) (pin n : Nat) : Option Act :=
  if s.lineRuns then s.line.queue.find? fun a => a.op != 4 && a.target == pin && s.due a && decide (a.seq < n) else none

/-- Fire time and positions of a due action (R368). -/
def State.fireStamp (s : State) (a : Act) : Nat × List Nat :=
  if a.byPos then (a.fireT.getD 0, List.replicate 4 a.firePos) else (a.when_, s.positions)

/-- The edge of an action on its pin, with the trailing edge of a pulse to come; it leaves the queue and counts in FIRED. -/
def State.fire (s : State) (a : Act) : State :=
  let f := s.fireStamp a
  let s := s.unqueueAct a
  let l := { s.line with
    level := setBits s.line.level a.target a.target (if a.op = 1 ∨ a.op = 3 then 1 else 0)
    edges := if a.op = 3 then s.line.edges ++ [(a.target, f.1 + a.width, a.seq)] else s.line.edges
    fires := minsert a.target f s.line.fires }
  ({ s with line := l } : State).rinc (.taqFired a.chan) 64 1

/-- The later of two edges of one PERCLK cycle: time and positions; a trailing edge has no positions of its own (R365). -/
def laterEdge (m : Option (Nat × List Nat)) (t : Nat) (ps : List Nat) : Option (Nat × List Nat) :=
  match m with
  | none => some (t, ps)
  | some (u, qs) => some (max u t, if ps.isEmpty ∨ t < u then qs else ps)

/-- What is due on a pin and was accepted before place `n` applies in the order of acceptance, a trailing edge as if accepted with
its pulse (R370); the time and positions of the one edge that this makes (R365). -/
def State.pinRun (s : State) (pin n : Nat) (m : Option (Nat × List Nat)) : Nat → State × Option (Nat × List Nat)
  | 0 => (s, m)
  | k + 1 =>
    let act := fun a : Act =>
      let f := s.fireStamp a
      (s.fire a).pinRun pin n (if bits s.line.level pin pin = (if a.op = 2 then 0 else 1) then m else laterEdge m f.1 f.2) k
    let low := fun p : Nat × Nat × Nat =>
      (s.pinLow p).pinRun pin n (if bits s.line.level pin pin = 0 then m else laterEdge m p.2.1 []) k
    match s.actionOf pin n, s.edgeOf pin n with
    | none, none => (s, m)
    | some a, none => act a
    | none, some p => low p
    | some a, some p => if p.2.2 < a.seq then low p else act a

/-- The edge that a pin makes in one PERCLK cycle: what is due on it and was accepted before place `n`; a pin that it raises
triggers cameras with the latest time (R344, R365). -/
def State.pinFire (s : State) (pin n : Nat) : State :=
  let r := s.pinRun pin n none (2 * s.line.queue.length + s.line.edges.length + 1)
  match r.2 with
  | some (t, ps) => if bits s.line.level pin pin = 0 ∧ bits r.1.line.level pin pin = 1 then r.1.trigger pin t ps else r.1
  | none => r.1

/-- A due CAN_SEND requests its buffer, as a write of CAN_TXREQ does (R370). -/
def State.fireCan (s : State) (a : Act) : State :=
  ((s.unqueueAct a).fset (.canTxreqR a.cansel) a.target a.target 1).rinc (.taqFired a.chan) 64 1

/-- A late action of the queue fires at once, after what is due on its pin and was accepted before it (R369, R370). A position
action that is late when it arrives has no stated fire time (DESIGN CHOICE, log entry 47). -/
def State.fireLate (s : State) (a : Act) : State :=
  let s :=
    if a.op = 4 then s.fireCan a
    else if a.byPos && a.fireT.isNone then
      let u := s.takeFree
      ({ u.2 with line := { u.2.line with queue := u.2.line.queue.map fun b =>
        if b.seq == a.seq then { b with fireT := some (u.1 % 2 ^ 64) } else b } } : State).pinFire a.target (a.seq + 1)
    else s.pinFire a.target (a.seq + 1)
  s.rinc (.taqLate a.chan) 64 1

/-- Lateness of an entry of the queue measured (R369). One that is later than it may be is dropped even where the queue does not
fire (R365). -/
def State.judge (s : State) (a : Act) : State :=
  let l := s.lateness a
  if l ≤ 0 then s
  else if (a.late : Int) < l then (s.unqueueAct a).rinc (.taqDropped a.chan) 64 1
  else if s.lineRuns then s.fireLate a
  else s

/-- Lateness measured again for every held entry, after a step; an entry of which `old` holds was due before it, and fires as
it would have. -/
def State.rejudge (s : State) (old : Act → Bool) : List Act → State
  | [] => s
  | a :: t => if old a || !s.line.queue.contains a then s.rejudge old t else (s.judge a).rejudge old t

/-- After a step of device time from the state `old`. -/
def State.afterStep (s old : State) : State := s.rejudge old.due s.line.queue

/-- ACTION_FIRE (R365, R368, R370): the due action accepted first fires, and with it all that is due on its pin. -/
def execActionFire (s : State) : Host.Outcome State Fault Refusal :=
  .next <|
    if s.lineRuns then
      match s.line.queue.find? s.due with
      | some a => if a.op = 4 then s.fireCan a else s.pinFire a.target s.line.seq
      | none => s
    else s

/-- PULSE_TRAILING_EDGE (R365, R370): a due trailing edge applies as if it had been accepted with its pulse, and with it all that
is due on the pin. -/
def execPulseTrailingEdge (pin : Fin 32) (s : State) : Host.Outcome State Fault Refusal :=
  .next (if (s.edgeOf pin.val s.line.seq).isSome then s.pinFire pin.val s.line.seq else s)

/-! ### Action channels (R366, R367, R371) -/

def State.chan (s : State) (k : Nat) : ActChan := mget (fun _ => {}) s.chans k
def State.setChan (s : State) (k : Nat) (x : ActChan) : State := { s with chans := minsert k x s.chans }

/-- Entries of a channel that wait to be fetched: POSTF less the fetched count. -/
def State.posted (s : State) (k : Nat) : Nat :=
  match s.fenceMap (s.fget (.taqCfg k) 11 0) (s.fget (.taqFence k) 16 0) with
  | some f => (s.fence f).val.toNat - (s.chan k).fetched
  | none => 0

/-- Whether a channel can read a burst. -/
def State.chanReady (s : State) (k : Nat) : Bool :=
  (s.chan k).state == 1 && !(s.chan k).stopping && decide (0 < s.posted k ∧ s.line.queue.length < 8192)

/-- Entries of a ring. -/
def State.chanSize (s : State) (k : Nat) : Nat := 2 ^ s.fget (.taqCfg k) 26 23

/-- Entries of the next burst: at most 16, not past the ring's end, within the queue's room. -/
def State.burst (s : State) (k : Nat) : Nat :=
  min (min 16 (s.posted k)) (min (s.chanSize k - (s.chan k).fetched % s.chanSize k) (8192 - s.line.queue.length))

/-- An entry as read (Table 15.2); none where it is dropped. -/
def actOf (k : Nat) (b : List Byte) : Option Act :=
  let op := fieldAt b 0 1
  let w := fieldAt b 4 4
  if op ≤ 4 ∧ fieldAt b 1 1 < 16 ∧ fieldAt b 2 1 < 32 ∧ fieldAt b 3 1 < 4 ∧ fieldAt b 20 12 = 0 ∧ (op ≠ 3 ∨ 10 ≤ w) then
    let f := fieldAt b 1 1
    some {
      chan := k, op := op, flags := f, target := fieldAt b 2 1, enc := fieldAt b 3 1, width := w,
      when_ := if f % 2 = 1 then fieldAt b 8 8 % 2 ^ 48 else fieldAt b 8 8
      late := fieldAt b 16 4, d := 0 }
  else none

/-- An entry enters the queue (R367, R369). -/
def State.accept (s : State) (k : Nat) (b : List Byte) : State :=
  match actOf k b with
  | none => s.rinc (.taqDropped k) 64 1
  | some a =>
    let a := { a with seq := s.line.seq }
    let s : State := { s with line := { s.line with seq := s.line.seq + 1 } }
    if a.op = 0 then s.rinc (.taqFired k) 64 1
    else
      let a := if a.byPos then { a with d := s.actD a } else a
      let s := ({ s with line := { s.line with queue := s.line.queue ++ [a] } } : State).judge a
      if a.byPos then s.markDue a.enc (s.enc a.enc).last else s

/-- The entries of a burst in order. -/
def State.acceptAll (s : State) (k : Nat) (b : List Byte) : Nat → State
  | 0 => s
  | n + 1 => (s.accept k (b.take 32)).acceptAll k (b.drop 32) n

/-- ACTION_FETCH (R366, R367): a burst of the channel whose turn it is. -/
def execActionFetch (k : Fin 16) (s : State) : Host.Outcome State Fault Refusal :=
  .next <|
    if nextRr 16 s.line.rr s.chanReady = some k.val then
      let x := s.chan k.val
      let c := s.fget (.taqCfg k.val) 11 0
      let n := s.burst k.val
      let va := s.fget (.taqBase k.val) 47 12 * 4096 + 32 * (x.fetched % s.chanSize k.val)
      let s : State := { s with line := { s.line with rr := k.val } }
      match s.vread .gallery c va (32 * n) with
      | (.error _, s) => (s.setChan k.val { x with state := 2 }).fset (.taqCfg k.val) 29 29 1
      | (.ok b, s) =>
        ((s.setChan k.val { x with fetched := x.fetched + n }).acceptAll k.val b n).ringSignal c
          (s.fget (.taqFence k.val) 48 32) (x.fetched + n)
    else s

/-- A channel stops: with FLUSH its queued actions are discarded (R371). -/
def State.chanStop (s : State) (k : Nat) : State :=
  let s := (s.fset (.taqCfg k) 31 31 0).setChan k { s.chan k with stopping := true }
  if s.fget (.taqCfg k) 30 30 = 1 then
    let n := (s.line.queue.filter fun a => a.chan == k).length
    ({ s with line := { s.line with queue := s.line.queue.filter fun a => a.chan != k } } : State).rinc (.taqDiscarded k) 64 n
  else s

/-- A write of TAQ_CFG: fields but EN and ERR are locked while EN is 1; a channel can be enabled once it is DISABLED
(DEDUCED, log entry 31). -/
def State.taqCfgWrite (s : State) (k v : Nat) : State :=
  let s := if bits v 29 29 = 1 then s.fset (.taqCfg k) 29 29 0 else s
  if s.fget (.taqCfg k) 31 31 = 1 then (if bits v 31 31 = 0 then s.chanStop k else s)
  else
    let s := ((s.fset (.taqCfg k) 30 30 (bits v 30 30)).fset (.taqCfg k) 26 23 (bits v 26 23)).fset (.taqCfg k) 11 0 (bits v 11 0)
    if bits v 31 31 = 1 ∧ (s.chan k).state = 0 ∧ (s.chan k).stopping = false then
      (s.fset (.taqCfg k) 31 31 1).setChan k { state := 1 }
    else s

/-- ACTION_CHANNEL_DISABLE (R371): a write of TAQ_CFG with EN = 0 (DEDUCED, log entry 31). -/
def execActionChannelDisable (w : World) (k : Fin 16) (flush : Bool) (s : State) : Host.Outcome State Fault Refusal :=
  .next <|
    s.regOp w (Reg.taqCfg k.val |>.addr) true fun s =>
      s.taqCfgWrite k.val (setBits (setBits (s.rget (.taqCfg k.val)) 31 29 0) 30 30 (bitOf flush))

/-- ACTION_CHANNEL_DISABLED (R371). -/
def execActionChannelDisabled (k : Fin 16) (s : State) : Host.Outcome State Fault Refusal :=
  .next (if (s.chan k.val).stopping then s.setChan k.val { s.chan k.val with state := 0, stopping := false } else s)

/-- The channels of a context that is destroyed stop (Table 11.9). -/
def State.stopChannels (s : State) (c : Nat) : State :=
  (List.range 16).foldl (fun t k =>
    if t.fget (.taqCfg k) 31 31 = 1 ∧ t.fget (.taqCfg k) 11 0 = c then t.chanStop k else t) s

end Sys2Proof.Machine
end

