-- ==== Sys2Proof/Machine/Contexts.lean ====
section
/-! DEFINITION. Contexts (R255 to R257, R279, R287): CONTEXT_MODE_SELECT, CREATE, DESTROY, CONTEXT_FREED. -/

namespace Sys2Proof.Machine

open Sys2Proof

/-! ### Mode and creation -/

/-- A write of CPQ_INIT: the first non-zero MODE locks the field; 3 is ignored (R255). -/
def State.cpqInitWrite (s : State) (mode : Nat) : State :=
  if s.rget .cpqInit = 0 ∧ (mode = 1 ∨ mode = 2) then s.rset .cpqInit mode else s

/-- CONTEXT_MODE_SELECT (R255). -/
def execContextModeSelect (w : World) (mode : BitVec 2) (s : State) : Host.Outcome State Fault Refusal :=
  .next (s.regOp w (Reg.cpqInit |>.addr) true fun s => s.cpqInitWrite mode.toNat)

/-- CPQ_CTX_STAT after an operation. -/
def State.ctxStat (s : State) (ctx st sub : Nat) (busy : Bool) : State :=
  s.rset .cpqCtxStat (sub * 2 ^ 32 + bitOf busy * 2 ^ 31 + ctx * 2 ^ 16 + st)

/-- A context operation; while BUSY it is ignored with CFGERR. -/
def State.ctxOp (s : State) (f : State → State) : State :=
  if s.fget .cpqCtxStat 31 31 = 1 then s.cfgErr else f s

/-- Every fence of a context's range at 0, its count and EXT cleared (R287). -/
def State.clearFences (s : State) (c : Nat) : State :=
  let b := s.fget (.fenceCtxRangeR c) 16 0
  let n := s.fget (.fenceCtxRangeR c) 49 32
  { s with fences := s.fences.filter fun p => !decide (b ≤ p.1 ∧ p.1 < b + n) }

/-- CREATE (R256, R257, R287). -/
def State.create (s : State) (c : Nat) : State :=
  if s.tagged then s.ctxStat c stOk 0 false
  else if 256 ≤ c ∨ s.ctxSt c ≠ 0 then s.ctxStat c stRejected 0x14 false
  else ((s.rset (.ctxState c) 1).clearFences c).ctxStat c stOk 0 false

/-- CREATE: CPQ_CTX_OP with OP 1. -/
def execCreate (w : World) (ctx : BitVec 12) (s : State) : Host.Outcome State Fault Refusal :=
  .next (s.regOp w (Reg.cpqCtxOp |>.addr) true fun s => s.ctxOp fun s => s.create ctx.toNat)

/-! ### Destruction (R279) -/

/-- Queues of a context stop fetching and are disabled. -/
def State.disableSqs (s : State) (c : Nat) : State :=
  (List.range 1024).foldl (fun t q =>
    if t.sqEn q && t.fget (.sqCfg q) 11 0 == c then
      (t.fset (.sqCfg q) 31 31 0).setSq q { t.sq q with fetched := [], error := false }
    else t) s

/-- Accepted commands of a context. -/
def State.ctxCmds (s : State) (c : Nat) : List (Nat × Nat) :=
  (s.cmds.filter fun d => d.ctx == c).map fun d => (d.sq, d.seq)

/-- The lists of a context's channels end (Table 9.4). -/
def State.abortChannels (s : State) (c : Nat) : State :=
  (List.range 16).foldl (fun t k =>
    match (mget (fun _ => ({} : Sdma)) t.sdmas k).cur with
    | some r => if r.ctx = c then t.sdmaAbort k else t
    | none => t) s

/-- Held slots that no task holds are returned, and an ENABLED ring becomes DRAINING. -/
def State.drainRing (s : State) (r : Nat) : State :=
  let x := s.ring r
  if x.state = 0 then s
  else
    let s := (s.setRing r { x with state := 2 }).fset (.frCtl r) 0 0 0
    let s := match x.prod with
      | some ⟨_, .task _⟩ => s
      | some _ => s.prodEnd r
      | none => s
    let s := x.cons.foldl (fun t p => match p.2.holder with
      | .task _ => t
      | _ => t.consRelease r p.1) s
    s.ringSettle r

/-- The rings of a context. -/
def State.drainRings (s : State) (c : Nat) : State :=
  (List.range 64).foldl (fun t r => if t.ringCtx r = c then t.drainRing r else t) s

/-- DESTROY of a context (Table 11.9). -/
def State.destroy (s : State) (c : Nat) : State :=
  if (!s.tagged && decide (256 ≤ c)) || s.ctxSt c == 0 then s.ctxStat c stAlreadyDone 0 false
  else
    let s := (s.fset (.ctxState c) 1 0 2).ctxStat c stOk 0 true
    let s := if s.tagged then s else s.disableSqs c
    let s := s.abortAll (s.ctxCmds c)
    ((s.abortChannels c).drainRings c).stopChannels c

/-- DESTROY: CPQ_CTX_OP with OP 2. -/
def execDestroy (w : World) (ctx : BitVec 12) (s : State) : Host.Outcome State Fault Refusal :=
  .next (s.regOp w (Reg.cpqCtxOp |>.addr) true fun s => s.ctxOp fun s => s.destroy ctx.toNat)

/-- Whether the steps of Table 11.9 before the last have been taken: every command has its record, every ring and action
channel is free of the context. -/
def State.destroyed (s : State) (c : Nat) : Bool :=
  (s.ctxCmds c).isEmpty && (s.commitQ.all fun r => r.ctx != c) &&
  ((List.range 64).all fun r => s.ringCtx r != c || (s.ring r).state == 0) &&
  ((List.range 16).all fun k => s.fget (.taqCfg k) 11 0 != c || (s.chan k).state == 0)

/-- What becomes FREE with a context: its PMT entries in isolated mode, its image handles. -/
def State.freeCtx (s : State) (c : Nat) : State :=
  let s := { s with images := s.images.filter fun p => p.2.ctx != c }
  let s := if s.tagged then s else { s with pmt := s.pmt.filter fun p => p.2.ctx != c }
  (s.fset (.ctxState c) 1 0 0).ctxStat c stOk 0 false

/-- Whether a context is DESTROYING with steps of Table 11.9 still to take. -/
def State.destroying (s : State) (c : Nat) : Bool := s.fget (.ctxState c) 1 0 == 2 && !(s.tagged && s.destroyed c)

/-- A Function Level Reset ends once no context is DESTROYING: tags of which nothing is left are ACTIVE again, every PMT entry is
removed, an operation of the PMT ends, and CPQ_INIT is cleared (R253) (PRESUMED, log entry 21). -/
def State.flrSettle (s : State) : State :=
  if s.flrBusy && (List.range 4096).all fun c => !s.destroying c then
    let t := ((List.range 4096).filter fun c => s.fget (.ctxState c) 1 0 == 2).foldl (fun u c => u.freeCtx c) s
    (({ t with pmt := [], pmtOp := none, flrBusy := false } : State).fset .pmtResult 31 31 0).rset .cpqInit 0
  else s

/-- CONTEXT_FREED (R279): the context is FREE, BUSY clears and CTXDONE is set. -/
def execContextFreed (ctx : BitVec 12) (s : State) : Host.Outcome State Fault Refusal :=
  .next <|
    let c := ctx.toNat
    if s.fget (.ctxState c) 1 0 = 2 ∧ s.destroyed c = true then ((s.freeCtx c).event 3).flrSettle else s

end Sys2Proof.Machine
end

