-- ==== Sys2Proof/Machine/Mailbox.lean ====
section
/-! DEFINITION. Mailboxes (R300 to R305): MBX_PUSH, MBX_POP, MBX_ENABLE, and the receiver reset that other steps cause. -/

namespace Sys2Proof.Machine

open Sys2Proof

/-- Endpoint codes (Table 12.7). -/
def epCode : Endpoint → Nat
  | .host => 1 | .hc => 2 | .cp0 => 3 | .cp1 => 4 | .pmc => 5 | .sec => 6

def epOf : Nat → Option Endpoint
  | 1 => some .host | 2 => some .hc | 3 => some .cp0 | 4 => some .cp1 | 5 => some .pmc | 6 => some .sec | _ => none

/-! ### Channels -/

/-- Slots of a channel, oldest first. -/
def State.slots (s : State) (k : Nat) : List W64 := mget (fun _ => []) s.mbx k
def State.setSlots (s : State) (k : Nat) (l : List W64) : State := { s with mbx := minsert k l s.mbx }
def State.mbxSender (s : State) (k : Nat) : Option Endpoint := epOf (s.fget (.mbxCfg k) 59 56)
def State.mbxReceiver (s : State) (k : Nat) : Option Endpoint := epOf (s.fget (.mbxCfg k) 55 52)
def State.mbxEn (s : State) (k : Nat) : Bool := s.fget (.mbxCfg k) 63 63 == 1

/-- An endpoint's interrupt for channel `k`: the receive interrupt, or the sender's empty interrupt. -/
def State.epIrq (s : State) (ep : Endpoint) (k : Nat) (rx : Bool) : State :=
  match ep with
  | .host => s.msix (if rx then s.fget (.mbxCfg k) 42 32 else s.fget (.mbxCfg k) 10 0)
  | .hc => s.hcIrq (if rx then 64 + 2 * k else 65 + 2 * k)
  | e => { s with irqs := s.irqs ++ [.internal e] }

/-- The interrupt of a channel's receiver or sender (DESIGN CHOICE, log entry 8). -/
def State.rxIrq (s : State) (k : Nat) : State :=
  match s.mbxReceiver k with
  | some e => s.epIrq e k true
  | none => s
def State.txIrq (s : State) (k : Nat) : State :=
  match s.mbxSender k with
  | some e => s.epIrq e k false
  | none => s

/-- Whether an endpoint is held in reset: the host while PERST_N is low, the application cores while the HCL block holds
all of them. -/
def State.epReset (s : State) : Endpoint → Bool
  | .host => s.pcie.perst
  | .hc => s.fget .hclRst 7 0 == 0xFF
  | _ => false

/-- Channels above 15 belong to the Studio world (R300). -/
def mbxStudio (k : Nat) : Bool := decide (16 ≤ k)

/-- An access to a register of channel `k`: a Gallery access to a Studio channel is refused and counted (R301). -/
def State.mbxOp (s : State) (w : World) (k off : Nat) (wr : Bool) (f : State → State) : State :=
  if mbxStudio k && w == .gallery then s.violation off wr else f s

/-! ### Push, pop, reset -/

/-- A message to the application cores has the PMC power PD_HC up, whether or not it raises an interrupt (R27). -/
def State.mailWake (s : State) (k : Nat) : State :=
  if s.mbxReceiver k = some .hc ∧ s.pmc.pdHc = false then { s with pmc := { s.pmc with mail := true } } else s

/-- A push by an endpoint (R302, R303). A channel that is not enabled has no sender. -/
def State.push (s : State) (ep : Endpoint) (k : Nat) (v : W64) : State :=
  if s.mbxEn k = false ∨ s.mbxSender k ≠ some ep then s.rinc (.mbxBadsrc k) 64 1
  else if (s.mbxReceiver k).any s.epReset then (s.fset (.mbxStat k) 3 3 1).rinc (.mbxLost k) 64 1
  else
    let l := s.slots k
    if 8 ≤ l.length then s.fset (.mbxStat k) 2 2 1
    else
      let t := (s.setSlots k (l ++ [v])).mailWake k
      if l.isEmpty && s.fget (.mbxCfg k) 62 62 == 1 then t.rxIrq k else t

/-- The value a pop returns. -/
def State.reply (s : State) (v : Nat) : State := { s with resp := { ok := true, status := 0, data := leBytes 8 v } }

/-- A pop by an endpoint (R302, R303). -/
def State.pop (s : State) (ep : Endpoint) (k : Nat) : State :=
  if s.mbxEn k = false ∨ s.mbxReceiver k ≠ some ep then (s.rinc (.mbxBadsrc k) 64 1).reply 0
  else
    match s.slots k with
    | [] => (s.fset (.mbxStat k) 1 1 1).reply 0
    | v :: t =>
      let u := (s.setSlots k t).reply v.toNat
      if t.isEmpty && s.fget (.mbxCfg k) 61 61 == 1 then u.txIrq k else u

/-- A receiver reset clears one channel (R304). -/
def State.clearChannel (s : State) (k : Nat) : State :=
  let l := s.slots k
  if l.isEmpty then s
  else ((((s.setSlots k []).rinc (.mbxLost k) 64 l.length).fset (.mbxStat k) 3 3 1)).txIrq k

/-- A receiver reset: every channel with that receiver is cleared (R304). -/
def State.receiverReset (s : State) (ep : Endpoint) : State :=
  (List.range 24).foldl (fun t k => if t.mbxReceiver k = some ep then t.clearChannel k else t) s

/-! ### Configuration (R301) -/

/-- Whether a channel may be enabled. -/
def State.mbxMayEnable (s : State) (k : Nat) : Bool :=
  match s.mbxSender k, s.mbxReceiver k with
  | some a, some b => a != b && !(mbxStudio k && (a == .host || b == .host))
  | _, _ => false

/-- A write of MBX_CFG: fields other than EN are taken while EN is 0. -/
def State.mbxCfgWrite (s : State) (k v : Nat) : State :=
  let en := bits v 63 63
  if s.mbxEn k then (if en = 1 then s else s.fset (.mbxCfg k) 63 63 0)
  else
    let r := Reg.mbxCfg k
    let s := s.rset r (bits v 62 61 * 2 ^ 61 + bits v 59 52 * 2 ^ 52 + bits v 42 32 * 2 ^ 32 + bits v 10 0)
    if en = 0 then s
    else if s.mbxMayEnable k then s.fset r 63 63 1 else s.fset (.mbxStat k) 4 4 1

/-- MBX_PUSH (R302). -/
def execMbxPush (w : World) (ep : Endpoint) (k : Fin 24) (data : W64) (s : State) : Host.Outcome State Fault Refusal :=
  .next (s.mbxOp w k.val (Reg.mbxPushR k.val |>.addr) true fun s => s.push ep k.val data)

/-- MBX_POP (R302). -/
def execMbxPop (w : World) (ep : Endpoint) (k : Fin 24) (s : State) : Host.Outcome State Fault Refusal :=
  .next ((s.reply 0).mbxOp w k.val (Reg.mbxPopR k.val |>.addr) false fun s => s.pop ep k.val)

/-- MBX_ENABLE (R301): a write of MBX_CFG. -/
def execMbxEnable (w : World) (k : Fin 24) (cfg : W64) (s : State) : Host.Outcome State Fault Refusal :=
  .next (s.mbxOp w k.val (Reg.mbxCfg k.val |>.addr) true fun s => s.mbxCfgWrite k.val cfg.toNat)

/-! ### PMC event records (R401) -/

/-- An event record: into the log at PMC_EVHEAD mod 64, and its bytes 8 to 15 to Gallery channel CH while EN is set. -/
def State.pmcEvent (s : State) (typ sub v16 v32 : Nat) : State :=
  let i := s.rget .pmcEvhead % 64
  let hi := typ % 256 + sub % 256 * 2 ^ 8 + v16 % 65536 * 2 ^ 16 + v32 % 2 ^ 32 * 2 ^ 32
  let s := ((s.rset (.pmcEvlog i 0) s.now).rset (.pmcEvlog i 1) hi).rinc .pmcEvhead 64 1
  if s.fget .pmcEvnote 31 31 = 1 then s.push .pmc (s.fget .pmcEvnote 3 0) (BitVec.ofNat 64 hi) else s

end Sys2Proof.Machine
end

