-- ==== Sys2Proof/Machine/Ddr.lean ====
section
/-! DEFINITION. The DDR5 memory controller (R306 to R332): training, use and fill, the channel's queues and scheduler, panic,
refresh, alerts, read returns, write-backs, patrol scrub and error injection. The bytes that a request writes are in memory
from its arrival; its code, with an injected error, is new when its write command is issued (DESIGN CHOICE, log entry 69). -/

namespace Sys2Proof.Machine

open Sys2Proof

/-! ### Organisation and training (R306 to R311, R314) -/

/-- Whether an organisation is in Table 13.1. -/
def dimmOk (d : Dimm) : Bool :=
  (d.density == 8 || d.density == 16 || d.density == 24 || d.density == 32) && (d.ranks == 1 || d.ranks == 2) &&
  !(d.x4 && d.ranks == 2 && (d.density == 24 || d.density == 32))

/-- Capacity of a DIMM in bytes (Table 13.1). -/
def dimmBytes (d : Dimm) : Nat := d.density * (if d.x4 then 2 else 1) * d.ranks * 2 ^ 30

/-- Whether two DIMMs are of one organisation. -/
def sameOrg (a b : Dimm) : Bool := a.density == b.density && a.x4 == b.x4 && a.ranks == b.ranks

/-- The first channel that fails step 1: empty, not in Table 13.1, or unlike the first channel. -/
def firstBadDimm (l : List (Option Dimm)) : Option Nat :=
  (List.range 4).find? fun c =>
    match l.getD c none, l.getD 0 none with
    | some d, some f => !dimmOk d || !sameOrg d f
    | some d, none => !dimmOk d
    | none, _ => true

/-- Data rates by code: 0 DDR5-4800, 1 DDR5-5600, 2 DDR5-6400. -/
def rateOf : Nat → Nat
  | 0 => 4800 | 1 => 5600 | _ => 6400

/-- The highest rate every DIMM lists that MAXSPEED allows (R308). -/
def rateCode (l : List (Option Dimm)) (maxs : Nat) : Option Nat :=
  [2, 1, 0].find? fun r => decide (r ≤ maxs) && l.all fun d => match d with
    | some d => d.speeds.contains (rateOf r)
    | none => false

/-- The lowest row bit of R315 for an organisation: the position of the first bit left over. -/
def rowBit (x4 : Bool) (ranks : Nat) (pv : List Nat) : Nat :=
  let rest := (List.range 31).filterMap fun i => if pv.contains (i + 7) then none else some (i + 7)
  rest.getD ((if x4 then 7 else 6) + (if ranks = 2 then 1 else 0)) 40

/-- R314: whether the masks are accepted for an organisation. -/
def masksOk (ms : List Nat) (x4 : Bool) (ranks : Nat) : Bool :=
  let pv := ms.map pivot
  ms.all (fun m => m != 0 && bits m 6 0 == 0 && bits m 39 38 == 0) && decide pv.Nodup &&
  ((ms.zip pv).all fun p => pv.all fun q => q == p.2 || p.1 / 2 ^ q % 2 == 0) &&
  pv.all fun q => decide (q < rowBit x4 ranks pv)

/-- The weight of a training step, in hundredths of a percent (Table 13.3). -/
def trainWeight : Nat → Nat
  | 1 => 200 | 2 => 800 | 3 => 1500 | 4 => 1000 | 5 => 2500 | 6 => 2500 | 7 => 1500 | _ => 0

/-- A channel's progress with `n` steps finished (R310). -/
def trainSum : Nat → Nat
  | 0 => 0
  | n + 1 => trainSum n + trainWeight (n + 1)

/-- Where a channel stands `u` PERCLK cycles into step `k`, with `n` steps to go: the step, and the iterations of it done. The steps
run in order, and the last ends with the training (R309). -/
def trainAt (c : Nat) : Nat → Nat → Nat → Nat × Nat
  | 0, k, _ => (k, Config.trainPlan c k)
  | n + 1, k, u =>
    let per := Config.trainTicks c k + 1
    if u < (Config.trainPlan c k + 1) * per then (k, u / per)
    else if n = 0 then (k, Config.trainPlan c k)
    else trainAt c n (k + 1) (u - (Config.trainPlan c k + 1) * per)

/-- Where a channel stands while training runs: its step, and what the step has added to its progress (R310)
(DESIGN CHOICE, log entry 27). -/
def State.trainPos (s : State) (c : Nat) : Nat × Nat :=
  let p := trainAt c 7 1 (s.clock.ticks - s.ddr.trainAt)
  (p.1, trainWeight p.1 * p.2 / (Config.trainPlan c p.1 + 1))

/-- A channel's progress while training runs: its finished steps and its share of the current one (R310). -/
def State.chanProg (s : State) (c : Nat) : Nat := trainSum ((s.trainPos c).1 - 1) + (s.trainPos c).2

/-- STEP while training runs: the step of the channel that is furthest behind (DESIGN CHOICE, log entry 27). -/
def State.trainStep (s : State) : Nat :=
  if s.ddr.busy then min (min (s.trainPos 0).1 (s.trainPos 1).1) (min (s.trainPos 2).1 (s.trainPos 3).1) else s.ddr.step

/-- PROGRESS of training: floor of the mean of the four channels' (R310). -/
def State.trainProg (s : State) : Nat :=
  if s.ddr.busy then ((List.range 4).map fun c => s.chanProg c).sum / 4 else s.ddr.prog

/-- The steps that a channel has finished. -/
def State.setTrained (s : State) (c n : Nat) : State := s.setDmc c { s.dmc c with trained := n }

/-- A failure of training: the channel and the step, which is not before the one that the channel is in. The channel stops within
that step; the others finish their current step and stop (R309). PROGRESS is frozen at the failure (R310)
(DESIGN CHOICE, log entry 27). -/
def State.trainFail (s : State) (ch step : Nat) : State :=
  let k := max (s.trainPos ch).1 (min 7 step)
  let fin (c : Nat) : Nat := if c = ch then k - 1 else (s.trainPos c).1
  let prog (c : Nat) : Nat := if c = ch ∧ (s.trainPos ch).1 < k then trainSum (k - 1) else s.chanProg c
  let sum := ((List.range 4).map prog).sum
  let t := (List.range 4).foldl (fun t c => t.setTrained c (fin c)) s
  { t with ddr := { t.ddr with busy := false, failed := true, failCh := ch, step := k, prog := sum / 4 } }

/-- A write of START: training runs; step 1 checks the organisations and the masks. -/
def State.trainStart (s : State) (dimms : List (Option Dimm)) : State :=
  if s.ddr.busy ∨ s.ddrUsed then s
  else
    let s := { s with ddr := { s.ddr with
      busy := true, done := false, failed := false, step := 1, prog := 0, trainAt := s.clock.ticks } }
    match firstBadDimm dimms with
    | some c => s.trainFail c 1
    | none =>
      match dimms.head? with
      | some (some d) =>
        let s := { s with ddr := { s.ddr with
          density := d.density, x4 := d.x4, ranks := d.ranks, cap := 4 * dimmBytes d } }
        match rateCode dimms (s.fget .dmcCfg 1 0) with
        | none => s.trainFail 0 1
        | some r =>
          if masksOk s.hashes d.x4 d.ranks then { s with ddr := { s.ddr with speed := r, step := 2 } }
          else s.trainFail 0 1
      | _ => s.trainFail 0 1

/-- TRAINING_START (R309) (DESIGN CHOICE, log entry 27); after USE the register is locked (Table 19.2). -/
def execTrainingStart (w : World) (dimms : List (Option Dimm)) (s : State) : Host.Outcome State Fault Refusal :=
  .next (if s.ddrUsed then s else s.regOp w (Reg.dmcTrainCtl |>.addr) true fun s => s.trainStart dimms)

/-- A write of DMC_TRAIN_CTL: START finds the DIMMs in the sockets (DESIGN CHOICE, log entry 27). -/
def State.trainCtlWrite (s : State) (v : Nat) : State :=
  if bits v 0 0 = 1 then s.trainStart ((List.range 4).map Config.dimm) else s

/-- Device time in units of 0.5 ns, as the refresh intervals are counted. -/
def State.halfNs (s : State) : Nat := s.clock.ticks * 10

/-- The four channels ACTIVE, but for one that has FAILED, which stays so until reset (R326); refresh begins. -/
def State.channelsOn (s : State) : State :=
  (List.range 4).foldl (fun t c =>
    let x := { t.dmc c with trained := 7 }
    t.setDmc c (if x.state = 3 then x
      else { x with state := 1, refAt := [(0, s.halfNs), (1, s.halfNs)], refLast := [], owed := [] })) s

/-- Offset of the first line of channel `ch` among `n` from offset `d` up. -/
def State.nextLine (s : State) (ch : Nat) : Nat → Nat → Option Nat
  | 0, _ => none
  | n + 1, d => if s.ddrChannel d = ch then some d else s.nextLine ch n (d + 128)

/-- Zeros with valid check symbols in every line below an offset of DDR5 (R312); the first such write on the channel of an armed
DMC_ECC_INJ takes the injection (Table 13.8). -/
def State.ddrZero (s : State) (n : Nat) : State :=
  let s := s.zeroFill ddrBase n
  let ch := s.fget .dmcEccInj 5 4
  if s.fget .dmcEccInj 8 8 = 0 ∨ (s.dmc ch).state = 3 then s
  else
    match s.nextLine ch (n / 128) 0 with
    | none => s
    | some d =>
      let q := s.ddrInject ch
      if q.1 = 0 then q.2 else { q.2 with ecc := minsert ((ddrBase + d) / 128 * 4) q.1 q.2.ecc }

/-- Training ends: every channel trained, lines below 1 GiB filled; or a channel fails a step. -/
def State.trainEnd (s : State) (fail : Option (Nat × Nat)) : State :=
  if s.ddr.busy = false then s
  else
    match fail with
    | some (c, k) => s.trainFail (c % 4) (k % 8)
    | none =>
      let s := (s.ddrZero (2 ^ 30)).channelsOn
      { s with
        ddrLock := true
        ddr := { s.ddr with busy := false, done := true, step := 7, prog := 10000, fill := 2 ^ 30 } }

/-- TRAINING_DONE (R309, R310, R312). -/
def execTrainingDone (fail : Option (Nat × Nat)) (s : State) : Host.Outcome State Fault Refusal :=
  .next (s.trainEnd fail)

/-- The channels that have FAILED. -/
def State.failedMap (s : State) : Nat :=
  ((List.range 4).filter fun c => (s.dmc c).state == 3).foldl (fun m c => m + 2 ^ c) 0

/-- DMC_CFG.USE set (R311): the rest of the capacity begins to fill. -/
def State.setUse (s : State) : State :=
  if s.ddrUsed then s
  else
    { s.fset .dmcCfg 31 31 1 with ddr := { s.ddr with
        fillBusy := decide (s.ddr.fill < s.ddr.cap), fillAt := s.ddr.fill, chmap := s.failedMap } }

/-- DDR_USE (R311): a write of DMC_CFG with USE, which locks the register (Table 19.2). -/
def execDdrUse (w : World) (s : State) : Host.Outcome State Fault Refusal :=
  .next (if s.ddrUsed then s else s.regOp w (Reg.dmcCfg |>.addr) true fun s => s.setUse)

/-! ### Fill (R312, R313, R331) -/

/-- The next line of a channel that the fill is to write in the present 2 MiB, none once all have been asked for. -/
def State.fillLeft (s : State) (ch : Nat) : Option Nat :=
  let at_ := max (s.dmc ch).fillNext s.ddr.fillAt
  s.nextLine ch ((s.ddr.fillAt + 2 ^ 21 - at_) / 128) at_

/-- Whether a channel has written its lines of the present 2 MiB: every write has been asked for and issued. A FAILED channel takes
no part (R331). -/
def State.fillDone (s : State) (ch : Nat) : Bool :=
  let x := s.dmc ch
  x.state == 3 || ((s.fillLeft ch).isNone && !(x.entries ++ x.input).any fun r => r.who == .fill)

/-- 2 MiB more are filled, once every channel has written its lines. The boundary follows while no channel has FAILED; then it stays
at the first line not filled, and the fill goes on in the other channels (R312, R331). -/
def State.fillStep (s : State) : State :=
  if s.ddr.fillBusy && s.ddrUsed && !s.ddr.selfRefresh && (List.range 4).all (fun c => s.fillDone c) then
    let d := s.ddr
    let at_ := d.fillAt + 2 ^ 21
    { s with ddr := { d with
        fill := if d.chmap = 0 then at_ else d.fill
        fillAt := at_
        fillBusy := decide (at_ < d.cap) } }
  else s

/-- FILL_ADVANCE (R312): the last write of the 2 MiB has been performed. -/
def execFillAdvance (s : State) : Host.Outcome State Fault Refusal := .next s.fillStep

/-- While the fill runs, a channel that is not in panic holds one request of it, for its next line (R312). -/
def State.fillAsk (s : State) (ch : Nat) : State :=
  let x := s.dmc ch
  if s.ddr.fillBusy = false ∨ s.ddrUsed = false ∨ x.state ≠ 1 ∨ x.panic = true ∨
      (x.entries ++ x.input).any (fun r => r.who == .fill) = true then s
  else
    match s.fillLeft ch with
    | none => s
    | some d => (s.setDmc ch { x with fillNext := d + 128 }).askBulk (ddrBase + d) (some []) .fill

/-! ### Queues (R317, R320) -/

/-- Panic follows the level of the ingest buffer (R320). -/
def State.panicLevel (s : State) (ch : Nat) : State :=
  let x := s.dmc ch
  let n := x.ingest.length
  if !x.panic && decide (s.fget (.dmcPanicLvl ch) 8 0 ≤ n) then
    (s.setDmc ch { x with panic := true }).rinc (.dmcCount ch 4) 64 1
  else if x.panic && decide (n ≤ s.fget (.dmcPanicLvl ch) 24 16) then s.setDmc ch { x with panic := false }
  else s

/-- The answer to a demand, kept for its requester and shown as the last answer. -/
def State.ddrReply (s : State) (ch : Nat) (r : DdrReq) (status : Nat) (data : List Byte) : State :=
  match r.who with
  | .demand o =>
    { s.setDmc ch { s.dmc ch with replies := (s.dmc ch).replies ++ [⟨o, r.addr, r.wr.isSome, status, data⟩] } with
      resp := { ok := status == stOk, status := status, data := data } }
  | _ => s

/-- A request that fails because its channel has FAILED: counted and reported, and its requester receives ST_ECC_UNCORR
(R326). -/
def State.failReq (s : State) (ch : Nat) (r : DdrReq) : State := (s.chanFailure ch).ddrReply ch r stEccUncorr []

/-- DDR_REQUEST_ARRIVE (R317, R320, R326): a line of the SLC's traffic, with the class and the priority of its origin (R21,
R211); `data` is what a write brings. A full ingest buffer holds the request back. -/
def execDdrRequestArrive (addr : Pa) (wr : Bool) (data : List Byte) (origin : DdrOrigin) (s : State) :
    Host.Outcome State Fault Refusal :=
  .next <|
    let a := addr.toNat / 128 * 128
    if !inDdr a || !s.backed a then s
    else
      let ch := s.ddrChannel (ddrOff a)
      let x := s.dmc ch
      let bs := if wr then some (data.take 128) else none
      let rt := origin == .realTime
      let r : DdrReq := ⟨a, bs, rt, s.originPrio a origin, x.order, 0, .demand origin⟩
      let t := s.setBytes a (bs.getD [])
      let y := { x with order := x.order + 1 }
      if x.state = 3 then s.failReq ch r
      else if rt then
        if x.ingest.length < 256 then (t.setDmc ch { y with ingest := y.ingest ++ [r] }).panicLevel ch else s
      else t.setDmc ch (s.bulkIn y r)

/-! ### Scheduling (R317, R318) -/

/-- Bus direction of the next slot: true for writes (R318). -/
def Dmc.nextDir (x : Dmc) : Bool :=
  let all := x.entries ++ x.ingest
  let w := (all.filter fun r => r.wr.isSome).length
  let r := all.length - w
  if x.panic then
    match x.ingest with
    | q :: _ => q.wr.isSome
    | [] => x.wrDir
  else if x.wrDir then (if w ≤ 128 ∧ r ≠ 0 then false else true)
  else decide (384 ≤ w ∨ (w ≠ 0 ∧ r = 0))

/-- Effective priority: a bulk entry that has waited 4,096 cycles takes 7. -/
def DdrReq.key (r : DdrReq) : Nat := if r.rt then 8 + r.prio else if 4096 ≤ r.wait then 7 else r.prio

/-- The oldest entry with the highest key. -/
def bestReq : List DdrReq → Option DdrReq
  | [] => none
  | r :: t =>
    match bestReq t with
    | none => some r
    | some q => if r.key < q.key ∨ (r.key = q.key ∧ q.order < r.order) then some q else some r

/-- The open row of a bank. -/
def Dmc.row (x : Dmc) (b : Nat) : Option Nat := mget (fun _ => none) x.opened b

/-- Whether a request may be issued: in panic, patrol scrub and fill requests are not (R320). -/
def Dmc.mayIssue (x : Dmc) (r : DdrReq) : Bool := !(x.panic && (r.who == .scrub || r.who == .fill))

/-- Candidate of bank queue `b` in the bus direction. In panic, ingest requests come first, whatever their row state. -/
def State.cand (s : State) (x : Dmc) (dir : Bool) (b : Nat) : Option DdrReq :=
  let way (r : DdrReq) : Bool := r.wr.isSome == dir && x.mayIssue r
  let ing := x.ingest.filter fun r => s.reqBank r == b && way r
  if x.panic && !ing.isEmpty then bestReq ing
  else
    let l := (x.queue b).filter way ++ ing
    match bestReq l with
    | none => none
    | some c =>
      match x.row b with
      | none => some c
      | some row =>
        match bestReq (l.filter fun r => s.reqRow r == row) with
        | none => some c
        | some h => if h.order = c.order ∨ mget (fun _ => 0) x.hits b < 16 then some h else some c

/-- Candidates of the legal banks with their keys; in panic only the banks with ingest requests, while there are any. -/
def State.cands (s : State) (x : Dmc) (dir : Bool) (legal : List Nat) : List (Nat × DdrReq) :=
  let l := ((List.range s.queueCount).filter fun b => legal.contains b).filterMap fun b => (s.cand x dir b).map fun r => (b, r)
  let ing := l.filter fun p => p.2.rt
  if x.panic && !ing.isEmpty then ing else l

/-- The pick: the highest key, then the first bank counting upward from the pointer. -/
def pickBank (n ptr : Nat) : List (Nat × DdrReq) → Option (Nat × DdrReq)
  | [] => none
  | p :: t =>
    match pickBank n ptr t with
    | none => some p
    | some q =>
      if p.2.key < q.2.key then some q
      else if q.2.key < p.2.key then some p
      else if (q.1 + n - ptr) % n < (p.1 + n - ptr) % n then some q else some p

/-- A request leaves its queue; the one at the channel input that R212 names takes the place. -/
def State.remove (s : State) (x : Dmc) (b : Nat) (r : DdrReq) : Dmc :=
  s.letIn { x with
    queues := minsert b ((x.queue b).filter fun q => q.order ≠ r.order) x.queues
    ingest := x.ingest.filter fun q => q.order ≠ r.order }

/-- Whether a word of the line at offset `d` is stored uncorrectable or with poison. -/
def State.ddrBad (s : State) (d : Nat) : Bool :=
  let w := (ddrBase + d) / 128 * 4
  decide (s.symLimit < mget (fun _ => 0) s.ecc w ∨ s.symLimit < mget (fun _ => 0) s.ecc (w + 2))

/-- The effect of a write command on its line (R312, R328): its code is new; the fill writes zeros; a correction write-back is
read back (DEDUCED, log entry 29), and leaves a line that is uncorrectable by then. -/
def State.ddrPerform (s : State) (r : DdrReq) : State :=
  let d := ddrOff r.addr
  match r.who with
  | .fill => (s.setBytes r.addr (List.replicate 128 0)).ddrStore d false
  | .wback => if s.ddrBad d then s else ((s.ddrStore d false).ddrLine 3 d ⟨0, 0, false⟩).2
  | _ => s.ddrStore d false

/-- The command issued for the candidate of a bank: ACT, PRE, RD or WR. An access is a row hit unless its row was opened for
it. -/
def State.ddrIssue (s : State) (ch : Nat) (x : Dmc) (b : Nat) (r : DdrReq) : State :=
  match x.row b with
  | none =>
    let row := s.reqRow r
    s.setDmc ch { x with
      opened := minsert b (some row) x.opened, opener := minsert b r.order x.opener, retry := x.retry ++ [.act b row] }
  | some row =>
    if row ≠ s.reqRow r then s.setDmc ch { x with opened := minsert b none x.opened, retry := x.retry ++ [.pre b] }
    else
      let older := (x.queue b ++ x.ingest.filter fun q => s.reqBank q == b).any fun q => decide (q.order < r.order)
      let hit := older && mfind x.opener b != some r.order
      let h := mget (fun _ => 0) x.hits b
      let y := s.remove x b r
      let y := { y with hits := minsert b (if hit then h + 1 else 0) y.hits, opener := merase b y.opener }
      match r.wr with
      | some _ =>
        let t := (s.setDmc ch { y with retry := y.retry ++ [.wr r] }).ddrPerform r
        (t.ddrReply ch r stOk []).panicLevel ch
      | none => (s.setDmc ch { y with retry := y.retry ++ [.rd r], reads := y.reads ++ [r] }).panicLevel ch

/-- Every waiting request has waited one slot more where it stands. -/
def Dmc.age (x : Dmc) : Dmc :=
  { x with
    queues := x.queues.map fun p => (p.1, p.2.map fun r => { r with wait := r.wait + 1 })
    input := x.input.map fun r => { r with wait := r.wait + 1 } }

/-! ### Refresh (R321, R322) -/

/-- Banks of one rank that share a bank number. -/
def State.sameBanks (s : State) (rank b : Nat) : List Nat := (List.range 8).map fun g => (rank * 8 + g) * s.bankCount + b

/-- Interval of a rank's same-bank refreshes, in units of 0.5 ns: halved at 2×. -/
def State.refInterval (s : State) (x : Dmc) (rank : Nat) : Nat :=
  7800 / s.bankCount / (if x.eff2x / 2 ^ rank % 2 = 1 then 2 else 1)

/-- The refreshes that a rank owes: one for each interval that has passed, at most four times the banks per group. -/
def State.refAccrue (s : State) (x : Dmc) (rank : Nat) : Dmc :=
  let at_ := mget (fun _ => 0) x.refAt rank
  let i := s.refInterval x rank
  let n := (s.halfNs - at_) / i
  { x with
    refAt := minsert rank (at_ + n * i) x.refAt
    owed := minsert rank (min (4 * s.bankCount) (mget (fun _ => 0) x.owed rank + n)) x.owed }

/-- Both ranks' refreshes counted up to the present. -/
def State.refCount (s : State) (x : Dmc) : Dmc :=
  (List.range s.ddr.ranks).foldl (fun y r => s.refAccrue y r) x

def Dmc.owes (x : Dmc) (rank : Nat) : Nat := mget (fun _ => 0) x.owed rank

/-- A rank at the limit, whose refresh precedes every request. -/
def State.refForced (s : State) (x : Dmc) : Option Nat :=
  (List.range s.ddr.ranks).find? fun r => decide (4 * s.bankCount ≤ x.owes r)

/-- A rank with a refresh due: one owed, and half an interval since its last, so that a rank that is behind catches up at
twice its rate. -/
def State.refDue (s : State) (x : Dmc) : Option Nat :=
  (List.range s.ddr.ranks).find? fun r =>
    decide (0 < x.owes r ∧ mget (fun _ => 0) x.refLast r + s.refInterval x r / 2 ≤ s.halfNs)

/-- A same-bank refresh of a rank: bank b of every group, with b in rotation; the refresh closes them and enters the retry
buffer, and a change of the rate takes effect (R322). -/
def State.refresh (s : State) (x : Dmc) (rank : Nat) : Dmc :=
  let b := mget (fun _ => 0) x.refBank rank
  { x with
    opened := (s.sameBanks rank b).foldl (fun m q => minsert q none m) x.opened
    refBank := minsert rank ((b + 1) % s.bankCount) x.refBank
    owed := minsert rank (x.owes rank - 1) x.owed
    refLast := minsert rank s.halfNs x.refLast
    eff2x := setBits x.eff2x rank rank (x.ref2x / 2 ^ rank % 2)
    retry := x.retry ++ [.refresh rank b] }

/-- Whether a pick is a row hit, for which a due refresh is postponed. -/
def State.pickHits (s : State) (x : Dmc) (b : Nat) (r : DdrReq) : Bool :=
  x.row b == some (s.reqRow r) && mfind x.opener b != some r.order

/-- What takes the slot: a rank at its limit, or a due refresh that neither panic nor a row hit postpones; else the pick. -/
def State.slotRefresh (s : State) (x : Dmc) (p : Option (Nat × DdrReq)) : Option Nat :=
  match s.refForced x with
  | some r => some r
  | none =>
    if x.panic then none
    else
      match p with
      | some (b, r) => if s.pickHits x b r then none else s.refDue x
      | none => s.refDue x

/-- Whether a channel can issue a command: ACTIVE, room in the retry buffer, and the DIMMs not kept in self-refresh by a
thermal trip (R324, R325, R394) (DEDUCED, log entry 29). -/
def State.canCommand (s : State) (x : Dmc) : Bool :=
  !s.ddr.selfRefresh && x.state == 1 && decide (x.retry.length < 64)

/-- The command of a slot: a refresh, or the pick of R317. -/
def State.ddrSlot (s : State) (c : Nat) (legal : List Nat) : State :=
  let x := s.refCount (s.dmc c)
  let x := { x with wrDir := x.nextDir }
  let p := pickBank s.queueCount x.ptr (s.cands x x.wrDir legal)
  match s.slotRefresh x p with
  | some r => s.setDmc c (s.refresh x r)
  | none =>
    match p with
    | none => s.setDmc c x
    | some (b, r) => s.ddrIssue c { x with ptr := (b + 1) % s.queueCount } b r

/-- DDR_COMMAND_ISSUE (R317, R318, R320, R321, R324): one command slot; `legal` are the banks whose next command meets every
timing. -/
def execDdrCommandIssue (ch : Fin 4) (legal : List Nat) (s : State) : Host.Outcome State Fault Refusal :=
  .next <|
    let c := ch.val
    let t := s.setDmc c (s.dmc c).age
    if t.canCommand (t.dmc c) then (t.fillAsk c).ddrSlot c legal else t

/-- SAME_BANK_REFRESH (R321): a due refresh takes its slot, half an interval after the rank's last at the earliest. -/
def execSameBankRefresh (ch : Fin 4) (rank : Fin 2) (s : State) : Host.Outcome State Fault Refusal :=
  .next <|
    let x := s.refCount (s.dmc ch.val)
    if s.canCommand x && decide (rank.val < s.ddr.ranks) && 
        decide (0 < x.owes rank.val ∧ mget (fun _ => 0) x.refLast rank.val + s.refInterval x rank.val / 2 ≤ s.halfNs) then
      s.setDmc ch.val (s.refresh x rank.val)
    else s

/-! ### Temperature and calibration (R322, R323) -/

/-- One rank after a reading of mode register address 4. -/
def State.rankReading (s : State) (ch : Nat) (readings : List MrReading) (rank : Nat) : State :=
  let mine := readings.filter fun m => m.rank == rank
  if mine.isEmpty then s
  else
    let x := s.dmc ch
    let was := x.ref2x / 2 ^ rank % 2 == 1
    let hot2 := mine.any (·.twoX)
    let x := { x with retry := x.retry ++ [.mrr rank] }
    let s := if hot2 && !was then (s.setDmc ch { x with ref2x := x.ref2x + 2 ^ rank }).rinc (.dmcCount ch 5) 64 1
      else if was && !hot2 then s.setDmc ch { x with ref2x := x.ref2x - 2 ^ rank }
      else s.setDmc ch x
    if mine.any (·.hot) then s.pmcEvent 4 (ch * 2 + rank) 0 0 else s

/-- MODE_REGISTER_POLL (R322, R395): the reads enter the retry buffer, and wait while it is full or an episode runs (R324,
R325). -/
def execModeRegisterPoll (ch : Fin 4) (readings : List MrReading) (s : State) : Host.Outcome State Fault Refusal :=
  .next (if s.canCommand (s.dmc ch.val) && decide ((s.dmc ch.val).retry.length < 63) then
    (s.rankReading ch.val readings 0).rankReading ch.val readings 1 else s)

/-- One periodic operation of a rank (R323): its ZQ calibration, whose time is kept, or a reading of the interval oscillators of
its devices, from which the read timing is set. Neither changes data or order. -/
def State.rankOp (s : State) (x : Dmc) : RankOp → Dmc
  | .zq k => { x with zq := minsert k.val s.now x.zq, retry := x.retry ++ [.zq k.val] }
  | .osc k l =>
    { x with
      osc := minsert k.val l x.osc, readAdj := minsert k.val (Config.readTiming l) x.readAdj, retry := x.retry ++ [.osc k.val] }

/-- The rank of a periodic operation. -/
def rankOf : RankOp → Nat
  | .zq k => k.val
  | .osc k _ => k.val

/-- ZQ_CALIBRATION (R323) (DESIGN CHOICE, log entry 29). -/
def execZqCalibration (ch : Fin 4) (op : RankOp) (s : State) : Host.Outcome State Fault Refusal :=
  .next <|
    let x := s.dmc ch.val
    if s.canCommand x && decide (rankOf op < s.ddr.ranks) then s.setDmc ch.val (s.rankOp x op) else s

/-! ### Alerts (R324 to R326) -/

/-- RETRY_ENTRY_RETIRE (R324): the oldest command's alert time has passed. -/
def execRetryEntryRetire (ch : Fin 4) (s : State) : Host.Outcome State Fault Refusal :=
  .next <|
    let x := s.dmc ch.val
    if x.state ≠ 1 then s else s.setDmc ch.val { x with retry := x.retry.tail }

/-- The write of a retry-buffer entry. -/
def DdrCmd.write? : DdrCmd → Option DdrReq
  | .wr r => some r
  | _ => none

/-- What a channel still owes an answer: what is queued, and the writes in its retry buffer. -/
def Dmc.owed? (x : Dmc) : List DdrReq := x.requests ++ x.retry.filterMap DdrCmd.write?

/-- The channel becomes FAILED: every request that it holds fails (R326). While the fill runs it goes on without the channel
(R331). -/
def State.channelFail (s : State) (ch : Nat) : State :=
  let x := s.dmc ch
  let t := s.setDmc ch { x with
    state := 3, queues := [], input := [], ingest := [], reads := [], retry := [], wback := [], panic := false }
  let t := x.owed?.foldl (fun u r => u.failReq ch r) t
  if t.ddr.fillBusy then
    { t with ddr := { t.ddr with chmap := t.ddr.chmap ||| 2 ^ ch, fillBusy := t.failedMap != 15 } }
  else t

/-- ALERT_EPISODE (R325, R326): ALERT_n is sampled asserted; the channel stops and every bank is precharged. The fourth alert of
one episode fails the channel. -/
def execAlertEpisode (ch : Fin 4) (s : State) : Host.Outcome State Fault Refusal :=
  .next <|
    let c := ch.val
    let x := s.dmc c
    if x.state ≠ 1 ∧ x.state ≠ 2 then s
    else
      let y := { x with state := 2, alerts := x.alerts + 1, opened := [], opener := [] }
      let t := (s.setDmc c y).rinc (.dmcCount c 3) 64 1
      if 4 ≤ y.alerts then t.channelFail c else t

/-- Open rows once the commands of the retry buffer have been issued again in order: an RD or WR opens its row as needed, and a
refresh closes its banks. -/
def State.reopen (s : State) (m : SMap (Option Nat)) : List DdrCmd → SMap (Option Nat)
  | [] => m
  | .act b r :: t => s.reopen (minsert b (some r) m) t
  | .pre b :: t => s.reopen (minsert b none m) t
  | .rd r :: t | .wr r :: t => s.reopen (minsert (s.reqBank r) (some (s.reqRow r)) m) t
  | .refresh rank b :: t => s.reopen ((s.sameBanks rank b).foldl (fun m q => minsert q none m) m) t
  | .zq _ :: t | .osc _ :: t | .mrr _ :: t => s.reopen m t

/-- ALERT_N_RELEASE (R325): ALERT_n is released, or 2 µs have passed; the retry buffer is issued again in order and the episode
ends. Writes are performed again with the same data, so that no data changes. -/
def execAlertNRelease (ch : Fin 4) (s : State) : Host.Outcome State Fault Refusal :=
  .next <|
    let c := ch.val
    let x := s.dmc c
    if x.state ≠ 2 then s else s.setDmc c { x with state := 1, alerts := 0, opened := s.reopen [] x.retry }

/-! ### Read returns (R327 to R330) -/

/-- SOURCE of the logs for a read (Table 13.11). -/
def DdrWho.source : DdrWho → Nat
  | .scrub => 1
  | _ => 0

/-- What becomes of a line that was read: a demand is answered and, if the SLC does not hold the line, allocates it; a prefetch
allocates it as not yet used. An uncorrectable line is not allocated (R329). -/
def State.lineBack (s : State) (ch : Nat) (r : DdrReq) (ok : Bool) : State :=
  let line := r.addr / 128
  let held := (s.slcSlot line).isSome
  match r.who with
  | .demand _ =>
    if ok then
      let t := if held then s else s.slcFill line true
      t.ddrReply ch r stOk (t.bytes r.addr 128)
    else s.ddrReply ch r stEccUncorr []
  | .prefetch =>
    if ok && !held then
      let t := s.slcFill line true
      { t with slc := { t.slc with fetched := t.slc.fetched ++ [line] } }
    else s
  | _ => s

/-- DDR_READ_RETURN (R328, R329): the oldest read issued returns its line through the decoder. -/
def execDdrReadReturn (ch : Fin 4) (err : DdrErr) (s : State) : Host.Outcome State Fault Refusal :=
  .next <|
    let c := ch.val
    match (s.dmc c).reads with
    | [] => s
    | r :: t =>
      if (s.dmc c).state ≠ 1 then s
      else
        let p := (s.setDmc c { s.dmc c with reads := t }).ddrLine r.who.source (ddrOff r.addr) err
        p.2.lineBack c r p.1

/-- DDR_CORRECTION_WRITEBACK (R328): the write of the oldest corrected line enters its bank queue at priority 0, unless a newer
write to the line is queued. -/
def execDdrCorrectionWriteback (ch : Fin 4) (s : State) : Host.Outcome State Fault Refusal :=
  .next <|
    let c := ch.val
    let x := s.dmc c
    match x.wback with
    | [] => s
    | l :: t =>
      let s := s.setDmc c { x with wback := t }
      let a := ddrBase + l * 128
      if (x.entries ++ x.input ++ x.ingest).any fun r => r.addr == a && r.wr.isSome then s else s.askBulk a (some []) .wback

/-! ### Patrol scrub (R330) -/

/-- The bits of `v` put at positions `ps`. -/
def scatter (v : Nat) : List Nat → Nat
  | [] => 0
  | p :: t => v % 2 * 2 ^ p + scatter (v / 2) t

/-- The offset of the line with a channel, a bank word and the bits outside the pivots: the inverse of R315. -/
def State.lineOf (s : State) (ch bank rest : Nat) : Nat :=
  let ms := s.hashes
  let pv := ms.map pivot
  let ps := (List.range 31).filterMap fun i => if pv.contains (i + 7) then none else some (i + 7)
  let d := scatter rest ps
  let want := ch + 4 * bank
  ((ms.zip (List.range ms.length)).map fun p =>
    (want / 2 ^ p.2 % 2 + parity d p.1) % 2 * 2 ^ pivot p.1).foldl (· + ·) d

/-- The offset of line `n` of a channel in the scrubber's order. -/
def State.scrubLine (s : State) (ch n : Nat) : Nat :=
  let nb := 2 ^ (s.hashes.length - 2)
  s.lineOf ch (n % nb) (n / nb)

/-- One patrol read of a channel, a bulk read of priority 0: of its next line, or of its first once the next lies above the fill
boundary. Panic pauses it. -/
def State.ddrScrubOne (s : State) (ch : Nat) : State :=
  let x := s.dmc ch
  if (x.state ≠ 1 ∧ x.state ≠ 2) ∨ x.panic = true then s
  else
    let n := if s.scrubLine ch x.scrub < s.ddr.fill then x.scrub else 0
    let d := s.scrubLine ch n
    if s.ddr.fill ≤ d then s
    else (s.setDmc ch { x with scrub := n + 1 }).askBulk (ddrBase + d) none .scrub

/-- DDR_PATROL_SCRUB (R330): INTERVAL nanoseconds have passed; the next line of each channel is asked for. -/
def execDdrPatrolScrub (s : State) : Host.Outcome State Fault Refusal :=
  .next (if s.rget .dmcScrub = 0 then s else (List.range 4).foldl (fun t c => t.ddrScrubOne c) s)

/-! ### Error injection (Table 13.8) -/

/-- A write of DMC_ECC_INJ with ARM; MODE 3 leaves ARM. -/
def State.ddrInj (s : State) (ch mode : Nat) (arm : Bool) : State :=
  let s := (s.fset .dmcEccInj 5 4 ch).fset .dmcEccInj 1 0 mode
  if arm && mode != 3 then s.fset .dmcEccInj 8 8 1 else s

/-- DMC_ECC_INJ_ARM; after USE the register is locked (Table 19.2). -/
def execDmcEccInjArm (w : World) (ch : Fin 4) (mode : BitVec 2) (s : State) : Host.Outcome State Fault Refusal :=
  .next (if s.ddrUsed then s else s.regOp w (Reg.dmcEccInj |>.addr) true fun s => s.ddrInj ch.val mode.toNat true)

end Sys2Proof.Machine
end

