-- ==== Sys2Proof/Machine/Time.lean ====
section
/-! DEFINITION. Device time, its servo and holdover (R356, R357, R360, R361): TIME_STEP, TIME_SEC_READ, TIME_FREQ_WRITE,
SERVO_SAMPLE, HOLDOVER_ENTER. -/

namespace Sys2Proof.Machine

open Sys2Proof

/-! ### The counter (R356) -/

/-- Device time in 2⁻⁴⁰ ns. -/
def Clock.total (c : Clock) : Nat := (c.sec * 1000000000 + c.ns) * 2 ^ 40 + c.frac

/-- The counter set, SEC modulo 2⁴⁸. -/
def Clock.setTotal (c : Clock) (t : Nat) : Clock :=
  { c with
    sec := t / 2 ^ 40 / 1000000000 % 2 ^ 48, ns := t / 2 ^ 40 % 1000000000, frac := t % 2 ^ 40 }

/-- One PERCLK cycle (DESIGN CHOICE, log entry 2). -/
def Clock.tick (c : Clock) : Clock :=
  let c := { c with ticks := c.ticks + 1 }
  if c.runs then c.setTotal (c.total + c.inc) else c

/-- The increment for a value of FREQ: 5 ns × (1 + FREQ × 2⁻⁸ × 10⁻⁹), to 2⁻⁴⁰ ns by RNE. -/
def increment (freq : Int) : Nat := (rneDiv (5 * 2 ^ 40 * (256000000000 + freq)) 256000000000).toNat

/-- FREQ as a signed value. -/
def State.freq (s : State) : Int := sx 32 (s.rget .timeFreq)

/-- FREQ takes a new value and the increment is formed. -/
def State.setFreq (s : State) (f : Int) : State :=
  { s.rset .timeFreq (lowBits 32 f) with clock := { s.clock with inc := increment f } }

/-- A step of device time by a signed number of 2⁻⁴⁰ ns (R357): not below zero, counted, and followed by a new look at the
timed actions (R369). -/
def State.stepTime (s : State) (d : Int) : State :=
  let t := (s.clock.total : Int) + d
  (({ s with clock := s.clock.setTotal t.toNat } : State).rinc .timeSteps 64 1).afterStep s

/-- TIME_STEP (R357). -/
def execTimeStep (w : World) (v : W64) (s : State) : Host.Outcome State Fault Refusal :=
  .next (s.regOp w (Reg.timeStepR |>.addr) true fun s => s.stepTime (v.toInt * 2 ^ 40))

/-- A read of TIME_SEC latches NS and FRAC (DEDUCED, log entry 43). -/
def State.readTimeSec (s : State) : State :=
  ({ s with clock := { s.clock with latch := some (s.clock.ns * 65536 + s.clock.frac / 2 ^ 24) } } : State).reply s.clock.sec

/-- TIME_SEC_READ (R357). -/
def execTimeSecRead (w : World) (s : State) : Host.Outcome State Fault Refusal :=
  .next (s.regOp w (Reg.timeSec |>.addr) false State.readTimeSec)

/-- A write of TIME_FREQ (R356, R360). -/
def State.freqWrite (s : State) (v : Int) : State :=
  if s.fget .timeSrvCtl 31 31 = 1 ∨ v < -128000000 ∨ 128000000 < v then s else s.setFreq v

/-- TIME_FREQ_WRITE (R356). -/
def execTimeFreqWrite (w : World) (v : W32) (s : State) : Host.Outcome State Fault Refusal :=
  .next (s.regOp w (Reg.timeFreq |>.addr) true fun s => s.freqWrite v.toInt)

/-! ### The servo (R360, R361) -/

/-- A quotient whose rounding the manual does not state (DESIGN CHOICE, log entry 45); a tie goes to even (R40). -/
def State.anyRound (s : State) (n : Int) (d : Nat) : Int × State :=
  let q := n / (d : Int)
  let r := n % (d : Int)
  if r = 0 then (q, s)
  else if 2 * r = (d : Int) then (rneDiv n d, s)
  else (q + (s.takeFree.1 % 2 : Nat), s.takeFree.2)

/-- State of the servo after a sample that made no step. -/
def Servo.judge (x : Servo) (good : Bool) : Servo :=
  let x := if x.state = 3 then { x with state := 1, good := 0, bad := 0 } else x
  let x := if good then { x with good := x.good + 1, bad := 0 } else { x with good := 0, bad := x.bad + 1 }
  if x.state = 1 ∧ 16 ≤ x.good then { x with state := 2 }
  else if x.state = 2 ∧ 4 ≤ x.bad then { x with state := 1 }
  else x

/-- FREQ of the proportional and the integral part (R360): −256 × (o × 2^−KP + A × 2^−KI), o and A in 2⁻¹⁶ ns, rounded to
nearest with a tie to even (R40). -/
def State.servoFreq (s : State) (o acc : Int) : Int :=
  let kp := s.fget .timeSrvCtl 23 20
  let ki := s.fget .timeSrvCtl 19 16
  clampI (-128000000) 128000000 (rneDiv (-256 * (o * 2 ^ ki + acc * 2 ^ kp)) (2 ^ (kp + ki + 16)))

/-- One sample (R360). LASTOFS is kept in whole nanoseconds. -/
def State.servo1 (s : State) (o : Int) : State :=
  let x := s.servo
  let l := s.anyRound o 65536
  let s := l.2
  let x := { x with last := clampI (-2147483648) 2147483647 l.1, since := s.clock.ticks }
  let stepThr := s.fget .timeSrvThr 63 32
  let lockThr := s.fget .timeSrvThr 31 0
  if s.fget .timeSrvCtl 30 30 = 1 ∧ stepThr * 65536 < o.natAbs then
    ({ s with servo := { x with acc := 0, state := 1, good := 0, bad := 0 } } : State).stepTime (-o * 2 ^ 24)
  else
    let acc := x.acc + o
    let f := s.servoFreq o acc
    let y := { x with acc := acc }.judge (decide (o.natAbs < lockThr * 65536))
    let y := if y.state = 2 then { y with hist := (f :: y.hist).take 64 } else y
    ({ s with servo := y } : State).setFreq f

/-- SERVO_SAMPLE (R360): a write of TIME_SRV_OFS while EN is 1. -/
def execServoSample (w : World) (v : W64) (s : State) : Host.Outcome State Fault Refusal :=
  .next <|
    s.regOp w (Reg.timeSrvOfs |>.addr) true fun s => if s.fget .timeSrvCtl 31 31 = 1 then s.servo1 v.toInt else s

/-- A write of TIME_SRV_CTL: fields but EN are locked while EN is 1 (R377; DESIGN CHOICE beside Table 19.2, log entry 75); EN = 1 starts the servo in LOCKING, EN = 0 turns it
OFF. -/
def State.srvCtlWrite (s : State) (v : Nat) : State :=
  let on := s.fget .timeSrvCtl 31 31 == 1
  let s := if on then s else (s.fset .timeSrvCtl 30 30 (bits v 30 30)).fset .timeSrvCtl 23 0 (bits v 23 0)
  let s : State := if bits v 31 31 = 0 then { s with servo := { s.servo with state := 0 } }
    else if on then s
    else { s with servo := { s.servo with state := 1, acc := 0, good := 0, bad := 0, since := s.clock.ticks } }
  s.fset .timeSrvCtl 31 31 (bits v 31 31)

/-- HOLDOVER_ENTER (R361): HOLDTMO milliseconds without a sample (DESIGN CHOICE, log entry 45). -/
def execHoldoverEnter (s : State) : Host.Outcome State Fault Refusal :=
  .next <|
    let x := s.servo
    if s.fget .timeSrvCtl 31 31 = 1 ∧ (x.state = 1 ∨ x.state = 2) ∧
        x.since + s.fget .timeSrvCtl 15 0 * 200000 ≤ s.clock.ticks then
      let s : State := { s with servo := { x with state := 3 } }
      if x.hist.isEmpty then s
      else
        let m := s.anyRound x.hist.sum x.hist.length
        m.2.setFreq m.1
    else s

end Sys2Proof.Machine
end

