-- ==== Sys2Proof/Machine/Eth.lean ====
section
/-! DEFINITION. Ethernet (R358, R359) and CAN (R373, R377). A frame that leaves the device stands in `resp`. -/

namespace Sys2Proof.Machine

open Sys2Proof

/-! ### PTP event messages (R358) -/

/-- Bytes of a frame before its type field: 12, or 16 with a VLAN tag. -/
def etherOff (f : List Byte) : Nat := if fieldAt f 12 2 = 0x0081 then 16 else 12

/-- A big-endian field of two bytes. -/
def be16 (f : List Byte) (off : Nat) : Nat := fieldAt f off 1 * 256 + fieldAt f (off + 1) 1

/-- Where a PTP message stands in a frame: its offset, and over UDP those of the UDP header and of the IP addresses with the
number of address bytes: 8 with IPv4, 32 with IPv6. -/
structure PtpAt where
  msg : Nat
  udp : Option (Nat × Nat × Nat)
deriving DecidableEq, Repr

/-- The PTP message of a frame: IEEE 802.3, UDP over IPv4, UDP over IPv6, port 319. -/
def ptpAt (f : List Byte) : Option PtpAt :=
  let o := etherOff f
  let t := be16 f o
  if t = 0x88F7 then some ⟨o + 2, none⟩
  else if t = 0x0800 ∧ fieldAt f (o + 11) 1 = 17 then
    let u := o + 2 + fieldAt f (o + 2) 1 % 16 * 4
    if be16 f (u + 2) = 319 then some ⟨u + 8, some (u, o + 14, 8)⟩ else none
  else if t = 0x86DD ∧ fieldAt f (o + 8) 1 = 17 ∧ be16 f (o + 44) = 319 then some ⟨o + 50, some (o + 42, o + 10, 32)⟩
  else none

/-- Sync, Delay_Req, Pdelay_Req and Pdelay_Resp: message types 0 to 3 (DESIGN CHOICE, log entry 26). -/
def ptpEvent (f : List Byte) : Bool :=
  match ptpAt f with
  | some p => decide (p.msg < f.length) && decide (fieldAt f p.msg 1 % 16 ≤ 3)
  | none => false

/-- Bytes of a frame replaced from an offset. -/
def splice (f : List Byte) (off : Nat) (b : List Byte) : List Byte := f.take off ++ b ++ f.drop (off + b.length)

/-- The sum of the big-endian 16-bit words of a string of bytes, an odd last byte being the high one. -/
def wordSum : List Byte → Nat
  | [] => 0
  | [a] => a.toNat * 256
  | a :: b :: t => a.toNat * 256 + b.toNat + wordSum t

/-- The UDP checksum of a frame with the UDP header at `u` and `n` address bytes at `ip` (DESIGN CHOICE, log entry 26). -/
def udpSum (f : List Byte) (u ip n : Nat) : Nat :=
  let len := be16 f (u + 4)
  65535 - (wordSum ((f.drop ip).take n) + 17 + len + wordSum ((splice f (u + 6) [0, 0]).drop u |>.take len)) % 65535

/-- A frame with its UDP checksum updated; an IPv4 checksum of zero, none, stays. -/
def PtpAt.checksum (p : PtpAt) (f : List Byte) : List Byte :=
  match p.udp with
  | some (u, ip, n) => if n = 8 ∧ be16 f (u + 6) = 0 then f else splice f (u + 6) (beBytes 2 (udpSum f u ip n))
  | none => f

/-- A Sync or Pdelay_Resp sent in one step (R358): the origin timestamp goes into the message, the correctionField takes the part
of it below a nanosecond, and the UDP checksum follows (DESIGN CHOICE, log entry 26). -/
def oneStep (f : List Byte) (t frac : Nat) : List Byte :=
  match ptpAt f with
  | none => f
  | some p =>
    let ty := fieldAt f p.msg 1 % 16
    if (ty = 0 ∨ ty = 3) ∧ p.msg + 44 ≤ f.length then
      let c := (beNat ((f.drop (p.msg + 8)).take 8) + frac) % 2 ^ 64
      let g := splice f (p.msg + 34) (beBytes 6 (t / 1000000000 % 2 ^ 48) ++ beBytes 4 (t % 1000000000))
      p.checksum (splice g (p.msg + 8) (beBytes 8 c))
    else f

/-! ### Descriptors (R359) -/

/-- Address of a descriptor. -/
def State.ethDesc (s : State) (r : Reg) (i : Nat) : Nat := s.fget r 43 12 * 4096 + 32 * (i % 2 ^ s.fget r 3 0)

/-- Whether a range lies in DDR5, where rings and buffers are (R359, R453). -/
def inDdr5 (a n : Nat) : Bool := decide (ddrBase ≤ a ∧ a + n ≤ 0x8000000000)

/-- A read by a MAC or the USB port; outside DDR5 it is refused (DESIGN CHOICE, log entry 26). -/
def State.macRead (s : State) (a n : Nat) : Except AccErr (List Byte) × State :=
  let a := a % 2 ^ 44
  if inDdr5 a n then s.physAccess .gallery false false (cutPhys (n / 65536 + 2) a n) a (.read n)
  else (.error ⟨stUnmapped, 1, a % 2 ^ 32⟩, s)

/-- A write by a MAC or the USB port; one that is refused leaves memory. -/
def State.macWrite (s : State) (a : Nat) (d : List Byte) : State :=
  let a := a % 2 ^ 44
  if inDdr5 a d.length then
    (s.physAccess .gallery false false (cutPhys (d.length / 65536 + 2) a d.length) a (.write d)).2
  else s

/-- TSTAMP and TSFRAC of a descriptor. -/
def State.tstamp (s : State) (t : Nat) : List Byte := leBytes 8 t ++ leBytes 2 (s.clock.frac / 2 ^ 24)

/-- ETH_RECEIVE (R358, R359): the frame goes to the buffer of the next descriptor given, or is dropped and counted
(DESIGN CHOICE, log entry 26). -/
def execEthReceive (p : Fin 2) (frame : List Byte) (fcsErr : Bool) (s : State) : Host.Outcome State Fault Refusal :=
  .next <|
    let idx := s.rget (.ethIdx p.val)
    let dev := bits idx 31 16
    if s.fget (.ethCfg p.val) 31 31 = 0 then s
    else if bits idx 15 0 = dev then s.rinc (.ethRxdrop p.val) 64 1
    else
      let d := s.ethDesc (.ethRxring p.val) dev
      match s.macRead d 32 with
      | (.error _, s) => s.fset (.ethIdx p.val) 31 16 (dev + 1)
      | (.ok b, s) =>
        let ts := ptpEvent frame
        let s := s.macWrite (fieldAt b 0 8 / 64 * 64) frame
        let s := if ts then s.macWrite (d + 16) (s.tstamp (s.now - s.fget (.ethTslat p.val) 31 16)) else s
        let s := s.macWrite (d + 8) (leBytes 2 frame.length ++ leBytes 1 (1 + 2 * bitOf ts + 8 * bitOf fcsErr))
        s.fset (.ethIdx p.val) 31 16 (dev + 1)

/-- ETH_TRANSMIT (R358, R359): the next descriptor given is sent and written back (DESIGN CHOICE, log entry 26). -/
def execEthTransmit (p : Fin 2) (s : State) : Host.Outcome State Fault Refusal :=
  .next <|
    let idx := s.rget (.ethIdx p.val)
    let dev := bits idx 63 48
    if s.fget (.ethCfg p.val) 31 31 = 0 ∨ bits idx 47 32 = dev then s
    else
      let d := s.ethDesc (.ethTxring p.val) dev
      match s.macRead d 32 with
      | (.error _, s) => s.fset (.ethIdx p.val) 63 48 (dev + 1)
      | (.ok b, s) =>
        let fl := fieldAt b 10 1
        let t := s.now + s.fget (.ethTslat p.val) 15 0
        let m := s.macRead (fieldAt b 0 8 / 64 * 64) (fieldAt b 8 2)
        let s := m.2
        let s : State := match m.1 with
          | .ok f =>
            let f := if fl / 4 % 2 = 1 then oneStep f t (s.clock.frac / 2 ^ 24) else f
            { s with resp := { ok := true, status := 0, data := f } }
          | .error _ => s
        let s := if fl / 2 % 2 = 1 then s.macWrite (d + 16) (s.tstamp t) else s
        let s := s.macWrite (d + 10) (leBytes 1 (setBits fl 0 0 1))
        s.fset (.ethIdx p.val) 63 48 (dev + 1)

/-! ### CAN (R373) -/

/-- Payload bytes of a frame: by its DLC, 8 at most for a classical frame. -/
def canLen (rec_ : List Byte) : Nat :=
  let d := fieldAt rec_ 4 1 % 16
  if fieldAt rec_ 0 4 / 2 ^ 30 % 2 = 0 then min d 8
  else if d ≤ 8 then d else [12, 16, 20, 24, 32, 48, 64].getD (d - 9) 64

/-- CAN_TXREQ written: W1S bits. -/
def State.canRequest (s : State) (c v : Nat) : State := s.rset (.canTxreqR c) (s.rget (.canTxreqR c) ||| v)

/-- CAN_TXREQ (R373). -/
def execCanTxreq (w : World) (c : Fin 2) (v : W32) (s : State) : Host.Outcome State Fault Refusal :=
  .next (s.regOp w (Reg.canTxreqR c.val |>.addr) true fun s => s.canRequest c.val v.toNat)

/-- The requested buffer that transmits first: the lowest identifier, then the lowest number. -/
def State.canNext (s : State) (c : Nat) : Option Nat :=
  ((List.range 32).filter fun b => s.fget (.canTxreqR c) b b == 1).foldl (fun best b =>
    match best with
    | none => some b
    | some k => if s.fget (.canTxbuf c b 0) 28 0 < s.fget (.canTxbuf c k 0) 28 0 then some b else some k) none

/-- Whether a controller is on the bus. -/
def State.canOn (s : State) (c : Nat) : Bool := s.fget (.canCtl c) 31 31 == 1 && s.fget (.canCtl c) 25 24 != 2

/-- The bytes of a transmit buffer. -/
def State.canBuf (s : State) (c b : Nat) : List Byte := (List.range 10).flatMap fun k => leBytes 8 (s.rget (.canTxbuf c b k))

/-- The error counts of a controller take new values, and STATE follows: error passive from 128, bus-off from 256 transmit errors,
as ISO 11898-1 has it (PRESUMED, log entry 53). -/
def State.canErrors (s : State) (c tec rec : Nat) : State :=
  s.fset (.canCtl c) 25 8
    ((if 256 ≤ tec then 2 else if 128 ≤ tec ∨ 128 ≤ rec then 1 else 0) * 2 ^ 16 + min tec 255 * 2 ^ 8 + min rec 255)

def State.canTec (s : State) (c : Nat) : Nat := s.fget (.canCtl c) 23 16
def State.canRec (s : State) (c : Nat) : Nat := s.fget (.canCtl c) 15 8

/-- A frame that an error ends, for its transmitter and for a receiver (PRESUMED, log entry 53). -/
def State.canTxError (s : State) (c : Nat) : State := s.canErrors c (s.canTec c + 8) (s.canRec c)
def State.canRxError (s : State) (c : Nat) : State := s.canErrors c (s.canTec c) (s.canRec c + 1)

/-- A frame that ends well (PRESUMED, log entry 53). -/
def State.canTxOk (s : State) (c : Nat) : State := s.canErrors c (s.canTec c - 1) (s.canRec c)
def State.canRxOk (s : State) (c : Nat) : State :=
  s.canErrors c (s.canTec c) (if 127 < s.canRec c then 127 else s.canRec c - 1)

/-- Whether a controller takes part in CAN FD frames. -/
def State.canFd (s : State) (c : Nat) : Bool := s.fget (.canCtl c) 30 30 == 1

/-- A frame record as sent: without FD it is a classical frame, with FDF and BRS clear (PRESUMED, log entry 53). -/
def classical (r : List Byte) : List Byte := splice r 0 (leBytes 4 (fieldAt r 0 4 % 2 ^ 30))

/-- CAN_TRANSMIT (R373): the frame is sent and its start-of-frame time written into STAMP. A frame that an error on the bus ends
stays requested. -/
def execCanTransmit (c : CanBus) (s : State) : Host.Outcome State Fault Refusal :=
  .next <|
    let n := c.c.val
    if s.canOn n then
      match s.canNext n with
      | some b =>
        if c.err then s.canTxError n
        else
          let s := ((s.rset (.canTxbuf n b 1) s.now).fset (.canTxreqR n) b b 0).canTxOk n
          let r := s.canBuf n b
          { s with resp := { ok := true, status := 0, data := if s.canFd n then r else classical r } }
      | none => s
    else s

def State.canFifo (s : State) (c : Nat) : List (List Byte) := mget (fun _ => []) s.canRx c

/-- Whether a record is that of a CAN FD frame. -/
def isFd (rec : List Byte) : Bool := fieldAt rec 0 4 / 2 ^ 30 % 2 == 1

/-- CAN_RECEIVE (R373): the frame joins the FIFO of 64, or is lost and sets OVF (DESIGN CHOICE, log entry 53). A CAN FD frame is in
error for a controller without FD (PRESUMED, log entry 53). -/
def execCanReceive (c : CanBus) (rec : List Byte) (s : State) : Host.Outcome State Fault Refusal :=
  .next <|
    let m := c.c.val
    if s.canOn m then
      if c.err || (isFd rec && !s.canFd m) then s.canRxError m
      else
        let s := s.canRxOk m
        if (s.canFifo m).length < 64 then
          let n := canLen rec
          let rest := s.freeBytes (64 - n)
          let r := leBytes 4 (fieldAt rec 0 4) ++ leBytes 1 (fieldAt rec 4 1 % 16) ++ leBytes 3 0 ++ leBytes 8 s.now ++
            leBytes n (fieldAt rec 16 n) ++ rest.1
          { rest.2 with canRx := minsert m (rest.2.canFifo m ++ [r]) rest.2.canRx }
        else s.fset (.canRxstat m) 7 7 1
    else s

/-- A read at 0x0848: the last 8 bytes of the head record, which is removed; with none held the value is open
(DESIGN CHOICE, log entry 53). -/
def State.canPop (s : State) (c : Nat) : State :=
  match s.canFifo c with
  | [] => s.takeFree.2.reply s.takeFree.1
  | r :: t => ({ s with canRx := minsert c t s.canRx } : State).reply (fieldAt r 72 8)

/-- CAN_RX_POP (R377). -/
def execCanRxPop (w : World) (c : Fin 2) (s : State) : Host.Outcome State Fault Refusal :=
  .next (s.regOp w (Reg.canRxhead c.val 9 |>.addr) false fun s => s.canPop c.val)

/-- BUS_OFF_RECOVERY (R373): error active, with both error counts at zero (DESIGN CHOICE, log entry 53). -/
def execBusOffRecovery (c : Fin 2) (s : State) : Host.Outcome State Fault Refusal :=
  .next <|
    if s.fget (.canCtl c.val) 29 29 = 1 ∧ s.fget (.canCtl c.val) 25 24 = 2 then s.fset (.canCtl c.val) 25 8 0 else s

end Sys2Proof.Machine
end

