-- ==== Sys2Proof/Machine/Power.lean ====
section
/-! DEFINITION. The power-management controller (R378 to R394): clock steps, the activity ramp, droop, idle states, power
samples, the cap, power domains, temperature. -/

namespace Sys2Proof.Machine

open Sys2Proof

/-! ### Clock steps (R380, R381) -/

/-- The divider changes, with 16 stalled cycles of the old clock. -/
def Engine.switch (x : Engine) (n : Nat) : Engine :=
  { x with
    curN := n
    stPwr := (x.stPwr + 16) % 2 ^ 64
    elapsed := if x.task.isSome then x.elapsed + 16 else x.elapsed
    clk := x.clk + 16
    noIssue := x.noIssue + 16
    ramp := x.ramp || decide (n < x.curN) }

/-- A clock step of an engine to its granted divider: a faster clock first raises the voltage and waits for VDone; the
change itself falls between bundles; a slower clock lowers the voltage afterwards. `mv` is the rail's target by divider
(R379). -/
def Engine.clockStep (x : Engine) (mv : Nat → Nat) (n : Nat) : Engine :=
  if n ≠ x.grant ∨ n = x.curN then x
  else if n < x.curN ∧ x.vmv < mv n then { x with step := some ⟨n, true, false⟩ }
  else if x.opened then x
  else if n < x.curN then { x.switch n with step := none }
  else
    { x.switch n with
      alloc := x.fall.getD x.alloc, fall := none
      step := if mv n < x.vmv then some ⟨n, false, true⟩ else none }

/-- CLOCK_STEP (R381). The effective cap follows in the cycle in which an allocation has fallen far enough (R389). -/
def execClockStep (ne : Fin 6) (n : BitVec 7) (s : State) : Host.Outcome State Fault Refusal :=
  .next <|
    if s.tripped then s
    else
      let e := ne.val
      let t := s.modEng e fun x => x.clockStep (s.trimMv e) n.toNat
      (if (t.eng e).curN = (s.eng e).curN then t else t.suppress e 16).followCap

/-- AVS_VDONE (R379, R381): the rail has its new voltage, that of the clock step, or the target of the divider in use with which
the PMC replaces the voltage of power-up (R430) (DEDUCED, log entry 5). -/
def execAvsVdone (e : Fin 6) (s : State) : Host.Outcome State Fault Refusal :=
  .next <|
    s.modEng e.val fun x =>
      match x.step with
      | some ⟨n, true, _⟩ => { x with vmv := s.trimMv e.val n, step := some ⟨n, false, false⟩ }
      | some ⟨n, false, true⟩ => { x with vmv := s.trimMv e.val n, step := none }
      | none => { x with vmv := s.trimMv e.val x.curN }
      | _ => x

/-- AVS_TIMEOUT (R380): the engine stays at its old operating point. -/
def execAvsTimeout (e : Fin 6) (s : State) : Host.Outcome State Fault Refusal :=
  .next <|
    match (s.eng e.val).step with
    | some ⟨_, w, l⟩ =>
      if w || l then (s.modEng e.val fun x => { x with step := none, grant := x.curN }).pmcEvent 0x06 e.val 0 0 else s
    | none => s

/-- A write of REQN (R378): outside 26 to 112 the field is unchanged. -/
def State.reqnWrite (s : State) (e n : Nat) : State :=
  if 26 ≤ n ∧ n ≤ 112 then s.fset (.pmcNePerf e) 6 0 n else s

/-- REQN_WRITE (R378). -/
def execReqnWrite (w : World) (e : Fin 6) (n : BitVec 7) (s : State) : Host.Outcome State Fault Refusal :=
  .next (s.regOp w (Reg.pmcNePerf e.val |>.addr) true fun s => s.reqnWrite e.val n.toNat)

/-! ### Activity ramp and droop (R382, R383) -/

/-- Whether a bundle may issue in ramp cycle `c`. -/
def rampIssues (c : Nat) : Bool :=
  let k := c / 16 + 1
  let j := c % 16
  decide (j * k / 16 < (j + 1) * k / 16)

/-- Ramp cycles that count in NE_STALL_PWR: those without issue that no other source stalls. -/
def rampStalls (others : List Nat) : Nat := ((List.range 256).filter fun c => !rampIssues c && !others.contains c).length

/-- ACTIVITY_RAMP (R382): after a step to a faster clock, or in the first cycle in which the engine would issue after 64 cycles
without issue. -/
def execActivityRamp (ne : Fin 6) (otherStalls : List Nat) (s : State) : Host.Outcome State Fault Refusal :=
  .next <|
    let x := s.eng ne.val
    if s.tripped = false ∧ (x.ramp = true ∧ x.run ≠ .idle ∨ 64 ≤ x.noIssue ∧ x.issues = true) then
      let n := rampStalls otherStalls
      (s.setEng ne.val { x with
        ramp := false, noIssue := 0
        stPwr := (x.stPwr + n) % 2 ^ 64
        elapsed := x.elapsed + n
        clk := x.clk + n }).suppress ne.val n
    else s

/-- DROOP_SUPPRESS (R383): from now on every second pulse is suppressed. -/
def execDroopSuppress (ne : Fin 6) (s : State) : Host.Outcome State Fault Refusal :=
  .next (s.modEng ne.val fun x => { x with droop := true })

/-- DROOP_RECOVER (R383): full rate again; `pulses` are the suppressed pulses beside those that the engine's cycles have
counted (DESIGN CHOICE, log entry 97). -/
def execDroopRecover (ne : Fin 6) (pulses : Nat) (s : State) : Host.Outcome State Fault Refusal :=
  .next <|
    if (s.eng ne.val).droop then
      (s.modEng ne.val fun x => { x with droop := false }).rinc (.pmcNeDroop ne.val) 64 pulses
    else s

/-! ### Known events (R385); times in eighths of a nanosecond -/

/-- The predicted publication of a ring, less GUARD. -/
def State.predict (s : State) (r : Nat) : Option Nat :=
  let x := s.ring r
  match x.pubT.head?, x.pubT[8]? with
  | some t, some u => if x.state = 1 then some (8 * t + (t - u) - 8000 * s.fget .pmcPolicy 47 32) else none
  | _, _ => none

/-- Predictions and the timer of an engine. -/
def State.soft (s : State) (e : Nat) : List Nat :=
  let m := s.rget (.pmcNeRings e)
  (if m = 0 then [] else (List.range 64).filterMap fun r => if bits m r r = 1 then s.predict r else none) ++
  (if s.rget (.pmcNeTimer e) = 0 then [] else [8 * s.rget (.pmcNeTimer e)])

/-- Deadlines of the engine's registered waits, and times of pending actions of its channels. -/
def State.hard (s : State) (e : Nat) : List Nat :=
  ((s.waits.filter fun w => w.task.isSome && decide (w.task = (s.eng e).task.map (·.id))).filterMap fun w =>
    w.deadline.map (8 * ·)) ++
  ((s.line.queue.filter fun a => !a.byPos && s.fget (.pmcNePerf e) (48 + a.chan) (48 + a.chan) == 1).map fun a => 8 * a.when_)

/-- The earliest known event still to come. -/
def State.tNext (s : State) (e : Nat) : Option Nat :=
  ((s.soft e ++ s.hard e).filter fun t => decide (8 * s.now < t)).foldl (fun m t => match m with
    | none => some t
    | some u => some (min t u)) none

/-- idle_since: the end of the last command, the power-up of PD_NEe, or a later known event that was dropped as passed. -/
def State.idleSince (s : State) (e : Nat) : Nat := (s.eng e).idleSince

/-- The known events of an engine that have passed are dropped (R385, R386). -/
def State.dropPassed (s : State) (e : Nat) : State :=
  let t := ((s.soft e ++ s.hard e).filter fun t => decide (t ≤ 8 * s.now)).foldl max (s.idleSince e)
  if s.idleSince e < t then s.modEng e fun x => { x with idleSince := t } else s

/-! ### Idle states (R384, R386, R387) -/

def idleRank : IdleSt → Nat
  | .active => 0 | .gated => 1 | .retain => 2 | .sliceOff => 3 | .exiting => 4

/-- Exit latency in nanoseconds. -/
def State.exitNs (s : State) (e : Nat) : IdleSt → Nat
  | .gated => 20
  | .retain => 8000
  | .sliceOff => 120000 + 100000 * s.fget (.pmcNePerf e) 47 32
  | _ => 0

/-- Break-even time in nanoseconds. -/
def breakEven : IdleSt → Nat
  | .gated => 200
  | .retain => 60000
  | .sliceOff => 25000000
  | _ => 0

/-- PERMIT and the conditions of R202. -/
def State.mayIdle (s : State) (e : Nat) : IdleSt → Bool
  | .gated => s.fget (.pmcNePerf e) 24 24 == 1
  | .retain => s.fget (.pmcNePerf e) 25 25 == 1
  | .sliceOff =>
    s.fget (.pmcNePerf e) 26 26 == 1 && !(s.eng e).busy && (List.range 16).all fun w => s.winState e w == 0
  | _ => false

/-- Whether an engine has a command issuing, or one ready to start. -/
def Engine.wanted (x : Engine) : Bool :=
  x.run == .issuing || x.run == .ending || x.run == .budget || (x.task.isNone && !x.queue.isEmpty)

/-- The state the PMC selects. -/
def State.selectIdle (s : State) (e : Nat) : IdleSt :=
  let x := s.eng e
  if x.wanted then .active
  else if x.run ≠ .idle then (if s.mayIdle e .gated then .gated else .active)
  else
    let idle := match s.tNext e with
      | some t => t - 8 * s.now
      | none => 8 * s.now - s.idleSince e
    ([IdleSt.sliceOff, .retain, .gated].find? fun i =>
      s.mayIdle e i && decide (8 * (s.exitNs e i + breakEven i) ≤ idle)).getD .active

/-- An engine enters an idle state: from RETAIN down its state is lost (R384), with SLICE_OFF loaded images lose the
engine. -/
def State.enterIdle (s : State) (e : Nat) (i : IdleSt) : State :=
  let x := { s.eng e with idle := i }
  let s := s.setEng e (if i = .gated then x else { x.clearCtx with lastCtx := none, fqs := [] })
  if i = .sliceOff then
    { s with images := s.images.map fun p => (p.1, { p.2 with engMask := setBits p.2.engMask e e 0 }) }
  else s

/-- IDLE_STATE_SELECT (R386): a selection moves an engine to a deeper state. -/
def execIdleStateSelect (e : Fin 6) (s : State) : Host.Outcome State Fault Refusal :=
  .next <|
    let s := s.dropPassed e.val
    let i := s.selectIdle e.val
    if idleRank (s.eng e.val).idle < idleRank i then s.enterIdle e.val i else s

/-- IDLE_EXIT (R387): before a known event, or at once for a command; a slice that was off reads as zero (R202); a PD_NEe that is
powered up starts its idle time afresh (R386) (DEDUCED, log entry 5). -/
def execIdleExit (e : Fin 6) (s : State) : Host.Outcome State Fault Refusal :=
  .next <|
    let x := s.eng e.val
    let near := match s.tNext e.val with
      | some t => decide (t ≤ 8 * (s.now + s.exitNs e.val x.idle))
      | none => false
    if x.idle = .active ∨ x.idle = .exiting then s
    else if x.wanted || near then
      let s := if x.idle = .sliceOff then (s.zeroRegion e.val).scrubReset e.val else s
      s.modEng e.val fun y =>
        { y with idle := .exiting, exitTo := s.now + s.exitNs e.val x.idle,
                 idleSince := if x.idle = .gated then y.idleSince else 8 * s.now }
    else s

/-- IDLE_EXIT_DONE (R387): the exit latency has passed; the activity ramp follows. -/
def execIdleExitDone (e : Fin 6) (s : State) : Host.Outcome State Fault Refusal :=
  .next <|
    let x := s.eng e.val
    if x.idle = .exiting ∧ x.exitTo ≤ s.now then s.setEng e.val { x with idle := .active, ramp := true } else s

/-! ### Power samples and allocation (R389 to R392) -/

/-- An engine rail's reading, scaled to N = 32. -/
def State.scaled (s : State) (e : Nat) (p : Nat × Nat) : Nat :=
  powerDiv ((p.1 - Config.leakage e (s.temp e)) * (s.eng e).curN * 750 * 750) (32 * p.2 * p.2)

/-- The peaks of the running phases. -/
def State.peaks (s : State) (rails : List (Nat × Nat)) : State :=
  (List.range 6).foldl (fun t e =>
    if (t.eng e).task.isSome then
      let m := t.scaled e (rails.getD e (0, 1))
      t.modEng e fun x => { x with peak := max x.peak m }
    else t) s

/-- The phases that run, each once. -/
def State.phases (s : State) : List (Nat × Nat) :=
  (((List.range 6).filter fun e => (s.eng e).task.isSome).map fun e => (s.eng e).phaseKey).eraseDups

/-- The learned need of every running phase raised by one eighth (R392). -/
def State.raiseNeeds (s : State) : State :=
  s.phases.foldl (fun t k => t.setNeed k (powerDiv (9 * t.learned k) 8)) s

/-- A 100 µs window of package power ends: the sum of its two samples. -/
def State.window100 (s : State) (sum : Nat) : State :=
  if 2 * s.pmc.effcap < sum then
    if s.pmc.overWin = 1 then
      let s : State := { s with pmc := { s.pmc with overWin := 1 } }
      (s.raiseNeeds.allocate).pmcEvent 0x05 0 (powerDiv sum 2) 0
    else { s with pmc := { s.pmc with overWin := 1 } }
  else { s with pmc := { s.pmc with overWin := 0 } }

/-- The power of the devices in use that PMC_PMB gives to a class (R380, R390); a device that does not answer counts
nothing. -/
def State.pmbPower (s : State) (r : PowerReading) (cls : Nat) : Nat :=
  ((List.range 8).map fun n =>
    let c := s.rget (.pmcPmb n)
    if bits c 15 15 = 1 ∧ bits c 9 8 = cls then ((r.pmb.find? fun p => p.1.toNat == bits c 6 0).map (·.2)).getD 0 else 0).sum

/-- The measured package power: the engine rails and every device in use (DESIGN CHOICE, log entry 97). -/
def State.pkgPower (s : State) (r : PowerReading) : Nat :=
  ((r.rails.take 6).map (·.1)).sum + s.pmbPower r 0 + s.pmbPower r 1 + s.pmbPower r 2

/-- POWER_SAMPLE (R390, R392). -/
def execPowerSample (r : PowerReading) (s : State) : Host.Outcome State Fault Refusal :=
  .next <|
    let s := s.peaks r.rails
    let p := s.pmc
    let pkg := s.pkgPower r
    let s : State := { s with pmc := { p with
      demRt := max (s.pmbPower r 1) (p.demRt - p.demRt / 16), demMem := max (s.pmbPower r 2) (p.demMem - p.demMem / 16)
      pkg := pkg % 65536
      winSum := match p.winSum with
        | some _ => none
        | none => some pkg } }
    match p.winSum with
    | some a => s.window100 (a + pkg)
    | none => s

/-- ALLOCATE (R391). -/
def execAllocate (s : State) : Host.Outcome State Fault Refusal := .next s.allocate

/-- A write of PMC_CAP (R389, R402). -/
def State.capWrite (s : State) (v : Nat) : State :=
  if 240 ≤ v ∧ v ≤ 800 then (s.fset .pmcCap 15 0 v).followCap.allocate else s

/-- PMC_CAP_WRITE (R389). -/
def execPmcCapWrite (w : World) (v : BitVec 16) (s : State) : Host.Outcome State Fault Refusal :=
  .next (s.regOp w (Reg.pmcCap |>.addr) true fun s => s.capWrite v.toNat)

/-! ### Power domains (R388) -/

/-- Whether every source and codec session is disabled. -/
def State.mediaIdle (s : State) : Bool :=
  (rtSources.all fun p => !s.srcLive p) &&
  ((List.range 3).all fun u => (List.range 16).all fun k => s.fget (.cdcCtl u k) 31 31 == 0)

/-- POWER_DOMAIN_OFF (R388): PD_HC once every core has asked and waits for an interrupt, which HCL_STAT.WFI shows; PD_MEDIA with
everything in it disabled and MEDIAOFF. The media units lose their state (R26); their set-up registers stand in PD_SOC. -/
def execPowerDomainOff (d : PowerDomain) (s : State) : Host.Outcome State Fault Refusal :=
  .next <|
    match d with
    | .hc wfi =>
      if s.pmc.pdHc = false then s
      else
        let s := s.fset .hclStat 7 0 wfi.toNat
        if s.fget .hclPdreq 7 0 = 255 ∧ wfi = 255 ∧ s.pmc.wake = [] ∧ s.pmc.mail = false then
          { s with pmc := { s.pmc with pdHc := false }, cores := [] }
        else s
    | .media =>
      if s.mediaIdle && s.fget (.pmcNePerf 0) 27 27 == 1 && s.pmc.mediaWake.isEmpty then
        { s with pmc := { s.pmc with pdMedia := false }, sources := [], ipps := [], codecs := [] }
      else s

/-- A source or session whose enable waited for PD_MEDIA. -/
def State.wakeSource (s : State) (p : Nat) : State :=
  if p < 0x100 then s.srcEnable p else s.cdcEnable (p / 16 % 16) (p % 16)

/-- POWER_DOMAIN_ON (R27, R388): PD_HC for an interrupt or a mailbox message to the cores, which have lost their state and start anew unless held
(DEDUCED from R26, log entry 99); PD_MEDIA for an enable, which completes after the zero fill of R202. -/
def execPowerDomainOn (d : PowerDomain) (s : State) : Host.Outcome State Fault Refusal :=
  .next <|
    match d with
    | .hc _ =>
      if s.pmc.pdHc = false ∧ (s.pmc.wake ≠ [] ∨ s.pmc.mail = true) then
        let w := s.pmc.wake
        let up := (List.range 8).filter fun k => s.fget .hclRst k k == 0
        { (s.rset .hclPdreq 0).fset .hclStat 7 0 0 with
          pmc := { s.pmc with pdHc := true, wake := [], mail := false }, irqs := s.irqs ++ w
          cores := up.foldl (fun m k => minsert k {} m) [] }
      else s
    | .media =>
      if s.pmc.pdMedia = false ∧ s.pmc.mediaWake ≠ [] then
        let w := s.pmc.mediaWake
        w.foldl State.wakeSource ((({ s with pmc := { s.pmc with pdMedia := true, mediaWake := [] } } : State).zeroRegion
          7).scrubReset 7)
      else s

/-! ### Temperature (R393, R394) -/

/-- PMC_TS of a sensor takes a reading. -/
def State.setTemp (s : State) (n t : Nat) : State := { s with pmc := { s.pmc with temps := minsert n t s.pmc.temps } }

/-- Sensor readings stored, twelve at most. -/
def State.setTemps (s : State) : Nat → List (BitVec 16) → State
  | _, [] => s
  | n, t :: ts => if n < 12 then (s.setTemp n t.toNat).setTemps (n + 1) ts else s

/-- A sensor's signed reading in units of 0.125 °C. -/
def State.tempC (s : State) (n : Nat) : Int := sx 16 (s.temp n)

/-- TLIMIT after one millisecond. -/
def State.nextTlimit (s : State) : Nat :=
  let thr := s.fget .pmcThermCfg 7 0
  let hyst := s.fget .pmcThermCfg 15 8
  if (List.range 12).any fun n => decide (((8 * thr : Nat) : Int) ≤ s.tempC n) then max 240 (s.pmc.tlimit - 8)
  else if (List.range 12).all fun n => decide (s.tempC n < ((8 * (thr - hyst) : Nat) : Int)) then min 800 (s.pmc.tlimit + 4)
  else s.pmc.tlimit

/-- The trip (R394): the engine and core clocks stop, THERMTRIP_N is low, the DIMMs are in self-refresh, the safe levels are
driven. -/
def State.trip (s : State) (sensor temp : Nat) : State :=
  let s : State := { s with tripped := true, ddr := { s.ddr with selfRefresh := true }, line := { s.line with safe := true } }
  s.fatalStop.pmcEvent 0x03 sensor temp 0

/-- The trip at the first sensor whose reading is 125 °C or more; none in reset, and none while one is in force (R394, R433). -/
def State.tripCheck (s : State) : State :=
  if s.held = true ∨ s.tripped = true then s
  else
    match (List.range 12).find? fun n => decide (1000 ≤ s.tempC n) with
    | some n => s.trip n (s.temp n)
    | none => s

/-- TLIMIT_STEP (R393): the first fall below PMC_CAP is recorded with the first sensor at or above TJ_THR. A reading of 125 °C
trips the device (R394). -/
def execTlimitStep (temps : List (BitVec 16)) (s : State) : Host.Outcome State Fault Refusal :=
  .next <|
    let s := s.setTemps 0 temps
    let t := s.nextTlimit
    let below := decide (t < s.fget .pmcCap 15 0)
    let first := below && decide (t < s.pmc.tlimit) && !s.pmc.throttled
    let s : State := { s with pmc := { s.pmc with tlimit := t, throttled := below && (s.pmc.throttled || first) } }
    let hot := ((List.range 12).find? fun n => decide (((8 * s.fget .pmcThermCfg 7 0 : Nat) : Int) ≤ s.tempC n)).getD 0
    let s := if first then s.pmcEvent 0x02 hot t 0 else s
    s.followCap.allocate.tripCheck

/-- THERMAL_TRIP (R394): a reading of 125 °C or more. -/
def execThermalTrip (sensor : Fin 12) (temp : BitVec 16) (s : State) : Host.Outcome State Fault Refusal :=
  .next <|
    let s := s.setTemp sensor.val temp.toNat
    if temp.toInt < 1000 ∨ s.held = true ∨ s.tripped = true then s else s.trip sensor.val temp.toNat

/-! ### Dips (R396, R397) -/

/-- The crossings that readings show (R396): bit 0 VDD_SOC and bit 1 VDDIO_18 below the warning level, bit 2 PWRWARN_N. -/
def State.crossings (s : State) (r : RailMv) (warn : Bool) : Nat :=
  bitOf (decide (r.soc < s.fget .pmcBoCfg 15 0)) + 2 * bitOf (decide (r.io18 < s.fget .pmcBoCfg 31 16)) + 4 * bitOf warn

/-- Whether every monitored rail is at or above its warning level plus 20 mV and PWRWARN_N is deasserted (R399). -/
def State.railsGood (s : State) (r : RailMv) (warn : Bool) : Bool :=
  decide (s.fget .pmcBoCfg 15 0 + 20 ≤ r.soc ∧ s.fget .pmcBoCfg 31 16 + 20 ≤ r.io18) && !warn

/-- The lowest reading of the rails that have crossed, of both rails where neither has (DEDUCED, log entry 55). -/
def lowReading (c : Nat) (r : RailMv) : Nat := if c % 4 = 1 then r.soc else if c % 4 = 2 then r.io18 else min r.soc r.io18

/-- DIP_EPISODE_START (R396, R397, R399): the supply monitors and PWRWARN_N, by their readings. A crossing begins an episode;
within one it adds to its causes, and the 2 ms start again with readings that are good once more (DESIGN CHOICE, log
entry 98). In reset nothing is monitored. -/
def execDipEpisodeStart (r : RailMv) (warn : Bool) (s : State) : Host.Outcome State Fault Refusal :=
  .next <|
    let p := s.pmc
    let c := s.crossings r warn
    if s.held then s
    else if p.hold then
      { s with pmc := { p with
          causes := p.causes ||| c, pwrwarn := warn, lowMv := min p.lowMv (lowReading (p.causes ||| c) r)
          calm := if s.railsGood r warn then some (p.calm.getD s.now) else none } }
    else if c = 0 then { s with pmc := { p with pwrwarn := warn } }
    else
      let s := s.rinc .pmcBoCount 64 1
      { s with pmc := { p with
          hold := true, pwrwarn := warn, dipT := s.now, calm := none, causes := c, lowMv := lowReading c r, releasing := false
          heldOps := p.held.length + p.holdQ.length } }

end Sys2Proof.Machine
end

