-- ==== Sys2Proof/Machine/Crypto.lean ====
section
/-! DEFINITION. The cryptographic conventions of R410: SHA-256 of FIPS 180-4 and the verification of an ECDSA signature on
the curve P-256 of FIPS 186-5, with signing (PRESUMED constants: R410 names the two standards and gives none of their numbers,
log entry 15), and certificates in DER (R419). Private keys and secret numbers are constants of `Config`. -/

namespace Sys2Proof.Machine

open Sys2Proof

/-! ### SHA-256 -/

/-- The round constants. -/
def shaK : List W32 :=
  [0x428A2F98, 0x71374491, 0xB5C0FBCF, 0xE9B5DBA5, 0x3956C25B, 0x59F111F1, 0x923F82A4, 0xAB1C5ED5,
   0xD807AA98, 0x12835B01, 0x243185BE, 0x550C7DC3, 0x72BE5D74, 0x80DEB1FE, 0x9BDC06A7, 0xC19BF174,
   0xE49B69C1, 0xEFBE4786, 0x0FC19DC6, 0x240CA1CC, 0x2DE92C6F, 0x4A7484AA, 0x5CB0A9DC, 0x76F988DA,
   0x983E5152, 0xA831C66D, 0xB00327C8, 0xBF597FC7, 0xC6E00BF3, 0xD5A79147, 0x06CA6351, 0x14292967,
   0x27B70A85, 0x2E1B2138, 0x4D2C6DFC, 0x53380D13, 0x650A7354, 0x766A0ABB, 0x81C2C92E, 0x92722C85,
   0xA2BFE8A1, 0xA81A664B, 0xC24B8B70, 0xC76C51A3, 0xD192E819, 0xD6990624, 0xF40E3585, 0x106AA070,
   0x19A4C116, 0x1E376C08, 0x2748774C, 0x34B0BCB5, 0x391C0CB3, 0x4ED8AA4A, 0x5B9CCA4F, 0x682E6FF3,
   0x748F82EE, 0x78A5636F, 0x84C87814, 0x8CC70208, 0x90BEFFFA, 0xA4506CEB, 0xBEF9A3F7, 0xC67178F2]

/-- The initial hash value. -/
def shaInit : List W32 :=
  [0x6A09E667, 0xBB67AE85, 0x3C6EF372, 0xA54FF53A, 0x510E527F, 0x9B05688C, 0x1F83D9AB, 0x5BE0CD19]

def shaBig0 (x : W32) : W32 := x.rotateRight 2 ^^^ x.rotateRight 13 ^^^ x.rotateRight 22
def shaBig1 (x : W32) : W32 := x.rotateRight 6 ^^^ x.rotateRight 11 ^^^ x.rotateRight 25
def shaSmall0 (x : W32) : W32 := x.rotateRight 7 ^^^ x.rotateRight 18 ^^^ (x >>> 3)
def shaSmall1 (x : W32) : W32 := x.rotateRight 17 ^^^ x.rotateRight 19 ^^^ (x >>> 10)

/-- One round on the eight working variables. -/
def shaRound (v : List W32) (k w : W32) : List W32 :=
  match v with
  | [a, b, c, d, e, f, g, h] =>
    let t1 := h + shaBig1 e + ((e &&& f) ^^^ (~~~e &&& g)) + k + w
    let t2 := shaBig0 a + ((a &&& b) ^^^ (a &&& c) ^^^ (b &&& c))
    [t1 + t2, a, b, c, d + t1, e, f, g]
  | _ => v

/-- The rounds, with the last sixteen words of the message schedule. -/
def shaRounds : List W32 → List W32 → List W32 → List W32
  | [], _, v => v
  | k :: ks, w, v =>
    let x := w.getD 0 0
    let y := shaSmall1 (w.getD 14 0) + w.getD 9 0 + shaSmall0 (w.getD 1 0) + x
    shaRounds ks (w.drop 1 ++ [y]) (shaRound v k x)

/-- One block of 64 bytes. -/
def shaBlock (h : List W32) (b : List Byte) : List W32 :=
  let w := (List.range 16).map fun i => BitVec.ofNat 32 (beNat ((b.drop (4 * i)).take 4))
  (h.zip (shaRounds shaK w h)).map fun p => p.1 + p.2

/-- The blocks of a padded message. -/
def shaBlocks : Nat → List W32 → List Byte → List W32
  | 0, h, _ => h
  | n + 1, h, m => shaBlocks n (shaBlock h (m.take 64)) (m.drop 64)

/-- The digest of a byte string, 32 bytes (PRESUMED, log entry 15). -/
def sha256 (m : List Byte) : List Byte :=
  let n := m.length
  let p := m ++ [0x80] ++ List.replicate ((119 - n % 64) % 64) 0 ++ beBytes 8 (8 * n)
  (shaBlocks (p.length / 64) shaInit p).flatMap fun w => beBytes 4 w.toNat

/-! ### P-256 -/

def curveP : Nat := 2 ^ 256 - 2 ^ 224 + 2 ^ 192 + 2 ^ 96 - 1
def curveN : Nat := 0xFFFFFFFF00000000FFFFFFFFFFFFFFFFBCE6FAADA7179E84F3B9CAC2FC632551
def curveB : Nat := 0x5AC635D8AA3A93E7B3EBBD55769886BC651D06B0CC53B0F63BCE3C3E27D2604B
def curveG : Nat × Nat :=
  (0x6B17D1F2E12C4247F8BCE6E563A440F277037D812DEB33A0F4A13945D898C296,
   0x4FE342E2FE1A7F9B8EE7EB4A7C0F9E162BCE33576B315ECECBB6406837BF51F5)

/-- `b ^ e` modulo `m` for an exponent of at most `k` bits. -/
def powMod (b m : Nat) : Nat → Nat → Nat
  | 0, _ => 1 % m
  | k + 1, e =>
    let h := powMod b m k (e / 2)
    if e % 2 = 1 then h * h % m * b % m else h * h % m

/-- The inverse modulo a prime of at most 256 bits. -/
def invMod (a m : Nat) : Nat := powMod (a % m) m 256 (m - 2)

/-- A point of the curve; none is the point at infinity. -/
abbrev Point := Option (Nat × Nat)

/-- The third point of the line with slope `l` through `x₁`, `y₁` and `x₂`, reflected. -/
def chord (l x1 y1 x2 : Nat) : Point :=
  let x := (l * l + 2 * curveP - x1 - x2) % curveP
  some (x, (l * (x1 + curveP - x) + curveP - y1) % curveP)

/-- Addition of points. -/
def ecAdd : Point → Point → Point
  | none, q => q
  | p, none => p
  | some (x1, y1), some (x2, y2) =>
    if x1 = x2 then
      if (y1 + y2) % curveP = 0 then none
      else chord ((3 * x1 * x1 + curveP - 3) % curveP * invMod (2 * y1) curveP % curveP) x1 y1 x2
    else chord ((y2 + curveP - y1) * invMod (x2 + curveP - x1) curveP % curveP) x1 y1 x2

/-- A multiple of a point by a number of at most `k` bits. -/
def ecMul (q : Point) : Nat → Nat → Point
  | 0, _ => none
  | k + 1, e =>
    let h := ecMul q k (e / 2)
    if e % 2 = 1 then ecAdd (ecAdd h h) q else ecAdd h h

/-- Whether a public key names a point of the curve. -/
def onCurve (x y : Nat) : Bool :=
  decide (x < curveP ∧ y < curveP) && y * y % curveP == (x * x % curveP * x + (curveP - 3) * x + curveB) % curveP

/-- Verification of a signature r || s by a public key x || y over a digest (R410) (PRESUMED, log entry 15). -/
def ecdsaVerify (key sig digest : List Byte) : Bool :=
  let x := beNat (key.take 32)
  let y := beNat (key.drop 32)
  let r := beNat (sig.take 32)
  let t := beNat (sig.drop 32)
  key.length == 64 && sig.length == 64 && onCurve x y && decide (0 < r ∧ r < curveN ∧ 0 < t ∧ t < curveN) &&
    let w := invMod t curveN
    match ecAdd (ecMul (some curveG) 256 (beNat digest * w % curveN)) (ecMul (some (x, y)) 256 (r * w % curveN)) with
    | some (u, _) => u % curveN == r
    | none => false

/-- A private key, from 1 to n - 1. -/
def privKey (n : Nat) : Nat := 1 + n % (curveN - 1)

/-- The public key of a private key, x || y (R410). -/
def publicKey (d : Nat) : List Byte :=
  match ecMul (some curveG) 256 d with
  | some (x, y) => beBytes 32 x ++ beBytes 32 y
  | none => List.replicate 64 0

/-- r and s of a signature with the secret number `k` (PRESUMED, log entry 15). -/
def ecdsaPair (d z k : Nat) : Nat × Nat :=
  match ecMul (some curveG) 256 k with
  | some (x, _) => (x % curveN, invMod k curveN * (z + x % curveN * d) % curveN)
  | none => (0, 0)

/-- The signature r || s by a private key over a digest. A secret number that gives a zero is not used; of 1 and 2 one always
serves (R410) (PRESUMED, log entry 15). -/
def ecdsaSign (d : Nat) (digest : List Byte) (occasion : Nat) : List Byte :=
  let z := beNat digest
  let p := ecdsaPair d z
  let good (k : Nat) : Bool := (p k).1 != 0 && (p k).2 != 0
  let k := privKey (Config.signSecret d z occasion)
  let q := if good k then p k else if good 1 then p 1 else p 2
  beBytes 32 q.1 ++ beBytes 32 q.2

/-! ### X.509 version 3 in DER (R419) (PRESUMED, log entry 15) -/

def derLen (n : Nat) : List Byte :=
  if n < 128 then beBytes 1 n else if n < 256 then 0x81 :: beBytes 1 n else 0x82 :: beBytes 2 n

/-- A value under a tag. -/
def der (tag : Byte) (c : List Byte) : List Byte := tag :: derLen c.length ++ c

/-- A sequence. -/
def derSeq (c : List Byte) : List Byte := der 0x30 c

/-- An integer of at most 256 bits, not negative. -/
def derInt (n : Nat) : List Byte :=
  match (beBytes 32 n).dropWhile (· == 0) with
  | [] => der 2 [0]
  | h :: t => der 2 (if 128 ≤ h.toNat then 0 :: h :: t else h :: t)

/-- ecdsa-with-SHA256. -/
def derSigAlg : List Byte := derSeq (der 6 [0x2A, 0x86, 0x48, 0xCE, 0x3D, 0x04, 0x03, 0x02])

/-- A public key on the curve P-256. -/
def derKey (key : List Byte) : List Byte :=
  derSeq (derSeq (der 6 [0x2A, 0x86, 0x48, 0xCE, 0x3D, 0x02, 0x01] ++ der 6 [0x2A, 0x86, 0x48, 0xCE, 0x3D, 0x03, 0x01, 0x07]) ++
    der 3 (0 :: 4 :: key))

/-- The sixteen hexadecimal digits of a serial number. -/
def hexDigits (n : Nat) : List Byte :=
  (List.range 16).map fun i => let d := n / 16 ^ (15 - i) % 16; BitVec.ofNat 8 (if d < 10 then 0x30 + d else 0x37 + d)

/-- The name of a certificate's subject; that of the device certificate holds the DSN as serialNumber (Table 17.8). -/
def certName (i dsn : Nat) : List Byte :=
  derSeq (Config.certPart i 0 ++
    if i = 0 then der 0x31 (derSeq (der 6 [0x55, 0x04, 0x05] ++ der 0x13 (hexDigits dsn))) else [])

/-- A certificate: index `i`, issuer `by_`, subject key, extensions, and the issuer's private key. -/
def certOf (i by_ dsn : Nat) (key exts : List Byte) (d occasion : Nat) : List Byte :=
  let tbs := derSeq (der 0xA0 (derInt 2) ++ derInt (Config.certSerial i) ++ derSigAlg ++ certName by_ dsn ++ Config.certPart i 1 ++
    certName i dsn ++ derKey key ++ exts)
  let sig := ecdsaSign d (sha256 tbs) occasion
  derSeq (tbs ++ derSigAlg ++ der 3 (0 :: derSeq (derInt (beNat (sig.take 32)) ++ derInt (beNat (sig.drop 32)))))

/-- The extension of the alias certificate, with M0 to M5 and both SVNs; R419 gives neither its OID nor its layout
(DESIGN CHOICE, log entry 13). -/
def aliasExts (meas : List Nat) (vsvn osvn : Nat) : List Byte :=
  der 0xA3 (derSeq (derSeq (Config.certPart 1 2 ++
    der 4 (meas.flatMap (beBytes 32) ++ leBytes 2 vsvn ++ leBytes 2 osvn))))

end Sys2Proof.Machine
end

