-- ==== Sys2Proof/Machine/Sec.lean ====
section
/-! DEFINITION. The Security core after boot: one-time programmable memory, measurements, manifests, non-volatile operations
and their release (R397 to R399), services (R420 to R423), debug authentication (R425, R426), region descriptors and block
worlds (R404, R408). -/

namespace Sys2Proof.Machine

open Sys2Proof

/-! ### One-time programmable memory, measurements, key store (R409, R415, R419) -/

/-- Number of values of an OTP item. -/
def otpRange (i : Nat) : Nat :=
  if i = 5 then 16
  else if i = 8 then 3
  else if i = 9 then 2
  else if i < 10 then 2 ^ 256
  else if i < 74 then 65
  else 2 ^ 64

/-- An OTP item: as programmed here, else as the part left Amiloth, with LIFECYCLE DEPLOYED (R454); the others differ from part
to part (DESIGN CHOICE, log entry 14). -/
def State.otp (s : State) (i : Nat) : Nat := mget (fun i => if i = 8 then 1 else Config.otpItem i % otpRange i) s.sec.otp i

/-- An OTP item programmed; a thermometer code never falls, since a programmed bit stays 1. -/
def State.otpProgram (s : State) (i v : Nat) : State :=
  { s with sec := { s.sec with otp := minsert i (max (s.otp i) v) s.sec.otp } }

/-- Anti-rollback counter `j`. -/
def State.ctr (s : State) (j : Nat) : Nat := s.otp (10 + j)

/-- LIFECYCLE: 0 MANUF, 1 DEPLOYED, 2 RMA. -/
def State.lifecycle (s : State) : Nat := s.otp 8

/-- A measurement register, as the big-endian value of its 32 bytes. -/
def State.meas (s : State) (i : Nat) : Nat := mget (fun _ => 0) s.sec.meas i

/-- Extension of a measurement register: M = SHA-256(M || d) (R415). -/
def State.extend (s : State) (i : Nat) (d : List Byte) : State :=
  { s with sec := { s.sec with meas := minsert i (beNat (sha256 (beBytes 32 (s.meas i) ++ d))) s.sec.meas } }

/-- An entry of the key store, 256 bytes (DESIGN CHOICE, log entry 14). -/
def State.keyEntry (s : State) (e : Nat) : List Byte :=
  mget (fun e => (List.range 256).map fun b => BitVec.ofNat 8 (Config.keyStoreInit e b)) s.sec.keys e

/-- SYSCTL_ID (Table 0.2). -/
def State.sysctlId (s : State) : Nat := 0x28601000 + s.fuse.temp % 16 * 16 + s.fuse.speed % 16

/-! ### Boot flash (R411, R412) -/

/-- What erased flash reads (DESIGN CHOICE, log entry 12). -/
def flashDefault (_ : Nat) : Byte := 0xFF

/-- Bytes of the boot flash. -/
def State.flashRead (s : State) (o n : Nat) : List Byte := (List.range n).map fun i => mget flashDefault s.flash (o + i)

/-- Sectors of 4 KiB erased so that `n` bytes from a sector's start can be programmed
(DESIGN CHOICE, log entry 12). -/
def State.flashErase (s : State) (o n : Nat) : State :=
  let hi := o + (n + 4095) / 4096 * 4096
  { s with flash := s.flash.filter fun p => !decide (o ≤ p.1 ∧ p.1 < hi) }

/-- Bytes programmed in order. -/
def flashPut (m : SMap Byte) (o : Nat) : List Byte → SMap Byte
  | [] => m
  | b :: t => flashPut (mset flashDefault o b m) (o + 1) t

def State.flashProgram (s : State) (o : Nat) (bs : List Byte) : State := { s with flash := flashPut s.flash o bs }

/-- Flash offset of a copy of the slot select record. -/
def recOff (c : Nat) : Nat := 0x4000000 + 0x1000 * c

/-- SEQ and SLOT of a copy, none where it is not valid. -/
def State.slotRec (s : State) (c : Nat) : Option (Nat × Nat) :=
  let r := s.flashRead (recOff c) 64
  if r.take 4 = [0x5A, 0x4B, 0x53, 0x53] ∧ fieldAt r 8 1 ≤ 1 ∧ (r.drop 9).take 23 = List.replicate 23 0 ∧
      r.drop 32 = sha256 (r.take 32) then
    some (fieldAt r 4 4, fieldAt r 8 1)
  else none

/-- The slot that the records name: the valid copy with the higher SEQ, slot A without one. -/
def State.namedSlot (s : State) : Nat :=
  match s.slotRec 0, s.slotRec 1 with
  | none, none => 0
  | some a, none => a.2
  | none, some b => b.2
  | some a, some b => if a.1 < b.1 then b.2 else a.2

/-- A slot select record. -/
def slotRecBytes (seq slot : Nat) : List Byte :=
  let h := [0x5A, 0x4B, 0x53, 0x53] ++ leBytes 4 seq ++ leBytes 1 slot ++ List.replicate 23 0
  h ++ sha256 h

/-- The copy to write and its SEQ (R422): the copy with the lower SEQ, one above the higher. Without a valid copy no SEQ is
stated; the value is then free (DEDUCED, log entry 58). -/
def State.nextRec (s : State) : (Nat × Nat) × State :=
  match s.slotRec 0, s.slotRec 1 with
  | none, none => ((0, s.takeFree.1 % 2 ^ 32), s.takeFree.2)
  | some a, none => ((1, (a.1 + 1) % 2 ^ 32), s)
  | none, some b => ((0, (b.1 + 1) % 2 ^ 32), s)
  | some a, some b => if a.1 < b.1 then ((0, (b.1 + 1) % 2 ^ 32), s) else ((1, (a.1 + 1) % 2 ^ 32), s)

/-- Sectors and pages of an update, and the steps before its record (R422). -/
def FlashUpd.sectors (u : FlashUpd) : Nat := (u.size + 4095) / 4096
def FlashUpd.pages (u : FlashUpd) : Nat := (u.size + 255) / 256
def FlashUpd.body (u : FlashUpd) : Nat := u.sectors + 2 * u.pages

/-- PROGRESS of an update that runs (R374, R422). -/
def FlashUpd.progress (u : FlashUpd) : Nat :=
  let e := min u.size (4096 * u.done)
  let p := min u.size (256 * (u.done - u.sectors))
  let v := min u.size (256 * (u.done - u.sectors - u.pages))
  min 9999 (10000 * (e + p + v) / (3 * u.size))

/-- A step of the update is done. -/
def State.updDone (s : State) : State :=
  match s.sec.upd with
  | none => s
  | some u =>
    let u := { u with done := u.done + 1, waits := false }
    { s.rset .secUpdStat (2 ^ 31 + u.progress) with sec := { s.sec with upd := some u } }

/-! ### Non-volatile operations (R397, R398) -/

/-- A debug grant: M7 is extended before access opens (R426) (DESIGN CHOICE, log entry 17). -/
def State.grantDebug (s : State) (lvl digest : Nat) : State :=
  let s := s.extend 7 (beBytes 32 digest)
  { s with sec := { s.sec with dbgLvl := lvl, dbgMax := max s.sec.dbgMax lvl } }

/-- Every entry of the key store erased (DESIGN CHOICE, log entry 14). -/
def State.eraseKeys (s : State) : State :=
  { s with sec := { s.sec with keys := (List.range 64).map fun e => (e, List.replicate 256 (0xFF : Byte)) } }

/-- A non-volatile operation performed. -/
def State.nvApply (s : State) : NvKind → State
  | .flashErase off => (s.flashErase off 1).updDone
  | .flashProgram off d => (s.flashProgram off d).updDone
  | .otp i v => s.otpProgram i v
  | .key e d => { s with sec := { s.sec with keys := minsert e d s.sec.keys } }
  | .aperture off d => { s with pcie := { s.pcie with rpWrites := s.pcie.rpWrites ++ [(s.rget .rpAp / 2 ^ 19 * 2 ^ 19 + off, d)] } }
  | .rma d => ((s.eraseKeys).otpProgram 8 2).grantDebug 3 d

/-- What became of a requested operation. -/
inductive NvResult where
  | done
  | deferred
  | refused
deriving DecidableEq, Repr

/-- A non-volatile operation requested by SEC firmware: performed, queued while HOLD is set, or refused
(DEDUCED, log entry 55). -/
def State.nvRequest (s : State) (op : NvOp) (nowait : Bool) : NvResult × State :=
  if s.pmc.hold = false then (.done, s.nvApply op.kind)
  else if nowait = true ∨ 32 ≤ s.pmc.holdQ.length then (.refused, s)
  else
    let p := s.pmc
    (.deferred, { s with pmc := { p with
      holdQ := p.holdQ ++ [op], order := p.order ++ [true], heldOps := p.heldOps + 1 } })

/-! ### Manifests (R413, R414) -/

/-- A stage entry (Table 17.5). -/
structure StageEnt where
  typ    : Nat
  size   : Nat
  off    : Nat
  digest : List Byte
deriving DecidableEq, Repr

/-- A manifest as read: its bytes and its stage entries. -/
structure Manifest where
  raw    : List Byte
  kind   : Nat
  stages : List StageEnt
deriving DecidableEq, Repr

def Manifest.svn (m : Manifest) : Nat := fieldAt m.raw 12 2
def Manifest.flags (m : Manifest) : Nat := fieldAt m.raw 15 1
def Manifest.subsys (m : Manifest) : Nat := fieldAt m.raw 16 4
def Manifest.hcres (m : Manifest) : Nat := fieldAt m.raw 20 4
def Manifest.imgKey (m : Manifest) (i : Nat) : Nat := beNat ((m.raw.drop (24 + 32 * i)).take 32)
def Manifest.digest (m : Manifest) : List Byte := sha256 m.raw
def Manifest.stage (m : Manifest) (t : Nat) : Option StageEnt := m.stages.find? fun e => e.typ == t

/-- Where a slot's bytes are read: offset and number of bytes. -/
abbrev SlotBytes := Nat → Nat → List Byte

/-- Offset of a manifest of a kind within a slot. -/
def manOff (kind : Nat) : Nat := if kind = 1 then 0 else 0x1000

/-- Whether a manifest of a kind stands at its place: its MAGIC matches. -/
def manPresent (rd : SlotBytes) (kind : Nat) : Bool := rd (manOff kind) 4 == [0x5A, 0x4B, 0x4D, 0x46]

/-- A manifest read as its header says. -/
def manRead (rd : SlotBytes) (kind : Nat) : Manifest :=
  let o := manOff kind
  let n := fieldAt (rd (o + 7) 1) 0 1
  let raw := rd o (320 + 48 * n)
  { raw := raw, kind := kind
    stages := (List.range n).map fun i =>
      let e := (raw.drop (192 + 48 * i)).take 48
      ⟨fieldAt e 0 1, fieldAt e 4 4, fieldAt e 8 4, e.drop 16⟩ }

/-- Whether bytes `[o, o + n)` of a manifest are zero. -/
def Manifest.zeros (m : Manifest) (o n : Nat) : Bool := ((m.raw.drop o).take n).all (· == 0)

/-- The header fields of Table 17.4. -/
def Manifest.headerOk (m : Manifest) : Bool :=
  let n := m.stages.length
  m.raw.length == 320 + 48 * n && m.raw.take 4 == [0x5A, 0x4B, 0x4D, 0x46] && fieldAt m.raw 4 2 == 1 &&
  fieldAt m.raw 6 1 == m.kind && decide (1 ≤ n ∧ n ≤ 8) && fieldAt m.raw 8 4 == 320 + 48 * n &&
  decide (m.svn ≤ 64) && fieldAt m.raw 14 1 == m.kind - 1 && m.zeros 152 40 && decide (m.hcres ≤ 16384) &&
  (if m.kind = 1 then decide (m.flags ≤ 1) && m.zeros 16 136 else decide (m.flags ≤ 3))

/-- Largest SIZE of a stage type in a manifest of a kind; none where the kind has no such stage. -/
def stageMax (kind typ : Nat) : Option Nat :=
  if kind = 1 then
    if typ = 1 then some 262144 else if typ = 2 then some 65536 else if typ = 3 then some 131072 else none
  else if typ = 4 then some 33554432
  else none

/-- The stage entries of Table 17.5, without overlaps. -/
def Manifest.entriesOk (m : Manifest) : Bool :=
  (List.range m.stages.length).all (fun i => m.zeros (193 + 48 * i) 3 && m.zeros (204 + 48 * i) 4) &&
  m.stages.all (fun e => match stageMax m.kind e.typ with
    | some k => decide (e.size ≤ k ∧ e.off + e.size ≤ 2 ^ 25)
    | none => false) &&
  decide (m.stages.map (·.typ)).Nodup &&
  (if m.kind = 1 then m.stages.length == 3 else m.stages.length == 1)

/-- Whether two ranges share a byte. -/
def overlaps (a n b k : Nat) : Bool := decide (a < b + k ∧ b < a + n)

/-- The ranges of a slot in use: manifests and stages. -/
def Manifest.extents (m : Manifest) : List (Nat × Nat) :=
  (manOff m.kind, m.raw.length) :: m.stages.map fun e => (e.off, e.size)

/-- Whether a list of ranges has no overlap. -/
def disjoint : List (Nat × Nat) → Bool
  | [] => true
  | a :: t => t.all (fun b => !overlaps a.1 a.2 b.1 b.2) && disjoint t

/-- Whether a key is one of the two that may sign a kind and is not revoked. -/
def State.keyOk (s : State) (kind : Nat) (key : List Byte) : Bool :=
  let h := beNat (sha256 key)
  [2 * (kind - 1), 2 * (kind - 1) + 1].any fun k => s.otp (1 + k) == h && s.otp 5 / 2 ^ k % 2 == 0

/-- Key and signature of a manifest. -/
def State.manSigned (s : State) (m : Manifest) : Bool :=
  let body := m.raw.take (m.raw.length - 128)
  let blk := m.raw.drop (m.raw.length - 128)
  s.keyOk m.kind (blk.take 64) && ecdsaVerify (blk.take 64) (blk.drop 64) (sha256 body)

/-- Why a manifest fails (SEC_STATUS.BOOTERR): 4 where only its SVN is below the counter, else the code of its kind. -/
def State.manError (s : State) (m : Manifest) (others : List (Nat × Nat)) : Option Nat :=
  if m.headerOk && m.entriesOk && disjoint (m.extents ++ others) && s.manSigned m then
    (if s.ctr (m.kind - 1) ≤ m.svn then none else some 4)
  else some m.kind

/-- Whether a stage's bytes have its digest. -/
def stageOk (rd : SlotBytes) (e : StageEnt) : Bool := sha256 (rd e.off e.size) == e.digest

/-- The manifests of a slot, with the code of the first that fails (DEDUCED, log entry 16). -/
def State.manifests (s : State) (rd : SlotBytes) : Except Nat (Manifest × Option Manifest) :=
  let v := manRead rd 1
  let o := if manPresent rd 2 then some (manRead rd 2) else none
  match s.manError v (match o with
      | some m => m.extents
      | none => []) with
  | some e => .error e
  | none =>
    match o with
    | none => if s.otp 9 = 1 then .error 2 else .ok (v, none)
    | some m =>
      match s.manError m v.extents with
      | some e => .error e
      | none => .ok (v, some m)

/-- Step 1 of R422: a slot image is valid by R414 with every stage's digest. -/
def State.imageOk (s : State) (img : List Byte) : Bool :=
  let rd : SlotBytes := fun o n => (img.drop o).take n
  match s.manifests rd with
  | .error _ => false
  | .ok (v, o) =>
    let es := v.stages ++ (match o with
      | some m => m.stages
      | none => [])
    es.all fun e => decide (e.off + e.size ≤ img.length) && stageOk rd e

/-! ### Requests (R420, R421) -/

/-- Whether a line of an access belongs to the Studio world (R421). -/
def State.touchesStudio (s : State) (a n : Nat) : Bool :=
  let l := s.regionList
  (List.range ((a + n - 1) / 65536 + 1 - a / 65536)).any fun i =>
    match l.find? fun d => decide (d.1 ≤ a / 65536 + i ∧ a / 65536 + i ≤ d.2.1) with
    | some d => d.2.2.1
    | none => false

/-- A read by the SEC, a Studio master that slice windows do not hold (R190, R408); none where it fails. -/
def State.secRead (s : State) (a n : Nat) : Option (List Byte) × State :=
  match s.physAccess .studio true false (cutPhys (n / 65536 + 2) a n) a (.read n) with
  | (.ok b, t) => (some b, t)
  | (.error _, t) => (none, t)

/-- A write by the SEC; false where it fails. -/
def State.secWrite (s : State) (a : Nat) (d : List Byte) : Bool × State :=
  match s.physAccess .studio true false (cutPhys (d.length / 65536 + 2) a d.length) a (.write d) with
  | (.ok _, t) => (true, t)
  | (.error _, t) => (false, t)

/-- The channel on which the sender of channel `k` receives from the SEC (DEDUCED, log entry 11). -/
def State.answerCh (s : State) (k : Nat) : Option Nat :=
  match s.mbxSender k with
  | none => none
  | some e => (List.range 24).find? fun a => s.mbxEn a && s.mbxSender a == some .sec && s.mbxReceiver a == some e

/-- An answer; without a channel for it, it is discarded. -/
def State.secAnswer (s : State) (k op tag st : Nat) (deferred : Bool) : State :=
  match s.answerCh k with
  | none => s
  | some a =>
    s.push .sec a (BitVec.ofNat 64 (op + tag * 2 ^ 16 + st % 65536 * 2 ^ 24 + if deferred then 2 ^ 40 else 0))

/-- Whether an answer to channel `k` has room. -/
def State.answerRoom (s : State) (k : Nat) : Bool :=
  match s.answerCh k with
  | none => true
  | some a => decide ((s.slots a).length < 8)

/-- Whether a request of channel `k` waits in the hold queue. -/
def State.secWaits (s : State) (k : Nat) : Bool := s.pmc.holdQ.any fun o => match o.answer with
  | some a => a.1 == k
  | none => false

/-- Whether channel `k` has a request that the SEC may begin (DEDUCED, log entry 11). -/
def State.secReady (s : State) (k : Nat) : Bool :=
  s.mbxEn k && s.mbxReceiver k == some .sec && !(s.slots k).isEmpty && !s.secWaits k && s.answerRoom k &&
  !(s.sec.upd.any fun u => u.ch == k)

/-- A request slot. -/
structure SecReq where
  k      : Nat
  op     : Nat
  nowait : Bool
  tag    : Nat
  buf    : Nat
deriving DecidableEq, Repr

def secReq (k v : Nat) : SecReq := ⟨k, v % 256, bits v 8 8 == 1, bits v 23 16, bits v 63 24 * 16⟩

/-- Bytes of the buffer an operation uses (Table 17.9). -/
def secBuf : Nat → Nat
  | 1 => 512
  | 2 => 2048
  | 3 => 32
  | 4 => 12
  | 5 => 2
  | _ => 272

/-- An answer with a status at once. -/
def State.answered (s : State) (q : SecReq) (st : Nat) : State := s.secAnswer q.k q.op q.tag st false

/-- A non-volatile operation of a request, answered when it is performed or refused (R398, R421). -/
def State.secNv (s : State) (q : SecReq) (kind : NvKind) : State :=
  match s.nvRequest ⟨kind, some (q.k, q.op, q.tag)⟩ q.nowait with
  | (.done, t) => t.answered q stOk
  | (.refused, t) => t.answered q stNvHeld
  | (.deferred, t) => t

/-- A request whose buffer is read first; the status of a buffer that cannot be read is not stated
(DESIGN CHOICE, log entry 54). -/
def State.withBuf (s : State) (q : SecReq) (n : Nat) (f : List Byte → State → State) : State :=
  match s.secRead q.buf n with
  | (none, t) => t.answered q (Config.openStatus 3)
  | (some b, t) => f b t

/-- The answer of a request that writes its buffer (DESIGN CHOICE, log entry 54). -/
def State.writeBuf (s : State) (q : SecReq) (d : List Byte) : State :=
  match s.secWrite q.buf d with
  | (true, t) => t.answered q stOk
  | (false, t) => t.answered q (Config.openStatus 3)

/-- Bytes 0 to 447 of an attestation report (Table 17.10). -/
def State.report (s : State) (nonce : List Byte) : List Byte :=
  [0x5A, 0x4B, 0x41, 0x52] ++ leBytes 2 1 ++ leBytes 2 512 ++ leBytes 4 s.sysctlId ++ leBytes 8 (s.otp 74) ++
  leBytes 1 s.lifecycle ++ leBytes 1 s.sec.dbgMax ++ leBytes 1 (s.sec.slot + if s.sec.fallback then 128 else 0) ++ [0] ++
  leBytes 8 s.now ++ nonce ++ ((List.range 8).flatMap fun i => beBytes 32 (s.meas i)) ++ leBytes 2 s.sec.vsvn ++
  leBytes 2 s.sec.osvn ++ List.replicate 4 0 ++ ((List.range 64).map fun j => BitVec.ofNat 8 (s.ctr j)) ++ List.replicate 56 0

/-- ATTEST (R423). Without an alias key the device cannot attest (R426), and no status is stated
(DESIGN CHOICE, log entry 13). -/
def State.secAttest (s : State) (q : SecReq) : State :=
  s.withBuf q 32 fun nonce t =>
    if t.sec.akValid = false then t.answered q (Config.openStatus 4)
    else
      let r := t.report nonce
      let sig := ecdsaSign t.sec.ak (sha256 r) t.free
      let t : State := { t with free := t.free + 1 }
      t.writeBuf q (r ++ sig)

/-- The device identity key DK, a private key of P-256, as the ROM derives it from the UDS (R417). -/
def State.identityKey (s : State) : Nat := privKey (Config.deriveDk (s.otp 0))

/-- The certificate of an index (Table 17.8): 1 the alias, signed by DK; 0 and 2 as Amiloth wrote them into the key store,
until the store is erased (DESIGN CHOICE, log entry 13). -/
def State.cert (s : State) (i : Nat) : Option (List Byte) :=
  let dsn := s.otp 74
  if i = 1 then
    if s.sec.akValid then
      some (certOf 1 0 dsn (publicKey s.sec.ak) (aliasExts ((List.range 6).map s.meas) s.sec.vsvn s.sec.osvn) s.sec.dk s.sec.aliasNo)
    else none
  else if (mfind s.sec.keys 0).isSome then none
  else if i = 0 then some (certOf 0 2 dsn (publicKey s.identityKey) [] (privKey (Config.caKey 0)) 0)
  else if i = 2 then some (certOf 2 3 dsn (publicKey (privKey (Config.caKey 0))) [] (privKey (Config.caKey 1)) 0)
  else none

/-- GET_CERT. -/
def State.secCert (s : State) (q : SecReq) : State :=
  s.withBuf q 1 fun b t =>
    match t.cert (fieldAt b 0 1) with
    | none => t.answered q stRejected
    | some c =>
      let c := c.take 2044
      t.writeBuf q (leBytes 4 c.length ++ c)

/-- EXTEND: extends M6. -/
def State.secExtend (s : State) (q : SecReq) : State := s.withBuf q 32 fun b t => (t.extend 6 b).answered q stOk

/-- COUNTER_ADVANCE; the status for a counter outside 2 to 63 is not stated. -/
def State.secCounter (s : State) (q : SecReq) : State :=
  s.withBuf q 2 fun b t =>
    let c := fieldAt b 0 1
    let v := fieldAt b 1 1
    if c < 2 ∨ 63 < c then t.answered q (Config.openStatus 5)
    else if v < t.ctr c ∨ 64 < v then t.answered q stRejected
    else t.secNv q (.otp (10 + c) v)

/-- KEY_WRITE; the status for an entry outside 8 to 63 is not stated. -/
def State.secKey (s : State) (q : SecReq) : State :=
  s.withBuf q 272 fun b t =>
    let e := fieldAt b 0 1
    if e < 8 ∨ 63 < e then t.answered q (Config.openStatus 5) else t.secNv q (.key e (b.drop 16))

/-- A validated image begins its update of the slot that does not run (R422). -/
def State.secFlash (s : State) (q : SecReq) (a : Nat) (img : List Byte) : State :=
  if s.imageOk img then
    { s.rset .secUpdStat (2 ^ 31) with
      sec := { s.sec with upd := some ⟨q.k, q.tag, q.nowait, a, img.length, 1 - s.sec.slot, 0, false, false⟩ } }
  else (s.rset .secUpdStat (2 ^ 30)).answered q stRejected

/-- The update ends with its answer, once that has room (R420): PROGRESS reads 10,000, or freezes in a failure (R374). -/
def State.updEnd (s : State) (u : FlashUpd) (st : Nat) : State :=
  if s.answerRoom u.ch then
    ({ s.rset .secUpdStat (if st = stOk then 10000 else 2 ^ 30 + u.progress) with
        sec := { s.sec with upd := none } } : State).secAnswer u.ch 4 u.tag st u.heldOp
  else s

/-- A flash command of the update: performed, waiting in the hold queue, or refused, which ends the update (R398, R422). -/
def State.updIssue (s : State) (u : FlashUpd) (op : NvKind) : State :=
  match s.nvRequest ⟨op, none⟩ u.nowait with
  | (.done, t) => t
  | (.deferred, t) => { t with sec := { t.sec with upd := some { u with waits := true, heldOp := true } } }
  | (.refused, t) => t.updEnd u stNvHeld

/-- Page `j` of the image in its buffer, and its place in the flash. -/
def State.updPage (s : State) (u : FlashUpd) (j : Nat) : Option (List Byte) × State :=
  s.secRead (u.addr + 256 * j) (min 256 (u.size - 256 * j))

/-- The next step of an update (R422): the slot's sectors are erased, its pages programmed, read back and compared with the
buffer, then the record's sector is erased and the record programmed (DESIGN CHOICE, log entry 12). -/
def State.updRun (s : State) (u : FlashUpd) : State :=
  let o := u.slot * 2 ^ 25
  if u.waits then s
  else if u.done < u.sectors then s.updIssue u (.flashErase (o + 4096 * u.done))
  else if u.done < u.sectors + u.pages then
    let j := u.done - u.sectors
    match s.updPage u j with
    | (some d, t) => t.updIssue u (.flashProgram (o + 256 * j) d)
    | (none, t) => t.updEnd u (Config.openStatus 3)
  else if u.done < u.body then
    let j := u.done - u.sectors - u.pages
    match s.updPage u j with
    | (some d, t) => if t.flashRead (o + 256 * j) d.length = d then t.updDone else t.updEnd u (Config.openStatus 6)
    | (none, t) => t.updEnd u (Config.openStatus 3)
  else if u.done = u.body then
    let r := s.nextRec
    r.2.updIssue u (.flashErase (recOff r.1.1))
  else if u.done = u.body + 1 then
    let r := s.nextRec
    r.2.updIssue u (.flashProgram (recOff r.1.1) (slotRecBytes r.1.2 u.slot))
  else s.updEnd u stOk

/-- FLASH_UPDATE: the image is read and validated (R422) (DESIGN CHOICE, log entry 12). -/
def State.secUpdate (s : State) (q : SecReq) : State :=
  s.withBuf q 12 fun b t =>
    let a := fieldAt b 0 8
    let n := fieldAt b 8 4
    if t.sec.upd.isSome ∨ n = 0 ∨ 2 ^ 25 < n then t.answered q stRejected
    else if !mbxStudio q.k && t.touchesStudio a n then t.answered q stBound
    else
      match t.secRead a n with
      | (none, u) => u.answered q (Config.openStatus 3)
      | (some img, u) => u.secFlash q a img

/-- Whether a request is rejected before its buffer is looked at. -/
def secBad (k v : Nat) : Bool :=
  bits v 15 9 != 0 || v % 256 == 0 || decide (6 < v % 256) || (decide (5 ≤ v % 256) && !mbxStudio k)

/-- A request served. -/
def State.secDo (s : State) (k v : Nat) : State :=
  let q := secReq k v
  if secBad k v then s.answered q stRejected
  else if !mbxStudio k && s.touchesStudio q.buf (secBuf q.op) then s.answered q stBound
  else if q.op = 1 then s.secAttest q
  else if q.op = 2 then s.secCert q
  else if q.op = 3 then s.secExtend q
  else if q.op = 4 then s.secUpdate q
  else if q.op = 5 then s.secCounter q
  else s.secKey q

/-- The head of channel `k` taken by the SEC. -/
def State.takeHead (s : State) (k : Nat) : State :=
  let t := (s.slots k).drop 1
  let s := s.setSlots k t
  if t.isEmpty && s.fget (.mbxCfg k) 61 61 == 1 then s.txIrq k else s

/-- A service row: the SEC turns to channel `k` in round robin and its head has this operation, or a reserved one
(DEDUCED, log entry 11). -/
def State.secServe (s : State) (k op : Nat) : State :=
  match s.slots k with
  | [] => s
  | v :: _ =>
    let o := v.toNat % 256
    if s.sec.up && nextRr 24 s.sec.rr s.secReady == some k && (o == op || o == 0 || decide (6 < o)) then
      let s := s.takeHead k
      ({ s with sec := { s.sec with rr := k } } : State).secDo k v.toNat
    else s

/-- ATTEST (R423). -/
def execAttest (k : Fin 24) (s : State) : Host.Outcome State Fault Refusal := .next (s.secServe k.val 1)
/-- GET_CERT (R419, R421). -/
def execGetCert (k : Fin 24) (s : State) : Host.Outcome State Fault Refusal := .next (s.secServe k.val 2)
/-- EXTEND (R415, R421). -/
def execExtend (k : Fin 24) (s : State) : Host.Outcome State Fault Refusal := .next (s.secServe k.val 3)
/-- FLASH_UPDATE (R422): the request is served, and while its update runs the SEC takes the next step of it
(DESIGN CHOICE, log entry 12). -/
def execFlashUpdate (k : Fin 24) (s : State) : Host.Outcome State Fault Refusal :=
  .next <|
    match s.sec.upd with
    | some u => if u.ch = k.val then s.updRun u else s.secServe k.val 4
    | none => s.secServe k.val 4
/-- COUNTER_ADVANCE (R409, R421). -/
def execCounterAdvance (k : Fin 24) (s : State) : Host.Outcome State Fault Refusal := .next (s.secServe k.val 5)
/-- KEY_WRITE (R419, R421). -/
def execKeyWrite (k : Fin 24) (s : State) : Host.Outcome State Fault Refusal := .next (s.secServe k.val 6)

/-! ### End of a dip and release (R399) -/

/-- The BROWNOUT record of the episode (Table 16.7) (DEDUCED, log entry 55). -/
def State.brownoutRecord (s : State) : State :=
  let p := s.pmc
  s.pmcEvent 0x01 p.causes p.lowMv (p.dipDur % 2 ^ 24 + p.heldOps % 256 * 2 ^ 24)

/-- Whether the rails and PWRWARN_N have been good for 2 ms (R399). -/
def State.dipOver (s : State) : Bool :=
  match s.pmc.calm with
  | some t => decide (t + 2000000 ≤ s.now)
  | none => false

/-- DIP_EPISODE_END (R399): once the rails and PWRWARN_N have been good for 2 ms HOLD clears; with nothing held the release is
complete at once (DEDUCED, log entry 55). -/
def execDipEpisodeEnd (s : State) : Host.Outcome State Fault Refusal :=
  .next <|
    let p := s.pmc
    if p.hold = false ∨ s.dipOver = false then s
    else
      let s : State := { s with pmc := { p with
        hold := false, calm := none, dipDur := (s.now - p.dipT) / 1000, releasing := !p.order.isEmpty } }
      if p.order.isEmpty then s.brownoutRecord else s

/-- A held operation performed, with its answer and NV_DEFERRED. -/
def State.nvRelease (s : State) (o : NvOp) : State :=
  let s := s.nvApply o.kind
  match o.answer with
  | some (k, op, tag) => s.secAnswer k op tag stOk true
  | none => s

/-- The record after the last operation. -/
def State.releaseDone (s : State) : State :=
  if s.pmc.order.isEmpty then ({ s with pmc := { s.pmc with releasing := false } } : State).brownoutRecord else s

/-- Whether an operation's answer has room; the SEC waits for it (R420). -/
def State.nvRoom (s : State) (o : NvOp) : Bool :=
  match o.answer with
  | some (k, _, _) => s.answerRoom k
  | none => true

/-- NV_OPERATION_RELEASE (R399): the next held operation in request order (DEDUCED, log entry 55). -/
def execNvOperationRelease (s : State) : Host.Outcome State Fault Refusal :=
  .next <|
    let p := s.pmc
    if p.releasing = false ∨ p.hold = true then s
    else
      match p.order, p.holdQ, p.held with
      | true :: t, o :: q, _ =>
        if s.nvRoom o then (({ s with pmc := { p with order := t, holdQ := q } } : State).nvRelease o).releaseDone else s
      | false :: t, _, o :: q => (({ s with pmc := { p with order := t, held := q } } : State).nvRelease o).releaseDone
      | _, _, _ => s

/-! ### Debug authentication (R425, R426) -/

/-- Bytes 0 to 43 of the challenge: the nonce that was read last; before the first read a nonce of its own stands there
(DESIGN CHOICE, log entry 17). -/
def State.challenge (s : State) : List Byte :=
  beBytes 32 (s.sec.nonce.getD (Config.nonce s.sec.nonceNo) % 2 ^ 256) ++ leBytes 8 (s.otp 74) ++ leBytes 4 s.sysctlId

/-- DEBUG_CHALLENGE_READ (R425): the nonce is replaced and the challenge returned; bytes 44 to 47 are not stated
(DESIGN CHOICE, log entry 17). -/
def execDebugChallengeRead (s : State) : Host.Outcome State Fault Refusal :=
  .next <|
    let s : State := { s with sec := { s.sec with
      nonceNo := s.sec.nonceNo + 1, nonce := some (Config.nonce (s.sec.nonceNo + 1)) } }
    let r := s.freeBytes 4
    { r.2 with resp := { ok := true, status := 0, data := s.challenge ++ r.1 } }

/-- Whether Table 17.11 permits a level with a key in a lifecycle. -/
def debugPair (lvl keysel lc : Nat) : Bool :=
  if lvl = 1 then keysel == 1 || lc == 0
  else if lvl = 2 then keysel == 1 || lc == 0 || lc == 2
  else lvl == 3 && keysel == 0 && (lc == 1 || lc == 2)

/-- Whether a response authenticates. -/
def State.debugOk (s : State) (r : List Byte) : Bool :=
  let ks := fieldAt r 1 1
  let key := (r.drop 32).take 64
  r.length == 160 && decide (ks ≤ 1) && ((r.drop 2).take 30).all (· == 0) && debugPair (fieldAt r 0 1) ks s.lifecycle &&
  s.otp (6 + ks) == beNat (sha256 key) && ecdsaVerify key (r.drop 96) (sha256 (s.challenge ++ r.take 32))

/-- Whether a grant of level 3 waits for its non-volatile operations: SEC_DBG_STAT.GO reads 1. -/
def State.debugBusy (s : State) : Bool := s.pmc.holdQ.any fun o => match o.kind with
  | .rma _ => true
  | _ => false

/-- DEBUG_RESPONSE_GO (R425, R426) (DESIGN CHOICE, log entry 17). -/
def execDebugResponseGo (resp : List Byte) (s : State) : Host.Outcome State Fault Refusal :=
  .next <|
    if s.sec.up = false ∨ s.sec.locked = true ∨ s.debugBusy = true then s
    else if s.debugOk resp then
      let d := beNat (sha256 (resp.take 96))
      let lvl := fieldAt resp 0 1
      if lvl = 3 ∧ s.lifecycle ≠ 2 then (s.nvRequest ⟨.rma d, none⟩ false).2 else s.grantDebug lvl d
    else
      let f := min 3 (s.sec.fails + 1)
      { s with sec := { s.sec with fails := f, locked := decide (3 ≤ f) } }

/-! ### Region descriptors and block worlds (R404, R408, R449) -/

/-- A write of a descriptor register. -/
def State.rgnWrite (s : State) (n : Nat) (cfg : Bool) (v : Nat) : State :=
  if cfg then s.rset (.secRgnCfg n) (bits v 43 16 * 65536 + bits v 3 0) else s.rset (.secRgnBase n) (bits v 43 16 * 65536)

/-- REGION_DESCRIPTOR_WRITE (R408): a locked descriptor ignores every write, without any count. -/
def execRegionDescriptorWrite (w : World) (n : Fin 64) (cfg : Bool) (v : W64) (s : State) :
    Host.Outcome State Fault Refusal :=
  .next <|
    if s.fget (.secRgnCfg n.val) 3 3 = 1 then s
    else
      s.regOp w (if cfg then (Reg.secRgnCfg n.val).addr else (Reg.secRgnBase n.val).addr) true fun s =>
        s.rgnWrite n.val cfg v.toNat

/-- The blocks that cannot be moved (R404): SYSCTL, CLK, PMC, SEC, MBX, DMC, DMC0 to DMC3, STR, XSPI. -/
def fixedBlocks : Nat := 0x1F + 0x1F * 2 ^ 26 + 3 * 2 ^ 32

/-- A write of SEC_BLKWORLD: the bits of the other blocks are taken. -/
def State.blkworldWrite (s : State) (v : Nat) : State :=
  s.rset .secBlkworld ((s.rget .secBlkworld &&& fixedBlocks) ||| (v % 2 ^ 41 &&& (2 ^ 41 - 1 - fixedBlocks)))

/-- SEC_BLKWORLD_WRITE (R404). -/
def execSecBlkworldWrite (w : World) (v : W64) (s : State) : Host.Outcome State Fault Refusal :=
  .next <|
    if s.rget .secLock % 2 = 1 then s
    else s.regOp w (Reg.secBlkworld |>.addr) true fun s => s.blkworldWrite v.toNat

/-- SEC_LOCK_BLK (R404). -/
def execSecLockBlk (w : World) (s : State) : Host.Outcome State Fault Refusal :=
  .next <|
    if s.rget .secLock % 2 = 1 then s
    else s.regOp w (Reg.secLock |>.addr) true fun s => s.fset .secLock 0 0 1

end Sys2Proof.Machine
end

