-- ==== Sys2Proof/Machine/Boot.lean ====
section
/-! DEFINITION. The boot chain (R282, R412, R415 to R418, Table 17.6) and the lock of the clock sources (R356, R451). -/

namespace Sys2Proof.Machine

open Sys2Proof

/-! ### Clock locks -/

/-- ROOTPLL_LOCK (R356): the device time counter starts from zero. While a reset is held, nothing locks. -/
def execRootpllLock (s : State) : Host.Outcome State Fault Refusal :=
  .next <|
    if s.held || s.rootLock then s
    else { s with rootLock := true, clock := { s.clock with sec := 0, ns := 0, frac := 0, runs := true, ticks := 0 } }

/-- SERDES_PLL_LOCK (R451). -/
def execSerdesPllLock (s : State) : Host.Outcome State Fault Refusal :=
  .next (if s.held then s else { s with sdLock := true })

/-! ### Stage 1 (steps 1 to 5 of Table 17.6) -/

/-- Bytes of a slot of the boot flash. -/
def State.slotBytes (s : State) (slot : Nat) : SlotBytes := fun o n => s.flashRead (slot * 2 ^ 25 + o) n

/-- A stage that failed: BOOTERR and the stage's own progress, with the state. -/
structure BootStop where
  err  : Nat
  prog : Nat
  st   : State
deriving DecidableEq, Repr

/-- The manifests a slot booted with. -/
structure Booted where
  vendor : Manifest
  owner  : Option Manifest
deriving DecidableEq, Repr

/-- Bytes of a manifest that may be absent. -/
def optLen : Option Manifest → Nat
  | none => 0
  | some m => m.raw.length

/-- A stage of the vendor manifest, and its bytes checked. -/
def Manifest.stageBad (m : Manifest) (rd : SlotBytes) (t : Nat) : Bool :=
  match m.stage t with
  | some e => !stageOk rd e
  | none => true

def Manifest.stageSize (m : Manifest) (t : Nat) : Nat :=
  match m.stage t with
  | some e => e.size
  | none => 0

def Manifest.stageDigest (m : Manifest) (t : Nat) : List Byte :=
  match m.stage t with
  | some e => e.digest
  | none => []

/-- Total size hashed in stage 1 (R416). -/
def bootTotal (v : Manifest) (o : Option Manifest) : Nat :=
  v.raw.length + optLen o + v.stageSize 1 + v.stageSize 2 + v.stageSize 3

/-- Steps 4 and 5: PMC and CP firmware; H counts the bytes hashed before them. -/
def State.bootFirmware (s : State) (rd : SlotBytes) (b : Booted) (h : Nat) : Except BootStop (State × Booted) :=
  let v := b.vendor
  let pr (n : Nat) : Nat := 10000 * n / bootTotal v b.owner
  let h1 := h + v.stageSize 2
  let h2 := h1 + v.stageSize 3
  if v.stageBad rd 2 then .error ⟨3, pr h1, s⟩
  else
    let s := s.extend 2 (v.stageDigest 2)
    if v.stageBad rd 3 then .error ⟨3, pr h2, s⟩ else .ok (s.extend 4 (v.stageDigest 3), b)

/-- Step 3: the owner manifest, if present; an absent one extends M3 by 32 zero bytes. -/
def State.bootOwner (s : State) (rd : SlotBytes) (v : Manifest) (o : Option Manifest) : Except BootStop (State × Booted) :=
  let h := v.raw.length + v.stageSize 1 + optLen o
  let pr : Nat := 10000 * h / bootTotal v o
  match o with
  | none => if s.otp 9 = 1 then .error ⟨2, pr, s⟩ else (s.extend 3 (List.replicate 32 0)).bootFirmware rd ⟨v, none⟩ h
  | some m =>
    match s.manError m v.extents with
    | some e => .error ⟨e, pr, s⟩
    | none => (s.extend 3 m.digest).bootFirmware rd ⟨v, some m⟩ h

/-- Stage 1 from a slot (DEDUCED, log entry 16). -/
def State.bootSlot (s : State) (slot : Nat) : Except BootStop (State × Booted) :=
  let rd := s.slotBytes slot
  let v := manRead rd 1
  let o := if manPresent rd 2 then some (manRead rd 2) else none
  match s.manError v (match o with
      | some m => m.extents
      | none => []) with
  | some e => .error ⟨e, 0, s⟩
  | none =>
    if v.stageBad rd 1 then .error ⟨3, 0, s⟩
    else ((s.extend 0 v.digest).extend 1 (v.stageDigest 1)).bootOwner rd v o

/-- The chain stops: BOOTERR, FAILED at the stage, PROGRESS frozen (DEDUCED, log entry 16). -/
def State.bootFail (s : State) (stage lo hi prog err : Nat) : State :=
  { s with stage := (stage, lo + (hi - lo) * prog / 10000, true), sec := { s.sec with bootErr := err } }

/-- What the manifests give (Table 17.4, R414). -/
def State.bootGive (s : State) (slot : Nat) (fallback : Bool) (b : Booted) : State :=
  let o := b.owner
  { s with sec := { s.sec with
    up := true, slot := slot, fallback := fallback, vsvn := b.vendor.svn
    osvn := (o.map (·.svn)).getD 0
    app := (o.map fun m => (m.stage 4).isSome).getD false
    sigReq := (o.map fun m => decide (2 ≤ m.flags)).getD false
    imgKeys := (o.map fun m => (List.range 4).map m.imgKey).getD [0, 0, 0, 0]
    subsys := (o.map (·.subsys)).getD 0x1F9D } }

/-- Step 1: the ROM derives DK from the UDS, unless LIFECYCLE is RMA (R426), and makes the UDS unreadable (R417). -/
def State.bootIdentity (s : State) : State :=
  { s with sec := { s.sec with
    dk := if s.lifecycle = 2 ∨ s.sec.udsOff = true then s.sec.dk else s.identityKey, udsOff := true } }

/-! ### Stages 2 to 4 (steps 6 to 9) -/

/-- Step 8: the application-core stage at the first byte of DDR5. -/
def State.loadApp (s : State) (rd : SlotBytes) (e : StageEnt) : State := s.setBytes ddrBase (rd e.off e.size)

/-- Region descriptor 0 over HCRES. -/
def State.reserve (s : State) (units : Nat) : State :=
  if units = 0 then s
  else
    let b := ddrBase / 65536
    (s.rset (.secRgnBase 0) (b * 65536)).rset (.secRgnCfg 0) ((b + units - 1) * 65536 + 0xB)

/-- The alias key and its certificate's signature (R418); without DK there is none. -/
def State.bootAlias (s : State) : State :=
  if s.lifecycle = 2 then s
  else
    { s with
      free := s.free + 1
      sec := { s.sec with
        akValid := true, aliasNo := s.free
        ak := privKey (Config.deriveAk s.sec.dk (beNat (sha256 ((List.range 6).flatMap fun i => beBytes 32 (s.meas i))))) } }

/-- Step 9: a counter follows the SVN of a manifest with ADVANCE. -/
def State.advance (s : State) (m : Manifest) : State :=
  let j := m.kind - 1
  if m.flags % 2 = 1 ∧ s.ctr j < m.svn then (s.nvRequest ⟨.otp (10 + j) m.svn, none⟩ false).2 else s

/-- Step 9 and READY (R280, R282). -/
def State.bootReady (s : State) (b : Booted) : State :=
  let s := s.advance b.vendor
  let s := match b.owner with
    | some m => s.advance m
    | none => s
  ({ s with stage := (4, 10000, false), ready := true } : State).event 5

/-- Stage 4 (DEDUCED, log entry 16). -/
def State.bootStage4 (s : State) (b : Booted) : State :=
  let rd := s.slotBytes s.sec.slot
  match b.owner with
  | none => ((s.extend 5 (List.replicate 32 0)).bootAlias).bootReady b
  | some m =>
    match m.stage 4 with
    | none => (((s.extend 5 (List.replicate 32 0)).reserve m.hcres).bootAlias).bootReady b
    | some e =>
      if stageOk rd e then
        let s := (((s.loadApp rd e).extend 5 e.digest).reserve m.hcres).bootAlias
        (s.coreHold 0 false).bootReady b
      else (s.loadApp rd e).bootFail 4 8000 10000 5000 3

/-- Stages 2 and 3: training, then the self-test of all eight regions; then DDR5 is enabled for use. -/
def State.bootStage23 (s : State) (env : BootEnv) (b : Booted) : State :=
  let s := (s.trainStart env.dimms).trainEnd env.trainFail
  if s.ddr.failed then s.bootFail 2 1000 7000 s.ddr.prog 0
  else (((s.bistStart 0xFF).bistEnd 0xFF env.bist).setUse).bootStage4 b

/-- The chain from both slots (R412); a flash that cannot be read stops it with BOOTERR 5 (Table 17.12)
(DEDUCED, log entry 16). -/
def State.boot (s : State) (env : BootEnv) : State :=
  let s := s.bootIdentity
  let a := s.namedSlot
  if env.flashFail then s.bootFail 1 0 1000 0 5
  else
    match s.bootSlot a with
    | .ok (t, b) => (t.bootGive a false b).bootStage23 env b
    | .error x =>
      match x.st.bootSlot (1 - a) with
      | .ok (t, b) => (t.bootGive (1 - a) true b).bootStage23 env b
      | .error y =>
        ({ y.st with sec := { y.st.sec with slot := 1 - a, fallback := true } } : State).bootFail 1 0 1000 y.prog y.err

/-- BOOT_CHAIN (R415, R433): once after a reset, with ROOTPLL locked (DEDUCED, log entry 16). -/
def execBootChain (env : BootEnv) (s : State) : Host.Outcome State Fault Refusal :=
  .next <|
    if s.held = true ∨ s.rootLock = false ∨ s.stage ≠ (0, 0, false) then s
    else s.boot env

end Sys2Proof.Machine
end

