-- ==== Sys2Proof/Machine/Canvas.lean ====
section
/-! DEFINITION. Issue of a Canvas instruction: the command CMM with its companion CX (R70 to R72, R77, R82, R97, R121 to R125,
R149 to R152, R157, R160, R162, R455). -/

namespace Sys2Proof.Machine

open Sys2Proof

/-! ### Window configuration checks (step 2 of R455) -/

/-- Whether a field of a configuration set fails its range, its alignment or the MXFP4 rules (Table 6.1, R149, R457). With a
16-bit format every origin must be even, those of unused planes too. -/
def winFieldBad (c : CmmWord) (w : Nat → Nat) (f : Nat) : Bool :=
  let v := w f
  let wide := fmtBits c.xfmt == 16
  let mx := c.xfmt == .mxfp4
  if f < 4 then wide && v % 2 == 1
  else if f = 0x05 ∨ f = 0x06 then v == 0
  else if f = 0x07 then v == 0 || (mx && v % 32 != 0)
  else if f = 0x08 then mx && v % 32 != 0
  else if f = 0x09 ∨ f = 0x0A then (wide && v % 2 == 1) || (mx && v % 1024 != 0)
  else if (0x0B ≤ f ∧ f ≤ 0x10) ∨ (0x1A ≤ f ∧ f ≤ 0x1D) then v == 0
  else if f = 0x15 then v == 3
  else if f = 0x19 then v == 0 || decide (256 < v)
  else if f = 0x20 ∨ f = 0x21 then v == 255
  else if f = 0x24 ∨ f = 0x25 then decide (4096 < v)
  else false

/-- The window configuration checks, then the equality of K and the restrictions of scatter. -/
def winBad (c : CmmWord) (set k n : Nat) (w : Nat → Nat) : Option AccErr :=
  match (List.range 0x26).find? (winFieldBad c w) with
  | some f => some ⟨stBound, 5, set + f * 256⟩
  | none =>
    if k ≠ w 0x19 * w 0x0B * w 0x0C * w 0x07 ∨ (c.scat = true ∧ (w 0x0B ≠ 1 ∨ w 0x0C ≠ 1 ∨ 256 < n)) then
      some ⟨stBound, 5, set + 0x3F * 256⟩
    else none

/-- Output height and width (R151), signed; division rounds towards minus infinity. -/
def outSize (w : Nat → Nat) (i p q d k st : Nat) : Int :=
  ((w i : Int) + w p + w q - w d * ((w k : Int) - 1) - 1) / (w st : Int) + 1
def outH (w : Nat → Nat) : Int := outSize w 0x05 0x11 0x12 0x0F 0x0B 0x0D
def outW (w : Nat → Nat) : Int := outSize w 0x06 0x13 0x14 0x10 0x0C 0x0E

/-! ### Palette tags and the resident tile (step 5) -/

/-- The slots that a lookup uses (Table 2.8). -/
def palSlots (c : CmmWord) (x : CxWord) : List Nat :=
  if c.sfmt = .cb8 ∧ c.psel = true then (List.range 16).map fun g => x.pslot.toNat + g else [x.pslot.toNat]

/-- Whether the tag of a slot pairs with the streaming format (R49). -/
def tagPairs (tag : Nat) (x : Format) : Bool :=
  match fmtOfCode tag with
  | some f => pairOk f x
  | none => false

/-- The effective stationary format: for codebook weights the palette's (R48). -/
def effFmt (e : Engine) (c : CmmWord) (x : CxWord) : Format :=
  if c.sfmt.isCb then (fmtOfCode (e.palView x.pslot.toNat).tag).getD .int8 else c.sfmt

/-- The palette check: equal tags that pair with the streaming format. -/
def palBad (e : Engine) (c : CmmWord) (x : CxWord) : Option AccErr :=
  if c.sfmt.isCb then
    let t0 := (e.palView x.pslot.toNat).tag
    match (palSlots c x).find? fun q => (e.palView q).tag != t0 || !tagPairs (e.palView q).tag c.xfmt with
    | some q => some ⟨stBound, 0xF, q⟩
    | none => none
  else none

/-- The requirements of REUSE on the resident tile (R82). For codebook weights the target format that the slot's tag now
names must also be that of the tile's values (DESIGN CHOICE, log entry 64). -/
def reuseBad (e : Engine) (c : CmmWord) (x : CxWord) (k n : Nat) : Option AccErr :=
  let t := e.tile
  if c.reuse = true ∧ ¬ (t.valid = true ∧ t.single = true ∧ t.fmt = effFmt e c x ∧ t.sfmt = c.sfmt ∧
      t.pal = palSel c x ∧ t.rowsOn = k ∧ t.colsOn = n) then hazard 0xB 0
  else none

/-! ### Operand planes and extents (step 6) -/

/-- Rows and pitch of plane `i` of a dense operand of `r` rows of `n` elements (R124). MXFP4 planes alternate elements and
scales. -/
def planeShape (f : Format) (i r n : Nat) : Nat × Nat :=
  if f = .mxfp4 then (r, if i % 2 = 0 then 64 * ceilDiv (16 * ceilDiv n 32) 64 else 64 * ceilDiv (ceilDiv n 32) 64)
  else (r, 64 * ceilDiv (n * fmtBits f) 512)

/-- Start offset of a plane through an address register; an MXFP4 plane ignores bits [5:0]. -/
def Engine.planeOff (e : Engine) (f : Format) (k : Nat) : Int :=
  if f = .mxfp4 then alignTo 64 (e.form k 0) else e.form k 0

/-- First failing extent of planes `0 .. np − 1` through address registers from `a0`. -/
def Engine.planesBad (e : Engine) (f : Format) (cplx : Bool) (a0 r n : Nat) : Option AccErr :=
  (List.range (planes f cplx)).findSome? fun i =>
    let q := planeShape f i r n
    e.boundBad (e.planeOff f (a0 + i)) (q.1 * q.2) (e.areg (a0 + i)).bound.toNat

/-- The planes as the Canvas samples them. -/
def Engine.planeList (e : Engine) (ne : Nat) (f : Format) (cplx : Bool) (a0 r n : Nat) : List Plane :=
  (List.range (planes f cplx)).map fun i =>
    ⟨e.pa ne (e.planeOff f (a0 + i)), (planeShape f i r n).2⟩

/-- Rows and columns of the stationary operand as stored: MXFP4 is transposed. -/
def statShape (f : Format) (k n : Nat) : Nat × Nat := if f = .mxfp4 then (n, k) else (k, n)

/-- Origin of window plane `j`; bits [5:0] of an MXFP4 origin are ignored (R149). -/
def winOrg (f : Format) (w : Nat → Nat) (j : Nat) : Nat := if f = .mxfp4 then w j / 64 * 64 else w j

/-- Bytes from the origin of window plane `j` to the end of its last element (R157). -/
def winExtent (f : Format) (w : Nat → Nat) (j : Nat) : Nat :=
  let y := w 0x05 - 1
  let x := w 0x06 - 1
  let c := w 0x08 + w 0x19 * w 0x07 - 1
  if f = .mxfp4 ∧ j % 2 = 1 then y * (w 0x09 / 16) + x * (w 0x0A / 16) + c / 32 + 1
  else y * w 0x09 + x * w 0x0A + c * fmtBits f / 8 + (fmtBits f + 7) / 8

/-- Planes of the streaming operand. -/
def winPlanes (c : CmmWord) : Nat := planes c.xfmt c.complex

/-- First failing window plane. -/
def Engine.winPlanesBad (e : Engine) (c : CmmWord) (w : Nat → Nat) : Option AccErr :=
  (List.range (winPlanes c)).findSome? fun j => e.boundBad (winOrg c.xfmt w j) (winExtent c.xfmt w j) (w 4)

/-! ### The plan of an issue -/

/-- What a Canvas instruction that issues does: nothing but the EMPTY flag, tag rows, or run. -/
inductive CmmPlan where
  | empty
  | tags (o : CanvasOp)
  | run (o : CanvasOp)
deriving DecidableEq, Repr

/-- Everything the instruction samples at issue (R124). -/
def Engine.sample (e : Engine) (ne : Nat) (c : CmmWord) (x : CxWord) : CanvasOp :=
  let w := e.winField x.wgs.val
  let m := e.size c.msz
  let k := e.size c.ksz
  let n := e.size c.nsz
  let st := statShape c.sfmt k n
  let o : CanvasOp := {
    issue := e.cyc, pc := e.ctl.pc, cw := c, cx := x, sfm := effFmt e c x, m := m, k := k, n := n
    ringl := e.ringLen x.ringl, mask := e.preg x.maskp.val % 2 ^ 256
    stat := if c.reuse then [] else e.planeList ne c.sfmt c.complex x.wa.val st.1 st.2
    strm := if x.xwg then (List.range (winPlanes c)).map fun j => ⟨e.pa ne (winOrg c.xfmt w j), 0⟩
      else e.planeList ne c.xfmt c.complex x.xa.val m k
    win := (List.range 0x26).map w
    oh := (outH w).toNat, ow := (outW w).toNat, step := 0, steps := 8 }
  if k = 0 then o else { o with steps := o.occupancy }

/-- Ring length and ACM footprint (step 7). -/
def acmBad (o : CanvasOp) : Option AccErr :=
  let b := o.cx.acmb.toNat
  if o.cw.ring then
    if o.ringl % 16 ≠ 0 ∨ o.ringl < 16 ∨ 4096 < o.ringl ∨ 4096 < b + o.ringl then some ⟨stBound, 3, o.ringl⟩ else none
  else if 4096 < b + o.footprint then some ⟨stBound, 3, b + o.footprint⟩
  else none

/-- A row of the footprint that an earlier instruction still writes, when the new one tags it (sub-code 0x0005). -/
def Engine.tagHazard (e : Engine) (o : CanvasOp) : Option AccErr :=
  if o.cw.init = .keep then none
  else
    match ((List.range o.footprint).map fun i => o.cx.acmb.toNat + i).find? fun r =>
        (e.rows.any fun w => w.row == r) || e.ops.any fun p => p.owes r e.cyc with
    | some r => hazard 5 r
    | none => none

/-- The first failing check among some. -/
def firstBad (l : List (Option AccErr)) : Option AccErr := l.findSome? id

/-- The checks of R455 in their order, and what the instruction then does. A hazard that names no row, register or offset
reports the detail 0 (DESIGN CHOICE, log entry 65). -/
def Engine.cmmPlan (e : Engine) (ne : Nat) (c : CmmWord) (x : CxWord) : Except AccErr CmmPlan :=
  let o := e.sample ne c x
  let w := e.winField x.wgs.val
  let st := statShape c.sfmt o.k o.n
  let hz := firstBad [
    if e.cyc < e.cBusy then hazard 6 0 else none,
    e.needS (rnSize c.msz), e.needS (rnSize c.ksz), e.needS (rnSize c.nsz),
    if c.ring then e.needS (rnRing x.ringl) else none, e.needP x.maskp.val]
  match hz with
  | some a => .error a
  | none =>
    if o.m = 0 ∨ o.n = 0 then .ok .empty
    else
      match if x.xwg then winBad c x.wgs.val o.k o.n w else none with
      | some a => .error a
      | none =>
        if o.k = 0 then
          match firstBad [acmBad o, e.tagHazard o] with
          | some a => .error a
          | none => .ok (.tags o)
        else if x.xwg = true ∧ (outH w ≤ 0 ∨ outW w ≤ 0) then .ok .empty
        else
          match firstBad [palBad e c x, reuseBad e c x o.k o.n,
            if c.reuse then none else e.planesBad c.sfmt c.complex x.wa.val st.1 st.2,
            if x.xwg then e.winPlanesBad c w else e.planesBad c.xfmt c.complex x.xa.val o.m o.k,
            acmBad o, e.tagHazard o] with
          | some a => .error a
          | none => .ok (.run o)

/-! ### Effect -/

/-- The tag that init mode gives row `d` of a footprint, none for KEEP (R71, R80). -/
def initTag (o : CanvasOp) (d : Nat) : Option Nat :=
  match o.cw.init with
  | .keep => none
  | .zero => some 1
  | .bias b => if o.cw.complex = true ∧ o.fn * o.m ≤ d then some 1 else some (4 + b.val)

/-- Every row of the footprint tagged; the undrained bit clears (R71, R81). -/
def Engine.tagRows (e : Engine) (o : CanvasOp) : Engine :=
  { e with acm := (List.range o.footprint).foldl (fun m d =>
      match initTag o d with
      | none => m
      | some t =>
        let r := o.cx.acmb.toNat + d
        minsert r { e.acmRow r with
          tag := t, undr := false, fmt := accOf o.sfm, half := if o.sfm = .int16 then d % 2 else 0 } m) e.acm }

/-- The effect of a plan. -/
def Engine.startCmm (e : Engine) : CmmPlan → Engine
  | .empty => { e with empty := true, cBusy := e.cyc + 8 }
  | .tags o => { e.tagRows o with ops := e.ops ++ [o], cBusy := e.cyc + 8 }
  | .run o => { e.tagRows o with ops := e.ops ++ [o], cBusy := e.cyc + o.steps }

/-- CMM with CX. Scatter exists on NE4 and NE5 only (R160). -/
def execCmm (h : Issue) (c : CmmWord) (x : CxWord) (s : State) : Host.Outcome State Fault Refusal :=
  let e := h.ne.val
  wfOr (cmmOk c x && (!c.scat || decide (4 ≤ e))) (issue h .c (.sreg (rnSize c.msz) :: .sreg (rnSize c.ksz) :: .sreg (rnSize c.nsz) :: .preg x.maskp.val ::
      if c.ring then [.sreg (rnRing x.ringl)] else [])
    (fun s => match (s.eng e).cmmPlan e c x with
      | .error a => some a
      | .ok _ => none)
    (fun s => match (s.eng e).cmmPlan e c x with
      | .error _ => s
      | .ok p => s.modEng e fun y => y.startCmm p) s)

end Sys2Proof.Machine
end

