-- ==== Sys2Proof/Machine/Pcie.lean ====
section
/-! DEFINITION. Resets (R253, R400, R433 to R436), the PCIe endpoint's configuration space and links (R248, R249, R252), the
root port (R254, R452). The places of the capabilities and the values that Table 11.1 does not give are PRESUMED from the PCI
Express Base Specification (log entry 20). -/

namespace Sys2Proof.Machine

open Sys2Proof

/-! ### Resets -/

/-- Host memory beyond PCIe, which no reset of the device touches (DESIGN CHOICE, log entry 18). -/
def hostOnly (m : List Host.Cell) : List Host.Cell := m.filter fun c => decide (hostBase ≤ c.1)

/-- The whole device reset (R433): OTP, key store, boot flash, fuses, straps, pins and what has left the device stay
(DESIGN CHOICE, log entry 18). -/
def State.resetAll (s : State) : State :=
  { State.reset with
    pending := s.pending, mem := hostOnly s.mem, fuse := s.fuse, free := s.free, standalone := s.standalone
    refclk := s.refclk, tripped := s.tripped, line := { safe := s.tripped }
    sec := { otp := s.sec.otp, keys := s.sec.keys, nonceNo := s.sec.nonceNo }
    flash := s.flash, usb := s.usb, irqs := s.irqs
    pcie := { perst := s.pcie.perst, rpWrites := s.pcie.rpWrites } }

/-- A power-on reset (R433), in effect until RESET_RELEASE; THERMTRIP_N is released (R394)
(DESIGN CHOICE, log entry 18). -/
def State.powerOnReset (s : State) (cause : PorCause) : State :=
  { s.resetAll with
    held := true, tripped := false, line := {}
    lastRst := match cause with
      | .porstN => 0
      | .vddAon => 1 }

/-- POWER_ON_RESET (R433). -/
def execPowerOnReset (cause : PorCause) (s : State) : Host.Outcome State Fault Refusal := .next (s.powerOnReset cause)

/-- RESET_RELEASE (R4, R436): the straps are sampled; STRAP_TEST high holds the reset in effect until the next power-on
reset. -/
def execResetRelease (modeSel refclk test : Bool) (s : State) : Host.Outcome State Fault Refusal :=
  .next <|
    if s.held = true ∧ s.testHeld = false ∧ s.lastRst ≤ 1 then
      { s with standalone := modeSel, refclk := refclk, held := test, testHeld := test }
    else s

/-- An engine's operating point, which the PMC holds. -/
def Engine.point (x : Engine) : Engine := { curN := x.curN, vmv := x.vmv, grant := x.grant }

/-- The PMC without the operations it held (R433) (DEDUCED, log entry 19). -/
def Pmc.dropHeld (p : Pmc) : Pmc :=
  { p with holdQ := [], held := [], order := [], releasing := false, pdHc := true, pdMedia := true, wake := [], mail := false, mediaWake := [] }

/-- A warm reset: as a power-on reset, but PD_AON keeps its contents and the straps stay (DEDUCED, log entry 19). -/
def State.warmReset (s : State) : State :=
  let t := s.resetAll
  ({ t with
    held := true, lastRst := 2
    regs := s.regs.filter fun p => decide (0x200000 ≤ p.1 ∧ p.1 < 0x300000)
    pmc := s.pmc.dropHeld
    engines := s.engines.map fun p => (p.1, p.2.point)
    pcie := { t.pcie with perst := true } } : State).rset .pmcRstcause 0

/-- WARM_RESET (R434): in attached mode; PORST_N governs while it is asserted (DEDUCED, log entry 19). -/
def execWarmReset (s : State) : Host.Outcome State Fault Refusal :=
  .next <|
    if s.held = true ∧ s.lastRst ≤ 1 then { s with pcie := { s.pcie with perst := true } }
    else if s.standalone then s
    else s.warmReset

/-- The endpoint's link and configuration state reset, and the HOST mailbox endpoint (R434). -/
def State.endpointReset (s : State) : State :=
  ({ s with pcie := { s.pcie with cfg := [], width := 0, speed := 0, early := true } } : State).receiverReset .host

/-- PERST_ENDPOINT_RESET (R434). -/
def execPerstEndpointReset (s : State) : Host.Outcome State Fault Refusal :=
  .next <|
    if s.held then { s with pcie := { s.pcie with perst := true } }
    else { s.endpointReset with pcie := { s.endpointReset.pcie with perst := true } }

/-- PERST_N_DEASSERTION (R252, R434): a warm reset ends; the 100 ms of R252 begin. -/
def execPerstNDeassertion (s : State) : Host.Outcome State Fault Refusal :=
  .next <|
    if s.pcie.perst then
      { s with
        held := s.held && decide (s.lastRst ≤ 1)
        pcie := { s.pcie with perst := false, early := true, openedAt := s.clock.ticks } }
    else s

/-- BROWNOUT_RESET (R396, R400): VDD_SOC or VDDIO_18 fell below its reset level while VDD_AON did not; a fall of VDD_AON is a
power-on reset. The straps are not sampled again (DEDUCED, log entry 19). PORST_N, once low, governs (R432), and a warm reset
stays in effect. -/
def execBrownoutReset (r : RailMv) (s : State) : Host.Outcome State Fault Refusal :=
  .next <|
    if r.aon < 640 then s.powerOnReset .vddAon
    else if (650 ≤ r.soc ∧ 1620 ≤ r.io18) ∨ (s.held = true ∧ s.lastRst ≤ 1) then s
    else ({ s.resetAll with held := s.held, lastRst := 3 } : State).rset .pmcRstcause 1

/-- Every queue disabled (PRESUMED, log entry 21). -/
def State.disableQueues (s : State) : State :=
  (List.range 1024).foldl (fun t q =>
    let t := if t.sqEn q then (t.fset (.sqCfg q) 31 31 0).setSq q { t.sq q with fetched := [], error := false } else t
    if t.cqEn q then t.fset (.cqCfg q) 31 31 0 else t) s

/-- Function Level Reset (R253): every context is destroyed as R279 states, every queue disabled, PCIE_W2_CTL cleared; it is the
receiver reset of HOST, CP0 and CP1 (Table 12.7), and the function's configuration registers take their reset values. The
PMT and CPQ_INIT follow once every context is FREE (PRESUMED, log entry 21). -/
def State.flr (s : State) : State :=
  let s := ((List.range 4096).filter fun c => s.ctxSt c != 0).foldl (fun t c => t.destroy c) s
  let s := s.disableQueues
  let s : State := { s with pcie := { s.pcie with cfg := [] }, flrBusy := true }
  (((s.rset .pcieW2Ctl 0).receiverReset .host).receiverReset .cp0).receiverReset .cp1 |>.flrSettle

/-- FUNCTION_LEVEL_RESET (R253) (PRESUMED, log entry 21). -/
def execFunctionLevelReset (s : State) : Host.Outcome State Fault Refusal :=
  .next (if s.held then s else s.flr)

/-! ### Configuration space (R248) -/

/-- Bits of a configuration register, by its number of four bytes, that software writes (PRESUMED, log entry 20). -/
def cfgMask : Nat → Nat
  | 0x01 => 0x0546
  | 0x03 => 0xFF
  | 0x04 => 0xFC000000
  | 0x05 => 0xFFFFFFFF
  | 0x07 => 0xFFFFFFFF
  | 0x0F => 0xFF
  | 0x11 => 0x3
  | 0x1E => 0x7FFF
  | 0x20 => 0xFFF
  | 0x26 => 0xFFFF
  | 0x28 => 0xFFFF
  | 0x2C => 0xC0000000
  | 0x42 => 0x07FFFFFF
  | 0x43 => 0x07FFFFFF
  | 0x45 => 0xFFFF
  | _ => 0

/-- Bits cleared by writing one: the Status register, Device Status and the AER status registers
(PRESUMED, log entry 20). -/
def cfgW1c : Nat → Nat
  | 0x01 => 0xF9000000
  | 0x1E => 0xF0000
  | 0x41 => 0x07FFFFFF
  | 0x44 => 0xFFFF
  | _ => 0

/-- The fixed bits of a configuration register (PRESUMED, log entry 20). -/
def State.cfgFixed (s : State) (r : Nat) : Nat :=
  match r with
  | 0x00 => 0x28601F9D
  | 0x01 => 0x00100000
  | 0x02 => 0x12000010
  | 0x04 => 0x4
  | 0x06 => 0xC
  | 0x0B => s.sec.subsys
  | 0x0D => 0x40
  | 0x10 => 0x00037001
  | 0x11 => 0x8
  | 0x1C => 0x0002B010
  | 0x1D => 0x10008022
  | 0x1F => 0x00400885
  | 0x20 => (s.pcie.width * 16 + s.pcie.speed) * 65536
  | 0x25 => 0x00030013
  | 0x27 => 0x3E
  | 0x2C => 0x07FF0011
  | 0x2D => 0x03400000
  | 0x2E => 0x03408000
  | 0x40 => 0x15020001
  | 0x54 => 0x16010003
  | 0x55 => s.otp 74 % 2 ^ 32
  | 0x56 => s.otp 74 / 2 ^ 32
  | 0x58 => 0x19010019
  | 0x64 => 0x1A010025
  | 0x68 => 0x1D010026
  | 0x74 => 0x2001002A
  | 0x80 => 0x00010027
  | _ => 0

/-- What a read of a configuration register returns (PRESUMED, log entry 20). -/
def State.cfgRead (s : State) (r : Nat) : Nat := s.cfgFixed r ||| s.cfgReg r

/-- `s` with the stored bits of a configuration register replaced (PRESUMED, log entry 23). -/
def State.cfgPut (s : State) (r v : Nat) : State :=
  { s with pcie := { s.pcie with cfg := minsert r (BitVec.ofNat 32 v) s.pcie.cfg } }

/-- A write of a configuration register: PowerState takes D0 and D3hot only, bit 15 of Device Control starts a Function Level
Reset; held-back messages are sent once they are admitted. -/
def State.cfgWrite (s : State) (r v : Nat) : State :=
  if r = 0x11 ∧ (v % 4 = 1 ∨ v % 4 = 2) then s
  else if r = 0x1E ∧ v / 2 ^ 15 % 2 = 1 then s.flr
  else
    let old := s.cfgReg r
    (s.cfgPut r ((v &&& cfgMask r) ||| (old &&& cfgW1c r &&& (2 ^ 32 - 1 - v % 2 ^ 32)))).msixFlush

/-- Answer to a configuration request: success with data, or Configuration Request Retry Status. -/
def State.cfgAnswer (s : State) (r : Nat) (wr : Option W32) : State :=
  match wr with
  | some v =>
    if cfgMask r = 0 ∧ cfgW1c r = 0 then { s with resp := {} } else { s.cfgWrite r v.toNat with resp := {} }
  | none => { s with resp := { ok := true, status := 0, data := leBytes 4 (s.cfgRead r) } }

/-- PERCLK cycles of the 100 ms of R252 (DESIGN CHOICE, log entry 22). -/
def retryCycles : Nat := 20000000

/-- CONFIG_REQUEST (R248, R252): within the first 100 ms the moment from which the endpoint answers is open
(DESIGN CHOICE, log entry 22). -/
def execConfigRequest (reg : BitVec 12) (wr : Option W32) (s : State) : Host.Outcome State Fault Refusal :=
  .next <|
    let r := reg.toNat / 4
    if s.pcie.perst || s.held then s
    else if s.pcie.early = true ∧ s.clock.ticks < s.pcie.openedAt + retryCycles then
      let f := s.takeFree
      if f.1 % 2 = 0 then { f.2 with resp := { ok := false, status := 2, data := [] } }
      else ({ f.2 with pcie := { f.2.pcie with early := false } } : State).cfgAnswer r wr
    else ({ s with pcie := { s.pcie with early := false } } : State).cfgAnswer r wr

/-! ### Links (R249, R254) -/

/-- PCIE_LINK_TRAINING (R249). -/
def execPcieLinkTraining (width speed : Nat) (s : State) : Host.Outcome State Fault Refusal :=
  .next <|
    if s.held || s.pcie.perst then s
    else if (width = 1 ∨ width = 4 ∨ width = 8) ∧ 1 ≤ speed ∧ speed ≤ 5 then
      { s with pcie := { s.pcie with width := width, speed := speed } }
    else s

/-- The root port is held in reset in attached mode without an application-core stage (R254). -/
def State.rpHeld (s : State) : Bool := !s.standalone && !s.sec.app

/-- ROOT_PORT_LINK_TRAINING (R254): once PCIERP_CTL.EN has released RP_PERST_N. -/
def execRootPortLinkTraining (width speed : Nat) (s : State) : Host.Outcome State Fault Refusal :=
  .next <|
    if s.held || s.rpHeld || s.fget .rpCtl 31 31 == 0 then s
    else if (width = 1 ∨ width = 2 ∨ width = 4) ∧ 1 ≤ speed ∧ speed ≤ 4 then
      { s with pcie := { s.pcie with rpWidth := width, rpSpeed := speed } }
    else s

/-! ### Root port (R452) -/

/-- A write of PCIERP_CFG: WRITE and REG are taken, URERR clears where written as one, GO issues a request. -/
def State.rpCfgWrite (s : State) (v : Nat) : State :=
  let s := (s.fset .rpCfg 30 30 (bits v 30 30)).fset .rpCfg 11 0 (bits v 11 0)
  let s := if bits v 29 29 = 1 then s.fset .rpCfg 29 29 0 else s
  if bits v 31 31 = 1 then s.fset .rpCfg 31 31 1 else s

/-- PCIERP_CFG_GO (R452). -/
def execPcierpCfgGo (w : World) (wr : Bool) (reg : BitVec 12) (s : State) : Host.Outcome State Fault Refusal :=
  .next (s.regOp w (Reg.rpCfg |>.addr) true fun s => s.rpCfgWrite (2 ^ 31 + bitOf wr * 2 ^ 30 + reg.toNat))

/-- A configuration request that failed. -/
def State.rpFail (s : State) : State :=
  let rd := s.fget .rpCfg 30 30 == 0
  let s := (s.fset .rpCfg 31 31 0).fset .rpCfg 29 29 1
  if rd then s.rset .rpCfgdata 0xFFFFFFFF else s

/-- PCIERP_CFG_COMPLETION (R452): only a trained link brings one. -/
def execPcierpCfgCompletion (ur : Bool) (data : W32) (s : State) : Host.Outcome State Fault Refusal :=
  .next <|
    if s.fget .rpCfg 31 31 = 0 ∨ s.pcie.rpWidth = 0 then s
    else if ur then s.rpFail
    else
      let rd := s.fget .rpCfg 30 30 == 0
      let s := s.fset .rpCfg 31 31 0
      if rd then s.rset .rpCfgdata data.toNat else s

/-- PCIERP_CFG_TIMEOUT (R452). -/
def execPcierpCfgTimeout (s : State) : Host.Outcome State Fault Refusal :=
  .next (if s.fget .rpCfg 31 31 = 0 then s else s.rpFail)

/-- A write through the aperture (R397, R398, R452): held while HOLD is set and the offset lies in PMC_NVGATE; with the
buffer of 64 full it has not completed at its core before an entry frees, and waits behind the others all the same. Without a
link there is no drive to write to (DESIGN CHOICE, log entry 25). -/
def State.aperture (s : State) (off : Nat) (data : List Byte) : State :=
  if s.pmc.hold = true ∧ s.fget .pmcNvgate 18 0 ≤ off ∧ off < s.fget .pmcNvgate 50 32 then
    let p := s.pmc
    { s with
        resp := if 64 ≤ p.held.length then { ok := false, status := 0, data := [] } else {}
        pmc := { p with held := p.held ++ [⟨.aperture off data, none⟩], order := p.order ++ [false], heldOps := p.heldOps + 1 } }
  else if s.pcie.rpWidth = 0 then { s with resp := {} }
  else { s.nvApply (.aperture off data) with resp := {} }

/-- APERTURE_WRITE (R452) (DESIGN CHOICE, log entry 25). -/
def execApertureWrite (w : World) (off : BitVec 19) (data : List Byte) (s : State) : Host.Outcome State Fault Refusal :=
  .next (s.regOp w (0x980000 + off.toNat) true fun s => s.aperture off.toNat data)

/-- Whether an inbound request is admitted: within IN_BASE to IN_LIMIT and installed DDR5. -/
def State.inAdmits (s : State) (a n : Nat) : Bool :=
  decide (s.fget .rpInBase 43 16 ≤ a / 65536 ∧ (a + n - 1) / 65536 ≤ s.fget .rpInLimit 43 16 ∧
    ddrBase ≤ a ∧ a + n ≤ ddrBase + s.ddr.cap)

/-- INBOUND_REQUEST (R254, R452): an MSI-X write goes to the interrupt file; an admitted request is a Gallery access; any
other completes with Unsupported Request (DESIGN CHOICE, log entry 25). -/
def execInboundRequest (addr : BitVec 64) (a : Access) (s : State) : Host.Outcome State Fault Refusal :=
  .next <|
    let p := addr.toNat
    if s.pcie.rpWidth = 0 then s
    else
      match a with
      | .write d =>
        if p = Config.interruptFile.toNat ∧ d.length = 4 then { s.hcIrq (fieldAt d 0 4) with resp := {} }
        else if s.inAdmits p d.length then
          let r := s.physAccess .gallery false true (cutPhys (d.length / 65536 + 2) p d.length) p a
          r.2.answer r.1
        else s.answer (.error ⟨stUnmapped, 1, p % 2 ^ 32⟩)
      | .read n =>
        if s.inAdmits p n then
          let r := s.physAccess .gallery false true (cutPhys (n / 65536 + 2) p n) p a
          r.2.answer r.1
        else s.answer (.error ⟨stUnmapped, 1, p % 2 ^ 32⟩)

end Sys2Proof.Machine
end

