-- ==== Sys2Proof/Machine/Cores.lean ====
section
/-! DEFINITION. Control of the application cores (R451) and the USB device port (R445, R453). -/

namespace Sys2Proof.Machine

open Sys2Proof

/-! ### Application cores (R451) -/

/-- A write of HCL_RST: HOLD is taken, core by core; CLUSTER resets every core and the L2, holds the cores and is the receiver
reset of the HC mailbox endpoint. The L2 holds no line that the device's other units see, so its reset changes no other state
(DESIGN CHOICE, log entry 99). -/
def State.hclWrite (s : State) (v : Nat) : State :=
  if bits v 8 8 = 1 then (s.coresHold 0xFF).receiverReset .hc else s.coresHold (bits v 7 0)

/-- HC_RELEASE (R451): HCk starts in machine mode at 0x040_0000_0000. -/
def execHcRelease (w : World) (k : Fin 8) (s : State) : Host.Outcome State Fault Refusal :=
  .next (s.regOp w (Reg.hclRst |>.addr) true fun s => s.hclWrite (setBits (s.fget .hclRst 7 0) k.val k.val 0))

/-- HC_HOLD (R451): HCk is reset and held. -/
def execHcHold (w : World) (k : Fin 8) (s : State) : Host.Outcome State Fault Refusal :=
  .next (s.regOp w (Reg.hclRst |>.addr) true fun s => s.hclWrite (setBits (s.fget .hclRst 7 0) k.val k.val 1))

/-- CLUSTER (R451). -/
def execCluster (w : World) (s : State) : Host.Outcome State Fault Refusal :=
  .next (s.regOp w (Reg.hclRst |>.addr) true fun s => s.hclWrite (2 ^ 8 + s.fget .hclRst 7 0))

/-! ### USB (R453) -/

/-- Whether the port is attached. -/
def State.usbAttached (s : State) : Bool := decide (4 ≤ s.usb)

/-- USB_ATTACH (R445): VBUS_DET high. -/
def execUsbAttach (speed : BitVec 2) (s : State) : Host.Outcome State Fault Refusal :=
  .next { s with usb := 4 + speed.toNat }

/-- Whether a ring has a descriptor given and not completed. -/
def State.usbGiven (s : State) (n : Nat) : Bool := s.fget (.usbEpIdx n) 15 0 != s.fget (.usbEpIdx n) 31 16

/-- The descriptor in turn written back: LEN, FLAGS, and DEV advances. -/
def State.usbDone (s : State) (n len fl : Nat) : State :=
  let dev := s.fget (.usbEpIdx n) 31 16
  let d := s.ethDesc (.usbEpRing n) dev
  (s.macWrite (d + 8) (leBytes 2 len ++ leBytes 1 fl)).fset (.usbEpIdx n) 31 16 (dev + 1)

/-- USB_DETACH (R453): every transfer in progress ends with DONE and LEN 0. -/
def execUsbDetach (s : State) : Host.Outcome State Fault Refusal :=
  .next <|
    if s.usbAttached then
      { s.usbOut.foldl (fun t p => t.usbDone p.1 0 1) s with usb := 0, usbOut := [] }
    else s

/-- What the host sees of a transfer: 0 done, 1 NAK, 2 STALL, with the data not taken or the data sent
(DESIGN CHOICE, log entry 24). -/
def State.usbAnswer (s : State) (st : Nat) (d : List Byte) : State :=
  { s with resp := { ok := st == 0, status := st, data := d } }

/-- Maximum packet size of a ring, 1 where it is 0. -/
def State.usbMps (s : State) (n : Nat) : Nat := max 1 (s.fget (.usbEpCfg n) 10 0)

/-- One packet of an OUT transfer goes to the descriptor in turn, LEN at most in all; the transfer ends at a short packet, at LEN,
or with a setup packet. What the buffer does not hold is left for the next descriptor. -/
def State.usbPacket (s : State) (n : Nat) (b p : List Byte) (setup : Bool) : State × Nat :=
  let len := fieldAt b 8 2
  let at_ := mget (fun _ => 0) s.usbOut n
  let m := min p.length (len - at_)
  let t := s.macWrite (fieldAt b 0 8 / 64 * 64 + at_) (p.take m)
  if decide (p.length < s.usbMps n ∨ len ≤ at_ + m) || setup then
    ({ t.usbDone n (at_ + m) (1 + 16 * bitOf (setup && n == 0)) with usbOut := merase n t.usbOut }, m)
  else ({ t with usbOut := minsert n (at_ + m) t.usbOut }, m)

/-- The packets of an OUT transfer in turn; `more` says that a packet without bytes is still to come. A ring without a free
descriptor answers NAK. -/
def State.usbOutRun (s : State) (n : Nat) (setup : Bool) : Nat → List Byte → Bool → State
  | 0, d, _ => s.usbAnswer 1 d
  | k + 1, d, more =>
    if d.isEmpty && !more then s.usbAnswer 0 []
    else if s.usbGiven n = false then s.usbAnswer 1 d
    else
      match s.macRead (s.ethDesc (.usbEpRing n) (s.fget (.usbEpIdx n) 31 16)) 32 with
      | (.error _, t) => (t.fset (.usbEpIdx n) 31 16 (t.fget (.usbEpIdx n) 31 16 + 1)).usbOutRun n setup k d more
      | (.ok b, t) =>
        let r := t.usbPacket n b (d.take (t.usbMps n)) setup
        r.1.usbOutRun n setup k (d.drop r.2) false

/-- An IN transfer: the buffer of the descriptor in turn goes to the host. -/
def State.usbIn (s : State) (n : Nat) : State :=
  if s.usbGiven n = false then s.usbAnswer 1 []
  else
    match s.macRead (s.ethDesc (.usbEpRing n) (s.fget (.usbEpIdx n) 31 16)) 32 with
    | (.error _, t) => t.fset (.usbEpIdx n) 31 16 (t.fget (.usbEpIdx n) 31 16 + 1)
    | (.ok b, t) =>
      let len := fieldAt b 8 2
      match t.macRead (fieldAt b 0 8 / 64 * 64) len with
      | (.ok d, t) => (t.usbDone n len 1).usbAnswer 0 d
      | (.error _, t) => t.usbDone n len 1

/-- USB_TRANSFER (R453): on an enabled ring of an enabled, attached port. An OUT transfer carries `data` in packets of MPS bytes,
the last of them shorter; a ring with STALL set answers STALL (DESIGN CHOICE, log entry 24). -/
def execUsbTransfer (ring : Fin 16) (data : List Byte) (setup : Bool) (s : State) : Host.Outcome State Fault Refusal :=
  .next <|
    let n := ring.val
    if s.usbAttached = false ∨ s.fget .usbCtl 31 31 = 0 ∨ s.fget (.usbEpCfg n) 31 31 = 0 then s
    else if s.fget (.usbEpCfg n) 30 30 = 1 then s.usbAnswer 2 (if n % 2 = 0 then data else [])
    else if n % 2 = 0 then s.usbOutRun n setup (65536 + data.length) data data.isEmpty
    else s.usbIn n

end Sys2Proof.Machine
end

