-- ==== Sys2Proof/Machine/EngineVector.lean ====
section
/-! DEFINITION. V-slot instructions other than DRN (Tables 5.6 and 5.7; R89, R133 to R136, R138, R139). -/

namespace Sys2Proof.Machine

open Sys2Proof

/-! ### Elements and predicates -/

/-- Elements of a register. -/
def perReg (w : Nat) : Nat := 32768 / w

/-- Whether the predicate enables element `i` of width `w`: bit i of a predicate governs lane i (R89). -/
def enabled (pr w i : Nat) : Bool := pr / 2 ^ (i * w / 32) % 2 == 1

/-- Mask and value of elements `from .. from + length` of width `w`: enabled elements take their values, the others are
kept, or zeroed with ZM. -/
def vmask (pr w base : Nat) (zm : Bool) (l : List Nat) : Nat :=
  pack w ((List.range l.length).map fun i => if enabled pr w (base + i) || zm then 2 ^ w - 1 else 0) <<< (w * base)
def vval (pr w base : Nat) (l : List Nat) : Nat :=
  pack w ((l.zip (List.range l.length)).map fun p => if enabled pr w (base + p.2) then p.1 else 0) <<< (w * base)

/-- Elements written to a vector register. -/
def Engine.putV (x : Engine) (lat vd pr w base : Nat) (zm : Bool) (l : List Nat) : Engine :=
  x.put lat (.vreg vd) (vmask pr w base zm l) (vval pr w base l)

/-- Checks of an instruction that reads vector registers under a predicate and writes one. -/
def vecChk (e lat : Nat) (vs : List (Fin 32)) (pr : Fin 16) (vd : Nat) (s : State) : Option AccErr :=
  let x := s.eng e
  worst ((vs.map fun v => x.needV v.val) ++ [x.needP pr.val, x.order lat (.vreg vd) allV])

/-- The elements of a source. -/
def Engine.elems (x : Engine) (w r : Nat) : List Nat := unpack w (perReg w) (x.vreg r)

/-! ### Arithmetic (R134) -/

/-- VOP2. -/
def execVop2 (h : Issue) (fn : V2Fn) (c : VCommon) (s : State) : Host.Outcome State Fault Refusal :=
  let e := h.ne.val
  let lat := if fn = .mul then 4 else 3
  let w := etBits c.et
  wfOr (Instr.wf (.vop2 h fn c)) (issue h .v [.vreg c.va.val, .vreg c.vb.val, .preg c.pr.val] (vecChk e lat [c.va, c.vb] c.pr c.vd.val)
    (fun s => s.modEng e fun x =>
      x.putV lat c.vd.val (x.preg c.pr.val) w 0 c.zm
        (((x.elems w c.va.val).zip (x.elems w c.vb.val)).map fun p => vop2Elem fn c.et c.ovf p.1 p.2)) s)

/-- VFMA. -/
def execVfma (h : Issue) (c : VCommon) (s : State) : Host.Outcome State Fault Refusal :=
  let e := h.ne.val
  let w := etBits c.et
  wfOr (Instr.wf (.vfma h c)) (issue h .v [.vreg c.va.val, .vreg c.vb.val, .vreg c.vc.val, .preg c.pr.val] (vecChk e 4 [c.va, c.vb, c.vc] c.pr c.vd.val)
    (fun s => s.modEng e fun x =>
      x.putV 4 c.vd.val (x.preg c.pr.val) w 0 c.zm
        (((x.elems w c.va.val).zip ((x.elems w c.vb.val).zip (x.elems w c.vc.val))).map fun p =>
          vfmaElem c.et c.ovf p.1 p.2.1 p.2.2)) s)

/-- A predicate result: enabled bits take their values, the others are kept, or cleared with ZM. -/
def Engine.putP (x : Engine) (lat pd pr : Nat) (zm : Bool) (v : Nat) : Engine :=
  x.put lat (.preg pd) (if zm then allP else pr) (v &&& pr)

/-- VCMP. -/
def execVcmp (h : Issue) (fn : CmpFn) (pd : Fin 16) (c : VCommon) (s : State) : Host.Outcome State Fault Refusal :=
  let e := h.ne.val
  wfOr (Instr.wf (.vcmp h fn pd c)) (issue h .v [.vreg c.va.val, .vreg c.vb.val, .preg c.pr.val]
    (fun s =>
      let x := s.eng e
      worst [x.needV c.va.val, x.needV c.vb.val, x.needP c.pr.val, x.order 2 (.preg pd.val) allP])
    (fun s => s.modEng e fun x =>
      x.putP 2 pd.val (x.preg c.pr.val) c.zm
        (pack 1 (((x.elems 32 c.va.val).zip (x.elems 32 c.vb.val)).map fun p => bit (vcmpElem fn c.et p.1 p.2)))) s)

/-- VSEL: lane i is VA's under a predicate bit 1, else VB's. ZM is ignored. -/
def execVsel (h : Issue) (c : VCommon) (s : State) : Host.Outcome State Fault Refusal :=
  let e := h.ne.val
  wfOr (Instr.wf (.vsel h c)) (issue h .v [.vreg c.va.val, .vreg c.vb.val, .preg c.pr.val] (vecChk e 2 [c.va, c.vb] c.pr c.vd.val)
    (fun s => s.modEng e fun x =>
      let m := pack 32 ((List.range 1024).map fun i => if enabled (x.preg c.pr.val) 32 i then 2 ^ 32 - 1 else 0)
      x.put 2 (.vreg c.vd.val) allV (blend (x.vreg c.vb.val) m (x.vreg c.va.val))) s)

/-! ### Conversion (R135) -/

/-- Elements converted, first source element and first target element. -/
def vcvtShape (src dst : EType) (g : Nat) : Nat × Nat × Nat :=
  let n := 32768 / max (etBits src) (etBits dst)
  (n, if etBits src < etBits dst then g * n else 0, if etBits dst < etBits src then g * n else 0)

/-- The exact values of `n` source elements from element `a` up. An MXFP4 source takes its scale bytes from VA + 1. -/
def Engine.cvtVals (x : Engine) (src : EType) (va a n : Nat) : List FV :=
  let w := etBits src
  let v := x.vreg va
  let sc := x.vreg (va + 1)
  (List.range n).map fun i =>
    let k := a + i
    let code := (v >>> (k * w)) % 2 ^ w
    if src = .fmt .mxfp4 then mxVal ((sc >>> (8 * (k / 32))) % 256) code else elemVal src code

/-- Blocks of 32. -/
def blocks32 : Nat → List FV → List (List FV)
  | 0, _ => []
  | n + 1, l => l.take 32 :: blocks32 n (l.drop 32)

/-- MXFP4 encoding of values, with inv_s_y = 1.0 (R60): scale bytes and element codes. A value is rounded to FP32 first,
which changes INT32 sources only; every element of a block counts for its scale, whatever the predicate enables
(DESIGN CHOICE, log entry 63). -/
def mxBlocks (l : List FV) : List Nat × List Nat :=
  let bs := (blocks32 (l.length / 32) (l.map fun v => dec32 (enc32 v))).map mxEncode
  (bs.map (·.1), bs.flatMap fun b => b.2.map (·.1))

/-- VCVT. -/
def execVcvt (h : Issue) (target : EType) (group : Fin 32) (c : VCommon) (s : State) :
    Host.Outcome State Fault Refusal :=
  let e := h.ne.val
  let q := vcvtShape c.et target group.val
  let mxd := target == .fmt .mxfp4
  wfOr (Instr.wf (.vcvt h target group c)) (issue h .v (.vreg c.va.val :: .preg c.pr.val :: if c.et = .fmt .mxfp4 then [.vreg (c.va.val + 1)] else [])
    (fun s =>
      let x := s.eng e
      worst [x.needV c.va.val, if c.et = .fmt .mxfp4 then x.needV (c.va.val + 1) else none, x.needP c.pr.val,
        x.order 4 (.vreg c.vd.val) allV, if mxd then x.order 4 (.vreg (c.vd.val + 1)) allV else none])
    (fun s => s.modEng e fun x =>
      let pr := x.preg c.pr.val
      let vals := x.cvtVals c.et c.va.val q.2.1 q.1
      if mxd then
        let b := mxBlocks vals
        (x.putV 4 c.vd.val pr 4 q.2.2 c.zm b.2).putV 4 (c.vd.val + 1) pr 8 (q.2.2 / 32) c.zm b.1
      else
        x.putV 4 c.vd.val pr (etBits target) q.2.2 c.zm
          (if c.et = .fmt .mxfp4 then vals.map (convVal target c.ovf)
           else ((List.range q.1).map fun i =>
             convElem c.et target c.ovf ((x.vreg c.va.val >>> ((q.2.1 + i) * etBits c.et)) % 2 ^ etBits c.et)))) s)

/-! ### Functions, reductions and lanes -/

/-- Latency of VFN (Table 5.8). -/
def vfnLat : TFn → Nat
  | .rcp | .rsqrt => 8
  | .exp2 | .log2 | .tanh => 12
  | .sigmoid => 24
  | .silu => 28
  | .gelu => 32

/-- VFN. -/
def execVfn (h : Issue) (fn : TFn) (c : VCommon) (s : State) : Host.Outcome State Fault Refusal :=
  let e := h.ne.val
  wfOr (Instr.wf (.vfn h fn c)) (issue h .v [.vreg c.va.val, .preg c.pr.val] (vecChk e (vfnLat fn) [c.va] c.pr c.vd.val)
    (fun s => s.modEng e fun x =>
      x.putV (vfnLat fn) c.vd.val (x.preg c.pr.val) 32 0 c.zm ((x.elems 32 c.va.val).map (vfnElem fn c.ovf))) s)

/-- One level of the binary tree of a sum. -/
def treeLevel (f : Nat → Nat → Nat) : List Nat → List Nat
  | a :: b :: t => f a b :: treeLevel f t
  | l => l

/-- The tree of 2^n values. -/
def treeSum (f : Nat → Nat → Nat) : Nat → List Nat → Nat
  | 0, l => l.headD 0
  | n + 1, l => treeSum f n (treeLevel f l)

/-- Whether lane value `a` is beaten by `b`: strictly greater, or strictly less; −0 is less than +0, as for VOP2's MIN and MAX
(R134) (DESIGN CHOICE, log entry 91). -/
def beats (fp max : Bool) (a b : Nat) : Bool :=
  if fp then (if max then FV.lt true (dec32 a) (dec32 b) else FV.lt true (dec32 b) (dec32 a))
  else (if max then decide (sx 32 a < sx 32 b) else decide (sx 32 b < sx 32 a))

/-- The extremal lane among eligible lanes, ties to the lowest lane. -/
def extreme (fp max : Bool) : List (Nat × Nat) → Option (Nat × Nat)
  | [] => none
  | p :: t =>
    match extreme fp max t with
    | none => some p
    | some q => if beats fp max p.2 q.2 then some q else some p

/-- Index and value of one segment's reduction: lanes with their enable bits (R136). Each addition of a float sum follows
OVF (R134). -/
def reduceSeg (op : RedOp) (fp ovf : Bool) (l : List (Nat × Bool)) : Nat × Nat :=
  let max := op == .max || op == .argmax
  let ok (p : Nat × Bool) : Bool := p.2 && !(fp && decide (dec32 p.1 = FV.nan))
  let el := ((List.range l.length).zip l).filterMap fun p => if ok p.2 then some (p.1, p.2.1) else none
  match op with
  | .sum =>
    if fp then (0, treeSum (fun a b => Flt.f32.enc ovf ((dec32 a).add (dec32 b))) (Nat.log2 l.length) (l.map fun p => if p.2 then p.1 else 0))
    else
      let t : Int := (l.map fun p => if p.2 then sx 32 p.1 else 0).sum
      (0, lowBits 32 (clampI (-2147483648) 2147483647 t))
  | _ =>
    match extreme fp max el with
    | some q => q
    | none => (0xFFFFFFFF, if fp then 0x7FC00000 else if max then 0x80000000 else 0x7FFFFFFF)

/-- Segment size for a FUNCT[5:4] code. -/
def segSize (segs : Nat) : Nat := 1024 / 4 ^ segs

/-- VRED: the result of segment s goes to lane s of VD; ARGMAX and ARGMIN write the index there and the value to VC. -/
def execVred (h : Issue) (op : RedOp) (segs : Fin 4) (c : VCommon) (s : State) : Host.Outcome State Fault Refusal :=
  let e := h.ne.val
  let arg := op == .argmax || op == .argmin
  let sz := segSize segs.val
  let m := maskAt 0 (32 * (1024 / sz))
  wfOr (Instr.wf (.vred h op segs c)) (issue h .v [.vreg c.va.val, .preg c.pr.val]
    (fun s =>
      let x := s.eng e
      worst [x.needV c.va.val, x.needP c.pr.val, x.order 10 (.vreg c.vd.val) m,
        if arg then x.order 10 (.vreg c.vc.val) m else none])
    (fun s => s.modEng e fun x =>
      let lanes := (x.elems 32 c.va.val).zip ((List.range 1024).map (enabled (x.preg c.pr.val) 32))
      let rs := (List.range (1024 / sz)).map fun i =>
        reduceSeg op (c.et == .fmt .fp32) c.ovf ((lanes.drop (i * sz)).take sz)
      if arg then (x.put 10 (.vreg c.vd.val) m (pack 32 (rs.map (·.1)))).put 10 (.vreg c.vc.val) m (pack 32 (rs.map (·.2)))
      else x.put 10 (.vreg c.vd.val) m (pack 32 (rs.map (·.2)))) s)

/-- VPERM. -/
def execVperm (h : Issue) (c : VCommon) (s : State) : Host.Outcome State Fault Refusal :=
  let e := h.ne.val
  wfOr (Instr.wf (.vperm h c)) (issue h .v [.vreg c.va.val, .vreg c.vb.val, .preg c.pr.val] (vecChk e 4 [c.va, c.vb] c.pr c.vd.val)
    (fun s => s.modEng e fun x =>
      let v := x.vreg c.va.val
      x.putV 4 c.vd.val (x.preg c.pr.val) 32 0 c.zm
        ((x.elems 32 c.vb.val).map fun k => (v >>> (32 * (k % 1024))) % 2 ^ 32)) s)

/-- VEXT: one lane of VA to a scalar register; not governed by a predicate. -/
def execVext (h : Issue) (sd : Fin 64) (va : Fin 32) (et : EType) (lane : BitVec 10) (s : State) :
    Host.Outcome State Fault Refusal :=
  let e := h.ne.val
  wfOr (Instr.wf (.vext h sd va et lane)) (issue h .v [.vreg va.val]
    (fun s => worst [(s.eng e).needV va.val, (s.eng e).order 3 (.sreg sd.val) allS])
    (fun s => s.modEng e fun x =>
      let v := (x.vreg va.val >>> (32 * lane.toNat)) % 2 ^ 32
      x.put 3 (.sreg sd.val) allS (if et = .int32 then lowBits 64 (sx 32 v) else v)) s)

/-- VBCAST. -/
def execVbcast (h : Issue) (sa : Fin 64) (c : VCommon) (s : State) : Host.Outcome State Fault Refusal :=
  let e := h.ne.val
  let w := etBits c.et
  wfOr (Instr.wf (.vbcast h sa c)) (issue h .v [.sreg sa.val, .preg c.pr.val]
    (fun s =>
      let x := s.eng e
      worst [x.needS sa.val, x.needP c.pr.val, x.order 2 (.vreg c.vd.val) allV])
    (fun s => s.modEng e fun x =>
      x.putV 2 c.vd.val (x.preg c.pr.val) w 0 c.zm (List.replicate (perReg w) (x.sreg sa.val % 2 ^ w))) s)

/-! ### Predicates, window set-up, palette-quantise -/

/-- PLOG functions on predicates other than FIRSTN. -/
def plogFn (fn : PlogFn) (a b : Nat) : Nat :=
  match fn with
  | .and => a &&& b
  | .or => a ||| b
  | .xor => a ^^^ b
  | .andn => a ^^^ (a &&& b)
  | .not => allP ^^^ (allP &&& a)
  | .firstn => 0

/-- PLOG. FIRSTN reads SA and is not governed by the predicate; the other functions read VA and VB. -/
def execPlog (h : Issue) (fn : PlogFn) (pd pa pb pr : Fin 16) (zm : Bool) (sa : Fin 64) (s : State) :
    Host.Outcome State Fault Refusal :=
  let e := h.ne.val
  .next (issue h .v (if fn = .firstn then [.sreg sa.val]
    else .preg pa.val :: .preg pr.val :: if fn = .not then [] else [.preg pb.val])
    (fun s =>
      let x := s.eng e
      worst ((if fn = .firstn then [x.needS sa.val]
        else [x.needP pa.val, if fn = .not then none else x.needP pb.val, x.needP pr.val]) ++
        [x.order 1 (.preg pd.val) allP]))
    (fun s => s.modEng e fun x =>
      if fn = .firstn then x.put 1 (.preg pd.val) allP (2 ^ min (x.sreg sa.val) 1024 - 1)
      else x.putP 1 pd.val (x.preg pr.val) zm (plogFn fn (x.preg pa.val) (x.preg pb.val))) s)

/-- WGCFG (R139, R150). -/
def execWgcfg (h : Issue) (set : Fin 4) (field : BitVec 6) (sa : Fin 64) (s : State) :
    Host.Outcome State Fault Refusal :=
  let e := h.ne.val
  wfOr (Instr.wf (.wgcfg h set field sa)) (issue h .v [.sreg sa.val] (fun s => worst [(s.eng e).needS sa.val])
    (fun s => s.modEng e fun x => x.put 1 (.win set.val field.toNat) (2 ^ 32 - 1) (x.sreg sa.val % 2 ^ 32)) s)

/-- The entries of a palette that a quantisation compares against (R52). -/
def palEntries (p : PalSlot) (sub n : Nat) (cb8 : Bool) : List Nat :=
  (List.range n).map fun i => (p.entries >>> (16 * (if cb8 then i else 16 * sub + i))) % 65536

/-- PQ (R52, R138). -/
def execPq (h : Issue) (vd va gp : Fin 32) (pr : Fin 16) (slot : Fin 64) (sub : BitVec 4) (cb8 : Bool)
    (cntm1 : BitVec 8) (s : State) : Host.Outcome State Fault Refusal :=
  let e := h.ne.val
  wfOr (Instr.wf (.pq h vd va gp pr slot sub cb8 cntm1)) (issue h .v [.vreg va.val, .preg pr.val] (vecChk e 6 [va] pr vd.val)
    (fun s => s.modEng e fun x =>
      let p := x.palView slot.val
      let en := palEntries p sub.toNat (cntm1.toNat + 1) cb8
      let w := if cb8 then 8 else 4
      let en1 := (List.range 1024).map (enabled (x.preg pr.val) 32)
      let codes := (x.elems 32 va.val).map (pqCode p.tag en)
      x.put 6 (.vreg vd.val) (pack w (en1.map fun b => if b then 2 ^ w - 1 else 0) <<< (1024 * w * gp.val))
        (pack w ((codes.zip en1).map fun q => if q.2 then q.1 else 0) <<< (1024 * w * gp.val))) s)

end Sys2Proof.Machine
end

