-- ==== Sys2Proof/Machine/Drain.lean ====
section
/-! DEFINITION. The drain of one ACM row: the command DRN (R55 to R61, R81, R85, R105, R137, R167, R169). -/

namespace Sys2Proof.Machine

open Sys2Proof

/-! ### The row -/

/-- Outputs of a row: 128 for INT64, else 256 (R137) (DEDUCED, log entry 59). -/
def AcmRow.outs (r : AcmRow) : Nat := if r.fmt = .i64 then 128 else 256

/-- Whether a vector that enters in the present cycle updates a row (DEDUCED, log entry 40). -/
def CanvasOp.entersNow (o : CanvasOp) (row : Nat) : Bool :=
  if o.step < o.steps ∧ o.k ≠ 0 ∧ o.lag = 0 then
    match o.at o.step with
    | (j, _, .stream p q) => (o.vectors q).any fun v => (o.rowsOf j p v).contains row
    | _ => false
  else false

/-- Whether a row is owed (R105) or in flight (R85). In ring mode a row is in flight for the first vector of an instruction
that accumulates into it, which finds it tagged (DEDUCED, log entry 40). -/
def Engine.rowBusy (x : Engine) (row : Nat) : Bool :=
  let first (ring : Bool) : Bool := !ring || (x.acmRow row).tag != 0
  (x.ops.any fun o => o.owes row x.cyc || (first o.cw.ring && o.entersNow row)) ||
  x.rows.any fun w => w.row == row && first w.ring && decide (w.due ≤ x.cyc + 263 ∧ x.cyc ≤ w.due)

/-- Hazards of the read of a row (sub-codes 0x0001 and 0x0007). -/
def Engine.rowBad (x : Engine) (ring : Bool) (row : Nat) : List (Option AccErr) :=
  [if x.rowBusy row then hazard 1 row else none,
   if ring && !(x.acmRow row).undr then hazard 7 row else none]

/-- A ring-mode read clears the undrained bit (R81). -/
def Engine.drained (x : Engine) (ring : Bool) (row : Nat) : Engine :=
  if ring then { x with acm := minsert row { x.acmRow row with undr := false } x.acm } else x

/-! ### One output (R56 to R61) -/

/-- A channel record (Table 2.9). -/
structure ChRec where
  scale : Nat
  bias  : Nat
  wsum  : Int
deriving DecidableEq, Repr

def parseCh (bs : List Byte) (i : Nat) : ChRec :=
  ⟨fieldAt bs (16 * i) 4, fieldAt bs (16 * i + 4) 4, s32At bs (16 * i + 8)⟩

/-- Steps 1 to 3 of R56 for the accumulator entry `a`, given as its bits. -/
def drainV (b : LayerBlk) (f : AccFmt) (c : ChRec) (a : Nat) : Nat :=
  let x := match f with
    | .i32 => enc32 (FV.ofInt false (sx 32 a - b.zx * c.wsum) 0)
    | .i64 => enc32 (FV.ofInt false (sx 64 a - b.zx * c.wsum) 0)
    | .f32 => a
  activate b.act b.arg0 b.arg1 (ffma x c.scale c.bias)

/-- An output: its code in the target format, and what the monitor sees of it. -/
structure DrainOut where
  code : Nat
  stat : OutStat
deriving DecidableEq, Repr

/-- Latency by activation (Table 5.8). -/
def drnLat (act : Nat) : Nat :=
  if act = 4 then 32 else if act = 5 then 20 else if act = 6 then 36 else if act = 7 then 40 else 8

/-- Outputs of one MXFP4 block (R60) with their scale byte. -/
def drainBlock (b : LayerBlk) (vs : List (Nat × Bool)) : Nat × List DrainOut :=
  let ws := vs.map fun v => dec32 (fmul v.1 b.invS)
  let e := mxEncode ws
  (e.1, (e.2.zip (ws.zip vs)).map fun p =>
    let scaled := match p.2.1 with
      | .fin s m k => FV.fin s m (k - ((e.1 : Int) - 127))
      | v => v
    let head := e.1 != 255 && headroom (.fin false 6 0) b.guardB scaled
    ⟨p.1.1, ⟨p.1.2 || p.2.2.2, head, decide (dec32 p.2.2.1 = FV.nan)⟩⟩)

/-- Blocks of a row in order. -/
def drainBlocks (b : LayerBlk) : Nat → List (Nat × Bool) → List (Nat × List DrainOut)
  | 0, _ => []
  | n + 1, l => drainBlock b (l.take 32) :: drainBlocks b n (l.drop 32)

/-- One output for any other target (R58, R59, R61). -/
def drainOut (b : LayerBlk) (pal : PalSlot) (v : Nat × Bool) : DrainOut :=
  let nan := decide (dec32 v.1 = FV.nan)
  match fmtOfCode b.tfmt with
  | some .cb4 => ⟨pqCode pal.tag (palEntries pal b.psub b.pcnt false) (fmul v.1 b.invS), ⟨v.2, false, nan⟩⟩
  | some .cb8 => ⟨pqCode pal.tag (palEntries pal 0 b.pcnt true) (fmul v.1 b.invS), ⟨v.2, false, nan⟩⟩
  | _ =>
    let r := requant b v.1
    ⟨r.code, ⟨r.sat || v.2, r.head, nan⟩⟩

/-! ### The command -/

/-- Place of the layer parameter section: address, blocks, channel records. An image without one holds no such DRN
(R166). -/
def State.layerSecD (s : State) (e : Nat) : Nat × Nat × Nat := (s.layerSec e).getD ((s.eng e).pa e 0, 0, 0)

/-- First channel record of a drain: the low 16 bits of CHR. -/
def Engine.chb (x : Engine) (chr : Nat) : Nat := x.sreg chr % 65536

/-- Address and length of a drain's parameter reads: its block and its channel records. -/
def State.blockAt (s : State) (e lpi : Nat) : Nat := (s.layerSecD e).1 + 64 + 128 * lpi
def State.recsAt (s : State) (e chb : Nat) : Nat := (s.layerSecD e).1 + 64 + 128 * (s.layerSecD e).2.1 + 16 * chb

/-- The block of a drain as it stands in the task region. -/
def State.drainBlk (s : State) (e lpi : Nat) : LayerBlk := parseLayer (s.bytes (s.blockAt e lpi) 128)

/-- Bits per output of a target. -/
def tgtBits (b : LayerBlk) : Nat :=
  match fmtOfCode b.tfmt with
  | some f => fmtBits f
  | none => 8

/-- Checks of a drain with RAW = 0. -/
def drnChk (e vd pos chr lpi row : Nat) (s : State) : List (Option AccErr) :=
  let x := s.eng e
  let b := s.drainBlk e lpi
  let q := (x.acmRow row).outs
  let chb := x.chb chr
  let w := tgtBits b
  let mx := b.tfmt == fmtCode .mxfp4
  let task := sliceBase e + x.tbase
  [if (s.layerSecD e).2.2 < chb + q then some ⟨stBound, 6, chb + q - 1⟩ else none,
   x.storeHazard (s.blockAt e lpi) 128 (s.blockAt e lpi - task),
   x.storeHazard (s.recsAt e chb) (16 * q) (s.recsAt e chb - task),
   x.order (drnLat b.act) (.vreg vd) (maskAt (w * q * pos) (w * q)),
   if mx then x.order (drnLat b.act) (.vreg (vd + 1)) (maskAt (q * pos / 4) (q / 4)) else none]

/-- Whether the drains of a block write a scale plane. -/
def State.drnMx (s : State) (e lpi : Nat) : Bool := (s.drainBlk e lpi).tfmt == fmtCode .mxfp4

/-- Whether output `j` of a drain is a padding position of an MXFP4 row: it lies past the layer's last channel, within that
channel's block of 32 (R39) (DESIGN CHOICE, log entry 63). -/
def padLane (b : LayerBlk) (chb j : Nat) : Bool :=
  let c := chb + j - b.ch0
  decide (b.ch0 ≤ chb + j ∧ b.nch ≤ c ∧ c < 32 * ceilDiv b.nch 32)

/-- A result owed by the drain; a fault found in its parameters goes with it. -/
def Engine.oweV (x : Engine) (lat vd pos n val : Nat) (f : Option FaultRec) : Engine :=
  { x with pend := x.pend ++ [{
      iss := x.cyc, due := x.cyc + lat, dest := .vreg vd, mask := maskAt pos n &&& allV, val := val <<< pos, fault := f }] }

/-- The effect of a drain with RAW = 0. -/
def State.drain (s : State) (e vd pos : Nat) (ring : Bool) (chr lpi row : Nat) : State :=
  let x := s.eng e
  let r := x.acmRow row
  let q := r.outs
  let chb := x.chb chr
  let s' := s.setEng e { x with reads := x.reads ++ [(s.blockAt e lpi, 128), (s.recsAt e chb, 16 * q)] }
  match (s.ownRead (s.blockAt e lpi) 128).1, (s.ownRead (s.recsAt e chb) (16 * q)).1 with
  | .ok blk, .ok recs =>
    let b := parseLayer blk
    let wd := if r.fmt = .i64 then 64 else 32
    let sat := r.satBits
    let vs := ((unpack wd q (x.rowData r)).zip (List.range q)).map fun p =>
      (drainV b r.fmt (parseCh recs p.2) p.1, sat / 2 ^ (if wd = 64 then 2 * p.2 else p.2) % 2 == 1)
    let lat := drnLat b.act
    let w := tgtBits b
    let mx := b.tfmt == fmtCode .mxfp4
    let bl := if mx then drainBlocks b (q / 32) ((vs.zip (List.range q)).map fun p =>
      if padLane b chb p.2 then (0, false) else p.1) else []
    let outs := if mx then ((bl.flatMap (·.2)).zip (List.range q)).map fun p =>
        if padLane b chb p.2 then { p.1 with code := 0 } else p.1
      else vs.map (drainOut b (x.palView b.pslot))
    let counted := ((outs.zip (List.range q)).filter fun o =>
      decide (b.ch0 ≤ chb + o.2 ∧ chb + o.2 < b.ch0 + b.nch)).map fun o => o.1.stat
    s'.modEng e fun x =>
      let x := ((x.drained ring row).count lpi counted).oweV lat vd (w * q * pos) (w * q) (pack w (outs.map (·.code))) none
      if mx then x.oweV lat (vd + 1) (q * pos / 4) (q / 4) (pack 8 (bl.map (·.1))) none else x
  | _, _ =>
    let b := s.drainBlk e lpi
    s'.modEng e fun x =>
      (x.drained ring row).oweV (drnLat b.act) vd (tgtBits b * q * pos) (tgtBits b * q) 0
        (s.lostRead e 3 [(s.blockAt e lpi, 128), (s.recsAt e chb, 16 * q)])

/-- DRN. -/
def execDrn (h : Issue) (vd : Fin 32) (pos : BitVec 5) (raw ring : Bool) (chr : Fin 64) (lpi : BitVec 10)
    (row : RowSel) (s : State) : Host.Outcome State Fault Refusal :=
  let e := h.ne.val
  wfOr (Instr.wf (.drn h vd pos raw ring chr lpi row)) (issue h .v (.sreg (rnRow row) :: if raw then [] else [.sreg chr.val])
    (fun s =>
      let x := s.eng e
      worst ([x.needS (rnRow row), if raw then none else x.needS chr.val] ++ x.rowBad ring (x.rowSel row) ++
        (if raw then [x.order 8 (.vreg vd.val) (maskAt (8192 * pos.toNat) 8192)]
         else drnChk e vd.val pos.toNat chr.val lpi.toNat (x.rowSel row) s)))
    (fun s =>
      let x := s.eng e
      if raw then
        s.setEng e ((x.drained ring (x.rowSel row)).oweV 8 vd.val (8192 * pos.toNat) 8192
          (x.rowData (x.acmRow (x.rowSel row))) none)
      else s.drain e vd.val pos.toNat ring chr.val lpi.toNat (x.rowSel row)) s)

end Sys2Proof.Machine
end

