-- ==== Sys2Proof/Machine/RegBus.lean ====
section
/-! DEFINITION. The set-up register bridge: REGISTER_WRITE (R8, R18, R250, R447 to R450). A register that has a row of its own
is routed to that row's effect. -/

namespace Sys2Proof.Machine

open Sys2Proof

/-! ### Fields by access type (R8) -/

/-- A register's stored value after a write of one field. -/
def Field.write (f : Field) (old v : Nat) : Nat :=
  match f.typ with
  | .rw => setBits old f.hi f.lo (bits v f.hi f.lo)
  | .w1s => setBits old f.hi f.lo (bits old f.hi f.lo ||| bits v f.hi f.lo)
  | .w1c => setBits old f.hi f.lo (bits old f.hi f.lo &&& (2 ^ (f.hi + 1 - f.lo) - 1 - bits v f.hi f.lo))
  | .ro | .wo => old

/-- A write of the fields below a number of bits that no lock holds: those whose lowest bit `free` admits. -/
def writeFields (old v : Nat) (free : Nat → Bool) : List Field → Nat
  | [] => old
  | f :: t => writeFields (if free f.lo then f.write old v else old) v free t

/-- A write of a register by its fields' access types. -/
def State.genWrite (s : State) (r : Reg) (v : Nat) (free : Nat → Bool) : State :=
  s.rset r (writeFields (s.rget r) v free r.fields)

/-! ### Locks (R449) -/

/-- Whether software configuration fields of a register that has no EN of its own are locked (Table 19.1). The code USE stands beside
the DMC registers at 0x0000 to 0x0028 and the hash masks in Table 19.2 (DEDUCED, log entry 75); TIME_SRV_THR is locked by R377, though
the table's code for TIME is — (DESIGN CHOICE, log entry 75). -/
def State.unitOn (s : State) : Reg → Bool
  | .sqBase q | .sqDb q | .sqPollR q => s.sqEn q
  | .cqBase c | .cqDb c | .cqTmr c => s.cqEn c
  | .ethRxring p | .ethTxring p | .ethTslat p => s.fget (.ethCfg p) 31 31 == 1
  | .timeSrvThr => s.fget .timeSrvCtl 31 31 == 1
  | .taqBase k | .taqFence k => s.fget (.taqCfg k) 31 31 == 1
  | .canNbt c | .canDbt c => s.fget (.canCtl c) 31 31 == 1
  | .usbEpRing n => s.fget (.usbEpCfg n) 31 31 == 1
  | .frBase r | .frCfg r | .frRec r | .frFence r => (s.ring r).state != 0
  | .sdmaCfg c => (mget (fun _ => ({} : Sdma)) s.sdmas c).cur.isSome
  | .dmcHash _ | .dmcCfg | .dmcTrainCtl | .dmcTrainStatus | .dmcFill | .dmcScrub | .dmcEccInj => s.ddrUsed
  | .csiStCfg n => s.fget (.srcCtl 0 n) 31 31 == 1
  | .cxpCamCfg n => s.fget (.srcCtl 1 n) 31 31 == 1
  | .lfcCfg n | .lfcGeom n | .lfcTbase0 n | .lfcTbase1 n | .lfcLst n => s.fget (.srcCtl 2 n) 31 31 == 1
  | .ippCxIn i n => s.fget (.srcCtl (3 + i) n) 31 31 == 1
  | _ => false

/-- The fields that a lock does not hold: shadowed fields stay writable (R352, R355). -/
def State.fieldFree (s : State) (r : Reg) (lo : Nat) : Bool :=
  !s.unitOn r || (match r with
    | .lfcCfg _ => decide (12 ≤ lo ∧ lo < 30)
    | .ippCxIn _ _ => lo == 0
    | .sdmaCfg _ => lo == 0
    | _ => false)

/-- Whether a lock holds every field of a register: a write is then discarded without any count, whatever its world (R405,
R449). -/
def State.allLocked (s : State) (r : Reg) : Bool :=
  s.unitOn r && r.fields.all fun f => !s.fieldFree r f.lo

/-! ### Registers with an enable whose fields it locks -/

/-- A write of a register with EN in bit 31: its other fields are taken while EN is 0, and those of `live` always; the enable
fails where `ok` does not admit the fields. -/
def State.enWrite (s : State) (r : Reg) (v : Nat) (live : Nat → Bool) (ok : State → Bool) : State :=
  let on := s.fget r 31 31 == 1
  let s := s.genWrite r v fun lo => lo != 31 && (!on || live lo)
  if bits v 31 31 = 0 then s.fset r 31 31 0 else if on || ok s then s.fset r 31 31 1 else s

/-- Whether a value lies in a stated range. -/
def within (lo hi v : Nat) : Bool := decide (lo ≤ v ∧ v ≤ hi)

/-- A write of a PMC register: a value outside a stated range leaves its field unchanged (R402). -/
def State.pmcWrite (s : State) (r : Reg) (v : Nat) : State :=
  match r with
  | .pmcCapMax => if within 240 800 (bits v 15 0) then ((s.fset r 15 0 (bits v 15 0)).followCap).allocate else s
  | .pmcBoCfg =>
    let s := if within 1640 1780 (bits v 31 16) then s.fset r 31 16 (bits v 31 16) else s
    if within 670 730 (bits v 15 0) then s.fset r 15 0 (bits v 15 0) else s
  | .pmcThermCfg =>
    let s := if within 1 15 (bits v 15 8) then s.fset r 15 8 (bits v 15 8) else s
    if within 60 115 (bits v 7 0) then s.fset r 7 0 (bits v 7 0) else s
  | .pmcCap => s.capWrite (bits v 15 0)
  | .pmcRes => if bits v 31 16 + bits v 15 0 ≤ 112 then s.rset r (v % 2 ^ 32) else s
  | .pmcNePerf e => (s.genWrite r v fun lo => decide (24 ≤ lo) && (lo != 27 || e == 0)).reqnWrite e (bits v 6 0)
  | _ => s.genWrite r v fun _ => true

/-- A write of an engine's counter or Pentimento register. -/
def State.engWrite (s : State) (e : Nat) (f : Engine → Engine) : State := s.modEng e f

/-! ### Writes without a row of their own -/

/-- The producer code of a source's control register. -/
def psrcOf (r : Reg) : Option Nat := rtSources.find? fun p => srcReg p == some r

/-- A write of CPQ_CTX_OP by its OP; other codes do nothing. -/
def State.ctxOpWrite (s : State) (v : Nat) : State :=
  if bits v 17 16 = 1 then s.ctxOp fun s => s.create (bits v 11 0)
  else if bits v 17 16 = 2 then s.ctxOp fun s => s.destroy (bits v 11 0)
  else s

/-- FENCE_PROBE_CTL: an INTERVAL of 0 leaves the field unchanged (Table 12.4); probing turned off drops the further probe, and
turned on it counts ages from now on (R296). -/
def State.probeCtlWrite (s : State) (v : Nat) : State :=
  let on := s.fget .fenceProbeCtl 31 31 == 1
  let s := s.genWrite .fenceProbeCtl v fun lo => lo != 0 || bits v 15 0 != 0
  if bits v 31 31 = 0 then { s with probe := { s.probe with further := false } } else if on then s else s.askAll

/-- GS_WIN_CTL: ERR clears where written as one, then RD, WR, OPEN and CLOSE act. -/
def State.winCtlWrite (s : State) (e w v : Nat) : State :=
  let s := if bits v 4 4 = 1 then s.fset (.gsWinCtl e w) 4 4 0 else s
  s.winCtl e w (bits v 2 2 == 1) (bits v 3 3 == 1) (bits v 0 0 == 1) (bits v 1 1 == 1)

/-- DMC_CFG before USE: MAXSPEED is taken unless it is 3; USE enables DDR5 (R311). -/
def State.dmcCfgWrite (s : State) (v : Nat) : State :=
  let s := if bits v 1 0 ≠ 3 then s.fset .dmcCfg 1 0 (bits v 1 0) else s
  if bits v 31 31 = 1 then s.setUse else s

/-- Cycles that the commands of a context running now have taken so far (R257). -/
def State.engcycNow (s : State) (c : Nat) : Nat :=
  ((List.range 6).map fun e => match (s.eng e).task with
    | some t => if t.ctx = c then (s.eng e).elapsed else 0
    | none => 0).sum

/-- CPQ_CTX_ENGCYC: a write sets the value that a read shows, to which the cycles of running commands go on adding. -/
def State.engcycWrite (s : State) (c v : Nat) : State :=
  s.rset (.ctxEngcyc c) ((v + 2 ^ 64 - s.engcycNow c % 2 ^ 64) % 2 ^ 64)

/-- FR_CTL: ERR bits clear where written as one. -/
def State.frCtlClear (s : State) (r v : Nat) : State := s.genWrite (.frCtl r) v fun lo => lo == 3 || lo == 4

/-- PCIERP_CTL: EN = 0 puts the drive in reset and drops the link (DESIGN CHOICE, log entry 25). -/
def State.rpCtlWrite (s : State) (v : Nat) : State :=
  let s := s.fset .rpCtl 31 31 (bits v 31 31)
  if bits v 31 31 = 0 then { s with pcie := { s.pcie with rpWidth := 0, rpSpeed := 0 } } else s

/-- The effect of a write on a register that no other row gives. -/
def State.regEffect (s : State) (r : Reg) (v : Nat) : State :=
  match r with
  | .cpqKick => s.sqRead (bits v 9 0)
  | .cpqCtxOp => s.ctxOpWrite v
  | .fenceProbeCtl => s.probeCtlWrite v
  | .timeSrvCtl => s.srvCtlWrite v
  | .encCfg e => s.encCfgWrite e v
  | .taqCfg k => s.taqCfgWrite k v
  | .ethCfg _ => s.enWrite r v (fun _ => false) fun t => t.fget r 29 28 != 3
  | .csiPortCfg _ => s.enWrite r v (fun _ => false) fun t => t.fget r 29 28 != 3
  | .usbEpCfg _ => s.enWrite r v (fun lo => lo == 30) fun t => t.fget r 29 28 != 3
  | .canCtl c =>
    let t := s.enWrite r v (fun _ => false) fun _ => true
    if s.fget r 31 31 = 0 ∧ bits v 31 31 = 1 then t.canErrors c 0 0 else t
  | .srcCtl _ _ => match psrcOf r with
    | some p => s.srcCtlWrite p v
    | none => s
  | .cdcCtl u k => s.cdcCtlWrite u k v
  | .gsWinBase e w | .gsWinSize e w => s.winSet e w r v
  | .gsWinCtl e w => s.winCtlWrite e w v
  | .gsBistCtl => if bits v 8 8 = 1 then s.bistStart (bits v 7 0) else s.fset .gsBistCtl 7 0 (bits v 7 0)
  | .gsEccInj => s.eccInj (bits v 6 4) (bits v 1 0) (bits v 8 8 == 1)
  | .dmcEccInj => s.ddrInj (bits v 5 4) (bits v 1 0) (bits v 8 8 == 1)
  | .dmcCfg => s.dmcCfgWrite v
  | .dmcTrainCtl => s.trainCtlWrite v
  | .ctxEngcyc c => s.engcycWrite c v
  | .hclRst => s.hclWrite v
  | .rpCtl => s.rpCtlWrite v
  | .rpCfg => s.rpCfgWrite v
  | .msixCtl _ => (s.genWrite r v fun _ => true).msixFlush
  | .neCtl e => (if bits v 1 1 = 1 then s.engAbort e else s).fset r 0 0 (bits v 0 0)
  | .neCyc e => s.engWrite e fun x => { x with neCyc := v }
  | .neStallBank e => s.engWrite e fun x => { x with stBank := v }
  | .neStallRemote e => s.engWrite e fun x => { x with stRemote := v }
  | .neStallWait e => s.engWrite e fun x => { x with stWait := v }
  | .neStallPwr e => s.engWrite e fun x => { x with stPwr := v }
  | .neHmonCnt e => s.engWrite e fun x => { x with hmon := v }
  | .cvsLoadcyc e => s.engWrite e fun x => { x with loadCyc := v }
  | .cvsStrmcyc e => s.engWrite e fun x => { x with strmCyc := v }
  | .cvsMacs e => s.engWrite e fun x => { x with macs := v }
  | .pntCtl _ => s.genWrite r v fun lo => lo != 0 || bits v 1 0 != 3
  | .gsPfCtl => (s.genWrite r v fun lo => lo != 8 || within 1 64 (bits v 14 8)).freeTrackers
  | .dmcPanicLvl c =>
    if bits v 24 16 < bits v 8 0 ∧ bits v 8 0 ≤ 256 then (s.genWrite r v fun _ => true).panicLevel c else s
  | .pntReruns e => s.engWrite e fun x => { x with pntRe := v }
  | .pntRefused e => s.engWrite e fun x => { x with pntRefused := v }
  | _ => if r.block = 2 then s.pmcWrite r v else s.genWrite r v (s.fieldFree r)

/-! ### Routing -/

/-- PMT_INSTALL by its OP (Table 11.8); 0, 6 and 7 start nothing, and set OVERRUN while BUSY as any write does (R272). -/
def pmtRoute (w : World) (op : Nat) (s : State) : Host.Outcome State Fault Refusal :=
  if op = 1 then execPmtInstall w s
  else if op = 2 then execPmtRemove w s
  else if op = 3 then execPmtRemoveForce w s
  else if op = 4 then execPmtLookup w s
  else if op = 5 then execPmtRead w s
  else .next (s.regOp w Reg.pmtInstallR.addr true fun s => if s.pmtOp.isSome then s.fset .pmtResult 30 30 1 else s)

/-- FR_PORT_OP: REL in bit 14, ACQ in bit 13 (ignored with REL), ROLE in bit 12, PORT in bits 10 to 8. -/
def frPortRoute (w : World) (r v : Nat) (s : State) : Host.Outcome State Fault Refusal :=
  let role := if bits v 12 12 = 1 then Role.producer else Role.consumer
  if bits v 14 14 = 1 then execFrPortRelease w (Fin.ofNat 64 r) role (Fin.ofNat 8 (bits v 10 8)) s
  else if bits v 13 13 = 1 then execFrPortAcquire w (Fin.ofNat 64 r) role (Fin.ofNat 8 (bits v 10 8)) s
  else .next s

/-- A write of FR_CTL. -/
def frCtlRoute (w : World) (r v : Nat) (s : State) : Host.Outcome State Fault Refusal :=
  let s := if s.regOpen w (Reg.frCtl r).addr true then s.frCtlClear r v else s
  if bits v 0 0 = 1 then execRingEnable w (Fin.ofNat 64 r) s else execRingDisable w (Fin.ofNat 64 r) s

/-- A write of one register with its own width. -/
def writeReg (w : World) (ep : Endpoint) (r : Reg) (v : Nat) (s : State) : Host.Outcome State Fault Refusal :=
  match r with
  | .cpqInit => execContextModeSelect w (BitVec.ofNat 2 v) s
  | .sqCfg q => execQueueEnWrite w false (Fin.ofNat 1024 q) (BitVec.ofNat 32 v) s
  | .cqCfg q => execQueueEnWrite w true (Fin.ofNat 1024 q) (BitVec.ofNat 32 v) s
  | .pmtInstallR => pmtRoute w (bits v 2 0) s
  | .mbxCfg k => execMbxEnable w (Fin.ofNat 24 k) (BitVec.ofNat 64 v) s
  | .mbxPushR k => execMbxPush w ep (Fin.ofNat 24 k) (BitVec.ofNat 64 v) s
  | .mbxStat k | .mbxLost k | .mbxBadsrc k => .next (s.mbxOp w k r.addr true fun s => s.genWrite r v fun _ => true)
  | .mbxPopR k => .next (s.mbxOp w k r.addr true fun s => s)
  | .fencePortSigR p => execFencePortSig w (Fin.ofNat 64 p) (BitVec.ofNat 64 v) s
  | .fencePortAttrR p => execFencePortAttr w (Fin.ofNat 64 p) (BitVec.ofNat 64 v) s
  | .fenceCtxRangeR c => execFenceCtxRange w (Fin.ofNat 256 c) (BitVec.ofNat 64 v) s
  | .timeStepR => execTimeStep w (BitVec.ofNat 64 v) s
  | .timeFreq => execTimeFreqWrite w (BitVec.ofNat 32 v) s
  | .timeSrvOfs => execServoSample w (BitVec.ofNat 64 v) s
  | .encJob e => execRollJobStart w (Fin.ofNat 4 e) (BitVec.ofNat 64 v) s
  | .canTxreqR c => execCanTxreq w (Fin.ofNat 2 c) (BitVec.ofNat 32 v) s
  | .sdmaArmR c => execSdmaChArm w (Fin.ofNat 16 c) (BitVec.ofNat 64 v) s
  | .frCtl k => frCtlRoute w k v s
  | .frPortOp k => frPortRoute w k v s
  | .secRgnBase n => execRegionDescriptorWrite w (Fin.ofNat 64 n) false (BitVec.ofNat 64 v) s
  | .secRgnCfg n => execRegionDescriptorWrite w (Fin.ofNat 64 n) true (BitVec.ofNat 64 v) s
  | .secBlkworld => execSecBlkworldWrite w (BitVec.ofNat 64 v) s
  | .secLock => if v % 2 = 1 then execSecLockBlk w s else .next (if s.rget .secLock % 2 = 1 then s else s.regOp w r.addr true fun s => s)
  | .fqCtl e q => if v % 2 = 1 then execQueueCancel w (Fin.ofNat 6 e) (Fin.ofNat 8 q) s else .next (s.regOp w r.addr true fun s => s)
  | .secDbgStat => .next (s.regOp w r.addr true fun s => s)
  | _ => .next (if s.allLocked r then s else s.regOp w r.addr true fun s => s.regEffect r v)

/-- Window 0 places the MSI-X structures at a second place (R250). -/
def aliasOff (ep : Endpoint) (off : Nat) : Nat :=
  if ep = .host ∧ 0x3400000 ≤ off ∧ off < 0x3408100 then off - 0x3400000 + 0x880000 else off

/-- The world of an access: window 0 and the command processors are Gallery, the PMC and the SEC Studio (Table 17.1). -/
def epWorld (ep : Endpoint) (w : World) : World :=
  match ep with
  | .host | .cp0 | .cp1 => .gallery
  | .pmc | .sec => .studio
  | .hc => w

/-- Half of an MSI-X message address: 32-bit writes as the PCI Express Base Specification has them
(DEDUCED, log entry 56). -/
def State.msixHalf (s : State) (off v : Nat) : State :=
  let r := Reg.msixAddr ((off - 0x880000) / 16)
  if off % 16 = 0 then s.fset r 31 0 v else s.fset r 63 32 v

/-- A 32-bit access at an aligned offset: a 64-bit register discards it, but it is counted where the world is refused. -/
def write32 (w : World) (ep : Endpoint) (off v : Nat) (s : State) : Host.Outcome State Fault Refusal :=
  if 0x880000 ≤ off ∧ off < 0x888000 ∧ off % 16 < 8 then .next (s.regOp w off true fun s => s.msixHalf off v)
  else
    match Reg.ofAddr off with
    | some r => if r.width = 32 then writeReg w ep r (v % 2 ^ 32) s else .next (s.regOp w off true fun s => s)
    | none => .next (s.regOp w off true fun s => s)

/-- A 64-bit access at an aligned offset: one 64-bit register, or two 32-bit accesses, the lower first (R447). -/
def write64 (w : World) (ep : Endpoint) (off v : Nat) (s : State) : Host.Outcome State Fault Refusal :=
  match Reg.ofAddr off with
  | some r =>
    if r.width = 64 then writeReg w ep r v s
    else
      match writeReg w ep r (v % 2 ^ 32) s with
      | .next t => write32 w ep (off + 4) (v / 2 ^ 32) t
      | o => o
  | none => write32 w ep (off + 4) (v / 2 ^ 32) s

/-- A write in the space of the set-up registers (DEDUCED, log entry 56). -/
def busWrite (w : World) (ep : Endpoint) (off width v : Nat) (s : State) : Host.Outcome State Fault Refusal :=
  if (width ≠ 32 ∧ width ≠ 64) ∨ off % (width / 8) ≠ 0 then .next s
  else if ep = .host ∧ 0x3000000 ≤ off ∧ off < 0x3400000 then
    (if off % 4096 = 0 then .next (s.regOp w Reg.cpqKick.addr true fun s => s.sqRead ((off - 0x3000000) / 4096)) else .next s)
  else if 0x980000 ≤ off ∧ off < 0xA00000 then
    execApertureWrite w (BitVec.ofNat 19 (off - 0x980000)) (leBytes (width / 8) v) s
  else if width = 64 then write64 w ep (aliasOff ep off) v s
  else write32 w ep (aliasOff ep off) v s

/-- REGISTER_WRITE (R8, R18, R447): a write by an endpoint's master at a device physical address of the register space. The host
has window 0 only while the endpoint is trained (R283), and an application core accesses only while one runs (R388, R394, R451). -/
def execRegisterWrite (w : World) (ep : Endpoint) (addr : Pa) (width : Nat) (v : W64) (s : State) :
    Host.Outcome State Fault Refusal :=
  if s.held = true ∨ (ep = .host ∧ s.pcie.width = 0) ∨ (ep = .hc ∧ s.hcRunning = false) ∨ addr.toNat < regsBase ∨ regsBase + 0x10000000 ≤ addr.toNat then .next s
  else busWrite (epWorld ep w) ep (addr.toNat - regsBase) width (v.toNat % 2 ^ min width 64) s

end Sys2Proof.Machine
end

