-- ==== Sys2Proof/Machine/Image.lean ====
section
/-! DEFINITION. Iakaub images: their parts (R111 to R114, R165, R177, R456) and the checks of the loader verifier that need
no path (Table 4.10). A check answers the rejections it finds; the verdict takes the lowest sub-code, then the lowest bundle
and slot. -/

namespace Sys2Proof.Machine

open Sys2Proof

/-- A rejection: sub-code, bundle index, slot (R115). -/
structure Rej where
  sub  : Nat
  idx  : Nat := 0
  slot : Nat := 0
deriving DecidableEq, Repr

/-- A rejection where a check fails. -/
def rejIf (bad : Bool) (sub idx slot : Nat) : List Rej := if bad then [⟨sub, idx, slot⟩] else []

/-- The rejection reported first among those of one sub-code: the lowest bundle, then the lowest slot. -/
def firstRej (sub : Nat) : List Rej → Option Rej
  | [] => none
  | r :: t =>
    match firstRej sub t with
    | none => if r.sub = sub then some r else none
    | some q => if r.sub = sub ∧ r.idx * 4 + r.slot ≤ q.idx * 4 + q.slot then some r else some q

/-- Whether `n` bytes from `off` are zero. -/
def zeros (bs : List Byte) (off n : Nat) : Bool := ((bs.drop off).take n).all (· == 0)

/-! ### Header and sections -/

/-- An entry of the section table (Table 4.8). -/
structure Sect where
  type  : Nat
  off   : Nat
  size  : Nat
  place : Nat
  clean : Bool
deriving DecidableEq, Repr

/-- Table 4.7, check 0x0001. -/
def headerOk (b : List Byte) : Bool :=
  decide (128 ≤ b.length ∧ fieldAt b 0 4 = 0x424B4149 ∧ fieldAt b 4 2 = 1 ∧ fieldAt b 6 2 = 128 ∧ fieldAt b 8 4 < 4 ∧
    fieldAt b 16 8 = b.length) && zeros b 34 2 && zeros b 40 8 && zeros b 80 48

def imgSigned (b : List Byte) : Bool := fieldAt b 8 1 % 2 == 1
def imgScatter (b : List Byte) : Bool := fieldAt b 8 1 / 2 % 2 == 1
def sectOff (b : List Byte) : Nat := fieldAt b 24 8
def sectCount (b : List Byte) : Nat := fieldAt b 12 4
def imgEntry (b : List Byte) : Nat := fieldAt b 36 4

/-- The section table. -/
def sects (b : List Byte) : List Sect :=
  (List.range (min (sectCount b) 8)).map fun i =>
    let e := (b.drop (sectOff b + 32 * i)).take 32
    ⟨fieldAt e 0 2, fieldAt e 8 8, fieldAt e 16 8, fieldAt e 24 8, zeros e 2 6⟩

/-- The section of a type. -/
def sect? (b : List Byte) (t : Nat) : Option Sect := (sects b).find? fun x => x.type == t

/-- The contents of the section of a type; empty where there is none. -/
def sectBody (b : List Byte) (t : Nat) : List Byte :=
  match sect? b t with
  | some x => (b.drop x.off).take x.size
  | none => []

/-- Bytes of a palette record from its head (R114). -/
def palRecLen (b : List Byte) : Nat := 8 + 8 * ceilDiv (fieldAt b 4 2) 4

/-- The palette section cut into records, none where it holds no whole number of them; `n` bounds their number. -/
def palCut : Nat → List Byte → Option (List (List Byte))
  | 0, b => if b.isEmpty then some [] else none
  | n + 1, b =>
    if b.isEmpty then some []
    else if b.length < 8 ∨ b.length < palRecLen b then none
    else (palCut n (b.drop (palRecLen b))).map fun t => b.take (palRecLen b) :: t

/-- The framing of a section (R456) (DEDUCED, log entry 33). -/
def framed (t : Nat) (b : List Byte) : Bool :=
  match t with
  | 1 => decide (16 ≤ b.length ∧ b.length = 16 + 16 * fieldAt b 8 4 + 8 * fieldAt b 12 4)
  | 2 => b.length == 64
  | 3 => b.length % 32 == 0 && decide (32 ≤ b.length ∧ b.length ≤ 32 * 1048576)
  | 5 => (palCut b.length b).isSome
  | 6 => decide (16 ≤ b.length ∧ b.length = 64 * ceilDiv (16 + 32 * fieldAt b 0 4) 64 + 32 * fieldAt b 4 4)
  | 7 => decide (64 ≤ b.length ∧ b.length = 64 + 128 * fieldAt b 0 4 + 16 * fieldAt b 4 4)
  | 8 => b.length == 192
  | _ => true

/-- Sections in increasing order of type and offset, none overlapping the one before it; an empty section may share the
offset of the next (DEDUCED, log entry 33). -/
def sectsRise : List Sect → Bool
  | a :: b :: t => decide (a.type < b.type ∧ a.off + a.size ≤ b.off) && sectsRise (b :: t)
  | _ => true

/-- Types that are placed in the task region (Table 4.8). -/
def placedTypes : List Nat := [3, 4, 6, 7]

/-- Check 0x0003 (DEDUCED, log entry 33). -/
def sectsOk (b : List Byte) : Bool :=
  let n := sectCount b
  let so := sectOff b
  let l := sects b
  decide (5 ≤ n ∧ n ≤ 8 ∧ 128 ≤ so ∧ so + 32 * n ≤ b.length) && sectsRise l &&
  (l.all fun x =>
    decide (1 ≤ x.type ∧ x.type ≤ 8 ∧ x.off % 64 = 0 ∧ 128 ≤ x.off ∧ x.off + x.size ≤ b.length) && x.clean &&
    decide (x.off + x.size ≤ so ∨ so + 32 * n ≤ x.off) && (placedTypes.contains x.type || x.place == 0) &&
    framed x.type (sectBody b x.type)) &&
  ([1, 2, 3, 4, 5].all fun t => (sect? b t).isSome) && (sect? b 8).isSome == imgSigned b

/-- The byte string that DIGEST covers (R111). -/
def digested (b : List Byte) : List Byte :=
  b.take 48 ++ (b.drop (sectOff b)).take (32 * sectCount b) ++
    ((sects b).filter fun x => x.type != 8).flatMap fun x => (b.drop x.off).take x.size

/-- DIGEST. -/
def imgDigest (b : List Byte) : List Byte := (b.drop 48).take 32

/-- Check 0x0004 (R424). -/
def State.sigOk (s : State) (b : List Byte) : Bool :=
  if s.sec.sigReq || imgSigned b then
    let g := sectBody b 8
    let key := (g.drop 64).take 64
    let ks := fieldAt g 0 1
    let h := s.sec.imgKeys.getD ks 0
    decide (g.length = 192 ∧ ks ≤ 3 ∧ 2 ≤ fieldAt g 1 1 ∧ fieldAt g 1 1 ≤ 63 ∧ fieldAt g 2 2 ≤ 64) && zeros g 4 60 &&
    h != 0 && beNat (sha256 key) == h && decide (s.ctr (fieldAt g 1 1) ≤ fieldAt g 2 2) &&
    ecdsaVerify key (g.drop 128) (sha256 (imgDigest b ++ g.take 64))
  else true

/-! ### Resource declaration (Table 4.9) -/

structure Resrc where
  taskMin : Nat
  acmRows : Nat
  fq      : Nat
  bias    : Nat
  pal     : Nat
  eng     : Nat
  rings   : Nat
  fsig    : Nat
  fwait   : Nat
  alts    : Nat
  stores  : Nat
deriving DecidableEq, Repr

def parseRes (b : List Byte) : Resrc where
  taskMin := fieldAt b 0 8
  acmRows := fieldAt b 8 2
  fq := fieldAt b 10 1
  bias := fieldAt b 11 1
  pal := fieldAt b 12 8
  eng := fieldAt b 20 1
  rings := fieldAt b 21 1
  fsig := fieldAt b 22 2
  fwait := fieldAt b 24 2
  alts := fieldAt b 26 2
  stores := fieldAt b 28 4

/-- Check 0x0006, for the engines of a mask. -/
def resOk (b : List Byte) (mask : Nat) : Bool :=
  let d := sectBody b 2
  let r := parseRes d
  decide (r.taskMin ≤ sliceSize ∧ 1 ≤ r.acmRows ∧ r.acmRows ≤ 4096 ∧ r.bias < 16 ∧ r.eng < 64 ∧ r.rings ≤ 8 ∧
    r.alts ≤ 1024 ∧ r.stores ≤ 64) && zeros d 32 32 &&
  (maskList mask).all fun e => r.eng / 2 ^ e % 2 == 1 && (!imgScatter b || decide (4 ≤ e))

/-! ### Timing manifest (R113) -/

/-- A declaration: bundle, slot, field, value, and whether its remaining bytes are zero. -/
structure Decl where
  idx   : Nat
  slot  : Nat
  field : Nat
  val   : Nat
  clean : Bool
deriving DecidableEq, Repr

def parseDecls (d : List Byte) : List Decl :=
  (List.range (fieldAt d 8 4)).map fun i =>
    let e := (d.drop (16 + 16 * i)).take 16
    ⟨fieldAt e 0 4, fieldAt e 4 1, fieldAt e 5 1, fieldAt e 8 4, zeros e 6 2 && zeros e 12 4⟩

/-- Phase entries: value and bundle. -/
def parsePhases (d : List Byte) : List (Nat × Nat) :=
  (List.range (fieldAt d 12 4)).map fun i =>
    let e := (d.drop (16 + 16 * fieldAt d 8 4 + 8 * i)).take 8
    (fieldAt e 0 1, fieldAt e 4 4)

/-! ### Bundles -/

/-- What chapter 5 forbids of a Canvas instruction at decode (R119, R121 to R123, R125, R160); `scat` is the header flag. -/
def cmmDecodes (c : CmmWord) (x : CxWord) (scat : Bool) : Bool :=
  c.sfmt != .fp32 && c.xfmt != .fp32 && !c.xfmt.isCb &&
  (!(c.reuse || c.ring) || (c.ksz.imm?.isSome && c.nsz.imm?.isSome)) &&
  (c.reuse || decide (x.wa.val + planes c.sfmt c.complex ≤ 32)) &&
  (x.xwg || decide (x.xa.val + planes c.xfmt c.complex ≤ 32)) &&
  (!c.scat || (scat && x.xwg && c.nsz.leIfImm 256 && c.sfmt != .int16 && c.xfmt != .int16 &&
    !c.ring && !c.complex && !c.reuse))

/-- The bundle of 32 bytes, or the slot that check 0x0007 rejects. -/
def bundleOf (scat : Bool) (b : List Byte) : Except Nat Bundle :=
  match decodeBundle ⟨0, 0⟩ (fieldAt b 0 8) (fieldAt b 8 8) (fieldAt b 16 8) (fieldAt b 24 8) with
  | .error k => .error k
  | .ok d =>
    match d.c with
    | some (.cmm _ c x) => if cmmDecodes c x scat then .ok d else .error 0
    | _ => .ok d

/-- A byte string cut into `n` bundles. -/
def cut32 : Nat → List Byte → List (List Byte)
  | 0, _ => []
  | n + 1, b => b.take 32 :: cut32 n (b.drop 32)

/-- The bundles of an array, and the rejections of those that do not decode, which stand as empty bundles. -/
def bundlesOf (scat : Bool) (sub base : Nat) (b : List Byte) : Array Bundle × List Rej :=
  let l := (cut32 (b.length / 32) b).map (bundleOf scat)
  ((l.map fun r => match r with
    | .ok d => d
    | .error _ => {}).toArray,
   (l.zip (List.range l.length)).filterMap fun p => match p.1 with
    | .ok _ => none
    | .error k => some ⟨sub, base + p.2, k⟩)

/-- The slots of a bundle in order, with their instructions. -/
def bundleSlots (b : Bundle) : List (Nat × Instr) :=
  [(0, b.c), (1, b.a), (2, b.m), (3, b.v)].filterMap fun p => p.2.map fun i => (p.1, i)

/-! ### Alternate bodies (R177) -/

structure AltBody where
  first  : Nat
  len    : Nat
  cycles : Nat
  lpi    : Nat
  clean  : Bool
deriving DecidableEq, Repr

/-- Offset of the bundle array of an alternate section. -/
def altBundleOff (d : List Byte) : Nat := 64 * ceilDiv (16 + 32 * fieldAt d 0 4) 64

def parseAlts (d : List Byte) : List AltBody :=
  (List.range (fieldAt d 0 4)).map fun k =>
    let e := (d.drop (16 + 32 * k)).take 32
    ⟨fieldAt e 0 4, fieldAt e 4 4, fieldAt e 8 8, fieldAt e 16 2, zeros e 18 14⟩

/-- First index of the bundles of alternate bodies. -/
def altBase : Nat := 0x80000000

/-! ### The program that the verifier sees -/

/-- An image after check 0x0007. -/
structure VProg where
  entry  : Nat
  text   : Array Bundle
  alt    : Array Bundle
  decls  : List Decl
  phases : List (Nat × Nat)
  cycles : Nat
  res    : Resrc
  pals   : List PalRec
  hasLay : Bool
  layers : Array LayerBlk
  bodies : Array AltBody

/-- The bundle of an index. -/
def VProg.bundle (p : VProg) (i : Nat) : Bundle :=
  if i < altBase then p.text.getD i {} else p.alt.getD (i - altBase) {}

/-- The declared value of a register-sourced count; an undeclared count, which check 0x0009 rejects, stands as 1. -/
def VProg.decl (p : VProg) (i slot field : Nat) : Nat :=
  match p.decls.find? fun d => d.idx == i && d.slot == slot && d.field == field with
  | some d => d.val
  | none => 1

/-- A size field under the declared counts. -/
def VProg.size (p : VProg) (i field : Nat) : SizeField → Nat
  | .imm v => v.toNat
  | .reg _ => p.decl i 0 field

/-- The palette record of a slot. -/
def VProg.palRec (p : VProg) (slot : Nat) : Option PalRec := p.pals.find? fun r => r.slot == slot

/-- A palette record from its bytes. -/
def parsePal (b : List Byte) : PalRec :=
  ⟨fieldAt b 0 1, fieldAt b 1 1, (List.range (fieldAt b 4 2)).map fun i => fieldAt b (8 + 2 * i) 2⟩

/-- The image's parts. -/
def parseProg (b : List Byte) : VProg :=
  let m := sectBody b 1
  let l := sectBody b 7
  let a := sectBody b 6
  { entry := imgEntry b
    text := (bundlesOf (imgScatter b) 7 0 (sectBody b 3)).1
    alt := (bundlesOf (imgScatter b) 0xE altBase (a.drop (altBundleOff a))).1
    decls := parseDecls m
    phases := parsePhases m
    cycles := fieldAt m 0 8
    res := parseRes (sectBody b 2)
    pals := ((palCut (sectBody b 5).length (sectBody b 5)).getD []).map parsePal
    hasLay := (sect? b 7).isSome
    layers := ((List.range (fieldAt l 0 4)).map fun j => parseLayer ((l.drop (64 + 128 * j)).take 128)).toArray
    bodies := (parseAlts a).toArray }

/-- A Canvas instruction under the declared counts, as far as its shape goes. For codebook weights the format stands for
any target that pairs with the streaming format: the rate is the same (R42). -/
def VProg.op (p : VProg) (i : Nat) (c : CmmWord) (x : CxWord) : CanvasOp :=
  let k := p.size i 2 c.ksz
  let o : CanvasOp := {
    issue := 0, pc := i, cw := c, cx := x
    sfm := if c.sfmt.isCb then (if c.xfmt.isFp8 || c.xfmt == .fp16 || c.xfmt == .bf16 then c.xfmt else .int8) else c.sfmt
    m := p.size i 1 c.msz, k := k, n := p.size i 3 c.nsz
    ringl := match x.ringl with
      | .imm v => (v.toNat + 1) * 16
      | .reg _ => p.decl i 0 4
    mask := 0, stat := [], strm := [], win := [], oh := 0, ow := 0, step := 0, steps := 8 }
  if k = 0 ∨ o.m = 0 ∨ o.n = 0 then o else { o with steps := o.occupancy }

/-! ### Format use, check 0x0008 -/

/-- The palette records (R456). -/
def palsOk (l : List PalRec) : Bool :=
  (l.all fun r => decide (r.slot ≤ 63 ∧ 1 ≤ r.entries.length ∧ r.entries.length ≤ 256) && [1, 4, 5, 6, 7].contains r.tag) &&
  (l.map (·.slot)).Nodup

/-- Range of an integer target format. -/
def tgtRange (t : Nat) : Option (Int × Int) := (fmtOfCode t).bind fun f => intRange (.fmt f)

/-- A layer parameter block (Table 7.2, R57, R58) (DEDUCED, log entry 34). -/
def blockOk (blks : Array LayerBlk) (raw : List Byte) : Bool :=
  let b := parseLayer raw
  let f := fmtOfCode b.tfmt
  let lo := dec32 b.arg0
  let hi := dec32 b.arg1
  f.isSome && decide (fieldAt raw 28 1 < 32 ∧ fieldAt raw 29 1 < 8 ∧ fieldAt raw 33 1 < 4) && zeros raw 35 1 && zeros raw 89 39 &&
  (match tgtRange b.tfmt with
    | some (l, h) => decide (l ≤ b.qmin ∧ b.qmax ≤ h ∧ b.qmin ≤ b.qmax)
    | none => true) &&
  (if b.act = 2 then decide (lo ≠ .nan ∧ hi ≠ .nan) && !FV.lt false hi lo
   else b.arg1 == 0 && (b.act == 3 || b.arg0 == 0)) &&
  ((tgtRange b.tfmt).isSome || f == some .cb4 || f == some .cb8 || decide (b.guardB ≤ 31)) &&
  (if f = some .cb4 then decide (fieldAt raw 30 1 < 64 ∧ fieldAt raw 31 1 < 16 ∧ 1 ≤ fieldAt raw 32 1 ∧ fieldAt raw 32 1 ≤ 15)
   else if f = some .cb8 then decide (fieldAt raw 30 1 < 64 ∧ 1 ≤ fieldAt raw 32 1) && zeros raw 31 1
   else zeros raw 30 3) &&
  (if b.mmode = 0 then b.dec == 0xFFFFFFFF else true) && (decide (b.mmode < 2) || b.alt != 0xFFFF) &&
  (b.alt == 0xFFFF || (decide (b.altLpi < blks.size) && (blks.getD b.altLpi b).mmode == 0))

/-- The layer parameter section (Table 7.1, R55, R166). -/
def layersOk (d : List Byte) (blks : Array LayerBlk) : Bool :=
  let n := fieldAt d 0 4
  let r := fieldAt d 4 4
  decide (1 ≤ n ∧ n ≤ 1024 ∧ r ≤ 65536 ∧ fieldAt d 8 8 % 64 = 0) && zeros d 17 47 &&
  ((List.range n).all fun j => blockOk blks ((d.drop (64 + 128 * j)).take 128)) &&
  ((List.range r).all fun j => zeros d (64 + 128 * n + 16 * j + 12) 4)

/-- The MXFP4 target of a block or of its ALT_LPI block. -/
def VProg.mxTarget (p : VProg) (b : LayerBlk) : Bool :=
  b.tfmt == fmtCode .mxfp4 || (b.alt != 0xFFFF && (p.layers.getD b.altLpi b).tfmt == fmtCode .mxfp4)

/-- Format use of one instruction, apart from what depends on the path (R42, R48, R49, R80, R137, R166). `want` is the only
block that drains may name. -/
def VProg.fmtBad (p : VProg) (want : Option Nat) : Instr → Bool
  | .cmm _ c x =>
    (if c.sfmt.isCb then c.xfmt == .int16 || c.xfmt == .mxfp4 else !pairOk c.sfmt c.xfmt) ||
    (c.complex && (c.sfmt == .int16 || c.xfmt == .int16)) ||
    (c.sfmt == .cb8 && c.psel && decide (48 < x.pslot.toNat))
  | .drn _ vd _ raw _ _ lpi _ =>
    if raw then false
    else
      match p.layers[lpi.toNat]? with
      | none => true
      | some b => (vd == 31 && p.mxTarget b) || (match want with
        | some w => lpi.toNat != w
        | none => false)
  | _ => false

/-! ### Control structure, check 0x0009 -/

/-- Register-sourced counts of a bundle: slot and field (R113, R121). -/
def bundleCounts (b : Bundle) : List (Nat × Nat) :=
  (match b.c with
    | some (.cmm _ c x) =>
      ([(1, c.msz), (2, c.ksz), (3, c.nsz)].filterMap fun q => match q.2 with
        | .reg _ => some (0, q.1)
        | .imm _ => none) ++
      (match x.ringl with
        | .reg _ => if c.ring then [(0, 4)] else []
        | .imm _ => [])
    | _ => []) ++
  match b.a with
  | some (.loop _ _ (.reg _) _) => [(1, 0)]
  | _ => []

/-- Declarations against the counts of the bundles from index `base` (R113) (DEDUCED, log entry 34). -/
def VProg.declBad (p : VProg) (base : Nat) (a : Array Bundle) : List Rej :=
  ((List.range a.size).flatMap fun j =>
    ((bundleCounts (a.getD j {})).filter fun q =>
      (p.decls.filter fun d => d.idx == base + j && d.slot == q.1 && d.field == q.2).length != 1).map fun q =>
        ⟨9, base + j, q.1⟩)

/-- Declarations that name nothing register-sourced, or are malformed. -/
def VProg.declStray (p : VProg) : List Rej :=
  (p.decls.filter fun d => !d.clean || !(bundleCounts (p.bundle d.idx)).contains (d.slot, d.field)).map fun d => ⟨9, d.idx, d.slot % 4⟩

/-- The loops of an array: bundle, last bundle of the body, level. -/
def loopsOf (a : Array Bundle) : List (Nat × Nat × Nat) :=
  (List.range a.size).filterMap fun j => match (a.getD j {}).a with
    | some (.loop _ lvl _ body) => some (j, j + body.toNat, lvl.val)
    | _ => none

/-- The branches: bundle and target. -/
def branchesOf (a : Array Bundle) : List (Nat × Nat) :=
  (List.range a.size).filterMap fun j => match (a.getD j {}).a with
    | some (.brz _ _ off) => some (j, j + off.toNat)
    | some (.brnz _ _ off) => some (j, j + off.toNat)
    | _ => none

/-- Loop nesting, bodies and branch targets in a region `lo .. hi − 1` of an array (R101). -/
def ctlBad (sub base lo hi : Nat) (a : Array Bundle) : List Rej :=
  let ls := (loopsOf a).filter fun l => decide (lo ≤ l.1 ∧ l.1 < hi)
  let bs := (branchesOf a).filter fun l => decide (lo ≤ l.1 ∧ l.1 < hi)
  (ls.flatMap fun l => rejIf (decide (hi ≤ l.2.1)) sub (base + l.1) 1) ++
  (bs.flatMap fun b => rejIf (decide (hi ≤ b.2)) sub (base + b.1) 1) ++
  (ls.flatMap fun l =>
    (ls.flatMap fun q =>
      rejIf (decide (l.1 < q.1 ∧ q.1 ≤ l.2.1 ∧ (l.2.1 < q.2.1 ∨ l.2.2 ≤ q.2.2))) sub (base + q.1) 1) ++
    bs.flatMap fun b =>
      rejIf (decide (l.1 < b.1 ∧ b.1 ≤ l.2.1) != decide (l.1 < b.2 ∧ b.2 ≤ l.2.1)) sub (base + b.1) 1)

/-! ### ACM bounds, ring and REUSE rules, check 0x000C -/

/-- Immediate sizes beyond ACM, or a breach of the rules of ring mode and REUSE that holds on every path (R70, R81, R82). -/
def VProg.acmRulesBad (p : VProg) (i : Nat) : Instr → Bool
  | .cmm _ c x =>
    let o := p.op i c x
    let wide := c.complex || c.sfmt == .int16 || c.xfmt == .int16
    let one := c.ksz.immLe 256 && c.nsz.immLe 256
    ((c.ring || c.reuse) && (wide || !one)) || (c.ring && c.init == .keep) ||
    (if c.ring then
      (match x.ringl with
        | .imm _ => decide (4096 < x.acmb.toNat + o.ringl)
        | .reg _ => false)
     else
      !c.scat && c.msz.imm?.isSome && c.nsz.imm?.isSome && decide (4096 < x.acmb.toNat + o.footprint))
  | _ => false

/-! ### Resources, check 0x000D -/

/-- Whether a bit of a mask is clear. -/
def clear (m k : Nat) : Bool := m / 2 ^ k % 2 == 0

/-- The palette slots that an instruction uses. -/
def VProg.palUse (p : VProg) : Instr → List Nat
  | .cmm _ c x => if c.sfmt.isCb then palSlots c x else []
  | .palwr _ ps _ _ _ _ => [ps.val]
  | .pq _ _ _ _ _ slot _ _ _ => [slot.val]
  | .drn _ _ _ raw _ _ lpi _ =>
    match p.layers[lpi.toNat]? with
    | some b => if !raw && (b.tfmt == fmtCode .cb4 || b.tfmt == fmtCode .cb8) then [b.pslot] else []
    | none => []
  | _ => []

/-- Whether an immediate offset lies beyond TASK_MIN (DEDUCED, log entry 34). -/
def immBad (imm : W32) (size tmin : Nat) : Bool := decide ((tmin : Int) < imm.toInt + size)

/-- Resources that an instruction uses beyond the declaration. -/
def VProg.resBad (p : VProg) (i : Nat) (ins : Instr) : Bool :=
  ((p.palUse ins).any fun q => clear p.res.pal q) ||
  match ins with
  | .cmm _ c x =>
    let o := p.op i c x
    (match c.init with
      | .bias b => clear p.res.bias b.val
      | _ => false) ||
    (!c.scat && o.m != 0 && o.n != 0 && decide (p.res.acmRows < x.acmb.toNat + o.footprint))
  | .drn _ _ _ _ _ _ _ (.imm row) => decide (p.res.acmRows ≤ row.toNat)
  | .biasld _ bb _ _ => clear p.res.bias bb.val
  | .fqpop _ _ q => clear p.res.fq q.val
  | .racq _ _ rng _ => decide (p.res.rings ≤ rng.val)
  | .rrel _ rng _ => decide (p.res.rings ≤ rng.val)
  | .ld _ _ _ sz _ imm => immBad imm (szBytes sz.val) p.res.taskMin
  | .st _ _ _ sz _ imm => immBad imm (szBytes sz.val) p.res.taskMin
  | .lds _ _ _ imm => immBad imm 8 p.res.taskMin
  | .sts _ _ _ imm => immBad imm 8 p.res.taskMin
  | _ => false

/-- The ranges of the placed sections that hold bytes, in order of type. -/
def placedRanges (b : List Byte) : List (Nat × Nat) :=
  ((sects b).filter fun x => placedTypes.contains x.type && x.size != 0).map fun x => (x.place, x.place + x.size)

/-- Whether two ranges overlap. -/
def meets (a b : Nat × Nat) : Bool := decide (a.1 < b.2 ∧ b.1 < a.2)

/-- Pairs of a list whose members meet. -/
def anyMeet : List (Nat × Nat) → Bool
  | [] => false
  | a :: t => t.any (meets a) || anyMeet t

/-- Placed sections (R92). -/
def placeBad (b : List Byte) (tmin : Nat) : Bool :=
  ((sects b).any fun x => placedTypes.contains x.type && x.place % 64 != 0) ||
  ((placedRanges b).any fun r => decide (tmin < r.2)) || anyMeet (placedRanges b)

/-- Checks of every instruction of a region that need no path; `sub k` is the sub-code reported for check `k`
(DEDUCED, log entry 34). -/
def VProg.static (p : VProg) (sub : Nat → Nat) (want : Option Nat) (base lo hi : Nat) (a : Array Bundle) : List Rej :=
  (List.range (hi - lo)).flatMap fun d =>
    let j := lo + d
    (bundleSlots (a.getD j {})).flatMap fun q =>
      rejIf (p.fmtBad want q.2) (sub 8) (base + j) q.1 ++
      rejIf (p.acmRulesBad (base + j) q.2) (sub 0xC) (base + j) q.1 ++
      rejIf (p.resBad (base + j) q.2) (sub 0xD) (base + j) q.1

/-! ### Alternate bodies and decisions, check 0x000E -/

/-- Permitted alternate targets (Table 7.5). -/
def altTargets : Format → List Format
  | .int4 => [.int8, .int16, .fp16, .bf16, .fp32]
  | .int8 | .uint8 => [.int16, .fp16, .bf16, .fp32]
  | .int16 => [.fp32]
  | .e4m3 => [.e5m2, .fp16, .bf16, .fp32]
  | .e5m2 | .mxfp4 | .cb8 => [.fp16, .bf16, .fp32]
  | .cb4 => [.cb8, .fp16, .bf16, .fp32]
  | .fp16 | .bf16 => [.fp32]
  | .fp32 => []

/-- Whether an alternate target is permitted. -/
def altFmtOk (a b : Nat) : Bool :=
  match fmtOfCode a, fmtOfCode b with
  | some f, some g => (altTargets f).contains g
  | _, _ => false

/-- Instructions that no alternate body holds (R178). -/
def altBanned : Instr → Bool
  | .fwait .. | .fsig .. | .racq .. | .rrel .. | .fqpop .. | .rst .. | .phase .. | .end_ .. => true
  | _ => false

/-- The alternate section and its directory (R177). -/
def altDirBad (b : List Byte) (p : VProg) : Bool :=
  let d := sectBody b 6
  if (sect? b 6).isNone then p.res.alts != 0
  else
    !decide (1 ≤ fieldAt d 0 4 ∧ fieldAt d 0 4 ≤ 1024 ∧ fieldAt d 0 4 = p.res.alts ∧ 1 ≤ fieldAt d 4 4 ∧
      fieldAt d 4 4 ≤ 1048576) || !zeros d 8 8 ||
    (List.range p.bodies.size).any fun k =>
      match p.bodies[k]? with
      | none => false
      | some e => !e.clean || !decide (1 ≤ e.len ∧ e.len ≤ 1048576 ∧ e.first + e.len ≤ fieldAt d 4 4) ||
        (match p.layers[e.lpi]? with
          | some l => l.alt != k
          | none => true)

/-- The blocks' alternates and decision bundles (R171, R176). -/
def VProg.decBad (p : VProg) : List Rej :=
  let ls := loopsOf p.text
  (List.range p.layers.size).flatMap fun j =>
    match p.layers[j]? with
    | none => []
    | some b =>
      rejIf (b.alt != 0xFFFF && !(match p.bodies[b.alt]? with
        | some e => e.lpi == j && altFmtOk b.tfmt ((p.layers.getD b.altLpi b).tfmt)
        | none => false)) 0xE 0 0 ++
      rejIf (b.mmode != 0 && (decide (p.text.size ≤ b.dec) ||
        ls.any (fun l => decide (l.1 < b.dec ∧ b.dec ≤ l.2.1)) ||
        (List.range j).any fun k => match p.layers[k]? with
          | some c => c.mmode != 0 && c.dec == b.dec
          | none => false)) 0xE b.dec 0

/-- The pentimento records (R174). -/
def precBad (b : List Byte) (p : VProg) : Bool :=
  let o := fieldAt (sectBody b 7) 8 8
  let r := (o, o + 16 * p.layers.size)
  p.hasLay && (decide (p.res.taskMin < r.2) || (placedRanges b).any (meets r))

/-- The code of an alternate body apart from its paths (DEDUCED, log entry 34). -/
def VProg.altStatic (p : VProg) : List Rej :=
  p.bodies.toList.flatMap fun e =>
    let hi := e.first + e.len
    let want := (p.layers[e.lpi]?).map (·.altLpi)
    p.static (fun _ => 0xE) want altBase e.first hi p.alt ++ ctlBad 0xE altBase e.first hi p.alt ++
    (List.range e.len).flatMap fun d =>
      (bundleSlots (p.alt.getD (e.first + d) {})).flatMap fun q => rejIf (altBanned q.2) 0xE (altBase + e.first + d) q.1

end Sys2Proof.Machine
end

