-- ==== Sys2Proof/Machine/Verify.lean ====
section
/-! DEFINITION. The loader verifier: the paths of a program under the declared counts (R49, R53, R82, R85, R97, R113, R116,
R120, R171, R178, R179) and the verdict (R115, Table 4.10). -/

namespace Sys2Proof.Machine

open Sys2Proof

/-! ### What an instruction reads and writes -/

/-- Keys of the results that the verifier follows: scalar, vector and predicate registers, bias buffers, palette slots. -/
def kS (r : Nat) : Nat := r
def kV (r : Nat) : Nat := 64 + r
def kP (r : Nat) : Nat := 96 + r
def kB (r : Nat) : Nat := 112 + r
def kQ (r : Nat) : Nat := 128 + r

/-- Registers that an instruction reads at issue, and its results with their latencies (R90, Table 5.8). -/
structure Uses where
  rd : List Nat := []
  wr : List (Nat × Nat) := []

/-- A vector instruction of the common layout. -/
def usesV (srcs : List (Fin 32)) (pr : Fin 16) (wr : List (Nat × Nat)) : Uses :=
  ⟨srcs.map (fun v => kV v.val) ++ [kP pr.val], wr⟩

/-- The reads and writes of an instruction. -/
def VProg.uses (p : VProg) : Instr → Uses
  | .cmm _ c x =>
    { rd := [kS (rnSize c.msz), kS (rnSize c.ksz), kS (rnSize c.nsz), kP x.maskp.val] ++
        (if c.ring then [kS (rnRing x.ringl)] else []) ++ if c.sfmt.isCb && !c.reuse then (palSlots c x).map kQ else [] }
  | .salu _ sd sa sb fn => ⟨[kS sa.val, kS sb.val], [(kS sd.val, if fn = .mul then 3 else 1)]⟩
  | .salui _ sd sa fn _ => ⟨[kS sa.val], [(kS sd.val, if fn = .mul then 3 else 1)]⟩
  | .lil _ sd _ => { wr := [(kS sd.val, 1)] }
  | .lih _ sd _ => ⟨[kS sd.val], [(kS sd.val, 1)]⟩
  | .movsp _ sd _ => { wr := [(kS sd.val, 1)] }
  | .arset _ _ _ src => { rd := [kS (rnSrc src)] }
  | .loop _ _ cnt _ => { rd := [kS (rnLoop cnt)] }
  | .brz _ sa _ => { rd := [kS sa.val] }
  | .brnz _ sa _ => { rd := [kS sa.val] }
  | .fwait _ sv f dl => { rd := [kS sv.val, kS (rnFence f), kS dl.val] }
  | .fsig _ sv f => { rd := [kS sv.val, kS (rnFence f)] }
  | .ld _ vd _ _ _ _ => { wr := [(kV vd.val, 14)] }
  | .st _ vs _ _ _ _ => { rd := [kV vs.val] }
  | .lds _ sd _ _ => { wr := [(kS sd.val, 14)] }
  | .sts _ ss _ _ => { rd := [kS ss.val] }
  | .rld _ vd sa _ _ => ⟨[kS sa.val], [(kV vd.val, 320)]⟩
  | .rst _ vs sa _ _ => { rd := [kV vs.val, kS sa.val] }
  | .fqpop _ vd _ => { wr := [(kV vd.val, 4)] }
  | .racq _ sd _ _ => { wr := [(kS sd.val, 4)] }
  | .biasld _ bb vs _ => ⟨[kV vs.val], [(kB bb.val, 2)]⟩
  | .palwr _ ps _ vs _ _ => ⟨[kV vs.val], [(kQ ps.val, 2)]⟩
  | .vop2 _ fn c => usesV [c.va, c.vb] c.pr [(kV c.vd.val, if fn = .mul then 4 else 3)]
  | .vfma _ c => usesV [c.va, c.vb, c.vc] c.pr [(kV c.vd.val, 4)]
  | .vcmp _ _ pd c => usesV [c.va, c.vb] c.pr [(kP pd.val, 2)]
  | .vsel _ c => usesV [c.va, c.vb] c.pr [(kV c.vd.val, 2)]
  | .vcvt _ target _ c =>
    let u := usesV [c.va] c.pr ((kV c.vd.val, 4) :: if target = .fmt .mxfp4 then [(kV (c.vd.val + 1), 4)] else [])
    if c.et = .fmt .mxfp4 then { u with rd := kV (c.va.val + 1) :: u.rd } else u
  | .vfn _ fn c => usesV [c.va] c.pr [(kV c.vd.val, vfnLat fn)]
  | .vred _ op _ c =>
    usesV [c.va] c.pr ((kV c.vd.val, 10) :: if op = .argmax ∨ op = .argmin then [(kV c.vc.val, 10)] else [])
  | .vperm _ c => usesV [c.va, c.vb] c.pr [(kV c.vd.val, 4)]
  | .vext _ sd va _ _ => ⟨[kV va.val], [(kS sd.val, 3)]⟩
  | .vbcast _ sa c => ⟨[kS sa.val, kP c.pr.val], [(kV c.vd.val, 2)]⟩
  | .plog _ fn pd pa pb pr _ sa =>
    ⟨if fn = .firstn then [kS sa.val] else [kP pa.val, kP pr.val] ++ if fn = .not then [] else [kP pb.val],
      [(kP pd.val, 1)]⟩
  | .drn h vd pos raw ring chr lpi row =>
    let b := (p.layers[lpi.toNat]?).filter fun _ => !raw
    let lat := match b with
      | some b => drnLat b.act
      | none => 8
    let mx := match b with
      | some b => b.tfmt == fmtCode .mxfp4
      | none => false
    ⟨[kS (rnRow row)] ++ (if raw then [] else [kS chr.val]) ++ (p.palUse (.drn h vd pos raw ring chr lpi row)).map kQ,
      (kV vd.val, lat) :: if mx then [(kV (vd.val + 1), lat)] else []⟩
  | .wgcfg _ _ _ sa => { rd := [kS sa.val] }
  | .pq _ vd va _ pr slot _ _ _ => ⟨[kV va.val, kP pr.val, kQ slot.val], [(kV vd.val, 6)]⟩
  | _ => {}

/-! ### The state of a path -/

/-- The resident tile of a path (R82): stationary format, palette selection, live rows and columns, whether its instruction
loaded just it, and the tags that the looked-up slots may have held. -/
structure VTile where
  fmt    : Format
  pal    : Option (Nat × Nat × Bool)
  rows   : Nat
  cols   : Nat
  single : Bool
  tags   : List (Option Nat)
deriving DecidableEq

/-- What is known of the machine on the paths that reach a bundle: cycles of the longest of them, alternates excluded; the
cycles until results land (R116); the C slot's; Canvas instructions with their ages; the tiles, the tags of palette slots
(none: unknown; an unlisted slot is unknown); the cycles until the own-slice stores
of each path are performed; the most signals and waits; the input guards open on each path; the ACM rows that instructions
of the path have tagged or will write, newest first, and whether as INT64 rows. -/
structure VState where
  cyc    : Nat := 0
  rem    : SMap Nat := []
  c      : Nat := 0
  ops    : List (CanvasOp × Nat) := []
  tiles  : List (Option VTile) := [none]
  tags   : SMap (List (Option Nat)) := []
  stores : List (List Nat) := [[]]
  sigs   : Nat := 0
  waits  : Nat := 0
  guards : List (List Nat) := [[]]
  rows   : List (Nat × Nat × Bool) := []
deriving DecidableEq

/-- Cycles until the result of a key lands. -/
def VState.due (s : VState) (k : Nat) : Nat := mget (fun _ => 0) s.rem k

/-- Tags that a slot may hold. -/
def VState.tag (s : VState) (q : Nat) : List (Option Nat) := mget (fun _ => [none]) s.tags q

/-- `n` cycles pass. -/
def VState.pass (n : Nat) (s : VState) : VState :=
  { s with
    cyc := s.cyc + n
    rem := (s.rem.map fun p => (p.1, p.2 - n)).filter fun p => p.2 != 0
    c := s.c - n
    ops := (s.ops.map fun o => (o.1, o.2 + n)).filter fun o => decide (o.2 ≤ o.1.steps + 263)
    stores := (s.stores.map fun l => (l.map (· - n)).filter (· != 0)).dedup }

/-- A list with the members of another that it lacks. -/
def unionOf {α : Type} [DecidableEq α] (a b : List α) : List α := a ++ b.filter fun x => !a.contains x

/-- Two maps joined key by key. -/
def mjoin {α : Type} (d : α) (f : α → α → α) (a b : SMap α) : SMap α :=
  (unionOf (a.map (·.1)) (b.map (·.1))).foldl (fun m k =>
    minsert k (f (mget (fun _ => d) a k) (mget (fun _ => d) b k)) m) []

/-- The join of paths (R116) (DEDUCED, log entry 32). -/
def VState.join (a b : VState) : VState :=
  { cyc := max a.cyc b.cyc
    rem := mjoin 0 max a.rem b.rem
    c := max a.c b.c
    ops := unionOf a.ops b.ops
    tiles := unionOf a.tiles b.tiles
    tags := mjoin [none] unionOf a.tags b.tags
    stores := unionOf a.stores b.stores
    sigs := max a.sigs b.sigs
    waits := max a.waits b.waits
    guards := unionOf a.guards b.guards
    rows := if a.rows = b.rows then a.rows else [] }

/-- The join of what two edges bring, where either may bring nothing. -/
def joinOpt : Option VState → Option VState → Option VState
  | none, b => b
  | a, none => a
  | some a, some b => some (a.join b)

/-- The program's start: palette slots hold the tags of the image's records (R49). -/
def VProg.start (p : VProg) : VState := { tags := p.pals.foldl (fun m r => minsert r.slot [some r.tag] m) [] }

/-! ### One instruction -/

/-- Cycle, counted from issue, in which vector `v` of a one-fold instruction enters (R66, R67). -/
def CanvasOp.entry (o : CanvasOp) (v : Nat) : Nat :=
  256 * o.loads + if o.pairRate then v / 2 else if o.halfRate then 2 * v + 1 else v

/-- Whether a write of the first `n` ring-mode vectors of an instruction of age `a` to a row is on its way. -/
def CanvasOp.ringFlight (o : CanvasOp) (n a row : Nat) : Bool :=
  decide (o.cx.acmb.toNat ≤ row ∧ row < o.cx.acmb.toNat + o.ringl) &&
  (List.range (min n o.m)).any fun v => v % o.ringl == row - o.cx.acmb.toNat && decide (o.entry v ≤ a ∧ a ≤ o.entry v + 263)

/-- Whether a row is owed or in flight under an instruction and its age; in ring mode a row is in flight for the first
vector that accumulates into it (R85). The rows of a scatter are not known. -/
def rowTaken (row : Nat) (o : CanvasOp × Nat) : Bool :=
  if o.1.cw.scat then false
  else if o.1.cw.ring then o.1.ringFlight o.1.ringl o.2 row
  else o.1.owes row o.2

/-- Whether a row is in flight under an instruction and its age: a vector that accumulates into it has entered and its write
is not complete (R85). -/
def rowFlight (row : Nat) (o : CanvasOp × Nat) : Bool :=
  if o.1.cw.scat ∨ o.1.cw.ring then rowTaken row o
  else decide (o.1.cx.acmb.toNat ≤ row ∧ row < o.1.cx.acmb.toNat + o.1.footprint) &&
    (o.1.entries row).any fun c => decide (c ≤ o.2 ∧ o.2 ≤ c + 263)

/-- Whether an instruction still writes a row: in ring mode, any vector on its way. -/
def rowPend (row : Nat) (o : CanvasOp × Nat) : Bool :=
  if o.1.cw.ring then o.1.ringFlight o.1.m o.2 row else rowTaken row o

/-- Rows of an instruction's footprint. -/
def CanvasOp.rowList (o : CanvasOp) : List Nat :=
  if o.cw.scat ∨ o.m = 0 ∨ o.n = 0 then [] else (List.range o.footprint).map fun i => o.cx.acmb.toNat + i

/-- The tags that the slots of a lookup may hold. -/
def VState.lookTags (s : VState) (c : CmmWord) (x : CxWord) : List (Option Nat) :=
  (palSlots c x).foldl (fun l q => unionOf l (s.tag q)) []

/-- Known tags that differ, or form no pair with the streaming format (R49). -/
def tagsBad (l : List (Option Nat)) (x : Format) : Bool :=
  let k := l.filterMap id
  k.any fun t => !tagPairs t x || k.any (· != t)

/-- Whether the resident tile may not meet the requirements of REUSE (R82). -/
def tileBad (c : CmmWord) (x : CxWord) (o : CanvasOp) : Option VTile → Bool
  | none => true
  | some t => !(t.single && t.fmt == c.sfmt && decide (t.pal = palSel c x ∧ t.rows = o.k ∧ t.cols = o.n)) || tagsBad t.tags c.xfmt

/-- Whether the outputs of a drain may pass the end of VD (R137); a row not known to be of 32-bit sums may hold 128 of
64 bits (DEDUCED, log entry 34). -/
def VProg.posBad (p : VProg) (s : VState) (pos lpi : Nat) (row : RowSel) : Bool :=
  match p.layers[lpi]? with
  | none => false
  | some b =>
    let wide : Bool := match row with
      | .imm r => (s.rows.find? fun f => decide (f.1 ≤ r.toNat ∧ r.toNat < f.2.1)).any fun f => !f.2.2
      | .reg _ => false
    decide (32768 < (if wide then 256 else 128) * (pos + 1) * tgtBits b)

/-- The checks of one instruction that depend on the path, `k` its slot. A drain of a row in flight is of check 0x000C; one
of a row that is only owed finds its ready cycle missed, check 0x000B (R85, R116) (DEDUCED, log entry 67). -/
def VProg.pathBad (p : VProg) (sub : Nat → Nat) (i : Nat) (s : VState) (k : Nat) (ins : Instr) : List Rej :=
  let u := p.uses ins
  rejIf (u.rd.any fun r => s.due r != 0) (sub 0xB) i k ++
  rejIf (u.wr.any fun w => w.1 != kS 0 && w.1 != kP 0 && decide (w.2 ≤ s.due w.1)) (sub 0xB) i k ++
  match ins with
  | .cmm _ c x =>
    let o := p.op i c x
    rejIf (s.c != 0) (sub 0xA) i 0 ++
    rejIf (c.init != .keep && o.rowList.any fun r => s.ops.any (rowPend r)) (sub 0xB) i 0 ++
    rejIf (c.reuse && s.tiles.any (tileBad c x o)) (sub 0xC) i 0
  | .drn _ _ pos raw _ _ lpi row =>
    (match row with
      | .imm r =>
        if s.ops.any (rowFlight r.toNat) then rejIf true (sub 0xC) i 3
        else rejIf (s.ops.any (rowTaken r.toNat)) (sub 0xB) i 3
      | .reg _ => []) ++
    rejIf (!raw && p.posBad s pos.toNat lpi.toNat row) (sub 8) i 3
  | .rrel _ rng _ =>
    rejIf (s.guards.any fun g => g.any fun j => match p.layers[j]? with
      | some b => b.inRings / 2 ^ rng.val % 2 == 1
      | none => false) 0xE i 2
  | _ => []

/-- What an instruction does to the state of the path, in its issue cycle. -/
def VProg.effect (p : VProg) (i : Nat) (s : VState) (ins : Instr) : VState :=
  let s := { s with rem := (p.uses ins).wr.foldl (fun m w =>
    if w.1 = kS 0 ∨ w.1 = kP 0 then m else minsert w.1 (max w.2 (mget (fun _ => 0) m w.1)) m) s.rem }
  match ins with
  | .cmm _ c x =>
    let o := p.op i c x
    let s := { s with c := max s.c o.steps }
    if o.m = 0 ∨ o.n = 0 then s
    else
      let s := { s with
        ops := unionOf s.ops [(o, 0)]
        rows := if c.scat then [] else (x.acmb.toNat, x.acmb.toNat + o.footprint, o.sfm == .int16) :: s.rows }
      if o.k = 0 ∨ c.reuse = true then s
      else { s with tiles := [some {
        fmt := c.sfmt, pal := palSel c x, rows := o.rowsOn (o.fk - 1), cols := o.colsOn (o.fn - 1)
        single := o.fk == 1 && o.fn == 1 && o.loads == 1
        tags := if c.sfmt.isCb then s.lookTags c x else [] }] }
  | .palwr _ ps tag _ _ _ => { s with tags := minsert ps.val [some (fmtCode tag)] s.tags }
  | .st .. => { s with stores := s.stores.map (6 :: ·) }
  | .sts .. => { s with stores := s.stores.map (6 :: ·) }
  | .fsig .. => { s with sigs := s.sigs + 1 }
  | .fwait .. => { s with waits := s.waits + 1 }
  | _ => s

/-- The results of an instruction that are not discarded. -/
def VProg.writes (p : VProg) (i : Instr) : List (Nat × Nat) := (p.uses i).wr.filter fun w => w.1 != kS 0 && w.1 != kP 0

/-- The slots of a bundle with a result that lands together with another of the bundle in one place, the instruction's own
other result included (R120). -/
def VProg.clashes (p : VProg) (l : List (Nat × Instr)) : List Nat :=
  l.filterMap fun q =>
    if !(p.writes q.2).Nodup || (p.writes q.2).any fun w => l.any fun r => decide (r.1 < q.1) && (p.writes r.2).contains w
      then some q.1 else none

/-- The slots of a bundle that read what its M or V slot writes (R120, Table 5.9) (DEDUCED, log entry 66). -/
def VProg.readsWritten (p : VProg) (l : List (Nat × Instr)) : List Nat :=
  l.filterMap fun q =>
    if (p.uses q.2).rd.any fun k => l.any fun r => decide (r.1 ≠ q.1 ∧ 2 ≤ r.1) && (p.writes r.2).any (·.1 == k)
      then some q.1 else none

/-- One bundle: the rejections it gives and the state one cycle later (DEDUCED, log entry 32). -/
def VProg.bundleStep (p : VProg) (sub : Nat → Nat) (i : Nat) (s : VState) : List Rej × VState :=
  let l := bundleSlots (p.bundle i)
  let t := l.foldl (fun t q => p.effect i t q.2) s
  (l.flatMap (fun q => p.pathBad sub i (if q.1 = 3 then { s with ops := t.ops } else s) q.1 q.2) ++
    (p.clashes l ++ p.readsWritten l).flatMap (fun k => rejIf true (sub 0xB) i k) ++
    rejIf (t.stores.any fun x => decide (p.res.stores < x.length)) (sub 0xD) i 2 ++
    rejIf (decide (p.res.fsig < t.sigs ∨ p.res.fwait < t.waits)) (sub 0xD) i 1,
   t.pass 1)

/-! ### Paths -/

/-- The lowest rejection of each sub-code found so far: sub-code to 4 × bundle + slot. -/
def addRejs (m : SMap Nat) (l : List Rej) : SMap Nat :=
  l.foldl (fun m r =>
    let v := r.idx * 4 + r.slot
    match mfind m r.sub with
    | some w => if v < w then minsert r.sub v m else m
    | none => minsert r.sub v m) m

/-- A walk over a region: the state that reaches the next bundle, the states that branches bring to later ones, the
rejections, and the cycles of the longest path that ended. -/
structure Walk where
  cur  : Option VState
  pend : SMap VState := []
  errs : SMap Nat := []
  done : Nat := 0

/-- A state brought to a later bundle. -/
def Walk.bring (w : Walk) (i : Nat) (s : VState) : Walk :=
  { w with pend := match mfind w.pend i with
    | some t => minsert i (t.join s) w.pend
    | none => minsert i s w.pend }

/-- A loop body walked `n` times. -/
def walkLoop (f : VState → SMap Nat → Nat → Walk) : Nat → Walk → Walk
  | 0, w => w
  | n + 1, w =>
    match w.cur with
    | none => w
    | some s => walkLoop f n (f s w.errs w.done)

/-- What the decision bundle of a layer requires of the paths that reach it (R171). -/
def decisionReady (s : VState) : Bool :=
  s.c == 0 && s.rem.isEmpty && s.ops.all fun o => decide ((if o.1.k = 0 then 8 else o.1.steps + 263) ≤ o.2)

/-- The block whose decision bundle is `i`, with its index. -/
def VProg.decisionAt (p : VProg) (i : Nat) : Option (Nat × LayerBlk) :=
  ((List.range p.layers.size).filterMap fun j => (p.layers[j]?).map fun b => (j, b)).find? fun q => q.2.mmode != 0 && q.2.dec == i

/-- Blocks whose input guard opens at bundle `i`. -/
def VProg.opensAt (p : VProg) (i : Nat) : List Nat :=
  (List.range p.layers.size).filter fun j => match p.layers[j]? with
    | some b => b.mmode != 0 && b.start == i
    | none => false

/-- The mark, beside the rejections of a walk, that it has come to the decision bundle of alternate body `k`. It is no sub-code of
Table 4.10, and no verdict looks at it. -/
def metMark (k : Nat) : Nat := 0x100 + k

/-- Arrival at bundle `i` of the main text before it issues: guards (R179), the decision and its alternate body (R171, R175,
R178), and the record's store (R174). `alt` walks an alternate body. A guard that closes at a bundle counts toward the eight with
one that opens there (DESIGN CHOICE, log entry 94). -/
def VProg.arrive (p : VProg) (alt : Nat → VState → SMap Nat → Walk) (i : Nat) (s : VState) (errs : SMap Nat) :
    VState × SMap Nat :=
  let s := { s with guards := (s.guards.map fun g => unionOf g (p.opensAt i)).dedup }
  let errs := addRejs errs (rejIf (s.guards.any fun g => decide (8 < g.length)) 0xE i 0)
  match p.decisionAt i with
  | none => (s, errs)
  | some (j, b) =>
    let errs := addRejs errs (rejIf (!decisionReady s) 0xE i 0)
    let r :=
      if b.alt = 0xFFFF then (s, errs)
      else
        let w := alt b.alt (s.pass 2) (addRejs errs [⟨metMark b.alt, i, 0⟩])
        match w.cur with
        | none => (s, w.errs)
        | some t =>
          let t := t.pass 2
          (s.join { t with cyc := s.cyc }, addRejs w.errs (rejIf (!decisionReady t) 0xE i 0))
    ({ r.1 with
      guards := (r.1.guards.map fun g => g.filter (· != j)).dedup
      stores := r.1.stores.map (6 :: ·) }, r.2)

/-- One bundle of a region: `main` tells the main text from an alternate body, whose rejections are of check 0x000E;
`body` walks a loop body, `stop` ends the region. -/
def VProg.visit (p : VProg) (main : Bool) (arrive : Nat → VState → SMap Nat → VState × SMap Nat)
    (body : Nat → Nat → VState → SMap Nat → Nat → Walk) (stop : Nat) (w : Walk) (i : Nat) : Walk :=
  match joinOpt w.cur (mfind w.pend i) with
  | none => { w with cur := none }
  | some s =>
    let sub (k : Nat) : Nat := if main then k else 0xE
    let a := if main then arrive i s w.errs else (s, w.errs)
    let r := p.bundleStep sub i a.1
    let w := { w with pend := merase i w.pend, errs := addRejs a.2 r.1, cur := some r.2 }
    match (p.bundle i).a with
    | some (.end_ _) => { w with cur := none, done := max w.done r.2.cyc }
    | some (.brz _ _ off) => w.bring (i + off.toNat) (r.2.pass 2)
    | some (.brnz _ _ off) => w.bring (i + off.toNat) (r.2.pass 2)
    | some (.loop _ _ cnt bd) =>
      let n := match cnt with
        | .imm v => v.toNat
        | .reg _ => p.decl i 1 0
      let e := i + bd.toNat + 1
      if n = 0 then { w.bring e (r.2.pass 2) with cur := none }
      else
        let q := walkLoop (body (i + 1) (min e stop)) n { cur := some r.2, errs := w.errs, done := w.done }
        match q.cur with
        | none => { w with errs := q.errs, done := q.done, cur := none }
        | some t => { w.bring e t with errs := q.errs, done := q.done, cur := none }
    | _ => w

/-- A walk over bundles `lo .. hi − 1`, loop bodies unrolled; the first argument bounds the nesting of loops. Its state at
the end is the one that reaches bundle `hi` (DEDUCED, log entry 32). -/
def VProg.walk (p : VProg) (main : Bool) (arrive : Nat → VState → SMap Nat → VState × SMap Nat) :
    Nat → Nat → Nat → VState → SMap Nat → Nat → Walk
  | 0, _, _, s, errs, done => { cur := some s, errs := errs, done := done }
  | d + 1, lo, hi, s, errs, done =>
    let w := ((List.range (hi - lo)).map (lo + ·)).foldl (p.visit main arrive (p.walk main arrive d) hi)
      { cur := some s, errs := errs, done := done }
    { w with cur := joinOpt w.cur (mfind w.pend hi) }

/-- Alternate body `k` from a state. A path that misses its last bundle brings nothing to the bundle after it but through
a loop that is skipped, which check 0x000E rejects. -/
def VProg.walkAlt (p : VProg) (k : Nat) (s : VState) (errs : SMap Nat) : Walk :=
  match p.bodies[k]? with
  | none => { cur := some s, errs := errs }
  | some e => p.walk false (fun _ s m => (s, m)) (e.len + 1) (altBase + e.first) (altBase + e.first + e.len) s errs 0

/-- The main text from ENTRY. A path that passes the end of the text misses END (check 0x0009). -/
def VProg.walkMain (p : VProg) : Walk :=
  let n := p.text.size
  let w := p.walk true (p.arrive p.walkAlt) (n + 1) p.entry n p.start [] 0
  match w.cur with
  | none => w
  | some _ => { w with errs := addRejs w.errs (rejIf (decide (p.entry < n)) 9 (n - 1) 1) }

/-- Whether a loop of an alternate body is skipped by its declared count and its body ends the alternate body (R178). -/
def VProg.altSkips (p : VProg) (e : AltBody) : Bool :=
  (List.range e.len).any fun d =>
    let i := altBase + e.first + d
    match (p.bundle i).a with
    | some (.loop _ _ cnt bd) =>
      (match cnt with
        | .imm v => v.toNat
        | .reg _ => p.decl i 1 0) == 0 && d + bd.toNat + 1 == e.len
    | _ => false

/-! ### Palettes over all paths (R49, R53) -/

/-- What the paths that reach a bundle do to the palettes: the tags that each slot may hold (none: unknown; an unlisted slot
is unknown), and the slots that a PALWR on one of them writes. -/
structure PalFlow where
  tags    : SMap (List (Option Nat)) := []
  written : List Nat := []
deriving DecidableEq

def PalFlow.join (a b : PalFlow) : PalFlow :=
  { tags := mjoin [none] unionOf a.tags b.tags, written := unionOf a.written b.written }

/-- The join of what two edges bring, where either may bring nothing. -/
def joinFlow : Option PalFlow → Option PalFlow → Option PalFlow
  | none, b => b
  | a, none => a
  | some a, some b => some (a.join b)

/-- Whether a palette used for quantisation is out of order (R53), where its entries are declared and no path to the
quantisation rewrites the slot: `n` entries from `e0` of a slot. -/
def VProg.orderBad (p : VProg) (f : PalFlow) (slot e0 n : Nat) : Bool :=
  match p.palRec slot with
  | none => false
  | some r =>
    if r.entries.length < e0 + n ∨ f.written.contains slot then false
    else
      let vs := ((r.entries.drop e0).take n).map (palVal r.tag)
      vs.any (fun v => decide (v = .nan)) || (vs.zip vs.tail).any fun q => !FV.lt false q.1 q.2

/-- The palette checks of one instruction over the paths that reach it: the tags of a lookup (R49), the order of a palette
that quantises (R53, R61). -/
def VProg.palBadAt (p : VProg) (sub i : Nat) (f : PalFlow) : Instr → List Rej
  | .cmm _ c x =>
    let tags := (palSlots c x).foldl (fun l q => unionOf l (mget (fun _ => [none]) f.tags q)) []
    rejIf (c.sfmt.isCb && !c.reuse && tagsBad tags c.xfmt) sub i 0
  | .pq _ _ _ _ _ slot sb cb8 cnt =>
    rejIf (p.orderBad f slot.val (if cb8 then 0 else 16 * sb.toNat) (cnt.toNat + 1)) sub i 3
  | .drn h vd pos raw ring chr lpi row =>
    (match (p.palUse (.drn h vd pos raw ring chr lpi row)), p.layers[lpi.toNat]? with
      | _ :: _, some b => rejIf (p.orderBad f b.pslot (if b.tfmt = fmtCode .cb8 then 0 else 16 * b.psub) b.pcnt) sub i 3
      | _, _ => [])
  | _ => []

/-- The PALWR of a bundle. -/
def VProg.palOut (p : VProg) (i : Nat) (f : PalFlow) : PalFlow :=
  match (p.bundle i).m with
  | some (.palwr _ ps tag _ _ _) =>
    { tags := minsert ps.val [some (fmtCode tag)] f.tags, written := unionOf f.written [ps.val] }
  | _ => f

/-- A pass over a region: what reaches the next bundle, what branches bring to later ones, what the ends of loop bodies bring
back to their first bundles, and the rejections. -/
structure Flow where
  cur   : Option PalFlow
  pend  : SMap PalFlow := []
  heads : SMap PalFlow := []
  errs  : SMap Nat := []

def Flow.bring (w : Flow) (i : Nat) (f : PalFlow) : Flow :=
  { w with pend := match joinFlow (mfind w.pend i) (some f) with
    | some g => minsert i g w.pend
    | none => w.pend }

def Flow.back (w : Flow) (i : Nat) (f : PalFlow) : Flow :=
  { w with heads := match joinFlow (mfind w.heads i) (some f) with
    | some g => minsert i g w.heads
    | none => w.heads }

/-- Whether a loop may run no iteration, or more than one; a register count may do either whatever its declaration. -/
def mayZero : LoopCount → Bool
  | .imm v => v == 0
  | .reg _ => true
def mayRun : LoopCount → Bool
  | .imm v => v != 0
  | .reg _ => true
def mayRepeat : LoopCount → Bool
  | .imm v => decide (1 < v.toNat)
  | .reg _ => true

/-- One bundle of a pass. `dec` runs the alternate body of a decision bundle; `ends` are the loops of the region that may
repeat, by first and last bundle of the body. The end of a body goes back to its first bundle, and so does a loop that is
skipped at the end of an enclosing body. -/
def VProg.palVisit (p : VProg) (main : Bool) (dec : Nat → PalFlow → SMap Nat → PalFlow × SMap Nat) (ends : List (Nat × Nat))
    (w : Flow) (i : Nat) : Flow :=
  match joinFlow w.cur (joinFlow (mfind w.pend i) (mfind w.heads i)) with
  | none => { w with cur := none }
  | some f =>
    let d := dec i f w.errs
    let out := p.palOut i d.1
    let w : Flow := { w with
      cur := some out
      pend := merase i w.pend
      errs := addRejs d.2 ((bundleSlots (p.bundle i)).flatMap fun q => p.palBadAt (if main then 8 else 0xE) i d.1 q.2) }
    let again (last : Nat) (w : Flow) : Flow :=
      (ends.filter fun l => l.2 == last && decide (l.1 ≤ i)).foldl (fun w l => w.back l.1 out) w
    match (p.bundle i).a with
    | some (.end_ _) => { w with cur := none }
    | some (.brz _ _ off) => (again i w).bring (i + off.toNat) out
    | some (.brnz _ _ off) => (again i w).bring (i + off.toNat) out
    | some (.loop _ _ cnt bd) =>
      let w := again i w
      let w := if mayZero cnt then again (i + bd.toNat) (w.bring (i + bd.toNat + 1) out) else w
      if mayRun cnt then w else { w with cur := none }
    | _ => again i w

/-- The loops of bundles `lo .. hi − 1` that may repeat. -/
def VProg.repeats (p : VProg) (lo hi : Nat) : List (Nat × Nat) :=
  (List.range (hi - lo)).filterMap fun d => match (p.bundle (lo + d)).a with
    | some (.loop _ _ cnt bd) => if mayRepeat cnt then some (lo + d + 1, lo + d + bd.toNat) else none
    | _ => none

/-- Passes over bundles `lo .. hi − 1`, each with what the one before brought back. Loops nest four deep, so six passes
reach every path; only the last, which knows them all, judges. -/
def VProg.palWalk (p : VProg) (main : Bool) (dec : Nat → PalFlow → SMap Nat → PalFlow × SMap Nat) (lo hi : Nat)
    (f : PalFlow) : Nat → SMap PalFlow → SMap Nat → Flow
  | 0, heads, errs => { cur := some f, heads := heads, errs := errs }
  | n + 1, heads, errs =>
    let w := ((List.range (hi - lo)).map (lo + ·)).foldl (p.palVisit main dec (p.repeats lo hi))
      { cur := some f, heads := heads, errs := errs }
    if n = 0 then { w with cur := joinFlow w.cur (mfind w.pend hi) } else p.palWalk main dec lo hi f n w.heads errs

/-- Alternate body `k`: what reaches its end. -/
def VProg.palAlt (p : VProg) (k : Nat) (f : PalFlow) (errs : SMap Nat) : PalFlow × SMap Nat :=
  match p.bodies[k]? with
  | none => (f, errs)
  | some e =>
    let w := p.palWalk false (fun _ f m => (f, m)) (altBase + e.first) (altBase + e.first + e.len) f 6 [] errs
    (w.cur.getD f, w.errs)

/-- The main text; a decision bundle is reached with and without its alternate body (R178). -/
def VProg.palMain (p : VProg) : SMap Nat :=
  (p.palWalk true (fun i f m =>
    match p.decisionAt i with
    | some (_, b) =>
      if b.alt = 0xFFFF then (f, m)
      else
        let q := p.palAlt b.alt f m
        (f.join q.1, q.2)
    | none => (f, m)) p.entry p.text.size { tags := p.start.tags } 6 [] []).errs

/-- Rejections found by a walk. -/
def walkRejs (m : SMap Nat) : List Rej := m.map fun q => ⟨q.1, q.2 / 4, q.2 % 4⟩

/-- DECL_CYCLES of alternate bodies (R177, R178). A body that no path of the main text comes to (its block has MMODE OFF, or no
path reaches its decision bundle) passes the checks of the paths from the state that R171 describes, with nothing known of
tags and tiles; `met` are the bodies that the paths come to. -/
def VProg.altCycles (p : VProg) (met : Nat → Bool) : List Rej :=
  (List.range p.bodies.size).flatMap fun k =>
    match p.bodies[k]? with
    | none => []
    | some e =>
      let w := p.walkAlt k {} []
      let c := match w.cur with
        | some s => s.cyc
        | none => 0
      rejIf (c != e.cycles || p.altSkips e) 0xE (altBase + e.first) 0 ++
      (if !met k then
        walkRejs w.errs ++ walkRejs (p.palAlt k {} []).2 ++
        rejIf (match w.cur with
          | some t => !decisionReady (t.pass 2)
          | none => false) 0xE (altBase + e.first) 0
       else [])

/-- DECL_CYCLES and the PHASE instructions, check 0x000F (DEDUCED, log entry 32). -/
def VProg.timing (p : VProg) (done : Nat) : List Rej :=
  rejIf (done != p.cycles) 0xF 0 0 ++
  (List.range p.text.size).flatMap fun i => match (p.text.getD i {}).a with
    | some (.phase _ ph) => rejIf (!p.phases.contains (ph.toNat, i)) 0xF i 1
    | _ => []

/-! ### The verdict -/

/-- The first rejection of a list of checks in their order. -/
def firstOf (l : List Rej) : List Nat → Option Rej
  | [] => none
  | c :: t =>
    match firstRej c l with
    | some r => some r
    | none => firstOf l t

/-- Checks 0x0008 to 0x000D of the main text. -/
def mainRejs (b : List Byte) (p : VProg) : List Rej :=
  rejIf (!palsOk p.pals || (p.hasLay && !layersOk (sectBody b 7) p.layers)) 8 0 0 ++
  p.static id none 0 0 p.text.size p.text ++
  rejIf (decide (p.text.size ≤ p.entry)) 9 p.entry 0 ++ p.declBad 0 p.text ++ p.declBad altBase p.alt ++ p.declStray ++
  ctlBad 9 0 0 p.text.size p.text ++
  rejIf (placeBad b p.res.taskMin || p.pals.any fun r => clear p.res.pal r.slot) 0xD 0 0

/-- Check 0x000E apart from the paths. -/
def altRejs (b : List Byte) (p : VProg) (met : Nat → Bool) : List Rej :=
  rejIf (altDirBad b p || precBad b p) 0xE 0 0 ++ p.decBad ++
  (if altDirBad b p then []
   else (bundlesOf (imgScatter b) 0xE altBase ((sectBody b 6).drop (altBundleOff (sectBody b 6)))).2 ++ p.altStatic ++ p.altCycles met)

/-- The loader verifier (R115) on an image for the engines of a mask: the first rejection, none for an accepted image
(DEDUCED, log entry 32). -/
def State.verify (s : State) (b : List Byte) (mask : Nat) : Option Rej :=
  if !headerOk b then some ⟨1, 0, 0⟩
  else if fieldAt b 32 2 ≠ 1 then some ⟨2, 0, 0⟩
  else if !sectsOk b then some ⟨3, 0, 0⟩
  else if !s.sigOk b then some ⟨4, 0, 0⟩
  else if sha256 (digested b) ≠ imgDigest b then some ⟨5, 0, 0⟩
  else if !resOk b mask then some ⟨6, 0, 0⟩
  else
    match firstRej 7 (bundlesOf (imgScatter b) 7 0 (sectBody b 3)).2 with
    | some r => some r
    | none =>
      let p := parseProg b
      let w := p.walkMain
      let l := mainRejs b p ++ walkRejs w.errs ++ walkRejs p.palMain
      match firstOf l [8, 9, 0xA, 0xB, 0xC, 0xD] with
      | some r => some r
      | none =>
        match firstRej 0xE (altRejs b p (fun k => (mfind w.errs (metMark k)).isSome) ++ l) with
        | some r => some r
        | none => firstRej 0xF (p.timing w.done)

end Sys2Proof.Machine
end

