-- ==== Sys2Proof/Machine/Load.lean ====
section
/-! DEFINITION. Image load and unload: LOAD_IMAGE and UNLOAD_IMAGE (R91, R92, R115, R264, R375). -/

namespace Sys2Proof.Machine

open Sys2Proof

/-- A physical range cut at 64 KiB boundaries; `n / 65536 + 2` pieces suffice. -/
def cutRange : Nat → Nat → Nat → List (Nat × Nat)
  | 0, _, _ => []
  | k + 1, a, n =>
    if n = 0 then []
    else
      let m := min n (65536 - a % 65536)
      (a, m) :: cutRange k (a + m) (n - m)

/-- One placed section written into a slice through its remote port (R190): a refused write touches no byte
(DEDUCED, log entry 35). -/
def State.placeOne (s : State) (a : Nat) (bs : List Byte) : Bool × State :=
  let ps := cutRange (bs.length / 65536 + 2) a bs.length
  match s.piecesCheck .gallery false true ps with
  | (some _, s) => (false, s)
  | (none, s) => s.writePieces 1 ps bs

/-- The placed sections of an image written at a task base of one engine; whether every write was performed
(DEDUCED, log entry 35). -/
def State.placeAll (s : State) (a : Nat) : List (Nat × List Byte) → Bool × State
  | [] => (true, s)
  | p :: t =>
    let r := s.placeOne (a + p.1) p.2
    let q := r.2.placeAll a t
    (r.1 && q.1, q.2)

/-- Placed sections: task-relative offset and bytes. -/
def placedBytes (b : List Byte) : List (Nat × List Byte) :=
  ((sects b).filter fun x => placedTypes.contains x.type).map fun x => (x.place, (b.drop x.off).take x.size)

/-- The multicast write (R264): the engines whose write failed (DEDUCED, log entry 35). -/
def State.placeOn (s : State) (b : List Byte) (tbase : Nat) : List Nat → List Nat × State
  | [] => ([], s)
  | e :: t =>
    let r := s.placeAll (sliceBase e + tbase) (placedBytes b)
    let q := r.2.placeOn b tbase t
    (if r.1 then q.1 else e :: q.1, q.2)

/-- What the device keeps of a loaded image (DEDUCED, log entry 38). -/
def keepImage (b : List Byte) (ctx engs tbase : Nat) : Image :=
  let r := parseRes (sectBody b 2)
  let l := sectBody b 7
  { ctx := ctx
    engs := engs
    tbase := tbase
    taskMin := r.taskMin
    engMask := r.eng
    scatter := imgScatter b
    fqMask := r.fq
    ringOps := r.rings
    entry := imgEntry b
    textOff := ((sect? b 3).map (·.place)).getD 0
    bundles := (sectBody b 3).length / 32
    altOff := (sect? b 6).map (·.place)
    layOff := (sect? b 7).map (·.place)
    layers := fieldAt l 0 4
    chrecs := fieldAt l 4 4
    precOff := fieldAt l 8 8
    maxRer := fieldAt l 16 1
    palettes := ((palCut (sectBody b 5).length (sectBody b 5)).getD []).map parsePal }

/-- Bits of a mask of engines. -/
def engBits (l : List Nat) : Nat := l.foldl (fun m e => m + 2 ^ e) 0

/-- CPQ_LOADPROG of the command's processor as a load ends without success: `n` bytes digested and placed of SIZE (R374, R375)
(DESIGN CHOICE, log entry 36). -/
def State.loadProg (s : State) (c : Cmd) (n size : Nat) : State :=
  s.rset (.cpqLoadprog (c.sq % 2)) (c.sq * 65536 + min (10000 * n / (2 * size)) 9999)

/-- CPQ_LOADPROG as a load ends with success (R374). -/
def State.loadEnd (s : State) (c : Cmd) : State := s.rset (.cpqLoadprog (c.sq % 2)) (c.sq * 65536 + 10000)

/-- An engine whose palettes came from handle `h` loads the section of whatever image takes the handle (R94)
(DEDUCED, log entry 37). -/
def State.forget (s : State) (h : Nat) : State :=
  (List.range 6).foldl (fun t e =>
    if (t.eng e).lastImg = some h then t.modEng e fun x => { x with lastImg := none } else t) s

/-- A verified image is written and its handle holds it (DEDUCED, log entry 38). -/
def State.loadPlace (s : State) (c : Cmd) (b : List Byte) : State :=
  let h := fieldAt c.desc 16 2
  let es := maskList (fieldAt c.desc 18 1)
  let tbase := fieldAt c.desc 20 2 * 65536
  let r := s.placeOn b tbase es
  let ok := es.filter fun e => !r.1.contains e
  let w := (digested b).length + ((placedBytes b).map fun p => p.2.length).sum
  let s := (if r.1.isEmpty then r.2.loadEnd c else r.2.loadProg c w b.length).forget h
  ({ s with images := minsert h (keepImage b c.ctx (engBits ok) tbase) s.images } : State).commit c
    (if r.1.isEmpty then stOk else stPartial) 0 fun x => { x with partmap := engBits r.1 }

/-- A LOAD_IMAGE (R91, R115, R264). A task limit below the image's TASK_MIN fails the load with a status that the manual
does not state (DESIGN CHOICE, log entries 36, 54; DEDUCED, log entry 39). -/
def State.loadRun (s : State) (c : Cmd) : State :=
  let d := c.desc
  if (mfind s.images (fieldAt d 16 2)).isSome then (s.loadProg c 0 1).failCmd c { st := stRejected, sub := 0x11 }
  else if 3584 < fieldAt d 20 2 + fieldAt d 22 2 then (s.loadProg c 0 1).failCmd c { st := stBound, sub := 0 }
  else
    match s.cpRead c.ctx (fieldAt d 24 8) (fieldAt d 32 8) with
    | (.error x, s) => (s.loadProg c 0 1).failCmd c x
    | (.ok b, s) =>
      match s.verify b (fieldAt d 18 1) with
      | some r =>
        (s.loadProg c (if r.sub < 5 then 0 else (digested b).length) b.length).commit c stRejected r.sub fun x =>
          { x with index := r.idx, failSlot := r.slot }
      | none =>
        if fieldAt d 22 2 * 65536 < (parseRes (sectBody b 2)).taskMin then
          (s.loadProg c (digested b).length b.length).failCmd c { st := Config.openStatus 6, sub := 0 }
        else s.loadPlace c b

/-- LOAD_IMAGE (R264): a dispatched load is verified once and written by multicast (DESIGN CHOICE, log entry 36). -/
def execLoadImage (sq : Fin 1024) (seq : W32) (s : State) : Host.Outcome State Fault Refusal :=
  .next <|
    match s.ready? sq.val seq.toNat 2 with
    | some c => s.loadRun c
    | none => s

/-- Whether another accepted, uncommitted command names an image handle (DEDUCED, log entry 37). -/
def State.imagePinned (s : State) (c : Cmd) (h : Nat) : Bool :=
  s.cmds.any fun d =>
    !(d.sq == c.sq && d.seq == c.seq) && [2, 3, 4].contains (fieldAt d.desc 0 1) && fieldAt d.desc 16 2 == h

/-- UNLOAD_IMAGE (R264). The status for a handle that the context has not loaded is not stated
(DEDUCED, log entry 37; DESIGN CHOICE, log entry 54). -/
def execUnloadImage (sq : Fin 1024) (seq : W32) (s : State) : Host.Outcome State Fault Refusal :=
  .next <|
    match s.ready? sq.val seq.toNat 3 with
    | none => s
    | some c =>
      let h := fieldAt c.desc 16 2
      if s.imagePinned c h then s.failCmd c { st := stPinned, sub := 0 }
      else
        match mfind s.images h with
        | none => s.failCmd c { st := Config.openStatus 7, sub := 0 }
        | some im =>
          if s.pmtCtx im.ctx ≠ s.pmtCtx c.ctx then s.failCmd c { st := Config.openStatus 7, sub := 0 }
          else ({ s with images := merase h s.images } : State).commit c stOk 0 id

end Sys2Proof.Machine
end

