-- ==== Sys2Proof/Machine/Pentimento.lean ====
section
/-! DEFINITION. The pentimento decision and its re-run (R172 to R177, R181, R182). -/

namespace Sys2Proof.Machine

open Sys2Proof

/-- Task-relative offset of the pentimento record array and MAX_RERUNS, as the loader read them; a later rewrite of the section
header does not change them (DESIGN CHOICE, log entry 93). -/
def State.pntImage (s : State) (e : Nat) : Nat × Nat :=
  match s.imageOf e with
  | some i => (i.precOff, i.maxRer)
  | none => (0, 0)

/-- Address of the directory entry of an alternate body in the task region (R177). -/
def State.altEntry (s : State) (e k : Nat) : Nat :=
  let o := ((s.imageOf e).bind (·.altOff)).getD 0
  (s.eng e).pa e o + 16 + 32 * k

/-- First and last bundle index of an alternate body (Table 7.7). -/
def State.altBody (s : State) (e k : Nat) : Nat × Nat :=
  let first := 0x80000000 + s.field (s.altEntry e k) 4
  (first, first + s.field (s.altEntry e k + 4) 4 - 1)

/-- The input guard of a layer closes. -/
def Engine.closeGuard (x : Engine) (lpi : Nat) : Engine := { x with guards := x.guards.filter (· ≠ lpi) }

/-- The decision bundle of block `lpi` begins to issue and stores its record in that cycle (R174). -/
def State.issueDecision (s : State) (e lpi : Nat) (bs : List Byte) : State :=
  let x := (s.eng e).closeGuard lpi
  (s.setEng e { x with ctl := { x.ctl with
    resume := none, decided := true, record := some (x.pa e ((s.pntImage e).1 + 16 * lpi : Nat), bs) } }).openBundle e

/-- A fault in what a decision reads of the task region (R108, R194, R407): its bundle does not issue. -/
def State.decisionLost (s : State) (e a : Nat) (f : Nat × Nat) : State :=
  let x := s.eng e
  s.engStop e ⟨f.1, f.2, x.ctl.pc, 0, (a - sliceBase e - x.tbase) % 2 ^ 32⟩ true

/-- The tests on a block's entry, and what they lead to (R172). -/
def State.decideBy (s : State) (e lpi : Nat) (b : LayerBlk) : State :=
  let x := s.eng e
  let m := x.monitor lpi
  let eff := effMode x.gmode b.mmode
  let cap := min (s.pntImage e).2 (bits x.pntCtl 15 8)
  let d := decision eff b m x.reruns cap x.elapsedNow
  let rec_ := pntRecord d (testBits eff b m) m
  let y := if d = .fits then x else { x with pntLast := (m.satc, d.code, lpi) }
  if d = .rerun then
    match s.ownRead (s.altEntry e b.alt) 32 with
    | (.error f, s) => s.decisionLost e (s.altEntry e b.alt) f
    | (.ok _, s) =>
      let a := s.altBody e b.alt
      s.setEng e { y with
        reruns := y.reruns + 1
        pent := true
        pntRe := (y.pntRe + 1) % 2 ^ 64
        ctl := { y.ctl with
          pc := a.1, hold := 2, altRet := some y.ctl.pc, altLast := a.2, resume := some (lpi, rec_), decided := false } }
  else
    let z := if d = .refusedCount ∨ d = .refusedDeadline then { y with pntRefused := (y.pntRefused + 1) % 2 ^ 64 } else y
    (s.setEng e z).issueDecision e lpi rec_

/-- A decision at the bundle about to issue: its block is read through the decoder. -/
def State.takeDecision (s : State) (e lpi : Nat) (b : LayerBlk) : State :=
  match s.layerSec e with
  | none => s
  | some (p, _, _) =>
    match s.ownRead (p + 64 + 128 * lpi) 128 with
    | (.error f, s) => s.decisionLost e (p + 64 + 128 * lpi) f
    | (.ok _, s) => s.decideBy e lpi b

/-- PENTIMENTO_DECISION (R172): `h.dt` cycles after the engine's previous issue the decision bundle is about to issue. The
bundle then begins to issue, or the alternate body starts; a fault or an abort that the engine has met by then wins (R175). -/
def execPentimentoDecision (h : Issue) (s : State) : Host.Outcome State Fault Refusal :=
  let e := h.ne.val
  let r := advance e h.dt s
  .next <|
    if (r.1.eng e).run = .issuing ∧ ((r.1.eng e).stop = true ∨ (r.1.eng e).late.isSome = true) then r.1.boundary e
    else if r.2 ∧ (r.1.eng e).run = .issuing ∧ r.1.undecided e = true ∧ (r.1.eng e).ctl.resume = none then
      match r.1.decisionDue e with
      | some (lpi, b) => r.1.takeDecision e lpi b
      | none => r.1
    else r.1

/-- Cycles to the decision bundle after the alternate body. -/
def bubbles (x : Engine) : Nat := x.ctl.hold

/-- The cycles of the bundle that issues and of those of no operations after it, until the alternate body has ended; false where
the engine stops issuing before. -/
def toAltEnd (e : Nat) : Nat → State → State × Bool
  | 0, s => (s, (s.eng e).ctl.altRet.isNone)
  | n + 1, s =>
    if (s.eng e).ctl.altRet.isNone then (s, true)
    else if (s.eng e).run = .issuing then toAltEnd e n (tick e s)
    else (s, false)

/-- Bundles from the present one to the last of the alternate body. -/
def altLeft (x : Engine) : Nat := x.ctl.altLast + 1 - x.ctl.pc

/-- DECISION_BUNDLE_RESUME (R175): the alternate body ends with its last bundle, and two cycles after it the decision bundle begins
to issue and its record is written. -/
def execDecisionBundleResume (ne : Fin 6) (s : State) : Host.Outcome State Fault Refusal :=
  let e := ne.val
  .next <|
    match (s.eng e).ctl.resume with
    | some (lpi, rec_) =>
      let q := toAltEnd e (altLeft (s.eng e)) s
      if q.2 then
        let r := advance e (bubbles (q.1.eng e)) q.1
        if r.2 ∧ (r.1.eng e).run = .issuing then r.1.issueDecision e lpi rec_ else r.1
      else if (q.1.eng e).run = .issuing then s
      else q.1
    | none => s

end Sys2Proof.Machine
end

