-- ==== Sys2Proof/Machine/Views.lean ====
section
/-! DEFINITION. What a read of a set-up register shows (R8, R282, R448): the stored fields, with the read-only fields that
mirror the structured state put in their places; the reads and writes of registers by a master, and REMOTE_ACCESS
(R190, R403, R405, R425, R447). -/

namespace Sys2Proof.Machine

open Sys2Proof

/-- A stored value without its write-only fields and reserved bits, which read as zero (DEDUCED, log entry 6). -/
def readable (v : Nat) : List Field → Nat
  | [] => 0
  | f :: t => (if f.typ = .wo then 0 else bits v f.hi f.lo * 2 ^ f.lo) ||| readable v t

/-! ### Engines -/

/-- NE_STATUS.STATE (Table 4.12) (DEDUCED, log entry 41). -/
def Engine.statusCode (x : Engine) : Nat :=
  if x.faulted then 4
  else
    match x.run with
    | .idle => 0
    | .issuing | .ending => 1
    | .waitFence | .waitFq .. | .waitRing .. => 2
    | .budget => 3

/-- PMC_NE_PERF.STATE (Table 16.11). -/
def idleCode : IdleSt → Nat
  | .active => 0 | .gated => 1 | .retain => 2 | .sliceOff => 3 | .exiting => 4

/-- Registers of an engine block. -/
def State.engView (s : State) (x : Engine) (e : Nat) : Reg → Option Nat
  | .neCtl _ => some (s.fget (.neCtl e) 0 0 + 2 * bit x.stop)
  | .neStatus _ => some (x.phaseid % 256 * 2 ^ 24 + x.statusCode)
  | .neTaskBase _ => some (x.tbase % 2 ^ 32)
  | .neTaskLimit _ => some (x.tlimit % 2 ^ 32)
  | .neFaultStatus _ => some (x.flt.sub % 2 ^ 16 * 2 ^ 16 + x.flt.status % 2 ^ 16)
  | .neFaultPc _ => some (x.flt.pc % 2 ^ 32)
  | .neFaultInfo _ => some (x.flt.detail % 2 ^ 32 * 2 ^ 32 + x.flt.slot % 4)
  | .neCyc _ => some x.neCyc
  | .neStallBank _ => some x.stBank
  | .neStallRemote _ => some x.stRemote
  | .neStallWait _ => some x.stWait
  | .neStallPwr _ => some x.stPwr
  | .neHmonCnt _ => some x.hmon
  | .cvsLoadcyc _ => some x.loadCyc
  | .cvsStrmcyc _ => some x.strmCyc
  | .cvsMacs _ => some x.macs
  | .cvsStat _ => some (bit x.tile.valid * 2 ^ 8 + fmtCode x.tile.fmt * 2 ^ 4 + bit (decide (x.cyc < x.cBusy) || !x.rows.isEmpty))
  | .cvsBiascnt _ =>
    some (x.biasCount 3 * 2 ^ 48 + x.biasCount 2 * 2 ^ 32 + x.biasCount 1 * 2 ^ 16 + x.biasCount 0)
  | .pntReruns _ => some x.pntRe
  | .pntRefused _ => some x.pntRefused
  | .pntLast _ => some (x.pntLast.1 % 2 ^ 32 * 2 ^ 32 + x.pntLast.2.1 % 2 ^ 8 * 2 ^ 16 + x.pntLast.2.2 % 2 ^ 10)
  | _ => none

/-- Registers of a fetch queue (Tables 9.7 to 9.9). -/
def fqView (q : FetchQ) : Reg → Option Nat
  | .fqStat .. =>
    some (q.state * 2 ^ 28 + (q.ents.filter fun x => x.st == .ready).length * 2 ^ 13 + q.entries % 2 ^ 13)
  | .fqCrgrant .. => some q.granted
  | .fqCrret .. => some (q.lret.getD q.ret)
  | .fqCrout .. => some (q.lout.getD (q.granted - q.ret))
  | .fqCtl .. => some (bit (q.state == 3))
  | _ => none

/-! ### The other units -/

/-- SYSCTL, CLK, PMC, SEC, HCL and the self-test (Tables 0.2, 8.9, 16.8 to 16.11, 17.12, 18.6, 19.3). -/
def State.sysView (s : State) : Reg → Option Nat
  | .sysctlId => some s.sysctlId
  | .sysctlStrap => some (s.lastRst % 4 * 2 ^ 8 + bit s.refclk * 2 + bit s.standalone)
  | .gsBistStatus => some (setBits (s.rget .gsBistStatus) 13 0 s.bistProgress)
  | .hclStat => some (setBits (s.rget .hclStat) 8 8 (bit s.pmc.pdHc))
  | .clkStat => some (bit s.sdLock * 4 + bit s.ddrLock * 2 + bit s.rootLock)
  | .pmcFuseNmin => some ((List.range 6).foldl (fun a e => a + s.fuse.nmin.getD e 0 % 2 ^ 7 * 2 ^ (7 * e)) 0)
  | .pmcFuseVtrim => some ((List.range 6).foldl (fun a e => a + s.fuse.vtrim.getD e 0 % 2 ^ 6 * 2 ^ (6 * e)) 0)
  | .pmcPwr =>
    some (s.pmc.pkg % 2 ^ 16 * 2 ^ 48 + s.pmc.tlimit % 2 ^ 16 * 2 ^ 32 + s.pmc.effcap % 2 ^ 16 * 2 ^ 16 +
      s.pmc.avail % 2 ^ 16)
  | .pmcTs n => some (s.temp n)
  | .pmcBoStat =>
    some (bit s.pmc.hold * 2 ^ 31 + bit s.pmc.pwrwarn * 2 ^ 30 + s.pmc.holdQ.length % 64 * 2 ^ 8 +
      min 64 s.pmc.held.length)
  | .pmcNePerf e =>
    let x := s.eng e
    some (setBits (setBits (setBits (s.rget (.pmcNePerf e)) 31 29 (idleCode x.idle)) 28 28 (bit (x.run == .budget)))
      14 8 x.curN)
  | .secStatus =>
    some (s.sec.dbgLvl % 16 * 2 ^ 20 + bit s.sec.fallback * 2 ^ 17 + s.sec.slot % 2 * 2 ^ 16 +
      s.lifecycle % 4 * 2 ^ 8 + s.sec.bootErr % 256)
  | .secDbgStat => some (bit s.sec.locked * 2 ^ 31 + bit s.debugBusy * 2 ^ 4 + s.sec.fails % 4 * 2 ^ 2)
  | .secMeas i j => some (fieldAt (beBytes 32 (s.meas i)) (8 * j) 8)
  | .secCtr j => some ((List.range 8).foldl (fun a k => a + s.otp (10 + 8 * j + k) % 256 * 2 ^ (8 * k)) 0)
  | _ => none

/-- CPQ_SQ_CFG.STATE (Table 11.14). -/
def State.sqState (s : State) (q : Nat) : Nat :=
  if (s.sq q).error then 3
  else if s.sqEn q then 1
  else if s.cmds.any fun c => c.sq == q then 2 else 0

/-- The load that a command processor executes: a LOAD_IMAGE whose pre-waits hold and which has not ended (R375)
(DESIGN CHOICE, log entry 36). -/
def State.loading (s : State) (cp : Nat) : Option Cmd :=
  s.cmds.find? fun c => c.sq % 2 == cp && c.phase == .dispatched && fieldAt c.desc 0 1 == 2 && s.barrierOk c

/-- Mailboxes, fences, host interface, links (Tables 11.12, 11.15, 12.4, 12.6, 12.8, 19.4, 19.5). -/
def State.hostView (s : State) : Reg → Option Nat
  | .mbxPopR k => some (match s.slots k with
      | v :: _ => v.toNat
      | [] => 0)
  | .mbxStat k => some (setBits (s.rget (.mbxStat k)) 15 12 (s.slots k).length)
  | .fenceProbeCtl => some (setBits (s.rget .fenceProbeCtl) 30 30 (bit s.probe.busy))
  | .fencePortVal p => some (match s.portFence p with
      | some f => (s.fence f).val.toNat
      | none => 0)
  | .fencePortAttrR p =>
    let err := s.fget (.fencePortAttrR p) 63 63 * 2 ^ 63
    some (match s.portFence p with
      | some f => err + (s.fence f).ooo % 2 ^ 16 * 2 ^ 32 + bit (s.ringSignalled f) * 2 + bit (s.fence f).ext
      | none => err)
  | .cpqReady =>
    some (bit s.ready * 2 ^ 31 + bit s.stage.2.2 * 2 ^ 30 + s.stage.1 % 16 * 2 ^ 16 + s.stage.2.1 % 2 ^ 14)
  | .cpqLoadprog c => some (match s.loading c with
      | some d => 2 ^ 31 + d.sq * 65536
      | none => s.rget (.cpqLoadprog c))
  | .ctxState c => some (setBits (s.rget (.ctxState c)) 1 0 (s.ctxSt c))
  | .ctxEngcyc c => some ((s.rget (.ctxEngcyc c) + s.engcycNow c) % 2 ^ 64)
  | .sqCfg q => some (setBits (s.rget (.sqCfg q)) 30 29 (s.sqState q))
  | .pcieLink => some (s.pcie.width % 16 * 2 ^ 4 + s.pcie.speed % 16)
  | .rpCtl => some (s.fget .rpCtl 31 31 * 2 ^ 31 + s.pcie.rpWidth % 16 * 2 ^ 4 + s.pcie.rpSpeed % 16)
  | .usbCtl =>
    some (s.fget .usbCtl 31 31 * 2 ^ 31 + bit s.usbAttached * 2 ^ 30 + (if s.usbAttached then s.usb % 4 else 0) * 2 ^ 28)
  | _ => none

/-- The magnitude of a signed number of counts. -/
def State.travelled (s : State) (e : Nat) : Nat :=
  (sx 48 (((s.enc e).pos + 2 ^ 48 - (s.enc e).job0) % 2 ^ 48)).natAbs

/-- PROGRESS of a roll job (R376), which never falls during the job (R374): that of the greatest TRAVELLED so far; the manual
states none for a LEN of zero (DESIGN CHOICE, log entry 44), and 0 at reset (Table 15.9). -/
def State.progress (s : State) (e : Nat) : Nat :=
  let len := s.fget (.encJob e) 47 0
  if (s.enc e).job = false then 0
  else if len = 0 then Config.openView e % 2 ^ 16 else min 10000 (10000 * (s.enc e).top / len)

/-- What a ball does: pulled down or up at high impedance, driven low, released (open drain), or as its function has it. -/
inductive Drive where
  | pullDown
  | pullUp
  | low
  | released
  | function
deriving DecidableEq, Repr

/-- The output balls that R443 names, and any other. -/
inductive Ball where
  | xspiCsN
  | drstN
  | thermtripN
  | other
deriving DecidableEq, Repr

/-- The drive of a ball (R394, R443). -/
def State.ballDrive (s : State) (b : Ball) : Drive :=
  if s.held then
    match b with
    | .xspiCsN => .pullUp
    | .drstN => .low
    | .thermtripN => .released
    | .other => .pullDown
  else
    match b with
    | .thermtripN => if s.tripped then .low else .released
    | _ => .function

/-- The level of a pin: SAFE in force, else what actions drive; the level of a pin that the device does not drive is the
surroundings' (DESIGN CHOICE, log entry 44), and 0 at reset (Table 15.9); in reset every output is high-impedance with pull-down
(R443). -/
def State.pinLevel (s : State) (p : Nat) : Nat :=
  let c := s.rget (.tioCfg p)
  if s.held then 0
  else if (s.line.safe ∨ s.fatal = true) ∧ bits c 30 30 = 1 then bits c 29 29
  else if bits c 31 31 = 1 then (bits s.line.level p p + bits c 28 28) % 2
  else if s.clock.ticks = 0 then 0
  else Config.openView (64 + p + 32 * s.clock.ticks) % 2

/-- TIME and LINE (Tables 15.6 to 15.10) (DEDUCED, log entry 43). -/
def State.lineView (s : State) : Reg → Option Nat
  | .timeSec => some s.clock.sec
  | .timeNsf => some (s.clock.latch.getD 0)
  | .timeSrvStat => some (s.servo.state * 2 ^ 62 + lowBits 32 s.servo.last)
  | .encPos e => some (s.enc e).pos
  | .encLast e => some (s.enc e).last
  | .encSpeed e => some (lowBits 64 (s.enc e).speed)
  | .encIdxp e => some (s.enc e).idxp
  | .encIdxt e => some (s.enc e).idxt
  | .encJobstat e => some (s.progress e * 2 ^ 48 + s.travelled e)
  | .encJobmm e => some (s.travelled e * s.fget (.encJob e) 63 48 / 256000 % 2 ^ 32)
  | .tioStat p => some (s.pinLevel p)
  | .taqCfg k => some (setBits (s.rget (.taqCfg k)) 28 27 (s.chan k).state)
  | .taqPending k => some ((s.line.queue.filter fun a => a.chan == k).length)
  | .canRxstat c => some (setBits (s.rget (.canRxstat c)) 6 0 (s.canFifo c).length)
  | .canRxhead c j => some (match s.canFifo c with
      | r :: _ => fieldAt r (8 * j) 8
      | [] => 0)
  | _ => none

/-- SDMA channels and frame rings (Tables 9.13 to 9.15). -/
def State.streamView (s : State) : Reg → Option Nat
  | .sdmaStatus c =>
    let x := mget (fun _ => ({} : Sdma)) s.sdmas c
    let at_ := match x.cur with
      | some r => (r.idx, r.failmask, if x.latched.isSome then 2 else 1)
      | none => (x.lastIdx, x.lastFail, 0)
    some (x.last % 2 ^ 16 * 2 ^ 48 + x.armRes % 2 ^ 16 * 2 ^ 32 + at_.1 % 2 ^ 24 * 2 ^ 8 + at_.2.1 % 2 ^ 6 * 2 ^ 2 + at_.2.2)
  | .frCtl r => some (setBits (s.rget (.frCtl r)) 2 1 (s.ring r).state)
  | .frPseq r => some (s.ring r).pseq
  | .frFseq r => some (s.ring r).fseq
  | .frCseq r k => some (mget (fun _ => 0) (s.ring r).cseq k)
  | _ => none

/-- The DDR5 controllers (Tables 13.6, 13.7, 13.9). -/
def State.ddrView (s : State) : Reg → Option Nat
  | .dmcTrainStatus =>
    let d := s.ddr
    some (bit d.busy * 2 ^ 31 + bit d.done * 2 ^ 30 + bit d.failed * 2 ^ 29 + d.failCh % 4 * 2 ^ 27 +
      s.trainStep % 8 * 2 ^ 24 + d.speed % 4 * 2 ^ 22 + s.trainProg % 2 ^ 14)
  | .dmcFill =>
    let d := s.ddr
    some ((if d.chmap = 0 then stOk else stPartial) * 2 ^ 48 + d.chmap % 16 * 2 ^ 44 + bits d.fill 38 21 * 2 ^ 21 +
      bit d.fillBusy * 2 ^ 15 + 10000 * d.fill / d.cap)
  | .dmcChStatus c =>
    let x := s.dmc c
    some (x.state % 4 * 2 ^ 30 + bit x.panic * 2 ^ 29 + bit x.pressure * 2 ^ 28 + x.ref2x % 4 * 2 ^ 26 +
      x.ingest.length % 2 ^ 9)
  | _ => none

/-- The structured state that a register's read-only fields mirror. -/
def State.mirror (s : State) (r : Reg) : Option Nat :=
  match r with
  | .neCtl e | .neStatus e | .neTaskBase e | .neTaskLimit e | .neFaultStatus e | .neFaultPc e | .neFaultInfo e | .neCyc e
  | .neStallBank e | .neStallRemote e | .neStallWait e | .neStallPwr e | .neHmonCnt e | .cvsLoadcyc e | .cvsStrmcyc e
  | .cvsMacs e | .cvsStat e | .cvsBiascnt e | .pntReruns e | .pntRefused e | .pntLast e =>
    s.engView (s.eng e) e r
  | .fqStat e q | .fqCrgrant e q | .fqCrret e q | .fqCrout e q | .fqCtl e q =>
    fqView (mget (fun _ => ({} : FetchQ)) (s.eng e).fqs q) r
  | _ =>
    s.sysView r <|> s.hostView r <|> s.lineView r <|> s.streamView r <|> s.ddrView r

/-- What a read of a register by its own width shows. Until READY the registers of CPQ, PMT and PCIE read as zero, but for
CPQ_READY (R282) (DEDUCED, log entry 6). -/
def State.view (s : State) (r : Reg) : Nat :=
  if waitsReady r.block ∧ s.ready = false ∧ r ≠ .cpqReady then 0
  else (s.mirror r).getD (readable (s.rget r) r.fields)

/-- What a read at an offset of the register space shows: zero where no register stands (R18)
(DEDUCED, log entry 6). -/
def State.viewAt (s : State) (off : Nat) : Nat :=
  match Reg.ofAddr off with
  | some r => s.view r
  | none => 0

/-! ### Accesses of registers by a master (R250, R405, R447) -/

/-- The lowest word of the wider structure that a register is a word of, and its words: a PMC_EVLOG record, a SEC_MEAS
register. -/
def wideOf : Reg → Option (Reg × List Reg)
  | .pmcEvlog i _ => some (.pmcEvlog i 0, [.pmcEvlog i 1])
  | .secMeas i _ => some (.secMeas i 0, [.secMeas i 1, .secMeas i 2, .secMeas i 3])
  | _ => none

/-- What a 64-bit read of a register does beside returning its value: it latches (R223, R357), or removes a record (R377). -/
def State.readAct (s : State) (r : Reg) : State :=
  match r with
  | .timeSec => s.readTimeSec
  | .fqCrgrant e q => s.modFq e q fun f => { f with lret := some f.ret, lout := some (f.granted - f.ret) }
  | .fqCrret e q => s.modFq e q fun f => { f with lret := none }
  | .fqCrout e q => s.modFq e q fun f => { f with lout := none }
  | .canRxhead c 9 => s.canPop c
  | _ => s

/-- A 64-bit read of a 64-bit register: the lowest word of a wider structure latches the others, whose next reads return the
latched values. -/
def State.read64 (s : State) (r : Reg) : Nat × State :=
  match wideOf r with
  | none => (s.view r, s.readAct r)
  | some (l, ws) =>
    if r = l then (s.view r, { s with wide := ws.foldl (fun m w => minsert w.addr (s.view w) m) s.wide })
    else
      match mfind s.wide r.addr with
      | some v => (v, { s with wide := merase r.addr s.wide })
      | none => (s.view r, s)

/-- A read of 32 bits at an aligned offset: a 32-bit register, or one half of a 64-bit one, which latches nothing. -/
def State.read32 (s : State) (off : Nat) : Nat :=
  match Reg.ofAddr off with
  | some r => s.view r % 2 ^ 32
  | none =>
    match Reg.ofAddr (off / 8 * 8) with
    | some r => if r.width = 64 then s.view r / 2 ^ 32 else 0
    | none => 0

/-- What a read by an endpoint's master returns, and what it does: an access that is not naturally aligned, or of another width
than 32 or 64 bits, returns zero and has no effect; so has one through window 0 without a link, at a kick page, or where no
register stands; a Gallery read of a Studio register returns zero and is counted; the aperture shows what the drive answers,
which is open (DESIGN CHOICE, log entry 25). SEC_DBG_STAT is reached only from the debug
port (R427). A 64-bit read at a place of two 32-bit registers is two reads, counted one by one (R447). `w` is the world of the access. -/
def State.busRead (s : State) (w : World) (ep : Endpoint) (off width : Nat) : Nat × State :=
  let o := aliasOff ep off
  if (width ≠ 32 ∧ width ≠ 64) ∨ off % (width / 8) ≠ 0 ∨ (ep = .host ∧ s.pcie.width = 0) ∨
      (ep = .host ∧ 0x3000000 ≤ off ∧ off < 0x3400000) then (0, s)
  else if 0x980000 ≤ off ∧ off < 0xA00000 ∧ s.regOpen w off false = true then (s.takeFree.1 % 2 ^ width, s.takeFree.2)
  else if !s.regOpen w o false then
    (0, if width = 64 ∧ !(Reg.ofAddr o).any (fun r => r.width == 64) then (s.violation o false).violation (o + 4) false
      else s.violation o false)
  else if Reg.ofAddr o = some .secDbgStat then (0, s)
  else if width = 32 then (s.read32 o, s)
  else
    match Reg.ofAddr o with
    | some r => if r.width = 64 then s.read64 r else (s.view r % 2 ^ 32 + s.read32 (o + 4) * 2 ^ 32, s)
    | none => (s.read32 (o + 4) * 2 ^ 32, s)

/-- A mailbox endpoint that neither sends nor receives on a channel: the debug port, which is no endpoint, has its accesses there
refused as that one's are (R302). -/
def State.stranger (s : State) (off : Nat) : Endpoint :=
  let k := (off - 0x400000) / 0x1000
  (([Endpoint.pmc, .sec, .hc].find? fun e => s.mbxSender k != some e && s.mbxReceiver k != some e)).getD .pmc

/-- The endpoint that a master of device physical addresses is at the register bridge; none for the others. -/
def State.masterEp (s : State) (off : Nat) : Master → Option Endpoint
  | .sec => some .sec
  | .pmc => some .pmc
  | .hcMachine | .hcUser => some .hc
  | .debug _ => some (s.stranger off)
  | _ => none

/-- A read of a register by a master: MBX_POP has its own effect (R302); the value is in the answer. -/
def State.masterRead (s : State) (w : World) (ep : Endpoint) (off n : Nat) : Host.Outcome State Fault Refusal :=
  match Reg.ofAddr off with
  | some (.mbxPopR k) =>
    if n = 8 ∧ off % 8 = 0 then execMbxPop w ep (Fin.ofNat 24 k) s else .next (s.answer (.ok (leBytes n 0)))
  | _ =>
    let r := s.busRead w ep off (8 * n)
    .next (r.2.answer (.ok (leBytes n r.1)))

/-- A write of a register by a master. -/
def State.masterWrite (s : State) (w : World) (ep : Endpoint) (off : Nat) (d : List Byte) : Host.Outcome State Fault Refusal :=
  match busWrite w ep off (8 * d.length) (fieldAt d 0 d.length) s with
  | .next t => .next (t.answer (.ok []))
  | o => o

/-- Whether a master may access anything: the debug port only with the level it has been granted (R425), an application core only
while one runs (R388, R394, R451). -/
def State.mayAccess (s : State) : Master → Bool
  | .debug l => l.val != 0 && l.val == s.sec.dbgLvl
  | .hcMachine | .hcUser => s.hcRunning
  | _ => true

/-- REMOTE_ACCESS (R190, R193, R403, R405, R407, R425, R447): an access of memory, or by device physical address of a set-up
register. -/
def execRemoteAccess (m : Master) (ctx : BitVec 12) (va : BitVec 48) (a : Access) (s : State) :
    Host.Outcome State Fault Refusal :=
  if s.mayAccess m = false then .next (s.answer (.error ⟨stUnmapped, 1, va.toNat % 2 ^ 32⟩))
  else
    match regionOf (va.toNat % 2 ^ 44), s.masterEp (va.toNat % 2 ^ 44 - regsBase) m with
    | .regs off, some ep =>
      match a with
      | .read n => s.masterRead (masterWorld m) ep off n
      | .write d => s.masterWrite (masterWorld m) ep off d
    | _, _ =>
      let r := s.masterAccess m ctx.toNat va.toNat a
      .next (r.2.answer r.1)

end Sys2Proof.Machine
end

