-- ==== Sys2Proof/Machine/Dispatch.lean ====
section
/-! DEFINITION. The meaning of every command: one arm for each constructor of `Instr`. -/

namespace Sys2Proof.Machine

open Sys2Proof

def exec (i : Instr) (s : State) : Host.Outcome State Fault Refusal :=
  match i with
  | .powerOnReset cause => Sys2Proof.Machine.execPowerOnReset cause s
  | .resetRelease modeSel refclk test => Sys2Proof.Machine.execResetRelease modeSel refclk test s
  | .warmReset => Sys2Proof.Machine.execWarmReset s
  | .perstEndpointReset => Sys2Proof.Machine.execPerstEndpointReset s
  | .functionLevelReset => Sys2Proof.Machine.execFunctionLevelReset s
  | .brownoutReset io18 => Sys2Proof.Machine.execBrownoutReset io18 s
  | .dipEpisodeStart causes mv => Sys2Proof.Machine.execDipEpisodeStart causes mv s
  | .dipEpisodeEnd => Sys2Proof.Machine.execDipEpisodeEnd s
  | .nvOperationRelease => Sys2Proof.Machine.execNvOperationRelease s
  | .thermalTrip sensor temp => Sys2Proof.Machine.execThermalTrip sensor temp s
  | .tlimitStep temps => Sys2Proof.Machine.execTlimitStep temps s
  | .droopSuppress ne => Sys2Proof.Machine.execDroopSuppress ne s
  | .droopRecover ne pulses => Sys2Proof.Machine.execDroopRecover ne pulses s
  | .rootpllLock => Sys2Proof.Machine.execRootpllLock s
  | .bootChain env => Sys2Proof.Machine.execBootChain env s
  | .commandStart ne => Sys2Proof.Machine.execCommandStart ne s
  | .cmm h c x => Sys2Proof.Machine.execCmm h c x s
  | .acmRowWrite ne => Sys2Proof.Machine.execAcmRowWrite ne s
  | .salu h sd sa sb fn => Sys2Proof.Machine.execSalu h sd sa sb fn s
  | .salui h sd sa fn imm => Sys2Proof.Machine.execSalui h sd sa fn imm s
  | .lil h sd imm => Sys2Proof.Machine.execLil h sd imm s
  | .lih h sd imm => Sys2Proof.Machine.execLih h sd imm s
  | .movsp h sd spr => Sys2Proof.Machine.execMovsp h sd spr s
  | .arset h ak fld src => Sys2Proof.Machine.execArset h ak fld src s
  | .loop h lvl cnt body => Sys2Proof.Machine.execLoop h lvl cnt body s
  | .brz h sa off => Sys2Proof.Machine.execBrz h sa off s
  | .brnz h sa off => Sys2Proof.Machine.execBrnz h sa off s
  | .fwait h sv f dl => Sys2Proof.Machine.execFwait h sv f dl s
  | .fsig h sv f => Sys2Proof.Machine.execFsig h sv f s
  | .phase h ph => Sys2Proof.Machine.execPhase h ph s
  | .end_ h => Sys2Proof.Machine.execEnd h s
  | .ld h vd ak sz vpos imm => Sys2Proof.Machine.execLd h vd ak sz vpos imm s
  | .st h vs ak sz vpos imm => Sys2Proof.Machine.execSt h vs ak sz vpos imm s
  | .lds h sd ak imm => Sys2Proof.Machine.execLds h sd ak imm s
  | .sts h ss ak imm => Sys2Proof.Machine.execSts h ss ak imm s
  | .rld h vd sa sz vpos => Sys2Proof.Machine.execRld h vd sa sz vpos s
  | .rst h vs sa sz vpos => Sys2Proof.Machine.execRst h vs sa sz vpos s
  | .fqpop h vd q => Sys2Proof.Machine.execFqpop h vd q s
  | .racq h sd rng role => Sys2Proof.Machine.execRacq h sd rng role s
  | .rrel h rng role => Sys2Proof.Machine.execRrel h rng role s
  | .biasld h bb vs lq => Sys2Proof.Machine.execBiasld h bb vs lq s
  | .palwr h ps tag vs e0 cnt => Sys2Proof.Machine.execPalwr h ps tag vs e0 cnt s
  | .vop2 h fn c => Sys2Proof.Machine.execVop2 h fn c s
  | .vfma h c => Sys2Proof.Machine.execVfma h c s
  | .vcmp h fn pd c => Sys2Proof.Machine.execVcmp h fn pd c s
  | .vsel h c => Sys2Proof.Machine.execVsel h c s
  | .vcvt h target group c => Sys2Proof.Machine.execVcvt h target group c s
  | .vfn h fn c => Sys2Proof.Machine.execVfn h fn c s
  | .vred h op segs c => Sys2Proof.Machine.execVred h op segs c s
  | .vperm h c => Sys2Proof.Machine.execVperm h c s
  | .vext h sd va et lane => Sys2Proof.Machine.execVext h sd va et lane s
  | .vbcast h sa c => Sys2Proof.Machine.execVbcast h sa c s
  | .plog h fn pd pa pb pr zm sa => Sys2Proof.Machine.execPlog h fn pd pa pb pr zm sa s
  | .drn h vd pos raw ring chr lpi row => Sys2Proof.Machine.execDrn h vd pos raw ring chr lpi row s
  | .wgcfg h set field sa => Sys2Proof.Machine.execWgcfg h set field sa s
  | .pq h vd va gp pr slot sub cb8 cntm1 => Sys2Proof.Machine.execPq h vd va gp pr slot sub cb8 cntm1 s
  | .resultWrite ne => Sys2Proof.Machine.execResultWrite ne s
  | .ownStorePerformed ne => Sys2Proof.Machine.execOwnStorePerformed ne s
  | .rldReply ne late => Sys2Proof.Machine.execRldReply ne late s
  | .bankGrant ne reqs => Sys2Proof.Machine.execBankGrant ne reqs s
  | .pentimentoDecision h => Sys2Proof.Machine.execPentimentoDecision h s
  | .decisionBundleResume ne => Sys2Proof.Machine.execDecisionBundleResume ne s
  | .activityRamp ne otherStalls => Sys2Proof.Machine.execActivityRamp ne otherStalls s
  | .clockStep ne n => Sys2Proof.Machine.execClockStep ne n s
  | .stopReq w ne => Sys2Proof.Machine.execStopReq w ne s
  | .commandComplete ne => Sys2Proof.Machine.execCommandComplete ne s
  | .partStart ne => Sys2Proof.Machine.execPartStart ne s
  | .partEnd ne => Sys2Proof.Machine.execPartEnd ne s
  | .kick sq => Sys2Proof.Machine.execKick sq s
  | .sqPoll sq => Sys2Proof.Machine.execSqPoll sq s
  | .descriptorAccept sq => Sys2Proof.Machine.execDescriptorAccept sq s
  | .commandDispatch cp => Sys2Proof.Machine.execCommandDispatch cp s
  | .nop sq seq => Sys2Proof.Machine.execNop sq seq s
  | .loadImage sq seq => Sys2Proof.Machine.execLoadImage sq seq s
  | .unloadImage sq seq => Sys2Proof.Machine.execUnloadImage sq seq s
  | .run sq seq => Sys2Proof.Machine.execRun sq seq s
  | .sdmaArm sq seq => Sys2Proof.Machine.execSdmaArm sq seq s
  | .abort sq seq => Sys2Proof.Machine.execAbort sq seq s
  | .window sq seq => Sys2Proof.Machine.execWindow sq seq s
  | .completionWrite cq => Sys2Proof.Machine.execCompletionWrite cq s
  | .cqCoalesceTimer cq => Sys2Proof.Machine.execCqCoalesceTimer cq s
  | .contextModeSelect w mode => Sys2Proof.Machine.execContextModeSelect w mode s
  | .create w ctx => Sys2Proof.Machine.execCreate w ctx s
  | .destroy w ctx => Sys2Proof.Machine.execDestroy w ctx s
  | .contextFreed ctx => Sys2Proof.Machine.execContextFreed ctx s
  | .queueEnWrite w cq q cfg => Sys2Proof.Machine.execQueueEnWrite w cq q cfg s
  | .pmtInstall w => Sys2Proof.Machine.execPmtInstall w s
  | .pmtRemove w => Sys2Proof.Machine.execPmtRemove w s
  | .pmtRemoveForce w => Sys2Proof.Machine.execPmtRemoveForce w s
  | .pmtLookup w => Sys2Proof.Machine.execPmtLookup w s
  | .pmtRead w => Sys2Proof.Machine.execPmtRead w s
  | .pmtOpComplete => Sys2Proof.Machine.execPmtOpComplete s
  | .window2Access off a => Sys2Proof.Machine.execWindow2Access off a s
  | .configRequest reg wr => Sys2Proof.Machine.execConfigRequest reg wr s
  | .fenceSignal sigs => Sys2Proof.Machine.execFenceSignal sigs s
  | .fencePortSig w p v => Sys2Proof.Machine.execFencePortSig w p v s
  | .fencePortAttr w p v => Sys2Proof.Machine.execFencePortAttr w p v s
  | .fenceCtxRange w c v => Sys2Proof.Machine.execFenceCtxRange w c v s
  | .waitDeadline t => Sys2Proof.Machine.execWaitDeadline t s
  | .deadlockProbeRequest t => Sys2Proof.Machine.execDeadlockProbeRequest t s
  | .deadlockProbe => Sys2Proof.Machine.execDeadlockProbe s
  | .deadlockVerdict => Sys2Proof.Machine.execDeadlockVerdict s
  | .mbxPush w ep k data => Sys2Proof.Machine.execMbxPush w ep k data s
  | .mbxPop w ep k => Sys2Proof.Machine.execMbxPop w ep k s
  | .mbxEnable w k cfg => Sys2Proof.Machine.execMbxEnable w k cfg s
  | .sdmaChArm w c v => Sys2Proof.Machine.execSdmaChArm w c v s
  | .descriptorBurstRead c => Sys2Proof.Machine.execDescriptorBurstRead c s
  | .copy c => Sys2Proof.Machine.execCopy c s
  | .mcast c => Sys2Proof.Machine.execMcast c s
  | .fill c => Sys2Proof.Machine.execFill c s
  | .fetch ne q => Sys2Proof.Machine.execFetch ne q s
  | .link c => Sys2Proof.Machine.execLink c s
  | .descNop c => Sys2Proof.Machine.execDescNop c s
  | .fetchEntryBegin ne => Sys2Proof.Machine.execFetchEntryBegin ne s
  | .fetchReadComplete ne q => Sys2Proof.Machine.execFetchReadComplete ne q s
  | .queueCancel w ne q => Sys2Proof.Machine.execQueueCancel w ne q s
  | .creditLatchRead w ne q => Sys2Proof.Machine.execCreditLatchRead w ne q s
  | .ringEnable w r => Sys2Proof.Machine.execRingEnable w r s
  | .ringDisable w r => Sys2Proof.Machine.execRingDisable w r s
  | .frPortAcquire w r role port => Sys2Proof.Machine.execFrPortAcquire w r role port s
  | .frPortRelease w r role port => Sys2Proof.Machine.execFrPortRelease w r role port s
  | .windowOpen w slice win rd wr => Sys2Proof.Machine.execWindowOpen w slice win rd wr s
  | .windowClose w slice win rd wr => Sys2Proof.Machine.execWindowClose w slice win rd wr s
  | .windowClosed slice win => Sys2Proof.Machine.execWindowClosed slice win s
  | .remoteAccess m ctx va a => Sys2Proof.Machine.execRemoteAccess m ctx va a s
  | .eccWriteBack region => Sys2Proof.Machine.execEccWriteBack region s
  | .gessoPatrolScrub => Sys2Proof.Machine.execGessoPatrolScrub s
  | .bistStart w sel => Sys2Proof.Machine.execBistStart w sel s
  | .bistDone fails => Sys2Proof.Machine.execBistDone fails s
  | .gsEccInjArm w region mode => Sys2Proof.Machine.execGsEccInjArm w region mode s
  | .slcStreamPrefetch addr nopf => Sys2Proof.Machine.execSlcStreamPrefetch addr nopf s
  | .trainingStart w dimms => Sys2Proof.Machine.execTrainingStart w dimms s
  | .trainingDone fail => Sys2Proof.Machine.execTrainingDone fail s
  | .ddrUse w => Sys2Proof.Machine.execDdrUse w s
  | .fillAdvance => Sys2Proof.Machine.execFillAdvance s
  | .ddrRequestArrive addr wr data origin => Sys2Proof.Machine.execDdrRequestArrive addr wr data origin s
  | .ddrCommandIssue ch legal => Sys2Proof.Machine.execDdrCommandIssue ch legal s
  | .sameBankRefresh ch rank => Sys2Proof.Machine.execSameBankRefresh ch rank s
  | .modeRegisterPoll ch readings => Sys2Proof.Machine.execModeRegisterPoll ch readings s
  | .zqCalibration ch op => Sys2Proof.Machine.execZqCalibration ch op s
  | .retryEntryRetire ch => Sys2Proof.Machine.execRetryEntryRetire ch s
  | .alertEpisode ch => Sys2Proof.Machine.execAlertEpisode ch s
  | .ddrReadReturn ch err => Sys2Proof.Machine.execDdrReadReturn ch err s
  | .ddrCorrectionWriteback ch => Sys2Proof.Machine.execDdrCorrectionWriteback ch s
  | .ddrPatrolScrub => Sys2Proof.Machine.execDdrPatrolScrub s
  | .dmcEccInjArm w ch mode => Sys2Proof.Machine.execDmcEccInjArm w ch mode s
  | .srcEnable w psrc ctl => Sys2Proof.Machine.execSrcEnable w psrc ctl s
  | .commit w psrc => Sys2Proof.Machine.execCommit w psrc s
  | .csiFrameStart st frame => Sys2Proof.Machine.execCsiFrameStart st frame s
  | .csiLongPacket port vc dt payload crcErr held => Sys2Proof.Machine.execCsiLongPacket port vc dt payload crcErr held s
  | .csiFrameEnd st => Sys2Proof.Machine.execCsiFrameEnd st s
  | .cxpImageHeader c count known => Sys2Proof.Machine.execCxpImageHeader c count known s
  | .cxpLine c payload crcErr held => Sys2Proof.Machine.execCxpLine c payload crcErr held s
  | .lfcLine g => Sys2Proof.Machine.execLfcLine g s
  | .ippContextSwitch ipp => Sys2Proof.Machine.execIppContextSwitch ipp s
  | .ippStripe ipp => Sys2Proof.Machine.execIppStripe ipp s
  | .encodePicture unit => Sys2Proof.Machine.execEncodePicture unit s
  | .decodePicture => Sys2Proof.Machine.execDecodePicture s
  | .cxpControlGo w c => Sys2Proof.Machine.execCxpControlGo w c s
  | .cxpControlAck c ack data => Sys2Proof.Machine.execCxpControlAck c ack data s
  | .cxpControlTimeout c => Sys2Proof.Machine.execCxpControlTimeout c s
  | .timeStep w v => Sys2Proof.Machine.execTimeStep w v s
  | .timeSecRead w => Sys2Proof.Machine.execTimeSecRead w s
  | .timeFreqWrite w v => Sys2Proof.Machine.execTimeFreqWrite w v s
  | .servoSample w v => Sys2Proof.Machine.execServoSample w v s
  | .holdoverEnter => Sys2Proof.Machine.execHoldoverEnter s
  | .ethReceive p frame fcsErr => Sys2Proof.Machine.execEthReceive p frame fcsErr s
  | .ethTransmit p => Sys2Proof.Machine.execEthTransmit p s
  | .encoderCount e a b => Sys2Proof.Machine.execEncoderCount e a b s
  | .encoderIndex e => Sys2Proof.Machine.execEncoderIndex e s
  | .encoderRecord e => Sys2Proof.Machine.execEncoderRecord e s
  | .speedTimeout e => Sys2Proof.Machine.execSpeedTimeout e s
  | .rollJobStart w e v => Sys2Proof.Machine.execRollJobStart w e v s
  | .actionFetch k => Sys2Proof.Machine.execActionFetch k s
  | .actionFire => Sys2Proof.Machine.execActionFire s
  | .pulseTrailingEdge pin => Sys2Proof.Machine.execPulseTrailingEdge pin s
  | .actionChannelDisable w k flush => Sys2Proof.Machine.execActionChannelDisable w k flush s
  | .actionChannelDisabled k => Sys2Proof.Machine.execActionChannelDisabled k s
  | .canTxreq w c v => Sys2Proof.Machine.execCanTxreq w c v s
  | .canTransmit c => Sys2Proof.Machine.execCanTransmit c s
  | .canReceive c rec => Sys2Proof.Machine.execCanReceive c rec s
  | .canRxPop w c => Sys2Proof.Machine.execCanRxPop w c s
  | .busOffRecovery c => Sys2Proof.Machine.execBusOffRecovery c s
  | .reqnWrite w e n => Sys2Proof.Machine.execReqnWrite w e n s
  | .avsTimeout e => Sys2Proof.Machine.execAvsTimeout e s
  | .idleStateSelect e => Sys2Proof.Machine.execIdleStateSelect e s
  | .idleExit e => Sys2Proof.Machine.execIdleExit e s
  | .powerSample r => Sys2Proof.Machine.execPowerSample r s
  | .allocate => Sys2Proof.Machine.execAllocate s
  | .pmcCapWrite w v => Sys2Proof.Machine.execPmcCapWrite w v s
  | .powerDomainOff d => Sys2Proof.Machine.execPowerDomainOff d s
  | .powerDomainOn d => Sys2Proof.Machine.execPowerDomainOn d s
  | .attest k => Sys2Proof.Machine.execAttest k s
  | .getCert k => Sys2Proof.Machine.execGetCert k s
  | .extend k => Sys2Proof.Machine.execExtend k s
  | .flashUpdate k => Sys2Proof.Machine.execFlashUpdate k s
  | .counterAdvance k => Sys2Proof.Machine.execCounterAdvance k s
  | .keyWrite k => Sys2Proof.Machine.execKeyWrite k s
  | .debugChallengeRead => Sys2Proof.Machine.execDebugChallengeRead s
  | .debugResponseGo resp => Sys2Proof.Machine.execDebugResponseGo resp s
  | .regionDescriptorWrite w n cfg v => Sys2Proof.Machine.execRegionDescriptorWrite w n cfg v s
  | .secBlkworldWrite w v => Sys2Proof.Machine.execSecBlkworldWrite w v s
  | .secLockBlk w => Sys2Proof.Machine.execSecLockBlk w s
  | .hcRelease w k => Sys2Proof.Machine.execHcRelease w k s
  | .hcHold w k => Sys2Proof.Machine.execHcHold w k s
  | .cluster w => Sys2Proof.Machine.execCluster w s
  | .usbAttach speed => Sys2Proof.Machine.execUsbAttach speed s
  | .usbDetach => Sys2Proof.Machine.execUsbDetach s
  | .usbTransfer ring data setup => Sys2Proof.Machine.execUsbTransfer ring data setup s
  | .pcierpCfgGo w wr reg => Sys2Proof.Machine.execPcierpCfgGo w wr reg s
  | .apertureWrite w off data => Sys2Proof.Machine.execApertureWrite w off data s
  | .inboundRequest addr a => Sys2Proof.Machine.execInboundRequest addr a s
  | .registerWrite w ep addr width v => Sys2Proof.Machine.execRegisterWrite w ep addr width v s
  | .perstNDeassertion => Sys2Proof.Machine.execPerstNDeassertion s
  | .pcieLinkTraining width speed => Sys2Proof.Machine.execPcieLinkTraining width speed s
  | .rootPortLinkTraining width speed => Sys2Proof.Machine.execRootPortLinkTraining width speed s
  | .pcierpCfgCompletion ur data => Sys2Proof.Machine.execPcierpCfgCompletion ur data s
  | .pcierpCfgTimeout => Sys2Proof.Machine.execPcierpCfgTimeout s
  | .avsVdone e => Sys2Proof.Machine.execAvsVdone e s
  | .alertNRelease ch => Sys2Proof.Machine.execAlertNRelease ch s
  | .idleExitDone e => Sys2Proof.Machine.execIdleExitDone e s
  | .serdesPllLock => Sys2Proof.Machine.execSerdesPllLock s

end Sys2Proof.Machine
end

