-- ==== Sys2Proof/Machine/Idle.lean ====
section
/-! DEFINITION. What happens at a tick while no command waits: one PERCLK cycle passes (R356), and engines that wait count
the ENGCLK cycles in it (R98, Table 4.3, R173, R382, R391); the encoders' inputs are sampled (R362). -/

namespace Sys2Proof.Machine

open Sys2Proof

/-- ENGCLK pulses of one PERCLK cycle: 44.8 GHz / N over 200 MHz is 224 / N, and every second pulse is suppressed in a droop
(R378, R383). The remainder is carried in `facc` (DESIGN CHOICE, log entry 2). -/
def Engine.pulses (x : Engine) : Nat × Nat :=
  let a := x.facc + (if x.droop then 112 else 224)
  if x.curN = 0 then (0, 0) else (a / x.curN, a % x.curN)

/-- Whether the engine waits for a fence, a queue or a ring. -/
def RunSt.waits : RunSt → Bool
  | .waitFence | .waitFq .. | .waitRing .. => true
  | _ => false

/-- An engine over one PERCLK cycle in which it issues nothing. The cycles of an engine that issues are those of its
commands; an engine whose clock is stopped has none (DESIGN CHOICE, log entry 2). -/
def Engine.rest (x : Engine) : Engine :=
  if x.run = .issuing ∨ x.idle ≠ .active then x
  else
    let p := x.pulses
    { x with
      facc := p.2
      noIssue := x.noIssue + p.1
      clk := x.clk + p.1
      stWait := if x.run.waits then (x.stWait + p.1) % 2 ^ 64 else x.stWait
      stPwr := if x.run = .budget then (x.stPwr + p.1) % 2 ^ 64 else x.stPwr
      elapsed := if x.run.waits ∨ x.run = .budget then x.elapsed + p.1 else x.elapsed }

/-- One engine over one idle PERCLK cycle, with the known events that pass in it (R386) and, in a droop, the suppressed pulses
(R383). -/
def State.restEng (s : State) (e : Nat) : State :=
  let x := s.eng e
  let y := x.rest
  ((s.setEng e y).suppress e (y.clk - x.clk)).dropPassed e

/-- One idle PERCLK cycle. A thermal trip stops the engine clocks, not device time (R394); nothing runs in reset
(DESIGN CHOICE, log entry 2). -/
def State.idleTick (s : State) : State :=
  if s.held then s
  else
    let s := (List.range 4).foldl State.encTick { s with clock := s.clock.tick }
    if s.tripped then s else (List.range 6).foldl State.restEng s

end Sys2Proof.Machine
end

