-- ==== Sys2Proof/Safety.lean ====
section
/-! DEFINITION. The terms in which statements about the block are made: which commands can stop a run, what a command leaves
alone, and when an engine instruction issues with its operands ready. -/

namespace Sys2Proof.Machine

open Sys2Proof

/-! ### Runs that do not stop -/

/-- A command that no loader verifier refuses: a well-formed engine instruction, with scatter on NE4 and NE5 only (R160), or
any other command (DEDUCED, log entry 57). -/
def issuable (c : Instr) : Bool :=
  c.wf && (match c with
    | .cmm h w _ => !w.scat || decide (4 ≤ h.ne.val)
    | _ => true)

/-- Whether every waiting command can be executed. -/
def State.queueOk (s : State) : Prop := ∀ c ∈ s.pending, issuable c = true

/-! ### What a command leaves alone -/

/-- Only the set-up registers named differ: the rest of the state, and every register at another address, is unchanged. -/
def State.onlyRegs (s t : State) (l : List Reg) : Prop :=
  t = { s with regs := t.regs } ∧ ∀ q : Reg, (∀ r ∈ l, q.addr ≠ r.addr) → t.rget q = s.rget q

/-- Registers at other addresses than those named are unchanged. -/
def State.regsBut (s t : State) (l : List Reg) : Prop := ∀ q : Reg, (∀ r ∈ l, q.addr ≠ r.addr) → t.rget q = s.rget q

/-- A register access that the register bus performs: the block is open to the master's world (R404, R405), and the
registers that wait for READY do not stand in the way (R282). -/
def State.admits (s : State) (w : World) (r : Reg) (wr : Bool) : Prop :=
  s.regOpen w r.addr wr = true ∧ (waitsReady (r.addr / 0x100000) = true → s.ready = true)

/-- Only one engine differs. -/
def State.onlyEngine (s t : State) (e : Nat) : Prop :=
  t = { s with engines := t.engines } ∧ ∀ f, f ≠ e → t.eng f = s.eng f

/-- Every byte of memory outside `n` bytes from `a` up reads as before. -/
def State.bytesBut (s t : State) (a n : Nat) : Prop := ∀ x, x < a ∨ a + n ≤ x → t.byte x = s.byte x

/-! ### Power -/

/-- The power sum (R31, R391): what is allocated, with the fixed part, fits under the effective cap. With it stands what the
procedure rests on: an engine without a command has no allocation, and one that falls falls to a lower one. -/
def State.powerOk (s : State) : Prop :=
  s.allocSum + s.fixedPart ≤ s.pmc.effcap ∧
  ∀ e, e < 6 → ((s.eng e).task = none → (s.eng e).alloc = 0) ∧ ∀ a, (s.eng e).fall = some a → a ≤ (s.eng e).alloc

/-! ### Fetch queues and rings -/

/-- The credits of every fetch queue (R219, R31): those granted are those returned and those outstanding, one for each entry, and
no more are outstanding than the queue has entries. A pop that a fault may still undo has returned its credit. -/
def State.creditsOk (s : State) : Prop :=
  (∀ e q, ((s.eng e).fq q).granted = ((s.eng e).fq q).ret + ((s.eng e).fq q).ents.length ∧
    ((s.eng e).fq q).ents.length ≤ ((s.eng e).fq q).entries) ∧
  ∀ e p q c, mfind s.snaps e = some p → p.pop = some (q, c) → 1 ≤ ((s.eng e).fq q).ret ∧ (s.eng e).run ≠ .idle

/-- The slots of a ring (R225): each published slot stands once, in rising order of SEQ below PSEQ, and the slot that the producer
holds is none of them. -/
def Ring.slotsOk (x : Ring) : Prop :=
  (x.pub.map (·.slot)).Nodup ∧ x.pub.Pairwise (fun a b => a.seq < b.seq) ∧ (∀ p ∈ x.pub, p.seq < x.pseq) ∧
  ∀ h, x.prod = some h → ∀ p ∈ x.pub, p.slot ≠ h.slot

/-- Every ring, and every ring that a fault may still restore, has its slots in order. -/
def State.ringsOk (s : State) : Prop :=
  (∀ r, (s.ring r).slotsOk) ∧ ∀ e p r x, mfind s.snaps e = some p → p.ring = some (r, x) → x.slotsOk

/-! ### Commands of the submission queues -/

/-- A command commits with a status and a sub-code (R267, R268, R278), after ST_FATAL has been reported with ST_FATAL (R281):
its record joins the commit queue for the completion queue of its acceptance, its SIGNAL entries go with it on ST_OK only, and
the command is accepted no more. -/
def State.completes (s t : State) (c : Cmd) (st sub : Nat) : Prop :=
  (∃ r l, t.commitQ = s.commitQ ++ r :: l ∧ r.status = (if s.fatal then 0xF0 else st) ∧
    r.sub = (if s.fatal then 0 else sub) ∧ r.cmdId = fieldAt c.desc 8 4 ∧ r.seq = c.rseq ∧ r.key = c.seq ∧
    r.sq = c.sq ∧ r.ctx = c.ctx ∧ r.pins = c.pins ∧ r.cq = c.cq ∧
    r.signals = if s.fatal = false ∧ st = 0 then s.cmdSignals c else []) ∧
  ∀ d ∈ t.cmds, d.sq = c.sq → d.seq ≠ c.seq

/-! ### Requests to the Security core -/

/-- The SEC has answered a request in channel `a` with a status (R420, R421); nothing of `x` but that channel differs. -/
def State.secAnswers (x t : State) (a : Nat) (q : SecReq) (st : Nat) : Prop :=
  t = { x with mbx := t.mbx } ∧ t.slots a = x.slots a ++ [BitVec.ofNat 64 (q.op + q.tag * 2 ^ 16 + st % 65536 * 2 ^ 24)] ∧
    ∀ j, j ≠ a → t.slots j = x.slots j

/-- An answer of the SEC to channel `k` stands on channel `a`, which has room, whose receiver is not held in reset, and which raises
no interrupt for it. -/
def State.answersTo (x : State) (k a : Nat) : Prop :=
  x.answerCh k = some a ∧ (x.slots a).length < 8 ∧ (x.mbxReceiver a).any x.epReset = false ∧
    (x.fget (.mbxCfg a) 62 62 = 0 ∨ x.slots a ≠ []) ∧ (x.mbxReceiver a ≠ some .hc ∨ x.pmc.pdHc = true)

/-- What the end of a flash update does (R420, R422): SEC_UPD_STAT takes `stat`, no update runs, and its requester's answer joins
channel `a`. -/
def State.updAnswers (x t : State) (a : Nat) (u : FlashUpd) (stat st : Nat) : Prop :=
  t = { x with regs := t.regs, mbx := t.mbx, sec := { x.sec with upd := none } } ∧ x.regsBut t [.secUpdStat] ∧
    t.rget .secUpdStat = stat ∧
    t.slots a = x.slots a ++
      [BitVec.ofNat 64 (4 + u.tag * 2 ^ 16 + st % 65536 * 2 ^ 24 + if u.heldOp then 2 ^ 40 else 0)] ∧
    ∀ j, j ≠ a → t.slots j = x.slots j

/-- A register whose write does nothing beside taking its fields by their access types: it has no row and no further effect
of its own, and its values have no range (R8). -/
def Reg.plain : Reg → Bool
  | .cpqInit | .sqCfg _ | .cqCfg _ | .pmtInstallR | .mbxCfg _ | .mbxPushR _ | .mbxStat _ | .mbxLost _ | .mbxBadsrc _ | .mbxPopR _
  | .fencePortSigR _ | .fencePortAttrR _ | .fenceCtxRangeR _ | .timeStepR | .timeFreq | .timeSrvOfs | .encJob _ | .canTxreqR _
  | .sdmaArmR _ | .frCtl _ | .frPortOp _ | .secRgnBase _ | .secRgnCfg _ | .secBlkworld | .secLock | .fqCtl _ _ | .secDbgStat
  | .cpqKick | .cpqCtxOp | .fenceProbeCtl | .timeSrvCtl | .encCfg _ | .taqCfg _ | .ethCfg _ | .csiPortCfg _ | .usbEpCfg _ | .canCtl _
  | .srcCtl _ _ | .cdcCtl _ _ | .gsWinBase _ _ | .gsWinSize _ _ | .gsWinCtl _ _ | .gsBistCtl | .gsEccInj | .dmcEccInj | .dmcCfg
  | .dmcTrainCtl | .ctxEngcyc _ | .hclRst | .rpCtl | .rpCfg | .msixCtl _ | .neCtl _ | .neCyc _ | .neStallBank _ | .neStallRemote _
  | .neStallWait _ | .neStallPwr _ | .neHmonCnt _ | .cvsLoadcyc _ | .cvsStrmcyc _ | .cvsMacs _ | .pntCtl _ | .gsPfCtl
  | .dmcPanicLvl _ | .pntReruns _ | .pntRefused _ => false
  | r => r.block != 2

/-- Bytes of the buffer that an operation of the SEC reads first (Table 17.9). -/
def secReads : Nat → Nat
  | 1 => 32
  | 2 => 1
  | 3 => 32
  | 4 => 12
  | 5 => 2
  | _ => 272

/-! ### Engine instructions -/

/-- The state when the engine has run to the bundle: `dt` non-stalled cycles after its previous issue (R98). -/
def reached (h : Issue) (s : State) : State := (advance h.ne.val h.dt s).1

/-- The bundle can issue: the engine is ACTIVE and its clock runs, it has reached the bundle, and it issues there. -/
def issues (h : Issue) (s : State) : Prop :=
  s.tripped = false ∧ (s.eng h.ne.val).idle = .active ∧ (advance h.ne.val h.dt s).2 = true ∧
    (reached h s).canIssue h.ne.val h.dt = true

/-- The state in which the slot issues: the bundle has begun. -/
def started (h : Issue) (s : State) : State := (reached h s).openBundle h.ne.val

/-- A register without an outstanding write: none of an earlier bundle, none of the M or V slot of its own bundle
(R104, R120). -/
def Engine.settled (x : Engine) (d : Dest) : Prop :=
  x.awaited ≠ some d ∧ ∀ p ∈ x.pend, p.dest = d → x.cyc ≤ p.iss ∧ p.mv = false

/-- A scalar register that can be read; S0 always can. -/
def Engine.readyS (x : Engine) (r : Nat) : Prop := r = 0 ∨ x.settled (.sreg r)

/-- A vector register that can be read. -/
def Engine.readyV (x : Engine) (r : Nat) : Prop := x.settled (.vreg r)

/-- A predicate register that can be read; PR0 always can. -/
def Engine.readyP (x : Engine) (r : Nat) : Prop := r = 0 ∨ x.settled (.preg r)

/-- Outstanding writes of earlier bundles to the destination land before a result of latency `lat` (R120). -/
def Engine.inOrderA (x : Engine) (lat : Nat) (d : Dest) (mask : Nat) : Prop :=
  d.null = true ∨ ∀ p ∈ x.pend, sameDest p.dest p.mask d mask = true → p.iss < x.cyc → p.due < x.cyc + lat

/-- The same for a result of the M or V slot, whose destination no other slot of the bundle has read (R120). -/
def Engine.inOrder (x : Engine) (lat : Nat) (d : Dest) (mask : Nat) : Prop :=
  x.inOrderA lat d mask ∧ (d.null = true ∨ d ∉ x.regReads)

/-- No store under way touches a 64-byte line of the `n` bytes from `a` up (R106). -/
def Engine.noStore (x : Engine) (a n : Nat) : Prop :=
  ∀ p ∈ x.stores, (p.addr + p.data.length - 1) / 64 < a / 64 ∨ (a + n - 1) / 64 < p.addr / 64

/-- The result of latency `lat` that the M or V slot of the bundle owes to `d` (R120). -/
def Engine.result (x : Engine) (lat : Nat) (d : Dest) (mask val : Nat) : PendRes :=
  { iss := x.cyc, due := x.cyc + lat, dest := d, mask := mask, val := val }

/-- The result of latency `lat` that the A slot owes to `d`. -/
def Engine.resultA (x : Engine) (lat : Nat) (d : Dest) (mask val : Nat) : PendRes :=
  { x.result lat d mask val with mv := false }

/-- The engine as the slot finds it. -/
def issuer (h : Issue) (s : State) : Engine := (started h s).eng h.ne.val

/-- The slot turns the engine it finds into `y`, and changes nothing else; the engine keeps the registers that the slot has
read for the bundle's later slots. -/
def turns (h : Issue) (s t : State) (y : Engine) : Prop :=
  (started h s).onlyEngine t h.ne.val ∧ { t.eng h.ne.val with regReads := y.regReads } = y

/-- The slot makes the engine owe further results, in order, and changes nothing else. -/
def owes (h : Issue) (s t : State) (l : List PendRes) : Prop :=
  turns h s t { issuer h s with pend := (issuer h s).pend ++ l }

/-- A result of latency `lat` for the destination `d`, with no fault behind it. -/
def resultFor (x : Engine) (lat : Nat) (d : Dest) (p : PendRes) : Prop :=
  p.iss = x.cyc ∧ p.due = x.cyc + lat ∧ p.dest = d ∧ p.fault = none ∧ p.rld = none

/-- An engine outside a droop whose command has ended and whose writes have all drained. -/
def Engine.quiet (x : Engine) : Prop :=
  x.run = .ending ∧ x.droop = false ∧ x.ops = [] ∧ x.rows = [] ∧ x.pend = [] ∧ x.stores = [] ∧ x.syncs = [] ∧ x.posted = [] ∧
    x.late = none ∧ x.phaseEnd = none ∧ x.fqs = [] ∧ x.reads = []

/-- The engine after `k` non-stalled cycles in which nothing issues or lands. -/
def Engine.aged (x : Engine) (k : Nat) : Engine :=
  { x with cyc := x.cyc + k, clk := x.clk + k, neCyc := (x.neCyc + k) % 2 ^ 64, elapsed := x.elapsed + k, opened := false, noIssue := x.noIssue + k }

/-- Element `i` of width `w` of a register. -/
def elemOf (w v i : Nat) : Nat := v / 2 ^ (w * i) % 2 ^ w

/-- What a vector result leaves in its register (R89): of the `n` elements from `base` up, the enabled ones take the values
of `f`, the others are kept, or zeroed with ZM; every other element is kept. -/
def lanes (p : PendRes) (w pr base n : Nat) (zm : Bool) (f : Nat → Nat) : Prop :=
  ∀ old i, elemOf w (blend old p.mask p.val) i =
    if base ≤ i ∧ i < base + n then
      if enabled pr w i then f (i - base) % 2 ^ w else if zm then 0 else elemOf w old i
    else elemOf w old i

end Sys2Proof.Machine
end

