-- ==== Sys2Proof/Certificates/Slice0/Obligations.lean ====
section
/-! DEFINITION. The statements about the model that are to be proved, one Prop each. Engine instructions are stated over the
issuing engine as the slot finds it (`issuer`) and what the bundle owes (`owes`), so that one statement gives the result, its
latency, and that nothing else changes. -/

open Sys2Proof Sys2Proof.Machine

/-- R126, Table 5.4: SALU, SALUI, LIL, LIH and MOVSP owe the scalar result to SD, one cycle later and three for MUL, and
change nothing else; a result to S0 is discarded. R126, Table 5.4: what the scalar functions compute. Sums,
differences and products wrap at 2^64, shifts take the low six bits of their count, and comparisons give 1 or 0. -/
def Obligations.ScalarResults : Prop :=
  (∀ (h : Issue) (s : State), issues h s →
    (∀ (sd sa sb : Fin 64) (fn : SFn),
      (issuer h s).readyS sa.val → (issuer h s).readyS sb.val →
      (issuer h s).inOrderA (if fn = .mul then 3 else 1) (.sreg sd.val) allS →
      ∃ t, exec (.salu h sd sa sb fn) s = .next t ∧
        owes h s t (if sd = 0 then [] else
          [(issuer h s).resultA (if fn = .mul then 3 else 1) (.sreg sd.val) allS
            (sfn fn ((issuer h s).sw sa.val) ((issuer h s).sw sb.val)).toNat])) ∧
    (∀ (sd sa : Fin 64) (fn : SFn) (imm : W32),
      (issuer h s).readyS sa.val →
      (issuer h s).inOrderA (if fn = .mul then 3 else 1) (.sreg sd.val) allS →
      ∃ t, exec (.salui h sd sa fn imm) s = .next t ∧
        owes h s t (if sd = 0 then [] else
          [(issuer h s).resultA (if fn = .mul then 3 else 1) (.sreg sd.val) allS
            (sfn fn ((issuer h s).sw sa.val) (imm.signExtend 64)).toNat])) ∧
    (∀ (sd : Fin 64) (imm : W32), (issuer h s).inOrderA 1 (.sreg sd.val) allS →
      ∃ t, exec (.lil h sd imm) s = .next t ∧
        owes h s t (if sd = 0 then [] else
          [(issuer h s).resultA 1 (.sreg sd.val) allS (imm.signExtend 64).toNat])) ∧
    (∀ (sd : Fin 64) (imm : W32), (issuer h s).readyS sd.val →
      (issuer h s).inOrderA 1 (.sreg sd.val) allS →
      ∃ t, exec (.lih h sd imm) s = .next t ∧
        owes h s t (if sd = 0 then [] else
          [(issuer h s).resultA 1 (.sreg sd.val) allS
            (imm.toNat * 2 ^ 32 + (issuer h s).sreg sd.val % 2 ^ 32)])) ∧
    (∀ (sd : Fin 64) (spr : Spr), (issuer h s).inOrderA 1 (.sreg sd.val) allS →
      ∃ t, exec (.movsp h sd spr) s = .next t ∧
        owes h s t (if sd = 0 then [] else
          [(issuer h s).resultA 1 (.sreg sd.val) allS
            ((issuer h s).spr h.ne.val spr % 2 ^ 64)]))) ∧
  (∀ a b : W64,
    (sfn .add a b).toNat = (a.toNat + b.toNat) % 2 ^ 64 ∧
    (sfn .sub a b).toNat = (a.toNat + 2 ^ 64 - b.toNat) % 2 ^ 64 ∧
    (sfn .mul a b).toNat = a.toNat * b.toNat % 2 ^ 64 ∧
    (sfn .shl a b).toNat = a.toNat * 2 ^ (b.toNat % 64) % 2 ^ 64 ∧
    (sfn .shr a b).toNat = a.toNat / 2 ^ (b.toNat % 64) ∧
    (sfn .sra a b).toInt = a.toInt / 2 ^ (b.toNat % 64) ∧
    (sfn .min a b).toInt = min a.toInt b.toInt ∧ (sfn .max a b).toInt = max a.toInt b.toInt ∧
    (sfn .minu a b).toNat = min a.toNat b.toNat ∧ (sfn .maxu a b).toNat = max a.toNat b.toNat ∧
    (sfn .slt a b).toNat = (if a.toInt < b.toInt then 1 else 0) ∧
    (sfn .sltu a b).toNat = (if a.toNat < b.toNat then 1 else 0))

/-- R103: a write of an address register by the A slot: accesses of the same cycle form their offsets with the old value,
and accesses of later cycles with the new one. -/
def Obligations.AddressWriteTiming : Prop :=
  ∀ (h : Issue) (s : State) (ak : Fin 32) (fld : AField) (v : W32), issues h s →
    ∃ t, exec (.arset h ak fld (.imm v)) s = .next t ∧
      (∀ g : Issue, g.ne = h.ne → g.dt = 0 → issues g t →
        ∀ k imm, (issuer g t).form k imm = (issuer h s).form k imm ∧ (issuer g t).areg k = (issuer h s).areg k) ∧
      (∀ g : Issue, g.ne = h.ne → 1 ≤ g.dt → issues g t →
        (∀ p ∈ (issuer h s).pend, ∀ k f, p.dest ≠ .areg k f) →
        ∀ k, (issuer g t).areg k = if k = ak.val then
            (match fld with
              | .base => { (issuer h s).areg k with base := v }
              | .stride 0 => { (issuer h s).areg k with st0 := v }
              | .stride 1 => { (issuer h s).areg k with st1 := v }
              | .stride 2 => { (issuer h s).areg k with st2 := v }
              | .stride 3 => { (issuer h s).areg k with st3 := v }
              | .bound => { (issuer h s).areg k with bound := v })
          else (issuer h s).areg k)

/-- R127, Tables 5.3 and 5.8: ARSET owes the operand to one field of an address register; LOOP with a count pushes a
running loop, and with a count of zero, like a taken BRZ or BRNZ, transfers control at the end of the bundle; a branch
not taken changes nothing. R110, R127, R128: PHASE changes PHASEID; END stops issue after its bundle with status
ST_OK; FSIG of a declared fence puts a signal behind the bundle's writes; FWAIT on a fence that has reached SV issues
without effect, and one that has not takes the bundle back and registers a wait with its deadline, in place of another
wait of its task (the model's choice, log entry 71). -/
def Obligations.ControlAndSync : Prop :=
  (∀ (h : Issue) (s : State), issues h s →
    (∀ (ak : Fin 32) (fld : AField) (src : Src32),
      (∀ r : Fin 64, src = .reg r → (issuer h s).readyS r.val) →
      ∃ t, exec (.arset h ak fld src) s = .next t ∧
        owes h s t [(issuer h s).result 1 (.areg ak.val fld) (2 ^ 32 - 1)
          (match src with
            | .imm v => v.toNat
            | .reg r => (issuer h s).sreg r.val % 2 ^ 32)]) ∧
    (∀ (lvl : Fin 4) (cnt : LoopCount) (body : BitVec 16) (n : Nat), body ≠ 0 →
      (∀ r : Fin 64, cnt = .reg r → (issuer h s).readyS r.val) →
      n = (match cnt with
        | .imm v => v.toNat
        | .reg r => (issuer h s).sreg r.val % 2 ^ 32) →
      ∃ t, exec (.loop h lvl cnt body) s = .next t ∧
        turns h s t { issuer h s with
          ctl := if n = 0 then { (issuer h s).ctl with redirect := some ((issuer h s).ctl.pc + body.toNat + 1) }
            else { (issuer h s).ctl with
              loops := ⟨lvl.val, (issuer h s).ctl.pc + 1, (issuer h s).ctl.pc + body.toNat, 0, n⟩ ::
                (issuer h s).ctl.loops } }) ∧
    (∀ (sa : Fin 64) (off : BitVec 20), off ≠ 0 → (issuer h s).readyS sa.val →
      ∃ t, exec (.brz h sa off) s = .next t ∧
        turns h s t { issuer h s with
          ctl := if (issuer h s).sreg sa.val = 0 then
              { (issuer h s).ctl with redirect := some ((issuer h s).ctl.pc + off.toNat) }
            else (issuer h s).ctl }) ∧
    (∀ (sa : Fin 64) (off : BitVec 20), off ≠ 0 → (issuer h s).readyS sa.val →
      ∃ t, exec (.brnz h sa off) s = .next t ∧
        turns h s t { issuer h s with
          ctl := if (issuer h s).sreg sa.val = 0 then (issuer h s).ctl
            else { (issuer h s).ctl with redirect := some ((issuer h s).ctl.pc + off.toNat) } })) ∧
  (∀ (h : Issue) (s : State), issues h s →
    (∀ ph : Byte, ∃ t, exec (.phase h ph) s = .next t ∧
      turns h s t { issuer h s with phaseid := ph.toNat, phaseEnd := some (issuer h s).phaseid }) ∧
    (∃ t, exec (.end_ h) s = .next t ∧
      turns h s t { issuer h s with run := .ending, endRec := ⟨0, 0, 0, 0, 0⟩ }) ∧
    (∀ (sv : Fin 64) (f : FenceSel) (d : Nat), (issuer h s).readyS sv.val →
      (∀ r : Fin 64, f = .reg r → (issuer h s).readyS r.val) →
      (started h s).fenceMap (issuer h s).ctx ((issuer h s).fenceNo f) = some d → (issuer h s).declaresFence d = true →
      ∃ t, exec (.fsig h sv f) s = .next t ∧
        turns h s t { issuer h s with
          syncs := (issuer h s).syncs ++ [⟨(issuer h s).cyc, .signal d ((issuer h s).sw sv.val)⟩] }) ∧
    (∀ (sv dl : Fin 64) (f : FenceSel) (d : Nat), (issuer h s).readyS sv.val → (issuer h s).readyS dl.val →
      (∀ r : Fin 64, f = .reg r → (issuer h s).readyS r.val) →
      (started h s).fenceMap (issuer h s).ctx ((issuer h s).fenceNo f) = some d →
      (issuer h s).sreg sv.val ≤ ((started h s).fence d).val.toNat →
      ∃ t, exec (.fwait h sv f dl) s = .next t ∧ turns h s t (issuer h s)) ∧
    (∀ (sv dl : Fin 64) (f : FenceSel) (d : Nat), (issuer h s).readyS sv.val → (issuer h s).readyS dl.val →
      (∀ r : Fin 64, f = .reg r → (issuer h s).readyS r.val) →
      (started h s).fenceMap (issuer h s).ctx ((issuer h s).fenceNo f) = some d →
      ((started h s).fence d).val.toNat < (issuer h s).sreg sv.val → (started h s).orphaned h.ne.val d = false →
      ∃ t w, exec (.fwait h sv f dl) s = .next t ∧ (t.eng h.ne.val).run = .waitFence ∧
        t.waits = ((started h s).waits.filter fun v => !(v.task.isSome && v.task == w.task)) ++ [w] ∧
        w.task = (issuer h s).task.map (·.id) ∧ w.kind = .fwait ∧ w.fence = d ∧ w.target = (issuer h s).sreg sv.val ∧
        w.deadline = if dl = 0 then none else some ((started h s).now + (issuer h s).sreg dl.val)))

/-- R102, R106, R129, Table 5.8: LD and LDS owe, after 14 cycles, what the slice holds now; ST and STS owe a store, after
6 cycles, of the register as it stands now. A load's words are noted for the decoder, which counts what it finds when
the bundle has issued (R107, R194); no word of these needs it. The offset is the address register's, with the low bits
ignored, inside the bound and the task's limit. A load of a line that the region descriptors refuse owes ST_UNMAPPED
with sub-code 4 in place of data (R407); a store notes the blocks that gave the open guards their ranges (R179). The
DETAIL of that refusal is the model's choice (log entry 65). -/
def Obligations.OwnSliceAccess : Prop :=
  ∀ (h : Issue) (s : State) (ak : Fin 32) (imm : W32), issues h s →
    (∀ (vd : Fin 32) (sz : Fin 7) (vpos : BitVec 6) (off a : Nat), 64 * vpos.toNat + 64 * 2 ^ sz.val ≤ 4096 →
      (issuer h s).form ak.val imm.toInt / 64 * 64 = off → a = sliceBase h.ne.val + (issuer h s).tbase + off →
      off + 64 * 2 ^ sz.val ≤ min ((issuer h s).areg ak.val).bound.toNat (issuer h s).tlimit →
      (issuer h s).inOrder 14 (.vreg vd.val) (maskAt (512 * vpos.toNat) (512 * 2 ^ sz.val)) →
      (issuer h s).noStore a (64 * 2 ^ sz.val) → (started h s).eccClean = true → a < 0x54000000 →
      ∃ t p, exec (.ld h vd ak sz vpos imm) s = .next t ∧
        turns h s t { issuer h s with
          reads := (issuer h s).reads ++ [(a, 64 * 2 ^ sz.val)], pend := (issuer h s).pend ++ [p] } ∧
        p.iss = (issuer h s).cyc ∧ p.due = (issuer h s).cyc + 14 ∧ p.dest = .vreg vd.val ∧ p.rld = none ∧
        p.mask = maskAt (512 * vpos.toNat) (512 * 2 ^ sz.val) ∧
        ((started h s).regionAdmits .gallery false a (64 * 2 ^ sz.val) = true → p.fault = none ∧
          p.val = le ((started h s).bytes a (64 * 2 ^ sz.val)) * 2 ^ (512 * vpos.toNat)) ∧
        ((started h s).regionAdmits .gallery false a (64 * 2 ^ sz.val) = false →
          p.fault = some ⟨0x20, 4, (issuer h s).ctl.pc, 2, off % 2 ^ 32⟩)) ∧
    (∀ (sd : Fin 64) (off a : Nat), (issuer h s).form ak.val imm.toInt / 8 * 8 = off →
      a = sliceBase h.ne.val + (issuer h s).tbase + off →
      off + 8 ≤ min ((issuer h s).areg ak.val).bound.toNat (issuer h s).tlimit →
      (issuer h s).inOrder 14 (.sreg sd.val) (maskAt 0 64) → (issuer h s).noStore a 8 → (started h s).eccClean = true → a < 0x54000000 →
      (started h s).regionAdmits .gallery false a 8 = true →
      ∃ t l, exec (.lds h sd ak imm) s = .next t ∧
        turns h s t { issuer h s with reads := (issuer h s).reads ++ [(a, 8)], pend := (issuer h s).pend ++ l } ∧
        l = if sd = 0 then [] else [(issuer h s).result 14 (.sreg sd.val) allS (le ((started h s).bytes a 8))]) ∧
    (∀ (vs : Fin 32) (sz : Fin 7) (vpos : BitVec 6) (off a : Nat), 64 * vpos.toNat + 64 * 2 ^ sz.val ≤ 4096 →
      (issuer h s).form ak.val imm.toInt / 64 * 64 = off → a = sliceBase h.ne.val + (issuer h s).tbase + off →
      off + 64 * 2 ^ sz.val ≤ min ((issuer h s).areg ak.val).bound.toNat (issuer h s).tlimit →
      (issuer h s).readyV vs.val → (started h s).guarded h.ne.val off (64 * 2 ^ sz.val) = false →
      (started h s).lostRead h.ne.val 2 ((started h s).guardReads h.ne.val) = none →
      ∃ t bs, exec (.st h vs ak sz vpos imm) s = .next t ∧
        turns h s t { issuer h s with
          reads := (issuer h s).reads ++ (started h s).guardReads h.ne.val
          stores := (issuer h s).stores ++ [⟨(issuer h s).cyc, (issuer h s).cyc + 6, (issuer h s).ctl.pc, a, bs⟩] } ∧
        bs.length = 64 * 2 ^ sz.val ∧
        ∀ i, i < bs.length → bs[i]? = some (BitVec.ofNat 8 ((issuer h s).vreg vs.val >>> (512 * vpos.toNat + 8 * i)))) ∧
    (∀ (ss : Fin 64) (off a : Nat), (issuer h s).form ak.val imm.toInt / 8 * 8 = off →
      a = sliceBase h.ne.val + (issuer h s).tbase + off →
      off + 8 ≤ min ((issuer h s).areg ak.val).bound.toNat (issuer h s).tlimit →
      (issuer h s).readyS ss.val → (started h s).guarded h.ne.val off 8 = false →
      (started h s).lostRead h.ne.val 2 ((started h s).guardReads h.ne.val) = none →
      ∃ t, exec (.sts h ss ak imm) s = .next t ∧
        turns h s t { issuer h s with
          reads := (issuer h s).reads ++ (started h s).guardReads h.ne.val
          stores := (issuer h s).stores ++ [⟨(issuer h s).cyc, (issuer h s).cyc + 6, (issuer h s).ctl.pc, a,
            leBytes 8 ((issuer h s).sreg ss.val)⟩] })

/-- R130, Table 5.8: RLD owes a register part 320 cycles later and leaves memory alone until then; RST posts the
register's bytes. Both go to the translated pieces of the context's virtual range, whose low 6 address bits are
ignored. -/
def Obligations.RemoteAccess : Prop :=
  ∀ (h : Issue) (s : State) (sa : Fin 64) (sz : Fin 7) (vpos : BitVec 6) (va : Nat) (ps : List (Nat × Nat)),
    issues h s → 64 * vpos.toNat + 64 * 2 ^ sz.val ≤ 4096 → (issuer h s).readyS sa.val →
    va = (issuer h s).sreg sa.val % 2 ^ 48 / 64 * 64 →
    (∀ vd : Fin 32, (issuer h s).inOrder 320 (.vreg vd.val) (maskAt (512 * vpos.toNat) (512 * 2 ^ sz.val)) →
      (started h s).xlatRange (issuer h s).ctx va (64 * 2 ^ sz.val) false = .ok ps →
      ∃ t p, exec (.rld h vd sa sz vpos) s = .next t ∧ owes h s t [p] ∧ p.iss = (issuer h s).cyc ∧
        p.due = (issuer h s).cyc + 320 ∧ p.dest = .vreg vd.val ∧
        p.mask = maskAt (512 * vpos.toNat) (512 * 2 ^ sz.val) ∧ p.fault = none ∧
        p.rld = some ⟨va, ps, 64 * vpos.toNat, (issuer h s).ctl.pc⟩) ∧
    (∀ vs : Fin 32, (issuer h s).readyV vs.val →
      (started h s).xlatRange (issuer h s).ctx va (64 * 2 ^ sz.val) true = .ok ps →
      ∃ t bs, exec (.rst h vs sa sz vpos) s = .next t ∧
        turns h s t { issuer h s with posted := (issuer h s).posted ++ [⟨va, ps, bs, (issuer h s).ctl.pc⟩] } ∧
        bs.length = 64 * 2 ^ sz.val ∧
        ∀ i, i < bs.length → bs[i]? = some (BitVec.ofNat 8 ((issuer h s).vreg vs.val >>> (512 * vpos.toNat + 8 * i))))

/-- R131, R219, R228: FQPOP takes the READY head entry, returns its credit and owes its data after 4 cycles; RACQ takes
the slot that the ring gives, holds it, and owes its handle after 4 cycles; RREL of a held slot puts a release behind
the bundle's writes. The ring is the one that S56 and up name as the slot issues (log entry 92). R72, R132, Table 5.8:
BIASLD owes one quarter of a vector register to a bias buffer that no row waits for; PALWR owes CNT entries of 16
bits, from entry E0 up, to a palette slot, with its tag; both after 2 cycles. -/
def Obligations.OperandInstructions : Prop :=
  (∀ (h : Issue) (s : State), issues h s →
    (∀ (vd : Fin 32) (q : Fin 8) (f : FetchQ) (c : FqEnt) (rest : List FqEnt),
      (issuer h s).inOrder 4 (.vreg vd.val) allV → f = (issuer h s).fq q.val → f.state ≠ 3 → f.state ≠ 4 →
      f.ents = c :: rest → c.st = .ready → (issuer h s).run = .issuing → (issuer h s).endHold = false →
      ∃ t p, exec (.fqpop h vd q) s = .next t ∧
        t.eng h.ne.val = { issuer h s with
          fqs := minsert q.val (FetchQ.settle { f with ents := rest, ret := f.ret + 1 }) (issuer h s).fqs
          pend := (issuer h s).pend ++ [p] } ∧
        resultFor (issuer h s) 4 (.vreg vd.val) p ∧ p.mask = maskAt 0 (512 * 2 ^ f.esz) ∧ p.val = le c.data ∧
        t.mem = (started h s).mem ∧ t.regs = (started h s).regs ∧ t.rings = (started h s).rings) ∧
    (∀ (sd : Fin 64) (rng : Fin 8) (k : Task) (r i : Nat), (issuer h s).inOrder 4 (.sreg sd.val) allS →
      (issuer h s).task = some k → (issuer h s).run = .issuing → (issuer h s).endHold = false →
      r = ((issuer h s).ringOp rng.val).1 →
      (started h s).ringMisuse h.ne.val rng.val .producer true = false →
      ((started h s).ring r).state = 1 → ((started h s).ring r).prod = none →
      i = ((started h s).ring r).pseq % (started h s).ringSlots r → ((started h s).ring r).free i = true →
      ∃ t, exec (.racq h sd rng .producer) s = .next t ∧
        (t.ring r).prod = some ⟨i, .task k.id⟩ ∧ (t.ring r).pseq = ((started h s).ring r).pseq ∧
        t.eng h.ne.val = { issuer h s with
          held := (issuer h s).held ++ [(r, 0, .producer)]
          pend := (issuer h s).pend ++ (if sd = 0 then [] else
            [(issuer h s).result 4 (.sreg sd.val) allS ((started h s).slotVa r i % 2 ^ 48 + i * 2 ^ 48)]) } ∧
        t.mem = (started h s).mem ∧ t.regs = (started h s).regs) ∧
    (∀ (rng : Fin 8) (role : Role), (started h s).ringMisuse h.ne.val rng.val role false = false →
      ∃ t k, exec (.rrel h rng role) s = .next t ∧
        k = (((issuer h s).ringOp rng.val).1, portOf ((issuer h s).ringOp rng.val).2 role, role) ∧
        turns h s t { issuer h s with
          held := (issuer h s).held.filter (· ≠ k)
          syncs := (issuer h s).syncs ++ [⟨(issuer h s).cyc, .release k.1 k.2.1 role⟩] })) ∧
  (∀ (h : Issue) (s : State), issues h s →
    (∀ (bb : Fin 4) (vs : Fin 32) (lq : Fin 4), (issuer h s).readyV vs.val →
      (issuer h s).inOrder 2 (.bias bb.val) (maskAt 0 8192) → (∀ r ∈ (issuer h s).acm, r.2.tag ≠ 4 + bb.val) →
      ∃ t p, exec (.biasld h bb vs lq) s = .next t ∧ owes h s t [p] ∧ resultFor (issuer h s) 2 (.bias bb.val) p ∧
        ∀ i, i < 256 → elemOf 32 p.val i = elemOf 32 ((issuer h s).vreg vs.val) (256 * lq.val + i)) ∧
    (∀ (ps : Fin 64) (tag : Format) (vs : Fin 32) (e0 : BitVec 8) (cnt : BitVec 9), tag.isTag = true → 1 ≤ cnt.toNat →
      e0.toNat + cnt.toNat ≤ 256 → (issuer h s).readyV vs.val →
      (issuer h s).inOrder 2 (.pal ps.val (fmtCode tag)) (maskAt (16 * e0.toNat) (16 * cnt.toNat)) →
      ∃ t p, exec (.palwr h ps tag vs e0 cnt) s = .next t ∧ owes h s t [p] ∧
        resultFor (issuer h s) 2 (.pal ps.val (fmtCode tag)) p ∧
        ∀ old i, elemOf 16 (blend old p.mask p.val) i =
          if e0.toNat ≤ i ∧ i < e0.toNat + cnt.toNat then elemOf 16 ((issuer h s).vreg vs.val) (i - e0.toNat)
          else elemOf 16 old i))

/-- R89, R134, Tables 5.7 and 5.8: the elementwise vector instructions owe, for each enabled element, the function of the
source elements at its place; the other elements are kept, or zeroed with ZM. -/
def Obligations.VectorElementwise : Prop :=
  ∀ (h : Issue) (s : State) (c : VCommon), issues h s → c.et.arith = true → (issuer h s).readyV c.va.val →
    (issuer h s).readyV c.vb.val → (issuer h s).readyP c.pr.val →
    (∀ fn : V2Fn, (issuer h s).inOrder (if fn = .mul then 4 else 3) (.vreg c.vd.val) allV →
      ∃ t p, exec (.vop2 h fn c) s = .next t ∧ owes h s t [p] ∧
        resultFor (issuer h s) (if fn = .mul then 4 else 3) (.vreg c.vd.val) p ∧
        lanes p (etBits c.et) ((issuer h s).preg c.pr.val) 0 (32768 / etBits c.et) c.zm fun i =>
          vop2Elem fn c.et c.ovf (elemOf (etBits c.et) ((issuer h s).vreg c.va.val) i)
            (elemOf (etBits c.et) ((issuer h s).vreg c.vb.val) i)) ∧
    ((issuer h s).readyV c.vc.val → (issuer h s).inOrder 4 (.vreg c.vd.val) allV →
      ∃ t p, exec (.vfma h c) s = .next t ∧ owes h s t [p] ∧ resultFor (issuer h s) 4 (.vreg c.vd.val) p ∧
        lanes p (etBits c.et) ((issuer h s).preg c.pr.val) 0 (32768 / etBits c.et) c.zm fun i =>
          vfmaElem c.et c.ovf (elemOf (etBits c.et) ((issuer h s).vreg c.va.val) i)
            (elemOf (etBits c.et) ((issuer h s).vreg c.vb.val) i) (elemOf (etBits c.et) ((issuer h s).vreg c.vc.val) i)) ∧
    ((issuer h s).inOrder 2 (.vreg c.vd.val) allV →
      ∃ t p, exec (.vsel h c) s = .next t ∧ owes h s t [p] ∧ resultFor (issuer h s) 2 (.vreg c.vd.val) p ∧
        ∀ old i, i < 1024 → elemOf 32 (blend old p.mask p.val) i =
          if enabled ((issuer h s).preg c.pr.val) 32 i then elemOf 32 ((issuer h s).vreg c.va.val) i
          else elemOf 32 ((issuer h s).vreg c.vb.val) i) ∧
    ((issuer h s).inOrder 4 (.vreg c.vd.val) allV →
      ∃ t p, exec (.vperm h c) s = .next t ∧ owes h s t [p] ∧ resultFor (issuer h s) 4 (.vreg c.vd.val) p ∧
        lanes p 32 ((issuer h s).preg c.pr.val) 0 1024 c.zm fun i =>
          elemOf 32 ((issuer h s).vreg c.va.val) (elemOf 32 ((issuer h s).vreg c.vb.val) i % 1024)) ∧
    (c.et = .fmt .fp32 → ∀ fn : TFn, (issuer h s).inOrder (vfnLat fn) (.vreg c.vd.val) allV →
      ∃ t p, exec (.vfn h fn c) s = .next t ∧ owes h s t [p] ∧ resultFor (issuer h s) (vfnLat fn) (.vreg c.vd.val) p ∧
        lanes p 32 ((issuer h s).preg c.pr.val) 0 1024 c.zm fun i =>
          vfnElem fn c.ovf (elemOf 32 ((issuer h s).vreg c.va.val) i)) ∧
    (∀ sa : Fin 64, (issuer h s).readyS sa.val → (issuer h s).inOrder 2 (.vreg c.vd.val) allV →
      ∃ t p, exec (.vbcast h sa c) s = .next t ∧ owes h s t [p] ∧ resultFor (issuer h s) 2 (.vreg c.vd.val) p ∧
        lanes p (etBits c.et) ((issuer h s).preg c.pr.val) 0 (32768 / etBits c.et) c.zm fun _ =>
          (issuer h s).sreg sa.val)

/-- R52, R135, R138: VCVT owes the conversions of the source elements of its group, and for an MXFP4 target the scale
bytes beside them, its blocks formed from all elements (the model's choice, log entry 63); PQ owes the palette codes
of the enabled lanes in its group and keeps the other codes. R136, R139, Table 5.7: VRED owes the reduction of each
segment to the lane of its number (ARGMAX and ARGMIN owe the index there and the value to VC); VEXT owes one lane to a
scalar register, sign-extended for INT32; WGCFG owes the low 32 bits of a scalar to a window field. That VRED orders
-0 below +0 is the model's choice (log entry 91). -/
def Obligations.ConvertAndReduce : Prop :=
  (∀ (h : Issue) (s : State) (pr : Fin 16), issues h s → (issuer h s).readyP pr.val →
    (∀ (target : EType) (g : Fin 32) (c : VCommon) (n sb tb : Nat), c.pr = pr → vcvtOk target g.val c = true →
      target ≠ .fmt .mxfp4 → c.et ≠ .fmt .mxfp4 → n = 32768 / max (etBits c.et) (etBits target) →
      sb = (if etBits c.et < etBits target then g.val * n else 0) →
      tb = (if etBits target < etBits c.et then g.val * n else 0) →
      (issuer h s).readyV c.va.val → (issuer h s).inOrder 4 (.vreg c.vd.val) allV →
      ∃ t p, exec (.vcvt h target g c) s = .next t ∧ owes h s t [p] ∧ resultFor (issuer h s) 4 (.vreg c.vd.val) p ∧
        lanes p (etBits target) ((issuer h s).preg pr.val) tb n c.zm fun i =>
          convElem c.et target c.ovf (elemOf (etBits c.et) ((issuer h s).vreg c.va.val) (sb + i))) ∧
    (∀ (g : Fin 32) (c : VCommon) (n sb tb : Nat) (b : List Nat × List Nat), c.pr = pr →
      vcvtOk (.fmt .mxfp4) g.val c = true → n = 32768 / etBits c.et →
      sb = 0 → tb = (if 4 < etBits c.et then g.val * n else 0) →
      b = mxBlocks ((issuer h s).cvtVals c.et c.va.val sb n) →
      (issuer h s).readyV c.va.val → (issuer h s).inOrder 4 (.vreg c.vd.val) allV →
      (issuer h s).inOrder 4 (.vreg (c.vd.val + 1)) allV →
      ∃ t p q, exec (.vcvt h (.fmt .mxfp4) g c) s = .next t ∧ owes h s t [p, q] ∧
        resultFor (issuer h s) 4 (.vreg c.vd.val) p ∧ resultFor (issuer h s) 4 (.vreg (c.vd.val + 1)) q ∧
        lanes p 4 ((issuer h s).preg pr.val) tb b.2.length c.zm (fun i => b.2.getD i 0) ∧
        lanes q 8 ((issuer h s).preg pr.val) (tb / 32) b.1.length c.zm (fun i => b.1.getD i 0)) ∧
    (∀ (vd va gp : Fin 32) (slot : Fin 64) (sub : BitVec 4) (cb8 : Bool) (cntm1 : BitVec 8) (w : Nat),
      (if cb8 then gp.val ≤ 3 ∧ 1 ≤ cntm1.toNat else gp.val ≤ 7 ∧ 1 ≤ cntm1.toNat ∧ cntm1.toNat ≤ 15) →
      w = (if cb8 then 8 else 4) → (issuer h s).readyV va.val → (issuer h s).inOrder 6 (.vreg vd.val) allV →
      ∃ t p, exec (.pq h vd va gp pr slot sub cb8 cntm1) s = .next t ∧ owes h s t [p] ∧
        resultFor (issuer h s) 6 (.vreg vd.val) p ∧
        ∀ old i, elemOf w (blend old p.mask p.val) i =
          if 1024 * gp.val ≤ i ∧ i < 1024 * gp.val + 1024 ∧
              enabled ((issuer h s).preg pr.val) 32 (i - 1024 * gp.val) = true then
            pqCode ((issuer h s).palView slot.val).tag
              (palEntries ((issuer h s).palView slot.val) sub.toNat (cntm1.toNat + 1) cb8)
              (elemOf 32 ((issuer h s).vreg va.val) (i - 1024 * gp.val)) % 2 ^ w
          else elemOf w old i)) ∧
  (∀ (h : Issue) (s : State), issues h s →
    (∀ (op : RedOp) (segs : Fin 4) (c : VCommon) (m : Nat) (res : Nat → Nat × Nat), c.et.wide = true →
      op ≠ .argmax → op ≠ .argmin → m = maskAt 0 (32 * 4 ^ segs.val) →
      (∀ j, res j = reduceSeg op (c.et == .fmt .fp32) c.ovf ((List.range (1024 / 4 ^ segs.val)).map fun i =>
        (elemOf 32 ((issuer h s).vreg c.va.val) (j * (1024 / 4 ^ segs.val) + i),
          enabled ((issuer h s).preg c.pr.val) 32 (j * (1024 / 4 ^ segs.val) + i)))) →
      (issuer h s).readyV c.va.val → (issuer h s).readyP c.pr.val → (issuer h s).inOrder 10 (.vreg c.vd.val) m →
      ∃ t p, exec (.vred h op segs c) s = .next t ∧ owes h s t [p] ∧ resultFor (issuer h s) 10 (.vreg c.vd.val) p ∧
        ∀ old j, elemOf 32 (blend old p.mask p.val) j =
          if j < 4 ^ segs.val then (res j).2 % 2 ^ 32 else elemOf 32 old j) ∧
    (∀ (op : RedOp) (segs : Fin 4) (c : VCommon) (m : Nat) (res : Nat → Nat × Nat), c.et.wide = true →
      (op = .argmax ∨ op = .argmin) → m = maskAt 0 (32 * 4 ^ segs.val) →
      (∀ j, res j = reduceSeg op (c.et == .fmt .fp32) c.ovf ((List.range (1024 / 4 ^ segs.val)).map fun i =>
        (elemOf 32 ((issuer h s).vreg c.va.val) (j * (1024 / 4 ^ segs.val) + i),
          enabled ((issuer h s).preg c.pr.val) 32 (j * (1024 / 4 ^ segs.val) + i)))) →
      (issuer h s).readyV c.va.val → (issuer h s).readyP c.pr.val → (issuer h s).inOrder 10 (.vreg c.vd.val) m →
      (issuer h s).inOrder 10 (.vreg c.vc.val) m →
      ∃ t p q, exec (.vred h op segs c) s = .next t ∧ owes h s t [p, q] ∧
        resultFor (issuer h s) 10 (.vreg c.vd.val) p ∧ resultFor (issuer h s) 10 (.vreg c.vc.val) q ∧
        (∀ old j, elemOf 32 (blend old p.mask p.val) j = if j < 4 ^ segs.val then (res j).1 % 2 ^ 32 else elemOf 32 old j) ∧
        (∀ old j, elemOf 32 (blend old q.mask q.val) j = if j < 4 ^ segs.val then (res j).2 % 2 ^ 32 else elemOf 32 old j)) ∧
    (∀ (sd : Fin 64) (va : Fin 32) (et : EType) (lane : BitVec 10), et.arith = true → (issuer h s).readyV va.val →
      (issuer h s).inOrder 3 (.sreg sd.val) allS →
      ∃ t, exec (.vext h sd va et lane) s = .next t ∧ owes h s t (if sd = 0 then [] else
        [(issuer h s).result 3 (.sreg sd.val) allS (if et = .int32 then
          ((BitVec.ofNat 32 (elemOf 32 ((issuer h s).vreg va.val) lane.toNat)).signExtend 64).toNat
          else elemOf 32 ((issuer h s).vreg va.val) lane.toNat)])) ∧
    (∀ (set : Fin 4) (field : BitVec 6) (sa : Fin 64), field.toNat ≤ 0x25 → (issuer h s).readyS sa.val →
      ∃ t, exec (.wgcfg h set field sa) s = .next t ∧
        owes h s t [(issuer h s).result 1 (.win set.val field.toNat) (2 ^ 32 - 1) ((issuer h s).sreg sa.val % 2 ^ 32)]))

/-- R89, R136, Table 5.7: VCMP owes one bit for each lane and PLOG one for each predicate bit; disabled bits are kept, or
cleared with ZM; FIRSTN sets the first SA bits; a result to PR0 is discarded. Table 4.1: results to S0 and PR0 are
discarded: the engine owes nothing more. -/
def Obligations.PredicateResults : Prop :=
  (∀ (h : Issue) (s : State) (pd : Fin 16), issues h s → pd ≠ 0 →
    (∀ (fn : CmpFn) (c : VCommon), c.et.wide = true → c.vd = 0 → (issuer h s).readyV c.va.val →
      (issuer h s).readyV c.vb.val → (issuer h s).readyP c.pr.val → (issuer h s).inOrder 2 (.preg pd.val) allP →
      ∃ t p, exec (.vcmp h fn pd c) s = .next t ∧ owes h s t [p] ∧ resultFor (issuer h s) 2 (.preg pd.val) p ∧
        ∀ old i, i < 1024 → (blend old p.mask p.val).testBit i =
          if ((issuer h s).preg c.pr.val).testBit i then
            vcmpElem fn c.et (elemOf 32 ((issuer h s).vreg c.va.val) i) (elemOf 32 ((issuer h s).vreg c.vb.val) i)
          else !c.zm && old.testBit i) ∧
    (∀ (fn : PlogFn) (pa pb pr : Fin 16) (zm : Bool) (sa : Fin 64), fn ≠ .firstn → (issuer h s).readyP pa.val →
      (issuer h s).readyP pb.val → (issuer h s).readyP pr.val → (issuer h s).inOrder 1 (.preg pd.val) allP →
      ∃ t p, exec (.plog h fn pd pa pb pr zm sa) s = .next t ∧ owes h s t [p] ∧
        resultFor (issuer h s) 1 (.preg pd.val) p ∧
        ∀ old i, i < 1024 → (blend old p.mask p.val).testBit i =
          if ((issuer h s).preg pr.val).testBit i then
            (match fn with
              | .and => ((issuer h s).preg pa.val).testBit i && ((issuer h s).preg pb.val).testBit i
              | .or => ((issuer h s).preg pa.val).testBit i || ((issuer h s).preg pb.val).testBit i
              | .xor => ((issuer h s).preg pa.val).testBit i != ((issuer h s).preg pb.val).testBit i
              | .andn => ((issuer h s).preg pa.val).testBit i && !((issuer h s).preg pb.val).testBit i
              | _ => !((issuer h s).preg pa.val).testBit i)
          else !zm && old.testBit i) ∧
    (∀ (pa pb pr : Fin 16) (zm : Bool) (sa : Fin 64), (issuer h s).readyS sa.val →
      (issuer h s).inOrder 1 (.preg pd.val) allP →
      ∃ t p, exec (.plog h .firstn pd pa pb pr zm sa) s = .next t ∧ owes h s t [p] ∧
        resultFor (issuer h s) 1 (.preg pd.val) p ∧
        ∀ old i, i < 1024 → (blend old p.mask p.val).testBit i = decide (i < (issuer h s).sreg sa.val))) ∧
  (∀ (h : Issue) (s : State), issues h s →
    (∀ (sa sb : Fin 64) (fn : SFn), (issuer h s).readyS sa.val → (issuer h s).readyS sb.val →
      ∃ t, exec (.salu h 0 sa sb fn) s = .next t ∧ owes h s t []) ∧
    (∀ (va : Fin 32) (et : EType) (lane : BitVec 10), et.arith = true → (issuer h s).readyV va.val →
      ∃ t, exec (.vext h 0 va et lane) s = .next t ∧ owes h s t []) ∧
    (∀ (fn : CmpFn) (c : VCommon), c.et.wide = true → c.vd = 0 → (issuer h s).readyV c.va.val →
      (issuer h s).readyV c.vb.val → (issuer h s).readyP c.pr.val →
      ∃ t, exec (.vcmp h fn 0 c) s = .next t ∧ owes h s t []) ∧
    (∀ (fn : PlogFn) (pa pb pr : Fin 16) (zm : Bool) (sa : Fin 64), (issuer h s).readyP pa.val →
      (issuer h s).readyP pb.val → (issuer h s).readyP pr.val → (issuer h s).readyS sa.val →
      ∃ t, exec (.plog h fn 0 pa pb pr zm sa) s = .next t ∧ owes h s t []))

/-- R70, R71, R121, R125, R455: an issue with M or N zero sets EMPTY and occupies the C slot for eight cycles; any other
occupies it for its loads and passes over all tiles and folds (eight cycles with K zero), and tags the rows of its
footprint unless INIT is KEEP. Nothing but the engine's C slot and ACM tags changes. R104, R107 to R109, R121, R455: a
C slot that is busy (sub-code 6) and, failing that, a ring length or a footprint outside ACM (ST_BOUND, sub-code 3)
stop a Canvas instruction: the command ends with that fault, its bundle and slot 0. -/
def Obligations.CanvasIssueAndFaults : Prop :=
  (∀ (h : Issue) (s : State) (c : CmmWord) (x : CxWord) (o : CanvasOp), issues h s → cmmOk c x = true →
    (c.scat = true → 4 ≤ h.ne.val) → (issuer h s).cBusy ≤ (issuer h s).cyc →
    (∀ f ∈ [c.msz, c.ksz, c.nsz], ∀ r : Fin 64, f = .reg r → (issuer h s).readyS r.val) →
    (c.ring = true → ∀ r : Fin 64, x.ringl = .reg r → (issuer h s).readyS r.val) → (issuer h s).readyP x.maskp.val →
    o = (issuer h s).sample h.ne.val c x →
    (o.m = 0 ∨ o.n = 0 →
      ∃ t, exec (.cmm h c x) s = .next t ∧
        turns h s t { issuer h s with empty := true, cBusy := (issuer h s).cyc + 8 }) ∧
    (o.m ≠ 0 → o.n ≠ 0 →
      (x.xwg = true → winBad c x.wgs.val o.k o.n ((issuer h s).winField x.wgs.val) = none ∧
        0 < outH ((issuer h s).winField x.wgs.val) ∧ 0 < outW ((issuer h s).winField x.wgs.val)) →
      acmBad o = none → (issuer h s).tagHazard o = none →
      (o.k ≠ 0 → palBad (issuer h s) c x = none ∧ reuseBad (issuer h s) c x o.k o.n = none ∧
        (c.reuse = false → (issuer h s).planesBad c.sfmt c.complex x.wa.val (statShape c.sfmt o.k o.n).1
          (statShape c.sfmt o.k o.n).2 = none) ∧
        (if x.xwg then (issuer h s).winPlanesBad c ((issuer h s).winField x.wgs.val)
          else (issuer h s).planesBad c.xfmt c.complex x.xa.val o.m o.k) = none) →
      ∃ t y, exec (.cmm h c x) s = .next t ∧ turns h s t y ∧
        y = { issuer h s with acm := y.acm, ops := (issuer h s).ops ++ [o], cBusy := (issuer h s).cyc + o.steps } ∧
        o.steps = (if o.k = 0 then 8 else ceilDiv o.n 256 * ceilDiv o.k 256 * (o.loads * 256 + o.passes * o.strm1)) ∧
        ∀ r, (y.acmRow r).data = ((issuer h s).acmRow r).data ∧
          (y.acmRow r).tag = (if c.init ≠ .keep ∧ x.acmb.toNat ≤ r ∧ r < x.acmb.toNat + o.footprint then
              (match c.init with
                | .bias b => if c.complex = true ∧ ceilDiv o.n 256 * o.m ≤ r - x.acmb.toNat then 1 else 4 + b.val
                | _ => 1)
            else ((issuer h s).acmRow r).tag) ∧
          (y.acmRow r).undr = (((issuer h s).acmRow r).undr &&
            !decide (c.init ≠ .keep ∧ x.acmb.toNat ≤ r ∧ r < x.acmb.toNat + o.footprint)))) ∧
  (∀ (h : Issue) (s : State) (c : CmmWord) (x : CxWord) (o : CanvasOp), issues h s → cmmOk c x = true →
    (c.scat = true → 4 ≤ h.ne.val) → o = (issuer h s).sample h.ne.val c x →
    ((issuer h s).cyc < (issuer h s).cBusy →
      ∃ t, exec (.cmm h c x) s = .next t ∧ (t.eng h.ne.val).run = .ending ∧ (t.eng h.ne.val).faulted = true ∧
        (t.eng h.ne.val).flt.status = 0x40 ∧ (t.eng h.ne.val).flt.sub = 6 ∧ (t.eng h.ne.val).flt.slot = 0) ∧
    ((issuer h s).cBusy ≤ (issuer h s).cyc →
      (∀ f ∈ [c.msz, c.ksz, c.nsz], ∀ r : Fin 64, f = .reg r → (issuer h s).readyS r.val) →
      (c.ring = true → ∀ r : Fin 64, x.ringl = .reg r → (issuer h s).readyS r.val) → (issuer h s).readyP x.maskp.val →
      o.m ≠ 0 → o.n ≠ 0 → o.k = 0 → x.xwg = false →
      (if c.ring then ¬ (o.ringl % 16 = 0 ∧ 16 ≤ o.ringl ∧ x.acmb.toNat + o.ringl ≤ 4096)
        else 4096 < x.acmb.toNat + o.footprint) →
      ∃ t, exec (.cmm h c x) s = .next t ∧ (t.eng h.ne.val).run = .ending ∧ (t.eng h.ne.val).faulted = true ∧
        (t.eng h.ne.val).flt.status = 0x22 ∧ (t.eng h.ne.val).flt.sub = 3 ∧ (t.eng h.ne.val).flt.slot = 0))

/-- R71, R81, R105, R137: a raw drain of a row that no instruction owes or writes owes, eight cycles later, the row's 256
columns of 32 bits as they read: a tagged row reads as its tag's value. A ring-mode drain needs the undrained bit and
clears it; any other changes no row. R56 to R61, R137, R167, R169: a drain through a layer block to a format other
than MXFP4 owes, after the latency of its activation, one code for each output of the row, counts the outputs of the
block's channels in the layer's monitor, notes the words of its parameters for the decoder (R194), and changes nothing
else. -/
def Obligations.DrainResults : Prop :=
  (∀ (h : Issue) (s : State) (vd : Fin 32) (pos : BitVec 5) (ring : Bool) (chr : Fin 64) (lpi : BitVec 10) (row : RowSel)
    (n : Nat), issues h s → Instr.wf (.drn h vd pos true ring chr lpi row) = true →
    (∀ r : Fin 64, row = .reg r → (issuer h s).readyS r.val) → n = (issuer h s).rowSel row →
    (issuer h s).rowBusy n = false → (ring = true → ((issuer h s).acmRow n).undr = true) →
    (issuer h s).inOrder 8 (.vreg vd.val) (maskAt (8192 * pos.toNat) 8192) →
    ∃ t p y, exec (.drn h vd pos true ring chr lpi row) s = .next t ∧ turns h s t y ∧
      y = { issuer h s with acm := y.acm, pend := (issuer h s).pend ++ [p] } ∧ resultFor (issuer h s) 8 (.vreg vd.val) p ∧
      (∀ old i, i < 1024 → elemOf 32 (blend old p.mask p.val) i =
        if 256 * pos.toNat ≤ i ∧ i < 256 * pos.toNat + 256 then
          elemOf 32 (if ((issuer h s).acmRow n).tag = 1 then 0 else (issuer h s).rowData ((issuer h s).acmRow n))
            (i - 256 * pos.toNat)
        else elemOf 32 old i) ∧
      ∀ r, y.acmRow r = { (issuer h s).acmRow r with undr := ((issuer h s).acmRow r).undr && !(ring && r == n) }) ∧
  (∀ (h : Issue) (s : State) (vd : Fin 32) (pos : BitVec 5) (chr : Fin 64) (lpi : BitVec 10) (row : RowSel)
    (n q w cb : Nat) (b : LayerBlk), issues h s → Instr.wf (.drn h vd pos false false chr lpi row) = true →
    (∀ r : Fin 64, row = .reg r → (issuer h s).readyS r.val) → (issuer h s).readyS chr.val → n = (issuer h s).rowSel row →
    (issuer h s).rowBusy n = false → (started h s).eccClean = true →
    (started h s).regionAdmits .gallery false ((started h s).blockAt h.ne.val lpi.toNat) 128 = true →
    (started h s).regionAdmits .gallery false ((started h s).recsAt h.ne.val cb) (16 * q) = true → b = (started h s).drainBlk h.ne.val lpi.toNat →
    (started h s).blockAt h.ne.val lpi.toNat < 0x54000000 → (started h s).recsAt h.ne.val cb < 0x54000000 →
    b.tfmt ≠ fmtCode .mxfp4 → q = ((issuer h s).acmRow n).outs → w = tgtBits b → cb = (issuer h s).sreg chr.val % 65536 →
    w * q * (pos.toNat + 1) ≤ 32768 → cb + q ≤ ((started h s).layerSecD h.ne.val).2.2 →
    (issuer h s).noStore ((started h s).blockAt h.ne.val lpi.toNat) 128 →
    (issuer h s).noStore ((started h s).recsAt h.ne.val cb) (16 * q) →
    (issuer h s).inOrder (drnLat b.act) (.vreg vd.val) (maskAt (w * q * pos.toNat) (w * q)) →
    ∃ t p y, exec (.drn h vd pos false false chr lpi row) s = .next t ∧ turns h s t y ∧
      y = { issuer h s with
        mons := y.mons, pend := (issuer h s).pend ++ [p]
        reads := (issuer h s).reads ++ [((started h s).blockAt h.ne.val lpi.toNat, 128),
          ((started h s).recsAt h.ne.val cb, 16 * q)] } ∧
      resultFor (issuer h s) (drnLat b.act) (.vreg vd.val) p ∧
      (∀ old i, elemOf w (blend old p.mask p.val) i =
        if q * pos.toNat ≤ i ∧ i < q * pos.toNat + q then
          (drainOut b ((issuer h s).palView b.pslot)
            (drainV b ((issuer h s).acmRow n).fmt
              (parseCh ((started h s).bytes ((started h s).recsAt h.ne.val cb) (16 * q)) (i - q * pos.toNat))
              (elemOf (8192 / q) ((issuer h s).rowData ((issuer h s).acmRow n)) (i - q * pos.toNat)),
             ((issuer h s).acmRow n).satBits.testBit (if q = 128 then 2 * (i - q * pos.toNat) else i - q * pos.toNat))).code %
            2 ^ w
        else elemOf w old i) ∧
      (∀ l, l ≠ lpi.toNat → y.monitor l = (issuer h s).monitor l) ∧
      ∀ c, c = ((List.range q).filter fun i => decide (b.ch0 ≤ cb + i ∧ cb + i < b.ch0 + b.nch)).length → c ≠ 0 →
        (y.monitor lpi.toNat).outs = min (((issuer h s).monitor lpi.toNat).outs + c) (2 ^ 48 - 1))

/-- R67, R106, R120, R130: the engine runs to the cycle in which its next result lands, its next own-slice store is
performed or its next ACM row is written, and no further than it issues or drains; a reply that is not late answers
the oldest remote load. Where nothing of the kind is owed, the row does nothing. Where one result, one own-slice store
or one ACM row without ring mode is all that an engine whose command has ended still owes, the register holds the
result, the slice the stored bytes, the row its accumulation; a store that the region descriptors refuse leaves memory
(R407); and of one remote load of slices the reply's bytes replace the load. R43, R71, R75: the accumulation of one
INT32 row: an enabled column adds its sum and saturates; a tagged row counts as its tag's value; a disabled column
keeps its value and its ACC_SAT bit; and the row's tag becomes VALID. R98, R187, R188: accesses of an issue cycle to
different banks are granted at once; otherwise the engine stalls for the largest number of cycles that one bank keeps
an access of it waiting, and the stall is counted. Two accesses of the engine to one bank stall it for a cycle; a
remote access that has waited 16 cycles goes before the engine's, unless the bank granted another such access fewer
than 16 cycles ago. In a droop the cycles count as suppressed pulses (R383, log entry 97). -/
def Obligations.DrainingEffects : Prop :=
  (∀ (s : State) (ne : Fin 6) (x : Engine), x = s.eng ne.val →
    (∀ d, least (x.pend.map (·.due)) = some d → exec (.resultWrite ne) s =
      .next (coast ne.val (d - x.cyc + if x.pend.any (fun p => p.isPal && p.due == d) then 1 else 0) s)) ∧
    (∀ d, least (x.stores.map (·.due)) = some d → exec (.ownStorePerformed ne) s = .next (coast ne.val (d - x.cyc) s)) ∧
    (∀ d, x.nextRow = some d → exec (.acmRowWrite ne) s = .next (coast ne.val (d - x.cyc + 1) s)) ∧
    (x.pend = [] → exec (.resultWrite ne) s = .next s) ∧ (x.stores = [] → exec (.ownStorePerformed ne) s = .next s) ∧
    (x.rows = [] → x.ops = [] → exec (.acmRowWrite ne) s = .next s) ∧
    (∀ late, (∀ p ∈ x.pend, p.rld = none) → exec (.rldReply ne late) s = .next s) ∧
    (∀ (l m : List PendRes) (p q : PendRes) (r : RemoteLoad) (u : State), x.pend = l ++ p :: m → (∀ y ∈ l, y.rld = none) →
      p.rld = some r → s.remoteReply p r = (q, u) →
      exec (.rldReply ne 0) s =
        .next ((u.modEng ne.val fun y => { y with pend := l ++ q :: m, stRemote := y.stRemote % 2 ^ 64 }).suppress ne.val 0)) ∧
    (∀ (p : PendRes) (k : Nat), s.tripped = false → { x with pend := [] }.quiet → x.pend = [p] → p.fault = none →
      p.rld = none → x.cyc < p.due → k = p.due - x.cyc + (if p.isPal then 1 else 0) →
      ∃ t, exec (.resultWrite ne) s = .next t ∧ s.onlyEngine t ne.val ∧
        t.eng ne.val = ({ x with pend := [] }.aged k).land p) ∧
    (∀ st : PendStore, s.tripped = false → s.eccClean = true → { x with stores := [] }.quiet → x.stores = [st] →
      x.cyc < st.due → st.addr < 0x54000000 → s.regionAdmits .gallery true st.addr st.data.length = true →
      ∃ t, exec (.ownStorePerformed ne) s = .next t ∧ t.eng ne.val = { x with stores := [] }.aged (st.due - x.cyc) ∧
        t.regs = s.regs ∧ (∀ f, f ≠ ne.val → t.eng f = s.eng f) ∧ s.bytesBut t st.addr st.data.length ∧
        ∀ i, i < st.data.length → some (t.byte (st.addr + i)) = st.data[i]?) ∧
    (∀ st : PendStore, s.tripped = false → { x with stores := [] }.quiet → x.stores = [st] → x.cyc < st.due →
      s.regionAdmits .gallery true st.addr st.data.length = false →
      ∃ t, exec (.ownStorePerformed ne) s = .next t ∧ t.mem = s.mem ∧ (t.eng ne.val).stores = []) ∧
    (∀ w : RowWrite, s.tripped = false → { x with rows := [] }.quiet → x.rows = [w] → x.ops = [] → w.ring = false →
      x.cyc ≤ w.due →
      ∃ t y, exec (.acmRowWrite ne) s = .next t ∧ s.onlyEngine t ne.val ∧ t.eng ne.val = y ∧
        y = { { x with rows := [] }.aged (w.due - x.cyc + 1) with acm := y.acm } ∧ y.acmRow w.row = x.writeRow w ∧
        ∀ r, r ≠ w.row → y.acmRow r = x.acmRow r) ∧
    (∀ (p : PendRes) (r : RemoteLoad), s.eccClean = true → x.droop = false → x.pend = [p] → p.rld = some r →
      s.piecesCheck .gallery false false r.pieces = (none, s) → (∀ q ∈ r.pieces, q.1 < 0x54000000) →
      ∃ t, exec (.rldReply ne 0) s = .next t ∧ s.onlyEngine t ne.val ∧
        t.eng ne.val = { x with
          pend := [{ p with rld := none, val := le (r.pieces.flatMap fun q => s.bytes q.1 q.2) * 2 ^ (8 * r.pos) }]
          stRemote := x.stRemote % 2 ^ 64 })) ∧
  (∀ (x : Engine) (w : RowWrite) (i : Nat), w.fmt = .i32 → w.pair = false → w.ring = false → w.neg = false → i < 256 →
    (x.acmRow w.row).fmt = .i32 →
    (x.writeRow w).tag = 0 ∧
    (w.mask.testBit i = true →
      sx 32 (elemOf 32 (x.writeRow w).data i) =
        max (-2147483648) (min 2147483647 (sx 32 (elemOf 32 (x.rowData (x.acmRow w.row)) i) + w.sums.getD i 0))) ∧
    (w.mask.testBit i = false →
      elemOf 32 (x.writeRow w).data i = elemOf 32 (x.rowData (x.acmRow w.row)) i ∧
        (x.writeRow w).sat.testBit i = ((x.acmRow w.row).tag == 0 && (x.acmRow w.row).sat.testBit i))) ∧
  (∀ (s : State) (ne : Fin 6) (reqs : List BankReq) (k : Nat), k = (s.bankCycle ne.val reqs).1 →
    ((s.eng ne.val).run = .issuing ∨ (s.eng ne.val).run = .ending) → s.tripped = false →
    ∃ t, exec (.bankGrant ne reqs) s = .next t ∧
      s.regsBut t [.pmcNeDroop ne.val] ∧
      ((s.eng ne.val).droop = true → t.rget (.pmcNeDroop ne.val) = (s.rget (.pmcNeDroop ne.val) + k) % 2 ^ 64) ∧
      ((s.eng ne.val).droop = false → t.regs = s.regs) ∧
      t = { s with
        engines := t.engines
        regs := t.regs
        gesso := { s.gesso with agedRemote := t.gesso.agedRemote, agedScrub := t.gesso.agedScrub } } ∧
      (∀ f, f ≠ ne.val → t.eng f = s.eng f) ∧
      t.eng ne.val = { s.eng ne.val with
        stBank := ((s.eng ne.val).stBank + k) % 2 ^ 64
        elapsed := (s.eng ne.val).elapsed + k
        clk := (s.eng ne.val).clk + k
        noIssue := (s.eng ne.val).noIssue + k } ∧
      ((reqs.map fun q => lineBank ne.val q.line).Nodup → k = 0) ∧
      (∀ a b : BankReq, reqs = [a, b] → lineBank ne.val a.line = lineBank ne.val b.line → ownAccess a = true →
        (ownAccess b = true → k = 1) ∧
        ∀ w, b.cls = .remote w → 16 ≤ w →
          k = if agedOk (s.eng ne.val).clk 16 (mfind s.gesso.agedRemote (ne.val * 448 + lineBank ne.val a.line)) = true then 1 else 0))

/-- R172 to R175: the decision of a layer that fits lets its bundle begin to issue and stores the record; a re-run counts,
flags the command and transfers control to the alternate body, to return to the decision bundle; the two refusals and
COUNT_ONLY leave the output and store the record. A stop or a late fault that the engine has met at the bundle wins
(R175). R172, Table 7.4: the five outcomes of a decision, each exactly when the rule gives it. `trig` is what the
tests or the forced mode ask for. R175: a stop request, or a fault found late, that the engine has met when it comes
to the decision ends the command there. R174, R175: after the alternate body's last bundle, and two cycles without
issue, the decision bundle begins to issue and its record is stored. An engine whose body goes on with further
operations does nothing; one that stops issuing first stays where it stops. -/
def Obligations.PentimentoDecisions : Prop :=
  (∀ (h : Issue) (s u : State) (x : Engine) (lpi : Nat) (b : LayerBlk) (d : Decision), advance h.ne.val h.dt s = (u, true) →
    x = u.eng h.ne.val → x.run = .issuing → x.opened = false → x.stop = false → x.late = none → u.undecided h.ne.val = true → x.ctl.resume = none →
    u.decisionDue h.ne.val = some (lpi, b) → u.eccClean = true → u.blockAt h.ne.val lpi < 0x54000000 →
    u.regionAdmits .gallery false (u.blockAt h.ne.val lpi) 128 = true →
    (d = .rerun → u.altEntry h.ne.val b.alt < 0x54000000 ∧ u.regionAdmits .gallery false (u.altEntry h.ne.val b.alt) 32 = true) →
    d = decision (effMode x.gmode b.mmode) b (x.monitor lpi) x.reruns (min (u.pntImage h.ne.val).2 (bits x.pntCtl 15 8))
      x.elapsedNow →
    ∃ t, exec (.pentimentoDecision h) s = .next t ∧ t.mem = u.mem ∧ t.regs = u.regs ∧
      (∀ f, f ≠ h.ne.val → t.eng f = u.eng f) ∧
      (d = .rerun →
        (t.eng h.ne.val).pent = true ∧ (t.eng h.ne.val).reruns = x.reruns + 1 ∧
        (t.eng h.ne.val).ctl.pc = (u.altBody h.ne.val b.alt).1 ∧ (t.eng h.ne.val).ctl.altRet = some x.ctl.pc ∧
        (t.eng h.ne.val).ctl.hold = 2 ∧ (t.eng h.ne.val).stores = x.stores ∧
        (t.eng h.ne.val).ctl.resume = some (lpi,
          pntRecord d (testBits (effMode x.gmode b.mmode) b (x.monitor lpi)) (x.monitor lpi))) ∧
      (d ≠ .rerun →
        (t.eng h.ne.val).pent = x.pent ∧ (t.eng h.ne.val).reruns = x.reruns ∧ (t.eng h.ne.val).ctl.pc = x.ctl.pc ∧
        (t.eng h.ne.val).ctl.decided = true ∧ (t.eng h.ne.val).opened = true ∧
        (t.eng h.ne.val).stores = x.stores ++ [⟨x.cyc, x.cyc + 6, x.ctl.pc,
          sliceBase h.ne.val + x.tbase + ((u.pntImage h.ne.val).1 + 16 * lpi),
          pntRecord d (testBits (effMode x.gmode b.mmode) b (x.monitor lpi)) (x.monitor lpi)⟩])) ∧
  (∀ (eff : Nat) (b : LayerBlk) (m : Monitor) (reruns cap elapsed : Nat) (trig : Prop),
    (trig ↔ (eff = 3 ∨ (b.minOuts ≤ m.outs ∧
      ((b.satThr ≠ 0 ∧ b.satThr * m.outs < m.satc * 2 ^ 20) ∨ (b.headThr ≠ 0 ∧ b.headThr * m.outs < m.headc * 2 ^ 20) ∨
        (b.nanLim ≠ 0 ∧ b.nanLim ≤ m.nanc))))) →
    (decision eff b m reruns cap elapsed = .fits ↔ ¬ trig) ∧
    (decision eff b m reruns cap elapsed = .countOnly ↔ trig ∧ eff = 1) ∧
    (decision eff b m reruns cap elapsed = .refusedCount ↔ trig ∧ eff ≠ 1 ∧ cap ≤ reruns) ∧
    (decision eff b m reruns cap elapsed = .refusedDeadline ↔
      trig ∧ eff ≠ 1 ∧ reruns < cap ∧ b.rrLatest ≠ 0xFFFFFFFF ∧ b.rrLatest < elapsed) ∧
    (decision eff b m reruns cap elapsed = .rerun ↔
      trig ∧ eff ≠ 1 ∧ reruns < cap ∧ (b.rrLatest = 0xFFFFFFFF ∨ elapsed ≤ b.rrLatest))) ∧
  (∀ (h : Issue) (s u : State) (c : Bool), advance h.ne.val h.dt s = (u, c) → (u.eng h.ne.val).run = .issuing →
    ((u.eng h.ne.val).late = none → (u.eng h.ne.val).stop = true →
      exec (.pentimentoDecision h) s =
        .next (u.engStop h.ne.val ⟨0x0002, 0, (u.eng h.ne.val).ctl.pc, 0, 0⟩ false)) ∧
    (∀ f : FaultRec, (u.eng h.ne.val).late = some f → exec (.pentimentoDecision h) s = .next (u.engStop h.ne.val f true))) ∧
  (∀ (s v : State) (ne : Fin 6) (lpi : Nat) (bs : List Byte) (c : Bool), (s.eng ne.val).ctl.resume = some (lpi, bs) →
    toAltEnd ne.val (altLeft (s.eng ne.val)) s = (v, c) →
    (c = false → exec (.decisionBundleResume ne) s = .next (if (v.eng ne.val).run = .issuing then s else v)) ∧
    ∀ (u : State) (x : Engine), c = true → advance ne.val (v.eng ne.val).ctl.hold v = (u, true) → x = u.eng ne.val →
    x.run = .issuing → x.opened = false →
    ∃ t, exec (.decisionBundleResume ne) s = .next t ∧ t.mem = u.mem ∧ t.regs = u.regs ∧
      (∀ f, f ≠ ne.val → t.eng f = u.eng f) ∧ (t.eng ne.val).ctl.resume = none ∧ (t.eng ne.val).ctl.decided = true ∧
      (t.eng ne.val).ctl.pc = x.ctl.pc ∧ (t.eng ne.val).guards = x.guards.filter (· ≠ lpi) ∧
      (t.eng ne.val).stores = x.stores ++ [⟨x.cyc, x.cyc + 6, x.ctl.pc,
        sliceBase ne.val + x.tbase + ((u.pntImage ne.val).1 + 16 * lpi), bs⟩])

/-- R93, R94, R235: an idle, enabled engine takes the first task of the highest priority in its queue, whole or a part:
its program starts at the image's entry with S53 to S55 and the arguments in S56 to S63, ELAPSED, PHASEID and the
re-runs at zero, and the vector registers and accumulators kept for the same context only. That the cycles in which a
change of context zeroes registers count nowhere is the model's choice (log entry 88). R95, R109, R237, R257, R267:
once everything an ended engine command issued has been performed, the engine is idle, its elapsed cycles count for
the context, and the command commits with its status, where it failed and its flags; a part of a split command first
waits for the other parts, and with the last part a split command whose parts all ended ST_OK commits ST_OK. -/
def Obligations.EngineStartAndEnd : Prop :=
  (∀ (s : State) (ne : Fin 6) (x : Engine) (k : Task) (im : Image) (c : Instr), x = s.eng ne.val →
    nextTask x.queue = some k → c = (if k.id.eng.isSome then .partStart ne else .commandStart ne) →
    x.run = .idle → x.idle = .active → s.fget (.neCtl ne.val) 0 0 = 1 → s.tripped = false →
    mfind s.images k.image = some im → k.args.length = 8 →
    ∃ t y, exec c s = .next t ∧ t = { s with engines := t.engines, pmc := t.pmc } ∧ t.eng ne.val = y ∧ y.task = some k ∧
      (y.run = .budget ∨ y.run = .issuing) ∧ y.ctl.pc = im.entry ∧ y.tbase = k.tbase ∧ y.tlimit = k.tlimit ∧
      y.queue = x.queue.filter (fun j => !(j.id == k.id)) ∧ y.elapsed = 0 ∧ y.phaseid = 0 ∧ y.reruns = 0 ∧ y.faulted = false ∧
      y.pend = [] ∧ y.stores = [] ∧ y.pregs = [] ∧ y.win = [] ∧ y.pntCtl = s.rget (.pntCtl ne.val) ∧
      (∀ j, j < 8 → y.sreg (56 + j) = (k.args.getD j 0).toNat) ∧ y.sreg 53 = k.s53 % 2 ^ 64 ∧ y.sreg 54 = k.s54 % 2 ^ 64 ∧
      y.sreg 55 = k.s55 % 2 ^ 64 ∧ (∀ j, j < 53 → y.sreg j = 0) ∧
      y.vregs = (if x.lastCtx = some (s.pmtCtx k.ctx) then x.vregs else []) ∧ y.acm = (if x.lastCtx = some (s.pmtCtx k.ctx) then x.acm else []) ∧
      ∀ f, f ≠ ne.val → (t.eng f).task = (s.eng f).task ∧ (t.eng f).sregs = (s.eng f).sregs ∧ (t.eng f).ctl = (s.eng f).ctl) ∧
  (∀ (s : State) (ne : Fin 6) (x : Engine) (k : Task) (c : Cmd), x = s.eng ne.val → x.quiet → s.tripped = false →
    x.held = [] → x.task = some k → s.cmd? k.id.sq k.id.seq = some c → k.ctx < 4096 → c.ctx < 4096 → c.sq < 1024 →
    (k.id.eng = none → c.aborting = false →
      ∃ t, exec (.commandComplete ne) s = .next t ∧ (t.eng ne.val).run = .idle ∧ (t.eng ne.val).task = none ∧
        t.mem = s.mem ∧ t.rget (.ctxEngcyc k.ctx) = (s.rget (.ctxEngcyc k.ctx) + x.elapsed +
          (max x.cyc x.cBusy + 2 - x.cyc)) % 2 ^ 64 ∧
        s.completes t c x.endRec.status (if x.endRec.status = 0 ∨ x.endRec.status = 2 then 0 else x.endRec.sub) ∧
        (s.fatal = false → ∃ r, t.commitQ[s.commitQ.length]? = some r ∧
          r.failEng = (if x.endRec.status = 0 ∨ x.endRec.status = 2 then 255 else ne.val) ∧ r.failSlot = x.endRec.slot ∧
          r.index = x.endRec.pc ∧ r.detail = x.endRec.detail ∧
          r.flags = (if x.pent then 1 else 0) + 2 * (if x.empty then 1 else 0) + 4 * (if x.ooo then 1 else 0) ∧
          r.discard = min x.discard 0xFFFFFFFF)) ∧
    (k.id.eng = some ne → x.endRec.status = 0 → (∃ p ∈ c.parts, p.eng ≠ ne.val ∧ p.result = none) →
      (∃ p ∈ c.parts, p.eng = ne.val) →
      ∃ t d, exec (.partEnd ne) s = .next t ∧ (t.eng ne.val).run = .idle ∧ (t.eng ne.val).task = none ∧
        t.commitQ = s.commitQ ∧ t.mem = s.mem ∧ t.cmd? k.id.sq k.id.seq = some d ∧
        ∀ p ∈ d.parts, if p.eng = ne.val then p.result.map (·.fault) = some x.endRec
          else ∃ q ∈ c.parts, q.eng = p.eng ∧ q.result = p.result) ∧
    (k.id.eng = some ne → x.endRec.status = 0 → c.aborting = false → c.order = [] →
      (∃ p ∈ c.parts, p.eng = ne.val) →
      (∀ p ∈ c.parts, p.eng ≠ ne.val → ∃ r, p.result = some r ∧ r.fault.status = 0) →
      ∃ t, exec (.partEnd ne) s = .next t ∧ (t.eng ne.val).run = .idle ∧ (t.eng ne.val).task = none ∧ s.completes t c 0 0))

/-- R100, R117, R278, Table 11.6: a stop request marks an issuing engine to stop at its next bundle boundary and ends a
fence wait at once with ST_ABORTED. An ABORT takes effect as its descriptor, the next of its queue, is accepted:
without a target it completes ST_ALREADY_DONE, where it names a queue of another context or a number not yet accepted
ST_REJECTED with 0x0012, and with a target that does not run yet ST_OK behind it, the target with ST_ABORTED. -/
def Obligations.StopAndAbort : Prop :=
  ∀ s : State,
    (∀ (w : World) (ne : Fin 6), s.admits w (.neCtl ne.val) true → (s.eng ne.val).run = .issuing →
      ∃ t, exec (.stopReq w ne) s = .next t ∧ s.onlyEngine t ne.val ∧ t.eng ne.val = { s.eng ne.val with stop := true }) ∧
    (∀ (w : World) (ne : Fin 6), s.admits w (.neCtl ne.val) true → (s.eng ne.val).run = .waitFence →
      ∃ t, exec (.stopReq w ne) s = .next t ∧ (t.eng ne.val).run = .ending ∧ (t.eng ne.val).endRec.status = 2 ∧
        (t.eng ne.val).faulted = false ∧ t.mem = s.mem ∧ (∀ f, f ≠ ne.val → t.eng f = s.eng f)) ∧
    (∀ (q : Fin 1024) (seq : W32), ((s.sq q.val).base + (s.sq q.val).dev) % 2 ^ 32 ≠ seq.toNat →
      exec (.abort q seq) s = .next s) ∧
    (∀ (q : Fin 1024) (seq : W32) (u v w : State) (d d0 : List Byte) (rest : List (List Byte)) (c : Cmd),
      ((s.sq q.val).base + (s.sq q.val).dev) % 2 ^ 32 = seq.toNat →
      u = s.cqRefresh (s.cqOf q.val) → (u.sq q.val).fetched = d0 :: rest → rest ≠ [] → u.mayAccept q.val = true →
      u.hostRead (u.sqRing q.val + 64 * ((u.sq q.val).dev % u.sqSize q.val)) 64 = (some d, v) → fieldAt d 0 1 = 6 →
      (v.tagged = true → v.ctxSt (v.descCtx q.val d) ≠ 2) → descBad v.tagged d = false →
      fieldAt d 48 2 = 0 → fieldAt d 50 2 = 0 →
      w = ((v.setSq q.val { v.sq q.val with dev := (v.sq q.val).dev + 1, fetched := (v.sq q.val).fetched.tail }).setCq
        (v.cqOf q.val) { v.cq (v.cqOf q.val) with reserved := (v.cq (v.cqOf q.val)).reserved + 1 }).writeSqBell q.val →
      c = { sq := q.val, seq := ((v.sq q.val).base + (v.sq q.val).dev) % 2 ^ 32, rseq := (v.sq q.val).dev % 2 ^ 32
            cq := v.cqOf q.val, ctx := w.descCtx q.val d, desc := d, sync := [], phase := .accepted, pins := [], pre := none } →
      (w.abortRefused c = true →
        ∃ t, exec (.abort q seq) s = .next t ∧ w.completes t c 0x10 0x12 ∧ t.engines = w.engines ∧ t.mem = w.mem) ∧
      (w.abortRefused c = false → abortEvery d = false → w.abortTargets c = [] →
        ∃ t, exec (.abort q seq) s = .next t ∧ w.completes t c 3 0 ∧ t.engines = w.engines ∧ t.mem = w.mem) ∧
      (∀ x : Cmd, w.abortRefused c = false → w.fatal = false → w.cmds = [x] → x.phase = .accepted → x.targets = [] →
        w.abortTargets c = [(x.sq, x.seq)] →
        ∃ t a b, exec (.abort q seq) s = .next t ∧ t.cmds = [] ∧ t.commitQ = w.commitQ ++ [a, b] ∧ a.status = 2 ∧
          a.seq = x.rseq ∧ a.sq = x.sq ∧ b.status = 0 ∧ b.seq = c.rseq ∧ b.sq = c.sq ∧ t.engines = w.engines ∧
          t.mem = w.mem))

/-- R258 to R261: a kick, or a poll that is on, reads the doorbell record of an enabled queue and, with no burst held,
fetches up to 16 descriptors that do not wrap, clearing NEED_KICK; with none left and POLL zero it sets NEED_KICK.
DEV_INDEX and NEED_KICK are written to the record in host memory. R259, R261, R266: a descriptor of a burst is
accepted as host memory now holds it: DEV_INDEX rises, in the doorbell record too, an entry of the completion queue is
reserved, and a well-formed NOP without lists becomes an accepted command; a malformed descriptor completes
ST_REJECTED at once. -/
def Obligations.DescriptorIntake : Prop :=
  (∀ (s u : State) (q : Fin 1024) (c : Instr) (x : Sq) (b : List Byte) (n at_ k : Nat),
    (c = .kick q ∨ (c = .sqPoll q ∧ s.fget (.sqPollR q.val) 15 0 ≠ 0)) → s.sqEn q.val = true → (s.sq q.val).error = false →
    s.fatal = false → s.ready = true → s.hostRead (s.sqBell q.val) 16 = (some b, u) → (u.sq q.val).fetched = [] →
    x = { u.sq q.val with host := fieldAt b 0 4 } → at_ = x.dev % u.sqSize q.val →
    n = min ((x.host + 2 ^ 32 - x.dev % 2 ^ 32) % 2 ^ 32) (u.sqSize q.val) → k = min (min n 16) (u.sqSize q.val - at_) →
    (∀ (v : State) (l : List Byte), n ≠ 0 →
      (u.setSq q.val x).hostRead ((u.setSq q.val x).sqRing q.val + 64 * at_) (64 * k) = (some l, v) →
      exec c s = .next (
        let w := v.setSq q.val { x with
          fetched := (List.range k).map fun i => (l.drop (64 * i)).take 64, left := n - k, needKick := false }
        if x.needKick then w.writeSqBell q.val else w)) ∧
    (n = 0 → u.fget (.sqPollR q.val) 15 0 = 0 →
      exec c s = .next ((u.setSq q.val { x with needKick := true, left := 0 }).writeSqBell q.val)) ∧
    (n = 0 → u.fget (.sqPollR q.val) 15 0 ≠ 0 → exec c s = .next (u.setSq q.val { x with left := 0 })) ∧
    (∀ a, u.standalone = false → u.pcie.width ≠ 0 → u.eccClean = true → u.hostOk (u.sqBell q.val + 8) 8 = true →
      a = u.hostPa (u.sqBell q.val + 8) →
      u.bytesBut (u.writeSqBell q.val) a 8 ∧
        (u.writeSqBell q.val).field a 8 = (u.sq q.val).dev % 2 ^ 32 + (if (u.sq q.val).needKick then 2 ^ 32 else 0))) ∧
  (∀ (s : State) (q : Fin 1024) (u v : State) (d d0 : List Byte) (rest : List (List Byte)),
    u = s.cqRefresh (s.cqOf q.val) → (u.sq q.val).fetched = d0 :: rest → rest ≠ [] → u.mayAccept q.val = true →
    u.hostRead (u.sqRing q.val + 64 * ((u.sq q.val).dev % u.sqSize q.val)) 64 = (some d, v) →
    (v.tagged = true → v.ctxSt (v.descCtx q.val d) ≠ 2) →
    (descBad v.tagged d = false → fieldAt d 0 1 = 1 → fieldAt d 48 2 = 0 → fieldAt d 50 2 = 0 →
      ∃ t c, exec (.descriptorAccept q) s = .next t ∧ t.cmds = v.cmds ++ [c] ∧ c.sq = q.val ∧
        c.seq = ((v.sq q.val).base + (v.sq q.val).dev) % 2 ^ 32 ∧ c.rseq = (v.sq q.val).dev % 2 ^ 32 ∧ c.desc = d ∧
        c.cq = v.cqOf q.val ∧ c.ctx = v.descCtx q.val d ∧ c.phase = .accepted ∧ c.pins = [] ∧ c.sync = [] ∧
        (t.sq q.val).dev = (v.sq q.val).dev + 1 ∧ (t.sq q.val).fetched = (v.sq q.val).fetched.tail ∧
        (t.cq (v.cqOf q.val)).reserved = (v.cq (v.cqOf q.val)).reserved + 1 ∧ t.engines = v.engines ∧
        t.commitQ = v.commitQ ∧
        (∀ a, v.standalone = false → v.pcie.width ≠ 0 → v.eccClean = true → v.hostOk (v.sqBell q.val + 8) 8 = true →
          a = v.hostPa (v.sqBell q.val + 8) →
          t.regs = v.regs ∧ v.bytesBut t a 8 ∧ t.field a 4 = ((v.sq q.val).dev + 1) % 2 ^ 32)) ∧
    (descBad v.tagged d = true →
      ∃ t r l, exec (.descriptorAccept q) s = .next t ∧ t.commitQ = v.commitQ ++ r :: l ∧
        r.status = (if v.fatal then 0xF0 else 0x10) ∧ (v.fatal = false → r.sub = 0x10) ∧
        r.sq = q.val ∧ r.seq = (v.sq q.val).dev % 2 ^ 32 ∧ (t.sq q.val).dev = (v.sq q.val).dev + 1 ∧ t.engines = v.engines))

/-- R262, R264 to R266, R293: a command processor dispatches the command it picks; a WAIT that is not met registers a wait
and holds it. A dispatched NOP commits ST_OK and changes nothing else; a command with BARRIER starts only when every
earlier command of its queue has committed. When a command is dispatched is the model's reading (log entry 5). R191,
R192, R214, R264: SDMA_ARM starts its list on an idle channel and latches it on one that runs; with both taken it
completes ST_BUSY_PENDING. WINDOW opens a closed window whose range is sound and completes, or starts the close of an
open one and runs. -/
def Obligations.DispatchAndCommands : Prop :=
  (∀ s : State,
    (∀ (cp : Fin 2) (c : Cmd), s.pick cp.val (s.candidates cp.val) = some c → fieldAt c.desc 0 1 = 1 → c.sync = [] →
      ∃ t, exec (.commandDispatch cp) s = .next t ∧ t = { s with cmds := t.cmds, rrCp := t.rrCp } ∧
        t.cmds = s.cmds.map fun d =>
          if d.sq = c.sq ∧ d.seq = c.seq then { c with startT := s.now, phase := .dispatched, plan := [] } else d) ∧
    (∀ (cp : Fin 2) (c : Cmd) (e : SyncEnt) (f : Nat), s.pick cp.val (s.candidates cp.val) = some c →
      fieldAt c.desc 0 1 = 1 → c.sync = [e] → e.kind = 0 → s.fenceMap c.ctx e.fence = some f →
      (s.fence f).val.toNat < e.val →
      ∃ t w, exec (.commandDispatch cp) s = .next t ∧ t = { s with cmds := t.cmds, rrCp := t.rrCp, waits := s.waits ++ [w] } ∧
        (t.cmds = s.cmds.map fun d =>
          if d.sq = c.sq ∧ d.seq = c.seq then { c with startT := s.now, phase := .prewait 0, plan := [] } else d) ∧
        w.kind = .pre ∧ w.fence = f ∧ w.target = e.val ∧ w.task = some ⟨c.sq, c.seq, none⟩ ∧
        w.deadline = if fieldAt c.desc 4 4 = 0 then none else some (s.now + fieldAt c.desc 4 4 * 1000)) ∧
    (∀ (sq : Fin 1024) (seq : W32) (c : Cmd), s.ready? sq.val seq.toNat 1 = some c →
      ∃ t, exec (.nop sq seq) s = .next t ∧ s.completes t c 0 0 ∧
        (s.fatal = false → t = { s with cmds := t.cmds, commitQ := t.commitQ, waits := t.waits })) ∧
    (∀ (sq : Fin 1024) (seq : W32) (c d : Cmd) (l m : List Cmd), s.cmd? sq.val seq.toNat = some c →
      fieldAt c.desc 1 1 / 4 % 2 = 1 → s.cmds = l ++ d :: m → (∀ b ∈ l, b.sq ≠ c.sq) → d.sq = c.sq → d.seq ≠ c.seq →
      ∀ i ∈ [Instr.nop sq seq, .loadImage sq seq, .unloadImage sq seq, .run sq seq, .sdmaArm sq seq, .window sq seq],
        exec i s = .next s)) ∧
  (∀ (s : State) (sq : Fin 1024) (seq : W32) (c : Cmd),
    (∀ (k : Nat) (r : ListRun), s.ready? sq.val seq.toNat 5 = some c → s.armRefused c = false → k = fieldAt c.desc 16 1 →
      r = newRun c.ctx (fieldAt c.desc 24 8) (some ⟨c.sq, c.seq, none⟩) (s.declaredList c none) →
      ((mget (fun _ => ({} : Sdma)) s.sdmas k).cur = none →
        ∃ t, exec (.sdmaArm sq seq) s = .next t ∧ t = { s with sdmas := t.sdmas, cmds := t.cmds } ∧
          (mget (fun _ => ({} : Sdma)) t.sdmas k).cur = some r ∧
          ∀ j, j ≠ k → mget (fun _ => ({} : Sdma)) t.sdmas j = mget (fun _ => ({} : Sdma)) s.sdmas j) ∧
      ((mget (fun _ => ({} : Sdma)) s.sdmas k).cur ≠ none → (mget (fun _ => ({} : Sdma)) s.sdmas k).latched = none →
        ∃ t, exec (.sdmaArm sq seq) s = .next t ∧ t = { s with sdmas := t.sdmas, cmds := t.cmds } ∧
          mget (fun _ => ({} : Sdma)) t.sdmas k = { mget (fun _ => ({} : Sdma)) s.sdmas k with latched := some r }) ∧
      ((mget (fun _ => ({} : Sdma)) s.sdmas k).cur ≠ none → (mget (fun _ => ({} : Sdma)) s.sdmas k).latched ≠ none →
        ∃ t, exec (.sdmaArm sq seq) s = .next t ∧ t.sdmas = s.sdmas ∧ s.completes t c 0x60 0)) ∧
    (∀ e w : Nat, s.fatal = false → s.ready? sq.val seq.toNat 7 = some c → e = fieldAt c.desc 16 1 →
      w = fieldAt c.desc 17 1 → e < 6 → w < 16 → fieldAt c.desc 18 1 = 1 → s.winCmdRefused c.desc = false →
      ∃ t, exec (.window sq seq) s = .next t ∧ s.completes t c 0 0 ∧ t.winState e w = 1 ∧
        t.winLo e w = fieldAt c.desc 20 2 * 65536 ∧ t.winHi e w = (fieldAt c.desc 20 2 + fieldAt c.desc 22 2) * 65536 ∧
        t.fget (.gsWinCtl e w) 3 2 = fieldAt c.desc 19 1 % 4 ∧
        s.regsBut t [.gsWinCtl e w, .gsWinBase e w, .gsWinSize e w] ∧ t.engines = s.engines ∧ t.mem = s.mem) ∧
    (∀ e w : Nat, s.ready? sq.val seq.toNat 7 = some c → e = fieldAt c.desc 16 1 → w = fieldAt c.desc 17 1 → e < 6 → w < 16 →
      fieldAt c.desc 18 1 = 2 → s.winState e w = 1 →
      ∃ t, exec (.window sq seq) s = .next t ∧ t.winState e w = 2 ∧ s.regsBut t [.gsWinCtl e w] ∧
        t = { s with regs := t.regs, cmds := t.cmds } ∧
        t.cmds = s.cmds.map fun d => if d.sq = c.sq ∧ d.seq = c.seq then { d with phase := .running } else d))

/-- R91, R92, R115, R264: a load to a free handle whose bytes the verifier refuses completes ST_REJECTED with the
verifier's sub-code, and one it accepts writes the placed sections and gives the handle the image; an unload of a
loaded image that no other command names frees the handle. -/
def Obligations.LoadAndUnload : Prop :=
  ∀ (s : State) (sq : Fin 1024) (seq : W32) (c : Cmd) (h : Nat), h = fieldAt c.desc 16 2 →
    (∀ (b : List Byte) (u : State), s.ready? sq.val seq.toNat 2 = some c → mfind s.images h = none →
      fieldAt c.desc 20 2 + fieldAt c.desc 22 2 ≤ 3584 →
      s.cpRead c.ctx (fieldAt c.desc 24 8) (fieldAt c.desc 32 8) = (.ok b, u) →
      ∃ t, exec (.loadImage sq seq) s = .next t ∧
        (∀ r, u.verify b (fieldAt c.desc 18 1) = some r →
          u.completes t c 0x10 r.sub ∧ t.images = u.images ∧ t.mem = u.mem ∧ t.engines = u.engines) ∧
        (u.verify b (fieldAt c.desc 18 1) = none → (parseRes (sectBody b 2)).taskMin ≤ fieldAt c.desc 22 2 * 65536 →
          (u.placeOn b (fieldAt c.desc 20 2 * 65536) (maskList (fieldAt c.desc 18 1))).1 = [] →
          u.completes t c 0 0 ∧
            t.mem = (u.placeOn b (fieldAt c.desc 20 2 * 65536) (maskList (fieldAt c.desc 18 1))).2.mem ∧
            (∀ j, j ≠ h → mfind t.images j = mfind u.images j) ∧
            ∃ im, mfind t.images h = some im ∧ im.ctx = c.ctx ∧ im.tbase = fieldAt c.desc 20 2 * 65536 ∧
              im.engs = engBits (maskList (fieldAt c.desc 18 1)))) ∧
    (∀ im : Image, s.ready? sq.val seq.toNat 3 = some c → s.imagePinned c h = false → mfind s.images h = some im →
      s.pmtCtx im.ctx = s.pmtCtx c.ctx →
      ∃ t, exec (.unloadImage sq seq) s = .next t ∧ s.completes t c 0 0 ∧ mfind t.images h = none ∧
        (∀ j, j ≠ h → mfind t.images j = mfind s.images j) ∧
        (s.fatal = false → t = { s with images := t.images, cmds := t.cmds, commitQ := t.commitQ, waits := t.waits }))

/-- R91, R233, R234, R264, R266: a RUN whose checks pass queues each of its tasks, whole or part, behind those its engine
has, and runs; the task of an unsplit one has the image and the task region of its descriptor, within the slice; one
whose handle holds no image of its context, or whose image R264 does not admit on its engine, completes ST_REJECTED
with sub-code 0x0011 before any other check. -/
def Obligations.RunCommand : Prop :=
  ∀ (s : State) (sq : Fin 1024) (seq : W32) (c : Cmd), s.ready? sq.val seq.toNat 4 = some c →
    (∀ (ts : List Task) (st : List (Nat × Nat × Nat)) (u : State), s.runPlan c = (.ok (ts, st), u) →
      ∃ t, exec (.run sq seq) s = .next t ∧ t = { u with engines := t.engines, cmds := t.cmds } ∧
        (∀ e, t.eng e = { u.eng e with queue := (u.eng e).queue ++ ts.filter fun k => k.engine c == e }) ∧
        t.cmds = u.cmds.map fun d => if d.sq = c.sq ∧ d.seq = c.seq then
          { d with phase := .running, parts := if c.split then ts.map fun k => ⟨k.engine c, none⟩ else [] } else d) ∧
    (∀ (ts : List Task) (st : List (Nat × Nat × Nat)) (u : State) (k : Task), s.runPlan c = (.ok (ts, st), u) →
      c.split = false → k ∈ ts →
      ts = [k] ∧ k.ctx = c.ctx ∧ k.image = fieldAt c.desc 16 2 ∧ k.tbase = fieldAt c.desc 20 2 * 65536 ∧
        k.tlimit = fieldAt c.desc 22 2 * 65536 ∧ k.id = ⟨c.sq, c.seq, none⟩ ∧
        fieldAt c.desc 20 2 + fieldAt c.desc 22 2 ≤ 3584) ∧
    ((∀ im, mfind s.images (fieldAt c.desc 16 2) = some im → s.pmtCtx im.ctx ≠ s.pmtCtx c.ctx) →
      ∃ t, exec (.run sq seq) s = .next t ∧ s.completes t c 0x10 0x11 ∧ t.engines = s.engines ∧ t.mem = s.mem) ∧
    (∀ im, mfind s.images (fieldAt c.desc 16 2) = some im → s.pmtCtx im.ctx = s.pmtCtx c.ctx → c.split = false →
      ¬ (fieldAt c.desc 18 1 ≤ 5 ∧ im.engs / 2 ^ fieldAt c.desc 18 1 % 2 = 1 ∧ fieldAt c.desc 20 2 * 65536 = im.tbase ∧
        im.taskMin ≤ fieldAt c.desc 22 2 * 65536) →
      ∃ t, exec (.run sq seq) s = .next t ∧ s.completes t c 0x10 0x11 ∧ t.engines = s.engines ∧ t.mem = s.mem)

/-- R268, R269, R275: the oldest committed record, where it is one of this completion queue, is written at DEV_INDEX with
its phase, DEV_INDEX rises, in the doorbell record too, its reserved entry and its pins are released, and a message is
sent where the record asks for it or THR records have been written since the last; a younger record waits. The
coalescing timer sends a message for records since the last. -/
def Obligations.CompletionRecords : Prop :=
  ∀ (s : State) (c : Fin 1024),
    (∀ (r : Rec) (l : List Rec) (a b : Nat) (m : Bool), s.commitQ = r :: l → r.cq = c.val → r.signals = [] →
      s.standalone = false → s.pcie.width ≠ 0 → s.eccClean = true → s.msixOpen = true →
      s.rget (.msixCtl (s.fget (.cqCfg c.val) 10 0)) % 2 = 0 →
      m = (r.irq || decide (max 1 (s.fget (.cqCfg c.val) 23 16) ≤ (s.cq c.val).since + 1)) →
      s.hostOk (s.cqRing c.val + 32 * ((s.cq c.val).dev % s.cqSize c.val)) 32 = true →
      s.hostOk (s.cqBell c.val + 8) 8 = true →
      a = s.hostPa (s.cqRing c.val + 32 * ((s.cq c.val).dev % s.cqSize c.val)) → b = s.hostPa (s.cqBell c.val + 8) →
      (b + 8 ≤ a ∨ a + 32 ≤ b) →
      ∃ t, exec (.completionWrite c) s = .next t ∧
        t = { s with
          mem := t.mem, cqs := t.cqs, commitQ := l, pmt := unpin s.pmt r.pins
          irqs := s.irqs ++ if m then [.msix (s.fget (.cqCfg c.val) 10 0)] else [] } ∧
        t.cq c.val = { s.cq c.val with
          dev := (s.cq c.val).dev + 1, reserved := (s.cq c.val).reserved - 1
          since := if m then 0 else (s.cq c.val).since + 1 } ∧
        (∀ d, d ≠ c.val → t.cq d = s.cq d) ∧
        t.bytes a 32 = recBytes r (if (s.cq c.val).dev / s.cqSize c.val % 2 = 0 then 1 else 0) ∧
        t.field b 4 = ((s.cq c.val).dev + 1) % 2 ^ 32 ∧
        ∀ x, (x < a ∨ a + 32 ≤ x) → (x < b ∨ b + 8 ≤ x) → t.byte x = s.byte x) ∧
    (∀ (r : Rec) (l : List Rec), s.commitQ = r :: l → r.cq ≠ c.val → exec (.completionWrite c) s = .next s) ∧
    (s.fget (.cqTmr c.val) 15 0 ≠ 0 → (s.cq c.val).since ≠ 0 → s.msixOpen = true →
      (s.standalone = true → s.pmc.pdHc = true) → s.rget (.msixCtl (s.fget (.cqCfg c.val) 10 0)) % 2 = 0 →
      ∃ t, exec (.cqCoalesceTimer c) s = .next t ∧
        t = { s with cqs := t.cqs, irqs := s.irqs ++ [.msix (s.fget (.cqCfg c.val) 10 0)] } ∧
        t.cq c.val = { s.cq c.val with since := 0 } ∧ ∀ d, d ≠ c.val → t.cq d = s.cq d)

/-- R255 to R258, R279, R287: the first non-zero context mode is kept; CREATE makes a FREE context ACTIVE and clears its
fences; DESTROY of a context that holds nothing makes it DESTROYING with BUSY set, and it becomes FREE, with its
images and, in isolated mode, its page mappings gone. R258: a submission queue is enabled with its fields once its
context and completion queue allow it, starting empty, a completion queue likewise; a disable clears EN, and one that
other queues still use raises CFGERR. -/
def Obligations.ContextsAndQueues : Prop :=
  (∀ (s : State) (w : World),
    (∀ mode : BitVec 2, s.admits w .cpqInit true → s.rget .cpqInit = 0 → mode = 1 ∨ mode = 2 →
      ∃ t, exec (.contextModeSelect w mode) s = .next t ∧ s.onlyRegs t [.cpqInit] ∧ t.rget .cpqInit = mode.toNat) ∧
    (∀ mode : BitVec 2, s.admits w .cpqInit true → s.rget .cpqInit ≠ 0 → exec (.contextModeSelect w mode) s = .next s) ∧
    (∀ c : BitVec 12, s.admits w .cpqCtxOp true → s.fget .cpqCtxStat 31 31 = 0 → s.rget .cpqInit = 1 → c.toNat < 256 →
      s.ctxSt c.toNat = 0 →
      ∃ t, exec (.create w c) s = .next t ∧ t = { s with regs := t.regs, fences := t.fences } ∧
        s.regsBut t [.ctxState c.toNat, .cpqCtxStat] ∧ t.rget (.ctxState c.toNat) = 1 ∧
        t.rget .cpqCtxStat = c.toNat * 65536 ∧
        (∀ f d, s.fenceMap c.toNat f = some d → t.fence d = {}) ∧
        ∀ d, (∀ f, s.fenceMap c.toNat f ≠ some d) → t.fence d = s.fence d) ∧
    (∀ c : BitVec 12, s.admits w .cpqCtxOp true → s.fget .cpqCtxStat 31 31 = 0 → s.rget .cpqInit = 1 → c.toNat < 256 →
      s.ctxSt c.toNat ≠ 0 → (∀ q, q < 1024 → s.sqEn q = false) → s.ctxCmds c.toNat = [] → s.sdmas = [] → s.rings = [] →
      (∀ k, k < 16 → s.fget (.taqCfg k) 31 31 = 0) →
      ∃ t, exec (.destroy w c) s = .next t ∧ s.onlyRegs t [.ctxState c.toNat, .cpqCtxStat] ∧ t.ctxSt c.toNat = 2 ∧
        t.rget .cpqCtxStat = 2 ^ 31 + c.toNat * 65536) ∧
    (∀ c : BitVec 12, s.flrBusy = false → s.fget (.ctxState c.toNat) 1 0 = 2 → s.destroyed c.toNat = true → s.fget .cpqEventVec 31 31 = 0 →
      ∃ t, exec (.contextFreed c) s = .next t ∧ t = { s with regs := t.regs, images := t.images, pmt := t.pmt } ∧
        t.fget (.ctxState c.toNat) 1 0 = 0 ∧ t.rget .cpqCtxStat = c.toNat * 65536 ∧ t.fget .cpqEvent 3 3 = 1 ∧
        t.images = s.images.filter (fun p => p.2.ctx != c.toNat) ∧
        t.pmt = if s.rget .cpqInit = 2 then s.pmt else s.pmt.filter fun p => p.2.ctx != c.toNat)) ∧
  (∀ (s : State) (w : World) (q : Fin 1024) (v : W32),
    (s.admits w (.sqCfg q.val) true → s.sqEn q.val = false → bits v.toNat 31 31 = 1 → s.rget .cpqInit = 1 →
      3 ≤ bits v.toNat 15 12 → s.cqEn (bits v.toNat 25 16) = true → bits v.toNat 11 0 < 256 →
      s.ctxSt (bits v.toNat 11 0) = 1 →
      ∃ t, exec (.queueEnWrite w false q v) s = .next t ∧ t = { s with regs := t.regs, sqs := t.sqs } ∧
        s.regsBut t [.sqCfg q.val] ∧ t.sqEn q.val = true ∧ t.cqOf q.val = bits v.toNat 25 16 ∧
        t.fget (.sqCfg q.val) 11 0 = bits v.toNat 11 0 ∧ t.sqPrio q.val = bits v.toNat 28 26 ∧ t.sq q.val = { base := s.sqBase q.val } ∧
        ∀ p, p ≠ q.val → t.sq p = s.sq p) ∧
    (s.admits w (.sqCfg q.val) true → s.sqEn q.val = true → bits v.toNat 31 31 = 0 →
      ∃ t, exec (.queueEnWrite w false q v) s = .next t ∧ t = { s with regs := t.regs, sqs := t.sqs } ∧
        s.regsBut t [.sqCfg q.val] ∧ t.sqEn q.val = false ∧
        t.sq q.val = { s.sq q.val with fetched := [], error := false }) ∧
    (s.admits w (.cqCfg q.val) true → s.cqEn q.val = false → bits v.toNat 31 31 = 1 → s.rget .cpqInit ≠ 0 →
      3 ≤ bits v.toNat 15 12 →
      ∃ t, exec (.queueEnWrite w true q v) s = .next t ∧ t = { s with regs := t.regs, cqs := t.cqs } ∧
        s.regsBut t [.cqCfg q.val] ∧ t.cqEn q.val = true ∧ t.cqSize q.val = 2 ^ (bits v.toNat 15 12 + 1) ∧
        t.cq q.val = { reserved := (s.cq q.val).reserved }) ∧
    (s.admits w (.cqCfg q.val) true → s.cqEn q.val = true → bits v.toNat 31 31 = 0 →
      (∃ p, p < 1024 ∧ s.sqEn p = true ∧ s.cqOf p = q.val) → s.fget .cpqEventVec 31 31 = 0 →
      ∃ t, exec (.queueEnWrite w true q v) s = .next t ∧ s.onlyRegs t [.cpqEvent] ∧ t.fget .cpqEvent 4 4 = 1))

/-- R271 to R273, R276: a write to the install address starts an operation with BUSY set, a second one only sets OVERRUN;
a removal of an entry that is not pinned takes it at once, one of a pinned entry or of none fails; BUSY clears, for a
removal, once no access translated through the entry is under way; when it does, an install holds the staged entry, a
forced removal has taken its entry once the records of the commands it aborted are written, and a look-up or read
stands in the staging registers. When a forced removal takes its entry is the model's reading (log entry 80). -/
def Obligations.PmtOperations : Prop :=
  ∀ (s : State) (w : World), s.admits w .pmtInstallR true →
    (∀ c ∈ [Instr.pmtInstall w, .pmtRemove w, .pmtRemoveForce w, .pmtLookup w, .pmtRead w], s.pmtOp ≠ none →
      ∃ t, exec c s = .next t ∧ s.onlyRegs t [.pmtResult] ∧ t.rget .pmtResult = setBits (s.rget .pmtResult) 30 30 1) ∧
    (s.pmtOp = none →
      (∃ t, exec (.pmtInstall w) s = .next t ∧ t = { s with regs := t.regs, pmtOp := some (s.installOp w) } ∧
        s.regsBut t [.pmtResult] ∧ t.fget .pmtResult 31 31 = 1) ∧
      (∀ i e, s.stagedIdx = some i → mfind s.pmt i = some e → e.pin = 0 →
        ∃ t, exec (.pmtRemove w) s = .next t ∧ t = { s with regs := t.regs, pmt := t.pmt, pmtOp := some (.remove i e) } ∧
          mfind t.pmt i = none ∧ (∀ j, j ≠ i → mfind t.pmt j = mfind s.pmt j) ∧ t.fget .pmtResult 31 31 = 1) ∧
      (∀ i e, s.stagedIdx = some i → mfind s.pmt i = some e → e.pin ≠ 0 →
        ∃ t, exec (.pmtRemove w) s = .next t ∧ t = { s with regs := t.regs, pmtOp := some (.fail 0x21 0) }) ∧
      (s.stagedIdx = none → ∀ c ∈ [Instr.pmtRemove w, .pmtRemoveForce w],
        ∃ t, exec c s = .next t ∧ t = { s with regs := t.regs, pmtOp := some (.fail 0x20 1) } ∧ t.fget .pmtResult 31 31 = 1) ∧
      (∀ i, s.stagedIdx = some i → s.pinners i = [] →
        ∃ t, exec (.pmtRemoveForce w) s = .next t ∧ t = { s with regs := t.regs, pmtOp := some (.force i []) } ∧
          t.fget .pmtResult 31 31 = 1) ∧
      (∃ t o, exec (.pmtLookup w) s = .next t ∧ t = { s with regs := t.regs, pmtOp := some (.lookup o
          (s.staged.ctx * 2 ^ 48 + s.staged.vpn * 65536)) } ∧ t.fget .pmtResult 31 31 = 1) ∧
      (∃ t, exec (.pmtRead w) s = .next t ∧ t = { s with regs := t.regs, pmtOp := some (.read (s.fget .pmtIndex 16 0)) } ∧
        t.fget .pmtResult 31 31 = 1)) ∧
    (∀ (i : Nat) (e : PmtEntry), s.pmtOp = some (.install i e) → i < 131072 →
      ∃ t, exec .pmtOpComplete s = .next t ∧ t = { s with regs := t.regs, pmt := t.pmt, pmtOp := none } ∧
        mfind t.pmt i = some e ∧ (∀ j, j ≠ i → mfind t.pmt j = mfind s.pmt j) ∧ s.regsBut t [.pmtResult] ∧
        t.fget .pmtResult 31 31 = 0 ∧ t.fget .pmtResult 63 32 = 0 ∧ t.fget .pmtResult 16 0 = i) ∧
    (∀ i e, s.pmtOp = some (.remove i e) → i < 131072 →
      (s.underWay e = true → exec .pmtOpComplete s = .next s) ∧
      ((∀ k, k < 6 → (s.eng k).posted = [] ∧ ∀ p ∈ (s.eng k).pend, p.rld = none) → s.underWay e = false) ∧
      (s.underWay e = false →
        ∃ t, exec .pmtOpComplete s = .next t ∧ t = { s with regs := t.regs, pmtOp := none } ∧ s.regsBut t [.pmtResult] ∧
          t.fget .pmtResult 31 31 = 0 ∧ t.fget .pmtResult 63 32 = 0)) ∧
    (∀ st sub, s.pmtOp = some (.fail st sub) → st < 65536 → sub < 65536 →
      ∃ t, exec .pmtOpComplete s = .next t ∧ t = { s with regs := t.regs, pmtOp := none } ∧ s.regsBut t [.pmtResult] ∧
        t.fget .pmtResult 63 48 = st ∧ t.fget .pmtResult 47 32 = sub ∧ t.fget .pmtResult 31 31 = 0) ∧
    (∀ (i : Nat) (l : List (Nat × Nat)), s.pmtOp = some (.force i l) →
      (s.recorded l = false ∨ (∃ e, mfind s.pmt i = some e ∧ s.underWay e = true) → exec .pmtOpComplete s = .next s) ∧
      (s.recorded l = true → (∀ e, mfind s.pmt i = some e → s.underWay e = false) → i < 131072 →
        ∃ t, exec .pmtOpComplete s = .next t ∧
          t = { s with
            regs := t.regs, pmt := t.pmt, cmds := t.cmds, commitQ := t.commitQ, rings := t.rings, pmtOp := none } ∧
          mfind t.pmt i = none ∧ (∀ j, j ≠ i → mfind t.pmt j = mfind s.pmt j) ∧ (∀ c ∈ t.cmds, i ∉ c.pins) ∧
          t.fget .pmtResult 31 31 = 0)) ∧
    (∀ (i k : Nat) (e : PmtEntry), (s.pmtOp = some (.read i) ∨ s.pmtOp = some (.lookup (some i) k)) →
      mfind s.pmt i = some e → i < 131072 → e.ctx < 4096 → e.vpn < 2 ^ 32 → e.ppn < 2 ^ 28 → e.pin < 4096 →
      ∃ t, exec .pmtOpComplete s = .next t ∧ t = { s with regs := t.regs, pmtOp := none } ∧
        s.regsBut t [.pmtResult, .pmtStage0, .pmtStage1] ∧ t.fget .pmtStage0 63 63 = 1 ∧ t.fget .pmtStage0 59 48 = e.ctx ∧
        t.fget .pmtStage0 47 16 = e.vpn ∧ t.fget .pmtStage1 43 16 = e.ppn ∧ t.fget .pmtStage1 63 52 = e.pin ∧
        t.fget .pmtResult 16 0 = i ∧ t.fget .pmtResult 31 31 = 0)

/-- R248, R251, R252: with the link trained (log entry 23, the model's choice), window 2 reads and writes through its
context's translation; disabled, it counts a refusal. After the first 100 ms a configuration read answers the
register, and a write replaces its writable bits; which bits those are and what the registers hold is presumed from
the PCI Express specification (log entry 20). R249, R252 to R254, R304, R434: an endpoint reset resets the endpoint's
configuration registers and link, and clears the mailbox channels to the host, alone; deassertion of PERST_N ends a
warm reset and starts the wait of R252; Function Level Reset with no context left removes every PMT entry, disables
every queue and window 2, and clears the channels to the host and the command processors; that it also returns the
configuration registers and ends a PMT operation is presumed (log entry 21). Trained links are recorded. -/
def Obligations.EndpointAndWindowTwo : Prop :=
  (∀ s : State,
    (∀ (off : BitVec 32) (n va : Nat) (ps : List (Nat × Nat)) (d : List Byte) (u : State), s.pcie.width ≠ 0 →
      s.fget .pcieW2Ctl 31 31 = 1 → va = (s.fget .pcieW2Vbase 47 21 * 2 ^ 21 + off.toNat) % 2 ^ 48 →
      s.xlatRange (s.fget .pcieW2Ctl 11 0) va n false = .ok ps → (∀ p ∈ ps, p.1 < hostBase) →
      s.piecesCheck .gallery false false ps = (none, s) → (s.train ps).readPieces 1 ps = (some d, u) →
      exec (.window2Access off (.read n)) s = .next { u with resp := { ok := true, status := 0, data := d } }) ∧
    (∀ (off : BitVec 32) (d : List Byte) (va : Nat) (ps : List (Nat × Nat)) (u : State), s.pcie.width ≠ 0 →
      s.fget .pcieW2Ctl 31 31 = 1 → va = (s.fget .pcieW2Vbase 47 21 * 2 ^ 21 + off.toNat) % 2 ^ 48 →
      s.xlatRange (s.fget .pcieW2Ctl 11 0) va d.length true = .ok ps → (∀ p ∈ ps, p.1 < hostBase) →
      s.piecesCheck .gallery false true ps = (none, s) → s.writePieces 1 ps d = (true, u) →
      exec (.window2Access off (.write d)) s = .next { u with resp := { ok := true, status := 0, data := [] } }) ∧
    (∀ (off : BitVec 32) (a : Access), s.pcie.width ≠ 0 → s.fget .pcieW2Ctl 31 31 = 0 →
      ∃ t, exec (.window2Access off a) s = .next t ∧ t = { s with regs := t.regs, pcie := t.pcie, resp := t.resp } ∧
        t.rget .pcieW2Refused = (s.rget .pcieW2Refused + 1) % 2 ^ 64 ∧ s.regsBut t [.pcieW2Refused] ∧
        t.resp = { ok := false, status := 0x20, data := [] }) ∧
    (∀ reg : BitVec 12, s.pcie.perst = false → s.held = false → s.pcie.early = false →
      exec (.configRequest reg none) s =
        .next { s with resp := { ok := true, status := 0, data := leBytes 4 (s.cfgRead (reg.toNat / 4)) } }) ∧
    (∀ (reg : BitVec 12) (v : W32) (r : Nat), s.pcie.perst = false → s.held = false → s.pcie.early = false →
      r = reg.toNat / 4 → r = 0x03 ∨ r = 0x04 ∨ r = 0x05 ∨ r = 0x07 ∨ r = 0x0F → s.msixOpen = false →
      ∃ t, exec (.configRequest reg (some v)) s = .next t ∧ t = { s with pcie := t.pcie, resp := {} } ∧
        t.cfgReg r = v.toNat &&& cfgMask r ∧ (∀ q, q ≠ r → t.cfgReg q = s.cfgReg q))) ∧
  (∀ s : State,
    (s.held = false →
      ∃ t, exec .perstEndpointReset s = .next t ∧
        t.pcie = { s.pcie with perst := true, cfg := [], width := 0, speed := 0, early := true } ∧
        t = { s with
          pcie := t.pcie, regs := t.regs, mbx := t.mbx, irqs := t.irqs, pmc := { s.pmc with wake := t.pmc.wake } } ∧
        ∀ k, k < 24 → t.slots k = if s.mbxReceiver k = some .host then [] else s.slots k) ∧
    (s.pcie.perst = true →
      exec .perstNDeassertion s = .next { s with
        held := s.held && decide (s.lastRst ≤ 1)
        pcie := { s.pcie with perst := false, early := true, openedAt := s.clock.ticks } }) ∧
    (s.held = false → (∀ c, c < 4096 → s.ctxSt c = 0) →
      ∃ t, exec .functionLevelReset s = .next t ∧
        t = { s with
          regs := t.regs, sqs := t.sqs, mbx := t.mbx, irqs := t.irqs, pmc := { s.pmc with wake := t.pmc.wake }
          pmt := [], pmtOp := none, flrBusy := false, pcie := { s.pcie with cfg := [] } } ∧
        (∀ k, k < 24 → t.slots k =
          if s.mbxReceiver k = some .host ∨ s.mbxReceiver k = some .cp0 ∨ s.mbxReceiver k = some .cp1 then []
          else s.slots k) ∧
        t.rget .cpqInit = 0 ∧ t.rget .pcieW2Ctl = 0 ∧ ∀ q, q < 1024 → t.sqEn q = false ∧ t.cqEn q = false) ∧
    (∀ width speed : Nat, s.held = false → s.pcie.perst = false → width ∈ [1, 4, 8] → 1 ≤ speed → speed ≤ 5 →
      exec (.pcieLinkTraining width speed) s = .next { s with pcie := { s.pcie with width := width, speed := speed } }) ∧
    (∀ width speed : Nat, s.held = false → s.standalone = true → s.fget .rpCtl 31 31 = 1 → width ∈ [1, 2, 4] →
      1 ≤ speed → speed ≤ 4 →
      exec (.rootPortLinkTraining width speed) s =
        .next { s with pcie := { s.pcie with rpWidth := width, rpSpeed := speed } }))

/-- R286, R289, R290, R292, R299: after any signals every fence holds the greatest of its value and the values signalled
to it; a signal no greater than the fence is counted out of order; a FWAIT that a signal satisfies lets its engine go
on. A port's signal reaches its fence while EXT is set and sets ERR otherwise, and its attribute write sets EXT. A
fence range is taken while its context is free, within the 131,072 fences and apart from the other ranges, and sets
ERR or is ignored otherwise. -/
def Obligations.FenceSignals : Prop :=
  ∀ s : State,
    (∀ sigs : List (Fin 131072 × W64), ∃ t, exec (.fenceSignal sigs) s = .next t ∧ t.mem = s.mem ∧ ∀ f : Nat,
      (s.fence f).val.toNat ≤ (t.fence f).val.toNat ∧
      (∀ p ∈ sigs, p.1.val = f → p.2.toNat ≤ (t.fence f).val.toNat) ∧
      ((t.fence f).val = (s.fence f).val ∨ ∃ p ∈ sigs, p.1.val = f ∧ (t.fence f).val = p.2)) ∧
    (∀ (f : Fin 131072) (v : W64), (∀ w ∈ s.waits, w.fence = f.val → (s.fence f.val).val.toNat < w.target ∧ v.toNat < w.target) →
      ∃ t, exec (.fenceSignal [(f, v)]) s = .next t ∧ t = { s with fences := t.fences, regs := t.regs } ∧
        s.regsBut t [.fenceOooTotal] ∧ (∀ d, d ≠ f.val → t.fence d = s.fence d) ∧
        if (s.fence f.val).val.toNat < v.toNat then
          t.fence f.val = { s.fence f.val with val := v } ∧ t.rget .fenceOooTotal = s.rget .fenceOooTotal
        else
          t.fence f.val = { s.fence f.val with ooo := min ((s.fence f.val).ooo + 1) 65535 } ∧
            t.rget .fenceOooTotal = (s.rget .fenceOooTotal + 1) % 2 ^ 64) ∧
    (∀ (f : Fin 131072) (a b : W64), s.waits = [] → (s.fence f.val).val.toNat < b.toNat → b.toNat < a.toNat →
      ∃ t, exec (.fenceSignal [(f, a), (f, b)]) s = .next t ∧ t = { s with fences := t.fences } ∧
        t.fence f.val = { s.fence f.val with val := a } ∧ ∀ d, d ≠ f.val → t.fence d = s.fence d) ∧
    (∀ (f : Fin 131072) (v : W64) (w : WaitReg) (k : TaskId) (e : Nat), s.waits = [w] → w.kind = .fwait → w.fence = f.val →
      w.task = some k → s.engOfTask k = some e → (s.eng e).run = .waitFence → (s.fence f.val).val.toNat < w.target →
      w.target ≤ v.toNat →
      ∃ t, exec (.fenceSignal [(f, v)]) s = .next t ∧ t = { s with fences := t.fences, waits := [], engines := t.engines } ∧
        t.fence f.val = { s.fence f.val with val := v } ∧ t.eng e = { s.eng e with run := .issuing } ∧
        ∀ d, d ≠ e → t.eng d = s.eng d) ∧
    (∀ (w : World) (p : Fin 64) (v : W64) (f : Nat), s.admits w (.fencePortSigR p.val) true → s.portFence p.val = some f →
      s.waits = [] → (s.fence f).ext = true → (s.fence f).val.toNat < v.toNat →
      ∃ t, exec (.fencePortSig w p v) s = .next t ∧ t = { s with fences := t.fences } ∧
        t.fence f = { s.fence f with val := v } ∧ ∀ d, d ≠ f → t.fence d = s.fence d) ∧
    (∀ (w : World) (p : Fin 64) (v : W64), s.admits w (.fencePortSigR p.val) true →
      (∀ f, s.portFence p.val = some f → (s.fence f).ext = false) →
      ∃ t, exec (.fencePortSig w p v) s = .next t ∧ s.onlyRegs t [.fencePortAttrR p.val] ∧
        t.fget (.fencePortAttrR p.val) 63 63 = 1) ∧
    (∀ (w : World) (p : Fin 64) (v : W64) (f : Nat), s.admits w (.fencePortAttrR p.val) true → s.portFence p.val = some f →
      ∃ t, exec (.fencePortAttr w p v) s = .next t ∧ t = { s with fences := t.fences, regs := t.regs } ∧
        s.regsBut t [.fencePortAttrR p.val] ∧ t.fence f = { s.fence f with ext := decide (v.toNat % 2 = 1) } ∧
        (∀ d, d ≠ f → t.fence d = s.fence d) ∧
        t.fget (.fencePortAttrR p.val) 63 63 = if v.toNat / 2 ^ 63 = 1 then 0 else s.fget (.fencePortAttrR p.val) 63 63) ∧
    (∀ (w : World) (p : Fin 64) (v : W64), s.admits w (.fencePortAttrR p.val) true → s.portFence p.val = none →
      ∃ t, exec (.fencePortAttr w p v) s = .next t ∧ s.onlyRegs t [.fencePortAttrR p.val] ∧
        t.fget (.fencePortAttrR p.val) 63 63 = 1) ∧
    (∀ (w : World) (c : Fin 256) (v : W64) (base n : Nat), s.admits w (.fenceCtxRangeR c.val) true →
      base = bits v.toNat 16 0 → n = bits v.toNat 49 32 →
      (s.ctxSt c.val = 0 → base + n ≤ 131072 → s.rangeOverlaps c.val base n = false →
        ∃ t, exec (.fenceCtxRange w c v) s = .next t ∧ s.onlyRegs t [.fenceCtxRangeR c.val] ∧
          t.fget (.fenceCtxRangeR c.val) 16 0 = base ∧ t.fget (.fenceCtxRangeR c.val) 49 32 = n) ∧
      (s.ctxSt c.val = 0 → 131072 < base + n ∨ s.rangeOverlaps c.val base n = true →
        ∃ t, exec (.fenceCtxRange w c v) s = .next t ∧ s.onlyRegs t [.fenceCtxRangeR c.val] ∧
          t.fget (.fenceCtxRangeR c.val) 63 63 = 1 ∧
          t.fget (.fenceCtxRangeR c.val) 16 0 = s.fget (.fenceCtxRangeR c.val) 16 0 ∧
          t.fget (.fenceCtxRangeR c.val) 49 32 = s.fget (.fenceCtxRangeR c.val) 49 32) ∧
      (s.ctxSt c.val ≠ 0 → v.toNat / 2 ^ 63 = 0 → exec (.fenceCtxRange w c v) s = .next s) ∧
      (s.ctxSt c.val ≠ 0 → v.toNat / 2 ^ 63 = 1 →
        ∃ t, exec (.fenceCtxRange w c v) s = .next t ∧ s.onlyRegs t [.fenceCtxRangeR c.val] ∧
          t.fget (.fenceCtxRangeR c.val) 63 63 = 0 ∧
          t.fget (.fenceCtxRangeR c.val) 16 0 = s.fget (.fenceCtxRangeR c.val) 16 0 ∧
          t.fget (.fenceCtxRangeR c.val) 49 32 = s.fget (.fenceCtxRangeR c.val) 49 32))

/-- R294, R296 to R298: an FWAIT or a pre-wait whose deadline has passed ends ST_WAIT_TIMEOUT, a wait without a deadline
or with time left stands. A request is recorded while EN is 1 once the wait's age has reached a further multiple of
INTERVAL, and the wait is marked as looked at in any case. A probe starts, counts and judges; it judges only an
unsatisfied wait on a fence that some task declares and that neither EXT nor a ring signals. Its verdict ends an FWAIT
that still stands unsatisfied with ST_DEADLOCK, and is counted as dropped otherwise. -/
def Obligations.WaitsAndProbe : Prop :=
  ∀ s : State,
    (∀ (k : TaskId) (w : WaitReg), s.waitOf k = some w → (∀ d, w.deadline = some d → s.now < d) →
      exec (.waitDeadline k) s = .next s) ∧
    (∀ (k : TaskId) (w : WaitReg) (d e : Nat), s.waitOf k = some w → w.deadline = some d → d ≤ s.now → w.kind = .fwait →
      s.engOfTask k = some e →
      ∃ t, exec (.waitDeadline k) s = .next t ∧ (t.eng e).run = .ending ∧ (t.eng e).faulted = true ∧
        (t.eng e).flt.status = 0x50 ∧ (t.eng e).flt.pc = (s.eng e).ctl.pc ∧ t.mem = s.mem ∧ w ∉ t.waits ∧
        ∀ f, f ≠ e → t.eng f = s.eng f) ∧
    (∀ (k : TaskId) (w : WaitReg) (d : Nat) (c : Cmd), s.waitOf k = some w → w.deadline = some d → d ≤ s.now → w.kind = .pre →
      s.cmd? k.sq k.seq = some c → ∃ t, exec (.waitDeadline k) s = .next t ∧ s.completes t c 0x50 0 ∧ w ∉ t.waits) ∧
    (∀ k : TaskId, s.waitOf k = none →
      exec (.waitDeadline k) s = .next s ∧ exec (.deadlockProbeRequest k) s = .next s) ∧
    (∀ (k : TaskId) (w : WaitReg), s.waitOf k = some w →
      ∃ t, exec (.deadlockProbeRequest k) s = .next t ∧ t = { s with probe := t.probe } ∧
        t.probe = { s.probe with
          asked := t.probe.asked
          further := s.probe.further || decide (s.fget .fenceProbeCtl 31 31 = 1 ∧
            s.probe.askedAt w / s.probeInterval < s.waitAge w / s.probeInterval) } ∧
        t.probe.askedAt w = s.waitAge w) ∧
    (s.probe.busy = false → s.probe.further = true → s.fget .fenceProbeCtl 31 31 = 1 →
      ∃ t, exec .deadlockProbe s = .next t ∧ t = { s with probe := t.probe, regs := t.regs } ∧
        t.probe = { s.probe with busy := true, further := false, verdict := s.probeVerdict } ∧ s.regsBut t [.fenceProbes] ∧
        t.rget .fenceProbes = (s.rget .fenceProbes + 1) % 2 ^ 64) ∧
    ((s.probe.busy = true ∨ s.probe.further = false ∨ s.fget .fenceProbeCtl 31 31 = 0) → exec .deadlockProbe s = .next s) ∧
    (s.probe.busy = false → exec .deadlockVerdict s = .next s) ∧
    (∀ w : WaitReg, s.probeVerdict = some w → (∀ a ∈ s.waits, ∀ b ∈ s.waits, ∀ k, a.heldBy k = true → b.heldBy k = true → a = b) →
      w ∈ s.waits ∧ (s.fence w.fence).val.toNat < w.target ∧ (s.fence w.fence).ext = false ∧
        s.ringSignalled w.fence = false ∧ ∃ k ∈ s.tasks, s.taskDeclares k w.fence = true) ∧
    (s.probe.busy = true → s.probe.verdict = none →
      exec .deadlockVerdict s = .next { s with probe := { s.probe with busy := false, verdict := none } }) ∧
    (∀ w : WaitReg, s.probe.busy = true → s.probe.verdict = some w → w ∉ s.waits →
      ∃ t, exec .deadlockVerdict s = .next t ∧ t = { s with probe := t.probe, regs := t.regs } ∧ t.probe.busy = false ∧
        s.regsBut t [.fenceDropped] ∧ t.rget .fenceDropped = (s.rget .fenceDropped + 1) % 2 ^ 64) ∧
    (∀ w : WaitReg, s.probe.busy = true → s.probe.verdict = some w → w ∈ s.waits → w.target ≤ (s.fence w.fence).val.toNat →
      ∃ t, exec .deadlockVerdict s = .next t ∧ t.probe.busy = false ∧ w ∉ t.waits ∧ s.regsBut t [.fenceDropped] ∧
        t.rget .fenceDropped = (s.rget .fenceDropped + 1) % 2 ^ 64 ∧ t.mem = s.mem ∧ t.commitQ = s.commitQ) ∧
    (∀ (w : WaitReg) (k : TaskId) (e : Nat), s.probe.busy = true → s.probe.verdict = some w → w ∈ s.waits →
      (s.fence w.fence).val.toNat < w.target → w.kind = .fwait → w.task = some k → s.engOfTask k = some e →
      ∃ t, exec .deadlockVerdict s = .next t ∧ t.probe.busy = false ∧ (t.eng e).run = .ending ∧ (t.eng e).flt.status = 0x51 ∧
        w ∉ t.waits ∧ t.rget .fenceDeadlocks = (s.rget .fenceDeadlocks + 1) % 2 ^ 64 ∧ t.mem = s.mem)

/-- R300 to R303: a channel is enabled with different endpoints, the sender's push appends to it, the receiver's pop takes
the oldest value, a full or empty channel sets its flag, and any other endpoint is counted; a push towards a receiver
held in reset is lost and counted, one towards the application cores while PD_HC is off asks for it (R27); a Gallery
access to a Studio channel is refused and counted. -/
def Obligations.Mailboxes : Prop :=
  ∀ (s : State) (w : World) (ep : Endpoint) (k : Fin 24),
    ((16 ≤ k.val ∧ w = .gallery) → ∀ v : W64, ∃ t, exec (.mbxPush w ep k v) s = .next t ∧ s.onlyRegs t [.secViol, .secVlog] ∧
      t.rget .secViol = (s.rget .secViol + 1) % 2 ^ 64) ∧
    ((16 ≤ k.val ∧ w = .gallery) → ∀ v : W64, ∃ t, exec (.mbxEnable w k v) s = .next t ∧ s.onlyRegs t [.secViol, .secVlog] ∧
      t.rget .secViol = (s.rget .secViol + 1) % 2 ^ 64) ∧
    ((16 ≤ k.val ∧ w = .gallery) → ∃ t, exec (.mbxPop w ep k) s = .next t ∧ t = { s with regs := t.regs, resp := t.resp } ∧
      s.regsBut t [.secViol, .secVlog] ∧ t.rget .secViol = (s.rget .secViol + 1) % 2 ^ 64 ∧
      t.resp = { ok := true, status := 0, data := leBytes 8 0 }) ∧
    ((16 ≤ k.val → w = .studio) →
      (∀ v : W64, s.mbxEn k.val = true → s.mbxSender k.val = some ep → (s.mbxReceiver k.val).any s.epReset = false →
        (s.slots k.val).length < 8 → s.fget (.mbxCfg k.val) 62 62 = 0 ∨ s.slots k.val ≠ [] →
        ∃ t, exec (.mbxPush w ep k v) s = .next t ∧ t = { s with mbx := t.mbx, pmc := t.pmc } ∧
          t.pmc = { s.pmc with mail := decide (s.mbxReceiver k.val = some .hc ∧ s.pmc.pdHc = false) || s.pmc.mail } ∧
          t.slots k.val = s.slots k.val ++ [v] ∧ ∀ j, j ≠ k.val → t.slots j = s.slots j) ∧
      (∀ v : W64, s.mbxEn k.val = true → s.mbxSender k.val = some ep → s.mbxReceiver k.val = some .sec →
        s.slots k.val = [] → s.fget (.mbxCfg k.val) 62 62 = 1 →
        ∃ t, exec (.mbxPush w ep k v) s = .next t ∧ t = { s with mbx := t.mbx, irqs := s.irqs ++ [.internal .sec] } ∧
          t.slots k.val = [v]) ∧
      (∀ v : W64, s.mbxEn k.val = true → s.mbxSender k.val = some ep → (s.mbxReceiver k.val).any s.epReset = false →
        8 ≤ (s.slots k.val).length →
        ∃ t, exec (.mbxPush w ep k v) s = .next t ∧ s.onlyRegs t [.mbxStat k.val] ∧ t.fget (.mbxStat k.val) 2 2 = 1) ∧
      (∀ v : W64, s.mbxEn k.val = true → s.mbxSender k.val = some ep → (s.mbxReceiver k.val).any s.epReset = true →
        ∃ t, exec (.mbxPush w ep k v) s = .next t ∧ s.onlyRegs t [.mbxStat k.val, .mbxLost k.val] ∧
          t.fget (.mbxStat k.val) 3 3 = 1 ∧ t.rget (.mbxLost k.val) = (s.rget (.mbxLost k.val) + 1) % 2 ^ 64) ∧
      (∀ v : W64, s.mbxEn k.val = false ∨ s.mbxSender k.val ≠ some ep →
        ∃ t, exec (.mbxPush w ep k v) s = .next t ∧ s.onlyRegs t [.mbxBadsrc k.val] ∧
          t.rget (.mbxBadsrc k.val) = (s.rget (.mbxBadsrc k.val) + 1) % 2 ^ 64) ∧
      (∀ (v : W64) (l : List W64), s.mbxEn k.val = true → s.mbxReceiver k.val = some ep → s.slots k.val = v :: l →
        s.fget (.mbxCfg k.val) 61 61 = 0 ∨ l ≠ [] →
        ∃ t, exec (.mbxPop w ep k) s = .next t ∧ t = { s with mbx := t.mbx, resp := t.resp } ∧ t.slots k.val = l ∧
          t.resp = { ok := true, status := 0, data := leBytes 8 v.toNat } ∧ ∀ j, j ≠ k.val → t.slots j = s.slots j) ∧
      (s.mbxEn k.val = true → s.mbxReceiver k.val = some ep → s.slots k.val = [] →
        ∃ t, exec (.mbxPop w ep k) s = .next t ∧ t = { s with regs := t.regs, resp := t.resp } ∧
          s.regsBut t [.mbxStat k.val] ∧ t.fget (.mbxStat k.val) 1 1 = 1 ∧
          t.resp = { ok := true, status := 0, data := leBytes 8 0 }) ∧
      (s.mbxEn k.val = false ∨ s.mbxReceiver k.val ≠ some ep →
        ∃ t, exec (.mbxPop w ep k) s = .next t ∧ t = { s with regs := t.regs, resp := t.resp } ∧
          s.regsBut t [.mbxBadsrc k.val] ∧ t.rget (.mbxBadsrc k.val) = (s.rget (.mbxBadsrc k.val) + 1) % 2 ^ 64 ∧
          t.resp = { ok := true, status := 0, data := leBytes 8 0 }) ∧
      (∀ (v : W64) (a b : Endpoint), s.mbxEn k.val = false → bits v.toNat 63 63 = 1 → epOf (bits v.toNat 59 56) = some a →
        epOf (bits v.toNat 55 52) = some b →
        ∃ t, exec (.mbxEnable w k v) s = .next t ∧ s.onlyRegs t [.mbxCfg k.val, .mbxStat k.val] ∧
          t.mbxSender k.val = some a ∧ t.mbxReceiver k.val = some b ∧
          t.fget (.mbxCfg k.val) 62 61 = bits v.toNat 62 61 ∧ t.fget (.mbxCfg k.val) 42 32 = bits v.toNat 42 32 ∧
          t.fget (.mbxCfg k.val) 10 0 = bits v.toNat 10 0 ∧
          if a ≠ b ∧ (16 ≤ k.val → a ≠ .host ∧ b ≠ .host) then
            t.mbxEn k.val = true ∧ t.rget (.mbxStat k.val) = s.rget (.mbxStat k.val)
          else t.mbxEn k.val = false ∧ t.fget (.mbxStat k.val) 4 4 = 1) ∧
      (∀ v : W64, s.mbxEn k.val = true →
        ∃ t, exec (.mbxEnable w k v) s = .next t ∧ s.onlyRegs t [.mbxCfg k.val] ∧
          (bits v.toNat 63 63 = 1 → t = s) ∧ (bits v.toNat 63 63 = 0 → t.mbxEn k.val = false)))

/-- R207, R209, R210, R214, R215: a write of SDMA_CH_ARM arms or latches a list or is answered busy, or is rejected while
EN is 0. While four or fewer descriptors are left, a burst of up to 16 that its read delivers joins the list's buffer;
otherwise nothing is read; a burst that fails ends the list, ST_OK not being its status, only when no descriptor
before it is left to execute or to cut. NOP without a signal and LINK without a signal go on behind the head, a NOP
that is LAST ends its channel's list with ST_OK and the latched one starts, a NOP whose WAIT does not hold registers
the wait, and an invalid head ends its channel's list with ST_REJECTED 0x0019. How many descriptors a burst reads and
when is the model's choice (log entry 8). -/
def Obligations.StreamLists : Prop :=
  ∀ s : State,
    (∀ (w : World) (c : Fin 16) (v : W64) (r : ListRun) (d : Sdma), s.admits w (.sdmaArmR c.val) true →
      s.fget (.sdmaCfg c.val) 0 0 = 1 → r = newRun (s.fget (.sdmaCfg c.val) 27 16) (bits v.toNat 47 6 * 64) none [] →
      d = mget (fun _ => ({} : Sdma)) s.sdmas c.val →
      ∃ t, exec (.sdmaChArm w c v) s = .next t ∧ t = { s with sdmas := t.sdmas } ∧
        (∀ j, j ≠ c.val → mget (fun _ => ({} : Sdma)) t.sdmas j = mget (fun _ => ({} : Sdma)) s.sdmas j) ∧
        mget (fun _ => ({} : Sdma)) t.sdmas c.val =
          if d.cur = none then { d with cur := some r, lastIdx := 0, lastFail := 0, armRes := 0 }
          else if d.latched = none then { d with latched := some r, armRes := 0 } else { d with armRes := 0x60 }) ∧
    (∀ (w : World) (c : Fin 16) (v : W64), s.admits w (.sdmaArmR c.val) true → s.fget (.sdmaCfg c.val) 0 0 = 0 →
      ∃ t, exec (.sdmaChArm w c v) s = .next t ∧ t = { s with sdmas := t.sdmas } ∧
        mget (fun _ => ({} : Sdma)) t.sdmas c.val = { mget (fun _ => ({} : Sdma)) s.sdmas c.val with armRes := 0x10 }) ∧
    (∀ (k : Consumer) (r : ListRun) (n : Nat) (b : List Byte) (u : State), s.runOf k = some r → r.stopped = false →
      r.buf.length ≤ 4 → n = min 16 ((65536 - r.next % 65536) / 64) → s.burstRead k r n = (.ok b, u) →
      ∃ t, exec (.descriptorBurstRead k) s = .next t ∧ t = { u with sdmas := t.sdmas, engines := t.engines } ∧
        t.runOf k = some { r with
          next := r.next + 64 * n, buf := r.buf ++ (cutBurst n b).1, stopped := (cutBurst n b).2
          first := some (r.first.getD (descPrio b)) } ∧
        ∀ j, j ≠ k → t.runOf j = u.runOf j) ∧
    (∀ (k : Consumer), (∀ r, s.runOf k = some r → r.stopped = true ∨ 4 < r.buf.length) →
      exec (.descriptorBurstRead k) s = .next s) ∧
    (∀ (k : Consumer) (r : ListRun) (n : Nat) (a : AccErr) (u : State), s.runOf k = some r → r.stopped = false →
      r.buf.length ≤ 4 → n = min 16 ((65536 - r.next % 65536) / 64) → s.burstRead k r n = (.error a, u) →
      (r.buf ≠ [] ∨ u.cutting k = true → exec (.descriptorBurstRead k) s = .next u) ∧
      (∀ c : Fin 16, k = .sdma c → r.buf = [] → a.st ≠ 0 →
        ∃ t, exec (.descriptorBurstRead k) s = .next t ∧
          (mget (fun _ => ({} : Sdma)) t.sdmas c.val).last = a.st ∧
          (mget (fun _ => ({} : Sdma)) t.sdmas c.val).cur = (mget (fun _ => ({} : Sdma)) u.sdmas c.val).latched)) ∧
    (∀ (k : Consumer) (r : ListRun) (b : List Byte) (l : List (List Byte)), s.runOf k = some r → r.buf = b :: l →
      s.cutting k = false → descInvalid k b = false → (parseDesc b).wait = false → (parseDesc b).signal = false →
      ((parseDesc b).op = 6 → (parseDesc b).last = false →
        ∃ t, exec (.descNop k) s = .next t ∧ t = { s with sdmas := t.sdmas, engines := t.engines } ∧
          t.runOf k = some { r with buf := l, idx := r.idx + 1 }) ∧
      ((parseDesc b).op = 5 →
        ∃ t, exec (.link k) s = .next t ∧ t = { s with sdmas := t.sdmas, engines := t.engines } ∧
          t.runOf k = some { r with next := (parseDesc b).src, buf := [], stopped := false, idx := r.idx + 1 })) ∧
    (∀ (c : Fin 16) (r : ListRun) (b : List Byte) (l : List (List Byte)) (d : Sdma),
      d = mget (fun _ => ({} : Sdma)) s.sdmas c.val → d.cur = some r → r.buf = b :: l →
      descInvalid (.sdma c) b = false → (parseDesc b).wait = false → (parseDesc b).signal = false → (parseDesc b).op = 6 →
      (parseDesc b).last = true → r.failmask = 0 → s.waits = [] →
      ∃ t, exec (.descNop (.sdma c)) s = .next t ∧
        mget (fun _ => ({} : Sdma)) t.sdmas c.val =
          { d with cur := d.latched, latched := none, last := 0, lastIdx := r.idx, lastFail := 0 } ∧
        (r.owner = none → t = { s with sdmas := t.sdmas }) ∧
        ∀ (k : TaskId) (q : Cmd), r.owner = some k → s.cmd? k.sq k.seq = some q → s.completes t q 0 0) ∧
    (∀ (k : Consumer) (r : ListRun) (b : List Byte) (l : List (List Byte)) (f : Nat), s.runOf k = some r → r.buf = b :: l →
      s.cutting k = false → descInvalid k b = false → (parseDesc b).op = 6 → (parseDesc b).wait = true →
      (parseDesc b).signal = false → s.orphanedFor r f = false →
      s.fenceMap r.ctx (parseDesc b).wfence = some f → (s.fence f).val.toNat < (parseDesc b).wvalue → s.waits = [] →
      ∃ t w, exec (.descNop k) s = .next t ∧ t = { s with waits := [w] } ∧ w.kind = .desc k ∧ w.fence = f ∧
        w.target = (parseDesc b).wvalue ∧ w.deadline = none ∧ w.task = r.owner) ∧
    (∀ (c : Fin 16) (r : ListRun) (b : List Byte) (l : List (List Byte)) (i : Instr),
      (i = .copy c ∨ i = .fill c ∨ i = .mcast c ∨ i = .link (.sdma c) ∨ i = .descNop (.sdma c)) →
      (mget (fun _ => ({} : Sdma)) s.sdmas c.val).cur = some r → r.buf = b :: l → descInvalid (.sdma c) b = true →
      ∃ t, exec i s = .next t ∧ (mget (fun _ => ({} : Sdma)) t.sdmas c.val).last = 0x10 ∧ t.mem = s.mem ∧
        ∀ (k : TaskId) (q : Cmd), r.owner = some k → s.cmd? k.sq k.seq = some q → s.completes t q 0x10 0x19)

/-- R207, R208, R213: where every row translates and is admitted and no word is in error, COPY moves the bytes of its
rows, FILL repeats its pattern along each row, and MCAST writes its rows into the slice of every target; no other byte
of memory changes. Rows of COPY and FILL in DDR5 pass through the SLC, whose demands may train its trackers. The rows
do not overlap each other, nor do the sources and destinations of a COPY or, in any target, of an MCAST; what they
leave where they do is open (log entry 52). -/
def Obligations.Transfers : Prop :=
  ∀ (s : State) (c : Fin 16) (r : ListRun) (b : List Byte) (l : List (List Byte)) (d : Desc),
    (mget (fun _ => ({} : Sdma)) s.sdmas c.val).cur = some r → r.buf = b :: l → descInvalid (.sdma c) b = false →
    d = parseDesc b → d.wait = false → d.signal = false → d.last = false → s.eccClean = true → 1 ≤ d.rowlen →
    ∀ sp dp : Nat → List (Nat × Nat),
    (∀ i, i < d.rows → s.xlatRange r.ctx (d.dst + i * d.dpitch) d.rowlen true = .ok (dp i) ∧ (pieceAddrs (dp i)).Nodup ∧
      ∀ p ∈ dp i, s.linkDown p.1 = false) →
    (∀ i j, i < d.rows → j < d.rows → i ≠ j → ∀ x ∈ pieceAddrs (dp i), x ∉ pieceAddrs (dp j)) →
    (d.op = 1 →
      (∀ i, i < d.rows → s.xlatRange r.ctx (d.src + i * d.spitch) d.rowlen false = .ok (sp i) ∧
        s.piecesCheck .gallery false false (sp i) = (none, s) ∧ s.piecesCheck .gallery false true (dp i) = (none, s)) →
      (∀ i j, i < d.rows → j < d.rows → ∀ x ∈ pieceAddrs (dp i), x ∉ pieceAddrs (sp j)) →
      ∃ t, exec (.copy c) s = .next t ∧
        t = { s with mem := t.mem, regs := t.regs, sdmas := t.sdmas, slc := t.slc, ddr := t.ddr } ∧
        (∀ i, i < d.rows → (pieceAddrs (dp i)).map t.byte = (pieceAddrs (sp i)).map s.byte) ∧
        (∀ x, (∀ i, i < d.rows → x ∉ pieceAddrs (dp i)) → t.byte x = s.byte x) ∧
        s.regsBut t [.sdmaBytes c.val, .gsPf 0, .gsPf 1, .gsPf 2] ∧
        t.rget (.sdmaBytes c.val) = (s.rget (.sdmaBytes c.val) + d.rows * d.rowlen) % 2 ^ 64 ∧
        t.runOf (.sdma c) = some { r with buf := l, idx := r.idx + 1 } ∧
        ((∀ i, i < d.rows → (∀ p ∈ sp i, inDdr p.1 = false) ∧ ∀ p ∈ dp i, inDdr p.1 = false) →
          t.slc = s.slc ∧ t.ddr = s.ddr ∧ s.regsBut t [.sdmaBytes c.val])) ∧
    (d.op = 3 →
      (∀ i, i < d.rows → s.piecesCheck .gallery false true (dp i) = (none, s)) →
      ∃ t, exec (.fill c) s = .next t ∧ t = { s with mem := t.mem, regs := t.regs, sdmas := t.sdmas, slc := t.slc } ∧
        (∀ i, i < d.rows → (pieceAddrs (dp i)).map t.byte =
          (List.range d.rowlen).map fun j => BitVec.ofNat 8 (d.src / 2 ^ (8 * (j % 8)))) ∧
        (∀ x, (∀ i, i < d.rows → x ∉ pieceAddrs (dp i)) → t.byte x = s.byte x) ∧
        s.regsBut t [.sdmaBytes c.val] ∧
        t.rget (.sdmaBytes c.val) = (s.rget (.sdmaBytes c.val) + d.rows * d.rowlen) % 2 ^ 64 ∧
        t.runOf (.sdma c) = some { r with buf := l, idx := r.idx + 1 } ∧
        ((∀ i, i < d.rows → ∀ p ∈ dp i, inDdr p.1 = false) → t.slc = s.slc)) ∧
    (∀ e : Nat, d.op = 2 → (maskList d.engs).head? = some e →
      (∀ i, i < d.rows → s.xlatRange r.ctx (d.src + i * d.spitch) d.rowlen false = .ok (sp i) ∧
        s.piecesCheck .gallery false false (sp i) = (none, s) ∧
        ∀ p ∈ dp i, sliceBase e ≤ p.1 ∧ p.1 + p.2 ≤ sliceBase e + sliceSize) →
      (∀ f ∈ maskList d.engs, ∀ i, i < d.rows →
        s.piecesCheck .gallery false true ((dp i).map fun p => (p.1 - sliceBase e + sliceBase f, p.2)) = (none, s)) →
      (∀ f ∈ maskList d.engs, ∀ i j, i < d.rows → j < d.rows → ∀ y ∈ pieceAddrs (dp i),
        y - sliceBase e + sliceBase f ∉ pieceAddrs (sp j)) →
      ∃ t, exec (.mcast c) s = .next t ∧
        t = { s with mem := t.mem, regs := t.regs, sdmas := t.sdmas, slc := t.slc, ddr := t.ddr } ∧
        (∀ f ∈ maskList d.engs, ∀ i, i < d.rows →
          (pieceAddrs (dp i)).map (fun x => t.byte (x - sliceBase e + sliceBase f)) = (pieceAddrs (sp i)).map s.byte) ∧
        (∀ x, (∀ f ∈ maskList d.engs, ∀ i, i < d.rows → ∀ y ∈ pieceAddrs (dp i), x ≠ y - sliceBase e + sliceBase f) →
          t.byte x = s.byte x) ∧
        s.regsBut t [.sdmaBytes c.val, .gsPf 0, .gsPf 1, .gsPf 2] ∧
        t.rget (.sdmaBytes c.val) =
          (s.rget (.sdmaBytes c.val) + d.rows * d.rowlen * (maskList d.engs).length) % 2 ^ 64 ∧
        t.runOf (.sdma c) = some { r with buf := l, idx := r.idx + 1 } ∧
        ((∀ i, i < d.rows → ∀ p ∈ sp i, inDdr p.1 = false) →
          t.slc = s.slc ∧ t.ddr = s.ddr ∧ s.regsBut t [.sdmaBytes c.val]))

/-- R216 to R223: FETCH without WAIT and SIGNAL hands its segments to the queue. The next queue in round robin that has
data and a credit begins an entry while fewer than 128 reads are outstanding, its reads of 1 to 256 bytes are issued
as that limit allows, and reads not yet issued follow in order. The oldest read in flight fills its entry, which
becomes READY with its last read, padded with zeros, and gives its signal; a failed read makes the entry FAILED and
stops the queue; the last read of a DROPPING entry returns its credit. A cancel of a queue without reads in flight
empties it and counts the source bytes not popped, and a read of NE_FQ_CRGRANT answers the credits granted and latches
the others. The order in which queues begin and issue is the model's choice (log entry 72). -/
def Obligations.FetchQueues : Prop :=
  ∀ (s : State) (ne : Fin 6) (q : Fin 8) (f : FetchQ), f = (s.eng ne.val).fq q.val →
    (∀ (r : ListRun) (b : List Byte) (l : List (List Byte)) (d : Desc), f.run = some r → r.buf = b :: l → f.cur = none →
      descInvalid (.fetch ne q) b = false → d = parseDesc b → d.op = 4 → d.wait = false → d.signal = false → 1 ≤ d.rows →
      1 ≤ d.rowlen →
      ∃ t g, exec (.fetch ne q) s = .next t ∧ s.onlyEngine t ne.val ∧ t.eng ne.val = { s.eng ne.val with fqs := g } ∧
        (t.eng ne.val).fq q.val = { f with
          run := some { r with buf := l, idx := r.idx + 1 }
          cur := some ⟨(List.range d.rows).map fun i => (d.src + i * d.spitch, d.rowlen), d.last, none, d.prio, r.idx⟩ } ∧
        ∀ j, j ≠ q.val → (t.eng ne.val).fq j = (s.eng ne.val).fq j) ∧
    (∀ (reads rest : List (Nat × Nat)) (c : CurFetch) (x : FqEnt), (s.eng ne.val).fqRr = q.val →
      (s.eng ne.val).beginOf q.val = some (reads, rest, c) → (s.eng ne.val).readsOut < 128 → (∀ g ∈ c.segs, 1 ≤ g.2) →
      x = { st := .filling, data := [], src := [], nsrc := 0, stat := 0, sub := 0, det := 0, prio := c.prio, todo := reads
            desc := c.desc, sig := if rest = [] then c.sig else none } →
      ∃ t y, exec (.fetchEntryBegin ne) s = .next t ∧ s.onlyEngine t ne.val ∧ t.eng ne.val = Engine.issueReads y ∧
        y = { s.eng ne.val with fqRr := (q.val + 1) % 8, fqs := y.fqs } ∧
        y.fq q.val = { f with
          granted := f.granted + 1
          ents := f.ents ++ [x]
          cur := if rest = [] then none else some { c with segs := rest }
          run := if rest = [] ∧ c.last = true then none else f.run
          state := if rest = [] ∧ c.last = true ∧ f.state = 1 then 5 else f.state } ∧
        (∀ j, j ≠ q.val → y.fq j = (s.eng ne.val).fq j) ∧
        f.ents.length < f.entries ∧ (reads.map (·.2)).sum ≤ 64 * 2 ^ f.esz ∧ (∀ p ∈ reads, 1 ≤ p.2 ∧ p.2 ≤ 256) ∧
        ((s.eng ne.val).fqs = [(q.val, f)] → (∀ g ∈ f.ents, g.todo = []) →
          ((t.eng ne.val).fq q.val).ents = f.ents ++ [x.issue (128 - (s.eng ne.val).readsOut)])) ∧
    (128 ≤ (s.eng ne.val).readsOut ∨ (∀ j, j < 8 → (s.eng ne.val).canBegin j = false) →
      exec (.fetchEntryBegin ne) s = .next s) ∧
    (∀ (x : Engine) (j : Nat), (x.issueReads.fq j).ents.map (fun c => c.src ++ c.todo) =
      (x.fq j).ents.map (fun c => c.src ++ c.todo)) ∧
    (∀ (x : FqEnt) (k l : List FqEnt) (va n : Nat) (rest : List (Nat × Nat)) (b : List Byte) (u : State),
      f.ents = k ++ x :: l → (∀ y ∈ k, y.src = []) → x.src = (va, n) :: rest → x.st = .filling →
      s.vread .gallery (s.eng ne.val).ctx va n = (.ok b, u) → u.engines = s.engines →
      (∀ j v, (s.eng ne.val).run ≠ .waitFq j v) →
      (rest ≠ [] ∨ x.todo ≠ [] →
        ∃ t y, exec (.fetchReadComplete ne q) s = .next t ∧ u.onlyEngine t ne.val ∧ t.eng ne.val = Engine.issueReads y ∧
          y = { s.eng ne.val with fqs := y.fqs } ∧ (∀ j, j ≠ q.val → y.fq j = (s.eng ne.val).fq j) ∧
          y.fq q.val = { f with ents := k ++ { x with src := rest, data := x.data ++ b } :: l }) ∧
      (rest = [] → x.todo = [] → x.sig = none →
        ∃ t y, exec (.fetchReadComplete ne q) s = .next t ∧ u.onlyEngine t ne.val ∧ t.eng ne.val = Engine.issueReads y ∧
          y = { s.eng ne.val with fqs := y.fqs } ∧ (∀ j, j ≠ q.val → y.fq j = (s.eng ne.val).fq j) ∧
          y.fq q.val = { f with ents := k ++ { x with
            st := .ready, src := []
            data := x.data ++ b ++ List.replicate (64 * 2 ^ f.esz - (x.data ++ b).length) 0 } :: l }) ∧
      (∀ (g : Nat) (v : Nat), rest = [] → x.todo = [] → x.sig = some (g, v) → u.waits = [] → (u.fence g).val.toNat < v →
        v < 2 ^ 64 →
        ∃ t, exec (.fetchReadComplete ne q) s = .next t ∧ t = { u with engines := t.engines, fences := t.fences } ∧
          (t.fence g).val.toNat = v)) ∧
    (∀ (x : FqEnt) (k l : List FqEnt) (va n : Nat) (rest : List (Nat × Nat)) (a : AccErr) (u : State),
      f.ents = k ++ x :: l → (∀ y ∈ k, y.src = []) → x.src = (va, n) :: rest → x.st = .filling →
      s.vread .gallery (s.eng ne.val).ctx va n = (.error a, u) → u.engines = s.engines →
      (∀ j v, (s.eng ne.val).run ≠ .waitFq j v) →
      ∃ t y, exec (.fetchReadComplete ne q) s = .next t ∧ u.onlyEngine t ne.val ∧ t.eng ne.val = Engine.issueReads y ∧
        y = { s.eng ne.val with fqs := y.fqs } ∧ (∀ j, j ≠ q.val → y.fq j = (s.eng ne.val).fq j) ∧
        y.fq q.val = { f with
          state := 2, run := none, cur := none
          ents := (k ++ { x with st := .failed, src := [], todo := [], stat := a.st, sub := a.sub, det := a.det } :: l).map
            fun g => if g.desc = x.desc then { g with sig := none } else g }) ∧
    (∀ (x : FqEnt) (k l : List FqEnt) (va n : Nat), f.ents = k ++ x :: l → (∀ y ∈ k, y.src = []) → x.src = [(va, n)] →
      x.st = .dropping →
      ∃ t, exec (.fetchReadComplete ne q) s = .next t ∧ s.onlyEngine t ne.val ∧ (t.eng ne.val).fq q.val = { f with
        ents := k ++ l, ret := f.ret + 1, state := if k ++ l = [] ∧ f.state = 3 then 4 else f.state }) ∧
    ((∀ x ∈ f.ents, x.src = []) → exec (.fetchReadComplete ne q) s = .next s) ∧
    (∀ (w : World), s.admits w (.fqCtl ne.val q.val) true → mfind (s.eng ne.val).fqs q.val = some f →
      f.state = 1 ∨ f.state = 2 ∨ f.state = 5 → (∀ x ∈ f.ents, x.src = []) → (∀ j v, (s.eng ne.val).run ≠ .waitFq j v) →
      ∃ t, exec (.queueCancel w ne q) s = .next t ∧
        t = { s with engines := t.engines, regs := t.regs, waits := t.waits } ∧
        (t.eng ne.val).fq q.val = { f with state := 4, run := none, late := none, ents := [], ret := f.ret + f.ents.length, cur := none } ∧
        s.regsBut t [.fqDiscard ne.val q.val] ∧
        t.rget (.fqDiscard ne.val q.val) = (s.rget (.fqDiscard ne.val q.val) + (f.ents.map (·.nsrc)).sum) % 2 ^ 64 ∧
        ∀ e, e ≠ ne.val → t.eng e = s.eng e) ∧
    (∀ w : World, s.admits w (.fqCrgrant ne.val q.val) false →
      ∃ t, exec (.creditLatchRead w ne q) s = .next t ∧ t = { s with engines := t.engines, resp := t.resp } ∧
        t.resp = { ok := true, status := 0, data := leBytes 8 f.granted } ∧
        (t.eng ne.val).fq q.val = { f with lret := some f.ret, lout := some (f.granted - f.ret) } ∧
        ∀ e, e ≠ ne.val → t.eng e = s.eng e)

/-- R225, R229, R230, R277: an enable of a well-configured ring makes it ENABLED and pins its entries, a disable lets it
drain, and software acquires and releases slots through the port registers, a consumer the next published one, a
producer the next slot when it is free; its release writes the slot's record but for VALID_BYTES, which software
writes itself (log entry 100, read from R354). -/
def Obligations.FrameRings : Prop :=
  ∀ (s : State) (w : World) (r : Fin 64),
    (∀ ps : List Nat, s.admits w (.frCtl r.val) true → (s.ring r.val).state = 0 → 3 ≤ s.ringSlots r.val →
      s.ringSlots r.val ≤ 64 → 1 ≤ s.fget (.frCfg r.val) 63 48 → s.ringPsrcOk r.val = true → s.ringPins r.val = some ps →
      (∀ e j d ro, e < 6 → (s.eng e).run ≠ .waitRing j d ro) →
      ∃ t, exec (.ringEnable w r) s = .next t ∧ t = { s with rings := t.rings, pmt := pinAll s.pmt ps, regs := t.regs } ∧
        t.ring r.val = { state := 1, pins := ps } ∧ (∀ j, j ≠ r.val → t.ring j = s.ring j) ∧ s.regsBut t [.frCtl r.val] ∧
        t.fget (.frCtl r.val) 0 0 = 1) ∧
    (s.admits w (.frCtl r.val) true → (s.ring r.val).state = 2 ∨
      ((s.ring r.val).state = 0 ∧ (s.ringSlots r.val < 3 ∨ 64 < s.ringSlots r.val ∨ s.ringPsrcOk r.val = false)) →
      ∃ t, exec (.ringEnable w r) s = .next t ∧ s.onlyRegs t [.frCtl r.val] ∧ t.fget (.frCtl r.val) 3 3 = 1) ∧
    (s.admits w (.frCtl r.val) true → (s.ring r.val).state = 1 → (s.ring r.val).pub = [] → (s.ring r.val).prod = none →
      ∃ t, exec (.ringDisable w r) s = .next t ∧ t = { s with rings := t.rings, pmt := t.pmt, regs := t.regs } ∧
        (t.ring r.val).state = 0 ∧ (t.ring r.val).pins = [] ∧ t.pmt = unpin s.pmt (s.ring r.val).pins ∧
        s.regsBut t [.frCtl r.val] ∧ t.fget (.frCtl r.val) 0 0 = 0) ∧
    (s.admits w (.frCtl r.val) true → (s.ring r.val).state = 1 → (s.ring r.val).prod ≠ none →
      (s.ring r.val).pub = [] →
      ∃ t, exec (.ringDisable w r) s = .next t ∧ t = { s with rings := t.rings, regs := t.regs } ∧
        (t.ring r.val).state = 2 ∧ (t.ring r.val).prod = (s.ring r.val).prod ∧ t.fget (.frCtl r.val) 0 0 = 0) ∧
    (∀ (role : Role) (port : Fin 8) (x : Ring) (i : Nat), s.admits w (.frPortOp r.val) true → x = s.ring r.val →
      x.state = 1 → 0 < s.ringSlots r.val →
      (role = .producer → s.ringPsrc r.val = 0 → i = x.pseq % s.ringSlots r.val → x.prod = none → x.free i = true →
        ∃ t, exec (.frPortAcquire w r role port) s = .next t ∧ t = { s with rings := t.rings, regs := t.regs } ∧
          t.ring r.val = { x with prod := some ⟨i, .software⟩ } ∧ s.regsBut t [.frPortRes r.val] ∧
          t.rget (.frPortRes r.val) = 65536 + i) ∧
      (role = .consumer → i = x.cseqOf port.val % s.ringSlots r.val → port.val < s.ringCons r.val →
        mfind x.cons port.val = none → x.cseqOf port.val < x.pseq →
        ∃ t, exec (.frPortAcquire w r role port) s = .next t ∧ t = { s with rings := t.rings, regs := t.regs } ∧
          t.ring r.val = { x with cons := minsert port.val ⟨i, .software⟩ x.cons } ∧ s.regsBut t [.frPortRes r.val] ∧
          t.rget (.frPortRes r.val) = 65536 + i) ∧
      (role = .consumer → x.pseq ≤ x.cseqOf port.val ∨ s.ringCons r.val ≤ port.val →
        ∃ t, exec (.frPortAcquire w r role port) s = .next t ∧ s.onlyRegs t [.frPortRes r.val] ∧
          t.fget (.frPortRes r.val) 16 16 = 0)) ∧
    (∀ (port : Fin 8) (x : Ring) (i : Nat), s.admits w (.frPortOp r.val) true → x = s.ring r.val → x.state = 1 →
      mfind x.cons port.val = some ⟨i, .software⟩ → i < 64 → port.val < s.ringCons r.val → x.pub = [] →
      (∀ e j d ro, e < 6 → (s.eng e).run ≠ .waitRing j d ro) →
      ∃ t, exec (.frPortRelease w r .consumer port) s = .next t ∧ t = { s with rings := t.rings, regs := t.regs } ∧
        mfind (t.ring r.val).cons port.val = none ∧ (t.ring r.val).cseqOf port.val = x.cseqOf port.val + 1 ∧
        (t.ring r.val).pseq = x.pseq ∧ t.rget (.frPortRes r.val) = 65536 + i ∧ s.regsBut t [.frPortRes r.val]) ∧
    (∀ (port : Fin 8) (x : Ring) (i a : Nat), s.admits w (.frPortOp r.val) true → x = s.ring r.val → x.state = 1 →
      x.prod = some ⟨i, .software⟩ → i < 64 → x.pub = [] → x.cons = [] → 1 ≤ s.ringCons r.val →
      (∀ k, k < s.ringCons r.val → x.cseqOf k ≤ x.pseq) → s.eccClean = true → s.waits = [] →
      s.xlatRange (s.ringCtx r.val) (s.recVa r.val i) 8 true = .ok [(a, 8)] →
      s.xlatRange (s.ringCtx r.val) (s.recVa r.val i + 12) 52 true = .ok [(a + 12, 52)] →
      s.piecesCheck .gallery false true [(a, 8)] = (none, s) →
      s.piecesCheck .gallery false true [(a + 12, 52)] = (none, s) →
      s.linkDown a = false → s.linkDown (a + 12) = false → x.pseq < 2 ^ 64 →
      (∀ e j d ro, e < 6 → (s.eng e).run ≠ .waitRing j d ro) →
      ∃ t, exec (.frPortRelease w r .producer port) s = .next t ∧
        t = { s with rings := t.rings, regs := t.regs, mem := t.mem, fences := t.fences, slc := t.slc } ∧
        (t.ring r.val).pseq = x.pseq + 1 ∧ (t.ring r.val).prod = none ∧ (t.ring r.val).pub = [⟨i, x.pseq⟩] ∧
        s.bytesBut t a 64 ∧ t.field a 8 = x.pseq ∧ t.field (a + 8) 4 = s.field (a + 8) 4 ∧
        t.rget (.frPortRes r.val) = 65536 + i ∧
        ∀ f, s.fenceMap (s.ringCtx r.val) (s.fget (.frFence r.val) 16 0) = some f → (s.fence f).val.toNat < x.pseq + 1 →
          x.pseq + 1 < 2 ^ 64 → (t.fence f).val.toNat = x.pseq + 1)

/-- R191 to R193, R201, R407: a closed window takes its rights, and opens if its range is sound and its slice powered, or
sets ERR; an open one starts to close, and is CLOSED when its accesses are done, with the record of the WINDOW command
that waits for it; that a slice without power answers ERR is the model's choice (log entry 73). A master's access of
memory that is admitted reads or writes exactly its bytes where no word is in error, through the SLC where they lie in
DDR5; one that does not translate, that is refused, or that a debug port makes without its level changes no byte. -/
def Obligations.WindowsAndAccess : Prop :=
  ∀ s : State,
    (∀ (w : World) (e : Fin 6) (v : Fin 16) (rd wr : Bool), s.admits w (.gsWinCtl e.val v.val) true →
      (s.winState e.val v.val = 0 →
        ∃ t, exec (.windowOpen w e v rd wr) s = .next t ∧ s.onlyRegs t [.gsWinCtl e.val v.val] ∧
          (s.winOpenOk e.val v.val = true → t.winState e.val v.val = 1) ∧
          (s.winOpenOk e.val v.val = false → t.winState e.val v.val = 0 ∧ t.fget (.gsWinCtl e.val v.val) 4 4 = 1) ∧
          t.fget (.gsWinCtl e.val v.val) 2 2 = (if rd then 1 else 0) ∧
          t.fget (.gsWinCtl e.val v.val) 3 3 = if wr then 1 else 0) ∧
      (s.winState e.val v.val = 1 →
        ∃ t, exec (.windowClose w e v rd wr) s = .next t ∧ s.onlyRegs t [.gsWinCtl e.val v.val] ∧
          t.winState e.val v.val = 2 ∧ t.fget (.gsWinCtl e.val v.val) 3 2 = s.fget (.gsWinCtl e.val v.val) 3 2)) ∧
    (∀ (e : Fin 6) (v : Fin 16), s.winState e.val v.val = 2 →
      (∀ c ∈ s.cmds, Cmd.closes e.val v.val c = false) →
      ∃ t, exec (.windowClosed e v) s = .next t ∧ s.onlyRegs t [.gsWinCtl e.val v.val] ∧ t.winState e.val v.val = 0) ∧
    (∀ (e : Fin 6) (v : Fin 16) (c : Cmd), s.winState e.val v.val = 2 →
      s.cmds.filter (Cmd.closes e.val v.val) = [c] →
      ∃ t, exec (.windowClosed e v) s = .next t ∧ s.completes t c 0 0 ∧ t.winState e.val v.val = 0) ∧
    (∀ (m : Master) (ctx : BitVec 12) (va : BitVec 48) (n : Nat) (ps : List (Nat × Nat)), s.mayAccess m = true →
      (masterTranslates m = true ∨ m = .nvme ∨ va.toNat % 2 ^ 44 < regsBase ∨ 0x90000000 ≤ va.toNat % 2 ^ 44) →
      (if masterTranslates m then s.xlatRange ctx.toNat va.toNat n false = .ok ps
        else ps = cutPhys (n / 65536 + 2) (va.toNat % 2 ^ 44) n) →
      (s.eccClean = true → s.piecesCheck (masterWorld m) (masterBypass m) false ps = (none, s) →
        ∃ t, exec (.remoteAccess m ctx va (.read n)) s = .next t ∧
          t = { s with resp := t.resp, slc := t.slc, ddr := t.ddr, regs := t.regs } ∧
          t.resp = { ok := true, status := 0, data := ps.flatMap fun p => s.bytes p.1 p.2 } ∧
          s.regsBut t [.gsPf 0, .gsPf 1, .gsPf 2] ∧
          ((∀ p ∈ ps, inDdr p.1 = false) → t = { s with resp := t.resp })) ∧
      (∀ (f : AccErr) (u : State), s.piecesCheck (masterWorld m) (masterBypass m) false ps = (some f, u) →
        exec (.remoteAccess m ctx va (.read n)) s = .next { u with resp := { ok := false, status := f.st, data := [] } })) ∧
    (∀ (m : Master) (ctx : BitVec 12) (va : BitVec 48) (b : List Byte) (ps : List (Nat × Nat)), s.mayAccess m = true →
      (masterTranslates m = true ∨ m = .nvme ∨ va.toNat % 2 ^ 44 < regsBase ∨ 0x90000000 ≤ va.toNat % 2 ^ 44) →
      (if masterTranslates m then s.xlatRange ctx.toNat va.toNat b.length true = .ok ps
        else ps = cutPhys (b.length / 65536 + 2) (va.toNat % 2 ^ 44) b.length) →
      (s.eccClean = true → s.piecesCheck (masterWorld m) (masterBypass m) true ps = (none, s) → (pieceAddrs ps).Nodup →
        (∀ p ∈ ps, s.linkDown p.1 = false) →
        ∃ t, exec (.remoteAccess m ctx va (.write b)) s = .next t ∧ t = { s with mem := t.mem, resp := t.resp, slc := t.slc } ∧
          (pieceAddrs ps).map t.byte = b ∧ (∀ x, x ∉ pieceAddrs ps → t.byte x = s.byte x) ∧
          t.resp = { ok := true, status := 0, data := [] } ∧ ((∀ p ∈ ps, inDdr p.1 = false) → t.slc = s.slc)) ∧
      (∀ (f : AccErr) (u : State), s.piecesCheck (masterWorld m) (masterBypass m) true ps = (some f, u) →
        exec (.remoteAccess m ctx va (.write b)) s =
          .next { u with resp := { ok := false, status := f.st, data := [] } })) ∧
    (∀ (m : Master) (ctx : BitVec 12) (va : BitVec 48) (a : Access) (f : AccErr), s.mayAccess m = true →
      masterTranslates m = true → s.xlatRange ctx.toNat va.toNat (accLen a) (accWr a) = .error f →
      exec (.remoteAccess m ctx va a) s = .next { s with resp := { ok := false, status := f.st, data := [] } }) ∧
    (∀ (m : Master) (ctx : BitVec 12) (va : BitVec 48) (a : Access), s.mayAccess m = false →
      exec (.remoteAccess m ctx va a) s = .next { s with resp := { ok := false, status := 0x20, data := [] } })

/-- R196, R199, R203 to R205, R231: a write-back mends the oldest queued word of its region, where it still has a
correctable error. Where no word is in error a patrol read moves every powered region to its next line and leaves the
others. A self-test runs with BUSY and its slices at N = 32, or sets ERR where it is refused, and ends with 10,000 in
PROGRESS, its results, and the tested slices zero; a start while one runs takes SEL alone, and the divider stays at 32
after it (log entry 95, the model's choices). Injection is armed from the Studio world only. A demand read of a backed
DDR5 line leaves it in the SLC where no word is in error, and trains no tracker with NOPF set or EN 0; a second miss
one line on gives its tracker a stride. R321 to R324, R328, R330: a refresh that a rank owes, half an interval after
its last, closes one bank of every group in rotation and is owed no more; a rank that reads twice the rate is counted
and refreshed so, and one that reads hot is reported to the PMC; ZQ calibration is dated, and a reading of the
oscillators sets the read timing (the model's choice, log entry 29); none of these happens while the channel cannot
command. A corrected line's write-back is asked for at priority 0 unless a newer write to it waits; patrol reads are
asked for and move on, below the fill boundary; injection is armed until USE locks its register, but not in mode 3
(log entry 75). -/
def Obligations.MemoryUpkeep : Prop :=
  (∀ s : State,
    (∀ (r : Fin 8) (a : Nat) (l : List Nat), mget (fun _ => []) s.gesso.wbq r.val = a :: l → r.val ≠ 6 →
      ∃ t, exec (.eccWriteBack r) s = .next t ∧
        t = { s with gesso := t.gesso, ecc := if mget (fun _ => 0) s.ecc a = 1 then merase a s.ecc else s.ecc } ∧
        t.gesso = { s.gesso with wbq := t.gesso.wbq } ∧ mget (fun _ => []) t.gesso.wbq r.val = l ∧
        ∀ j, j ≠ r.val → mget (fun _ => []) t.gesso.wbq j = mget (fun _ => []) s.gesso.wbq j) ∧
    (∀ (a : Nat) (l : List Nat) (slot : Nat) (x : SlcLine), mget (fun _ => []) s.gesso.wbq 6 = a :: l →
      s.slcSlot (a / 4) = some slot → mfind s.slc.lines slot = some x → x.mark (a % 4) = 1 →
      ∃ t, exec (.eccWriteBack 6) s = .next t ∧ t = { s with gesso := t.gesso, slc := t.slc } ∧
        mget (fun _ => []) t.gesso.wbq 6 = l ∧ mfind t.slc.lines slot = some (x.setMark (a % 4) 0)) ∧
    (∀ r : Fin 8, mget (fun _ => []) s.gesso.wbq r.val = [] → exec (.eccWriteBack r) s = .next s) ∧
    (s.fget .gsScrubCtl 15 0 ≠ 0 → s.eccClean = true →
      ∃ t, exec .gessoPatrolScrub s = .next t ∧ t = { s with gesso := t.gesso } ∧
        t.gesso = { s.gesso with scrub := t.gesso.scrub } ∧
        ∀ r, r < 8 → mget (fun _ => 0) t.gesso.scrub r =
          if s.regionPowered r then (mget (fun _ => 0) s.gesso.scrub r + 1) % regionLines r
          else mget (fun _ => 0) s.gesso.scrub r) ∧
    (s.fget .gsScrubCtl 15 0 = 0 → exec .gessoPatrolScrub s = .next s) ∧
    (∀ (w : World) (sel : Byte), s.admits w .gsBistCtl true → s.gesso.bist = none → s.bistRefused sel.toNat = false →
      ∃ t, exec (.bistStart w sel) s = .next t ∧ t = { s with regs := t.regs, gesso := t.gesso, engines := t.engines } ∧
        t.gesso = { s.gesso with bist := some sel.toNat, bistAt := s.clock.ticks } ∧
        s.regsBut t [.gsBistCtl, .gsBistStatus] ∧ t.fget .gsBistCtl 7 0 = sel.toNat ∧ t.fget .gsBistStatus 16 16 = 1 ∧
        ∀ e, e < 6 → t.eng e =
          if sel.toNat / 2 ^ e % 2 = 1 then { s.eng e with curN := 32 } else s.eng e) ∧
    (∀ (w : World) (sel : Byte), s.admits w .gsBistCtl true → s.gesso.bist = none → s.bistRefused sel.toNat = true →
      ∃ t, exec (.bistStart w sel) s = .next t ∧ s.onlyRegs t [.gsBistCtl, .gsBistStatus] ∧
        t.fget .gsBistStatus 17 17 = 1) ∧
    (∀ (w : World) (sel : Byte) (old : Nat), s.admits w .gsBistCtl true → s.gesso.bist = some old →
      ∃ t, exec (.bistStart w sel) s = .next t ∧ s.onlyRegs t [.gsBistCtl]) ∧
    (∀ (sel : Nat) (fails : List BistFail), s.gesso.bist = some sel → sel < 256 →
      ∃ t, exec (.bistDone fails) s = .next t ∧ t.gesso.bist = none ∧ t.fget .gsBistStatus 16 16 = 0 ∧
        t.fget .gsBistStatus 13 0 = 10000 ∧ t.engines = s.engines ∧ s.regsBut t [.gsBistStatus, .gsBistFail] ∧
        (∀ e x, e < 6 → sel / 2 ^ e % 2 = 1 → sliceBase e ≤ x → x < sliceBase e + sliceSize → t.byte x = 0) ∧
        (fails = [] → t.fget .gsBistStatus 39 32 = sel ∧ t.fget .gsBistStatus 47 40 = 0 ∧ t.rget .gsBistFail = 0) ∧
        ∀ f : BistFail, fails = [f] → f.region < 8 → sel / 2 ^ f.region % 2 = 1 →
          t.fget .gsBistStatus 39 32 = sel - 2 ^ f.region ∧ t.fget .gsBistStatus 47 40 = 2 ^ f.region ∧
          t.fget .gsBistFail 47 32 = 1 ∧ t.fget .gsBistFail 31 29 = f.region ∧ t.fget .gsBistFail 28 20 = f.bank % 512 ∧
          t.fget .gsBistFail 12 0 = f.row % 8192) ∧
    (∀ fails : List BistFail, s.gesso.bist = none → exec (.bistDone fails) s = .next s) ∧
    (∀ (r : Fin 8) (m : BitVec 2), m ≠ 3 →
      ∃ t, exec (.gsEccInjArm .studio r m) s = .next t ∧ s.onlyRegs t [.gsEccInj] ∧ t.fget .gsEccInj 6 4 = r.val ∧
        t.fget .gsEccInj 1 0 = m.toNat ∧ t.fget .gsEccInj 8 8 = 1) ∧
    (∀ r : Fin 8,
      ∃ t, exec (.gsEccInjArm .studio r 3) s = .next t ∧ s.onlyRegs t [.gsEccInj] ∧ t.fget .gsEccInj 6 4 = r.val ∧
        t.fget .gsEccInj 1 0 = 3 ∧ t.fget .gsEccInj 8 8 = s.fget .gsEccInj 8 8) ∧
    (∀ (r : Fin 8) (m : BitVec 2),
      ∃ t, exec (.gsEccInjArm .gallery r m) s = .next t ∧ s.onlyRegs t [.secViol, .secVlog] ∧
        t.rget .secViol = (s.rget .secViol + 1) % 2 ^ 64) ∧
    (∀ (addr : Pa) (nopf : Bool) (l : Nat), l = addr.toNat / 128 → inDdr (l * 128) = true → s.backed (l * 128) = true →
      s.eccClean = true → nopf = true ∨ s.fget .gsPfCtl 0 0 = 0 →
      ∃ t, exec (.slcStreamPrefetch addr nopf) s = .next t ∧ t = { s with slc := t.slc, regs := t.regs } ∧
        (t.slcSlot l).isSome = true ∧ s.regsBut t [.gsPf 1] ∧ t.slc.trackers = s.slc.trackers) ∧
    (∀ (addr : Pa) (l : Nat) (u : Tracker), l = addr.toNat / 128 → inDdr (l * 128) = true → s.backed (l * 128) = true →
      s.eccClean = true → s.fget .gsPfCtl 0 0 = 1 → s.slcSlot l = none → s.slc.trackers = [u] → u.count = 1 →
      u.last + 128 = l * 128 →
      ∃ t, exec (.slcStreamPrefetch addr false) s = .next t ∧ t = { s with slc := t.slc, regs := t.regs } ∧
        s.regsBut t [.gsPf 1] ∧ (t.slcSlot l).isSome = true ∧
        t.slc.trackers = [{ u with last := l * 128, stride := 128, count := 2 }]) ∧
    (∀ (addr : Pa) (nopf : Bool), inDdr (addr.toNat / 128 * 128) = false ∨ s.backed (addr.toNat / 128 * 128) = false →
      exec (.slcStreamPrefetch addr nopf) s = .next s)) ∧
  (∀ (s : State) (c : Fin 4) (x : Dmc), x = s.dmc c.val →
    (∀ (k : Fin 2) (b : Nat), s.canCommand x = true → k.val < s.ddr.ranks → 0 < (s.refCount x).owes k.val →
      mget (fun _ => 0) x.refLast k.val + s.refInterval (s.refCount x) k.val / 2 ≤ s.halfNs → b = mget (fun _ => 0) x.refBank k.val →
      ∃ t, exec (.sameBankRefresh c k) s = .next t ∧ t = { s with ddr := t.ddr } ∧
        (∀ g, g < 8 → (t.dmc c.val).row ((k.val * 8 + g) * s.bankCount + b) = none) ∧
        mget (fun _ => 0) (t.dmc c.val).refBank k.val = (b + 1) % s.bankCount ∧
        (t.dmc c.val).owes k.val = (s.refCount x).owes k.val - 1 ∧
        mget (fun _ => 0) (t.dmc c.val).refLast k.val = s.halfNs ∧
        (t.dmc c.val).retry = x.retry ++ [.refresh k.val b] ∧ (t.dmc c.val).queues = x.queues) ∧
    (∀ k : Fin 2, s.canCommand x = false ∨ s.ddr.ranks ≤ k.val ∨ (s.refCount x).owes k.val = 0 ∨
        s.halfNs < mget (fun _ => 0) x.refLast k.val + s.refInterval (s.refCount x) k.val / 2 →
      exec (.sameBankRefresh c k) s = .next s) ∧
    (∀ k : Fin 2, s.canCommand x = true → x.retry.length < 63 →
      (x.ref2x / 2 ^ k.val % 2 = 0 →
        ∃ t, exec (.modeRegisterPoll c [⟨k.val, true, false⟩]) s = .next t ∧ t = { s with ddr := t.ddr, regs := t.regs } ∧
          t.dmc c.val = { x with ref2x := x.ref2x + 2 ^ k.val, retry := x.retry ++ [.mrr k.val] } ∧
          s.regsBut t [.dmcCount c.val 5] ∧ t.rget (.dmcCount c.val 5) = (s.rget (.dmcCount c.val 5) + 1) % 2 ^ 64) ∧
      (x.ref2x / 2 ^ k.val % 2 = 1 →
        exec (.modeRegisterPoll c [⟨k.val, false, false⟩]) s =
          .next (s.setDmc c.val { x with ref2x := x.ref2x - 2 ^ k.val, retry := x.retry ++ [.mrr k.val] })) ∧
      ∃ t, exec (.modeRegisterPoll c [⟨k.val, false, true⟩]) s = .next t ∧
        t.rget .pmcEvhead = (s.rget .pmcEvhead + 1) % 2 ^ 64) ∧
    (∀ l : List MrReading, s.canCommand x = false ∨ 63 ≤ x.retry.length → exec (.modeRegisterPoll c l) s = .next s) ∧
    (∀ k : Fin 2, s.canCommand x = true → k.val < s.ddr.ranks →
      exec (.zqCalibration c (.zq k)) s = .next (s.setDmc c.val { x with
        zq := minsert k.val s.now x.zq, retry := x.retry ++ [.zq k.val] }) ∧
      ∀ l : List Nat, exec (.zqCalibration c (.osc k l)) s = .next (s.setDmc c.val { x with
        osc := minsert k.val l x.osc, readAdj := minsert k.val (Config.readTiming l) x.readAdj
        retry := x.retry ++ [.osc k.val] })) ∧
    (∀ o : RankOp, s.canCommand x = false ∨ s.ddr.ranks ≤ rankOf o → exec (.zqCalibration c o) s = .next s) ∧
    (∀ (l : Nat) (m : List Nat) (r : DdrReq), x.wback = l :: m → x.state ≠ 3 → s.ddrChannel (l * 128) = c.val →
      r = ⟨ddrBase + l * 128, some [], false, 0, x.order, 0, .wback⟩ →
      ((x.entries ++ x.input ++ x.ingest).any (fun q => q.addr == ddrBase + l * 128 && q.wr.isSome) = false →
        exec (.ddrCorrectionWriteback c) s = .next (s.setDmc c.val
          (if (x.queue (s.reqBank r)).length < 16 then { x with
            wback := m, order := x.order + 1
            queues := minsert (s.reqBank r) (x.queue (s.reqBank r) ++ [r]) x.queues }
          else { x with wback := m, order := x.order + 1, input := x.input ++ [r] }))) ∧
      ((x.entries ++ x.input ++ x.ingest).any (fun q => q.addr == ddrBase + l * 128 && q.wr.isSome) = true →
        exec (.ddrCorrectionWriteback c) s = .next (s.setDmc c.val { x with wback := m }))) ∧
    (x.wback = [] → exec (.ddrCorrectionWriteback c) s = .next s) ∧
    (s.rget .dmcScrub ≠ 0 → (∀ d, d < 4 → (s.dmc d).state = 1 ∧ (s.dmc d).panic = false) →
      ∃ t, exec .ddrPatrolScrub s = .next t ∧ t = { s with ddr := t.ddr } ∧ ∀ d n : Nat, d < 4 →
        n = (if s.scrubLine d (s.dmc d).scrub < s.ddr.fill then (s.dmc d).scrub else 0) →
        (t.dmc d).scrub = (if s.scrubLine d n < s.ddr.fill then n + 1 else (s.dmc d).scrub) ∧
        (s.scrubLine d n < s.ddr.fill → ∃ q ∈ (t.dmc (s.ddrChannel (s.scrubLine d n))).requests,
          q.who = .scrub ∧ q.addr = ddrBase + s.scrubLine d n ∧ q.wr = none ∧ q.prio = 0)) ∧
    (s.rget .dmcScrub = 0 → exec .ddrPatrolScrub s = .next s) ∧
    (∀ (w : World) (m : BitVec 2), s.ddrUsed = true → exec (.dmcEccInjArm w c m) s = .next s) ∧
    (∀ (w : World) (m : BitVec 2), s.admits w .dmcEccInj true → s.ddrUsed = false →
      ∃ t, exec (.dmcEccInjArm w c m) s = .next t ∧ s.onlyRegs t [.dmcEccInj] ∧ t.fget .dmcEccInj 5 4 = c.val ∧
        t.fget .dmcEccInj 1 0 = m.toNat ∧ t.fget .dmcEccInj 8 8 = if m = 3 then s.fget .dmcEccInj 8 8 else 1))

/-- R306 to R313, R331, with the model's choices of log entry 27 (where a channel stands in training as time passes, and
what a failure leaves of the counts): training of four like DIMMs that keep to the tables runs on at the highest
common rate; a channel that fails step 1 is named and counts no step, while the others count theirs. A training that
ends with all channels trained sets each that has not FAILED to work over a zeroed first GiB and locks the settings;
one that ends with a failing channel and step names both, the step being no earlier than the one the channel is in,
and PROGRESS stands if it is that one. USE enables DDR5 and begins the fill of the rest. The fill asks for a zero
write of its next line on a channel that is not in panic, and goes 2 MiB further once every channel that has not
FAILED has written its lines; its boundary follows while none has FAILED. -/
def Obligations.DdrTrainingAndFill : Prop :=
  ∀ s : State,
    (∀ (w : World) (l : List (Option Dimm)) (d : Dimm) (r : Nat), s.admits w .dmcTrainCtl true → s.ddr.busy = false →
      s.ddrUsed = false → firstBadDimm l = none → l.head? = some (some d) → rateCode l (s.fget .dmcCfg 1 0) = some r →
      masksOk ((List.range (if d.density = 8 then 6 else 7)).map fun i => s.rget (.dmcHash i)) d.x4 d.ranks = true →
      exec (.trainingStart w l) s = .next { s with ddr := { s.ddr with
        busy := true, done := false, failed := false, step := 2, prog := 0, trainAt := s.clock.ticks, density := d.density
        x4 := d.x4, ranks := d.ranks, cap := 4 * dimmBytes d, speed := r } }) ∧
    (∀ (w : World) (l : List (Option Dimm)) (d : Dimm), s.admits w .dmcTrainCtl true → s.ddr.busy = false →
      s.ddrUsed = false → firstBadDimm l = none → l.head? = some (some d) → rateCode l (s.fget .dmcCfg 1 0) = none ∨
        masksOk ((List.range (if d.density = 8 then 6 else 7)).map fun i => s.rget (.dmcHash i)) d.x4 d.ranks = false →
      ∃ t, exec (.trainingStart w l) s = .next t ∧ t = { s with ddr := t.ddr } ∧ t.ddr.busy = false ∧
        t.ddr.failed = true ∧ t.ddr.failCh = 0 ∧ t.ddr.step = 1) ∧
    (∀ (w : World) (l : List (Option Dimm)) (c : Nat), s.admits w .dmcTrainCtl true → s.ddr.busy = false →
      s.ddrUsed = false → firstBadDimm l = some c →
      ∃ t, exec (.trainingStart w l) s = .next t ∧ t = { s with ddr := t.ddr } ∧ t.ddr = { s.ddr with
          busy := false, done := false, failed := true, failCh := c, step := 1, trainAt := s.clock.ticks
          prog := 0, chans := t.ddr.chans } ∧
        ∀ d, d < 4 → t.dmc d = { s.dmc d with trained := if d = c then 0 else 1 }) ∧
    (∀ (w : World) (l : List (Option Dimm)), s.admits w .dmcTrainCtl true → s.ddr.busy = true ∨ s.ddrUsed = true →
      exec (.trainingStart w l) s = .next s) ∧
    (s.ddr.busy = true →
      ∃ t, exec (.trainingDone none) s = .next t ∧
        t = { s with ddr := t.ddr, ddrLock := true, mem := t.mem, ecc := t.ecc, regs := t.regs } ∧
        s.regsBut t [.dmcEccInj] ∧ (s.fget .dmcEccInj 8 8 = 0 → t.regs = s.regs) ∧
        t.ddr = { s.ddr with
          busy := false, done := true, step := 7, prog := 10000, fill := 2 ^ 30, chans := t.ddr.chans } ∧
        (∀ c, c < 4 → (s.dmc c).state = 3 → t.dmc c = { s.dmc c with trained := 7 }) ∧
        (∀ c, c < 4 → (s.dmc c).state ≠ 3 → t.dmc c = { s.dmc c with
          state := 1, trained := 7, refAt := [(0, s.halfNs), (1, s.halfNs)], refLast := [], owed := [] }) ∧
        ∀ x, t.byte x = if ddrBase ≤ x ∧ x < ddrBase + 2 ^ 30 then 0 else s.byte x) ∧
    (∀ c k : Nat, s.ddr.busy = true →
      ∃ t, exec (.trainingDone (some (c, k))) s = .next t ∧ t = { s with ddr := t.ddr } ∧
        t.ddr = { s.ddr with
          busy := false, failed := true, failCh := c % 4, step := max (s.trainPos (c % 4)).1 (k % 8), prog := t.ddr.prog
          chans := t.ddr.chans } ∧
        (k % 8 ≤ (s.trainPos (c % 4)).1 → t.ddr.prog = s.trainProg) ∧
        ∀ d, d < 4 → t.dmc d = { s.dmc d with
          trained := if d = c % 4 then max (s.trainPos (c % 4)).1 (k % 8) - 1 else (s.trainPos d).1 }) ∧
    (∀ f : Option (Nat × Nat), s.ddr.busy = false → exec (.trainingDone f) s = .next s) ∧
    (∀ w : World, s.admits w .dmcCfg true → s.ddrUsed = false →
      ∃ t, exec (.ddrUse w) s = .next t ∧ s.regsBut t [.dmcCfg] ∧ t.ddrUsed = true ∧
        t = { s with regs := t.regs, ddr := { s.ddr with
          fillBusy := decide (s.ddr.fill < s.ddr.cap), fillAt := s.ddr.fill, chmap := s.failedMap } }) ∧
    (∀ w : World, s.admits w .dmcCfg true → s.ddrUsed = true → exec (.ddrUse w) s = .next s) ∧
    (∀ c, c < 4 → s.fillDone c = true ↔ (s.dmc c).state = 3 ∨
      (s.fillLeft c = none ∧ ∀ r ∈ (s.dmc c).entries ++ (s.dmc c).input, r.who ≠ .fill)) ∧
    (s.ddr.fillBusy = true → s.ddrUsed = true → s.ddr.selfRefresh = false → (∀ c, c < 4 → s.fillDone c = true) →
      exec .fillAdvance s = .next { s with ddr := { s.ddr with
        fill := if s.ddr.chmap = 0 then s.ddr.fillAt + 2 ^ 21 else s.ddr.fill
        fillAt := s.ddr.fillAt + 2 ^ 21
        fillBusy := decide (s.ddr.fillAt + 2 ^ 21 < s.ddr.cap) } }) ∧
    (s.ddr.fillBusy = false ∨ s.ddrUsed = false ∨ s.ddr.selfRefresh = true ∨ (∃ c, c < 4 ∧ s.fillDone c = false) →
      exec .fillAdvance s = .next s) ∧
    (∀ (c : Fin 4) (x : Dmc) (d : Nat) (r : DdrReq), x = s.dmc c.val → s.canCommand x = true → s.ddr.fillBusy = true →
      s.ddrUsed = true → x.panic = false → (∀ q ∈ x.entries ++ x.input, q.who ≠ .fill) → s.fillLeft c.val = some d →
      (∀ k, k < s.ddr.ranks → (s.refCount x).owes k = 0) → s.ddrChannel d = c.val →
      r = ⟨ddrBase + d, some [], false, 0, x.order, 0, .fill⟩ →
      ∃ t, exec (.ddrCommandIssue c []) s = .next t ∧ t = { s with ddr := t.ddr } ∧ r ∈ (t.dmc c.val).entries ++ (t.dmc c.val).input ∧
        (t.dmc c.val).fillNext = d + 128 ∧ (t.dmc c.val).order = x.order + 1 ∧ (t.dmc c.val).retry = x.retry)

/-- R317, R318, R320, R324 to R329: a request for a backed line joins the ingest buffer, whose level sets panic, or its
bank queue, or the channel input behind a full one; a FAILED channel fails it. With no refresh owed and no fill
running, a command slot opens, closes, reads or writes for a lone request; a refresh at its limit takes the slot. A
demand's returning line is delivered as it stands in memory and allocated, with symbols up to the limit counted and
queued for write-back; one with a wrong address is not delivered. The bytes of a write stand in memory from its
arrival, which is the model's choice (log entry 69). A retry entry retires in order; an alert stops the channel, its
release issues the retry buffer again, and the fourth of one episode fails the channel and all it holds. -/
def Obligations.DdrTraffic : Prop :=
  ∀ (s : State) (c : Fin 4) (x : Dmc), x = s.dmc c.val →
    (∀ (addr : Pa) (wr : Bool) (b : List Byte) (o : DdrOrigin) (a : Nat) (r : DdrReq), a = addr.toNat / 128 * 128 →
      inDdr a = true → s.backed a = true → s.ddrChannel (ddrOff a) = c.val →
      r = ⟨a, if wr then some (b.take 128) else none, o == .realTime, s.originPrio a o, x.order, 0, .demand o⟩ →
      (o = .realTime → x.state ≠ 3 → x.ingest.length < 256 →
        ∃ t, exec (.ddrRequestArrive addr wr b o) s = .next t ∧ t = { s with ddr := t.ddr, regs := t.regs, mem := t.mem } ∧
          t.dmc c.val = { x with
            ingest := x.ingest ++ [r], order := x.order + 1
            panic := if x.panic then decide (s.fget (.dmcPanicLvl c.val) 24 16 < x.ingest.length + 1)
              else decide (s.fget (.dmcPanicLvl c.val) 8 0 ≤ x.ingest.length + 1) } ∧
          s.regsBut t [.dmcCount c.val 4] ∧
          t.rget (.dmcCount c.val 4) =
            (if x.panic = false ∧ s.fget (.dmcPanicLvl c.val) 8 0 ≤ x.ingest.length + 1 then
              (s.rget (.dmcCount c.val 4) + 1) % 2 ^ 64 else s.rget (.dmcCount c.val 4)) ∧
          (∀ d, d ≠ c.val → t.dmc d = s.dmc d) ∧ (wr = false → t.mem = s.mem) ∧
          (wr = true → t.bytes a (b.take 128).length = b.take 128 ∧ s.bytesBut t a (b.take 128).length)) ∧
      (o = .realTime → x.state ≠ 3 → 256 ≤ x.ingest.length → exec (.ddrRequestArrive addr wr b o) s = .next s) ∧
      (o ≠ .realTime → x.state ≠ 3 →
        ∃ t, exec (.ddrRequestArrive addr wr b o) s = .next t ∧ t = { s with ddr := t.ddr, mem := t.mem } ∧
          t.dmc c.val = (if (x.queue (s.reqBank r)).length < 16 then { x with
              queues := minsert (s.reqBank r) (x.queue (s.reqBank r) ++ [r]) x.queues, order := x.order + 1 }
            else { x with input := x.input ++ [r], order := x.order + 1 }) ∧
          (∀ d, d ≠ c.val → t.dmc d = s.dmc d) ∧ (wr = false → t.mem = s.mem) ∧
          (wr = true → t.bytes a (b.take 128).length = b.take 128 ∧ s.bytesBut t a (b.take 128).length)) ∧
      (x.state = 3 →
        ∃ t, exec (.ddrRequestArrive addr wr b o) s = .next t ∧ t.mem = s.mem ∧
          t.dmc c.val = { x with replies := x.replies ++ [⟨o, a, wr, 0x70, []⟩] } ∧
          t.resp = { ok := false, status := 0x70, data := [] } ∧
          t.rget (.dmcCount c.val 1) = (s.rget (.dmcCount c.val 1) + 1) % 2 ^ 64)) ∧
    (∀ (addr : Pa) (wr : Bool) (b : List Byte) (o : DdrOrigin),
      inDdr (addr.toNat / 128 * 128) = false ∨ s.backed (addr.toNat / 128 * 128) = false →
      exec (.ddrRequestArrive addr wr b o) s = .next s) ∧
    (∀ (l : List Nat) (b : Nat) (r q : DdrReq), x.state = 1 → s.ddr.selfRefresh = false → x.retry.length < 64 →
      s.ddr.fillBusy = false → (∀ k, k < s.ddr.ranks → (s.refCount x).owes k = 0) →
      x.queues = [(b, [r])] → x.ingest = [] → x.input = [] → x.panic = false → r.rt = false → b = s.reqBank r →
      b < s.queueCount → b ∈ l → 0 < s.fget (.dmcPanicLvl c.val) 8 0 → q = { r with wait := r.wait + 1 } →
      (x.row b = none →
        ∃ t, exec (.ddrCommandIssue c l) s = .next t ∧ t = { s with ddr := t.ddr } ∧
          (t.dmc c.val).row b = some (s.reqRow r) ∧ (t.dmc c.val).retry = x.retry ++ [.act b (s.reqRow r)] ∧
          (t.dmc c.val).entries = [q]) ∧
      (∀ row, x.row b = some row → row ≠ s.reqRow r →
        ∃ t, exec (.ddrCommandIssue c l) s = .next t ∧ t = { s with ddr := t.ddr } ∧ (t.dmc c.val).row b = none ∧
          (t.dmc c.val).retry = x.retry ++ [.pre b] ∧ (t.dmc c.val).entries = [q]) ∧
      (x.row b = some (s.reqRow r) → r.wr = none →
        ∃ t, exec (.ddrCommandIssue c l) s = .next t ∧ t = { s with ddr := t.ddr } ∧ (t.dmc c.val).entries = [] ∧
          (t.dmc c.val).reads = x.reads ++ [q] ∧ (t.dmc c.val).retry = x.retry ++ [.rd q]) ∧
      (∀ (d : List Byte) (o : DdrOrigin), x.row b = some (s.reqRow r) → r.wr = some d → r.who = .demand o →
        s.eccClean = true →
        ∃ t, exec (.ddrCommandIssue c l) s = .next t ∧ t = { s with ddr := t.ddr, resp := t.resp } ∧
          (t.dmc c.val).entries = [] ∧ (t.dmc c.val).retry = x.retry ++ [.wr q] ∧
          (t.dmc c.val).replies = x.replies ++ [⟨o, r.addr, true, 0, []⟩] ∧
          t.resp = { ok := true, status := 0, data := [] }) ∧
      (∀ d : List Byte, x.row b = some (s.reqRow r) → r.wr = some d → r.who = .fill → s.eccClean = true →
        ∃ t, exec (.ddrCommandIssue c l) s = .next t ∧ t = { s with ddr := t.ddr, mem := t.mem } ∧
          (t.dmc c.val).entries = [] ∧ (t.dmc c.val).retry = x.retry ++ [.wr q] ∧
          (∀ i, i < 128 → t.byte (r.addr + i) = 0) ∧ s.bytesBut t r.addr 128)) ∧
    (∀ (l : List Nat) (k : Nat), x.state = 1 → s.ddr.selfRefresh = false → x.retry.length < 64 → s.ddr.fillBusy = false →
      s.refForced (s.refCount x) = some k →
      ∃ t, exec (.ddrCommandIssue c l) s = .next t ∧ t = { s with ddr := t.ddr } ∧
        (t.dmc c.val).retry = x.retry ++ [.refresh k (mget (fun _ => 0) x.refBank k)] ∧
        (t.dmc c.val).entries.length = x.entries.length ∧ (t.dmc c.val).ingest = x.ingest) ∧
    (∀ l : List Nat, s.ddr.selfRefresh = true ∨ x.state ≠ 1 ∨ 64 ≤ x.retry.length →
      exec (.ddrCommandIssue c l) s = .next (s.setDmc c.val x.age)) ∧
    (∀ (r : DdrReq) (l : List DdrReq) (o : DdrOrigin), x.reads = r :: l → x.state = 1 → s.eccClean = true →
      r.who = .demand o →
      (∃ t, exec (.ddrReadReturn c ⟨0, 0, false⟩) s = .next t ∧ t = { s with ddr := t.ddr, resp := t.resp, slc := t.slc } ∧
        t.dmc c.val = { x with
          reads := l, replies := x.replies ++ [⟨o, r.addr, r.wr.isSome, 0, s.bytes r.addr 128⟩] } ∧
        t.resp = { ok := true, status := 0, data := s.bytes r.addr 128 } ∧ (t.slcSlot (r.addr / 128)).isSome = true) ∧
      (∀ n : Nat, 1 ≤ n → n ≤ s.symLimit → s.ddrChannel (ddrOff r.addr) = c.val → ddrBase ≤ r.addr →
        (∀ p ∈ s.slc.lines, ddrBase ≤ p.2.addr * 128) →
        ∃ t, exec (.ddrReadReturn c ⟨n, 0, false⟩) s = .next t ∧ t.mem = s.mem ∧
          t.resp = { ok := true, status := 0, data := s.bytes r.addr 128 } ∧
          (t.dmc c.val).wback = [ddrOff r.addr / 128] ∧ (t.dmc c.val).reads = l ∧
          t.rget (.dmcCount c.val 0) = (s.rget (.dmcCount c.val 0) + 1) % 2 ^ 64) ∧
      (∃ t, exec (.ddrReadReturn c ⟨0, 0, true⟩) s = .next t ∧ t.mem = s.mem ∧ t.slc = s.slc ∧ (t.dmc c.val).reads = l ∧
        t.resp = { ok := false, status := 0x70, data := [] })) ∧
    (∀ (r : DdrReq) (l : List DdrReq), x.reads = r :: l → x.state = 1 → s.eccClean = true → r.who = .prefetch →
      ∃ t, exec (.ddrReadReturn c ⟨0, 0, false⟩) s = .next t ∧ t = { s with ddr := t.ddr, slc := t.slc } ∧
        t.dmc c.val = { x with reads := l } ∧ (t.slcSlot (r.addr / 128)).isSome = true) ∧
    (∀ (r : DdrReq) (l : List DdrReq), x.reads = r :: l → x.state = 1 → s.eccClean = true → r.who = .scrub →
      exec (.ddrReadReturn c ⟨0, 0, false⟩) s = .next (s.setDmc c.val { x with reads := l })) ∧
    (∀ e : DdrErr, x.reads = [] ∨ x.state ≠ 1 → exec (.ddrReadReturn c e) s = .next s) ∧
    (x.state = 1 → exec (.retryEntryRetire c) s = .next (s.setDmc c.val { x with retry := x.retry.tail })) ∧
    (x.state ≠ 1 → exec (.retryEntryRetire c) s = .next s) ∧
    (x.state = 1 ∨ x.state = 2 → x.alerts < 3 →
      ∃ t, exec (.alertEpisode c) s = .next t ∧ t = { s with ddr := t.ddr, regs := t.regs } ∧
        t.dmc c.val = { x with state := 2, alerts := x.alerts + 1, opened := [], opener := [] } ∧
        s.regsBut t [.dmcCount c.val 3] ∧ t.rget (.dmcCount c.val 3) = (s.rget (.dmcCount c.val 3) + 1) % 2 ^ 64) ∧
    (x.state = 1 ∨ x.state = 2 → 3 ≤ x.alerts →
      ∃ t, exec (.alertEpisode c) s = .next t ∧ (t.dmc c.val).state = 3 ∧ (t.dmc c.val).queues = [] ∧
        (t.dmc c.val).ingest = [] ∧ (t.dmc c.val).input = [] ∧ (t.dmc c.val).retry = [] ∧ (t.dmc c.val).reads = [] ∧
        (t.dmc c.val).replies = x.replies ++ x.owed?.filterMap (fun r => match r.who with
          | .demand o => some ⟨o, r.addr, r.wr.isSome, 0x70, []⟩
          | _ => none) ∧
        (s.ddr.fillBusy = true → t.ddr.chmap / 2 ^ c.val % 2 = 1) ∧ t.mem = s.mem ∧ t.engines = s.engines) ∧
    (x.state ≠ 1 → x.state ≠ 2 → exec (.alertEpisode c) s = .next s) ∧
    (x.state = 2 → exec (.alertNRelease c) s =
      .next (s.setDmc c.val { x with state := 1, alerts := 0, opened := s.reopen [] x.retry })) ∧
    (x.state ≠ 2 → exec (.alertNRelease c) s = .next s)

/-- R334 to R336, R340 to R348, R352: a source is enabled within its checks and the budget, or waits while PD_MEDIA is
off; COMMIT is kept. A frame start of an enabled source with TSRC 0 takes a slot of its ring or counts a drop, and an
image of a format not known is counted. A line without errors is unpacked into its row of the slot, a corrected one in
the line path, and changes no other byte of memory; a packet of no stream is counted; a CSI frame end publishes the
slot; a line of an image past its HEIGHT sets OVERLONG, and the last line that its header gives ends the frame (log
entry 101); and the control channel of a camera reports its answer or its timeout. -/
def Obligations.CameraSources : Prop :=
  ∀ s : State,
    (∀ (w : World) (p : Byte) (v : W32) (r : Reg) (u : State), srcReg p.toNat = some r → s.admits w r true →
      s.srcEn p.toNat = false → s.pmc.pdMedia = true → bits v.toNat 31 29 = 4 →
      u = (s.setSrcField p.toNat 28 19 (bits v.toNat 28 19)).setSrcField p.toNat 15 0 (bits v.toNat 15 0) →
      ∃ t, exec (.srcEnable w p v) s = .next t ∧ t = { s with regs := t.regs, sources := t.sources } ∧ s.regsBut t [r] ∧
        t.srcField p.toNat 15 0 = bits v.toNat 15 0 ∧ t.srcField p.toNat 28 19 = bits v.toNat 28 19 ∧
        (u.srcMayEnable p.toNat = true → t.srcEn p.toNat = true ∧
          (s.srcBusy p.toNat = false → (t.source p.toNat).active = s.shadow p.toNat) ∧
          (s.srcBusy p.toNat = true → t.source p.toNat = { s.source p.toNat with pending := true })) ∧
        (u.srcMayEnable p.toNat = false ∨ 16000 < s.budgetSum p.toNat + bits v.toNat 15 0 →
          t.srcEn p.toNat = false ∧ t.srcField p.toNat 29 29 = 1)) ∧
    (∀ (w : World) (p : Byte) (v : W32) (r : Reg), srcReg p.toNat = some r → s.admits w r true →
      s.srcEn p.toNat = false → s.pmc.pdMedia = false → bits v.toNat 31 29 = 4 →
      ∃ t, exec (.srcEnable w p v) s = .next t ∧ t = { s with regs := t.regs, pmc := t.pmc } ∧ s.regsBut t [r] ∧
        t.srcEn p.toNat = false ∧ t.pmc = { s.pmc with mediaWake := s.pmc.mediaWake ++ [p.toNat] }) ∧
    (∀ (w : World) (p : Byte) (v : W32), srcReg p.toNat = none →
      exec (.srcEnable w p v) s = .next s ∧ exec (.commit w p) s = .next s) ∧
    (∀ (w : World) (p : Byte) (r : Reg), srcReg p.toNat = some r → s.admits w r true →
      ∃ t, exec (.commit w p) s = .next t ∧ t = { s with regs := t.regs, sources := t.sources } ∧ s.regsBut t [r] ∧
        t.srcField p.toNat 30 30 = 1 ∧ t.source p.toNat = { s.source p.toNat with pending := true }) ∧
    (∀ (p r f : Nat) (i : Instr), ((∃ (n : Fin 32) (b : BitVec 16), i = .csiFrameStart n b ∧ p = 1 + n.val ∧ f = b.toNat ∧
          s.fget (.csiPortCfg (n.val / 4)) 31 31 = 1) ∨
        (∃ (c : Fin 8) (b : CxpHeader), i = .cxpImageHeader c b true ∧ p = 0x21 + c.val ∧ f = b.count.toNat ∧
          s.fget (.cxpCamCfg c.val) 31 31 = 0 ∧ (cxpFmt (s.fget (.cxpCamCfg c.val) 22 17)).isSome = true)) →
      s.srcEn p = true → (s.source p).opened = none → (s.source p).pending = false → s.srcField p 28 27 = 0 →
      s.ringNamed p = some r →
      ((s.ring r).state = 1 → (s.ring r).prod = none → (s.ring r).free ((s.ring r).pseq % s.ringSlots r) = true →
        ∃ t o, exec i s = .next t ∧ t = { s with rings := t.rings, sources := t.sources, free := t.free } ∧
          (t.source p).opened = some o ∧ o.mode = 0 ∧ o.ring = r ∧ o.slot = (s.ring r).pseq % s.ringSlots r ∧ o.frame = f ∧
          o.seen = 0 ∧ s.now ≤ o.tStart + 8 ∧ o.tStart ≤ s.now + 8 ∧
          t.ring r = { s.ring r with prod := some ⟨o.slot, .hardware⟩, raws := (t.ring r).raws } ∧
          (∀ g, s.rawFormat p = some g → mfind (t.ring r).raws o.slot = some g) ∧
          ∀ (c : Fin 8) (b : CxpHeader), i = .cxpImageHeader c b true → o.rows = b.lines.toNat) ∧
      ((s.ring r).prod ≠ none →
        ∃ t o, exec i s = .next t ∧ (t.source p).opened = some o ∧ o.mode = 1 ∧
          t.ring r = { s.ring r with drops := (s.ring r).drops + 1 } ∧ s.regsBut t [.frDrops r] ∧
          (r < 64 → t.rget (.frDrops r) = (s.rget (.frDrops r) + 1) % 2 ^ 64) ∧ t.mem = s.mem)) ∧
    (∀ (c : Fin 8) (b : CxpHeader), s.fget (.cxpCamCfg c.val) 31 31 = 0 → s.srcEn (0x21 + c.val) = true →
      (s.source (0x21 + c.val)).opened = none →
      ∃ t, exec (.cxpImageHeader c b false) s = .next t ∧ s.onlyRegs t [.srcErr 1 c.val] ∧
        t.rget (.srcErr 1 c.val) = (s.rget (.srcErr 1 c.val) + 1) % 2 ^ 64) ∧
    (∀ (p g : Nat) (ps : List (Nat × Nat)) (o : OpenSlot) (d : List Byte) (i : Instr),
      ((∃ (port : Fin 8) (vc : BitVec 4) (dt : BitVec 6) (b : List Byte) (n : Nat) (f : PixFmt),
          i = .csiLongPacket port vc dt b false false ∧ s.fget (.csiPortCfg port.val) 31 31 = 1 ∧
          s.csiStream port.val vc.toNat dt.toNat = some n ∧ csiFmt dt.toNat = some f ∧ p = 1 + n ∧
          d = rawBytes f (csiSamples f b)) ∨
        (∃ (c : Fin 8) (b : List Byte) (f : PixFmt), i = .cxpLine c b false false ∧ p = 0x21 + c.val ∧
          s.fget (.cxpCamCfg c.val) 31 31 = 0 ∧ s.fget (.cxpCamCfg c.val) 11 11 = 0 ∧ s.srcField p 28 27 = 0 ∧
          cxpFmt (s.fget (.cxpCamCfg c.val) 22 17) = some f ∧ o.seen + 1 < o.rows ∧
          d = rawBytes f (cxpSamples f b))) →
      (s.source p).opened = some o → g = s.inUse p 0 → o.seen < geomH g → o.flags = 0 → s.slotHeld o = true →
      o.seen * geomP g + d.length ≤ s.ringStride o.ring → s.eccClean = true →
      s.xlatRange (s.ringCtx o.ring) (s.slotVa o.ring o.slot + o.seen * geomP g) d.length true = .ok ps →
      s.piecesCheck .gallery false true ps = (none, s) → (pieceAddrs ps).Nodup → (∀ q ∈ ps, s.linkDown q.1 = false) →
      ∃ t q, exec i s = .next t ∧ t = { s with mem := t.mem, sources := t.sources, free := t.free, slc := t.slc } ∧
        (pieceAddrs ps).map t.byte = d ∧ (∀ x, x ∉ pieceAddrs ps → t.byte x = s.byte x) ∧ (t.source p).opened = some q ∧ q.seen = o.seen + 1 ∧
        q.lines = o.lines + 1 ∧ q.bytes = o.bytes + d.length ∧ q.flags = 0) ∧
    (∀ (c : Fin 8) (b : List Byte) (f : PixFmt) (o : OpenSlot), (s.source (0x21 + c.val)).opened = some o →
      s.fget (.cxpCamCfg c.val) 31 31 = 0 → s.fget (.cxpCamCfg c.val) 11 11 = 0 →
      cxpFmt (s.fget (.cxpCamCfg c.val) 22 17) = some f →
      (geomH (s.inUse (0x21 + c.val) 0) ≤ o.seen → o.seen + 1 < o.rows →
        ∃ t q, exec (.cxpLine c b false false) s = .next t ∧ t = { s with sources := t.sources, free := t.free } ∧
          (t.source (0x21 + c.val)).opened = some q ∧ q.seen = o.seen + 1 ∧ q.flags = o.flags ||| flOverlong ∧
          q.lines = o.lines ∧ q.bytes = o.bytes) ∧
      (o.rows ≤ o.seen + 1 →
        ∃ t, exec (.cxpLine c b false false) s = .next t ∧ (t.source (0x21 + c.val)).opened = none)) ∧
    (∀ (port : Fin 8) (vc : BitVec 4) (dt : BitVec 6) (b : List Byte), s.fget (.csiPortCfg port.val) 31 31 = 1 →
      s.csiStream port.val vc.toNat dt.toNat = none →
      ∃ t, exec (.csiLongPacket port vc dt b false false) s = .next t ∧ s.onlyRegs t [.csiDtdrop port.val] ∧
        t.rget (.csiDtdrop port.val) = (s.rget (.csiDtdrop port.val) + 1) % 2 ^ 64) ∧
    (∀ (n : Fin 32) (o : OpenSlot), (s.source (1 + n.val)).opened = some o → s.slotHeld o = true →
      (s.ring o.ring).state = 1 → (∀ e j d ro, e < 6 → (s.eng e).run ≠ .waitRing j d ro) →
      ∃ t, exec (.csiFrameEnd n) s = .next t ∧ (t.source (1 + n.val)).opened = none ∧
        (t.ring o.ring).pseq = (s.ring o.ring).pseq + 1 ∧ (t.ring o.ring).prod = none ∧ (t.ring o.ring).drops = 0) ∧
    (∀ (g : Fin 8) (p b : Nat) (ps : List (Nat × Nat)) (l : LfcIn) (ls : List LfcIn) (o : OpenSlot) (px es : List Nat) (d : List Byte),
      p = 0x29 + g.val → (s.source p).lines = l :: ls → (s.source p).opened = some o →
      o.seen + 1 < geomH (s.rget (.lfcGeom g.val)) → l.lost = false → l.crc = false → l.noTrig = false →
      s.srcField p 19 19 = 1 → s.fget (.lfcCfg g.val) 11 11 = 0 → s.eccClean = true → o.flags = 0 → s.slotHeld o = true →
      px = l.pixels.take (geomW (s.rget (.lfcGeom g.val))) →
      b = s.fget (if bits (s.inUse p 0) 29 29 = 1 then .lfcTbase1 g.val else .lfcTbase0 g.val) 47 6 * 64 →
      es = (List.range px.length).map (fun i => s.field (b + 4 * i) 4) → d = (lfcLineBytes (s.inUse p 0) es px).1 →
      o.seen * geomP (s.rget (.lfcGeom g.val)) + d.length ≤ s.ringStride o.ring →
      s.xlatRange (s.ringCtx o.ring) (s.slotVa o.ring o.slot + o.seen * geomP (s.rget (.lfcGeom g.val))) d.length true =
        .ok ps →
      s.piecesCheck .gallery false true ps = (none, s) → (pieceAddrs ps).Nodup → (∀ q ∈ ps, s.linkDown q.1 = false) →
      ∃ t q, exec (.lfcLine g) s = .next t ∧
        t = { s with mem := t.mem, sources := t.sources, regs := t.regs, slc := t.slc } ∧
        (pieceAddrs ps).map t.byte = d ∧ (∀ x, x ∉ pieceAddrs ps → t.byte x = s.byte x) ∧
        s.regsBut t [.srcErr 2 g.val, .gsPf 1] ∧ (t.source p).lines = ls ∧
        (t.source p).opened = some q ∧ q.seen = o.seen + 1 ∧ q.lines = o.lines + 1 ∧ q.bytes = o.bytes + d.length) ∧
    (∀ (w : World) (c : Fin 8), s.admits w (.cxpCcCtl c.val) true →
      ∃ t, exec (.cxpControlGo w c) s = .next t ∧ s.onlyRegs t [.cxpCcCtl c.val] ∧ t.fget (.cxpCcCtl c.val) 31 31 = 1) ∧
    (∀ (c : Fin 8) (k : Byte) (v : W32), s.fget (.cxpCcCtl c.val) 31 31 = 1 →
      ∃ t, exec (.cxpControlAck c k v) s = .next t ∧ s.onlyRegs t [.cxpCcCtl c.val, .cxpCcData c.val] ∧
        t.fget (.cxpCcCtl c.val) 31 31 = 0 ∧ t.fget (.cxpCcCtl c.val) 23 16 = k.toNat ∧
        t.rget (.cxpCcData c.val) = if s.fget (.cxpCcCtl c.val) 30 30 = 0 then v.toNat else s.rget (.cxpCcData c.val)) ∧
    (∀ c : Fin 8, s.fget (.cxpCcCtl c.val) 31 31 = 1 →
      ∃ t, exec (.cxpControlTimeout c) s = .next t ∧ s.onlyRegs t [.cxpCcCtl c.val] ∧
        t.fget (.cxpCcCtl c.val) 31 31 = 0 ∧ t.fget (.cxpCcCtl c.val) 0 0 = 1) ∧
    (∀ (c : Fin 8) (k : Byte) (v : W32), s.fget (.cxpCcCtl c.val) 31 31 = 0 →
      exec (.cxpControlAck c k v) s = .next s ∧ exec (.cxpControlTimeout c) s = .next s) ∧
    (∀ g : Fin 8, (s.source (0x29 + g.val)).lines = [] → exec (.lfcLine g) s = .next s) ∧
    (∀ n : Fin 32, (s.source (1 + n.val)).opened = none → exec (.csiFrameEnd n) s = .next s)

/-- R349 to R354: an idle pipeline takes the context that is its turn, and at the start of a frame its parameter block,
and does nothing while it is busy or no context is ready; a stripe that does not end the frame writes its rows of the
output and no other byte, and one whose slots are gone gives its turn up. A frame keeps the input slot and format with
which it began. An encoder or the decoder with a session whose turn it is, and whose slots it has taken, releases its
input and publishes its output, but a picture coded to more than its slot is counted and its slot stays free; with no
such session it does nothing. After a stream error the decoder consumes units without output up to the next key
picture. What the bits of a picture are is left open (log entry 51). -/
def Obligations.PipelinesAndCodecs : Prop :=
  ∀ s : State,
    (∀ (i : Fin 2) (x a : Nat), (s.ipp i.val).cur = none → s.ippNext i.val = some x →
      ((mfind (s.ipp i.val).row x).isSome = true →
        exec (.ippContextSwitch i) s = .next (s.setIpp i.val { s.ipp i.val with cur := some x, rr := x })) ∧
      (mfind (s.ipp i.val).row x = none → (s.source (ippPrimary i.val x)).pending = false →
        a = bits (s.inUse (ippPrimary i.val x) 1) 43 6 * 64 → s.eccClean = true →
        s.piecesCheck .gallery false false (cutPhys 3 a 40960) = (none, s) →
        ∃ t, exec (.ippContextSwitch i) s = .next t ∧ t = { s with ipps := t.ipps, slc := t.slc, regs := t.regs } ∧
          s.regsBut t [.gsPf 1] ∧ (t.ipp i.val).cur = some x ∧ (t.ipp i.val).rr = x ∧
          mfind (t.ipp i.val).param x = some ((cutPhys 3 a 40960).flatMap fun p => s.bytes p.1 p.2))) ∧
    (∀ i : Fin 2, (s.ipp i.val).cur.isSome = true ∨ s.ippNext i.val = none → exec (.ippContextSwitch i) s = .next s) ∧
    (∀ (i : Fin 2) (x : Nat), (s.ipp i.val).cur = some x → mfind (s.ipp i.val).row x = none →
      (s.slotWaits (s.inRing i.val x) (s.inPort i.val x) && s.slotFree (ippPrimary i.val x)) = false →
      exec (.ippStripe i) s = .next (s.setIpp i.val { s.ipp i.val with cur := none })) ∧
    (∀ i : Fin 2, (s.ipp i.val).cur = none → exec (.ippStripe i) s = .next s) ∧
    (∀ (i : Fin 2) (x r k p r0 n : Nat) (hold : HeldSlot) (o : OpenSlot) (g : PixFmt × Nat) (rows : List (List Nat))
        (f : IppFrame) (cfg : OutCfg) (u v : State) (ps : Nat → List (Nat × Nat)),
      (s.ipp i.val).cur = some x → (mfind (s.ipp i.val).row x).isSome = true → mfind (s.ipp i.val).src x = some (r, k, g) →
      p = ippPrimary i.val x → mfind (s.ring r).cons k = some hold → mfind (s.ipp i.val).out x = some o → u = s.setIpp i.val { s.ipp i.val with cur := none } →
      u.rawRows r hold.slot g.1 g.2 (geomH g.2) = (rows, v) → (v.ipp i.val).cur = none →
      mfind (v.ipp i.val).row x = some r0 →
      f = ⟨geomW g.2, geomH g.2, g.1.samples, rows, mget (fun _ => []) (v.ipp i.val).param x,
        fun k => Config.freeValue (v.free + k)⟩ →
      cfg = outCfg (v.inUse p 2) → v.fget (.ippCxIn i.val x) 31 31 = 1 → n = bits (v.inUse p 0) 15 0 →
      r0 + n < ippH f cfg → cfg.ofmt ≠ 3 → o.flags = 0 → v.slotHeld o = true →
      (r0 + n) * outPitch f cfg ≤ v.ringStride o.ring → v.eccClean = true →
      (∀ d, d < n → v.xlatRange (v.ringCtx o.ring) (v.slotVa o.ring o.slot + (r0 + d) * outPitch f cfg) (outPitch f cfg) true =
          .ok (ps d) ∧ v.piecesCheck .gallery false true (ps d) = (none, v) ∧ (pieceAddrs (ps d)).Nodup ∧
        ∀ q ∈ ps d, v.linkDown q.1 = false) →
      (∀ d e, d < n → e < n → d ≠ e → ∀ y ∈ pieceAddrs (ps d), y ∉ pieceAddrs (ps e)) →
      ∃ t, exec (.ippStripe i) s = .next t ∧ t = { v with mem := t.mem, ipps := t.ipps, free := t.free, slc := t.slc } ∧
        (t.ipp i.val).cur = none ∧ mfind (t.ipp i.val).row x = some (r0 + n) ∧
        (∀ d, d < n → (pieceAddrs (ps d)).map t.byte = f.outRow cfg (r0 + d)) ∧
        ∀ y, (∀ d, d < n → y ∉ pieceAddrs (ps d)) → t.byte y = v.byte y) ∧
    (∀ u : Fin 2, s.cdcNext u.val = none → exec (.encodePicture u) s = .next s) ∧
    (s.cdcNext 2 = none → exec .decodePicture s = .next s) ∧
    (∀ (u : Fin 2) (k : Nat) (rc d : List Byte) (o : OpenSlot) (v : State) (au : List Byte), s.cdcNext u.val = some k →
      s.cdcBegin u.val k = some (rc, d, o, v) →
      au = Config.encode (v.fget (.cdcCtl u.val k) 26 22) (mget (fun _ => 0) (v.codec u.val).rc k)
        (mget (fun _ => 0) (v.codec u.val).gop k == 0) v.free d →
      o.ring ≠ v.cdcRing u.val k → (v.ring (v.cdcRing u.val k)).state = 1 → (v.ring o.ring).state = 1 →
      (mfind (v.ring (v.cdcRing u.val k)).cons (v.cdcPort u.val k)).isSome = true →
      (∀ e j dd ro, e < 6 → (v.eng e).run ≠ .waitRing j dd ro) →
      ∃ t, exec (.encodePicture u) s = .next t ∧ (t.codec u.val).rr = k ∧
        (t.ring (v.cdcRing u.val k)).cseqOf (v.cdcPort u.val k) =
          (v.ring (v.cdcRing u.val k)).cseqOf (v.cdcPort u.val k) + 1 ∧
        (v.ringStride o.ring < au.length → (t.ring o.ring).prod = none ∧ (t.ring o.ring).pseq = (v.ring o.ring).pseq ∧
          (k < 16 → t.rget (.vencOversize u.val k) = (v.rget (.vencOversize u.val k) + 1) % 2 ^ 64) ∧
          mget (fun _ => 0) (t.codec u.val).gop k = 0) ∧
        (au.length ≤ v.ringStride o.ring → v.slotHeld o = true → (t.ring o.ring).pseq = (v.ring o.ring).pseq + 1)) ∧
    (∀ (k : Nat) (rc d : List Byte) (o : OpenSlot) (v : State), s.cdcNext 2 = some k → s.cdcBegin 2 k = some (rc, d, o, v) →
      mget (fun _ => false) (v.codec 2).skip k = false → o.ring ≠ v.cdcRing 2 k → (v.ring (v.cdcRing 2 k)).state = 1 →
      (v.ring o.ring).state = 1 → v.slotHeld o = true →
      (mfind (v.ring (v.cdcRing 2 k)).cons (v.cdcPort 2 k)).isSome = true → (∀ e j dd ro, e < 6 → (v.eng e).run ≠ .waitRing j dd ro) →
      ∃ t, exec .decodePicture s = .next t ∧ (t.codec 2).rr = k ∧ (t.ring o.ring).pseq = (v.ring o.ring).pseq + 1 ∧
        (t.ring (v.cdcRing 2 k)).cseqOf (v.cdcPort 2 k) = (v.ring (v.cdcRing 2 k)).cseqOf (v.cdcPort 2 k) + 1 ∧
        mget (fun _ => false) (t.codec 2).skip k = (Config.decode (v.fget (.cdcCtl 2 k) 26 22) v.free d).2) ∧
    (∀ (k : Nat) (rc d : List Byte) (o : OpenSlot) (v : State), s.cdcNext 2 = some k → s.cdcBegin 2 k = some (rc, d, o, v) →
      mget (fun _ => false) (v.codec 2).skip k = true → Config.keyUnit (v.fget (.cdcCtl 2 k) 26 22) d = false →
      o.ring ≠ v.cdcRing 2 k → (v.ring (v.cdcRing 2 k)).state = 1 → (v.ring o.ring).state = 1 →
      (mfind (v.ring (v.cdcRing 2 k)).cons (v.cdcPort 2 k)).isSome = true → (∀ e j dd ro, e < 6 → (v.eng e).run ≠ .waitRing j dd ro) →
      ∃ t, exec .decodePicture s = .next t ∧ (t.codec 2).rr = k ∧ (t.ring o.ring).prod = none ∧
        (t.ring o.ring).pseq = (v.ring o.ring).pseq ∧
        (t.ring (v.cdcRing 2 k)).cseqOf (v.cdcPort 2 k) = (v.ring (v.cdcRing 2 k)).cseqOf (v.cdcPort 2 k) + 1)

/-- R356 to R361: a step moves device time by its signed nanoseconds and not below zero, and is counted where no action is
queued; a read of TIME_SEC latches the rest, FREQ forms the increment while the servo is off and the value is in
range, a servo sample steps beyond its threshold with STEPEN or steers, and holdover keeps a rounded mean, once it is
due. Where no word is in error, Ethernet receives a frame within one 64 KiB piece into the next descriptor given, with
the stamp of a PTP event message, or drops and counts it, and sends from the next descriptor given one that asks for
no stamp; rings and buffers lie in DDR5. A Sync or Pdelay_Resp sent in one step over IEEE 802.3 carries the time and
its part below a nanosecond. The model's choices, no rules: which messages are events, the order of the writes, the
layout of a one-step message, and that a frame of more than 9,216 bytes is stored as received (log entries 26 and 86). -/
def Obligations.DeviceTimeAndEthernet : Prop :=
  ∀ s : State,
    (∀ (w : World) (v : W64), s.admits w .timeStepR true →
      ∃ t, exec (.timeStep w v) s = .next t ∧
        t.clock = s.clock.setTotal ((s.clock.total : Int) + v.toInt * 2 ^ 40).toNat) ∧
    (∀ (w : World) (v : W64), s.admits w .timeStepR true → s.line.queue = [] →
      ∃ t, exec (.timeStep w v) s = .next t ∧ t = { s with clock := t.clock, regs := t.regs } ∧ s.regsBut t [.timeSteps] ∧
        t.rget .timeSteps = (s.rget .timeSteps + 1) % 2 ^ 64 ∧
        t.clock = s.clock.setTotal ((s.clock.total : Int) + v.toInt * 2 ^ 40).toNat ∧
        (s.clock.ns + v.toNat < 1000000000 → s.clock.sec < 2 ^ 48 → s.clock.frac < 2 ^ 40 →
          t.clock = { s.clock with ns := s.clock.ns + v.toNat })) ∧
    (∀ w : World, s.admits w .timeSec false →
      exec (.timeSecRead w) s = .next { s with
        clock := { s.clock with latch := some (s.clock.ns * 65536 + s.clock.frac / 2 ^ 24) }
        resp := { ok := true, status := 0, data := leBytes 8 s.clock.sec } }) ∧
    (∀ (w : World) (v : W32), s.admits w .timeFreq true →
      (s.fget .timeSrvCtl 31 31 = 0 → -128000000 ≤ v.toInt → v.toInt ≤ 128000000 →
        ∃ t, exec (.timeFreqWrite w v) s = .next t ∧ t = { s with clock := t.clock, regs := t.regs } ∧
          s.regsBut t [.timeFreq] ∧ t.freq = v.toInt ∧
          t.clock = { s.clock with inc := increment v.toInt }) ∧
      (s.fget .timeSrvCtl 31 31 = 1 ∨ v.toInt < -128000000 ∨ 128000000 < v.toInt →
        exec (.timeFreqWrite w v) s = .next s)) ∧
    (∀ (w : World) (v : W64), s.admits w .timeSrvOfs true →
      (s.fget .timeSrvCtl 31 31 = 0 → exec (.servoSample w v) s = .next s) ∧
      (s.fget .timeSrvCtl 31 31 = 1 → s.fget .timeSrvCtl 30 30 = 1 →
        s.fget .timeSrvThr 63 32 * 65536 < v.toInt.natAbs → s.line.queue = [] →
        ∃ t, exec (.servoSample w v) s = .next t ∧
          t.clock = s.clock.setTotal ((s.clock.total : Int) - v.toInt * 2 ^ 24).toNat ∧ t.servo.state = 1 ∧
          t.servo.acc = 0 ∧ t.rget .timeSteps = (s.rget .timeSteps + 1) % 2 ^ 64 ∧ s.regsBut t [.timeSteps]) ∧
      (s.fget .timeSrvCtl 31 31 = 1 →
        (s.fget .timeSrvCtl 30 30 = 0 ∨ v.toInt.natAbs ≤ s.fget .timeSrvThr 63 32 * 65536) →
        ∃ t, exec (.servoSample w v) s = .next t ∧ s.regsBut t [.timeFreq] ∧ t.servo.acc = s.servo.acc + v.toInt ∧
          t.freq = clampI (-128000000) 128000000 (rneDiv
            (-256 * (v.toInt * 2 ^ s.fget .timeSrvCtl 19 16 + t.servo.acc * 2 ^ s.fget .timeSrvCtl 23 20))
            (2 ^ (s.fget .timeSrvCtl 23 20 + s.fget .timeSrvCtl 19 16 + 16))) ∧
          t.clock = { s.clock with inc := increment t.freq })) ∧
    (s.fget .timeSrvCtl 31 31 = 0 ∨ (s.servo.state ≠ 1 ∧ s.servo.state ≠ 2) ∨
        s.clock.ticks < s.servo.since + s.fget .timeSrvCtl 15 0 * 200000 → exec .holdoverEnter s = .next s) ∧
    (s.fget .timeSrvCtl 31 31 = 1 → s.servo.state = 1 ∨ s.servo.state = 2 →
      s.servo.since + s.fget .timeSrvCtl 15 0 * 200000 ≤ s.clock.ticks →
      (s.servo.hist = [] → exec .holdoverEnter s = .next { s with servo := { s.servo with state := 3 } }) ∧
      (s.servo.hist ≠ [] → (∀ f ∈ s.servo.hist, -128000000 ≤ f ∧ f ≤ 128000000) →
        ∃ t, exec .holdoverEnter s = .next t ∧ t.servo = { s.servo with state := 3 } ∧ s.regsBut t [.timeFreq] ∧
          (s.servo.hist.sum - t.freq * s.servo.hist.length).natAbs < s.servo.hist.length ∧
          t.clock = { s.clock with inc := increment t.freq })) ∧
    (∀ (p : Fin 2) (f : List Byte) (c : Bool), s.fget (.ethCfg p.val) 31 31 = 0 → exec (.ethReceive p f c) s = .next s) ∧
    (∀ (p : Fin 2) (f : List Byte) (c : Bool), s.fget (.ethCfg p.val) 31 31 = 1 →
      s.fget (.ethIdx p.val) 15 0 = s.fget (.ethIdx p.val) 31 16 →
      ∃ t, exec (.ethReceive p f c) s = .next t ∧ s.onlyRegs t [.ethRxdrop p.val] ∧
        t.rget (.ethRxdrop p.val) = (s.rget (.ethRxdrop p.val) + 1) % 2 ^ 64) ∧
    (∀ (p : Fin 2) (f : List Byte) (c : Bool) (k d b : Nat), s.fget (.ethCfg p.val) 31 31 = 1 →
      k = s.fget (.ethIdx p.val) 31 16 → s.fget (.ethIdx p.val) 15 0 ≠ k → d = s.ethDesc (.ethRxring p.val) k →
      b = s.field d 8 / 64 * 64 → s.eccClean = true → 1 ≤ f.length → f.length < 65536 → b % 65536 + f.length ≤ 65536 →
      inDdr5 d 32 = true → inDdr5 b f.length = true → b + f.length ≤ d ∨ d + 32 ≤ b → s.linkDown b = false →
      s.piecesCheck .gallery false false [(d, 32)] = (none, s) → s.piecesCheck .gallery false true [(b, f.length)] = (none, s) →
      s.piecesCheck .gallery false true [(d + 8, 3)] = (none, s) →
      s.piecesCheck .gallery false true [(d + 16, 10)] = (none, s) →
      ∃ t, exec (.ethReceive p f c) s = .next t ∧ t = { s with mem := t.mem, regs := t.regs, slc := t.slc } ∧
        s.regsBut t [.ethIdx p.val, .gsPf 1] ∧ t.bytes b f.length = f ∧ t.field (d + 8) 2 = f.length ∧
        t.field (d + 10) 1 = 1 + 2 * (if ptpEvent f = true then 1 else 0) + 8 * (if c then 1 else 0) ∧
        (ptpEvent f = true → t.field (d + 16) 8 = (s.now - s.fget (.ethTslat p.val) 31 16) % 2 ^ 64) ∧
        (∀ x, x < b ∨ b + f.length ≤ x → x < d + 8 ∨ d + 11 ≤ x → ptpEvent f = false ∨ x < d + 16 ∨ d + 26 ≤ x →
          t.byte x = s.byte x) ∧
        t.fget (.ethIdx p.val) 31 16 = (k + 1) % 65536 ∧ t.fget (.ethIdx p.val) 15 0 = s.fget (.ethIdx p.val) 15 0) ∧
    (∀ (p : Fin 2) (k d b n : Nat), s.fget (.ethCfg p.val) 31 31 = 1 → k = s.fget (.ethIdx p.val) 63 48 →
      s.fget (.ethIdx p.val) 47 32 ≠ k → d = s.ethDesc (.ethTxring p.val) k → b = s.field d 8 / 64 * 64 →
      n = s.field (d + 8) 2 → s.eccClean = true → 1 ≤ n → b % 65536 + n ≤ 65536 → inDdr5 d 32 = true → inDdr5 b n = true →
      s.field (d + 10) 1 / 2 % 4 = 0 → s.piecesCheck .gallery false false [(d, 32)] = (none, s) →
      s.piecesCheck .gallery false false [(b, n)] = (none, s) → s.piecesCheck .gallery false true [(d + 10, 1)] = (none, s) →
      ∃ t, exec (.ethTransmit p) s = .next t ∧ t = { s with mem := t.mem, regs := t.regs, resp := t.resp, slc := t.slc } ∧
        s.regsBut t [.ethIdx p.val, .gsPf 1] ∧ t.resp = { ok := true, status := 0, data := s.bytes b n } ∧
        t.field (d + 10) 1 % 2 = 1 ∧ s.bytesBut t (d + 10) 1 ∧ t.fget (.ethIdx p.val) 63 48 = (k + 1) % 65536) ∧
    (∀ (f : List Byte) (u frac m : Nat), ptpAt f = some ⟨m, none⟩ → fieldAt f m 1 % 16 = 0 ∨ fieldAt f m 1 % 16 = 3 →
      m + 44 ≤ f.length → (oneStep f u frac).length = f.length ∧
        ((oneStep f u frac).drop (m + 34)).take 10 = beBytes 6 (u / 1000000000 % 2 ^ 48) ++ beBytes 4 (u % 1000000000) ∧
        ((oneStep f u frac).drop (m + 8)).take 8 = beBytes 8 ((beNat ((f.drop (m + 8)).take 8) + frac) % 2 ^ 64) ∧
        ∀ i, i < m + 8 ∨ (m + 16 ≤ i ∧ i < m + 34) ∨ m + 44 ≤ i → (oneStep f u frac)[i]? = f[i]?) ∧
    (∀ p : Fin 2, s.fget (.ethCfg p.val) 31 31 = 0 ∨ s.fget (.ethIdx p.val) 47 32 = s.fget (.ethIdx p.val) 63 48 →
      exec (.ethTransmit p) s = .next s)

/-- R362 to R371, R376: a level of an encoder input is accepted once FILT + 1 samples have shown it, at the time at which
it was first seen; an accepted edge moves the position of its encoder or counts an error, an accepted rising edge of Z
latches and may clear it, a span's end records it, a silent encoder loses its speed and its records, and a write of
ENC_JOB starts a roll job. An action channel whose turn it is fetches its entry, which is queued in the order of
acceptance or counted as dropped; a due action by time, first in the queue, drives its pin or requests a CAN frame and
is counted; a pin whose due actions leave its level makes no edge; the trailing edge of a pulse ends it, behind a due
action of its pin that was accepted earlier; and a channel that is disabled discards its actions where it flushes. The
order of what is due together on a pin is the model's reading (log entry 47). -/
def Obligations.EncodersAndActions : Prop :=
  ∀ (s : State) (e : Fin 4) (x : Enc) (n : Nat), x = s.enc e.val → n = s.encField e.val 26 25 →
    (∀ (seen : Option (Nat × Nat)) (l m : Bool) (f : Nat × Nat) (k u v : Nat), f = seen.getD (u, v) →
      inputFilter seen l m k u v = if m = l then (none, none) else if f.1 + k ≤ max u f.1 then (none, some f) else (some f, none)) ∧
    (∀ a b : Bool, a = x.a → b = x.b → exec (.encoderCount e a b) s = .next (s.setEnc e.val { x with ca := none, cb := none })) ∧
    (∀ (a b : Bool) (c : Nat × Nat), inputFilter x.ca x.a a n s.clock.ticks s.now = (some c, none) → b = x.b →
      exec (.encoderCount e a b) s = .next (s.setEnc e.val { x with ca := some c, cb := none })) ∧
    (∀ (a b : Bool) (p : Nat × Nat),
      (inputFilter x.ca x.a a n s.clock.ticks s.now = (none, some p) ∧ b = x.b) ∨
        (a = x.a ∧ inputFilter x.cb x.b b n s.clock.ticks s.now = (none, some p)) →
      (s.encField e.val 31 31 = 0 →
        ∃ t, exec (.encoderCount e a b) s = .next t ∧ t = { s with encs := t.encs } ∧
          t.enc e.val = { x with a := a, b := b, ca := none, cb := none } ∧ ∀ f, f ≠ e.val → t.enc f = s.enc f) ∧
      (∀ d : Int, s.encField e.val 31 31 = 1 → encDelta (s.encField e.val 30 29) x.a x.b a b = some d → d ≠ 0 →
        x.span = none → s.line.queue = [] →
        ∃ t y, exec (.encoderCount e a b) s = .next t ∧ t = { s with encs := t.encs } ∧ t.enc e.val = y ∧ y.a = a ∧ y.b = b ∧
          y.pos = posAdd x.pos (if s.encField e.val 28 28 = 1 then -d else d) ∧ y.last = p.2 ∧
          y.tick = s.clock.ticks ∧ y.span.isSome = true ∧ y.speed = x.speed ∧ y.recs = x.recs ∧
          ∀ f, f ≠ e.val → t.enc f = s.enc f)) ∧
    (∀ (a b : Bool) (p q : Nat × Nat), inputFilter x.ca x.a a n s.clock.ticks s.now = (none, some p) →
      inputFilter x.cb x.b b n s.clock.ticks s.now = (none, some q) → p.1 = q.1 →
      s.encField e.val 31 31 = 1 → encDelta (s.encField e.val 30 29) x.a x.b a b = none →
      ∃ t, exec (.encoderCount e a b) s = .next t ∧ t = { s with encs := t.encs, regs := t.regs } ∧
        (t.enc e.val).pos = x.pos ∧ s.regsBut t [.encErr e.val] ∧
        t.rget (.encErr e.val) = (s.rget (.encErr e.val) + 1) % 2 ^ 64) ∧
    (∀ p : Nat × Nat, inputFilter x.cz x.z true n s.clock.ticks s.now = (none, some p) → s.encField e.val 31 31 = 1 →
      x.span = none → s.line.queue = [] →
      ∃ t y, exec (.encoderIndex ⟨e, true⟩) s = .next t ∧ t = { s with encs := t.encs } ∧
        y = { x with cz := none, z := true, idxp := x.pos, idxt := p.2 } ∧
        t.enc e.val = if s.encField e.val 27 27 = 1 then y.move 0 else y) ∧
    (∀ z : Bool, z = x.z → exec (.encoderIndex ⟨e, z⟩) s = .next (s.setEnc e.val { x with cz := none })) ∧
    ((∀ n, x.span = some n → s.clock.ticks < n) → exec (.encoderRecord e) s = .next s) ∧
    (∀ (n : Nat) (l : List (Nat × Nat)) (o : Nat × Nat), x.span = some n → n ≤ s.clock.ticks → s.line.queue = [] →
      l = ((x.last, x.lp) :: x.recs).take (2 ^ s.encField e.val 24 22 + 1) → l.getLast? = some o → 2 ≤ l.length →
      o.1 < x.last →
      ∃ t, exec (.encoderRecord e) s = .next t ∧ t = { s with encs := t.encs } ∧ t.enc e.val = { x with
        recs := l, span := none, speed := rneDiv (posDiff x.lp o.2 * 65536000000000) (x.last - o.1) }) ∧
    (x.tick + 64 * s.spanCycles e.val ≤ s.clock.ticks →
      ∃ t, exec (.speedTimeout e) s = .next t ∧ t.enc e.val = { x with speed := 0, recs := [], span := none } ∧
        t.mem = s.mem ∧ t.regs = s.regs ∧ (x.span = none → t = { s with encs := t.encs })) ∧
    (s.clock.ticks < x.tick + 64 * s.spanCycles e.val → (∀ n, x.span = some n → s.clock.ticks < n) →
      exec (.speedTimeout e) s = .next s) ∧
    (∀ (w : World) (v : W64), s.admits w (.encJob e.val) true →
      ∃ t, exec (.rollJobStart w e v) s = .next t ∧ t = { s with encs := t.encs, regs := t.regs } ∧
        t.enc e.val = { x with job0 := x.pos, job := true, top := 0 } ∧ s.regsBut t [.encJob e.val] ∧
        t.rget (.encJob e.val) = v.toNat) ∧
    (∀ (k : Fin 16) (u v : State) (b : List Byte), u = { s with line := { s.line with rr := k.val } } →
      nextRr 16 s.line.rr s.chanReady = some k.val → s.burst k.val = 1 →
      u.vread .gallery (s.fget (.taqCfg k.val) 11 0)
        (s.fget (.taqBase k.val) 47 12 * 4096 + 32 * ((s.chan k.val).fetched % s.chanSize k.val)) 32 = (.ok b, v) →
      b.length = 32 →
      (∀ a : Act, actOf k.val b = some a → a.op ≠ 0 → a.byPos = false → v.now ≤ a.when_ →
        ∃ t, exec (.actionFetch k) s = .next t ∧
          t.line = { v.line with queue := v.line.queue ++ [{ a with seq := v.line.seq }], seq := v.line.seq + 1 } ∧
          t.chan k.val = { s.chan k.val with fetched := (s.chan k.val).fetched + 1 } ∧ t.mem = v.mem) ∧
      (actOf k.val b = none →
        ∃ t, exec (.actionFetch k) s = .next t ∧ t.line = v.line ∧
          t.rget (.taqDropped k.val) = (v.rget (.taqDropped k.val) + 1) % 2 ^ 64 ∧
          t.chan k.val = { s.chan k.val with fetched := (s.chan k.val).fetched + 1 } ∧ t.mem = v.mem)) ∧
    (∀ k : Fin 16, nextRr 16 s.line.rr s.chanReady ≠ some k.val → exec (.actionFetch k) s = .next s) ∧
    (∀ (a : Act) (l : List Act), s.lineRuns = true → s.line.queue = a :: l → a.byPos = false → a.when_ ≤ s.now →
      a.chan < 16 → a.seq < s.line.seq → (∀ b ∈ l, b.seq ≠ a.seq) →
      (a.op = 1 ∨ a.op = 2 ∨ a.op = 3 → a.target < 32 → (∀ c, c < 8 → s.fget (.cxpCamCfg c) 11 11 = 0) →
        (∀ b ∈ l, b.op ≠ 4 → b.target = a.target → s.due b = false) →
        (∀ p ∈ s.line.edges, p.1 = a.target → s.now < p.2.1) → (a.op = 3 → s.now < a.when_ + a.width) →
        ∃ t, exec .actionFire s = .next t ∧ t = { s with line := t.line, regs := t.regs } ∧ t.line.queue = l ∧
          t.line.level = setBits s.line.level a.target a.target (if a.op = 2 then 0 else 1) ∧
          t.line.edges = s.line.edges ++ (if a.op = 3 then [(a.target, a.when_ + a.width, a.seq)] else []) ∧
          s.regsBut t [.taqFired a.chan] ∧ t.rget (.taqFired a.chan) = (s.rget (.taqFired a.chan) + 1) % 2 ^ 64) ∧
      (a.op = 4 → a.target < 32 → a.cansel < 2 →
        ∃ t, exec .actionFire s = .next t ∧ t = { s with line := { s.line with queue := l }, regs := t.regs } ∧
          s.regsBut t [.taqFired a.chan, .canTxreqR a.cansel] ∧ t.fget (.canTxreqR a.cansel) a.target a.target = 1)) ∧
    (∀ a b : Act, s.lineRuns = true → s.line.queue = [a, b] → a.byPos = false → b.byPos = false → a.when_ ≤ s.now →
      b.when_ ≤ s.now → a.op = 1 → b.op = 2 → a.target = b.target → a.target < 32 → a.chan < 16 → b.chan = a.chan →
      a.seq < b.seq → b.seq < s.line.seq → s.line.edges = [] → bits s.line.level a.target a.target = 0 →
      ∃ t, exec .actionFire s = .next t ∧ t = { s with line := t.line, regs := t.regs } ∧ t.line.queue = [] ∧
        t.line.edges = [] ∧ bits t.line.level a.target a.target = 0 ∧ s.regsBut t [.taqFired a.chan] ∧
        t.rget (.taqFired a.chan) = (s.rget (.taqFired a.chan) + 2) % 2 ^ 64) ∧
    (s.lineRuns = false ∨ (∀ a ∈ s.line.queue, s.due a = false) → exec .actionFire s = .next s) ∧
    (∀ (p : Fin 32) (t n : Nat), s.line.edges = [(p.val, t, n)] → t ≤ s.now → n < s.line.seq →
      (s.lineRuns = false ∨ (∀ b ∈ s.line.queue, b.op ≠ 4 → b.target = p.val → s.due b = false) →
        exec (.pulseTrailingEdge p) s = .next { s with line := { s.line with
          edges := [], level := setBits s.line.level p.val p.val 0 } }) ∧
      (∀ a : Act, s.lineRuns = true → s.line.queue = [a] → a.byPos = false → a.when_ ≤ s.now → a.op = 1 → a.target = p.val →
        a.chan < 16 → a.seq < n → bits s.line.level p.val p.val = 1 →
        ∃ u, exec (.pulseTrailingEdge p) s = .next u ∧ u = { s with line := u.line, regs := u.regs } ∧ u.line.queue = [] ∧
          u.line.edges = [] ∧ bits u.line.level p.val p.val = 0)) ∧
    (∀ p : Fin 32, (∀ q ∈ s.line.edges, q.1 = p.val → s.now < q.2.1) → exec (.pulseTrailingEdge p) s = .next s) ∧
    (∀ (w : World) (k : Fin 16) (f : Bool), s.admits w (.taqCfg k.val) true → s.fget (.taqCfg k.val) 31 31 = 0 →
      ∃ t, exec (.actionChannelDisable w k f) s = .next t ∧ s.onlyRegs t [.taqCfg k.val] ∧
        t.fget (.taqCfg k.val) 31 31 = 0 ∧ t.fget (.taqCfg k.val) 30 30 = if f then 1 else 0) ∧
    (∀ (w : World) (k : Fin 16) (f : Bool), s.admits w (.taqCfg k.val) true → s.fget (.taqCfg k.val) 31 31 = 1 →
      ∃ t, exec (.actionChannelDisable w k f) s = .next t ∧
        t = { s with regs := t.regs, chans := t.chans, line := t.line } ∧ t.fget (.taqCfg k.val) 31 31 = 0 ∧
        t.chan k.val = { s.chan k.val with stopping := true } ∧ s.regsBut t [.taqCfg k.val, .taqDiscarded k.val] ∧
        if s.fget (.taqCfg k.val) 30 30 = 1 then
          t.line.queue = s.line.queue.filter (fun a => a.chan != k.val) ∧ t.rget (.taqDiscarded k.val) =
            (s.rget (.taqDiscarded k.val) + (s.line.queue.filter fun a => a.chan == k.val).length) % 2 ^ 64
        else t.line = s.line ∧ t.rget (.taqDiscarded k.val) = s.rget (.taqDiscarded k.val)) ∧
    (∀ k : Fin 16, (s.chan k.val).stopping = true →
      exec (.actionChannelDisabled k) s = .next (s.setChan k.val { s.chan k.val with state := 0, stopping := false })) ∧
    (∀ k : Fin 16, (s.chan k.val).stopping = false → exec (.actionChannelDisabled k) s = .next s)

/-- R373, R377: requested buffers are marked, a controller on the bus sends the requested buffer of the lowest identifier
with its time, receives into a FIFO of 64 with an overflow flag, a read of its last word pops the oldest record or,
with none held, answers eight bytes, and bus-off recovery, where it is enabled, leaves the state error active with
both error counts zero. The model's choices, no rules: how the error counts and STATE move, that a controller without
FD sends a classical frame and takes a CAN FD frame for an error, and the bytes behind a payload (log entry 53). -/
def Obligations.CanControllers : Prop :=
  ∀ (s : State) (c : Fin 2),
    (∀ (w : World) (v : W32), s.admits w (.canTxreqR c.val) true →
      ∃ t, exec (.canTxreq w c v) s = .next t ∧ s.onlyRegs t [.canTxreqR c.val] ∧
        ∀ b, b < 32 → (t.fget (.canTxreqR c.val) b b = 1 ↔ s.fget (.canTxreqR c.val) b b = 1 ∨ bits v.toNat b b = 1)) ∧
    (∀ b : Nat, s.canOn c.val = true → b < 32 → s.fget (.canTxreqR c.val) b b = 1 →
      (∀ k, k < 32 → k ≠ b → s.fget (.canTxreqR c.val) k k = 1 →
        s.fget (.canTxbuf c.val b 0) 28 0 < s.fget (.canTxbuf c.val k 0) 28 0 ∨
        (s.fget (.canTxbuf c.val b 0) 28 0 = s.fget (.canTxbuf c.val k 0) 28 0 ∧ b < k)) → s.now < 2 ^ 64 →
      (∃ t, exec (.canTransmit ⟨c, false⟩) s = .next t ∧ t = { s with regs := t.regs, resp := t.resp } ∧
        s.regsBut t [.canTxbuf c.val b 1, .canTxreqR c.val, .canCtl c.val] ∧ t.rget (.canTxbuf c.val b 1) = s.now ∧
        t.fget (.canTxreqR c.val) b b = 0 ∧
        (∀ k, k < 32 → k ≠ b → t.fget (.canTxreqR c.val) k k = s.fget (.canTxreqR c.val) k k) ∧
        t.canTec c.val = s.canTec c.val - 1 ∧ t.fget (.canCtl c.val) 31 26 = s.fget (.canCtl c.val) 31 26 ∧
        t.resp = { ok := true, status := 0,
                   data := if s.canFd c.val then t.canBuf c.val b else classical (t.canBuf c.val b) }) ∧
      ∃ t, exec (.canTransmit ⟨c, true⟩) s = .next t ∧ s.onlyRegs t [.canCtl c.val] ∧
        t.canTec c.val = min (s.canTec c.val + 8) 255 ∧ t.canRec c.val = s.canRec c.val ∧
        t.fget (.canCtl c.val) 25 24 = (if 256 ≤ s.canTec c.val + 8 then 2
          else if 128 ≤ s.canTec c.val + 8 ∨ 128 ≤ s.canRec c.val then 1 else 0)) ∧
    (∀ e : Bool, s.canOn c.val = false ∨ s.rget (.canTxreqR c.val) = 0 → exec (.canTransmit ⟨c, e⟩) s = .next s) ∧
    (∀ r : List Byte, s.canOn c.val = true → isFd r = false ∨ s.canFd c.val = true →
      ((s.canFifo c.val).length < 64 →
        ∃ t z, exec (.canReceive ⟨c, false⟩ r) s = .next t ∧ t = { s with canRx := t.canRx, free := t.free, regs := t.regs } ∧
          s.regsBut t [.canCtl c.val] ∧
          t.canFifo c.val = s.canFifo c.val ++ [leBytes 4 (fieldAt r 0 4) ++ leBytes 1 (fieldAt r 4 1 % 16) ++ leBytes 3 0 ++
            leBytes 8 s.now ++ leBytes (canLen r) (fieldAt r 16 (canLen r)) ++ z] ∧ z.length = 64 - canLen r) ∧
      (64 ≤ (s.canFifo c.val).length →
        ∃ t, exec (.canReceive ⟨c, false⟩ r) s = .next t ∧ s.onlyRegs t [.canRxstat c.val, .canCtl c.val] ∧
          t.fget (.canRxstat c.val) 7 7 = 1)) ∧
    (∀ (r : List Byte) (e : Bool), s.canOn c.val = true → e = true ∨ (isFd r = true ∧ s.canFd c.val = false) →
      ∃ t, exec (.canReceive ⟨c, e⟩ r) s = .next t ∧ s.onlyRegs t [.canCtl c.val] ∧
        t.canRec c.val = min (s.canRec c.val + 1) 255) ∧
    (∀ (r : List Byte) (e : Bool), s.canOn c.val = false → exec (.canReceive ⟨c, e⟩ r) s = .next s) ∧
    (s.fget (.canCtl c.val) 29 29 = 0 ∨ s.fget (.canCtl c.val) 25 24 ≠ 2 → exec (.busOffRecovery c) s = .next s) ∧
    (∀ (w : World) (r : List Byte) (l : List (List Byte)), s.admits w (.canRxhead c.val 9) false →
      s.canFifo c.val = r :: l →
      ∃ t, exec (.canRxPop w c) s = .next t ∧ t = { s with canRx := t.canRx, resp := t.resp } ∧ t.canFifo c.val = l ∧
        t.resp = { ok := true, status := 0, data := leBytes 8 (fieldAt r 72 8) }) ∧
    (∀ w : World, s.admits w (.canRxhead c.val 9) false → s.canFifo c.val = [] →
      ∃ t d, exec (.canRxPop w c) s = .next t ∧ t = { s with free := t.free, resp := t.resp } ∧
        t.resp = { ok := true, status := 0, data := d } ∧ d.length = 8) ∧
    (s.fget (.canCtl c.val) 29 29 = 1 → s.fget (.canCtl c.val) 25 24 = 2 →
      ∃ t, exec (.busOffRecovery c) s = .next t ∧ s.onlyRegs t [.canCtl c.val] ∧ t.fget (.canCtl c.val) 25 8 = 0)

/-- R409, R415, R419 to R423: the SEC takes the request at the head of the channel that is its turn and answers its
sender, whose channel is not held in reset and raises no interrupt for it. A reserved or malformed request answers
ST_REJECTED, a buffer in the Studio world for a Gallery sender ST_BOUND; a buffer that cannot be read, a counter below
2 or above 63 and an entry below 8 or above 63 answer a status left open (log entry 54). Where no word is in error,
ATTEST writes the report and its signature (log entry 15), GET_CERT a certificate (log entry 13); EXTEND extends M6
and no other; FLASH_UPDATE begins the update of the slot that does not run with a valid image (log entry 12); a
counter never falls; a key is written. While HOLD is set a non-volatile operation waits, or with NOWAIT answers
ST_NV_HELD. A row whose turn it is not does nothing. R374, R397, R398, R420, R422, in the order that is the model's
(log entry 12): an update that runs erases the sectors of its slot, programs its pages from the buffer, compares each
with the buffer, and then writes the slot select record to the copy that R422 names. Each erase and each program is
one flash command, performed, or while HOLD is set queued, or with NOWAIT or a full queue refused, which ends the
update with ST_NV_HELD. PROGRESS follows, reads 10,000 at the end and stands in a failure; a page that differs ends
the update with a status left open (log entry 54). The answer waits for room; an update whose command is held waits. -/
def Obligations.SecServices : Prop :=
  (∀ (s : State) (k : Fin 24) (rows : List (Instr × Nat)),
    rows = [(.attest k, 1), (.getCert k, 2), (.extend k, 3), (.flashUpdate k, 4), (.counterAdvance k, 5), (.keyWrite k, 6)] →
    (∀ (i : Instr) (op : Nat), (i, op) ∈ rows →
      (op = 4 → ∀ u, s.sec.upd = some u → u.ch ≠ k.val) →
      s.sec.up = false ∨ nextRr 24 s.sec.rr s.secReady ≠ some k.val ∨ s.slots k.val = [] ∨
        (∃ v l, s.slots k.val = v :: l ∧ v.toNat % 256 ≠ op ∧ v.toNat % 256 ≠ 0 ∧ v.toNat % 256 ≤ 6) →
      exec i s = .next s) ∧
    ∀ (x : State) (a : Nat) (v : W64) (l : List W64) (q : SecReq), s.sec.up = true →
      nextRr 24 s.sec.rr s.secReady = some k.val → s.slots k.val = v :: l → q = secReq k.val v.toNat →
      x = { s.takeHead k.val with sec := { s.sec with rr := k.val } } → s.answerCh k.val = some a → a ≠ k.val →
      (s.mbxReceiver a).any s.epReset = false → s.fget (.mbxCfg a) 62 62 = 0 ∨ s.slots a ≠ [] →
      s.mbxReceiver a ≠ some .hc ∨ s.pmc.pdHc = true →
      x.slots k.val = l ∧ (l ≠ [] ∨ s.fget (.mbxCfg k.val) 61 61 = 0 → x = { s with mbx := x.mbx, sec := x.sec }) ∧
      (∀ (i : Instr) (op : Nat), (i, op) ∈ rows → secBad k.val v.toNat = true →
        q.op = op ∨ q.op = 0 ∨ 6 < q.op → ∃ t, exec i s = .next t ∧ x.secAnswers t a q 0x10) ∧
      (∀ i : Instr, (i, q.op) ∈ rows → secBad k.val v.toNat = false →
        (k.val < 16 → s.touchesStudio q.buf (secBuf q.op) = true → ∃ t, exec i s = .next t ∧ x.secAnswers t a q 0x22) ∧
        (16 ≤ k.val ∨ s.touchesStudio q.buf (secBuf q.op) = false →
          (∀ u : State, x.secRead q.buf (secReads q.op) = (none, u) →
            ∃ t, exec i s = .next t ∧ u.secAnswers t a q (Config.openStatus 3)) ∧
          ∀ (b : List Byte) (u : State), x.secRead q.buf (secReads q.op) = (some b, u) →
            (q.op = 1 → u.sec.akValid = false → ∃ t, exec i s = .next t ∧ u.secAnswers t a q (Config.openStatus 4)) ∧
            (q.op = 1 → u.sec.akValid = true → u.eccClean = true →
              u.piecesCheck .studio true true (cutPhys 2 q.buf 512) = (none, u) →
              (∀ p ∈ cutPhys 2 q.buf 512, u.linkDown p.1 = false) →
              ∃ w t : State, exec i s = .next t ∧ w = { u with mem := w.mem, slc := w.slc, free := u.free + 1 } ∧
                w.secAnswers t a q 0 ∧ u.bytesBut t q.buf 512 ∧
                t.bytes q.buf 512 = u.report b ++ ecdsaSign u.sec.ak (sha256 (u.report b)) u.free) ∧
            (q.op = 2 → u.cert (fieldAt b 0 1) = none → ∃ t, exec i s = .next t ∧ u.secAnswers t a q 0x10) ∧
            (∀ (c : List Byte) (n : Nat), q.op = 2 → u.cert (fieldAt b 0 1) = some c → c.length ≤ 2044 → n = 4 + c.length →
              u.eccClean = true → u.piecesCheck .studio true true (cutPhys 2 q.buf n) = (none, u) →
              (∀ p ∈ cutPhys 2 q.buf n, u.linkDown p.1 = false) →
              ∃ w t : State, exec i s = .next t ∧ w = { u with mem := w.mem, slc := w.slc } ∧ w.secAnswers t a q 0 ∧
                u.bytesBut t q.buf n ∧ t.field q.buf 4 = c.length ∧ t.bytes (q.buf + 4) c.length = c) ∧
            (q.op = 3 → ∃ w t : State, exec i s = .next t ∧ w = { u with sec := w.sec } ∧ w.secAnswers t a q 0 ∧
              t.meas 6 = beNat (sha256 (beBytes 32 (u.meas 6) ++ b)) ∧ (∀ j, j ≠ 6 → t.meas j = u.meas j) ∧
              t.sec = { u.sec with meas := t.sec.meas }) ∧
            (q.op = 4 → u.sec.upd.isSome = true ∨ fieldAt b 8 4 = 0 ∨ 2 ^ 25 < fieldAt b 8 4 →
              ∃ t, exec i s = .next t ∧ u.secAnswers t a q 0x10) ∧
            (∀ n d : Nat, q.op = 4 → u.sec.upd = none → n = fieldAt b 8 4 → d = fieldAt b 0 8 → 1 ≤ n → n ≤ 2 ^ 25 →
              (k.val < 16 → u.touchesStudio d n = true → ∃ t, exec i s = .next t ∧ u.secAnswers t a q 0x22) ∧
              (16 ≤ k.val ∨ u.touchesStudio d n = false →
                (∀ w : State, u.secRead d n = (none, w) →
                  ∃ t, exec i s = .next t ∧ w.secAnswers t a q (Config.openStatus 3)) ∧
                ∀ (img : List Byte) (w : State), u.secRead d n = (some img, w) →
                  (w.imageOk img = false → ∃ y t : State, exec i s = .next t ∧ w.onlyRegs y [.secUpdStat] ∧
                    y.rget .secUpdStat = 2 ^ 30 ∧ y.secAnswers t a q 0x10) ∧
                  (w.imageOk img = true →
                    ∃ t, exec i s = .next t ∧ t = { w with
                        regs := t.regs
                        sec := { w.sec with upd := some ⟨k.val, q.tag, q.nowait, d, img.length, 1 - w.sec.slot, 0, false, false⟩ } } ∧
                      w.regsBut t [.secUpdStat] ∧ t.rget .secUpdStat = 2 ^ 31))) ∧
            (q.op = 5 → fieldAt b 0 1 < 2 ∨ 63 < fieldAt b 0 1 →
              ∃ t, exec i s = .next t ∧ u.secAnswers t a q (Config.openStatus 5)) ∧
            (∀ c n : Nat, q.op = 5 → c = fieldAt b 0 1 → n = fieldAt b 1 1 → 2 ≤ c → c ≤ 63 →
              (n < u.ctr c ∨ 64 < n → ∃ t, exec i s = .next t ∧ u.secAnswers t a q 0x10) ∧
              (u.ctr c ≤ n → n ≤ 64 → u.pmc.hold = false →
                ∃ w t : State, exec i s = .next t ∧ w = { u with sec := { u.sec with otp := w.sec.otp } } ∧ w.secAnswers t a q 0 ∧
                  t.ctr c = n ∧ ∀ j, j ≠ 10 + c → t.otp j = u.otp j)) ∧
            (q.op = 6 → fieldAt b 0 1 < 8 ∨ 63 < fieldAt b 0 1 →
              ∃ t, exec i s = .next t ∧ u.secAnswers t a q (Config.openStatus 5)) ∧
            (q.op = 6 → 8 ≤ fieldAt b 0 1 → fieldAt b 0 1 ≤ 63 → u.pmc.hold = false →
              ∃ w t : State, exec i s = .next t ∧ w = { u with sec := { u.sec with keys := w.sec.keys } } ∧ w.secAnswers t a q 0 ∧
                t.keyEntry (fieldAt b 0 1) = b.drop 16 ∧ ∀ e, e ≠ fieldAt b 0 1 → t.keyEntry e = u.keyEntry e) ∧
            (∀ y : NvKind, u.pmc.hold = true →
              (q.op = 5 ∧ 2 ≤ fieldAt b 0 1 ∧ fieldAt b 0 1 ≤ 63 ∧ u.ctr (fieldAt b 0 1) ≤ fieldAt b 1 1 ∧
                fieldAt b 1 1 ≤ 64 ∧ y = .otp (10 + fieldAt b 0 1) (fieldAt b 1 1)) ∨
              (q.op = 6 ∧ 8 ≤ fieldAt b 0 1 ∧ fieldAt b 0 1 ≤ 63 ∧ y = .key (fieldAt b 0 1) (b.drop 16)) →
              (q.nowait = true ∨ 32 ≤ u.pmc.holdQ.length → ∃ t, exec i s = .next t ∧ u.secAnswers t a q 0x80) ∧
              (q.nowait = false → u.pmc.holdQ.length < 32 →
                exec i s = .next { u with pmc := { u.pmc with
                  holdQ := u.pmc.holdQ ++ [⟨y, some (k.val, q.op, q.tag)⟩]
                  order := u.pmc.order ++ [true]
                  heldOps := u.pmc.heldOps + 1 } }))))) ∧
  (∀ (s : State) (k : Fin 24) (u : FlashUpd), s.sec.upd = some u → u.ch = k.val →
    (u.waits = true → exec (.flashUpdate k) s = .next s) ∧
    (u.waits = false →
      (∀ (y : NvKind) (v : State) (d : List Byte),
        (u.done < u.sectors ∧ v = s ∧ d = [] ∧ y = .flashErase (u.slot * 2 ^ 25 + 4096 * u.done)) ∨
        (u.sectors ≤ u.done ∧ u.done < u.sectors + u.pages ∧ s.updPage u (u.done - u.sectors) = (some d, v) ∧
          y = .flashProgram (u.slot * 2 ^ 25 + 256 * (u.done - u.sectors)) d) ∨
        (u.done = u.body ∧ v = s.nextRec.2 ∧ d = [] ∧ y = .flashErase (recOff s.nextRec.1.1)) ∨
        (u.done = u.body + 1 ∧ v = s.nextRec.2 ∧ d = slotRecBytes s.nextRec.1.2 u.slot ∧
          y = .flashProgram (recOff s.nextRec.1.1) d) →
        (v.pmc.hold = false → v.sec.upd = some u →
          ∃ t, exec (.flashUpdate k) s = .next t ∧ t = { v with
              flash := t.flash, regs := t.regs, sec := { v.sec with upd := some { u with done := u.done + 1 } } } ∧
            v.regsBut t [.secUpdStat] ∧ t.rget .secUpdStat = 2 ^ 31 + FlashUpd.progress { u with done := u.done + 1 } ∧
            (∀ o x, y = .flashErase o → mget flashDefault t.flash x =
              if o ≤ x ∧ x < o + 4096 then 0xFF else mget flashDefault v.flash x) ∧
            (∀ o, y = .flashProgram o d → t.flashRead o d.length = d ∧
              ∀ x, x < o ∨ o + d.length ≤ x → mget flashDefault t.flash x = mget flashDefault v.flash x)) ∧
        (v.pmc.hold = true → u.nowait = false → v.pmc.holdQ.length < 32 →
          exec (.flashUpdate k) s = .next { v with
            sec := { v.sec with upd := some { u with waits := true, heldOp := true } }
            pmc := { v.pmc with
              holdQ := v.pmc.holdQ ++ [⟨y, none⟩], order := v.pmc.order ++ [true], heldOps := v.pmc.heldOps + 1 } }) ∧
        (v.pmc.hold = true → u.nowait = true ∨ 32 ≤ v.pmc.holdQ.length → ∀ a : Nat, v.answersTo k.val a →
          ∃ t, exec (.flashUpdate k) s = .next t ∧ v.updAnswers t a u (2 ^ 30 + u.progress) 0x80)) ∧
      (∀ (d : List Byte) (v : State), u.sectors + u.pages ≤ u.done → u.done < u.body →
        s.updPage u (u.done - u.sectors - u.pages) = (some d, v) → v.sec.upd = some u →
        (v.flashRead (u.slot * 2 ^ 25 + 256 * (u.done - u.sectors - u.pages)) d.length = d →
          ∃ t, exec (.flashUpdate k) s = .next t ∧ t = { v with
              regs := t.regs, sec := { v.sec with upd := some { u with done := u.done + 1 } } } ∧
            v.regsBut t [.secUpdStat] ∧ t.rget .secUpdStat = 2 ^ 31 + FlashUpd.progress { u with done := u.done + 1 }) ∧
        (v.flashRead (u.slot * 2 ^ 25 + 256 * (u.done - u.sectors - u.pages)) d.length ≠ d → ∀ a : Nat, v.answersTo k.val a →
          ∃ t, exec (.flashUpdate k) s = .next t ∧ v.updAnswers t a u (2 ^ 30 + u.progress) (Config.openStatus 6))) ∧
      (u.done = u.body + 2 →
        (∀ a : Nat, s.answersTo k.val a → ∃ t, exec (.flashUpdate k) s = .next t ∧ s.updAnswers t a u 10000 0) ∧
        (s.answerRoom k.val = false → exec (.flashUpdate k) s = .next s))))

/-- R404, R408, R425, R426: a challenge takes a new nonce, which is the one a response answers (log entry 17); a response
that authenticates extends M7 and opens its level, at once or, where level 3 first erases the key store, whose entries
then read 0xFF (log entry 14), and makes the lifecycle RMA, when HOLD is clear, the first of the held operations
standing for the rest (log entry 17); the third that fails locks debug, and while the SEC is down, debug is locked or
a grant waits a response does nothing. A locked descriptor ignores writes, the worlds of the fixed blocks do not move,
and the lock stays. -/
def Obligations.DebugAndRegions : Prop :=
  ∀ s : State,
    (∃ t z, exec .debugChallengeRead s = .next t ∧ t = { s with
        sec := { s.sec with nonceNo := s.sec.nonceNo + 1, nonce := some (Config.nonce (s.sec.nonceNo + 1)) }, free := t.free, resp := t.resp } ∧ t.resp.ok = true ∧
      t.resp.data = beBytes 32 (Config.nonce (s.sec.nonceNo + 1) % 2 ^ 256) ++ leBytes 8 (s.otp 74) ++
        leBytes 4 s.sysctlId ++ z ∧ z.length = 4) ∧
    (∀ r : List Byte, s.sec.up = false ∨ s.sec.locked = true ∨ s.debugBusy = true →
      exec (.debugResponseGo r) s = .next s) ∧
    (∀ r : List Byte, s.sec.up = true → s.sec.locked = false → s.debugBusy = false → s.debugOk r = true →
      fieldAt r 0 1 ≠ 3 ∨ s.lifecycle = 2 →
      ∃ t, exec (.debugResponseGo r) s = .next t ∧ t = { s with sec := t.sec } ∧ t.sec.dbgLvl = fieldAt r 0 1 ∧
        t.sec.dbgMax = max s.sec.dbgMax (fieldAt r 0 1) ∧ t.meas 7 =
          beNat (sha256 (beBytes 32 (s.meas 7) ++ beBytes 32 (beNat (sha256 (r.take 96))))) ∧
        (∀ i, i ≠ 7 → t.meas i = s.meas i) ∧ t.sec.keys = s.sec.keys ∧ t.sec.otp = s.sec.otp) ∧
    (∀ r : List Byte, s.sec.up = true → s.sec.locked = false → s.debugBusy = false → s.debugOk r = true →
      fieldAt r 0 1 = 3 → s.lifecycle ≠ 2 →
      (s.pmc.hold = false →
        ∃ t, exec (.debugResponseGo r) s = .next t ∧ t = { s with sec := t.sec } ∧ t.sec.dbgLvl = 3 ∧
          t.sec.dbgMax = max s.sec.dbgMax 3 ∧ t.lifecycle = 2 ∧ (∀ j, j ≠ 8 → t.otp j = s.otp j) ∧
          t.meas 7 = beNat (sha256 (beBytes 32 (s.meas 7) ++ beBytes 32 (beNat (sha256 (r.take 96))))) ∧
          ∀ e, e < 64 → t.keyEntry e = List.replicate 256 0xFF) ∧
      (s.pmc.hold = true → s.pmc.holdQ.length < 32 →
        exec (.debugResponseGo r) s = .next { s with pmc := { s.pmc with
          holdQ := s.pmc.holdQ ++ [⟨.rma (beNat (sha256 (r.take 96))), none⟩]
          order := s.pmc.order ++ [true]
          heldOps := s.pmc.heldOps + 1 } })) ∧
    (∀ r : List Byte, s.sec.up = true → s.sec.locked = false → s.debugBusy = false → s.debugOk r = false →
      exec (.debugResponseGo r) s = .next { s with sec := { s.sec with
        fails := min 3 (s.sec.fails + 1), locked := decide (3 ≤ s.sec.fails + 1) } }) ∧
    (∀ (w : World) (n : Fin 64) (c : Bool) (v : W64), s.fget (.secRgnCfg n.val) 3 3 = 1 →
      exec (.regionDescriptorWrite w n c v) s = .next s) ∧
    (∀ (w : World) (n : Fin 64) (v : W64), s.fget (.secRgnCfg n.val) 3 3 = 0 → s.admits w (.secRgnCfg n.val) true →
      ∃ t, exec (.regionDescriptorWrite w n true v) s = .next t ∧ s.onlyRegs t [.secRgnCfg n.val] ∧
        t.fget (.secRgnCfg n.val) 43 16 = bits v.toNat 43 16 ∧ t.fget (.secRgnCfg n.val) 3 0 = bits v.toNat 3 0) ∧
    (∀ (w : World) (n : Fin 64) (v : W64), s.fget (.secRgnCfg n.val) 3 3 = 0 → s.admits w (.secRgnBase n.val) true →
      ∃ t, exec (.regionDescriptorWrite w n false v) s = .next t ∧ s.onlyRegs t [.secRgnBase n.val] ∧
        t.fget (.secRgnBase n.val) 43 16 = bits v.toNat 43 16) ∧
    (∀ (w : World) (v : W64), s.rget .secLock % 2 = 1 →
      exec (.secBlkworldWrite w v) s = .next s ∧ exec (.secLockBlk w) s = .next s) ∧
    (∀ (w : World) (v : W64), s.rget .secLock % 2 = 0 → s.admits w .secBlkworld true →
      ∃ t, exec (.secBlkworldWrite w v) s = .next t ∧ s.onlyRegs t [.secBlkworld] ∧ ∀ b, b < 41 →
        t.fget .secBlkworld b b = if b ∈ [0, 1, 2, 3, 4, 26, 27, 28, 29, 30, 32, 33] then s.fget .secBlkworld b b
          else bits v.toNat b b) ∧
    (∀ w : World, s.rget .secLock % 2 = 0 → s.admits w .secLock true →
      ∃ t, exec (.secLockBlk w) s = .next t ∧ s.onlyRegs t [.secLock] ∧ t.rget .secLock % 2 = 1)

/-- R254, R388, R398, R445, R451 to R453: the hold bit of one core is written, and a core that is held is reset, one that
is released starts in machine mode at 0x040_0000_0000; a cluster reset holds all and clears their mailboxes. USB
attaches, and detaches ending the transfers in progress; a packet of an OUT transfer goes to the descriptor in turn,
which is completed by a short packet, at LEN or by a setup packet, an IN transfer sends the buffer; a ring without a
descriptor answers NAK and one with STALL set answers STALL (log entry 24). The root port issues and answers
configuration requests, writes to the drive or holds the write, gives a message of the drive to the application cores,
and admits inbound requests within its range (log entry 25). -/
def Obligations.CoresUsbRootPort : Prop :=
  ∀ s : State,
    (∀ (w : World) (k : Fin 8) (b : Bool), s.admits w .hclRst true →
      ∃ t, exec (if b then .hcHold w k else .hcRelease w k) s = .next t ∧ t = { s with regs := t.regs, cores := t.cores } ∧
        s.regsBut t [.hclRst, .hclStat] ∧
        (∀ j, j < 8 → t.fget .hclRst j j = if j = k.val then (if b then 1 else 0) else s.fget .hclRst j j) ∧
        (∀ j, j < 8 → t.fget .hclRst j j = 1 → mfind t.cores j = none ∧ t.fget .hclStat j j = 0) ∧
        (∀ j, j < 8 → t.fget .hclRst j j = 0 → t.fget .hclStat j j = s.fget .hclStat j j ∧
          mfind t.cores j = if s.fget .hclRst j j = 1 then some ⟨true, 0x4000000000⟩ else mfind s.cores j)) ∧
    (∀ w : World, s.admits w .hclRst true →
      ∃ t, exec (.cluster w) s = .next t ∧ t.fget .hclRst 7 0 = 255 ∧ (∀ j, j < 8 → mfind t.cores j = none) ∧ t.mem = s.mem ∧ t.engines = s.engines ∧
        ∀ k, k < 24 → t.slots k = if s.mbxReceiver k = some .hc then [] else s.slots k) ∧
    (∀ v : BitVec 2, exec (.usbAttach v) s = .next { s with usb := 4 + v.toNat }) ∧
    (s.usbAttached = false → exec .usbDetach s = .next s) ∧
    (s.usbAttached = true → ∃ t, exec .usbDetach s = .next t ∧ t.usb = 0 ∧ t.usbOut = [] ∧
      ∀ n, n < 16 → (∀ p ∈ s.usbOut, p.1 ≠ n) → t.rget (.usbEpIdx n) = s.rget (.usbEpIdx n)) ∧
    (s.usbAttached = true → s.usbOut = [] → exec .usbDetach s = .next { s with usb := 0 }) ∧
    (∀ n m d : Nat, s.usbAttached = true → n < 16 → s.usbOut = [(n, m)] →
      d = s.ethDesc (.usbEpRing n) (s.fget (.usbEpIdx n) 31 16) → s.eccClean = true → inDdr5 (d + 8) 3 = true →
      s.piecesCheck .gallery false true [(d + 8, 3)] = (none, s) →
      ∃ t, exec .usbDetach s = .next t ∧
        t = { s with usb := 0, usbOut := [], mem := t.mem, regs := t.regs, slc := t.slc } ∧
        s.regsBut t [.usbEpIdx n] ∧ s.bytesBut t (d + 8) 3 ∧ t.field (d + 8) 2 = 0 ∧ t.field (d + 10) 1 = 1 ∧
        t.fget (.usbEpIdx n) 31 16 = (s.fget (.usbEpIdx n) 31 16 + 1) % 65536 ∧
        t.fget (.usbEpIdx n) 15 0 = s.fget (.usbEpIdx n) 15 0) ∧
    (∀ (n : Fin 16) (b : List Byte) (c : Bool), s.usbAttached = true → s.fget .usbCtl 31 31 = 1 →
      s.fget (.usbEpCfg n.val) 31 31 = 1 →
      (s.fget (.usbEpCfg n.val) 30 30 = 1 → exec (.usbTransfer n b c) s =
        .next { s with resp := { ok := false, status := 2, data := if n.val % 2 = 0 then b else [] } }) ∧
      (s.fget (.usbEpCfg n.val) 30 30 = 0 → s.usbGiven n.val = false → exec (.usbTransfer n b c) s =
        .next { s with resp := { ok := false, status := 1, data := if n.val % 2 = 0 then b else [] } })) ∧
    (∀ (n : Fin 16) (d x len at_ : Nat) (b : List Byte) (c : Bool), s.usbAttached = true → s.fget .usbCtl 31 31 = 1 →
      s.fget (.usbEpCfg n.val) 31 30 = 2 → s.usbGiven n.val = true →
      d = s.ethDesc (.usbEpRing n.val) (s.fget (.usbEpIdx n.val) 31 16) → s.eccClean = true → inDdr5 d 32 = true →
      s.piecesCheck .gallery false false [(d, 32)] = (none, s) → s.piecesCheck .gallery false true [(d + 8, 3)] = (none, s) →
      len = s.field (d + 8) 2 → at_ = mget (fun _ => 0) s.usbOut n.val →
      (n.val % 2 = 0 → x = s.field d 8 / 64 * 64 + at_ → 1 ≤ b.length → b.length ≤ s.usbMps n.val → at_ + b.length ≤ len →
        x % 65536 + b.length ≤ 65536 → x + b.length ≤ d ∨ d + 32 ≤ x → inDdr5 x b.length = true →
        s.piecesCheck .gallery false true [(x, b.length)] = (none, s) →
        (b.length < s.usbMps n.val ∨ at_ + b.length = len ∨ c = true →
          ∃ t, exec (.usbTransfer n b c) s = .next t ∧
            t = { s with mem := t.mem, regs := t.regs, slc := t.slc, usbOut := merase n.val s.usbOut
                         resp := { ok := true, status := 0, data := [] } } ∧
            t.bytes x b.length = b ∧ t.field (d + 8) 2 = at_ + b.length ∧
            t.field (d + 10) 1 = 1 + (if c = true ∧ n.val = 0 then 16 else 0) ∧
            (∀ y, y < x ∨ x + b.length ≤ y → y < d + 8 ∨ d + 11 ≤ y → t.byte y = s.byte y) ∧
            s.regsBut t [.usbEpIdx n.val, .gsPf 1] ∧
            t.fget (.usbEpIdx n.val) 31 16 = (s.fget (.usbEpIdx n.val) 31 16 + 1) % 65536) ∧
        (b.length = s.usbMps n.val → at_ + b.length < len → c = false →
          ∃ t, exec (.usbTransfer n b c) s = .next t ∧
            t = { s with mem := t.mem, regs := t.regs, slc := t.slc, usbOut := minsert n.val (at_ + b.length) s.usbOut
                         resp := { ok := true, status := 0, data := [] } } ∧
            t.bytes x b.length = b ∧ s.bytesBut t x b.length ∧ s.regsBut t [.gsPf 1])) ∧
      (n.val % 2 = 1 → x = s.field d 8 / 64 * 64 → 1 ≤ len → x % 65536 + len ≤ 65536 → inDdr5 x len = true →
        s.piecesCheck .gallery false false [(x, len)] = (none, s) →
        ∃ t, exec (.usbTransfer n b c) s = .next t ∧
          t = { s with mem := t.mem, regs := t.regs, resp := t.resp, slc := t.slc } ∧
          t.resp = { ok := true, status := 0, data := s.bytes x len } ∧ t.field (d + 8) 2 = len ∧ t.field (d + 10) 1 = 1 ∧
          s.bytesBut t (d + 8) 3 ∧ s.regsBut t [.usbEpIdx n.val, .gsPf 1] ∧
          t.fget (.usbEpIdx n.val) 31 16 = (s.fget (.usbEpIdx n.val) 31 16 + 1) % 65536)) ∧
    (∀ (n : Fin 16) (b : List Byte) (c : Bool), s.usbAttached = false ∨ s.fget .usbCtl 31 31 = 0 ∨
        s.fget (.usbEpCfg n.val) 31 31 = 0 → exec (.usbTransfer n b c) s = .next s) ∧
    (∀ (w : World) (r : BitVec 12) (b : Bool), s.admits w .rpCfg true →
      ∃ t, exec (.pcierpCfgGo w b r) s = .next t ∧ s.onlyRegs t [.rpCfg] ∧ t.fget .rpCfg 31 31 = 1 ∧
        t.fget .rpCfg 30 30 = (if b then 1 else 0) ∧ t.fget .rpCfg 11 0 = r.toNat) ∧
    (∀ v : W32, s.fget .rpCfg 31 31 = 1 → s.pcie.rpWidth ≠ 0 →
      ∃ t, exec (.pcierpCfgCompletion false v) s = .next t ∧ s.onlyRegs t [.rpCfg, .rpCfgdata] ∧
        t.fget .rpCfg 31 31 = 0 ∧ t.fget .rpCfg 29 29 = s.fget .rpCfg 29 29 ∧
        t.rget .rpCfgdata = if s.fget .rpCfg 30 30 = 0 then v.toNat else s.rget .rpCfgdata) ∧
    (∀ (u : Bool) (v : W32), s.fget .rpCfg 31 31 = 0 ∨ s.pcie.rpWidth = 0 →
      exec (.pcierpCfgCompletion u v) s = .next s) ∧
    (s.fget .rpCfg 31 31 = 0 → exec .pcierpCfgTimeout s = .next s) ∧
    (∀ (v : W32) (i : Instr), s.fget .rpCfg 31 31 = 1 →
      (i = .pcierpCfgTimeout ∨ (i = .pcierpCfgCompletion true v ∧ s.pcie.rpWidth ≠ 0)) →
      ∃ t, exec i s = .next t ∧ s.onlyRegs t [.rpCfg, .rpCfgdata] ∧ t.fget .rpCfg 31 31 = 0 ∧ t.fget .rpCfg 29 29 = 1 ∧
        t.rget .rpCfgdata = if s.fget .rpCfg 30 30 = 0 then 0xFFFFFFFF else s.rget .rpCfgdata) ∧
    (∀ (w : World) (o : BitVec 19) (d : List Byte), s.regOpen w (0x980000 + o.toNat) true = true →
      (s.pmc.hold = false ∨ o.toNat < s.fget .pmcNvgate 18 0 ∨ s.fget .pmcNvgate 50 32 ≤ o.toNat →
        exec (.apertureWrite w o d) s = .next { s with
          pcie := if s.pcie.rpWidth = 0 then s.pcie else { s.pcie with
            rpWrites := s.pcie.rpWrites ++ [(s.rget .rpAp / 2 ^ 19 * 2 ^ 19 + o.toNat, d)] }
          resp := {} }) ∧
      (s.pmc.hold = true → s.fget .pmcNvgate 18 0 ≤ o.toNat → o.toNat < s.fget .pmcNvgate 50 32 →
        exec (.apertureWrite w o d) s = .next { s with
          pmc := { s.pmc with
            held := s.pmc.held ++ [⟨.aperture o.toNat d, none⟩]
            order := s.pmc.order ++ [false]
            heldOps := s.pmc.heldOps + 1 }
          resp := if 64 ≤ s.pmc.held.length then { ok := false, status := 0, data := [] } else {} })) ∧
    (∀ (a : BitVec 64) (m : Access), s.pcie.rpWidth = 0 → exec (.inboundRequest a m) s = .next s) ∧
    (∀ (a : BitVec 64) (d : List Byte), s.pcie.rpWidth ≠ 0 → a.toNat = Config.interruptFile.toNat → d.length = 4 →
      ∃ t, exec (.inboundRequest a (.write d)) s = .next t ∧ (if s.pmc.pdHc
        then t = { s with irqs := s.irqs ++ [.hc (fieldAt d 0 4)], resp := {} }
        else t = { s with pmc := { s.pmc with wake := s.pmc.wake ++ [.hc (fieldAt d 0 4)] }, resp := {} })) ∧
    (∀ (a : BitVec 64) (d : List Byte), s.pcie.rpWidth ≠ 0 → ¬(a.toNat = Config.interruptFile.toNat ∧ d.length = 4) →
      (s.inAdmits a.toNat d.length = true → s.eccClean = true → 1 ≤ d.length → a.toNat % 65536 + d.length ≤ 65536 →
        s.piecesCheck .gallery false true [(a.toNat, d.length)] = (none, s) →
        ∃ t, exec (.inboundRequest a (.write d)) s = .next t ∧
          t = { s with mem := t.mem, resp := t.resp, slc := t.slc } ∧ t.bytes a.toNat d.length = d ∧
          s.bytesBut t a.toNat d.length ∧ t.resp.ok = true) ∧
      (s.inAdmits a.toNat d.length = false →
        exec (.inboundRequest a (.write d)) s =
          .next { s with resp := { ok := false, status := 0x20, data := [] } })) ∧
    (∀ (a : BitVec 64) (n : Nat), s.pcie.rpWidth ≠ 0 →
      (s.inAdmits a.toNat n = true → s.eccClean = true → 1 ≤ n → a.toNat % 65536 + n ≤ 65536 →
        s.piecesCheck .gallery false false [(a.toNat, n)] = (none, s) →
        ∃ t, exec (.inboundRequest a (.read n)) s = .next t ∧ t.mem = s.mem ∧
          t.resp = { ok := true, status := 0, data := s.bytes a.toNat n }) ∧
      (s.inAdmits a.toNat n = false →
        exec (.inboundRequest a (.read n)) s = .next { s with resp := { ok := false, status := 0x20, data := [] } }))

/-- R8, R18, R283, R405, R447, R449: a register write while a reset is held, by the host without a link, by an application
core while none runs, or outside the register space does nothing. A write of a register without an effect of its own
takes every field by its access type: RW and what is free of a lock takes the value, W1S sets, W1C clears, RO and WO
store nothing; nothing else changes. A write of a register of which a lock holds every field is discarded, and a
refused one is counted and, where SEC_VLOG holds no valid entry, recorded. EN locks the other fields of ETH_CFG,
CSI_PORT_CFG and USB_EP_CFG; CPQ_INIT, MBX_PUSH, a write of an engine's counter and the registers of the PMC that have
ranges act as their descriptions say. R223, R357, R405, R425, R447: an access of a register by its device physical
address. A master that may access nothing is answered ST_UNMAPPED. A read of a register that latches nothing returns
what the register shows and changes nothing; a Gallery read of a Studio register returns zero and is counted; a read
of the first word of a SEC_MEAS register latches the others, whose next read returns what was latched; the reads of
FQ_CRGRANT and of the latched FQ_CRRET and FQ_CROUT do so too. A write has the effect of REGISTER_WRITE by the
master's endpoint. That a latched value is gone with the read that returns it is the model's reading (log entry 6). -/
def Obligations.RegisterAccesses : Prop :=
  (∀ (s : State) (w : World) (ep : Endpoint) (a : Pa) (n : Nat) (v : W64),
    (s.held = true ∨ (ep = .host ∧ s.pcie.width = 0) ∨ (ep = .hc ∧ s.hcRunning = false) ∨ a.toNat < regsBase ∨
      regsBase + 0x10000000 ≤ a.toNat → exec (.registerWrite w ep a n v) s = .next s) ∧
    (s.held = false → (ep = .host → s.pcie.width ≠ 0) → (ep = .hc → s.hcRunning = true) →
      (∀ r : Reg, Reg.ofAddr r.addr = some r → a.toNat = regsBase + r.addr → r.addr % (r.width / 8) = 0 → n = r.width →
        (r.plain = true →
          (s.allLocked r = true → exec (.registerWrite w ep a n v) s = .next s) ∧
          (s.allLocked r = false → s.admits (epWorld ep w) r true →
            ∃ t, exec (.registerWrite w ep a n v) s = .next t ∧ s.onlyRegs t [r] ∧ ∀ f ∈ r.fields,
              t.fget r f.hi f.lo = if s.fieldFree r f.lo = false then s.fget r f.hi f.lo else match f.typ with
                | .rw => bits v.toNat f.hi f.lo
                | .w1s => s.fget r f.hi f.lo ||| bits v.toNat f.hi f.lo
                | .w1c => s.fget r f.hi f.lo &&& (2 ^ (f.hi + 1 - f.lo) - 1 - bits v.toNat f.hi f.lo)
                | .ro | .wo => s.fget r f.hi f.lo) ∧
          (s.allLocked r = false → s.regOpen (epWorld ep w) r.addr true = false →
            ∃ t, exec (.registerWrite w ep a n v) s = .next t ∧ s.onlyRegs t [.secViol, .secVlog] ∧
              t.rget .secViol = (s.rget .secViol + 1) % 2 ^ 64 ∧
              t.rget .secVlog = if s.fget .secVlog 63 63 = 1 then s.rget .secVlog
                else 2 ^ 63 + r.addr / 0x100000 % 128 * 2 ^ 56 + 2 ^ 55 + r.addr % 0x100000)) ∧
        ((∃ p, r = .ethCfg p) ∨ (∃ p, r = .csiPortCfg p) ∨ (∃ p, r = .usbEpCfg p) → s.admits (epWorld ep w) r true →
          ∃ t, exec (.registerWrite w ep a n v) s = .next t ∧ s.onlyRegs t [r] ∧
            (s.fget r 31 31 = 1 → t.fget r 31 31 = bits v.toNat 31 31 ∧
              (∀ f ∈ r.fields, f.lo ≠ 31 → f.lo ≠ 30 → t.fget r f.hi f.lo = s.fget r f.hi f.lo) ∧
              ((∃ p, r = .usbEpCfg p) → t.fget r 30 30 = bits v.toNat 30 30) ∧
              ((∀ p, r ≠ .usbEpCfg p) → t.fget r 30 30 = s.fget r 30 30)) ∧
            (s.fget r 31 31 = 0 →
              t.fget r 31 31 = (if bits v.toNat 31 31 = 1 ∧ bits v.toNat 29 28 ≠ 3 then 1 else 0) ∧
              ∀ f ∈ r.fields, f.lo ≠ 31 → t.fget r f.hi f.lo = bits v.toNat f.hi f.lo)) ∧
        (∀ e, e < 6 → r ∈ [.neCyc e, .neStallBank e, .neStallRemote e, .neStallWait e, .neStallPwr e, .neHmonCnt e, .cvsLoadcyc e,
            .cvsStrmcyc e, .cvsMacs e, .pntReruns e, .pntRefused e] → s.admits (epWorld ep w) r true →
          ∃ t, exec (.registerWrite w ep a n v) s = .next t ∧ s.onlyEngine t e ∧ t.view r = v.toNat) ∧
        (r = .pmcBoCfg → s.admits (epWorld ep w) r true →
          ∃ t, exec (.registerWrite w ep a n v) s = .next t ∧ s.onlyRegs t [r] ∧
            t.fget r 31 16 = (if 1640 ≤ bits v.toNat 31 16 ∧ bits v.toNat 31 16 ≤ 1780 then bits v.toNat 31 16
              else s.fget r 31 16) ∧
            t.fget r 15 0 = (if 670 ≤ bits v.toNat 15 0 ∧ bits v.toNat 15 0 ≤ 730 then bits v.toNat 15 0 else s.fget r 15 0)) ∧
        (r = .pmcThermCfg → s.admits (epWorld ep w) r true →
          ∃ t, exec (.registerWrite w ep a n v) s = .next t ∧ s.onlyRegs t [r] ∧
            t.fget r 15 8 = (if 1 ≤ bits v.toNat 15 8 ∧ bits v.toNat 15 8 ≤ 15 then bits v.toNat 15 8 else s.fget r 15 8) ∧
            t.fget r 7 0 = (if 60 ≤ bits v.toNat 7 0 ∧ bits v.toNat 7 0 ≤ 115 then bits v.toNat 7 0 else s.fget r 7 0))) ∧
      (a.toNat = regsBase + Reg.cpqInit.addr → n = 32 →
        exec (.registerWrite w ep a n v) s = exec (.contextModeSelect (epWorld ep w) (BitVec.ofNat 2 v.toNat)) s) ∧
      (∀ k : Fin 24, a.toNat = regsBase + (Reg.mbxPushR k.val).addr → n = 64 →
        exec (.registerWrite w ep a n v) s = exec (.mbxPush (epWorld ep w) ep k v) s))) ∧
  (∀ (s : State) (m : Master) (ctx : BitVec 12) (va : BitVec 48) (off : Nat),
    (s.mayAccess m = false → ∀ a : Access, exec (.remoteAccess m ctx va a) s =
      .next { s with resp := { ok := false, status := 0x20, data := [] } }) ∧
    (∀ ep : Endpoint, s.mayAccess m = true → regionOf (va.toNat % 2 ^ 44) = .regs off → s.masterEp off m = some ep →
      (∀ r : Reg, Reg.ofAddr off = some r → r.addr = off → off % (r.width / 8) = 0 → (∀ k, r ≠ .mbxPopR k) → r ≠ .secDbgStat →
        (s.regOpen (masterWorld m) off false = true →
          (r ≠ .timeSec → wideOf r = none → (∀ e q, r ≠ .fqCrgrant e q ∧ r ≠ .fqCrret e q ∧ r ≠ .fqCrout e q) →
            (∀ c, r ≠ .canRxhead c 9) → exec (.remoteAccess m ctx va (.read (r.width / 8))) s =
              .next { s with resp := { ok := true, status := 0, data := leBytes (r.width / 8) (s.view r) } }) ∧
          (∀ i, r = .secMeas i 0 → ∃ t, exec (.remoteAccess m ctx va (.read 8)) s = .next t ∧
            t = { s with wide := t.wide, resp := { ok := true, status := 0, data := leBytes 8 (s.view r) } } ∧
            ∀ j, 1 ≤ j → j ≤ 3 → mfind t.wide (Reg.secMeas i j).addr = some (s.view (.secMeas i j))) ∧
          (∀ i j x, r = .secMeas i j → 1 ≤ j → mfind s.wide off = some x →
            exec (.remoteAccess m ctx va (.read 8)) s = .next { s with
              wide := merase off s.wide, resp := { ok := true, status := 0, data := leBytes 8 x } }) ∧
          (∀ (e q : Nat) (f : FetchQ), e < 6 → f = mget (fun _ => ({} : FetchQ)) (s.eng e).fqs q →
            (r = .fqCrgrant e q → ∃ t, exec (.remoteAccess m ctx va (.read 8)) s = .next t ∧
              t = { s with engines := t.engines, resp := { ok := true, status := 0, data := leBytes 8 f.granted } } ∧
              t.view (.fqCrret e q) = f.ret ∧ t.view (.fqCrout e q) = f.granted - f.ret) ∧
            (∀ x, r = .fqCrret e q → f.lret = some x → ∃ t, exec (.remoteAccess m ctx va (.read 8)) s = .next t ∧
              t = { s with engines := t.engines, resp := { ok := true, status := 0, data := leBytes 8 x } } ∧
              t.view r = f.ret))) ∧
        (s.regOpen (masterWorld m) off false = false →
          ∃ t, exec (.remoteAccess m ctx va (.read (r.width / 8))) s = .next t ∧
            t = { s with regs := t.regs, resp := { ok := true, status := 0, data := List.replicate (r.width / 8) 0 } } ∧
            s.regsBut t [.secViol, .secVlog] ∧ t.rget .secViol = (s.rget .secViol + 1) % 2 ^ 64)) ∧
      (∀ (d : List Byte) (w : World) (t : State), s.held = false → (∀ l, m ≠ .debug l) → w = masterWorld m → d.length = 4 ∨ d.length = 8 →
        exec (.registerWrite w ep (BitVec.ofNat 44 va.toNat) (8 * d.length) (BitVec.ofNat 64 (fieldAt d 0 d.length))) s = .next t →
        exec (.remoteAccess m ctx va (.write d)) s = .next { t with resp := { ok := true, status := 0, data := [] } })))

/-- R433, R436: a power-on reset leaves every field at its reset value, holds the device, and keeps what no reset touches:
OTP, key store, boot flash, fuses, straps, pins, and host memory; RESET_RELEASE samples the straps, and with
STRAP_TEST high only the next power-on reset ends the reset. What no reset touches is the model's choice (log entry
18). R400, R432 to R434, Table 16.4: a warm reset holds the device and resets everything but PD_AON: the PMC keeps its
registers but for RSTCAUSE; a brownout reset, for VDD_SOC or VDDIO_18 below its reset level, resets the PMC too,
leaves the device as held as it was and records its cause; OTP, key store and boot flash stay; below VDD_AON's reset
level it is a power-on reset, and while PORST_N holds the device, or with both rails at their levels, nothing happens.
That a warm reset drops the held operations, keeps the operating points and asserts PERST_N, and that a brownout reset
leaves the straps, is the model's choice (log entry 19). -/
def Obligations.ResetEffects : Prop :=
  (∀ s : State,
    (∀ cause : PorCause, ∃ t, exec (.powerOnReset cause) s = .next t ∧
      t = { State.reset with
        pending := s.pending, mem := t.mem, fuse := s.fuse, free := s.free, standalone := s.standalone
        refclk := s.refclk, held := true
        lastRst := (match cause with
          | .porstN => 0
          | .vddAon => 1)
        sec := { otp := s.sec.otp, keys := s.sec.keys, nonceNo := s.sec.nonceNo }
        flash := s.flash, usb := s.usb, irqs := s.irqs
        pcie := { perst := s.pcie.perst, rpWrites := s.pcie.rpWrites } } ∧
      ∀ a, t.byte a = if hostBase ≤ a then s.byte a else 0) ∧
    (∀ (modeSel refclk test : Bool), s.held = true → s.testHeld = false → s.lastRst ≤ 1 →
      exec (.resetRelease modeSel refclk test) s =
        .next { s with standalone := modeSel, refclk := refclk, held := test, testHeld := test }) ∧
    (∀ (modeSel refclk test : Bool), s.held = false ∨ s.testHeld = true ∨ 1 < s.lastRst →
      exec (.resetRelease modeSel refclk test) s = .next s)) ∧
  (∀ s : State,
    (s.standalone = false → ¬ (s.held = true ∧ s.lastRst ≤ 1) →
      ∃ t, exec .warmReset s = .next t ∧ t.held = true ∧ t.lastRst = 2 ∧ t.pcie.perst = true ∧ t.ready = false ∧
        t.sec.otp = s.sec.otp ∧ t.sec.keys = s.sec.keys ∧ t.flash = s.flash ∧ t.fuse = s.fuse ∧ t.pending = s.pending ∧
        t.standalone = s.standalone ∧ t.pmc.needs = s.pmc.needs ∧ t.pmc.held = [] ∧ t.pmc.holdQ = [] ∧
        (∀ a, t.byte a = if hostBase ≤ a then s.byte a else 0) ∧ t.rget .pmcRstcause = 0 ∧
        (∀ q : Reg, q.addr ≠ Reg.addr .pmcRstcause →
          t.rget q = if 0x200000 ≤ q.addr ∧ q.addr < 0x300000 then s.rget q else q.reset.toNat) ∧
        ∀ e, (t.eng e).curN = (s.eng e).curN ∧ (t.eng e).run = .idle ∧ (t.eng e).task = none ∧ (t.eng e).vregs = []) ∧
    (∀ r : RailMv, 640 ≤ r.aon → r.soc < 650 ∨ r.io18 < 1620 → ¬ (s.held = true ∧ s.lastRst ≤ 1) →
      ∃ t, exec (.brownoutReset r) s = .next t ∧ t.held = s.held ∧ t.lastRst = 3 ∧ t.ready = false ∧
        t.sec.otp = s.sec.otp ∧ t.sec.keys = s.sec.keys ∧ t.flash = s.flash ∧ t.fuse = s.fuse ∧ t.pending = s.pending ∧
        t.standalone = s.standalone ∧ t.tripped = s.tripped ∧ t.engines = [] ∧ t.pmc = {} ∧ t.rget .pmcRstcause = 1 ∧
        (∀ q : Reg, q.addr ≠ Reg.addr .pmcRstcause → t.rget q = q.reset.toNat) ∧
        ∀ a, t.byte a = if hostBase ≤ a then s.byte a else 0) ∧
    (∀ r : RailMv, r.aon < 640 → exec (.brownoutReset r) s = exec (.powerOnReset .vddAon) s) ∧
    (∀ r : RailMv, 640 ≤ r.aon → (650 ≤ r.soc ∧ 1620 ≤ r.io18) ∨ (s.held = true ∧ s.lastRst ≤ 1) →
      exec (.brownoutReset r) s = .next s))

/-- R356, R412, R415, R417, R433, R451: the clock sources lock outside reset, device time starting from zero; the boot
chain then runs once, makes the UDS unreadable, and ends READY with the SEC up and DDR5 in use, or stops FAILED in
stage 1, 2 or 4. It ends READY from the named slot, or else from the other, whose manifests and firmware verify, where
DDR5 trains and an application stage has its digest; with an empty boot flash it stops in stage 1 with BOOTERR 1, and
with one that cannot be read with BOOTERR 5. All three complete in every state: what has locked or booted stays as it
is. When the chain runs and which BOOTERR stops it are the model's readings (log entry 16). -/
def Obligations.ClocksAndBoot : Prop :=
  ∀ s : State,
    (s.held = false → s.rootLock = false →
      exec .rootpllLock s = .next { s with
        rootLock := true, clock := { s.clock with sec := 0, ns := 0, frac := 0, runs := true, ticks := 0 } }) ∧
    (s.held = true ∨ s.rootLock = true → exec .rootpllLock s = .next s) ∧
    (s.held = false → exec .serdesPllLock s = .next { s with sdLock := true }) ∧
    (s.held = true → exec .serdesPllLock s = .next s) ∧
    (∀ env : BootEnv, s.held = true ∨ s.rootLock = false ∨ s.stage ≠ (0, 0, false) → exec (.bootChain env) s = .next s) ∧
    (∀ env : BootEnv, s.held = false → s.rootLock = true → s.stage = (0, 0, false) → s.ready = false →
      ∃ t, exec (.bootChain env) s = .next t ∧ t.sec.udsOff = true ∧ t.fuse = s.fuse ∧ t.pending = s.pending ∧
        (t.ready = true → t.stage = (4, 10000, false) ∧ t.sec.up = true ∧ t.fget .dmcCfg 31 31 = 1) ∧
        (t.ready = false → t.stage.2.2 = true ∧ (t.stage.1 = 1 ∨ t.stage.1 = 2 ∨ t.stage.1 = 4))) ∧
    (∀ (env : BootEnv) (u : State) (b : Booted) (slot : Nat) (fb : Bool), s.held = false → s.rootLock = true →
      s.stage = (0, 0, false) → env.flashFail = false →
      (slot = s.namedSlot ∧ fb = false ∧ s.bootIdentity.bootSlot slot = .ok (u, b)) ∨
        (slot = 1 - s.namedSlot ∧ fb = true ∧
          ∃ x, s.bootIdentity.bootSlot s.namedSlot = .error x ∧ x.st.bootSlot slot = .ok (u, b)) →
      (((u.bootGive slot fb b).trainStart env.dimms).trainEnd env.trainFail).ddr.failed = false →
      (∀ m e, b.owner = some m → m.stage 4 = some e → stageOk (s.slotBytes slot) e = true) →
      ∃ t, exec (.bootChain env) s = .next t ∧ t.ready = true ∧ t.stage = (4, 10000, false) ∧ t.sec.up = true ∧
        t.sec.slot = slot ∧ t.sec.fallback = fb ∧ t.sec.vsvn = b.vendor.svn ∧ t.fget .dmcCfg 31 31 = 1) ∧
    (∀ (env : BootEnv), s.held = false → s.rootLock = true → s.stage = (0, 0, false) → s.ready = false →
      env.flashFail = true ∨ s.flash = [] →
      ∃ t, exec (.bootChain env) s = .next t ∧ t.ready = false ∧ t.stage = (1, 0, true) ∧
        t.sec.bootErr = (if env.flashFail then 5 else 1) ∧ t.regs = s.regs ∧ t.mem = s.mem)

/-- R396 to R399, R401, Table 16.7: a dip begins where VDD_SOC or VDDIO_18 reads below its warning level or PWRWARN_N is
asserted: it sets HOLD, counts the episode and keeps its causes and lowest voltage; it ends once the rails have been
20 mV above those levels and PWRWARN_N deasserted for 2 ms. Held operations are then performed in the order of their
requests, one by one: an aperture write reaches the link, an operation of the SEC takes its effect and its answer with
NV_DEFERRED follows; after the last one the BROWNOUT record is logged, as it is at once with nothing held. When the 2
ms start again and which voltage is kept are the model's choices (log entries 98 and 55). -/
def Obligations.DipEpisodes : Prop :=
  ∀ s : State,
    (∀ (r : RailMv) (warn : Bool),
      (s.crossings r warn = 0 ↔ s.fget .pmcBoCfg 15 0 ≤ r.soc ∧ s.fget .pmcBoCfg 31 16 ≤ r.io18 ∧ warn = false) ∧
      (s.railsGood r warn = true ↔
        s.fget .pmcBoCfg 15 0 + 20 ≤ r.soc ∧ s.fget .pmcBoCfg 31 16 + 20 ≤ r.io18 ∧ warn = false)) ∧
    (∀ (r : RailMv) (warn : Bool), s.held = true → exec (.dipEpisodeStart r warn) s = .next s) ∧
    (∀ (r : RailMv) (warn : Bool), s.held = false → s.pmc.hold = false → s.crossings r warn = 0 →
      exec (.dipEpisodeStart r warn) s = .next { s with pmc := { s.pmc with pwrwarn := warn } }) ∧
    (∀ (r : RailMv) (warn : Bool), s.held = false → s.pmc.hold = false → s.crossings r warn ≠ 0 →
      ∃ t, exec (.dipEpisodeStart r warn) s = .next t ∧
        t = { s with
          regs := t.regs
          pmc := { s.pmc with
            hold := true, pwrwarn := warn, dipT := s.now, calm := none, causes := s.crossings r warn
            lowMv := lowReading (s.crossings r warn) r, releasing := false
            heldOps := s.pmc.held.length + s.pmc.holdQ.length } } ∧
        t.rget .pmcBoCount = (s.rget .pmcBoCount + 1) % 2 ^ 64 ∧ s.regsBut t [.pmcBoCount]) ∧
    (∀ (r : RailMv) (warn : Bool), s.held = false → s.pmc.hold = true →
      exec (.dipEpisodeStart r warn) s = .next { s with pmc := { s.pmc with
        causes := s.pmc.causes ||| s.crossings r warn, pwrwarn := warn
        lowMv := min s.pmc.lowMv (lowReading (s.pmc.causes ||| s.crossings r warn) r)
        calm := if s.railsGood r warn then some (s.pmc.calm.getD s.now) else none } }) ∧
    (s.pmc.hold = false ∨ s.pmc.calm = none → exec .dipEpisodeEnd s = .next s) ∧
    (∀ t0, s.pmc.calm = some t0 → s.now < t0 + 2000000 → exec .dipEpisodeEnd s = .next s) ∧
    (∀ t0, s.pmc.hold = true → s.pmc.calm = some t0 → t0 + 2000000 ≤ s.now → s.pmc.order ≠ [] →
      exec .dipEpisodeEnd s = .next { s with pmc := { s.pmc with
        hold := false, calm := none, dipDur := (s.now - s.pmc.dipT) / 1000, releasing := true } }) ∧
    (∀ t0, s.pmc.hold = true → s.pmc.calm = some t0 → t0 + 2000000 ≤ s.now → s.pmc.order = [] →
      s.fget .pmcEvnote 31 31 = 0 →
      ∃ t, exec .dipEpisodeEnd s = .next t ∧
        t = { s with
          regs := t.regs
          pmc := { s.pmc with
            hold := false, calm := none, dipDur := (s.now - s.pmc.dipT) / 1000, releasing := false } } ∧
        t.rget .pmcEvhead = (s.rget .pmcEvhead + 1) % 2 ^ 64 ∧
        t.rget (.pmcEvlog (s.rget .pmcEvhead % 64) 0) = s.now % 2 ^ 64 ∧
        t.rget (.pmcEvlog (s.rget .pmcEvhead % 64) 1) =
          1 + s.pmc.causes % 256 * 2 ^ 8 + s.pmc.lowMv % 65536 * 2 ^ 16 +
            ((s.now - s.pmc.dipT) / 1000 % 2 ^ 24 + s.pmc.heldOps % 256 * 2 ^ 24) * 2 ^ 32) ∧
    (s.pmc.hold = true ∨ s.pmc.releasing = false → exec .nvOperationRelease s = .next s) ∧
    (∀ (o : NvOp) (off : Nat) (data : List Byte) (q : List NvOp) (l : List Bool), s.pmc.hold = false →
      s.pmc.releasing = true → s.pmc.order = false :: l → s.pmc.held = o :: q → o.answer = none →
      o.kind = .aperture off data →
      (l ≠ [] → exec .nvOperationRelease s = .next { s with
        pmc := { s.pmc with order := l, held := q }
        pcie := { s.pcie with rpWrites := s.pcie.rpWrites ++ [(s.rget .rpAp / 2 ^ 19 * 2 ^ 19 + off, data)] } }) ∧
      (l = [] → s.fget .pmcEvnote 31 31 = 0 →
        ∃ t, exec .nvOperationRelease s = .next t ∧
          t = { s with
            regs := t.regs, pmc := { s.pmc with order := [], held := q, releasing := false }
            pcie := { s.pcie with rpWrites := s.pcie.rpWrites ++ [(s.rget .rpAp / 2 ^ 19 * 2 ^ 19 + off, data)] } } ∧
          t.rget .pmcEvhead = (s.rget .pmcEvhead + 1) % 2 ^ 64 ∧
          t.rget (.pmcEvlog (s.rget .pmcEvhead % 64) 1) =
            1 + s.pmc.causes % 256 * 2 ^ 8 + s.pmc.lowMv % 65536 * 2 ^ 16 +
              (s.pmc.dipDur % 2 ^ 24 + s.pmc.heldOps % 256 * 2 ^ 24) * 2 ^ 32)) ∧
    (∀ (o : NvOp) (q : List NvOp) (l : List Bool) (k op tag a : Nat), s.pmc.hold = false → s.pmc.releasing = true →
      s.pmc.order = true :: l → s.pmc.holdQ = o :: q → o.answer = some (k, op, tag) → s.answerCh k = some a →
      (s.mbxReceiver a).any s.epReset = false →
      (8 ≤ (s.slots a).length → exec .nvOperationRelease s = .next s) ∧
      ((s.slots a).length < 8 → ∃ t, exec .nvOperationRelease s = .next t ∧ t.pmc.order = l ∧ t.pmc.holdQ = q ∧
        (l ≠ [] → s.fget (.mbxCfg a) 62 62 = 0 → t.pmc.releasing = true ∧
          t.slots a = s.slots a ++ [BitVec.ofNat 64 (op + tag * 2 ^ 16 + 2 ^ 40)] ∧
          (∀ i v, o.kind = .otp i v → t.otp i = max (s.otp i) v ∧ (∀ j, j ≠ i → t.otp j = s.otp j) ∧
            t = { s with pmc := t.pmc, sec := { s.sec with otp := t.sec.otp }, mbx := t.mbx }) ∧
          (∀ e d, o.kind = .key e d → t.keyEntry e = d ∧ (∀ j, j ≠ e → t.keyEntry j = s.keyEntry j) ∧
            t = { s with pmc := t.pmc, sec := { s.sec with keys := t.sec.keys }, mbx := t.mbx }) ∧
          (∀ d, o.kind = .rma d → t.lifecycle = max s.lifecycle 2 ∧ t.sec.dbgLvl = 3 ∧
            t = { s with pmc := t.pmc, sec := t.sec, mbx := t.mbx } ∧ ∀ j, j < 64 → t.keyEntry j = List.replicate 256 0xFF)) ∧
        (l = [] → s.fget .pmcEvnote 31 31 = 0 → s.fget (.mbxCfg a) 62 62 = 0 →
          (∀ i v, o.kind = .otp i v → t.otp i = max (s.otp i) v ∧ t.pmc.releasing = false ∧
            t.rget .pmcEvhead = (s.rget .pmcEvhead + 1) % 2 ^ 64 ∧
            t.rget (.pmcEvlog (s.rget .pmcEvhead % 64) 1) =
              1 + s.pmc.causes % 256 * 2 ^ 8 + s.pmc.lowMv % 65536 * 2 ^ 16 +
                (s.pmc.dipDur % 2 ^ 24 + s.pmc.heldOps % 256 * 2 ^ 24) * 2 ^ 32)))) ∧
    (∀ (o : NvOp) (q : List NvOp) (l : List Bool) (u : FlashUpd), s.pmc.hold = false → s.pmc.releasing = true →
      s.pmc.order = true :: l → s.pmc.holdQ = o :: q → o.answer = none → s.sec.upd = some u → l ≠ [] →
      (∀ off, o.kind = .flashErase off → ∃ t, exec .nvOperationRelease s = .next t ∧ t.pmc.order = l ∧ t.pmc.holdQ = q ∧
        t.sec.upd = some { u with done := u.done + 1, waits := false } ∧
        ∀ i, t.flashRead i 1 = if off ≤ i ∧ i < off + 4096 then [0xFF] else s.flashRead i 1) ∧
      (∀ off d, o.kind = .flashProgram off d → ∃ t, exec .nvOperationRelease s = .next t ∧ t.pmc.order = l ∧ t.pmc.holdQ = q ∧
        t.sec.upd = some { u with done := u.done + 1, waits := false } ∧
        ∀ i, t.flashRead i 1 = if off ≤ i ∧ i < off + d.length then (d[i - off]?).toList else s.flashRead i 1))

/-- R378 to R381, R383, R389: REQN is written; an engine steps to its granted divider: a faster clock waits for its
trimmed voltage, the change costs 16 stalled cycles; VDone completes the voltage; without it the engine stays where it
was. The first voltage after power-up is that of the divider in use (log entry 5, the model's choice). R378, R382,
R383: the ramp, after a step to a faster clock or when an engine issues again after 64 cycles without issue, lets k of
every 16 cycles issue, k growing by one every 16 cycles, and counts the others; a droop halves the ENGCLK pulses of
each PERCLK cycle until it recovers, and as many pulses are counted suppressed as pass; DROOP_RECOVER adds those that
no cycle of the model has counted (log entry 97, the model's choice, as the carried remainder of log entry 2 is). -/
def Obligations.ClocksRampDroop : Prop :=
  (∀ (s : State) (e : Fin 6) (x : Engine), x = s.eng e.val →
    (∀ (w : World) (n : BitVec 7), s.admits w (.pmcNePerf e.val) true → 26 ≤ n.toNat → n.toNat ≤ 112 →
      ∃ t, exec (.reqnWrite w e n) s = .next t ∧ s.onlyRegs t [.pmcNePerf e.val] ∧
        t.rget (.pmcNePerf e.val) = setBits (s.rget (.pmcNePerf e.val)) 6 0 n.toNat ∧ t.reqN e.val = n.toNat) ∧
    (∀ n : BitVec 7, s.tripped = false → n.toNat = x.grant → n.toNat < x.curN → x.vmv < s.trimMv e.val n.toNat →
      ∃ t, exec (.clockStep e n) s = .next t ∧
        t = { s with engines := t.engines, pmc := { s.pmc with effcap := t.pmc.effcap } } ∧
        (∀ f, f ≠ e.val → t.eng f = s.eng f) ∧ t.eng e.val = { x with step := some ⟨n.toNat, true, false⟩ }) ∧
    (∀ n : BitVec 7, s.tripped = false → n.toNat = x.grant → n.toNat ≠ x.curN →
      (n.toNat < x.curN → s.trimMv e.val n.toNat ≤ x.vmv) → x.opened = false →
      ∃ t, exec (.clockStep e n) s = .next t ∧
        t = { s with engines := t.engines, regs := t.regs, pmc := { s.pmc with effcap := t.pmc.effcap } } ∧
        (t.pmc.effcap = s.pmc.effcap ∨ t.pmc.effcap = s.capTarget) ∧
        (∀ f, f ≠ e.val → t.eng f = s.eng f) ∧ s.regsBut t [.pmcNeDroop e.val] ∧
        t.rget (.pmcNeDroop e.val) =
          (if x.droop then (s.rget (.pmcNeDroop e.val) + 16) % 2 ^ 64 else s.rget (.pmcNeDroop e.val)) ∧
        t.eng e.val = { x with
          curN := n.toNat, stPwr := (x.stPwr + 16) % 2 ^ 64, noIssue := x.noIssue + 16, clk := x.clk + 16
          elapsed := x.elapsed + (if x.task.isSome then 16 else 0)
          ramp := x.ramp || decide (n.toNat < x.curN)
          alloc := if n.toNat < x.curN then x.alloc else x.fall.getD x.alloc
          fall := if n.toNat < x.curN then x.fall else none
          step := if x.curN < n.toNat ∧ s.trimMv e.val n.toNat < x.vmv then some ⟨n.toNat, false, true⟩ else none }) ∧
    (∀ (n : Nat) (l : Bool), x.step = some ⟨n, true, l⟩ →
      ∃ t, exec (.avsVdone e) s = .next t ∧ s.onlyEngine t e.val ∧
        t.eng e.val = { x with vmv := s.trimMv e.val n, step := some ⟨n, false, false⟩ }) ∧
    (∀ n : Nat, x.step = some ⟨n, false, true⟩ ∨ (x.step = none ∧ n = x.curN) →
      ∃ t, exec (.avsVdone e) s = .next t ∧ s.onlyEngine t e.val ∧
        t.eng e.val = { x with vmv := s.trimMv e.val n, step := none }) ∧
    (∀ (n : Nat) (v l : Bool), x.step = some ⟨n, v, l⟩ → (v || l) = true → s.fget .pmcEvnote 31 31 = 0 →
      ∃ t, exec (.avsTimeout e) s = .next t ∧ (∀ f, f ≠ e.val → t.eng f = s.eng f) ∧
        t.eng e.val = { x with step := none, grant := x.curN } ∧ t = { s with engines := t.engines, regs := t.regs } ∧
        t.rget .pmcEvhead = (s.rget .pmcEvhead + 1) % 2 ^ 64 ∧
        t.rget (.pmcEvlog (s.rget .pmcEvhead % 64) 1) % 65536 = 6 + e.val * 256)) ∧
  (∀ (s : State) (ne : Fin 6) (x : Engine), x = s.eng ne.val →
    (∀ others : List Nat, s.tripped = false →
      (x.ramp = true ∧ x.run ≠ .idle) ∨ (64 ≤ x.noIssue ∧ x.run = .issuing ∧ x.ctl.hold = 0) →
      ∃ t, exec (.activityRamp ne others) s = .next t ∧ t = { s with engines := t.engines, regs := t.regs } ∧
        (∀ f, f ≠ ne.val → t.eng f = s.eng f) ∧ s.regsBut t [.pmcNeDroop ne.val] ∧
        t.rget (.pmcNeDroop ne.val) =
          (if x.droop then (s.rget (.pmcNeDroop ne.val) + rampStalls others) % 2 ^ 64 else s.rget (.pmcNeDroop ne.val)) ∧
        t.eng ne.val = { x with
          ramp := false, noIssue := 0, stPwr := (x.stPwr + rampStalls others) % 2 ^ 64
          elapsed := x.elapsed + rampStalls others, clk := x.clk + rampStalls others } ∧ rampStalls others ≤ 120) ∧
    (∀ others : List Nat, s.tripped = true ∨ (x.ramp = false ∧ x.noIssue < 64) →
      exec (.activityRamp ne others) s = .next s) ∧
    (∀ k, 1 ≤ k → k ≤ 16 → ((List.range 16).filter fun j => rampIssues (16 * (k - 1) + j)).length = k) ∧
    (∃ t, exec (.droopSuppress ne) s = .next t ∧ s.onlyEngine t ne.val ∧ t.eng ne.val = { x with droop := true }) ∧
    (x.curN ≠ 0 → x.pulses.2 < x.curN ∧
      x.pulses.1 * x.curN + x.pulses.2 = x.facc + (if x.droop then 224 / 2 else 224)) ∧
    (x.droop = true → (s.restEng ne.val).rget (.pmcNeDroop ne.val) =
      (s.rget (.pmcNeDroop ne.val) +
        (if x.run = .issuing ∨ x.idle ≠ .active then 0 else x.pulses.1)) % 2 ^ 64) ∧
    (x.droop = false → (s.restEng ne.val).regs = s.regs) ∧
    (∀ pulses : Nat, x.droop = true →
      ∃ t, exec (.droopRecover ne pulses) s = .next t ∧ t = { s with engines := t.engines, regs := t.regs } ∧
        (∀ f, f ≠ ne.val → t.eng f = s.eng f) ∧ t.eng ne.val = { x with droop := false } ∧
        t.rget (.pmcNeDroop ne.val) = (s.rget (.pmcNeDroop ne.val) + pulses) % 2 ^ 64 ∧
        s.regsBut t [.pmcNeDroop ne.val]) ∧
    (∀ pulses : Nat, x.droop = false → exec (.droopRecover ne pulses) s = .next s))

/-- R202, R384 to R387: an idle engine enters the deepest permitted state whose exit latency and break-even time the idle
time covers, SLICE_OFF, RETAIN or GATED, where that is deeper than the one it is in, losing its registers from RETAIN
down and its loaded images with SLICE_OFF; the idle time runs to the next known event, or without one is the time it
has been idle. It leaves for a command or before a known event, its slice reading as zero after SLICE_OFF, and is
ACTIVE with a ramp once the exit latency has passed. That an engine whose PD_NEe is powered up is idle since then is
the model's choice (log entry 5). R26, R27, R388: PD_HC goes off once every application core has asked and waits for
an interrupt, and comes back for an interrupt or a mailbox message that waited, delivering the interrupts;
HCL_STAT.WFI shows which cores wait. PD_MEDIA goes off with everything in it disabled and permitted, losing the state
of its units, and comes back, its memory region zero, for an enable that waited. That an enable of a source or session
waits for the domain is read from R388 by inference (log entry 87); that the cores not held start anew with PD_HC is
the model's choice (log entry 99). -/
def Obligations.IdleAndDomains : Prop :=
  (∀ (s : State) (e : Fin 6) (x : Engine), x = s.eng e.val →
    (∀ (idle : Nat) (gated retain off : Prop), x.wanted = false → x.run = .idle → x.idle ≠ .exiting →
      (∀ t ∈ s.soft e.val ++ s.hard e.val, t ≤ 8 * s.now → t ≤ x.idleSince) →
      idle = (match s.tNext e.val with
        | some t => t - 8 * s.now
        | none => 8 * s.now - x.idleSince) →
      (off ↔ s.fget (.pmcNePerf e.val) 26 26 = 1 ∧ x.busy = false ∧ (∀ w, w < 16 → s.winState e.val w = 0) ∧
        8 * (120000 + 100000 * s.fget (.pmcNePerf e.val) 47 32 + 25000000) ≤ idle) →
      (retain ↔ s.fget (.pmcNePerf e.val) 25 25 = 1 ∧ 8 * (8000 + 60000) ≤ idle) →
      (gated ↔ s.fget (.pmcNePerf e.val) 24 24 = 1 ∧ 8 * (20 + 200) ≤ idle) →
      (off → x.idle ≠ .sliceOff →
        ∃ t, exec (.idleStateSelect e) s = .next t ∧ t = { s with engines := t.engines, images := t.images } ∧
          (∀ f, f ≠ e.val → t.eng f = s.eng f) ∧
          t.images = (s.images.map fun p => (p.1, { p.2 with engMask := setBits p.2.engMask e.val e.val 0 })) ∧
          t.eng e.val = { x with
            idle := .sliceOff, vregs := [], acm := [], bias := [], pal := [], lastImg := none, tile := {}, lastCtx := none
            fqs := [] }) ∧
      (¬ off → retain → x.idle = .active ∨ x.idle = .gated →
        ∃ t, exec (.idleStateSelect e) s = .next t ∧ s.onlyEngine t e.val ∧
          t.eng e.val = { x with
            idle := .retain, vregs := [], acm := [], bias := [], pal := [], lastImg := none, tile := {}, lastCtx := none
            fqs := [] }) ∧
      (¬ off → ¬ retain → gated → x.idle = .active →
        ∃ t, exec (.idleStateSelect e) s = .next t ∧ s.onlyEngine t e.val ∧ t.eng e.val = { x with idle := .gated }) ∧
      (¬ off → ¬ retain → ¬ gated → exec (.idleStateSelect e) s = .next s) ∧
      (x.idle = .sliceOff → exec (.idleStateSelect e) s = .next s)) ∧
    ((x.idle = .gated ∨ x.idle = .retain) → x.wanted = true →
      ∃ t, exec (.idleExit e) s = .next t ∧ s.onlyEngine t e.val ∧
        t.eng e.val = { x with
          idle := .exiting, exitTo := s.now + (if x.idle = .gated then 20 else 8000)
          idleSince := if x.idle = .gated then x.idleSince else 8 * s.now }) ∧
    (x.idle = .sliceOff → x.wanted = true →
      ∃ t, exec (.idleExit e) s = .next t ∧ (t.eng e.val).idle = .exiting ∧
        (∀ f, f ≠ e.val → t.eng f = s.eng f) ∧ t.regs = s.regs ∧
        ∀ a, t.byte a = if sliceBase e.val ≤ a ∧ a < sliceBase e.val + sliceSize then 0 else s.byte a) ∧
    (x.idle = .exiting → x.exitTo ≤ s.now →
      ∃ t, exec (.idleExitDone e) s = .next t ∧ s.onlyEngine t e.val ∧
        t.eng e.val = { x with idle := .active, ramp := true })) ∧
  (∀ s : State,
    (s.pmc.pdHc = true → s.fget .hclPdreq 7 0 = 255 → s.pmc.wake = [] → s.pmc.mail = false →
      ∃ t, exec (.powerDomainOff (.hc 255)) s = .next t ∧
        t = { s with regs := t.regs, pmc := { s.pmc with pdHc := false }, cores := [] } ∧
        t.fget .hclStat 7 0 = 255 ∧ s.regsBut t [.hclStat]) ∧
    (∀ wfi : Byte, s.pmc.pdHc = true → s.fget .hclPdreq 7 0 ≠ 255 ∨ wfi ≠ 255 ∨ s.pmc.wake ≠ [] ∨ s.pmc.mail = true →
      ∃ t, exec (.powerDomainOff (.hc wfi)) s = .next t ∧ s.onlyRegs t [.hclStat] ∧ t.fget .hclStat 7 0 = wfi.toNat) ∧
    (∀ wfi : Byte, s.pmc.pdHc = false → exec (.powerDomainOff (.hc wfi)) s = .next s) ∧
    (s.mediaIdle = true → s.fget (.pmcNePerf 0) 27 27 = 1 → s.pmc.mediaWake = [] →
      exec (.powerDomainOff .media) s = .next { s with
        pmc := { s.pmc with pdMedia := false }, sources := [], ipps := [], codecs := [] }) ∧
    (∀ wfi : Byte, s.pmc.pdHc = false → s.pmc.wake ≠ [] ∨ s.pmc.mail = true →
      ∃ t, exec (.powerDomainOn (.hc wfi)) s = .next t ∧
        t = { s with
          regs := t.regs, pmc := { s.pmc with pdHc := true, wake := [], mail := false }, irqs := s.irqs ++ s.pmc.wake
          cores := t.cores } ∧
        (∀ k, mfind t.cores k = if k < 8 ∧ s.fget .hclRst k k = 0 then some {} else none) ∧
        t.rget .hclPdreq = 0 ∧ t.fget .hclStat 7 0 = 0 ∧ s.regsBut t [.hclPdreq, .hclStat]) ∧
    (s.pmc.pdMedia = false → s.pmc.mediaWake ≠ [] →
      ∃ t, exec (.powerDomainOn .media) s = .next t ∧ t.engines = s.engines ∧ t.pmc = { s.pmc with pdMedia := true, mediaWake := [] } ∧
        ∀ a, t.byte a = if mediaBase ≤ a ∧ a < mediaBase + 0x4000000 then 0 else s.byte a))

/-- R31, R389 to R392: allocation never gives more than the cap leaves: where the allocations of engines, the real-time
and the memory class fit, with the fixed part, under the effective cap, they fit after it; with nothing falling they
fit under min(PMC_CAP, PMC_CAP_MAX, TLIMIT). PMC_CAP takes values from 240 to 800; samples fold the demands of the
devices that PMC_PMB gives to each class in, and a window above the cap is noted. What counts as package power is the
model's choice (log entry 97). That the effective cap follows once the allocations fit under it is the model's reading
(log entry 42). -/
def Obligations.PowerAllocation : Prop :=
  ∀ s : State,
    (s.powerOk → ∃ t, exec .allocate s = .next t ∧ t = { s with engines := t.engines, pmc := t.pmc } ∧
      t.pmc = { s.pmc with
        allocRt := t.pmc.allocRt, allocMem := t.pmc.allocMem, avail := t.pmc.avail, effcap := t.pmc.effcap } ∧
      t.powerOk ∧ t.allocSum + t.fixedPart ≤ t.pmc.effcap ∧
      (t.anyFalling = false → s.fixedPart ≤ s.capTarget →
        t.allocSum + t.fixedPart ≤ s.capTarget ∧ t.pmc.effcap = s.capTarget) ∧
      (t.pmc.effcap = s.pmc.effcap ∨ t.pmc.effcap = s.capTarget) ∧
      ∀ e, (t.eng e).sregs = (s.eng e).sregs ∧ (t.eng e).pend = (s.eng e).pend ∧ (t.eng e).curN = (s.eng e).curN) ∧
    (∀ (w : World) (v : BitVec 16), s.admits w .pmcCap true → 240 ≤ v.toNat → v.toNat ≤ 800 →
      ∃ t, exec (.pmcCapWrite w v) s = .next t ∧ t = { s with regs := t.regs, engines := t.engines, pmc := t.pmc } ∧
        t.fget .pmcCap 15 0 = v.toNat ∧ s.regsBut t [.pmcCap]) ∧
    (∀ (w : World) (v : BitVec 16), s.admits w .pmcCap true → ¬ (240 ≤ v.toNat ∧ v.toNat ≤ 800) →
      exec (.pmcCapWrite w v) s = .next s) ∧
    (∀ r : PowerReading, s.pmc.winSum = none →
      ∃ t, exec (.powerSample r) s = .next t ∧ t = { s with engines := t.engines, pmc := t.pmc } ∧
        t.pmc = { s.pmc with
          demRt := max (s.pmbPower r 1) (s.pmc.demRt - s.pmc.demRt / 16)
          demMem := max (s.pmbPower r 2) (s.pmc.demMem - s.pmc.demMem / 16)
          pkg := s.pkgPower r % 65536, winSum := some (s.pkgPower r) } ∧
        ∀ e, t.eng e = { s.eng e with peak := (t.eng e).peak } ∧ (s.eng e).peak ≤ (t.eng e).peak) ∧
    (∀ (r : PowerReading) (a : Nat), s.pmc.winSum = some a → a + s.pkgPower r ≤ 2 * s.pmc.effcap ∨ s.pmc.overWin ≠ 1 →
      ∃ t, exec (.powerSample r) s = .next t ∧ t = { s with engines := t.engines, pmc := t.pmc } ∧
        t.pmc.winSum = none ∧ t.pmc.overWin = (if 2 * s.pmc.effcap < a + s.pkgPower r then 1 else 0))

/-- R393, R394, R433: each millisecond TLIMIT falls by 8 while a sensor is at TJ_THR or above, and rises by 4 once all are
below it by the hysteresis; a fall that brings it below PMC_CAP is recorded once; at 125 °C the device trips: engine
and core clocks stop and ST_FATAL is reported; in reset, or while a trip is in force, nothing trips. -/
def Obligations.ThermalLimits : Prop :=
  ∀ s : State,
    (∀ temps : List (BitVec 16), s.fget .pmcEvnote 31 31 = 0 →
      (s.held = true ∨ s.tripped = true ∨ ∀ n, n < 12 → (s.setTemps 0 temps).tempC n < 1000) →
      ∃ t, exec (.tlimitStep temps) s = .next t ∧ t = { s with regs := t.regs, engines := t.engines, pmc := t.pmc } ∧
        t.pmc.temps = (s.setTemps 0 temps).pmc.temps ∧ t.pmc.tlimit = (s.setTemps 0 temps).nextTlimit ∧
        (s.fget .pmcCap 15 0 ≤ t.pmc.tlimit ∨ s.pmc.tlimit ≤ t.pmc.tlimit ∨ s.pmc.throttled = true →
          t.regs = s.regs) ∧
        (t.pmc.tlimit < s.fget .pmcCap 15 0 → t.pmc.tlimit < s.pmc.tlimit → s.pmc.throttled = false →
          t.pmc.throttled = true ∧ t.rget .pmcEvhead = (s.rget .pmcEvhead + 1) % 2 ^ 64 ∧
          t.rget (.pmcEvlog (s.rget .pmcEvhead % 64) 1) % 256 = 2)) ∧
    (∀ temps : List (BitVec 16), s.held = false → s.tripped = false → s.fget .pmcEvnote 31 31 = 0 →
      (∃ n, n < 12 ∧ 1000 ≤ (s.setTemps 0 temps).tempC n) →
      ∃ t, exec (.tlimitStep temps) s = .next t ∧ t.tripped = true ∧ t.fatal = true ∧ t.ddr.selfRefresh = true ∧
        t.line.safe = true ∧ t.mem = s.mem) ∧
    ((∃ n, n < 12 ∧ (8 * s.fget .pmcThermCfg 7 0 : Int) ≤ s.tempC n) → s.nextTlimit = max 240 (s.pmc.tlimit - 8)) ∧
    ((∀ n, n < 12 → s.tempC n < (8 * (s.fget .pmcThermCfg 7 0 - s.fget .pmcThermCfg 15 8 : Nat) : Int)) →
      s.nextTlimit = min 800 (s.pmc.tlimit + 4)) ∧
    (∀ (sensor : Fin 12) (temp : BitVec 16), 1000 ≤ temp.toInt → s.held = false → s.tripped = false →
      s.fget .pmcEvnote 31 31 = 0 →
      ∃ t, exec (.thermalTrip sensor temp) s = .next t ∧ t.tripped = true ∧ t.fatal = true ∧ t.ddr.selfRefresh = true ∧
        t.line.safe = true ∧ t.mem = s.mem ∧ t.engines = s.engines ∧ t.temp sensor.val = temp.toNat ∧
        t.rget .pmcEvhead = (s.rget .pmcEvhead + 1) % 2 ^ 64) ∧
    (∀ (sensor : Fin 12) (temp : BitVec 16), temp.toInt < 1000 ∨ s.held = true ∨ s.tripped = true →
      ∃ t, exec (.thermalTrip sensor temp) s = .next t ∧ t = { s with pmc := { s.pmc with temps := t.pmc.temps } } ∧
        t.temp sensor.val = temp.toNat)

/-- The model's step (log entry 2): the command at the front of the queue is executed on the state with the queue's rest,
for every command and every state; with an empty queue one PERCLK cycle passes. It touches no memory and no register
but the counters of pulses suppressed in a droop and of encoder errors; encoders whose inputs show no change that
waits stand still. What an idle step does is the model's choice. -/
def Obligations.StepFront : Prop :=
  ∀ s : State,
    (∀ (c : Instr) (l : List Instr), s.pending = c :: l → step s = exec c { s with pending := l }) ∧
    (s.pending = [] → ∃ t, step s = .next t ∧
      t = { s with clock := t.clock, engines := t.engines, encs := t.encs, line := t.line, regs := t.regs, free := t.free } ∧
      (s.held = true → t = s) ∧ (s.held = false → t.clock.ticks = s.clock.ticks + 1) ∧
      s.regsBut t [.pmcNeDroop 0, .pmcNeDroop 1, .pmcNeDroop 2, .pmcNeDroop 3, .pmcNeDroop 4, .pmcNeDroop 5,
        .encErr 0, .encErr 1, .encErr 2, .encErr 3] ∧
      (∀ e, (t.eng e).run = (s.eng e).run ∧ (t.eng e).sregs = (s.eng e).sregs ∧ (t.eng e).pend = (s.eng e).pend) ∧
      ((∀ e, e < 4 → (s.enc e).ca = none ∧ (s.enc e).cb = none ∧ (s.enc e).cz = none) →
        t.encs = s.encs ∧ t.line = s.line ∧ t.free = s.free ∧
        ((∀ e, (s.eng e).droop = false) → t.regs = s.regs)))

/-- Reset values that the register tables state (R433, R451, Tables 8.4, 13.8, 15.1, 17.12), every context FREE (R256), no
command waiting anywhere, memory in its canonical form, and the power sum, the credits and the ring slots in order
(R31); that every byte of memory reads zero is the model's choice (log entry 1). -/
def Obligations.ResetValues : Prop :=
  State.reset.fget .hclRst 7 0 = 0xFF ∧ State.reset.fget .gsScrubCtl 15 0 = 16 ∧ State.reset.rget .dmcScrub = 100000 ∧
  State.reset.rget .timeSrvThr = 1000000 * 2 ^ 32 + 100 ∧ State.reset.rget .cpqInit = 0 ∧
  (∀ c, c < 4096 → State.reset.ctxSt c = 0) ∧ (∀ q, q < 1024 → State.reset.sqEn q = false ∧ State.reset.cqEn q = false) ∧
  (∀ e, (State.reset.eng e).run = .idle ∧ (State.reset.eng e).task = none ∧ (State.reset.eng e).queue = []) ∧
  (∀ r, (State.reset.ring r).state = 0) ∧ (∀ k, k < 24 → State.reset.mbxEn k = false ∧ State.reset.slots k = []) ∧
  State.reset.pending = [] ∧ State.reset.cmds = [] ∧ State.reset.waits = [] ∧ Memory.wf State.reset.mem ∧
  State.reset.powerOk ∧ State.reset.creditsOk ∧ State.reset.ringsOk ∧ ∀ a, State.reset.byte a = 0

/-- Every step keeps memory in its canonical form, from every state that has it. -/
def Obligations.MemoryFormKept : Prop :=
  ∀ s t : State, Memory.wf s.mem → step s = .next t → Memory.wf t.mem

/-- R31, R219: every step keeps the credits of every fetch queue: granted equals returned plus outstanding, through
aborts, faults and cancellations. -/
def Obligations.FetchCreditsKept : Prop :=
  ∀ s t : State, s.creditsOk → step s = .next t → t.creditsOk

/-- R31, R225: every step keeps each slot of every ring in one hand: published slots stand once, in rising order of SEQ,
and none of them is the producer's. -/
def Obligations.RingSlotsKept : Prop :=
  ∀ s t : State, s.ringsOk → step s = .next t → t.ringsOk

/-- R31, R391: every step keeps the power sum: allocations with the fixed part never rise above the effective cap, as long
as the fixed part, which temperatures and powered domains set, does not rise in the step. -/
def Obligations.PowerSumKept : Prop :=
  ∀ s t : State, s.powerOk → step s = .next t → t.fixedPart ≤ s.fixedPart → t.powerOk

/-- R281, R394, R409: what lasts: no OTP item falls in any step; FATAL stays until a reset of the device; a thermal trip
stays until a power-on reset, or a loss of power. -/
def Obligations.LastingState : Prop :=
  ∀ s t : State, step s = .next t →
    (∀ i, s.otp i ≤ t.otp i) ∧
    (s.fatal = true → t.fatal = true ∨ ∃ l, (∃ c, s.pending = .powerOnReset c :: l) ∨ s.pending = .warmReset :: l ∨
      ∃ r, s.pending = .brownoutReset r :: l) ∧
    (s.tripped = true → t.tripped = true ∨ ∃ l, (∃ c, s.pending = .powerOnReset c :: l) ∨
      ∃ r, s.pending = .brownoutReset r :: l)

/-- A command never touches the queue of the commands that wait behind it. -/
def Obligations.QueueKept : Prop :=
  ∀ (c : Instr) (s t : State), exec c s = .next t → t.pending = s.pending

/-- R118, R119: the word of every well-formed engine instruction but CMM, which has two, decodes in its slot to the
instruction, operand by operand; a CMM decodes from its words of slots C and A in a bundle without others. -/
def Obligations.DecodeEncode : Prop :=
  (∀ (i : Instr) (sl : Slot) (w : Nat), i.wf = true → encodeWord i = some (sl, w) →
    w ≠ 0 ∧ w < 2 ^ 64 ∧ ∃ h, decodeSlot h sl w = some i) ∧
  ∀ (h : Issue) (c : CmmWord) (x : CxWord), decodeBundle h (encodeCmm c) (encodeCx x) 0 0 = .ok { c := some (.cmm h c x) } ∧
    encodeCmm c < 2 ^ 64 ∧ encodeCx x < 2 ^ 64

/-- R119, R160: no command that a loader verifier accepts stops a run, in any state; one that it rejects faults, and none
is refused. That no other command stops is the model's reading (log entry 57). -/
def Obligations.NoStop : Prop :=
  ∀ (c : Instr) (s : State),
    (issuable c = true → ∃ t, exec c s = .next t) ∧ (issuable c = false → exec c s = .fault .reservedEncoding)
end

