-- ==== Sys2Proof/Laws/Maps.lean ====
section
/-! SUPPORT. Sparse maps and memory: a read after a write, and the canonical form that every memory operation keeps. -/

namespace Sys2Proof.Machine

open Sys2Proof

variable {α : Type}

theorem mget_minsert_same (d : Nat → α) (k : Nat) (v : α) (m : SMap α) : mget d (minsert k v m) k = v := by
  induction m with
  | nil => simp [minsert, mget]
  | cons p t ih =>
    obtain ⟨a, b⟩ := p
    unfold minsert
    by_cases h1 : k < a
    · simp [h1, mget]
    · by_cases h2 : a = k
      · simp [h2, mget]
      · simp [h1, h2, mget, ih]

theorem mget_minsert_other (d : Nat → α) {k j : Nat} (h : j ≠ k) (v : α) (m : SMap α) :
    mget d (minsert k v m) j = mget d m j := by
  have hk : ¬ k = j := fun e => h e.symm
  induction m with
  | nil => simp [minsert, mget, hk]
  | cons p t ih =>
    obtain ⟨a, b⟩ := p
    unfold minsert
    by_cases h1 : k < a
    · simp [h1, mget, hk]
    · by_cases h2 : a = k
      · subst h2; simp [mget, hk]
      · simp [h1, h2, mget, ih]

theorem mfind_minsert_same (k : Nat) (v : α) (m : SMap α) : mfind (minsert k v m) k = some v := by
  induction m with
  | nil => simp [minsert, mfind]
  | cons p t ih =>
    obtain ⟨a, b⟩ := p
    unfold minsert
    by_cases h1 : k < a
    · simp [h1, mfind]
    · by_cases h2 : a = k
      · simp [h2, mfind]
      · simp [h1, h2, mfind, ih]

theorem mfind_minsert_other {k j : Nat} (h : j ≠ k) (v : α) (m : SMap α) : mfind (minsert k v m) j = mfind m j := by
  have hk : ¬ k = j := fun e => h e.symm
  induction m with
  | nil => simp [minsert, mfind, hk]
  | cons p t ih =>
    obtain ⟨a, b⟩ := p
    unfold minsert
    by_cases h1 : k < a
    · simp [h1, mfind, hk]
    · by_cases h2 : a = k
      · subst h2; simp [mfind, hk]
      · simp [h1, h2, mfind, ih]

theorem mget_merase_same (d : Nat → α) (k : Nat) (m : SMap α) : mget d (merase k m) k = d k := by
  induction m with
  | nil => simp [merase, mget]
  | cons p t ih =>
    obtain ⟨a, b⟩ := p
    unfold merase
    by_cases h : a = k
    · simp [h, ih]
    · simp [h, mget, ih]

theorem mget_merase_other (d : Nat → α) {k j : Nat} (h : j ≠ k) (m : SMap α) : mget d (merase k m) j = mget d m j := by
  have hk : ¬ k = j := fun e => h e.symm
  induction m with
  | nil => simp [merase]
  | cons p t ih =>
    obtain ⟨a, b⟩ := p
    unfold merase
    by_cases h1 : a = k
    · subst h1; simp [mget, hk, ih]
    · simp [h1, mget, ih]

theorem mfind_merase_same (k : Nat) (m : SMap α) : mfind (merase k m) k = none := by
  induction m with
  | nil => simp [merase, mfind]
  | cons p t ih =>
    obtain ⟨a, b⟩ := p
    unfold merase
    by_cases h : a = k
    · simp [h, ih]
    · simp [h, mfind, ih]

theorem mfind_merase_other {k j : Nat} (h : j ≠ k) (m : SMap α) : mfind (merase k m) j = mfind m j := by
  have hk : ¬ k = j := fun e => h e.symm
  induction m with
  | nil => simp [merase]
  | cons p t ih =>
    obtain ⟨a, b⟩ := p
    unfold merase
    by_cases h1 : a = k
    · subst h1; simp [mfind, hk, ih]
    · simp [h1, mfind, ih]

theorem mget_mset_same [DecidableEq α] (d : Nat → α) (k : Nat) (v : α) (m : SMap α) : mget d (mset d k v m) k = v := by
  unfold mset
  split
  · rename_i h; rw [mget_merase_same, h]
  · exact mget_minsert_same d k v m

/-- A write under one default leaves every other key alone, whatever default the reader uses. -/
theorem mget_mset_other [DecidableEq α] (d d' : Nat → α) {k j : Nat} (h : j ≠ k) (v : α) (m : SMap α) :
    mget d' (mset d k v m) j = mget d' m j := by
  unfold mset
  split
  · exact mget_merase_other d' h m
  · exact mget_minsert_other d' h v m

/-! ### The canonical form -/

/-- Keys strictly rising, and no entry at or below `n`. -/
theorem minsert_lower {n k : Nat} {v : α} {m : SMap α} (hk : n < k) (hm : ∀ p ∈ m, n < p.1) :
    ∀ p ∈ minsert k v m, n < p.1 := by
  induction m with
  | nil => intro p hp; simp [minsert] at hp; subst hp; exact hk
  | cons q t ih =>
    obtain ⟨a, b⟩ := q
    intro p hp
    unfold minsert at hp
    split at hp
    · rcases List.mem_cons.mp hp with h | h
      · subst h; exact hk
      · exact hm p h
    · split at hp
      · rcases List.mem_cons.mp hp with h | h
        · subst h; exact hk
        · exact hm p (List.mem_cons_of_mem _ h)
      · rcases List.mem_cons.mp hp with h | h
        · subst h; exact hm (a, b) (List.mem_cons_self)
        · exact ih (fun p hp => hm p (List.mem_cons_of_mem _ hp)) p h

theorem minsert_rising {k : Nat} {v : α} {m : SMap α} (hm : List.Pairwise (fun a b => a.1 < b.1) m) :
    List.Pairwise (fun a b : Nat × α => a.1 < b.1) (minsert k v m) := by
  induction m with
  | nil => simp [minsert]
  | cons q t ih =>
    obtain ⟨a, b⟩ := q
    have h1 := (List.pairwise_cons.mp hm).1
    have h2 := (List.pairwise_cons.mp hm).2
    unfold minsert
    split
    · rename_i hlt
      refine List.pairwise_cons.mpr ⟨?_, hm⟩
      intro p hp
      rcases List.mem_cons.mp hp with h | h
      · subst h; exact hlt
      · exact Nat.lt_trans hlt (h1 p h)
    · split
      · rename_i hlt heq
        subst heq
        exact List.pairwise_cons.mpr ⟨h1, h2⟩
      · rename_i hlt hne
        exact List.pairwise_cons.mpr ⟨minsert_lower (by omega) h1, ih h2⟩

theorem minsert_mem {k : Nat} {v : α} {m : SMap α} {p : Nat × α} (hp : p ∈ minsert k v m) : p = (k, v) ∨ p ∈ m := by
  induction m with
  | nil => simp [minsert] at hp; exact Or.inl hp
  | cons q t ih =>
    obtain ⟨a, b⟩ := q
    unfold minsert at hp
    split at hp
    · rcases List.mem_cons.mp hp with h | h
      · exact Or.inl h
      · exact Or.inr h
    · split at hp
      · rcases List.mem_cons.mp hp with h | h
        · exact Or.inl h
        · exact Or.inr (List.mem_cons_of_mem _ h)
      · rcases List.mem_cons.mp hp with h | h
        · exact Or.inr (h ▸ List.mem_cons_self)
        · rcases ih h with h | h
          · exact Or.inl h
          · exact Or.inr (List.mem_cons_of_mem _ h)

theorem merase_mem {k : Nat} {m : SMap α} {p : Nat × α} (hp : p ∈ merase k m) : p ∈ m := by
  induction m with
  | nil => simp [merase] at hp
  | cons q t ih =>
    obtain ⟨a, b⟩ := q
    unfold merase at hp
    split at hp
    · exact List.mem_cons_of_mem _ (ih hp)
    · rcases List.mem_cons.mp hp with h | h
      · exact h ▸ List.mem_cons_self
      · exact List.mem_cons_of_mem _ (ih h)

theorem merase_rising {k : Nat} {m : SMap α} (hm : List.Pairwise (fun a b => a.1 < b.1) m) :
    List.Pairwise (fun a b : Nat × α => a.1 < b.1) (merase k m) := by
  induction m with
  | nil => simp [merase]
  | cons q t ih =>
    obtain ⟨a, b⟩ := q
    have h1 := (List.pairwise_cons.mp hm).1
    have h2 := (List.pairwise_cons.mp hm).2
    unfold merase
    split
    · exact ih h2
    · exact List.pairwise_cons.mpr ⟨fun p hp => h1 p (merase_mem hp), ih h2⟩

/-- Setting one byte keeps the canonical form of memory. -/
theorem Memory.wf_mset {m : List Host.Cell} (h : Memory.wf m) (a : Nat) (b : Byte) : Memory.wf (mset memDefault a b m) := by
  unfold mset
  split
  · exact ⟨merase_rising h.1, fun c hc => h.2 c (merase_mem hc)⟩
  · rename_i hne
    refine ⟨minsert_rising h.1, fun c hc => ?_⟩
    rcases minsert_mem hc with e | e
    · subst e; exact hne
    · exact h.2 c e

/-- Storing bytes keeps the canonical form of memory. -/
theorem Memory.wf_memPut {m : List Host.Cell} (h : Memory.wf m) (a : Nat) (bs : List Byte) : Memory.wf (memPut m a bs) := by
  induction bs generalizing m a with
  | nil => exact h
  | cons b t ih => exact ih (Memory.wf_mset h a b) (a + 1)

/-- Dropping cells keeps the canonical form of memory. -/
theorem Memory.wf_filter {m : List Host.Cell} (h : Memory.wf m) (p : Host.Cell → Bool) : Memory.wf (m.filter p) :=
  ⟨h.1.filter p, fun c hc => h.2 c (List.mem_of_mem_filter hc)⟩

/-- The memory of the reset state is in canonical form. -/
theorem Memory.wf_nil : Memory.wf [] := ⟨List.Pairwise.nil, fun _ hc => nomatch hc⟩

/-! ### Bytes -/

theorem mget_memPut_outside {m : List Host.Cell} {a x : Nat} {bs : List Byte} (h : x < a ∨ a + bs.length ≤ x) :
    mget memDefault (memPut m a bs) x = mget memDefault m x := by
  induction bs generalizing m a with
  | nil => rfl
  | cons b t ih =>
    simp only [List.length_cons] at h
    unfold memPut
    rw [ih (by omega), mget_mset_other memDefault memDefault (by omega)]

theorem mget_memPut_inside {m : List Host.Cell} {a i : Nat} {bs : List Byte} (h : i < bs.length) :
    mget memDefault (memPut m a bs) (a + i) = bs[i] := by
  induction bs generalizing m a i with
  | nil => exact absurd h (Nat.not_lt_zero i)
  | cons b t ih =>
    unfold memPut
    cases i with
    | zero =>
      have e : a + 0 = a := rfl
      rw [e, mget_memPut_outside (by omega), mget_mset_same]; rfl
    | succ j =>
      have e : a + (j + 1) = a + 1 + j := by omega
      rw [e, ih (by simpa using h)]; rfl

end Sys2Proof.Machine
end

