-- ==== Sys2Proof/Laws/State.lean ====
section
/-! SUPPORT. What the named updates of the state leave alone, one lemma for each field and update, and what they do to the
field they change. -/

namespace Sys2Proof.Machine

open Sys2Proof

/-! ### Set-up registers -/

theorem State.rget_rset_same (s : State) (r : Reg) (v : Nat) : (s.rset r v).rget r = v % 2 ^ 64 := by
  simp only [State.rget, State.rset]
  rw [mget_mset_same]; simp

theorem State.rget_rset_other (s : State) {r q : Reg} (h : q.addr ≠ r.addr) (v : Nat) : (s.rset r v).rget q = s.rget q := by
  simp only [State.rget, State.rset]
  rw [mget_mset_other _ _ h]

theorem State.fset_eq (s : State) (r : Reg) (h l v : Nat) : s.fset r h l v = s.rset r (setBits (s.rget r) h l v) := rfl

theorem State.rinc_eq (s : State) (r : Reg) (w n : Nat) : s.rinc r w n = s.rset r ((s.rget r + n) % 2 ^ w) := rfl

theorem State.rsat_eq (s : State) (r : Reg) (w n : Nat) : s.rsat r w n = s.rset r (min (s.rget r + n) (2 ^ w - 1)) := rfl

theorem State.rget_lt (s : State) (r : Reg) : s.rget r < 2 ^ 64 := (mget (fun _ => r.reset) s.regs r.addr).isLt

/-! ### Engines -/

theorem State.eng_setEng_same (s : State) (e : Nat) (x : Engine) : (s.setEng e x).eng e = x := by
  simp only [State.eng, State.setEng]
  exact mget_minsert_same _ _ _ _

theorem State.eng_setEng_other (s : State) {e f : Nat} (h : f ≠ e) (x : Engine) : (s.setEng e x).eng f = s.eng f := by
  simp only [State.eng, State.setEng]
  exact mget_minsert_other _ h _ _

theorem State.modEng_eq (s : State) (e : Nat) (f : Engine → Engine) : s.modEng e f = s.setEng e (f (s.eng e)) := rfl

@[simp] theorem State.eng_rset (s : State) (r : Reg) (v e : Nat) : (s.rset r v).eng e = s.eng e := rfl

@[simp] theorem State.rget_setEng (s : State) (r : Reg) (e : Nat) (x : Engine) : (s.setEng e x).rget r = s.rget r := rfl

@[simp] theorem State.rget_setBytes (s : State) (r : Reg) (a : Nat) (bs : List Byte) : (s.setBytes a bs).rget r = s.rget r := rfl

@[simp] theorem State.eng_setBytes (s : State) (e a : Nat) (bs : List Byte) : (s.setBytes a bs).eng e = s.eng e := rfl

/-! ### Bytes of memory -/

@[simp] theorem State.byte_rset (s : State) (r : Reg) (v a : Nat) : (s.rset r v).byte a = s.byte a := rfl

@[simp] theorem State.byte_setEng (s : State) (e : Nat) (x : Engine) (a : Nat) : (s.setEng e x).byte a = s.byte a := rfl

theorem State.byte_setBytes_outside (s : State) {a x : Nat} {bs : List Byte} (h : x < a ∨ a + bs.length ≤ x) :
    (s.setBytes a bs).byte x = s.byte x := mget_memPut_outside h

theorem State.byte_setBytes_inside (s : State) {a i : Nat} {bs : List Byte} (h : i < bs.length) :
    (s.setBytes a bs).byte (a + i) = bs[i] := mget_memPut_inside h

theorem State.setBytes_wf (s : State) (a : Nat) (bs : List Byte) (h : Memory.wf s.mem) : Memory.wf (s.setBytes a bs).mem :=
  Memory.wf_memPut h a bs

theorem State.setByte_wf (s : State) (a : Nat) (b : Byte) (h : Memory.wf s.mem) : Memory.wf (s.setByte a b).mem :=
  Memory.wf_mset h a b

/-! ### Fields that an update leaves alone -/

@[simp] theorem State.rset_pending (s : State) (r : Reg) (v : Nat) : (s.rset r v).pending = s.pending := rfl
@[simp] theorem State.rset_mem (s : State) (r : Reg) (v : Nat) : (s.rset r v).mem = s.mem := rfl
@[simp] theorem State.rset_wide (s : State) (r : Reg) (v : Nat) : (s.rset r v).wide = s.wide := rfl
@[simp] theorem State.rset_fuse (s : State) (r : Reg) (v : Nat) : (s.rset r v).fuse = s.fuse := rfl
@[simp] theorem State.rset_free (s : State) (r : Reg) (v : Nat) : (s.rset r v).free = s.free := rfl
@[simp] theorem State.rset_standalone (s : State) (r : Reg) (v : Nat) : (s.rset r v).standalone = s.standalone := rfl
@[simp] theorem State.rset_refclk (s : State) (r : Reg) (v : Nat) : (s.rset r v).refclk = s.refclk := rfl
@[simp] theorem State.rset_held (s : State) (r : Reg) (v : Nat) : (s.rset r v).held = s.held := rfl
@[simp] theorem State.rset_testHeld (s : State) (r : Reg) (v : Nat) : (s.rset r v).testHeld = s.testHeld := rfl
@[simp] theorem State.rset_ready (s : State) (r : Reg) (v : Nat) : (s.rset r v).ready = s.ready := rfl
@[simp] theorem State.rset_flrBusy (s : State) (r : Reg) (v : Nat) : (s.rset r v).flrBusy = s.flrBusy := rfl
@[simp] theorem State.rset_stage (s : State) (r : Reg) (v : Nat) : (s.rset r v).stage = s.stage := rfl
@[simp] theorem State.rset_lastRst (s : State) (r : Reg) (v : Nat) : (s.rset r v).lastRst = s.lastRst := rfl
@[simp] theorem State.rset_fatal (s : State) (r : Reg) (v : Nat) : (s.rset r v).fatal = s.fatal := rfl
@[simp] theorem State.rset_suspended (s : State) (r : Reg) (v : Nat) : (s.rset r v).suspended = s.suspended := rfl
@[simp] theorem State.rset_tripped (s : State) (r : Reg) (v : Nat) : (s.rset r v).tripped = s.tripped := rfl
@[simp] theorem State.rset_rootLock (s : State) (r : Reg) (v : Nat) : (s.rset r v).rootLock = s.rootLock := rfl
@[simp] theorem State.rset_ddrLock (s : State) (r : Reg) (v : Nat) : (s.rset r v).ddrLock = s.ddrLock := rfl
@[simp] theorem State.rset_sdLock (s : State) (r : Reg) (v : Nat) : (s.rset r v).sdLock = s.sdLock := rfl
@[simp] theorem State.rset_clock (s : State) (r : Reg) (v : Nat) : (s.rset r v).clock = s.clock := rfl
@[simp] theorem State.rset_servo (s : State) (r : Reg) (v : Nat) : (s.rset r v).servo = s.servo := rfl
@[simp] theorem State.rset_engines (s : State) (r : Reg) (v : Nat) : (s.rset r v).engines = s.engines := rfl
@[simp] theorem State.rset_snaps (s : State) (r : Reg) (v : Nat) : (s.rset r v).snaps = s.snaps := rfl
@[simp] theorem State.rset_ecc (s : State) (r : Reg) (v : Nat) : (s.rset r v).ecc = s.ecc := rfl
@[simp] theorem State.rset_gesso (s : State) (r : Reg) (v : Nat) : (s.rset r v).gesso = s.gesso := rfl
@[simp] theorem State.rset_slc (s : State) (r : Reg) (v : Nat) : (s.rset r v).slc = s.slc := rfl
@[simp] theorem State.rset_ddr (s : State) (r : Reg) (v : Nat) : (s.rset r v).ddr = s.ddr := rfl
@[simp] theorem State.rset_pmt (s : State) (r : Reg) (v : Nat) : (s.rset r v).pmt = s.pmt := rfl
@[simp] theorem State.rset_pmtOp (s : State) (r : Reg) (v : Nat) : (s.rset r v).pmtOp = s.pmtOp := rfl
@[simp] theorem State.rset_sqs (s : State) (r : Reg) (v : Nat) : (s.rset r v).sqs = s.sqs := rfl
@[simp] theorem State.rset_cqs (s : State) (r : Reg) (v : Nat) : (s.rset r v).cqs = s.cqs := rfl
@[simp] theorem State.rset_cmds (s : State) (r : Reg) (v : Nat) : (s.rset r v).cmds = s.cmds := rfl
@[simp] theorem State.rset_commitQ (s : State) (r : Reg) (v : Nat) : (s.rset r v).commitQ = s.commitQ := rfl
@[simp] theorem State.rset_rrCp (s : State) (r : Reg) (v : Nat) : (s.rset r v).rrCp = s.rrCp := rfl
@[simp] theorem State.rset_images (s : State) (r : Reg) (v : Nat) : (s.rset r v).images = s.images := rfl
@[simp] theorem State.rset_fences (s : State) (r : Reg) (v : Nat) : (s.rset r v).fences = s.fences := rfl
@[simp] theorem State.rset_waits (s : State) (r : Reg) (v : Nat) : (s.rset r v).waits = s.waits := rfl
@[simp] theorem State.rset_probe (s : State) (r : Reg) (v : Nat) : (s.rset r v).probe = s.probe := rfl
@[simp] theorem State.rset_mbx (s : State) (r : Reg) (v : Nat) : (s.rset r v).mbx = s.mbx := rfl
@[simp] theorem State.rset_sdmas (s : State) (r : Reg) (v : Nat) : (s.rset r v).sdmas = s.sdmas := rfl
@[simp] theorem State.rset_rings (s : State) (r : Reg) (v : Nat) : (s.rset r v).rings = s.rings := rfl
@[simp] theorem State.rset_sources (s : State) (r : Reg) (v : Nat) : (s.rset r v).sources = s.sources := rfl
@[simp] theorem State.rset_ipps (s : State) (r : Reg) (v : Nat) : (s.rset r v).ipps = s.ipps := rfl
@[simp] theorem State.rset_codecs (s : State) (r : Reg) (v : Nat) : (s.rset r v).codecs = s.codecs := rfl
@[simp] theorem State.rset_encs (s : State) (r : Reg) (v : Nat) : (s.rset r v).encs = s.encs := rfl
@[simp] theorem State.rset_line (s : State) (r : Reg) (v : Nat) : (s.rset r v).line = s.line := rfl
@[simp] theorem State.rset_chans (s : State) (r : Reg) (v : Nat) : (s.rset r v).chans = s.chans := rfl
@[simp] theorem State.rset_canRx (s : State) (r : Reg) (v : Nat) : (s.rset r v).canRx = s.canRx := rfl
@[simp] theorem State.rset_pmc (s : State) (r : Reg) (v : Nat) : (s.rset r v).pmc = s.pmc := rfl
@[simp] theorem State.rset_sec (s : State) (r : Reg) (v : Nat) : (s.rset r v).sec = s.sec := rfl
@[simp] theorem State.rset_flash (s : State) (r : Reg) (v : Nat) : (s.rset r v).flash = s.flash := rfl
@[simp] theorem State.rset_pcie (s : State) (r : Reg) (v : Nat) : (s.rset r v).pcie = s.pcie := rfl
@[simp] theorem State.rset_usb (s : State) (r : Reg) (v : Nat) : (s.rset r v).usb = s.usb := rfl
@[simp] theorem State.rset_usbOut (s : State) (r : Reg) (v : Nat) : (s.rset r v).usbOut = s.usbOut := rfl
@[simp] theorem State.rset_cores (s : State) (r : Reg) (v : Nat) : (s.rset r v).cores = s.cores := rfl
@[simp] theorem State.rset_irqs (s : State) (r : Reg) (v : Nat) : (s.rset r v).irqs = s.irqs := rfl
@[simp] theorem State.rset_resp (s : State) (r : Reg) (v : Nat) : (s.rset r v).resp = s.resp := rfl

@[simp] theorem State.setEng_pending (s : State) (e : Nat) (x : Engine) : (s.setEng e x).pending = s.pending := rfl
@[simp] theorem State.setEng_mem (s : State) (e : Nat) (x : Engine) : (s.setEng e x).mem = s.mem := rfl
@[simp] theorem State.setEng_regs (s : State) (e : Nat) (x : Engine) : (s.setEng e x).regs = s.regs := rfl
@[simp] theorem State.setEng_wide (s : State) (e : Nat) (x : Engine) : (s.setEng e x).wide = s.wide := rfl
@[simp] theorem State.setEng_fuse (s : State) (e : Nat) (x : Engine) : (s.setEng e x).fuse = s.fuse := rfl
@[simp] theorem State.setEng_free (s : State) (e : Nat) (x : Engine) : (s.setEng e x).free = s.free := rfl
@[simp] theorem State.setEng_standalone (s : State) (e : Nat) (x : Engine) : (s.setEng e x).standalone = s.standalone := rfl
@[simp] theorem State.setEng_refclk (s : State) (e : Nat) (x : Engine) : (s.setEng e x).refclk = s.refclk := rfl
@[simp] theorem State.setEng_held (s : State) (e : Nat) (x : Engine) : (s.setEng e x).held = s.held := rfl
@[simp] theorem State.setEng_testHeld (s : State) (e : Nat) (x : Engine) : (s.setEng e x).testHeld = s.testHeld := rfl
@[simp] theorem State.setEng_ready (s : State) (e : Nat) (x : Engine) : (s.setEng e x).ready = s.ready := rfl
@[simp] theorem State.setEng_flrBusy (s : State) (e : Nat) (x : Engine) : (s.setEng e x).flrBusy = s.flrBusy := rfl
@[simp] theorem State.setEng_stage (s : State) (e : Nat) (x : Engine) : (s.setEng e x).stage = s.stage := rfl
@[simp] theorem State.setEng_lastRst (s : State) (e : Nat) (x : Engine) : (s.setEng e x).lastRst = s.lastRst := rfl
@[simp] theorem State.setEng_fatal (s : State) (e : Nat) (x : Engine) : (s.setEng e x).fatal = s.fatal := rfl
@[simp] theorem State.setEng_suspended (s : State) (e : Nat) (x : Engine) : (s.setEng e x).suspended = s.suspended := rfl
@[simp] theorem State.setEng_tripped (s : State) (e : Nat) (x : Engine) : (s.setEng e x).tripped = s.tripped := rfl
@[simp] theorem State.setEng_rootLock (s : State) (e : Nat) (x : Engine) : (s.setEng e x).rootLock = s.rootLock := rfl
@[simp] theorem State.setEng_ddrLock (s : State) (e : Nat) (x : Engine) : (s.setEng e x).ddrLock = s.ddrLock := rfl
@[simp] theorem State.setEng_sdLock (s : State) (e : Nat) (x : Engine) : (s.setEng e x).sdLock = s.sdLock := rfl
@[simp] theorem State.setEng_clock (s : State) (e : Nat) (x : Engine) : (s.setEng e x).clock = s.clock := rfl
@[simp] theorem State.setEng_servo (s : State) (e : Nat) (x : Engine) : (s.setEng e x).servo = s.servo := rfl
@[simp] theorem State.setEng_snaps (s : State) (e : Nat) (x : Engine) : (s.setEng e x).snaps = s.snaps := rfl
@[simp] theorem State.setEng_ecc (s : State) (e : Nat) (x : Engine) : (s.setEng e x).ecc = s.ecc := rfl
@[simp] theorem State.setEng_gesso (s : State) (e : Nat) (x : Engine) : (s.setEng e x).gesso = s.gesso := rfl
@[simp] theorem State.setEng_slc (s : State) (e : Nat) (x : Engine) : (s.setEng e x).slc = s.slc := rfl
@[simp] theorem State.setEng_ddr (s : State) (e : Nat) (x : Engine) : (s.setEng e x).ddr = s.ddr := rfl
@[simp] theorem State.setEng_pmt (s : State) (e : Nat) (x : Engine) : (s.setEng e x).pmt = s.pmt := rfl
@[simp] theorem State.setEng_pmtOp (s : State) (e : Nat) (x : Engine) : (s.setEng e x).pmtOp = s.pmtOp := rfl
@[simp] theorem State.setEng_sqs (s : State) (e : Nat) (x : Engine) : (s.setEng e x).sqs = s.sqs := rfl
@[simp] theorem State.setEng_cqs (s : State) (e : Nat) (x : Engine) : (s.setEng e x).cqs = s.cqs := rfl
@[simp] theorem State.setEng_cmds (s : State) (e : Nat) (x : Engine) : (s.setEng e x).cmds = s.cmds := rfl
@[simp] theorem State.setEng_commitQ (s : State) (e : Nat) (x : Engine) : (s.setEng e x).commitQ = s.commitQ := rfl
@[simp] theorem State.setEng_rrCp (s : State) (e : Nat) (x : Engine) : (s.setEng e x).rrCp = s.rrCp := rfl
@[simp] theorem State.setEng_images (s : State) (e : Nat) (x : Engine) : (s.setEng e x).images = s.images := rfl
@[simp] theorem State.setEng_fences (s : State) (e : Nat) (x : Engine) : (s.setEng e x).fences = s.fences := rfl
@[simp] theorem State.setEng_waits (s : State) (e : Nat) (x : Engine) : (s.setEng e x).waits = s.waits := rfl
@[simp] theorem State.setEng_probe (s : State) (e : Nat) (x : Engine) : (s.setEng e x).probe = s.probe := rfl
@[simp] theorem State.setEng_mbx (s : State) (e : Nat) (x : Engine) : (s.setEng e x).mbx = s.mbx := rfl
@[simp] theorem State.setEng_sdmas (s : State) (e : Nat) (x : Engine) : (s.setEng e x).sdmas = s.sdmas := rfl
@[simp] theorem State.setEng_rings (s : State) (e : Nat) (x : Engine) : (s.setEng e x).rings = s.rings := rfl
@[simp] theorem State.setEng_sources (s : State) (e : Nat) (x : Engine) : (s.setEng e x).sources = s.sources := rfl
@[simp] theorem State.setEng_ipps (s : State) (e : Nat) (x : Engine) : (s.setEng e x).ipps = s.ipps := rfl
@[simp] theorem State.setEng_codecs (s : State) (e : Nat) (x : Engine) : (s.setEng e x).codecs = s.codecs := rfl
@[simp] theorem State.setEng_encs (s : State) (e : Nat) (x : Engine) : (s.setEng e x).encs = s.encs := rfl
@[simp] theorem State.setEng_line (s : State) (e : Nat) (x : Engine) : (s.setEng e x).line = s.line := rfl
@[simp] theorem State.setEng_chans (s : State) (e : Nat) (x : Engine) : (s.setEng e x).chans = s.chans := rfl
@[simp] theorem State.setEng_canRx (s : State) (e : Nat) (x : Engine) : (s.setEng e x).canRx = s.canRx := rfl
@[simp] theorem State.setEng_pmc (s : State) (e : Nat) (x : Engine) : (s.setEng e x).pmc = s.pmc := rfl
@[simp] theorem State.setEng_sec (s : State) (e : Nat) (x : Engine) : (s.setEng e x).sec = s.sec := rfl
@[simp] theorem State.setEng_flash (s : State) (e : Nat) (x : Engine) : (s.setEng e x).flash = s.flash := rfl
@[simp] theorem State.setEng_pcie (s : State) (e : Nat) (x : Engine) : (s.setEng e x).pcie = s.pcie := rfl
@[simp] theorem State.setEng_usb (s : State) (e : Nat) (x : Engine) : (s.setEng e x).usb = s.usb := rfl
@[simp] theorem State.setEng_usbOut (s : State) (e : Nat) (x : Engine) : (s.setEng e x).usbOut = s.usbOut := rfl
@[simp] theorem State.setEng_cores (s : State) (e : Nat) (x : Engine) : (s.setEng e x).cores = s.cores := rfl
@[simp] theorem State.setEng_irqs (s : State) (e : Nat) (x : Engine) : (s.setEng e x).irqs = s.irqs := rfl
@[simp] theorem State.setEng_resp (s : State) (e : Nat) (x : Engine) : (s.setEng e x).resp = s.resp := rfl

@[simp] theorem State.setBytes_pending (s : State) (a : Nat) (bs : List Byte) : (s.setBytes a bs).pending = s.pending := rfl
@[simp] theorem State.setBytes_regs (s : State) (a : Nat) (bs : List Byte) : (s.setBytes a bs).regs = s.regs := rfl
@[simp] theorem State.setBytes_wide (s : State) (a : Nat) (bs : List Byte) : (s.setBytes a bs).wide = s.wide := rfl
@[simp] theorem State.setBytes_fuse (s : State) (a : Nat) (bs : List Byte) : (s.setBytes a bs).fuse = s.fuse := rfl
@[simp] theorem State.setBytes_free (s : State) (a : Nat) (bs : List Byte) : (s.setBytes a bs).free = s.free := rfl
@[simp] theorem State.setBytes_standalone (s : State) (a : Nat) (bs : List Byte) : (s.setBytes a bs).standalone = s.standalone := rfl
@[simp] theorem State.setBytes_refclk (s : State) (a : Nat) (bs : List Byte) : (s.setBytes a bs).refclk = s.refclk := rfl
@[simp] theorem State.setBytes_held (s : State) (a : Nat) (bs : List Byte) : (s.setBytes a bs).held = s.held := rfl
@[simp] theorem State.setBytes_testHeld (s : State) (a : Nat) (bs : List Byte) : (s.setBytes a bs).testHeld = s.testHeld := rfl
@[simp] theorem State.setBytes_ready (s : State) (a : Nat) (bs : List Byte) : (s.setBytes a bs).ready = s.ready := rfl
@[simp] theorem State.setBytes_flrBusy (s : State) (a : Nat) (bs : List Byte) : (s.setBytes a bs).flrBusy = s.flrBusy := rfl
@[simp] theorem State.setBytes_stage (s : State) (a : Nat) (bs : List Byte) : (s.setBytes a bs).stage = s.stage := rfl
@[simp] theorem State.setBytes_lastRst (s : State) (a : Nat) (bs : List Byte) : (s.setBytes a bs).lastRst = s.lastRst := rfl
@[simp] theorem State.setBytes_fatal (s : State) (a : Nat) (bs : List Byte) : (s.setBytes a bs).fatal = s.fatal := rfl
@[simp] theorem State.setBytes_suspended (s : State) (a : Nat) (bs : List Byte) : (s.setBytes a bs).suspended = s.suspended := rfl
@[simp] theorem State.setBytes_tripped (s : State) (a : Nat) (bs : List Byte) : (s.setBytes a bs).tripped = s.tripped := rfl
@[simp] theorem State.setBytes_rootLock (s : State) (a : Nat) (bs : List Byte) : (s.setBytes a bs).rootLock = s.rootLock := rfl
@[simp] theorem State.setBytes_ddrLock (s : State) (a : Nat) (bs : List Byte) : (s.setBytes a bs).ddrLock = s.ddrLock := rfl
@[simp] theorem State.setBytes_sdLock (s : State) (a : Nat) (bs : List Byte) : (s.setBytes a bs).sdLock = s.sdLock := rfl
@[simp] theorem State.setBytes_clock (s : State) (a : Nat) (bs : List Byte) : (s.setBytes a bs).clock = s.clock := rfl
@[simp] theorem State.setBytes_servo (s : State) (a : Nat) (bs : List Byte) : (s.setBytes a bs).servo = s.servo := rfl
@[simp] theorem State.setBytes_engines (s : State) (a : Nat) (bs : List Byte) : (s.setBytes a bs).engines = s.engines := rfl
@[simp] theorem State.setBytes_snaps (s : State) (a : Nat) (bs : List Byte) : (s.setBytes a bs).snaps = s.snaps := rfl
@[simp] theorem State.setBytes_ecc (s : State) (a : Nat) (bs : List Byte) : (s.setBytes a bs).ecc = s.ecc := rfl
@[simp] theorem State.setBytes_gesso (s : State) (a : Nat) (bs : List Byte) : (s.setBytes a bs).gesso = s.gesso := rfl
@[simp] theorem State.setBytes_slc (s : State) (a : Nat) (bs : List Byte) : (s.setBytes a bs).slc = s.slc := rfl
@[simp] theorem State.setBytes_ddr (s : State) (a : Nat) (bs : List Byte) : (s.setBytes a bs).ddr = s.ddr := rfl
@[simp] theorem State.setBytes_pmt (s : State) (a : Nat) (bs : List Byte) : (s.setBytes a bs).pmt = s.pmt := rfl
@[simp] theorem State.setBytes_pmtOp (s : State) (a : Nat) (bs : List Byte) : (s.setBytes a bs).pmtOp = s.pmtOp := rfl
@[simp] theorem State.setBytes_sqs (s : State) (a : Nat) (bs : List Byte) : (s.setBytes a bs).sqs = s.sqs := rfl
@[simp] theorem State.setBytes_cqs (s : State) (a : Nat) (bs : List Byte) : (s.setBytes a bs).cqs = s.cqs := rfl
@[simp] theorem State.setBytes_cmds (s : State) (a : Nat) (bs : List Byte) : (s.setBytes a bs).cmds = s.cmds := rfl
@[simp] theorem State.setBytes_commitQ (s : State) (a : Nat) (bs : List Byte) : (s.setBytes a bs).commitQ = s.commitQ := rfl
@[simp] theorem State.setBytes_rrCp (s : State) (a : Nat) (bs : List Byte) : (s.setBytes a bs).rrCp = s.rrCp := rfl
@[simp] theorem State.setBytes_images (s : State) (a : Nat) (bs : List Byte) : (s.setBytes a bs).images = s.images := rfl
@[simp] theorem State.setBytes_fences (s : State) (a : Nat) (bs : List Byte) : (s.setBytes a bs).fences = s.fences := rfl
@[simp] theorem State.setBytes_waits (s : State) (a : Nat) (bs : List Byte) : (s.setBytes a bs).waits = s.waits := rfl
@[simp] theorem State.setBytes_probe (s : State) (a : Nat) (bs : List Byte) : (s.setBytes a bs).probe = s.probe := rfl
@[simp] theorem State.setBytes_mbx (s : State) (a : Nat) (bs : List Byte) : (s.setBytes a bs).mbx = s.mbx := rfl
@[simp] theorem State.setBytes_sdmas (s : State) (a : Nat) (bs : List Byte) : (s.setBytes a bs).sdmas = s.sdmas := rfl
@[simp] theorem State.setBytes_rings (s : State) (a : Nat) (bs : List Byte) : (s.setBytes a bs).rings = s.rings := rfl
@[simp] theorem State.setBytes_sources (s : State) (a : Nat) (bs : List Byte) : (s.setBytes a bs).sources = s.sources := rfl
@[simp] theorem State.setBytes_ipps (s : State) (a : Nat) (bs : List Byte) : (s.setBytes a bs).ipps = s.ipps := rfl
@[simp] theorem State.setBytes_codecs (s : State) (a : Nat) (bs : List Byte) : (s.setBytes a bs).codecs = s.codecs := rfl
@[simp] theorem State.setBytes_encs (s : State) (a : Nat) (bs : List Byte) : (s.setBytes a bs).encs = s.encs := rfl
@[simp] theorem State.setBytes_line (s : State) (a : Nat) (bs : List Byte) : (s.setBytes a bs).line = s.line := rfl
@[simp] theorem State.setBytes_chans (s : State) (a : Nat) (bs : List Byte) : (s.setBytes a bs).chans = s.chans := rfl
@[simp] theorem State.setBytes_canRx (s : State) (a : Nat) (bs : List Byte) : (s.setBytes a bs).canRx = s.canRx := rfl
@[simp] theorem State.setBytes_pmc (s : State) (a : Nat) (bs : List Byte) : (s.setBytes a bs).pmc = s.pmc := rfl
@[simp] theorem State.setBytes_sec (s : State) (a : Nat) (bs : List Byte) : (s.setBytes a bs).sec = s.sec := rfl
@[simp] theorem State.setBytes_flash (s : State) (a : Nat) (bs : List Byte) : (s.setBytes a bs).flash = s.flash := rfl
@[simp] theorem State.setBytes_pcie (s : State) (a : Nat) (bs : List Byte) : (s.setBytes a bs).pcie = s.pcie := rfl
@[simp] theorem State.setBytes_usb (s : State) (a : Nat) (bs : List Byte) : (s.setBytes a bs).usb = s.usb := rfl
@[simp] theorem State.setBytes_usbOut (s : State) (a : Nat) (bs : List Byte) : (s.setBytes a bs).usbOut = s.usbOut := rfl
@[simp] theorem State.setBytes_cores (s : State) (a : Nat) (bs : List Byte) : (s.setBytes a bs).cores = s.cores := rfl
@[simp] theorem State.setBytes_irqs (s : State) (a : Nat) (bs : List Byte) : (s.setBytes a bs).irqs = s.irqs := rfl
@[simp] theorem State.setBytes_resp (s : State) (a : Nat) (bs : List Byte) : (s.setBytes a bs).resp = s.resp := rfl

end Sys2Proof.Machine
end

