-- ==== Sys2Proof/Laws/Engine.lean ====
section
/-! SUPPORT. One lemma for each shared operation of the engine: the checks of the hazard monitor, results, and the issue of a
slot. -/

namespace Sys2Proof.Machine

open Sys2Proof

theorem Engine.outstanding_false {x : Engine} {d : Dest} : x.outstanding d = false ↔ x.settled d := by
  unfold Engine.outstanding Engine.settled
  simp only [Bool.or_eq_false_iff, beq_eq_false_iff_ne, List.any_eq_false, Bool.and_eq_true, beq_iff_eq, Bool.or_eq_true,
    decide_eq_true_eq, not_and, not_or, Nat.not_lt, Bool.not_eq_true]

theorem Engine.needS_none {x : Engine} {r : Nat} : x.needS r = none ↔ x.readyS r := by
  unfold Engine.needS Engine.readyS hazard
  rw [← Engine.outstanding_false]
  by_cases h : r = 0 <;> simp [h]

theorem Engine.needV_none {x : Engine} {r : Nat} : x.needV r = none ↔ x.readyV r := by
  unfold Engine.needV Engine.readyV hazard
  rw [← Engine.outstanding_false]
  simp

theorem Engine.needP_none {x : Engine} {r : Nat} : x.needP r = none ↔ x.readyP r := by
  unfold Engine.needP Engine.readyP hazard
  rw [← Engine.outstanding_false]
  by_cases h : r = 0 <;> simp [h]

theorem Engine.orderA_none {x : Engine} {lat : Nat} {d : Dest} {m : Nat} :
    x.orderA lat d m = none ↔ x.inOrderA lat d m := by
  unfold Engine.orderA Engine.inOrderA hazard
  cases h : d.null
  · simp [List.any_eq_true]
  · simp

/-- A read of a register is the only kind of result that has a hazard of its own. -/
theorem Dest.readHazard_some {d : Dest} (h : ∃ r, d = .sreg r ∨ d = .vreg r ∨ d = .preg r) : d.readHazard ≠ none := by
  obtain ⟨r, rfl | rfl | rfl⟩ := h <;> simp [Dest.readHazard, hazard]

/-- The checks of a write of the M or V slot pass where it is in order. -/
theorem Engine.order_none {x : Engine} {lat : Nat} {d : Dest} {m : Nat} (h : x.inOrder lat d m) :
    x.order lat d m = none := by
  unfold Engine.order
  rw [Engine.orderA_none.2 h.1]
  obtain h | h := h.2 <;> simp [h]

theorem worst_nil : worst [] = none := rfl

theorem worst_cons {a : Option AccErr} {l : List (Option AccErr)} : worst (a :: l) = none ↔ a = none ∧ worst l = none := by
  cases a with
  | none => simp [worst]
  | some v =>
    simp only [worst]
    cases worst l with
    | none => simp
    | some b => simp; split <;> simp

/-- A bundle without faults has none in any of its checks. -/
theorem worst_none {l : List (Option AccErr)} : worst l = none ↔ ∀ a ∈ l, a = none := by
  induction l with
  | nil => simp [worst]
  | cons a t ih => rw [worst_cons, ih]; simp

/-- What a slot does when its bundle can issue and its checks pass. -/
theorem issue_ready {h : Issue} {sl : Slot} {rd : List Dest} {chk : State → Option AccErr} {eff : State → State} {s : State}
    (hr : issues h s) (hc : chk (started h s) = none) :
    issue h sl rd chk eff s = (eff (started h s)).modEng h.ne.val fun x => x.noteReads rd := by
  obtain ⟨h1, h2, h3, h4⟩ := hr
  unfold issue
  have e : (advance h.ne.val h.dt s).1 = reached h s := rfl
  simp only [h1, h2, h3, e, h4]
  simp only [Bool.false_or, bne_self_eq_false, Bool.and_self, if_true]
  have e2 : (reached h s).openBundle h.ne.val = started h s := rfl
  simp [e2, hc]

theorem State.modEng_onlyEngine (s : State) (e : Nat) (f : Engine → Engine) : s.onlyEngine (s.modEng e f) e :=
  ⟨rfl, fun _ h => State.eng_setEng_other s h _⟩

theorem State.eng_modEng_same (s : State) (e : Nat) (f : Engine → Engine) : (s.modEng e f).eng e = f (s.eng e) :=
  State.eng_setEng_same s e _

/-- A result put is owed, unless its destination discards writes. -/
theorem Engine.put_eq (x : Engine) (lat : Nat) (d : Dest) (m v : Nat) :
    x.put lat d m v = { x with pend := x.pend ++ (if d.null then [] else [x.result lat d m v]) } := by
  unfold Engine.put Engine.result
  split <;> simp_all

/-- A slot whose effect is one change of its engine. -/
theorem turns_modEng (h : Issue) (s : State) (rd : List Dest) (f : Engine → Engine) :
    turns h s (((started h s).modEng h.ne.val f).modEng h.ne.val fun x => x.noteReads rd) (f (issuer h s)) := by
  constructor
  · refine ⟨rfl, fun g hg => ?_⟩
    rw [State.modEng, State.eng_setEng_other _ hg, State.modEng, State.eng_setEng_other _ hg]
  · rw [State.eng_modEng_same, State.eng_modEng_same]
    rfl

/-- A slot whose effect is one result. -/
theorem owes_put (h : Issue) (s : State) (rd : List Dest) (lat : Nat) (d : Dest) (m v : Nat) :
    owes h s (((started h s).modEng h.ne.val fun x => x.put lat d m v).modEng h.ne.val fun x => x.noteReads rd)
      (if d.null then [] else [(issuer h s).result lat d m v]) := by
  have e := turns_modEng h s rd fun x => x.put lat d m v
  rw [Engine.put_eq] at e
  exact e

end Sys2Proof.Machine
end

