-- ==== Sys2Proof/Laws/Lanes.lean ====
section
/-! SUPPORT. Elements of a vector register: packing, blending, and the elements that a vector result leaves. -/

namespace Sys2Proof.Machine

open Sys2Proof

theorem testBit_blend (old mask val k : Nat) :
    (blend old mask val).testBit k = if mask.testBit k then val.testBit k else old.testBit k := by
  unfold blend
  simp only [Nat.testBit_or, Nat.testBit_xor, Nat.testBit_and]
  cases mask.testBit k <;> simp

theorem testBit_elemOf (w v i k : Nat) : (elemOf w v i).testBit k = (decide (k < w) && v.testBit (w * i + k)) := by
  unfold elemOf
  rw [Nat.testBit_mod_two_pow, Nat.testBit_div_two_pow, Nat.add_comm k]

theorem testBit_pack {w : Nat} (hw : 0 < w) (l : List Nat) (k : Nat) :
    (pack w l).testBit k = ((l.getD (k / w) 0) % 2 ^ w).testBit (k % w) := by
  induction l generalizing k with
  | nil => simp [pack]
  | cons a t ih =>
    have e : pack w (a :: t) = 2 ^ w * pack w t + a % 2 ^ w := by simp [pack, Nat.add_comm]
    rw [e, Nat.testBit_two_pow_mul_add _ (Nat.mod_lt _ (Nat.two_pow_pos w))]
    by_cases h : k < w
    · simp [h, Nat.div_eq_of_lt h, Nat.mod_eq_of_lt h]
    · have h' : w ≤ k := Nat.le_of_not_lt h
      rw [if_neg h, ih]
      have h1 : k / w = (k - w) / w + 1 := by
        rw [Nat.div_eq_sub_div hw h']
      have h2 : k % w = (k - w) % w := by rw [Nat.mod_eq_sub_mod h']
      rw [h1, h2]; simp

theorem elemOf_lt (w v i : Nat) : elemOf w v i < 2 ^ w := Nat.mod_lt _ (Nat.two_pow_pos w)

/-- Element of a packed register put `base` elements up. -/
theorem elemOf_pack_shift {w : Nat} (hw : 0 < w) (l : List Nat) (base i : Nat) :
    elemOf w (pack w l <<< (w * base)) i = if base ≤ i then l.getD (i - base) 0 % 2 ^ w else 0 := by
  apply Nat.eq_of_testBit_eq
  intro k
  rw [testBit_elemOf, Nat.testBit_shiftLeft]
  by_cases hk : k < w
  · by_cases hb : base ≤ i
    · have h1 : w * base ≤ w * i + k := Nat.le_trans (Nat.mul_le_mul_left w hb) (Nat.le_add_right _ _)
      have h2 : w * i + k - w * base = w * (i - base) + k := by
        rw [Nat.mul_sub]; have := Nat.mul_le_mul_left w hb; omega
      rw [if_pos hb, h2, testBit_pack hw, Nat.mul_add_div hw, Nat.div_eq_of_lt hk, Nat.mul_add_mod, Nat.mod_eq_of_lt hk]
      simp [hk, h1]
    · have h1 : ¬ (w * base ≤ w * i + k) := by
        have : w * (i + 1) ≤ w * base := Nat.mul_le_mul_left w (by omega)
        rw [Nat.mul_add] at this; omega
      rw [if_neg hb]; simp [h1]
  · simp only [hk, decide_false, Bool.false_and]
    split
    · exact (Nat.testBit_lt_two_pow (Nat.lt_of_lt_of_le (Nat.mod_lt _ (Nat.two_pow_pos w))
        (Nat.pow_le_pow_right (by omega) (Nat.le_of_not_lt hk)))).symm
    · simp

/-- A blend element by element, where the mask covers whole elements. -/
theorem elemOf_blend {w old mask val i : Nat} (h : elemOf w mask i = 2 ^ w - 1 ∨ elemOf w mask i = 0) :
    elemOf w (blend old mask val) i = if elemOf w mask i = 0 then elemOf w old i else elemOf w val i := by
  apply Nat.eq_of_testBit_eq
  intro k
  rw [testBit_elemOf, testBit_blend]
  by_cases hk : k < w
  · have hm := testBit_elemOf w mask i k
    rcases h with h | h
    · rw [h] at hm ⊢
      have hne : ¬ (2 ^ w - 1 = 0) := by
        have : 2 ^ 1 ≤ 2 ^ w := Nat.pow_le_pow_right (by omega) (by omega)
        omega
      rw [if_neg hne]
      have : mask.testBit (w * i + k) = true := by
        rw [Nat.testBit_two_pow_sub_one] at hm; simpa [hk] using hm.symm
      simp [this, hk, testBit_elemOf]
    · rw [h] at hm
      have : mask.testBit (w * i + k) = false := by simpa [hk] using hm.symm
      simp [this, hk, h, testBit_elemOf]
  · simp only [hk, decide_false, Bool.false_and]
    split <;> simp [testBit_elemOf, hk]

/-- The elements that a predicated vector result leaves (R89). -/
theorem lanes_of {p : PendRes} {w pr base : Nat} {zm : Bool} {l : List Nat} (hw : 0 < w)
    (hm : p.mask = vmask pr w base zm l) (hv : p.val = vval pr w base l) :
    lanes p w pr base l.length zm (fun i => l.getD i 0) := by
  intro old i
  have em : elemOf w p.mask i =
      if base ≤ i ∧ i < base + l.length then (if enabled pr w i || zm then 2 ^ w - 1 else 0) else 0 := by
    rw [hm]; unfold vmask
    rw [elemOf_pack_shift hw]
    by_cases hb : base ≤ i
    · simp only [hb, if_true, true_and]
      by_cases hl : i < base + l.length
      · have hl' : i - base < l.length := by omega
        have e : base + (i - base) = i := by omega
        simp only [List.getD_eq_getElem?_getD, List.getElem?_map, List.getElem?_range hl', Option.map_some, Option.getD_some, e, hl,
          if_true]
        split
        · exact Nat.mod_eq_of_lt (by have := Nat.two_pow_pos w; omega)
        · simp
      · have hl' : ¬ (i - base < l.length) := by omega
        simp [List.getD_eq_getElem?_getD, hl, hl']
    · simp [hb]
  have ev : base ≤ i ∧ i < base + l.length → enabled pr w i = true → elemOf w p.val i = l.getD (i - base) 0 % 2 ^ w := by
    intro hb he
    rw [hv]; unfold vval
    rw [elemOf_pack_shift hw, if_pos hb.1]
    have hl' : i - base < l.length := by omega
    have e : base + (i - base) = i := by omega
    simp only [List.getD_eq_getElem?_getD, List.getElem?_map, List.zip]
    simp [List.getElem?_zipWith, List.getElem?_eq_getElem hl', List.getElem?_range hl', e, he]
  have ez : base ≤ i ∧ i < base + l.length → enabled pr w i = false → elemOf w p.val i = 0 := by
    intro hb he
    rw [hv]; unfold vval
    rw [elemOf_pack_shift hw, if_pos hb.1]
    have hl' : i - base < l.length := by omega
    have e : base + (i - base) = i := by omega
    simp only [List.getD_eq_getElem?_getD, List.getElem?_map, List.zip]
    simp [List.getElem?_zipWith, List.getElem?_eq_getElem hl', List.getElem?_range hl', e, he]
  have hne : ¬ (2 ^ w - 1 = 0) := by
    have : 2 ^ 1 ≤ 2 ^ w := Nat.pow_le_pow_right (by omega) (by omega)
    omega
  rw [elemOf_blend (by rw [em]; split <;> [skip; simp]; split <;> simp), em]
  by_cases hb : base ≤ i ∧ i < base + l.length
  · simp only [hb, and_self, if_true]
    cases he : enabled pr w i
    · cases zm
      · simp
      · simp [hne, ez hb he]
    · simp [hne, ev hb he]
  · simp [hb]

end Sys2Proof.Machine
end

