-- ==== Sys2Proof/Laws/Memory.lean ====
section
/-! SUPPORT. One lemma for each shared operation of memory: what a physical read and a physical write do where no word needs
error correction, and what they leave alone. -/

namespace Sys2Proof.Machine

open Sys2Proof

theorem State.eccClean_ecc {s : State} (h : s.eccClean = true) : s.ecc = [] := by
  unfold State.eccClean at h
  simp only [Bool.and_eq_true, List.isEmpty_iff] at h
  exact h.1.1.1.1.1

/-- A word read without error correction delivers its data and changes nothing. -/
theorem State.eccRead_clean {s : State} (h : s.eccClean = true) (src w : Nat) : s.eccRead src w = (true, s) := by
  unfold State.eccRead
  simp [State.eccClean_ecc h, mget]

theorem State.eccReads_clean {s : State} (h : s.eccClean = true) (src : Nat) (l : List Nat) :
    s.eccReads src l = (true, s) := by
  induction l with
  | nil => rfl
  | cons w t ih => unfold State.eccReads; simp only [State.eccRead_clean h, ih]; rfl

/-- A physical read outside DDR5 where no word needs error correction: the bytes, and no change. -/
theorem State.pread_clean {s : State} (h : s.eccClean = true) {a : Nat} (hd : inDdr a = false) (src n : Nat) :
    s.pread src a n = (some (s.bytes a n), s) := by
  unfold State.pread; simp [hd, State.eccReads_clean h]

/-- A physical write outside DDR5 where no word needs error correction: the bytes stored, and nothing else. -/
theorem State.pwrite_clean {s : State} (h : s.eccClean = true) {a : Nat} (hd : inDdr a = false)
    (hl : s.linkDown a = false) (src : Nat) (bs : List Byte) : s.pwrite src a bs = (true, s.setBytes a bs) := by
  unfold State.pwrite; simp [hl, hd, h]

theorem State.readPieces_clean {s : State} (h : s.eccClean = true) (src : Nat) (l : List (Nat × Nat))
    (hd : ∀ p ∈ l, inDdr p.1 = false) :
    s.readPieces src l = (some (l.flatMap fun p => s.bytes p.1 p.2), s) := by
  induction l with
  | nil => rfl
  | cons p t ih =>
    unfold State.readPieces
    simp [State.pread_clean h (hd p (by simp)), ih fun q hq => hd q (by simp [hq])]

@[simp] theorem State.length_bytes (s : State) (a n : Nat) : (s.bytes a n).length = n := by simp [State.bytes]

@[simp] theorem length_leBytes (n v : Nat) : (leBytes n v).length = n := by simp [leBytes]

theorem getElem?_leBytes (n v i : Nat) : (leBytes n v)[i]? = if i < n then some (BitVec.ofNat 8 (v >>> (8 * i))) else none := by
  unfold leBytes
  simp only [List.getElem?_map]
  split
  · rw [List.getElem?_range ‹_›]; rfl
  · rw [List.getElem?_eq_none (by simpa using Nat.le_of_not_lt ‹_›)]; rfl

end Sys2Proof.Machine
end

