-- ==== Sys2Proof/Tests/Slice0.lean ====
section
/-! SUPPORT. Tests of the author: for every statement with hypotheses a small state and operands that meet them, mostly with
a look at what the command then does; the well-formedness checks with a word that each refuses; and words written out from the
encoding tables of chapter 5. -/

namespace Sys2Proof.Tests

open Sys2Proof Sys2Proof.Machine

set_option Elab.async false

/-- What a next state shows. -/
def nx (o : Host.Outcome State Fault Refusal) (p : State → Bool) : Bool :=
  match o with
  | .next t => p t
  | _ => false

/-- Engine 0 issues its next slot in the present cycle. -/
def h0 : Issue := ⟨0, 0⟩

/-- A task of context 1 without arguments. -/
def task1 : Task := ⟨⟨0, 7, none⟩, 1, 3, 0, 0x20000, List.replicate 8 0, [], 0, 0, 0, 0, [5]⟩

/-- An engine that issues, in cycle 10. -/
def e0 : Engine :=
  { run := .issuing, cyc := 10, task := some task1, tlimit := 0x20000, floorHeld := true
    sregs := [(1, 5), (2, 0xFFFFFFFFFFFFFFFF), (3, 0x10000)], aregs := [(1, { base := 0x100, bound := 0x1000 })]
    vregs := [(1, 0x0000000300000002), (2, 0x0000000500000004)], pregs := [(1, 1)] }

/-- The device with one engine of the given state. -/
def sE (x : Engine) : State := { State.reset with engines := [(0, x)] }

/-- `s` with window `w` of slice `e` open to reads and writes over `n` units of 64 KiB from unit `lo`. -/
def winAt (e w lo n : Nat) (s : State) : State :=
  ((s.rset (.gsWinCtl e w) 0x10C).rset (.gsWinBase e w) (lo * 65536)).rset (.gsWinSize e w) (n * 65536)

/-! ### Scalar, control and address instructions -/

theorem test_issues : issues h0 (sE e0) ∧ issues h0 (sE { e0 with pend := [⟨9, 12, .sreg 4, allS, 1, none, none, true⟩] }) := by
  unfold issues; decide +kernel
theorem test_salu : (issuer h0 (sE e0)).readyS 1 ∧ (issuer h0 (sE e0)).readyS 2 ∧ (issuer h0 (sE e0)).inOrderA 3 (.sreg 4) allS ∧
    nx (exec (.salu h0 4 1 2 .add) (sE e0)) (fun t => (t.eng 0).pend == [⟨10, 11, .sreg 4, allS, 4, none, none, false⟩]) = true := by
  unfold Engine.readyS Engine.settled Engine.inOrderA; decide +kernel
theorem test_salui : nx (exec (.salui h0 4 1 .mul 0xFFFFFFFF) (sE e0)) (fun t =>
    (t.eng 0).pend == [⟨10, 13, .sreg 4, allS, 0xFFFFFFFFFFFFFFFB, none, none, false⟩]) = true := by decide +kernel
theorem test_salu_zero : nx (exec (.salu h0 0 1 2 .add) (sE e0)) (fun t => (t.eng 0).pend == []) = true := by decide +kernel
theorem test_salu_hazard : nx (exec (.salu h0 5 4 2 .add) (sE { e0 with pend := [⟨9, 12, .sreg 4, allS, 1, none, none, true⟩] }))
    (fun t => (t.eng 0).faulted && (t.eng 0).flt.status == 0x40) = true := by decide +kernel
theorem test_lil : nx (exec (.lil h0 4 0x80000000) (sE e0)) (fun t =>
    (t.eng 0).pend == [⟨10, 11, .sreg 4, allS, 0xFFFFFFFF80000000, none, none, false⟩]) = true := by decide +kernel
theorem test_lih : nx (exec (.lih h0 1 2) (sE e0)) (fun t =>
    (t.eng 0).pend == [⟨10, 11, .sreg 1, allS, 0x200000005, none, none, false⟩]) = true := by decide +kernel
theorem test_movsp : nx (exec (.movsp h0 4 .ctxid) (sE { e0 with lastCtx := some 1 })) (fun t =>
    (t.eng 0).pend == [⟨10, 11, .sreg 4, allS, 1, none, none, false⟩]) = true := by decide +kernel
theorem test_arset : nx (exec (.arset h0 2 (.stride 3) (.reg 1)) (sE e0)) (fun t =>
    (t.eng 0).pend == [⟨10, 11, .areg 2 (.stride 3), 0xFFFFFFFF, 5, none, none, true⟩]) = true := by decide +kernel
theorem test_loop : nx (exec (.loop h0 1 (.imm 3) 4) (sE e0)) (fun t => (t.eng 0).ctl.loops == [⟨1, 1, 4, 0, 3⟩]) = true ∧
    nx (exec (.loop h0 1 (.reg 0) 4) (sE e0)) (fun t => (t.eng 0).ctl.redirect == some 5) = true := by decide +kernel
theorem test_brz : nx (exec (.brz h0 1 7) (sE e0)) (fun t => (t.eng 0).ctl.redirect == none) = true ∧
    nx (exec (.brz h0 0 7) (sE e0)) (fun t => (t.eng 0).ctl.redirect == some 7) = true := by decide +kernel
theorem test_brnz : nx (exec (.brnz h0 1 7) (sE e0)) (fun t => (t.eng 0).ctl.redirect == some 7) = true ∧
    nx (exec (.brnz h0 0 7) (sE e0)) (fun t => (t.eng 0).ctl.redirect == none) = true := by decide +kernel
theorem test_phase : nx (exec (.phase h0 9) (sE e0)) (fun t =>
    (t.eng 0).phaseid == 9 && (t.eng 0).phaseEnd == some 0) = true := by decide +kernel
theorem test_end : nx (exec (.end_ h0) (sE e0)) (fun t => (t.eng 0).run == .ending) = true := by decide +kernel

/-- Addresses that the issue of an ARSET leaves and changes. -/
theorem test_arset_timing : nx (exec (.arset h0 1 .base (.imm 0x40)) (sE e0)) (fun t =>
      ((issuer ⟨0, 0⟩ t).areg 1).base == 0x100 && ((issuer ⟨0, 1⟩ t).areg 1).base == 0x40 &&
      decide ((advance 0 1 t).2 = true ∧ (reached ⟨0, 1⟩ t).canIssue 0 1 = true)) = true := by decide +kernel

/-- Fence 5 of context 1, which lies in the range that starts at 100. -/
def sF (x : Engine) (v : W64) : State :=
  { sE x with regs := (((sE x).fset (.fenceCtxRangeR 1) 16 0 100).fset (.fenceCtxRangeR 1) 49 32 10).regs
              fences := [(105, { val := v })] }

theorem test_fsig : (started h0 (sF { e0 with sregs := [(1, 9)], task := some { task1 with declared := [105] } } 3)).fenceMap 1 5 = some 105 ∧
    (issuer h0 (sF { e0 with task := some { task1 with declared := [105] } } 3)).declaresFence 105 = true ∧
    nx (exec (.fsig h0 1 (.imm 5)) (sF { e0 with task := some { task1 with declared := [105] } } 3)) (fun t =>
      (t.eng 0).syncs == [⟨10, .signal 105 5⟩]) = true := by decide +kernel
theorem test_fwait_met : nx (exec (.fwait h0 1 (.imm 5) 0) (sF e0 5)) (fun t => (t.eng 0).run == .issuing && t.waits == []) = true := by
  decide +kernel
theorem test_fwait : (started h0 (sF e0 4)).orphaned 0 105 = false ∧
    nx (exec (.fwait h0 1 (.imm 5) 3) (sF e0 4)) (fun t => (t.eng 0).run == .waitFence &&
      t.waits.map (·.target) == [5] && t.waits.map (·.deadline) == [some 0x10000]) = true := by decide +kernel

/-! ### Memory instructions -/

theorem test_ld : (issuer h0 (sE e0)).noStore 0x100 64 ∧ (started h0 (sE e0)).eccClean = true ∧
    nx (exec (.ld h0 3 1 0 1 0xFFFFFFFF) { sE e0 with mem := [(0xC0, 7), (0xFF, 9)] }) (fun t => (t.eng 0).pend ==
      [⟨10, 24, .vreg 3, maskAt 512 512, (7 + 9 * 2 ^ 504) * 2 ^ 512, none, none, true⟩]) = true := by
  unfold Engine.noStore; decide +kernel
theorem test_lds : nx (exec (.lds h0 3 1 9) { sE e0 with mem := [(0x108, 7)] }) (fun t => (t.eng 0).pend ==
      [⟨10, 24, .sreg 3, allS, 7, none, none, true⟩]) = true := by decide +kernel
theorem test_st : (started h0 (sE e0)).guarded 0 0x100 64 = false ∧
    nx (exec (.st h0 1 1 0 0 0) (sE e0)) (fun t => (t.eng 0).stores.map (fun p => (p.due, p.addr, p.data.take 5)) ==
      [(16, 0x100, [2, 0, 0, 0, 3])]) = true := by decide +kernel
theorem test_sts : nx (exec (.sts h0 1 1 16) (sE e0)) (fun t => (t.eng 0).stores ==
      [⟨10, 16, 0, 0x110, [5, 0, 0, 0, 0, 0, 0, 0]⟩]) = true := by decide +kernel
theorem test_st_bound : nx (exec (.sts h0 1 1 0xF00) (sE e0)) (fun t => (t.eng 0).flt.status == 0x22) = true := by decide +kernel

/-- Page 1 of context 1 lies at 2 MiB of slice 0. -/
def pmt1 : SMap PmtEntry := [(pmtSet 0 1 1 * 8, ⟨false, true, true, 1, 1, 32, 0⟩)]

/-- The device with that entry. -/
def sP (x : Engine) : State := { sE x with pmt := pmt1 }

theorem test_rld : (started h0 (sP e0)).xlatRange 1 0x10000 64 false = .ok [(0x200000, 64)] ∧
    nx (exec (.rld h0 4 3 0 63) (sP e0)) (fun t => (t.eng 0).pend == [⟨10, 330, .vreg 4, maskAt 32256 512, 0, none,
      some ⟨0x10000, [(0x200000, 64)], 4032, 0⟩, true⟩]) = true := by
  constructor
  · rfl
  · decide +kernel
theorem test_rst : nx (exec (.rst h0 1 3 0 0) (sP e0)) (fun t =>
    (t.eng 0).posted.map (fun p => (p.va, p.pieces, p.data.take 5)) == [(0x10000, [(0x200000, 64)], [2, 0, 0, 0, 3])]) = true := by
  decide +kernel

/-- A fetch queue with one entry ready. -/
def fq1 : FetchQ := { state := 1, esz := 0, entries := 2, ents := [{ st := .ready, data := [1, 2], src := [], nsrc := 2, stat := 0, sub := 0, det := 0 }], granted := 1 }

theorem test_fqpop : nx (exec (.fqpop h0 4 2) (sE { e0 with fqs := [(2, fq1)] })) (fun t =>
    (t.eng 0).pend == [⟨10, 14, .vreg 4, maskAt 0 512, 0x201, none, none, true⟩] && ((t.eng 0).fq 2).ret == 1 &&
      ((t.eng 0).fq 2).ents == []) = true := by decide +kernel
theorem test_fqpop_empty : nx (exec (.fqpop h0 4 2) (sE { e0 with fqs := [(2, { fq1 with ents := [] })] })) (fun t =>
    (t.eng 0).run == .waitFq 2 4) = true := by decide +kernel

/-- An engine whose argument names ring 9, consumer port 0. -/
def eR : Engine := { e0 with sregs := [(1, 5), (56, 9)] }

/-- Ring 9, of context 1, has four slots and is enabled. -/
def sR (x : Ring) (y : Engine) : State :=
  let s := sE y
  { s with rings := [(9, x)], regs := (((s.fset (.frCfg 9) 6 0 4).fset (.frCfg 9) 43 32 1).fset (.frCfg 9) 63 48 1).regs }

theorem test_racq : (sR { state := 1 } eR).ringMisuse 0 0 .producer true = false ∧ ({ state := 1 } : Ring).free 0 = true ∧
    (eR.ringOp 0).1 = 9 ∧ nx (exec (.racq h0 4 0 .producer) (sR { state := 1, pseq := 6 } eR)) (fun t =>
      (t.eng 0).pend == [⟨10, 14, .sreg 4, allS, 0x2000000020000, none, none, true⟩] && (t.ring 9).prod == some ⟨2, .task task1.id⟩ &&
        (t.eng 0).held == [(9, 0, .producer)]) = true := by decide +kernel
theorem test_rrel : (sR { state := 1, prod := some ⟨2, .task task1.id⟩ } { eR with held := [(9, 0, .producer)] }).ringMisuse 0 0
      .producer false = false ∧
    nx (exec (.rrel h0 0 .producer) (sR { state := 1, prod := some ⟨2, .task task1.id⟩ } { eR with held := [(9, 0, .producer)] }))
      (fun t => (t.eng 0).held == [] && (t.eng 0).syncs == [⟨10, .release 9 0 .producer⟩]) = true := by decide +kernel
theorem test_biasld : nx (exec (.biasld h0 3 1 0) (sE e0)) (fun t =>
    (t.eng 0).pend.map (fun p => (p.due, p.dest, p.val % 2 ^ 64)) == [(12, .bias 3, 0x300000002)]) = true := by decide +kernel
theorem test_palwr : nx (exec (.palwr h0 63 .fp16 1 255 1) (sE e0)) (fun t =>
    (t.eng 0).pend.map (fun p => (p.due, p.dest, p.mask == maskAt 4080 16, p.val / 2 ^ 4080 % 65536)) ==
      [(12, .pal 63 (fmtCode .fp16), true, 2)]) = true := by decide +kernel

/-! ### Vector instructions -/

/-- Elements of type `et`, results to V3, predicate PR1, which enables lane 0. -/
def vc (et : EType) : VCommon := ⟨et, 3, 1, 2, 4, 1, false, false⟩

theorem test_vop2 : (issuer h0 (sE e0)).readyV 1 ∧ (issuer h0 (sE e0)).readyP 1 ∧ (vc .int32).et.arith = true ∧
    nx (exec (.vop2 h0 .sub (vc .int32)) (sE e0)) (fun t =>
      (t.eng 0).pend.map (fun p => (p.due, p.dest, blend 0 p.mask p.val)) == [(13, .vreg 3, 0xFFFFFFFE)]) = true := by
  unfold Engine.readyV Engine.readyP Engine.settled; decide +kernel
theorem test_vop2_shift : nx (exec (.vop2 h0 .shl (vc .int32)) (sE e0)) (fun t =>
      (t.eng 0).pend.map (fun p => blend 0 p.mask p.val) == [32]) = true := by decide +kernel
theorem test_vfma : nx (exec (.vfma h0 (vc .int32)) (sE { e0 with vregs := [(1, 3), (2, 0xFFFFFFFF), (4, 10)] })) (fun t =>
      (t.eng 0).pend.map (fun p => (p.due, blend 0 p.mask p.val)) == [(14, 7)]) = true := by decide +kernel
theorem test_vsel : nx (exec (.vsel h0 (vc .int32)) (sE e0)) (fun t =>
      (t.eng 0).pend.map (fun p => (p.due, blend 0 p.mask p.val)) == [(12, 0x500000002)]) = true := by decide +kernel
theorem test_vperm : nx (exec (.vperm h0 (vc .int32)) (sE { e0 with vregs := [(1, 0x300000002), (2, 1)] })) (fun t =>
      (t.eng 0).pend.map (fun p => (p.due, blend 0 p.mask p.val)) == [(14, 3)]) = true := by decide +kernel
theorem test_vfn : vfnLat .rcp = 8 ∧ nx (exec (.vfn h0 .rcp (vc (.fmt .fp32))) (sE { e0 with vregs := [(1, 0x40000000)] })) (fun t =>
      (t.eng 0).pend.map (fun p => blend 0 p.mask p.val) == [0x3F000000]) = true := by decide +kernel
theorem test_vbcast : nx (exec (.vbcast h0 2 (vc .int32)) (sE e0)) (fun t =>
      (t.eng 0).pend.map (fun p => (p.due, blend 0 p.mask p.val)) == [(12, 0xFFFFFFFF)]) = true := by decide +kernel
theorem test_vcvt : vcvtOk (.fmt .fp16) 1 { vc (.fmt .fp32) with vc := 0, pr := 0 } = true ∧
    nx (exec (.vcvt h0 (.fmt .fp16) 1 { vc (.fmt .fp32) with vc := 0, pr := 0 }) (sE { e0 with vregs := [(1, 0x3F800000)] })) (fun t =>
      (t.eng 0).pend.map (fun p => (p.due, blend 0 p.mask p.val)) == [(14, 0x3C00 * 2 ^ 16384)]) = true := by decide +kernel
theorem test_vcvt_mx : vcvtOk (.fmt .mxfp4) 0 { vc (.fmt .fp32) with vc := 0, pr := 0 } = true ∧
    nx (exec (.vcvt h0 (.fmt .mxfp4) 0 { vc (.fmt .fp32) with vc := 0, pr := 0 }) (sE { e0 with vregs := [(1, 0x40C00000)] })) (fun t =>
      (t.eng 0).pend.map (fun p => (p.dest, blend 0 p.mask p.val % 256)) == [(.vreg 3, 7), (.vreg 4, 127)]) = true := by
  decide +kernel
theorem test_pq : nx (exec (.pq h0 3 1 3 0 2 0 true 1) (sE { e0 with vregs := [(1, 0x40A00000)], pal := [(2, ⟨0x0401, 1⟩)] }))
    (fun t => (t.eng 0).pend.map (fun p => (p.due, blend 0 p.mask p.val / 2 ^ 24576 % 256)) == [(16, 1)]) = true := by decide +kernel
theorem test_vred : nx (exec (.vred h0 .sum 0 { vc .int32 with pr := 0 }) (sE e0)) (fun t =>
      (t.eng 0).pend.map (fun p => (p.due, p.mask, p.val)) == [(20, 0xFFFFFFFF, 5)]) = true := by decide +kernel
theorem test_vred_arg : nx (exec (.vred h0 .argmax 0 { vc .int32 with pr := 0 }) (sE e0)) (fun t =>
      (t.eng 0).pend.map (fun p => (p.dest, blend 0 p.mask p.val)) == [(.vreg 3, 1), (.vreg 4, 3)]) = true := by decide +kernel
theorem test_vext : nx (exec (.vext h0 4 2 .int32 1) (sE { e0 with vregs := [(2, 0x8000000000000004)] })) (fun t =>
      (t.eng 0).pend == [⟨10, 13, .sreg 4, allS, 0xFFFFFFFF80000000, none, none, true⟩]) = true := by decide +kernel
theorem test_wgcfg : nx (exec (.wgcfg h0 3 0x25 2) (sE e0)) (fun t =>
      (t.eng 0).pend == [⟨10, 11, .win 3 0x25, 0xFFFFFFFF, 0xFFFFFFFF, none, none, true⟩]) = true := by decide +kernel
theorem test_vcmp : nx (exec (.vcmp h0 .lt 15 { vc .int32 with vd := 0 }) (sE e0)) (fun t =>
      (t.eng 0).pend.map (fun p => (p.due, p.dest, blend 6 p.mask p.val)) == [(12, .preg 15, 7)]) = true ∧
    nx (exec (.vcmp h0 .lt 0 { vc .int32 with vd := 0 }) (sE e0)) (fun t => (t.eng 0).pend == []) = true := by decide +kernel
theorem test_plog : nx (exec (.plog h0 .not 2 1 0 0 false 0) (sE e0)) (fun t =>
      (t.eng 0).pend.map (fun p => (p.due, blend 0 p.mask p.val % 8)) == [(11, 6)]) = true := by decide +kernel
theorem test_plog_firstn : nx (exec (.plog h0 .firstn 2 0 0 0 false 1) (sE e0)) (fun t =>
      (t.eng 0).pend.map (fun p => blend 0 p.mask p.val) == [31]) = true := by decide +kernel

/-! ### Numbers: the worked examples of chapters 2, 3, 5, 6 and 7 -/

/-- 0.3 to FP8-E4M3. -/
theorem test_conv_e4m3 : convElem (.fmt .fp32) (.fmt .e4m3) false 0x3E99999A = 0x2A := by decide +kernel

/-- The palette −1.0, −0.25, 0, 0.5, 2.0 in FP16 and the inputs 0.25, 1.3, −0.7. -/
theorem test_palette_quantise :
    [0x3E800000, 0x3FA66666, 0xBF333333].map (pqCode (fmtCode .fp16) [0xBC00, 0xB400, 0x0000, 0x3800, 0x4000]) = [2, 4, 0] := by
  decide +kernel

/-- The layer block of the anode-foil example: z_x 128, inv_s_y 64, RELU, INT8. -/
def blk0 : LayerBlk :=
  { parseLayer (List.replicate 128 0) with zx := 128, invS := 0x42800000, qmin := -128, qmax := 127, tfmt := 1, act := 1 }

/-- Channels 17 and 18 of the example. -/
theorem test_drain_example :
    (drainOut blk0 {} (drainV blk0 .i32 ⟨0x3A000000, 0xBF400000, 312⟩ 45210, false)).code = 117 ∧
    drainOut blk0 {} (drainV blk0 .i32 ⟨0x3A000000, 0, 300⟩ 43100, false) = ⟨127, true, true, false⟩ ∧
    drainV blk0 .i32 ⟨0x3A000000, 0xBF400000, 312⟩ 45210 = 0x3FE9A000 := by decide +kernel

/-- Blocks A and B of the MXFP4 example, padded with zeros. -/
theorem test_mx_example :
    mxBlocks (([0x40A9999A, 0xBE4CCCCD] ++ List.replicate 30 0).map dec32) = ([0x7F], [7, 8] ++ List.replicate 30 0) ∧
    mxBlocks (([0x3F666666] ++ List.replicate 31 0).map dec32) = ([0x7C], [7] ++ List.replicate 31 0) := by decide +kernel

/-- The CMM of the classification MLP. -/
def cmm1 : CmmWord := ⟨false, false, false, false, false, .zero, .imm 512, .imm 768, .imm 1024, .int8, .int8⟩
/-- Its CX, in the first and in the second instruction. -/
def cx1 : CxWord := ⟨.imm 0, 0, 0, 0, 0, 0, false, 1, 2⟩

theorem test_cmm_word : encodeCmm cmm1 = 0x0088006004001110 ∧ encodeCx cx1 = 0x223E ∧
    encodeCx { cx1 with acmb := 2048 } = 0x10000223E ∧
    decodeBundle h0 0x0088006004001110 0x223E 0 0 = .ok { c := some (.cmm h0 cmm1 cx1) } := by decide +kernel

/-- Output sizes of the 7 × 7 filter on the 4 × 4 map with one and two pixels of padding, and of the 1 × 1 filter. -/
theorem test_window_sizes :
    outH (fun f => if f = 5 then 4 else if f = 0x0B then 7 else if f = 0x11 ∨ f = 0x12 then 1 else 1) = 0 ∧
    outH (fun f => if f = 5 then 4 else if f = 0x0B then 7 else if f = 0x11 ∨ f = 0x12 then 2 else 1) = 2 ∧
    outH (fun f => if f = 5 then 16 else if f = 0x0D then 4 else if f = 0x11 ∨ f = 0x12 then 0 else 1) = 4 := by decide +kernel

/-- The frames of the stripe of NE3: SATC 498 fits, 731 asks for a re-run. -/
theorem test_decision_example :
    decision 0 { blk0 with satThr := 64, minOuts := 1000000, rrLatest := 1738540 } ⟨8388608, 498, 0, 0⟩ 0 255 514300 = .fits ∧
    decision 0 { blk0 with satThr := 64, minOuts := 1000000, rrLatest := 1738540 } ⟨8388608, 731, 0, 0⟩ 0 255 514300 = .rerun ∧
    decision 0 { blk0 with satThr := 64, minOuts := 1000000, rrLatest := 514299 } ⟨8388608, 731, 0, 0⟩ 0 255 514300 ≠ .rerun := by
  decide +kernel

/-- The line of the anode-foil coater's DDR5. -/
theorem test_ddr_example :
    { State.reset with ddr := { density := 16, x4 := false, ranks := 2, cap := 2 ^ 37 } }.ddrLoc 0x1234567880 = ⟨2, 4, 2, 25, 1, 37282⟩ := by
  decide +kernel

/-! ### Canvas, drain and what lands -/

/-- A 1 × 1 × 1 product of INT8: weight at A2, pixel at A1. -/
def cmmS : CmmWord := { cmm1 with nsz := .imm 1, ksz := .imm 1, msz := .imm 1 }

/-- The engine for it. -/
def eC : Engine := { e0 with aregs := [(1, { base := 0x100 }), (2, { base := 0x200 })] }

theorem test_cmm : cmmOk cmmS cx1 = true ∧ acmBad (eC.sample 0 cmmS cx1) = none ∧ eC.tagHazard (eC.sample 0 cmmS cx1) = none ∧
    nx (exec (.cmm h0 cmmS cx1) (sE eC)) (fun t => (t.eng 0).cBusy == 10 + 257 && ((t.eng 0).acmRow 0).tag == 1 &&
      (t.eng 0).ops.map (·.steps) == [257]) = true := by decide +kernel
theorem test_cmm_empty : nx (exec (.cmm h0 { cmmS with msz := .imm 0 } cx1) (sE eC)) (fun t =>
    (t.eng 0).empty && (t.eng 0).cBusy == 18) = true := by decide +kernel
theorem test_cmm_busy : nx (exec (.cmm h0 cmmS cx1) (sE { eC with cBusy := 11 })) (fun t =>
    (t.eng 0).flt.status == 0x40 && (t.eng 0).flt.sub == 6) = true := by decide +kernel
theorem test_cmm_footprint : nx (exec (.cmm h0 { cmmS with ksz := .imm 0, msz := .imm 2 } { cx1 with acmb := 4095 }) (sE eC))
    (fun t => (t.eng 0).flt.status == 0x22 && (t.eng 0).flt.sub == 3) = true := by decide +kernel

/-- After the instruction its row holds weight times pixel, 263 cycles after its vector entered. -/
theorem test_product : nx (exec (.cmm h0 cmmS cx1) { sE eC with mem := [(0x100, 5), (0x200, 0xFD)] }) (fun t =>
      nx (exec (.acmRowWrite 0) { t with engines := minsert 0 { t.eng 0 with run := .ending } t.engines }) (fun u =>
        ((u.eng 0).acmRow 0).data % 2 ^ 32 == 2 ^ 32 - 15 && ((u.eng 0).acmRow 0).tag == 0 && (u.eng 0).cyc == 530)) = true := by
  decide +kernel

theorem test_drn_raw : nx (exec (.drn h0 5 3 true false 0 0 (.imm 7)) (sE { e0 with acm := [(7, { data := 9, tag := 0 })] }))
    (fun t => (t.eng 0).pend.map (fun (p : PendRes) => (p.due, p.dest, p.mask == maskAt 24576 8192, p.val)) ==
      [(18, .vreg 5, true, 9 * 2 ^ 24576)]) = true := by decide +kernel
theorem test_drn_zero : nx (exec (.drn h0 5 3 true false 0 0 (.imm 7)) (sE { e0 with acm := [(7, { data := 9 })] }))
    (fun t => (t.eng 0).pend.map (fun (p : PendRes) => p.val) == [0]) = true := by decide +kernel

/-- An engine that drains. -/
def eD : Engine := { run := .ending, cyc := 10, endRec := ⟨2, 0, 0, 0, 0⟩, faulted := true }

theorem test_quiet : eD.quiet := by unfold Engine.quiet; decide +kernel
theorem test_result_write : nx (exec (.resultWrite 0) (sE { eD with pend := [⟨8, 13, .sreg 4, allS, 77, none, none, true⟩] }))
    (fun t => (t.eng 0).sreg 4 == 77 && (t.eng 0).cyc == 13 && (t.eng 0).pend == []) = true := by decide +kernel
theorem test_own_store : nx (exec (.ownStorePerformed 0) (sE { eD with stores := [⟨8, 14, 0, 0x40, [1, 2]⟩] }))
    (fun t => t.mem == [(0x40, 1), (0x41, 2)] && (t.eng 0).cyc == 14 && (t.eng 0).stores == []) = true := by decide +kernel

/-- A row of 256 sums in flight. -/
def row1 : RowWrite := ⟨12, 7, .i32, [5, -7] ++ List.replicate 254 0, 2 ^ 256 - 1, false, false, 0, false, 0, 0⟩

theorem test_acm_row : nx (exec (.acmRowWrite 0) (sE { eD with rows := [row1], acm := [(7, { data := 0x80000000, tag := 0 })] }))
    (fun t => ((t.eng 0).acmRow 7).data % 2 ^ 64 == 0xFFFFFFF980000005 && (t.eng 0).rows == []) = true := by decide +kernel
theorem test_row_saturates : (({ e0 with acm := [(7, { data := 0x7FFFFFFE, tag := 0 })] } : Engine).writeRow row1).data % 2 ^ 32 = 0x7FFFFFFF ∧
    (({ e0 with acm := [(7, { data := 0x7FFFFFFE, tag := 0 })] } : Engine).writeRow row1).sat % 4 = 1 := by decide +kernel
theorem test_rld_reply : nx (exec (.rldReply 0 0) { winAt 0 0 0x20 1 (sE { e0 with pend := [⟨8, 320, .vreg 4, maskAt 512 512, 0, none,
      some ⟨0x10000, [(0x200000, 64)], 64, 0⟩, true⟩] }) with mem := [(0x200001, 3)] }) (fun t =>
    (t.eng 0).pend == [⟨8, 320, .vreg 4, maskAt 512 512, 3 * 2 ^ 520, none, none, true⟩]) = true := by decide +kernel
theorem test_bank_grant : nx (exec (.bankGrant 0 [⟨.stationary, 5⟩, ⟨.streaming, 453⟩]) (sE e0)) (fun t =>
    (t.eng 0).stBank == 1 && (t.eng 0).elapsed == 1) = true := by decide +kernel


/-! ### Pentimento -/

/-- An image of context 1 with a layer, its alternate-body directory at 0x4000. -/
def im1 : Image := ⟨1, 1, 0, 0x20000, 1, false, 0, 0, 0, 0x800, 16, some 0x4000, some 0x3000, 1, 4, 0x5000, 3, []⟩

/-- A number as bytes in memory. -/
def put (a n v : Nat) (s : State) : State := s.setBytes a (leBytes n v)

/-- The layer's block (mode RERUN, SAT_THR 2^-8, MIN_OUTS 1, decision bundle 4, no latest) and the directory entry. -/
def mem1 : State :=
  put 0x4010 8 (2 + 3 * 2 ^ 32) <| put 0x3080 4 0xFFFFFFFF <| put 0x3078 4 4 <| put 0x3070 4 1 <| put 0x3064 4 0x1000 <|
    put 0x3061 1 2 State.reset

/-- Engine 0 at bundle 4 with counts in its monitor. -/
def sD (m : Monitor) : State :=
  { mem1 with images := [(3, im1)], engines := [(0, { e0 with ctl := { pc := 4 }, mons := [(0, m)], guards := [0] })] }

theorem test_decision_due : ((sD ⟨100, 1, 0, 0⟩).decisionDue 0).map (·.1) = some 0 ∧ (sD ⟨100, 1, 0, 0⟩).undecided 0 = true ∧
    (advance 0 0 (sD ⟨100, 1, 0, 0⟩)).2 = true := by decide +kernel
theorem test_rerun : nx (exec (.pentimentoDecision h0) (sD ⟨100, 1, 0, 0⟩)) (fun t => (t.eng 0).ctl.pc == 0x80000002 &&
    (t.eng 0).ctl.altRet == some 4 && (t.eng 0).ctl.altLast == 0x80000004 && (t.eng 0).ctl.hold == 2 && (t.eng 0).pent &&
    (t.eng 0).pntRe == 1 && (t.eng 0).stores == []) = true := by decide +kernel
theorem test_fits : nx (exec (.pentimentoDecision h0) (sD ⟨1000, 1, 0, 0⟩)) (fun t => (t.eng 0).ctl.decided &&
    (t.eng 0).guards == [] && (t.eng 0).stores == [⟨10, 16, 4, 0x5000, pntRecord .fits 0 ⟨1000, 1, 0, 0⟩⟩]) = true := by
  decide +kernel

/-- The same after the alternate body. -/
def sRes : State :=
  sE { e0 with ctl := { pc := 4, resume := some (0, [1, 1]), hold := 2 }, guards := [0] }

theorem test_resume : (advance 0 2 sRes).2 = true ∧ nx (exec (.decisionBundleResume 0) sRes) (fun t =>
    (t.eng 0).ctl.resume == none && (t.eng 0).ctl.decided && (t.eng 0).guards == [] && (t.eng 0).cyc == 12 &&
      (t.eng 0).stores == [⟨12, 18, 4, 0, [1, 1]⟩]) = true := by decide +kernel

/-! ### Start and end of engine commands -/

/-- A task of context 1 with arguments 1 to 8. -/
def task2 : Task := { task1 with args := [1, 2, 3, 4, 5, 6, 7, 8], s53 := 9, s54 := 10, s55 := 11, image := 3 }

/-- Fuses of some device. -/
def fuse1 : Fuses := ⟨0, 0, [32, 32, 32, 32, 32, 32], [0, 0, 0, 0, 0, 0]⟩

/-- Engine 0 idle with a task queued and old vector and scalar contents, last used by context 1. -/
def sQ (k : Task) : State :=
  { sE { queue := [k], vregs := [(1, 7)], sregs := [(1, 7)], lastCtx := some 1 } with
    images := [(3, { im1 with entry := 5 })], regs := (State.reset.rset (.neCtl 0) 1).regs, fuse := fuse1 }

theorem test_start : nextTask ((sQ task2).eng 0).queue = some task2 ∧ ((sQ task2).eng 0).run = .idle ∧
    ((sQ task2).eng 0).idle = .active ∧ (sQ task2).fget (.neCtl 0) 0 0 = 1 ∧ mfind (sQ task2).images task2.image ≠ none ∧
    task2.args.length = 8 := by decide +kernel
theorem test_part_start : nextTask ((sQ { task2 with id := ⟨0, 7, some 0⟩ }).eng 0).queue = some { task2 with id := ⟨0, 7, some 0⟩ } ∧
    (({ task2 with id := ⟨0, 7, some 0⟩ } : Task).id.eng.isSome = true) := by decide +kernel

/-- A descriptor with the given bytes, the others zero. -/
def desc (l : List (Nat × Byte)) : List Byte := (List.range 64).map fun i => ((l.find? fun p => p.1 == i).map (·.2)).getD 0

/-- An accepted command of queue 0. -/
def cmd (seq : Nat) (ph : CmdPhase) (l : List (Nat × Byte)) : Cmd := 
  { sq := 0, seq := seq, rseq := seq, ctx := 1, desc := desc l, sync := [], phase := ph, pins := [], pre := none }

/-- An engine whose command has ended. -/
def eE (r : FaultRec) (k : Task) : Engine := { run := .ending, cyc := 10, elapsed := 20, task := some k, endRec := r }

theorem test_complete : nx (exec (.commandComplete 0) { sE (eE ⟨0x23, 2, 9, 1, 5⟩ task1) with cmds := [cmd 7 .running [(0, 4)]] })
    (fun t => (t.eng 0).run == .idle && t.rget (.ctxEngcyc 1) == 22 && t.cmds == [] &&
      t.commitQ.map (fun r => (r.status, r.sub, r.index, r.failEng, r.failSlot, r.detail)) == [(0x23, 2, 9, 0, 1, 5)]) = true := by
  decide +kernel

/-- The first part of two ends; then the second. -/
theorem test_part_end : nx (exec (.partEnd 0) { sE (eE ⟨0, 0, 9, 1, 5⟩ { task1 with id := ⟨0, 7, some 0⟩ }) with
      cmds := [{ cmd 7 .running [(0, 4), (1, 2)] with parts := [⟨0, none⟩, ⟨1, none⟩] }] })
    (fun t => t.commitQ == [] && (t.cmds.map fun c => c.parts.map fun p => p.result.isSome) == [[true, false]] &&
      nx (exec (.partEnd 1) { t with engines := [(1, eE ⟨0, 0, 9, 1, 5⟩ { task1 with id := ⟨0, 7, some 1⟩ })] }) (fun u =>
        u.commitQ.map (fun r => (r.status, r.sub, r.seq)) == [(0, 0, 7)] && u.cmds == [])) = true := by decide +kernel

/-! ### Stops -/

theorem test_admits : (sE e0).admits .gallery (.neCtl 0) true := by unfold State.admits; decide +kernel
theorem test_stop : nx (exec (.stopReq .gallery 0) (sE e0)) (fun t => (t.eng 0).stop && (t.eng 0).run == .issuing) = true ∧
    nx (exec (.stopReq .gallery 0) (sE { e0 with run := .waitFence })) (fun t => (t.eng 0).run == .ending &&
      (t.eng 0).endRec.status == 2 && (t.eng 0).faulted == false) = true := by decide +kernel

/-- Queue 0 of context 1 has accepted 9 descriptors. -/
def sAb (l : List Cmd) : State := { State.reset with cmds := l, sqs := [(0, { dev := 9 })] }

/-! ### Descriptors, dispatch and completion -/

/-- Queue 1 (context 1, eight entries, completion queue 2) with its ring at 0x1000 and its doorbell record at 0x2000; its host
index is 3. -/
def sK (poll : Nat) : State :=
  let s := State.reset
  put (hostBase + 0x2000) 4 3 <| put (hostBase + 0x1000) 8 1 <|
  { s with
    ready := true, pcie := { width := 4, speed := 3 }
    regs := (((((((s.rset (.sqCfg 1) (0x80022001)).rset (.sqBase 1) 0x1000).rset (.sqDb 1) 0x2000).rset
      (.cqCfg 2) 0x80002000).rset (.cqBase 2) 0x3000).rset (.cqDb 2) 0x4000).rset (.sqPollR 1) poll).regs }

/-- Queue 1 has fetched descriptor 6, an ABORT of descriptor 5. -/
def sAbort (l : List Cmd) : State :=
  put (hostBase + 0x1180) 1 6 <| put (hostBase + 0x1190) 1 1 <| put (hostBase + 0x1194) 1 5 <|
    { sK 0 with cmds := l, sqs := [(1, { dev := 6, fetched := [desc [(0, 6), (16, 1), (20, 5)]] })] }

theorem test_abort_done : nx (exec (.abort 1 6) (sAbort [])) (fun t =>
      t.commitQ.map (fun r => (r.seq, r.status)) == [(6, 3)] && t.cmds == [] && (t.sq 1).dev == 7) = true := by decide +kernel
theorem test_abort : nx (exec (.abort 1 6) (sAbort [{ cmd 5 .accepted [(0, 1)] with sq := 1 }])) (fun t =>
      t.commitQ.map (fun r => (r.seq, r.status)) == [(5, 2), (6, 0)] && t.cmds == []) = true := by decide +kernel
theorem test_abort_other : nx (exec (.abort 1 7) (sAbort [])) (fun t => t.sq 1 == (sAbort []).sq 1) = true := by decide +kernel
theorem test_kick : (sK 0).sqEn 1 = true ∧ (sK 0).sqSize 1 = 8 ∧ (sK 0).cqOf 1 = 2 ∧ (sK 0).hostOk 0x1000 512 = true ∧
    nx (exec (.kick 1) (sK 0)) (fun t => (t.sq 1).host == 3 && (t.sq 1).fetched.map (fun d => (d.length, fieldAt d 0 1)) ==
      [(64, 1), (64, 0), (64, 0)]) = true := by decide +kernel
theorem test_poll : nx (exec (.sqPoll 1) (sK 5)) (fun t => (t.sq 1).fetched.length == 3) = true ∧
    nx (exec (.sqPoll 1) (sK 0)) (fun t => (t.sq 1).fetched.length == 0) = true := by decide +kernel
theorem test_need_kick : nx (exec (.kick 1) { sK 0 with sqs := [(1, { dev := 3 })] }) (fun t => (t.sq 1).needKick &&
    t.field (hostBase + 0x2008) 8 == 3 + 2 ^ 32) = true := by decide +kernel
theorem test_accept : nx (exec (.descriptorAccept 1) { sK 0 with sqs := [(1, { fetched := [desc [(0, 1)], desc []] })] }) (fun t =>
    t.cmds.map (fun c => (c.sq, c.seq, c.ctx, c.desc.take 2)) == [(1, 0, 1, [1, 0])] && (t.sq 1).dev == 1 &&
      (t.cq 2).reserved == 1 && t.field (hostBase + 0x2008) 4 == 1) = true := by decide +kernel
theorem test_accept_bad : descBad false (desc [(0, 1), (12, 1)]) = true ∧
    nx (exec (.descriptorAccept 1) (put (hostBase + 0x100C) 1 1 { sK 0 with sqs := [(1, { fetched := [desc [(0, 1), (12, 1)], desc []] })] }))
      (fun t => t.commitQ.map (fun r => (r.status, r.sub)) == [(0x10, 0x10)]) = true := by decide +kernel

theorem test_dispatch : nx (exec (.commandDispatch 0) (sAb [cmd 7 .accepted [(0, 1)]])) (fun t =>
    t.cmds == [cmd 7 .dispatched [(0, 1)]]) = true := by decide +kernel
theorem test_prewait : nx (exec (.commandDispatch 0) { sF e0 4 with
      cmds := [{ cmd 7 .accepted [(0, 1), (4, 2)] with sync := [⟨5, 0, 0, 5⟩] }] }) (fun t =>
    t.cmds.map (·.phase) == [.prewait 0] && t.waits.map (fun w => (w.fence, w.target, w.deadline)) == [(105, 5, some 2000)]) = true := by
  decide +kernel
theorem test_nop : nx (exec (.nop 0 7) (sAb [cmd 7 .dispatched [(0, 1), (8, 0x44)]])) (fun t =>
    t.cmds == [] && t.commitQ.map (fun r => (r.status, r.cmdId, r.seq)) == [(0, 0x44, 7)]) = true := by decide +kernel

/-- A WINDOW command for window 3 of slice 2: two units from unit 5, reads and writes. -/
def wcmd (op : Byte) : Cmd := cmd 7 .dispatched [(0, 7), (16, 2), (17, 3), (18, op), (19, 3), (20, 5), (22, 2)]

theorem test_window : (sAb [wcmd 1]).winCmdRefused (wcmd 1).desc = false ∧
    nx (exec (.window 0 7) (sAb [wcmd 1])) (fun t => t.commitQ.map (·.status) == [0] && t.winState 2 3 == 1 &&
      t.winLo 2 3 == 0x50000 && t.winHi 2 3 == 0x70000 && t.fget (.gsWinCtl 2 3) 3 2 == 3) = true := by decide +kernel
theorem test_window_close : nx (exec (.window 0 7) (winAt 2 3 5 2 (sAb [wcmd 2]))) (fun t => t.winState 2 3 == 2 &&
      t.cmds.map (·.phase) == [.running]) = true := by decide +kernel

/-- An SDMA_ARM of channel 2, list 0x4000, of context 1 which the channel serves. -/
def armc : Cmd := cmd 7 .dispatched [(0, 5), (16, 2), (25, 0x40)]

/-- The device with it. -/
def sArm (x : Sdma) : State :=
  let s := sAb [armc]
  { s with regs := (s.rset (.sdmaCfg 2) (1 + 2 ^ 16)).regs, sdmas := [(2, x)] }

/-- Its list. -/
def run1 : ListRun := newRun 1 0x4000 (some ⟨0, 7, none⟩) []

theorem test_arm : nx (exec (.sdmaArm 0 7) (sArm {})) (fun t => t.sdmas == [(2, { cur := some run1 })] && t.commitQ == []) = true := by
  decide +kernel
theorem test_arm_latch : nx (exec (.sdmaArm 0 7) (sArm { cur := some { run1 with idx := 3 } })) (fun t =>
    (t.sdmas.map fun p => p.2.latched) == [some run1]) = true := by decide +kernel
theorem test_arm_full : nx (exec (.sdmaArm 0 7) (sArm { cur := some { run1 with idx := 3 }, latched := some run1 })) (fun t =>
    t.commitQ.map (·.status) == [0x60]) = true := by decide +kernel


/-! ### Images -/

/-- A section table entry. -/
def sectEnt (ty off size place : Nat) : List Byte := leBytes 8 ty ++ leBytes 8 off ++ leBytes 8 size ++ leBytes 8 place

/-- An image whose program is the one bundle END: header, five sections, their contents; declared cycles `n`. -/
def rawImage (n : Nat) : List Byte :=
  leBytes 4 0x424B4149 ++ leBytes 2 1 ++ leBytes 2 128 ++ leBytes 4 0 ++ leBytes 4 5 ++ leBytes 8 512 ++ leBytes 8 128 ++
    leBytes 2 1 ++ leBytes 2 0 ++ leBytes 4 0 ++ leBytes 8 0 ++ leBytes 32 0 ++ leBytes 48 0 ++
    sectEnt 1 320 16 0 ++ sectEnt 2 384 64 0 ++ sectEnt 3 448 32 0x400 ++ sectEnt 4 512 0 0 ++ sectEnt 5 512 0 0 ++ leBytes 32 0 ++
    leBytes 64 n ++ (leBytes 8 0x10000 ++ leBytes 2 1 ++ leBytes 10 0 ++ leBytes 1 0x3F ++ leBytes 43 0) ++
    (leBytes 8 0 ++ leBytes 8 (((encodeWord (.end_ h0)).map (·.2)).getD 0) ++ leBytes 48 0)

/-- With its digest. -/
def image (n : Nat) : List Byte := (rawImage n).take 48 ++ sha256 (digested (rawImage n)) ++ (rawImage n).drop 80


/-- The image at page 1 of context 1, and a LOAD_IMAGE of `n` bytes into handle 3 for engine 0 with 1 unit of task space. -/
def sLoad (b : List Byte) (lim : Byte) : State :=
  { (winAt 0 0 0x20 1 <| winAt 0 1 0 2 State.reset).setBytes 0x200000 b with
    pmt := pmt1, cmds := [cmd 7 .dispatched [(0, 2), (16, 3), (18, 1), (22, lim), (26, 1), (33, 2)]] }

theorem test_load : ((sLoad (image 1) 1).verify (image 1) 1 = none) ∧
    nx (exec (.loadImage 0 7) (sLoad (image 1) 1)) (fun t => t.commitQ.map (fun r => (r.status, r.sub)) == [(0, 0)] &&
      (mfind t.images 3).map (fun i => (i.ctx, i.engs, i.tbase, i.entry, i.bundles)) == some (1, 1, 0, 0, 1) &&
      t.byte 0x40F == ((image 1).getD 463 0)) = true := by decide +kernel
theorem test_load_refused : nx (exec (.loadImage 0 7) (sLoad (rawImage 1) 1)) (fun t =>
      t.commitQ.map (fun r => (r.status, r.sub)) == [(0x10, 5)] && t.images == []) = true := by decide +kernel
theorem test_verify_cycles : (State.reset.verify (image 2) 1).map (·.sub) = some 0xF := by decide +kernel

theorem test_unload : nx (exec (.unloadImage 0 7) { sAb [cmd 7 .dispatched [(0, 3), (16, 3)]] with images := [(3, im1), (4, im1)] }) (fun t =>
      t.commitQ.map (·.status) == [0] && t.images == [(4, im1)]) = true := by decide +kernel

/-- A RUN of handle 3 on engine 0 with the argument block at page 1. -/
def crun : Cmd := cmd 7 .dispatched [(0, 4), (16, 3), (18, 0), (22, 2), (26, 1)]

/-- The device with it. -/
def sRun : State :=
  { (winAt 0 0 0x20 1 State.reset).setBytes 0x200008 [6] with pmt := pmt1, cmds := [crun], images := [(3, im1)] }

theorem test_run : nx (exec (.run 0 7) sRun) (fun t => (t.eng 0).queue.map (fun k => (k.image, k.ctx, k.tlimit, k.args.take 2)) ==
      [(3, 1, 0x20000, [0, 6])] && t.cmds.map (·.phase) == [.running]) = true := by decide +kernel
theorem test_run_none : nx (exec (.run 0 7) { sRun with images := [] }) (fun t =>
      t.commitQ.map (fun r => (r.status, r.sub)) == [(0x10, 0x11)]) = true := by decide +kernel

/-! ### Records, contexts and queues -/

/-- A record for completion queue 2. -/
def rec1 : Rec := { cq := 2, ctx := 1, cmdId := 0x44, seq := 7, sq := 1, status := 0 }

theorem test_completion : nx (exec (.completionWrite 2) ((sK 0).rset (.cqCfg 2) 0x80042000 |> fun s => { s with commitQ := [rec1], cqs := [(2, { dev := 9, reserved := 1 })] })) (fun t =>
      t.bytes (hostBase + 0x3000 + 32) 32 == recBytes rec1 0 && t.field (hostBase + 0x4008) 4 == 10 && t.commitQ == [] &&
        (t.cq 2).reserved == 0 && (t.cq 2).since == 1) = true := by decide +kernel

theorem test_coalesce : nx (exec (.cqCoalesceTimer 2) { ((((sK 0).rset (.cqTmr 2) 5).rset (.cqCfg 2) 0x80002009).rset (.msixCtl 9) 0) with
      cqs := [(2, { since := 3 })], pcie := { cfg := [(1, 6), (0x2C, 0x80000000)], perst := false, width := 8 } }) (fun t =>
      t.irqs == [.msix 9] && (t.cq 2).since == 0) = true := by decide +kernel

/-- A device in isolated mode that is ready. -/
def sI : State := { State.reset.rset .cpqInit 1 with ready := true }

theorem test_mode : nx (exec (.contextModeSelect .gallery 2) { State.reset with ready := true }) (fun t => t.rget .cpqInit == 2) = true ∧
    nx (exec (.contextModeSelect .gallery 2) sI) (fun t => t.rget .cpqInit == 1) = true := by decide +kernel
theorem test_create : nx (exec (.create .gallery 9) { sI with
      fences := [(5, { val := 3 }), (50, { val := 4 })]
      regs := (sI.rset (.fenceCtxRangeR 9) (2 ^ 32 * 10)).regs }) (fun t => t.ctxSt 9 == 1 && t.fence 5 == {} &&
      (t.fence 50).val == 4 && t.rget .cpqCtxStat == 9 * 65536) = true := by decide +kernel
theorem test_destroy : (sI.rset (.ctxState 9) 1).ctxSt 9 = 1 ∧ (sI.rset (.ctxState 9) 1).ctxCmds 9 = [] ∧
    (∀ a < 16, ∀ b < 64, (sI.rset (.ctxState 9) 1).sqEn (64 * a + b) = false) ∧
    ∀ k < 16, (sI.rset (.ctxState 9) 1).fget (.taqCfg k) 31 31 = 0 := by decide +kernel
theorem test_freed : ((sI.rset (.ctxState 9) 2).destroyed 9) = true ∧
    nx (exec (.contextFreed 9) { sI.rset (.ctxState 9) 2 with
      images := [(3, { im1 with ctx := 9 }), (4, im1)]
      pmt := [(8, ⟨false, true, true, 9, 1, 32, 0⟩), (16, ⟨false, true, true, 1, 1, 32, 0⟩)] }) (fun t => t.ctxSt 9 == 0 &&
        t.images == [(4, im1)] && t.pmt.map (·.1) == [16] && t.fget .cpqEvent 3 3 == 1) = true := by decide +kernel
theorem test_sq_enable : nx (exec (.queueEnWrite .gallery false 1 0x94023001) { (((sK 0).rset (.sqCfg 1) 0).rset .cpqInit 1).rset (.ctxState 1) 1
      with sqs := [(1, { dev := 5 })] }) (fun t =>
      t.sqEn 1 && t.cqOf 1 == 2 && t.sqPrio 1 == 5 && t.sq 1 == {}) = true := by decide +kernel
theorem test_sq_disable : nx (exec (.queueEnWrite .gallery false 1 0) { sK 0 with sqs := [(1, { dev := 5, fetched := [[]], error := true })] })
      (fun t => t.sqEn 1 == false && t.sq 1 == { dev := 5 }) = true := by decide +kernel
theorem test_cq_enable : nx (exec (.queueEnWrite .gallery true 7 0x80003000) (sK 0 |>.rset .cpqInit 1)) (fun t => t.cqEn 7 && t.cqSize 7 == 16) = true ∧
    nx (exec (.queueEnWrite .gallery true 2 0) (sK 0)) (fun t => t.cqEn 2 && t.fget .cpqEvent 4 4 == 1) = true := by decide +kernel

/-! ### Mappings -/

/-- The staging registers name page 1 of context 1, mapped to page 32, with read and write. -/
def sM (o : Option PmtOp) : State :=
  { ((State.reset.rset .pmtStage0 (2 ^ 63 + 2 ^ 48 + 65536)).rset .pmtStage1 (32 * 65536 + 3)) with ready := true, pmt := pmt1, pmtOp := o }

theorem test_pmt_busy : nx (exec (.pmtInstall .gallery) (sM (some (.remove 5 ⟨false, true, true, 1, 1, 32, 0⟩)))) (fun t => t.fget .pmtResult 30 30 == 1 &&
      t.pmtOp == some (.remove 5 ⟨false, true, true, 1, 1, 32, 0⟩)) = true := by decide +kernel
theorem test_pmt_install : nx (exec (.pmtInstall .gallery) { sM none with pmt := [] }) (fun t =>
      nx (exec .pmtOpComplete t) (fun u => u.pmt.map (fun p => (p.2.ctx, p.2.vpn, p.2.ppn)) == [(1, 1, 32)] && u.pmtOp == none &&
        u.fget .pmtResult 31 31 == 0)) = true := by decide +kernel
theorem test_pmt_remove : nx (exec (.pmtRemove .gallery) (sM none)) (fun t =>
      nx (exec .pmtOpComplete t) (fun u => u.pmt == [])) = true ∧
    nx (exec (.pmtRemove .gallery) { sM none with pmt := pinAll pmt1 (pmt1.map (·.1)) }) (fun t => t.pmtOp == some (.fail 0x21 0)) = true := by
  decide +kernel
theorem test_pmt_force : nx (exec (.pmtRemoveForce .gallery) (sM none)) (fun t =>
      t.pmtOp == (sM none).stagedIdx.map (fun i => PmtOp.force i []) && nx (exec .pmtOpComplete t) (fun u => u.pmt == [])) = true := by decide +kernel
theorem test_pmt_lookup : nx (exec (.pmtLookup .gallery) (sM none)) (fun t =>
      nx (exec .pmtOpComplete { t.rset .pmtStage1 0 with pmtOp := t.pmtOp }) (fun u => u.fget .pmtStage0 63 63 == 1 && u.fget .pmtStage1 43 16 == 32)) = true := by
  decide +kernel
theorem test_pmt_read : nx (exec (.pmtRead .gallery) ((sM none).rset .pmtIndex ((pmt1.map (·.1)).headD 0))) (fun t =>
      nx (exec .pmtOpComplete t) (fun u => u.fget .pmtStage0 63 63 == 1 && u.fget .pmtStage0 59 48 == 1)) = true := by decide +kernel

/-! ### The endpoint -/

/-- Window 2 maps context 1 from virtual address 0; the link is up. -/
def sW2 : State :=
  { (winAt 0 0 0x20 1 (State.reset.rset .pcieW2Ctl (2 ^ 31 + 1))).setBytes 0x200004 [9] with pmt := pmt1, pcie := { width := 8, perst := false } }

theorem test_w2 : nx (exec (.window2Access 0x10004 (.read 2)) sW2) (fun t => t.resp == { data := [9, 0] }) = true := by decide +kernel
theorem test_w2_off : nx (exec (.window2Access 0x10004 (.read 2)) (sW2.rset .pcieW2Ctl 0)) (fun t => t.resp.ok == false &&
      t.rget .pcieW2Refused == 1) = true := by decide +kernel
theorem test_config : nx (exec (.configRequest 0x3C (some 0x1A5)) { State.reset with pcie := { early := false } }) (fun t =>
      t.cfgReg 15 == 0xA5) = true ∧
    nx (exec (.configRequest 0x10 (some 0xFFFFFFFF)) { State.reset with pcie := { early := false } }) (fun t =>
      t.cfgReg 4 == 0xFC000000) = true ∧
    nx (exec (.configRequest 0 none) { State.reset with pcie := { early := false } }) (fun t => t.resp.data.length == 4) = true := by
  decide +kernel
theorem test_perst : nx (exec .perstEndpointReset sW2) (fun t => t.pcie.perst && t.pcie.width == 0 && t.pcie.early) = true ∧
    nx (exec .perstNDeassertion { sW2 with held := true, lastRst := 2, pcie := { perst := true } }) (fun t => t.pcie.perst == false && t.held == false) = true := by
  decide +kernel
theorem test_flr : sW2.held = false ∧ ∀ a < 64, ∀ b < 64, sW2.ctxSt (64 * a + b) = 0 := by decide +kernel
theorem test_links : nx (exec (.pcieLinkTraining 4 5) { sW2 with pcie := {} }) (fun t => t.pcie.width == 4 && t.pcie.speed == 5) = true ∧
    nx (exec (.rootPortLinkTraining 2 3) { State.reset.rset .rpCtl (2 ^ 31) with standalone := true }) (fun t => t.pcie.rpWidth == 2) = true := by
  decide +kernel

/-! ### Fences -/

/-- A waiter on fence 105. -/
def wait1 (k : WaitKind) (d : Option Nat) : WaitReg := ⟨some ⟨0, 7, none⟩, k, 105, 5, 6, d, 0⟩

/-- Engine 0 waits for fence 105 to reach 6. -/
def sWt (d : Option Nat) : State := { sF { e0 with run := .waitFence } 4 with waits := [wait1 .fwait d] }

theorem test_fence_signal : nx (exec (.fenceSignal [(105, 5)]) (sWt none)) (fun t => (t.fence 105).val == 5 && t.waits != []) = true ∧
    nx (exec (.fenceSignal [(105, 3)]) (sWt none)) (fun t => (t.fence 105).val == 4 && (t.fence 105).ooo == 1 &&
      t.rget .fenceOooTotal == 1) = true ∧
    nx (exec (.fenceSignal [(105, 9), (105, 7)]) (sF e0 4)) (fun t => (t.fence 105).val == 9 && (t.fence 105).ooo == 0) = true := by
  decide +kernel
theorem test_fence_wakes : (sWt none).engOfTask ⟨0, 7, none⟩ = some 0 ∧
    nx (exec (.fenceSignal [(105, 6)]) (sWt none)) (fun t => t.waits == [] && (t.eng 0).run == .issuing) = true := by decide +kernel

/-- Port 3 carries fence 5 of context 1. -/
def sPt (ext : Bool) : State :=
  { (((sF e0 4).rset (.fencePortCtx 3) 1).rset (.fencePortIdx 3) 5) with ready := true, fences := [(105, { val := 4, ext := ext })] }

theorem test_port : (sPt true).portFence 3 = some 105 ∧ nx (exec (.fencePortSig .gallery 3 8) (sPt true)) (fun t =>
      (t.fence 105).val == 8) = true ∧ nx (exec (.fencePortSig .gallery 3 8) (sPt false)) (fun t =>
      (t.fence 105).val == 4 && t.fget (.fencePortAttrR 3) 63 63 == 1) = true := by decide +kernel
theorem test_port_attr : nx (exec (.fencePortAttr .gallery 3 (2 ^ 63 + 1)) (sPt false |>.rset (.fencePortAttrR 3) (2 ^ 63))) (fun t =>
      (t.fence 105).ext && t.fget (.fencePortAttrR 3) 63 63 == 0) = true := by decide +kernel
theorem test_range : nx (exec (.fenceCtxRange .gallery 2 (10 * 2 ^ 32 + 110)) sI) (fun t => t.fget (.fenceCtxRangeR 2) 49 32 == 10) = true ∧
    nx (exec (.fenceCtxRange .gallery 2 (10 * 2 ^ 32 + 109)) { sPt true with regs := ((sPt true).fset (.ctxState 1) 1 0 1).regs }) (fun t =>
      t.fget (.fenceCtxRangeR 2) 63 63 == 1 && t.fget (.fenceCtxRangeR 2) 49 32 == 0) = true := by decide +kernel

/-! ### Waits and the probe -/

theorem test_deadline : nx (exec (.waitDeadline ⟨0, 7, none⟩) (sWt (some 5))) (fun t => t.waits != []) = true ∧
    nx (exec (.waitDeadline ⟨0, 7, none⟩) { sWt (some 5) with clock := { sec := 1 } }) (fun t => t.waits == [] &&
      (t.eng 0).run == .ending && (t.eng 0).flt.status == 0x50) = true := by decide +kernel
theorem test_deadline_pre : nx (exec (.waitDeadline ⟨0, 7, none⟩) { sWt (some 5) with
      clock := { sec := 1 }, waits := [wait1 .pre (some 5)], cmds := [cmd 7 (.prewait 0) [(0, 1)]] }) (fun t =>
      t.commitQ.map (·.status) == [0x50] && t.waits == []) = true := by decide +kernel

/-- The waiting task declares the fence it waits for, with the probe enabled. -/
def sPr : State := { (sWt none).rset .fenceProbeCtl (2 ^ 31) with
  engines := [(0, { e0 with run := .waitFence, task := some { task1 with declared := [105] } })]
  cmds := [{ cmd 7 .running [(0, 4)] with sync := [⟨5, 1, 0, 7⟩] }] }

theorem test_probe_request : nx (exec (.deadlockProbeRequest ⟨0, 7, none⟩) { sPr with clock := { ticks := 20000 } }) (fun t => t.probe.further &&
      nx (exec (.deadlockProbeRequest ⟨0, 7, none⟩) { t with probe := { t.probe with further := false } }) fun u => !u.probe.further) = true ∧
    nx (exec (.deadlockProbeRequest ⟨0, 7, none⟩) (sPr.rset .fenceProbeCtl 0)) (fun t => t.probe.further == false) = true := by
  decide +kernel
theorem test_probe : sPr.probeVerdict = some (wait1 .fwait none) ∧
    nx (exec .deadlockProbe { sPr with probe := { further := true } }) (fun t => t.probe.busy && t.probe.verdict == sPr.probeVerdict &&
      t.rget .fenceProbes == 1) = true := by decide +kernel
theorem test_verdict : nx (exec .deadlockVerdict { sPr with probe := { busy := true, verdict := some (wait1 .fwait none) } }) (fun t =>
      t.probe.busy == false && (t.eng 0).run == .ending && (t.eng 0).flt.status == 0x51 && t.waits == [] &&
        t.rget .fenceDeadlocks == 1) = true ∧
    nx (exec .deadlockVerdict { sPr with probe := { busy := true, verdict := some (wait1 .fwait (some 1)) } }) (fun t =>
      t.probe.busy == false && t.rget .fenceDropped == 1 && t.waits != []) = true ∧
    nx (exec .deadlockVerdict { sPr with probe := { busy := true } }) (fun t => t.probe.busy == false) = true := by decide +kernel

/-! ### Mailboxes -/

/-- Channel 3 from the host to SEC, with its receive interrupt. -/
def sMb (l : List W64) : State :=
  { State.reset.rset (.mbxCfg 3) (2 ^ 63 + 2 ^ 62 + 2 ^ 61 + 2 ^ 56 + 6 * 2 ^ 52) with mbx := [(3, l)], ready := true }

theorem test_push : nx (exec (.mbxPush .gallery .host 3 9) (sMb [])) (fun t => t.slots 3 == [9] && t.irqs == [.internal .sec]) = true ∧
    nx (exec (.mbxPush .gallery .host 3 9) (sMb [1])) (fun t => t.slots 3 == [1, 9] && t.irqs == []) = true := by decide +kernel
theorem test_push_refused : nx (exec (.mbxPush .gallery .host 3 9) (sMb [1, 2, 3, 4, 5, 6, 7, 8])) (fun t => (t.slots 3).length == 8 &&
      t.fget (.mbxStat 3) 2 2 == 1) = true ∧
    nx (exec (.mbxPush .gallery .hc 3 9) (sMb [])) (fun t => t.slots 3 == [] && t.rget (.mbxBadsrc 3) == 1) = true ∧
    nx (exec (.mbxPush .gallery .host 16 9) (sMb [])) (fun t => t.rget .secViol == 1) = true := by decide +kernel
theorem test_pop : nx (exec (.mbxPop .gallery .sec 3) (sMb [5, 6])) (fun t => t.slots 3 == [6] && t.resp.data == leBytes 8 5) = true ∧
    nx (exec (.mbxPop .gallery .sec 3) (sMb [])) (fun t => t.fget (.mbxStat 3) 1 1 == 1) = true ∧
    nx (exec (.mbxPop .gallery .cp0 3) (sMb [5])) (fun t => t.slots 3 == [5] && t.rget (.mbxBadsrc 3) == 1) = true := by decide +kernel
theorem test_mbx_enable : nx (exec (.mbxEnable .gallery 4 (2 ^ 63 + 2 ^ 56 + 6 * 2 ^ 52)) (sMb [])) (fun t => t.mbxEn 4 &&
      t.mbxSender 4 == some .host) = true ∧
    nx (exec (.mbxEnable .gallery 4 (2 ^ 63 + 2 ^ 56 + 2 ^ 52)) (sMb [])) (fun t => t.mbxEn 4 == false && t.fget (.mbxStat 4) 4 4 == 1) = true ∧
    nx (exec (.mbxEnable .gallery 3 0) (sMb [])) (fun t => t.mbxEn 3 == false) = true := by decide +kernel


/-! ### Lists and transfers -/

/-- A stream descriptor. -/
def sdesc (op flags engs rows src dst rowlen sp dp wf wv : Nat) : List Byte :=
  leBytes 1 op ++ leBytes 1 flags ++ leBytes 1 0 ++ leBytes 1 engs ++ leBytes 4 rows ++ leBytes 8 src ++ leBytes 8 dst ++
    leBytes 4 rowlen ++ leBytes 4 sp ++ leBytes 4 dp ++ leBytes 4 0 ++ leBytes 8 0 ++ leBytes 4 wf ++ leBytes 4 0 ++ leBytes 8 wv

/-- Channel 2 of context 1 runs a list with the given descriptors read. -/
def sL (bs : List (List Byte)) (x : Engine) : State :=
  { winAt 1 0 0x20 1 (winAt 0 0 0x20 1 (sF x 4)) with pmt := pmt1, sdmas := [(2, { cur := some { run1 with owner := none, buf := bs } })] }

theorem test_ch_arm : nx (exec (.sdmaChArm .gallery 2 0x4000) { sArm {} with ready := true, cmds := [] }) (fun t =>
      t.sdmas == [(2, { cur := some { run1 with owner := none } })]) = true ∧
    nx (exec (.sdmaChArm .gallery 3 0x4000) { sArm {} with ready := true }) (fun t => (mget (fun _ => ({} : Sdma)) t.sdmas 3).armRes == 0x10) = true := by
  decide +kernel
theorem test_burst : nx (exec (.descriptorBurstRead (.sdma 2)) { sL [] e0 with sdmas := [(2, { cur := some (newRun 1 0x10000 none []) })] }
    |> fun o => o) (fun t => (t.runOf (.sdma 2)).map (fun r => (r.next, r.buf.length, r.stopped)) == some (0x10400, 16, false)) = true := by
  decide +kernel
theorem test_desc_nop : descInvalid (.sdma 2) (sdesc 6 0 0 0 0 0 0 0 0 0 0) = false ∧
    nx (exec (.descNop (.sdma 2)) (sL [sdesc 6 0 0 0 0 0 0 0 0 0 0, [1]] e0)) (fun t =>
      (t.runOf (.sdma 2)).map (fun r => (r.idx, r.buf)) == some (1, [[1]])) = true ∧
    nx (exec (.link (.sdma 2)) (sL [sdesc 5 0 0 0 0x8000 0 0 0 0 0 0, [1]] e0)) (fun t =>
      (t.runOf (.sdma 2)).map (fun r => (r.idx, r.buf, r.next)) == some (1, [], 0x8000)) = true := by decide +kernel
theorem test_desc_last : nx (exec (.descNop (.sdma 2)) { sL [] e0 with
      sdmas := [(2, { cur := some { run1 with buf := [sdesc 6 1 0 0 0 0 0 0 0 0 0] }, latched := some { run1 with idx := 5 } })]
      cmds := [cmd 7 .running [(0, 5)]] }) (fun t =>
      (t.runOf (.sdma 2)).map (·.idx) == some 5 && t.commitQ.map (·.status) == [0]) = true := by decide +kernel
theorem test_desc_wait : nx (exec (.descNop (.sdma 2)) (sL [sdesc 6 2 0 0 0 0 0 0 0 5 9] e0)) (fun t =>
      t.waits.map (fun w => (w.fence, w.target)) == [(105, 9)]) = true := by decide +kernel
theorem test_desc_bad : descInvalid (.sdma 2) (sdesc 4 0 0 0 0 0 0 0 0 0 0) = true ∧
    nx (exec (.copy 2) { sL [sdesc 4 0 0 0 0 0 0 0 0 0 0] e0 with
      sdmas := [(2, { cur := some { run1 with buf := [sdesc 4 0 0 0 0 0 0 0 0 0 0] } })], cmds := [cmd 7 .running [(0, 5)]] }) (fun t =>
      (mget (fun _ => ({} : Sdma)) t.sdmas 2).last == 0x10 && t.commitQ.map (fun r => (r.status, r.sub)) == [(0x10, 0x19)]) = true := by decide +kernel

/-- Two rows of three bytes, at a pitch of 8, copied from page offset 0 to page offset 0x100. -/
theorem test_copy : nx (exec (.copy 2) ((sL [sdesc 1 0 0 2 0x10000 0x10100 3 8 4 0 0] e0).setBytes 0x200000 [1, 2, 3, 4, 5, 6, 7, 8, 9, 10])) (fun t =>
      t.bytes 0x200100 8 == [1, 2, 3, 0, 9, 10, 0, 0] && t.rget (.sdmaBytes 2) == 6) = true := by decide +kernel
theorem test_fill : nx (exec (.fill 2) (sL [sdesc 3 0 0 2 0x0807060504030201 0x10100 10 0 16 0 0] e0)) (fun t =>
      t.bytes 0x200100 18 == [1, 2, 3, 4, 5, 6, 7, 8, 1, 2, 0, 0, 0, 0, 0, 0, 1, 2]) = true := by decide +kernel
theorem test_mcast : nx (exec (.mcast 2) ((sL [sdesc 2 0 3 1 0x10000 0x10100 2 0 0 0 0] e0).setBytes 0x200000 [1, 2])) (fun t =>
      t.bytes 0x200100 2 == [1, 2] && t.bytes (sliceBase 1 + 0x200100) 2 == [1, 2] && t.rget (.sdmaBytes 2) == 4) = true := by decide +kernel

/-- Queue 2 of engine 0, whose list has a FETCH of two rows of 96 bytes at its head. -/
def fqL (cur : Option CurFetch) (ents : List FqEnt) : FetchQ :=
  { state := 1, esz := 1, entries := 2, ents := ents, cur := cur
    run := some { run1 with owner := none, buf := [sdesc 4 1 0 2 0x10000 0 96 256 0 0 0] } }

theorem test_fetch : nx (exec (.fetch 0 2) (sL [] { e0 with fqs := [(2, fqL none [])] })) (fun t =>
      ((t.eng 0).fq 2).cur == some ⟨[(0x10000, 96), (0x10100, 96)], true, none, 0, 0⟩) = true := by decide +kernel
theorem test_entry_begin : (({ e0 with fqs := [(2, fqL (some ⟨[(0x10000, 96), (0x10100, 96)], true, none, 0, 0⟩) [])], fqRr := 2 } : Engine).beginOf 2) =
      some ([(0x10000, 96), (0x10100, 32)], [(0x10120, 64)], ⟨[(0x10000, 96), (0x10100, 96)], true, none, 0, 0⟩) ∧
    nx (exec (.fetchEntryBegin 0) (sL [] { e0 with fqs := [(2, fqL (some ⟨[(0x10120, 64)], true, none, 0, 0⟩) [])], fqRr := 2 })) (fun t =>
      ((t.eng 0).fq 2).ents.map (fun (e : FqEnt) => (e.src, e.nsrc)) == [([(0x10120, 64)], 64)] && ((t.eng 0).fq 2).cur == none &&
        ((t.eng 0).fq 2).run == none && ((t.eng 0).fq 2).state == 5 && (t.eng 0).fqRr == 3) = true := by decide +kernel
theorem test_fetch_read : nx (exec (.fetchReadComplete 0 2) ((sL [] { e0 with fqs := [(2, fqL none [⟨.filling, [9], [(0x10000, 2)], 3, 0, 0, 0, none, 0, [], 0⟩])] }).setBytes
      0x200000 [1, 2])) (fun t => ((t.eng 0).fq 2).ents.map (fun (e : FqEnt) => (e.st, e.data.take 4, e.data.length, e.src)) ==
        [(FqSt.ready, [9, 1, 2, 0], 128, [])]) = true ∧
    nx (exec (.fetchReadComplete 0 2) (sL [] { e0 with fqs := [(2, fqL none [⟨.filling, [9], [(0x90000, 2)], 3, 0, 0, 0, none, 0, [], 0⟩])] })) (fun t =>
      ((t.eng 0).fq 2).ents.map (fun (e : FqEnt) => (e.st, e.stat)) == [(FqSt.failed, 0x20)] && ((t.eng 0).fq 2).state == 2) = true := by decide +kernel
theorem test_cancel : nx (exec (.queueCancel .gallery 0 2) (sL [] { e0 with fqs := [(2, fqL none [⟨.ready, [9], [], 3, 0, 0, 0, none, 0, [], 0⟩])] })) (fun t =>
      ((t.eng 0).fq 2).state == 4 && ((t.eng 0).fq 2).ents == [] && ((t.eng 0).fq 2).ret == 1 && t.rget (.fqDiscard 0 2) == 3) = true := by decide +kernel
theorem test_credit_latch : nx (exec (.creditLatchRead .gallery 0 2) (sL [] { e0 with fqs := [(2, { fqL none [] with granted := 7, ret := 5 })] })) (fun t =>
      t.resp.data == leBytes 8 7 && ((t.eng 0).fq 2).lret == some 5 && ((t.eng 0).fq 2).lout == some 2) = true := by decide +kernel

/-! ### Rings -/

/-- Ring 9 of context 1: four slots of 64 KiB from page 1 on, one consumer, software producer, records at page 1, fence 5. -/
def sRg (x : Ring) : State :=
  let s := winAt 0 0 0x20 8 (sF {} 4)
  { s with
    pmt := [(pmtSet 1 0 1 * 8, ⟨true, true, true, 1, 0, 32, 0⟩)]
    rings := [(9, x)]
    regs := ((((s.rset (.frCfg 9) (4 + 2 ^ 32 + 2 ^ 48)).rset (.frBase 9) 0x10000).rset (.frRec 9) 0x60000).rset (.frFence 9) 5).regs }

theorem test_ring_enable : (sRg {}).ringPsrcOk 9 = true ∧ (sRg {}).ringPins 9 = some [(pmtSet 1 0 1 * 8)] ∧
    nx (exec (.ringEnable .gallery 9) (sRg {})) (fun t => (t.ring 9).state == 1 && t.pmt.map (·.2.pin) == [1] && t.fget (.frCtl 9) 0 0 == 1) = true ∧
    nx (exec (.ringEnable .gallery 8) (sRg {})) (fun t => (t.ring 8).state == 0 && t.fget (.frCtl 8) 3 3 == 1) = true := by decide +kernel
theorem test_ring_disable : nx (exec (.ringDisable .gallery 9) (sRg { state := 1 })) (fun t => (t.ring 9).state == 0) = true ∧
    nx (exec (.ringDisable .gallery 9) (sRg { state := 1, prod := some ⟨0, .software⟩ })) (fun t => (t.ring 9).state == 2) = true := by decide +kernel
theorem test_port_acquire : nx (exec (.frPortAcquire .gallery 9 .producer 0) (sRg { state := 1, pseq := 6 })) (fun t =>
      (t.ring 9).prod == some ⟨2, .software⟩ && t.rget (.frPortRes 9) == 65538) = true ∧
    nx (exec (.frPortAcquire .gallery 9 .consumer 0) (sRg { state := 1, pseq := 6, cseq := [(0, 5)], pub := [⟨1, 5⟩] })) (fun t =>
      (t.ring 9).cons == [(0, ⟨1, .software⟩)] && t.rget (.frPortRes 9) == 65537) = true ∧
    nx (exec (.frPortAcquire .gallery 9 .consumer 0) (sRg { state := 1, pseq := 6, cseq := [(0, 6)] })) (fun t =>
      t.fget (.frPortRes 9) 16 16 == 0) = true := by decide +kernel
theorem test_port_release : nx (exec (.frPortRelease .gallery 9 .consumer 0) (sRg { state := 1, pseq := 6, cseq := [(0, 5)], cons := [(0, ⟨1, .software⟩)] })) (fun t =>
      (t.ring 9).cons == [] && (t.ring 9).cseqOf 0 == 6) = true ∧
    nx (exec (.frPortRelease .gallery 9 .producer 0) (put (0x200000 + 0x60088) 4 777 (sRg { state := 1, pseq := 6, prod := some ⟨2, .software⟩ }))) (fun t =>
      (t.ring 9).pseq == 7 && (t.ring 9).prod == none && (t.ring 9).pub == [⟨2, 6⟩] && (t.fence 105).val == 7 &&
        t.field (0x200000 + 0x60080) 8 == 6 && t.field (0x200000 + 0x60088) 4 == 777) = true := by decide +kernel

/-! ### Windows and accesses -/

theorem test_window_open : nx (exec (.windowOpen .gallery 2 3 true false) ((State.reset.rset (.gsWinBase 2 3) 0x50000).rset (.gsWinSize 2 3) 0x10000)) (fun t =>
      t.winState 2 3 == 1 && t.fget (.gsWinCtl 2 3) 3 2 == 1) = true ∧
    nx (exec (.windowOpen .gallery 2 3 true false) (winAt 2 4 5 1 ((State.reset.rset (.gsWinBase 2 3) 0x50000).rset (.gsWinSize 2 3) 0x10000))) (fun t =>
      t.winState 2 3 == 0 && t.fget (.gsWinCtl 2 3) 4 4 == 1) = true := by decide +kernel
theorem test_window_close' : nx (exec (.windowClose .gallery 2 3 false false) (winAt 2 3 5 1 State.reset)) (fun t => t.winState 2 3 == 2 &&
      nx (exec (.windowClosed 2 3) t) (fun u => u.winState 2 3 == 0)) = true ∧
    nx (exec (.windowClosed 2 3) { (winAt 2 3 5 1 State.reset).fset (.gsWinCtl 2 3) 9 8 2 with cmds := [{ wcmd 2 with phase := .running }] }) (fun t =>
      t.commitQ.map (·.status) == [0]) = true := by decide +kernel


theorem test_remote : State.reset.mayAccess (.engine 1) = true ∧ masterTranslates (.engine 1) = true ∧
    nx (exec (.remoteAccess (.engine 1) 1 0x10004 (.read 2)) sW2) (fun t => t.resp == { data := [9, 0] }) = true ∧
    nx (exec (.remoteAccess (.engine 1) 1 0x10004 (.write [7, 8])) sW2) (fun t => t.bytes 0x200003 4 == [0, 7, 8, 0] && t.resp == {}) = true ∧
    nx (exec (.remoteAccess (.engine 1) 2 0x10004 (.write [7, 8])) sW2) (fun t => t.resp == { ok := false, status := 0x20 }) = true := by
  decide +kernel
theorem test_remote_phys : masterTranslates .sec = false ∧
    nx (exec (.remoteAccess .sec 0 0x200004 (.read 2)) sW2) (fun t => t.resp == { data := [9, 0] }) = true := by decide +kernel

/-! ### Upkeep of memory -/

theorem test_writeback : nx (exec (.eccWriteBack 2) { State.reset with gesso := { wbq := [(2, [7, 8])] }, ecc := [(7, 1)] }) (fun t =>
      t.ecc == [] && t.gesso.wbq == [(2, [8])]) = true := by decide +kernel
theorem test_gesso_scrub : nx (exec .gessoPatrolScrub { State.reset.rset .gsScrubCtl 5 with gesso := { scrub := [(1, 3670015)] } }) (fun t =>
      mget (fun _ => 0) t.gesso.scrub 1 == 0 && mget (fun _ => 0) t.gesso.scrub 5 == 1) = true := by decide +kernel
theorem test_bist : State.reset.bistRefused 1 = false ∧ nx (exec (.bistStart .gallery 1) { State.reset with ready := true }) (fun t => t.gesso.bist == some 1 &&
      t.fget .gsBistStatus 16 16 == 1) = true ∧
    (winAt 0 0 0 1 State.reset).bistRefused 1 = true ∧ nx (exec (.bistStart .gallery 1) (winAt 0 0 0 1 State.reset)) (fun t => t.gesso.bist == none &&
      t.fget .gsBistStatus 17 17 == 1) = true := by decide +kernel
theorem test_bist_done : nx (exec (.bistDone []) { State.reset.fset .gsBistStatus 16 16 1 with gesso := { bist := some 2 }, mem := [(5, 1), (sliceSize, 7)] }) (fun t =>
      t.mem == [(5, 1)] && t.gesso.bist == none && t.fget .gsBistStatus 39 32 == 2) = true := by decide +kernel
theorem test_inject : nx (exec (.gsEccInjArm .studio 3 2) State.reset) (fun t => t.rget .gsEccInj == 0x132) = true ∧
    nx (exec (.gsEccInjArm .gallery 3 2) State.reset) (fun t => t.rget .secViol == 1) = true ∧
    nx (exec (.dmcEccInjArm .studio 3 2) State.reset) (fun t => t.rget .dmcEccInj == 0x132) = true := by decide +kernel

/-- DDR5 in use: four trained channels of one rank of 16 Gbit × 8 devices. -/
def sDdr (x : Dmc) : State :=
  { State.reset.fset .dmcCfg 31 31 1 with
    ddr := { density := 16, ranks := 1, cap := 2 ^ 36, fill := 2 ^ 30, done := true
             chans := [(0, x), (1, { state := 1 }), (2, { state := 1 }), (3, { state := 1 })] } }

theorem test_slc : (sDdr { state := 1 }).backed ddrBase = true ∧ regionOf ddrBase = .ddr 0 ∧
    ((sDdr { state := 1 }).rset .gsPfCtl 1).slcWay ((sDdr { state := 1 }).slcSet (ddrBase / 128 + 1)) (ddrBase / 128 + 1) = none := by
  refine ⟨by decide +kernel, by decide +kernel, ?_⟩
  simp [State.slcWay, sDdr, State.rset, State.fset, State.reset, mfind]
theorem test_refresh : (sDdr { state := 1 }).canCommand { state := 1 } = true ∧
    nx (exec (.sameBankRefresh 0 0) { sDdr { state := 1, refBank := [(0, 3)], owed := [(0, 1)], opened := [(7, some 5), (8, some 6)] } with clock := { ticks := 100 } }) (fun t =>
      (t.dmc 0).row 7 == none && (t.dmc 0).row 8 == some 6 && (t.dmc 0).retry == [.refresh 0 3] &&
        mget (fun _ => 0) (t.dmc 0).refBank 0 == 0 && (t.dmc 0).owes 0 == 0) = true ∧
    nx (exec (.sameBankRefresh 0 0) (sDdr { state := 1 })) (fun t => (t.dmc 0).retry == []) = true := by decide +kernel
theorem test_poll_mr : nx (exec (.modeRegisterPoll 0 [⟨1, true, false⟩]) (sDdr { state := 1 })) (fun t => (t.dmc 0).ref2x == 2 &&
      t.rget (.dmcCount 0 5) == 1 && (t.dmc 0).retry == [.mrr 1]) = true ∧
    nx (exec (.modeRegisterPoll 0 [⟨1, false, false⟩]) (sDdr { state := 1, ref2x := 3 })) (fun t => (t.dmc 0).ref2x == 1) = true ∧
    nx (exec (.modeRegisterPoll 0 [⟨1, false, true⟩]) (sDdr { state := 1 })) (fun t => t.rget .pmcEvhead == 1) = true := by decide +kernel
theorem test_zq : nx (exec (.zqCalibration 0 (.zq 0)) { sDdr { state := 1 } with clock := { ns := 9 } }) (fun t => (t.dmc 0).zq == [(0, 9)]) = true ∧
    nx (exec (.zqCalibration 0 (.osc 0 [5])) (sDdr { state := 1 })) (fun t => (t.dmc 0).osc == [(0, [5])] && (t.dmc 0).retry == [.osc 0]) = true := by
  decide +kernel
theorem test_ddr_wback : (sDdr { state := 1 }).ddrChannel 512 = 0 ∧
    nx (exec (.ddrCorrectionWriteback 0) (sDdr { state := 1, wback := [4] })) (fun t => (t.dmc 0).wback == [] &&
      (t.dmc 0).entries == [⟨ddrBase + 512, some [], false, 0, 0, 0, .wback⟩]) = true ∧
    nx (exec (.ddrCorrectionWriteback 0) (sDdr { state := 1, wback := [4], input := [⟨ddrBase + 512, some [1], false, 5, 0, 0, .prefetch⟩] })) (fun t =>
      (t.dmc 0).wback == [] && (t.dmc 0).entries == []) = true := by decide +kernel
theorem test_ddr_scrub : nx (exec .ddrPatrolScrub ((sDdr { state := 1 }).rset .dmcScrub 5)) (fun t => (t.dmc 3).scrub == 1) = true := by decide +kernel

/-! ### DDR5 -/

/-- A DIMM of the list. -/
def dimm1 : Dimm := ⟨16, false, 1, [4800, 5600]⟩

theorem test_training : firstBadDimm (List.replicate 4 (some dimm1)) = none ∧
    nx (exec (.trainingStart .studio (List.replicate 4 (some dimm1))) { State.reset.rset .dmcCfg 2 with ready := true }) (fun t =>
      t.ddr.busy && t.ddr.step == 2 && t.ddr.cap == 2 ^ 36 && t.ddr.speed == 1) = true ∧
    nx (exec (.trainingStart .studio [some dimm1, some dimm1, none]) { State.reset with ready := true }) (fun t => t.ddr.failed && t.ddr.failCh == 2) = true := by
  decide +kernel
theorem test_trained : nx (exec (.trainingDone none) { State.reset with ddr := { busy := true, cap := 2 ^ 36 }, mem := [(ddrBase + 5, 1), (ddrBase + 2 ^ 30, 2)] }) (fun t =>
      t.ddr.done && t.ddr.fill == 2 ^ 30 && t.mem == [(ddrBase + 2 ^ 30, 2)] && (t.dmc 3).state == 1) = true := by decide +kernel
theorem test_train_fail : nx (exec (.trainingDone (some (2, 4))) { State.reset with ddr := { busy := true } }) (fun t =>
      t.ddr.failed && t.ddr.failCh == 2 && t.ddr.step == 4) = true := by decide +kernel
/-- A fill of the second GiB whose channels have written their first 2 MiB of it; channel 0 has the state `st`. -/
def sFill (st next : Nat) : State :=
  { sDdr {} with ddr := { (sDdr {}).ddr with
      fillBusy := true, fillAt := 2 ^ 30
      chans := (List.range 4).map fun c => (c, { state := if c = 0 then st else 1, fillNext := if c = 0 then next else 2 ^ 30 + 2 ^ 21 }) } }

theorem test_use : nx (exec (.ddrUse .studio) { State.reset with ready := true, ddr := { done := true, cap := 2 ^ 36, fill := 2 ^ 30 } }) (fun t => t.ddrUsed && t.ddr.fillBusy) = true ∧
    nx (exec .fillAdvance (sFill 1 (2 ^ 30 + 2 ^ 21))) (fun t => t.ddr.fill == 2 ^ 30 + 2 ^ 21 && t.ddr.fillBusy) = true ∧
    nx (exec .fillAdvance { sFill 3 0 with ddr := { (sFill 3 0).ddr with chmap := 1 } }) (fun t =>
      t.ddr.fillBusy && t.ddr.fill == 2 ^ 30 && t.ddr.fillAt == 2 ^ 30 + 2 ^ 21) = true ∧
    nx (exec .fillAdvance (sFill 1 (2 ^ 30 + 2 ^ 20))) (fun t => t.ddr.fillAt == 2 ^ 30) = true := by
  decide +kernel

/-- A read and a write of the first line, of the command processors. -/
def rq (wr : Option (List Byte)) : DdrReq := ⟨ddrBase, wr, false, 4, 0, 0, .demand .cp⟩

/-- The first line is asked for. -/
def arrive (wr : Option (List Byte)) (o : DdrOrigin) : Instr :=
  .ddrRequestArrive (BitVec.ofNat _ (ddrBase + 5)) wr.isSome (wr.getD []) o

theorem test_arrive : (sDdr { state := 1 }).ddrChannel 0 = 0 ∧
    nx (exec (arrive none .realTime) ((sDdr { state := 1 }).fset (.dmcPanicLvl 0) 8 0 2)) (fun t =>
      (t.dmc 0).ingest.map (fun r => (r.addr, r.rt)) == [(ddrBase, true)] && (t.dmc 0).panic == false) = true ∧
    nx (exec (arrive none .realTime) ((sDdr { state := 1 }).fset (.dmcPanicLvl 0) 8 0 1)) (fun t =>
      (t.dmc 0).panic && t.rget (.dmcCount 0 4) == 1) = true ∧
    nx (exec (arrive (some [4]) .cp) (sDdr { state := 1 })) (fun t => (t.dmc 0).queues.map (fun p => (p.1, p.2.map (·.wr))) == [(0, [some [4]])] &&
      t.mem == [(ddrBase, 4)]) = true ∧
    nx (exec (arrive none .pcie) (sDdr { state := 3 })) (fun t => (t.dmc 0).replies == [⟨.pcie, ddrBase, false, 0x70, []⟩] && t.rget (.dmcCount 0 1) == 1) = true := by
  decide +kernel
theorem test_issue : (sDdr { state := 1 }).reqBank (rq none) = 0 ∧ 0 < (sDdr { state := 1 }).queueCount ∧ 0 < (sDdr { state := 1 }).fget (.dmcPanicLvl 0) 8 0 ∧
    nx (exec (.ddrCommandIssue 0 [0]) (sDdr { state := 1, queues := [(0, [rq none])] })) (fun t => (t.dmc 0).row 0 == some 0 && (t.dmc 0).retry == [.act 0 0]) = true ∧
    nx (exec (.ddrCommandIssue 0 [0]) (sDdr { state := 1, queues := [(0, [rq none])], opened := [(0, some 1)] })) (fun t => (t.dmc 0).row 0 == none) = true := by
  decide +kernel
theorem test_access : nx (exec (.ddrCommandIssue 0 [0]) (sDdr { state := 1, queues := [(0, [rq none])], opened := [(0, some 0)] })) (fun t =>
      (t.dmc 0).reads == [{ rq none with wait := 1 }] && (t.dmc 0).entries == []) = true ∧
    nx (exec (.ddrCommandIssue 0 [0]) (sDdr { state := 1, queues := [(0, [rq (some [4])])], opened := [(0, some 0)] })) (fun t =>
      (t.dmc 0).replies == [⟨.cp, ddrBase, true, 0, []⟩]) = true ∧
    nx (exec (.ddrCommandIssue 0 [0]) { sDdr { state := 1, queues := [(0, [{ rq (some []) with who := .fill }])], opened := [(0, some 0)] } with
      mem := [(ddrBase + 127, 4), (ddrBase + 128, 5)] }) (fun t => t.mem == [(ddrBase + 128, 5)]) = true := by decide +kernel
theorem test_refresh_first : (sDdr {}).refForced ((sDdr {}).refCount { owed := [(0, 16)] }) = some 0 ∧
    nx (exec (.ddrCommandIssue 0 [0]) (sDdr { state := 1, queues := [(0, [rq none])], owed := [(0, 16)] })) (fun t => (t.dmc 0).retry == [.refresh 0 0] &&
      (t.dmc 0).entries.length == 1) = true := by decide +kernel
theorem test_issue_stopped : nx (exec (.ddrCommandIssue 0 [0]) (sDdr { state := 2, queues := [(0, [rq none])] })) (fun t => (t.dmc 0).retry == []) = true := by decide +kernel
theorem test_return : (sDdr {}).symLimit = 4 ∧
    nx (exec (.ddrReadReturn 0 ⟨0, 0, false⟩) { sDdr { state := 1, reads := [rq none] } with mem := [(ddrBase + 1, 7)] }) (fun t =>
      t.resp.data.take 2 == [0, 7] && (t.dmc 0).reads == [] && t.slc.lines.map (·.2.addr) == [ddrBase / 128]) = true ∧
    nx (exec (.ddrReadReturn 0 ⟨1, 0, false⟩) (sDdr { state := 1, reads := [rq none] })) (fun t => t.resp.status == 0 && (t.dmc 0).wback == [0] &&
      t.rget (.dmcCount 0 0) == 1) = true ∧
    nx (exec (.ddrReadReturn 0 ⟨0, 0, true⟩) (sDdr { state := 1, reads := [rq none] })) (fun t => t.resp.status == 0x70) = true := by decide +kernel
theorem test_return_prefetch : nx (exec (.ddrReadReturn 0 ⟨0, 0, false⟩) (sDdr { state := 1, reads := [{ rq none with who := .prefetch }] })) (fun t =>
      t.slc.fetched == [ddrBase / 128] && t.resp == {}) = true ∧
    nx (exec (.ddrReadReturn 0 ⟨0, 0, false⟩) (sDdr { state := 1, reads := [{ rq none with who := .scrub }] })) (fun t => t.slc.lines == [] &&
      (t.dmc 0).reads == []) = true := by decide +kernel
theorem test_retire : nx (exec (.retryEntryRetire 0) (sDdr { state := 1, retry := [.act 0 0, .pre 0] })) (fun t => (t.dmc 0).retry == [.pre 0]) = true := by decide +kernel
theorem test_alert : nx (exec (.alertEpisode 0) (sDdr { state := 1, retry := [.act 0 9], opened := [(0, some 9)] })) (fun t => (t.dmc 0).state == 2 && (t.dmc 0).row 0 == none &&
      nx (exec (.alertNRelease 0) t) (fun u => (u.dmc 0).state == 1 && (u.dmc 0).row 0 == some 9 && (u.dmc 0).alerts == 0)) = true ∧
    nx (exec (.alertEpisode 0) (sDdr { state := 2, alerts := 3, queues := [(0, [rq none])] })) (fun t => (t.dmc 0).state == 3 && (t.dmc 0).queues == [] &&
      (t.dmc 0).replies == [⟨.cp, ddrBase, false, 0x70, []⟩]) = true := by decide +kernel

/-! ### Cameras -/

/-- Stream 2 of port 0 (Mono8, virtual channel 2, 8 × 2 pixels, a pitch of 64) writes ring 9. -/
def sCam (x : Ring) (y : Source) (en : Nat) : State :=
  let s := sRg x
  { s with
    sources := [(3, y)], ready := true
    regs := (((((s.fset (.frCfg 9) 23 16 3).rset (.csiStCfg 2) (2 + 0x2A * 1024)).rset (.csiStGeom 2) (8 * 2 ^ 48 + 2 * 2 ^ 32 + 64)).rset
      (.srcCtl 0 2) (en * 2 ^ 31)).rset (.csiPortCfg 0) (2 ^ 31)).regs }

/-- Its geometry. -/
def geo1 : Nat := 8 * 2 ^ 48 + 2 * 2 ^ 32 + 64

theorem test_src_enable : nx (exec (.srcEnable .gallery 3 0x80000064) (sCam { state := 1 } {} 0)) (fun t => t.srcEn 3 && (t.source 3).active == [geo1] && t.srcBudget 3 == 100) = true ∧
    nx (exec (.srcEnable .gallery 3 0x80003E81) (sCam { state := 1 } {} 0)) (fun t => t.srcEn 3 == false && t.srcField 3 29 29 == 1) = true := by decide +kernel
theorem test_commit : nx (exec (.commit .gallery 3) (sCam { state := 1 } {} 1)) (fun t => (t.source 3).pending && t.srcField 3 30 30 == 1) = true := by decide +kernel
theorem test_frame_start : (sCam { state := 1 } { active := [geo1] } 1).ringNamed 3 = some 9 ∧
    nx (exec (.csiFrameStart 2 7) (sCam { state := 1, pseq := 5 } { active := [geo1] } 1)) (fun t =>
      (t.source 3).opened.map (fun (o : OpenSlot) => (o.mode, o.ring, o.slot, o.frame)) == some (0, 9, 1, 7) && (t.ring 9).prod == some ⟨1, .hardware⟩) = true ∧
    nx (exec (.csiFrameStart 2 7) (sCam { state := 1, prod := some ⟨1, .hardware⟩ } { active := [geo1] } 1)) (fun t =>
      (t.source 3).opened.map (·.mode) == some 1 && (t.ring 9).drops == 1 && t.rget (.frDrops 9) == 1) = true := by decide +kernel
theorem test_line : nx (exec (.csiLongPacket 0 2 0x2A [1, 2, 3] false false) (sCam { state := 1, prod := some ⟨1, .hardware⟩ } { active := [geo1], opened := some { ring := 9, slot := 1, seen := 1 } } 1)) (fun t =>
      t.bytes (0x200000 + 0x20000 + 64) 4 == [1, 2, 3, 0] && (t.source 3).opened.map (fun (o : OpenSlot) => (o.seen, o.lines, o.bytes)) == some (2, 1, 3)) = true ∧
    nx (exec (.csiLongPacket 0 1 0x2A [1, 2, 3] false false) (sCam { state := 1 } { active := [geo1] } 1)) (fun t => t.rget (.csiDtdrop 0) == 1) = true := by decide +kernel
theorem test_frame_end : nx (exec (.csiFrameEnd 2) (sCam { state := 1, prod := some ⟨1, .hardware⟩, drops := 3 } { active := [geo1], opened := some { ring := 9, slot := 1, seen := 2, lines := 2 } } 1)) (fun t =>
      (t.source 3).opened == none && (t.ring 9).pseq == 1 && (t.ring 9).prod == none && (t.ring 9).drops == 0) = true := by decide +kernel

/-- Camera 1 (Mono8, raw) into ring 9, or into the line path. -/
def sCx (x : Ring) (y : Source) : State :=
  let s := sCam x {} 0
  { s with
    sources := [(0x22, y)]
    regs := ((((s.fset (.frCfg 9) 23 16 0x22).rset (.cxpCamCfg 1) (2 ^ 23)).rset (.cxpCamGeom 1) (8 * 2 ^ 48 + 3 * 2 ^ 32 + 64)).rset (.srcCtl 1 1) (2 ^ 31)).regs }

/-- Its geometry of three lines. -/
def geo3 : Nat := 8 * 2 ^ 48 + 3 * 2 ^ 32 + 64

theorem test_cxp : nx (exec (.cxpImageHeader 1 ⟨7, 3⟩ true) (sCx { state := 1 } { active := [geo3] })) (fun t => (t.source 0x22).opened.map (·.frame) == some 7) = true ∧
    nx (exec (.cxpImageHeader 1 ⟨7, 3⟩ false) (sCx { state := 1 } { active := [geo3] })) (fun t => t.rget (.srcErr 1 1) == 1) = true ∧
    nx (exec (.cxpLine 1 [5, 6] false false) (sCx { state := 1, prod := some ⟨1, .hardware⟩ } { active := [geo3], opened := some { ring := 9, slot := 1, seen := 1, rows := 3 } })) (fun t =>
      t.bytes (0x200000 + 0x20000 + 64) 3 == [5, 6, 0]) = true ∧
    nx (exec (.cxpLine 1 [5, 6] false false) (sCx { state := 1, prod := some ⟨1, .hardware⟩ } { active := [geo3], opened := some { ring := 9, slot := 1, seen := 3, rows := 5 } })) (fun t =>
      (t.source 0x22).opened.map (·.flags) == some 2) = true := by decide +kernel
theorem test_cxp_control : nx (exec (.cxpControlGo .gallery 1) { State.reset with ready := true }) (fun t => t.fget (.cxpCcCtl 1) 31 31 == 1) = true ∧
    nx (exec (.cxpControlAck 1 5 77) (State.reset.fset (.cxpCcCtl 1) 31 31 1)) (fun t => t.fget (.cxpCcCtl 1) 23 16 == 5 && t.rget (.cxpCcData 1) == 77) = true ∧
    nx (exec (.cxpControlTimeout 1) (State.reset.fset (.cxpCcCtl 1) 31 31 1)) (fun t => t.rget (.cxpCcCtl 1) == 1) = true := by decide +kernel

/-- Group 1: two pixels a line, three lines, UINT8, gain 1, table at the start of the media region, ENCEN set. -/
def sLfc : State :=
  let s := sCam {} {} 0
  { s.setBytes mediaBase (leBytes 4 (65536 * 0x1000 + 2) ++ leBytes 4 (65536 * 0x1000)) with
    sources := [(0x2A, { active := [0x8000 * 2 ^ 12], lines := [⟨[0x1000, 0x2000], false, false, 50, [1, 2, 3, 4], false⟩], opened := some { ring := 9, slot := 1, seen := 1 } })]
    rings := [(9, { state := 1, prod := some ⟨1, .hardware⟩ })]
    regs := (((((s.fset (.frCfg 9) 23 16 0x2A).rset (.lfcGeom 1) (2 * 2 ^ 48 + 3 * 2 ^ 32 + 64)).rset (.srcCtl 2 1) (2 ^ 31 + 2 ^ 19)).rset (.lfcTbase0 1) mediaBase)).regs }

theorem test_lfc : nx (exec (.lfcLine 1) sLfc) (fun t => (t.source 0x2A).lines == [] &&
      (t.source 0x2A).opened.map (fun (o : OpenSlot) => (o.seen, o.tEnd, o.pEnd, o.bytes)) == some (2, 50, 1, 2) &&
      t.bytes (0x200000 + 0x20000 + 64) 2 == (lfcLineBytes (0x8000 * 2 ^ 12) [65536 * 0x1000 + 2, 65536 * 0x1000] [0x1000, 0x2000]).1) = true := by decide +kernel


/-! ### Pipelines and codecs -/

/-- Context 4 of pipeline 0 reads ring 9, port 0, which camera stream 2 fills, and writes ring 10; its parameter block is at the start of
the media region. A frame waits, or is in progress. -/
def sIpp (y : Ipp) (a b : Ring) : State :=
  let s := sCam {} {} 1
  { s with
    sources := [(3, { active := [geo1] }), (0x44, { active := [2 ^ 31 + 1 + 9 * 2 ^ 24, mediaBase, 0] })]
    rings := [(9, a), (10, b)], ipps := [(0, y)]
    regs := (((((((s.rset (.frCfg 10) (4 + 2 ^ 32 + 2 ^ 48 + 0x44 * 65536)).rset (.frBase 10) 0x80000).rset (.frRec 10) 0x68000).rset
      (.srcCtl 3 4) (2 ^ 31)).rset (.ippCxIn 0 4) (2 ^ 31 + 1 + 9 * 2 ^ 24)).rset (.ippCxPb 0 4) mediaBase)).regs }

theorem test_ipp_next : (sIpp {} { state := 1, pseq := 1, pub := [⟨0, 0⟩] } { state := 1 }).ippNext 0 = some 4 ∧
    nx (exec (.ippContextSwitch 0) (sIpp { row := [(4, 1)] } { state := 1 } { state := 1 })) (fun t => (t.ipp 0).cur == some 4 && (t.ipp 0).rr == 4) = true ∧
    nx (exec (.ippContextSwitch 0) (sIpp {} { state := 1 } { state := 1 })) (fun t => (t.ipp 0).cur == none) = true := by decide +kernel
theorem test_ipp_no_slot : nx (exec (.ippStripe 0) (sIpp { cur := some 4 } { state := 1 } { state := 1 })) (fun t => (t.ipp 0).cur == none && (t.ipp 0).row == []) = true := by
  decide +kernel

/-- The state for a stripe: rows 0 of 2 done, the slots held. -/
def sStripe : State :=
  sIpp { cur := some 4, row := [(4, 0)], out := [(4, { ring := 10, slot := 0 })], param := [(4, [])] }
    { state := 1, pseq := 1, cons := [(0, ⟨0, .hardware⟩)] } { state := 1, prod := some ⟨0, .hardware⟩ }

theorem test_stripe : sStripe.rawFrame 9 0 = (⟨1, 8, 1⟩, geo1) ∧ sStripe.slotHeld { ring := 10, slot := 0 } = true ∧
    (outCfg 0).ofmt ≠ 3 ∧ sStripe.fget (.ippCxIn 0 4) 31 31 = 1 := by decide +kernel

/-- Session 3 of VENC0 (ring 9 to ring 10), of the decoder likewise. -/
def sEnc (u : Nat) : State :=
  let s := sCam {} {} 1
  { s with
    rings := [(9, { state := 1, pseq := 1, pub := [⟨0, 0⟩] }), (10, { state := 1 })]
    regs := (((((s.rset (.frCfg 10) (4 + 2 ^ 32 + 2 ^ 48 + codecPsrc u * 65536)).rset (.frBase 10) 0x80000).rset (.frRec 10) 0x68000).rset
      (.cdcCtl u 3) (2 ^ 31 + 9 * 2 ^ 16))).regs }

theorem test_codec_next : (sEnc 0).cdcNext 0 = some 3 ∧ (sEnc 2).cdcNext 2 = some 3 ∧ (sEnc 0).cdcNext 2 = none ∧
    ((sEnc 0).cdcBegin 0 3).map (fun q => (q.1.length, q.2.2.1.ring, q.2.2.1.slot)) = some (64, 10, 0) ∧
    ((sEnc 2).cdcBegin 2 3).isSome = true := by decide +kernel
theorem test_codec_idle : nx (exec (.encodePicture 0) (sEnc 2)) (fun t => (t.ring 10).prod == none) = true ∧
    nx (exec .decodePicture (sEnc 0)) (fun t => (t.ring 10).prod == none) = true := by decide +kernel

/-! ### Time and Ethernet -/

/-- Device time 5 s and 7 ns. -/
def sT : State := { State.reset with ready := true, clock := { sec := 5, ns := 7, frac := 3 * 2 ^ 24, runs := true } }

theorem test_time_step : nx (exec (.timeStep .gallery 10) sT) (fun t => t.clock.ns == 17 && t.clock.sec == 5 && t.rget .timeSteps == 1) = true ∧
    nx (exec (.timeStep .gallery (-8)) sT) (fun t => t.clock.ns == 999999999 && t.clock.sec == 4) = true := by decide +kernel
theorem test_time_read : nx (exec (.timeSecRead .gallery) sT) (fun t => t.clock.latch == some (7 * 65536 + 3) && t.resp.data == leBytes 8 5) = true := by
  decide +kernel
theorem test_freq : nx (exec (.timeFreqWrite .gallery 256) sT) (fun t => t.freq == 256 && t.clock.inc == 5 * 2 ^ 40 + 5498) = true ∧
    nx (exec (.timeFreqWrite .gallery 128000001) sT) (fun t => t.freq == 0) = true := by decide +kernel
theorem test_servo_step : nx (exec (.servoSample .gallery (2 ^ 32)) ((sT.rset .timeSrvCtl (3 * 2 ^ 30)).rset .timeSrvThr (2 ^ 32))) (fun t =>
      t.clock.ns == 999934471 && t.clock.sec == 4 && t.servo.state == 1) = true := by decide +kernel
theorem test_servo : nx (exec (.servoSample .gallery 65536) (sT.rset .timeSrvCtl (2 ^ 31))) (fun t => t.freq == -512 && t.servo.acc == 65536) = true ∧
    nx (exec (.servoSample .gallery 65536) sT) (fun t => t.freq == 0 && t.servo.acc == 0) = true := by decide +kernel
theorem test_holdover : nx (exec .holdoverEnter { sT.rset .timeSrvCtl (2 ^ 31 + 1) with servo := { state := 2, hist := [10, 20] }, clock := { ticks := 200000 } }) (fun t =>
      t.servo.state == 3 && t.freq == 15) = true ∧
    nx (exec .holdoverEnter { sT.rset .timeSrvCtl (2 ^ 31 + 1) with servo := { state := 1 }, clock := { ticks := 200000 } }) (fun t => t.servo.state == 3) = true := by
  decide +kernel

/-- Port 1 with a receive and a transmit descriptor given, both rings of two in DDR5, buffers behind them. -/
def sEth : State :=
  let s := { sT with ddr := (sDdr { state := 1 }).ddr }
  (({ s with regs := (((((s.fset .dmcCfg 31 31 1).rset (.ethCfg 1) (2 ^ 31)).rset (.ethIdx 1) (1 + 2 ^ 32)).rset (.ethRxring 1) (ddrBase + 1)).rset (.ethTxring 1) (ddrBase + 0x1001)).regs } : State).setBytes
    ddrBase (leBytes 8 (ddrBase + 0x2000))).setBytes (ddrBase + 0x1000) (leBytes 8 (ddrBase + 0x3000) ++ leBytes 2 3)

/-- A PTP Sync message over IEEE 802.3. -/
def syncFrame : List Byte := List.replicate 12 1 ++ [0x88, 0xF7, 0, 2]

/-- What the statement on reception asks of the state, for port 1 and its first descriptor. -/
theorem test_eth_receive : sEth.fget (.ethCfg 1) 31 31 = 1 ∧ sEth.fget (.ethIdx 1) 31 16 = 0 ∧ sEth.fget (.ethIdx 1) 15 0 = 1 ∧
    sEth.ethDesc (.ethRxring 1) 0 = ddrBase ∧ sEth.field ddrBase 8 / 64 * 64 = ddrBase + 0x2000 ∧ sEth.eccClean = true ∧
    inDdr5 ddrBase 32 = true ∧ inDdr5 (ddrBase + 0x2000) 16 = true ∧ sEth.linkDown (ddrBase + 0x2000) = false ∧
    ptpEvent syncFrame = true ∧ syncFrame.length = 16 := by decide +kernel
theorem test_eth_receive_open : sEth.piecesCheck .gallery false false [(ddrBase, 32)] = (none, sEth) ∧
    sEth.piecesCheck .gallery false true [(ddrBase + 0x2000, 16)] = (none, sEth) ∧
    sEth.piecesCheck .gallery false true [(ddrBase + 8, 3)] = (none, sEth) ∧
    sEth.piecesCheck .gallery false true [(ddrBase + 16, 10)] = (none, sEth) := ⟨rfl, rfl, rfl, rfl⟩
theorem test_eth_drop : nx (exec (.ethReceive 1 [1] false) (sEth.rset (.ethIdx 1) 0)) (fun t => t.rget (.ethRxdrop 1) == 1) = true := by decide +kernel
/-- What the statement on transmission asks, for port 1 and its first descriptor. -/
theorem test_eth_transmit : sEth.fget (.ethIdx 1) 63 48 = 0 ∧ sEth.fget (.ethIdx 1) 47 32 = 1 ∧
    sEth.ethDesc (.ethTxring 1) 0 = ddrBase + 0x1000 ∧ sEth.field (ddrBase + 0x1000) 8 / 64 * 64 = ddrBase + 0x3000 ∧
    sEth.field (ddrBase + 0x1008) 2 = 3 ∧ sEth.field (ddrBase + 0x100A) 1 / 2 % 4 = 0 ∧ inDdr5 (ddrBase + 0x1000) 32 = true ∧
    inDdr5 (ddrBase + 0x3000) 3 = true ∧ nx (exec (.ethTransmit 0) sEth) (fun t => t.resp == {}) = true := by decide +kernel
theorem test_eth_transmit_open : sEth.piecesCheck .gallery false false [(ddrBase + 0x1000, 32)] = (none, sEth) ∧
    sEth.piecesCheck .gallery false false [(ddrBase + 0x3000, 3)] = (none, sEth) ∧
    sEth.piecesCheck .gallery false true [(ddrBase + 0x100A, 1)] = (none, sEth) := ⟨rfl, rfl, rfl⟩
/-- The origin timestamp of a Sync message sent with ONESTEP (R358): seconds, then nanoseconds. -/
theorem test_one_step : ptpAt (syncFrame ++ List.replicate 44 0) = some ⟨14, none⟩ ∧
    ((oneStep (syncFrame ++ List.replicate 44 0) 5000000007 3).drop 48).take 10 = beBytes 6 5 ++ beBytes 4 7 := by decide +kernel

/-! ### Encoders, actions, CAN -/

/-- Encoder 1 enabled, quadrature. -/
def sEn (x : Enc) : State := { sT.rset (.encCfg 1) (2 ^ 31 + 10) with encs := [(1, x)], clock := { sec := 5, ticks := 7000 } }

theorem test_count : nx (exec (.encoderCount 1 true false) (sEn { pos := 5 })) (fun t => (t.enc 1).pos == 6 && (t.enc 1).a && (t.enc 1).span.isSome) = true ∧
    nx (exec (.encoderCount 1 true true) (sEn { pos := 5 })) (fun t => (t.enc 1).pos == 5 && t.rget (.encErr 1) == 1) = true ∧
    nx (exec (.encoderCount 2 true true) (sEn { pos := 5 })) (fun t => (t.enc 2).a == false && (t.enc 2).ca.isSome && (t.enc 2).pos == 0) = true := by decide +kernel
theorem test_index : nx (exec (.encoderIndex ⟨1, true⟩) ((sEn { pos := 5 }).fset (.encCfg 1) 27 27 1)) (fun t => (t.enc 1).idxp == 5 && (t.enc 1).pos == 0) = true := by
  decide +kernel
theorem test_record : nx (exec (.encoderRecord 1) (sEn { pos := 105, lp := 105, last := 2000000000, span := some 7000, recs := [(1000000000, 5)] })) (fun t =>
      (t.enc 1).speed == 100 * 65536 && (t.enc 1).span == none && (t.enc 1).recs == [(2000000000, 105), (1000000000, 5)]) = true ∧
    nx (exec (.encoderRecord 1) (sEn { span := some 7001 })) (fun t => (t.enc 1).span == some 7001) = true := by decide +kernel
theorem test_speed_timeout : nx (exec (.speedTimeout 1) { sEn { speed := 5, tick := 0 } with clock := { ticks := 128000 } }) (fun t => (t.enc 1).speed == 0) = true ∧
    nx (exec (.speedTimeout 1) (sEn { speed := 5, tick := 0 })) (fun t => (t.enc 1).speed == 5) = true := by decide +kernel
theorem test_job : nx (exec (.rollJobStart .gallery 1 77) (sEn { pos := 5 })) (fun t => (t.enc 1).job0 == 5 && t.rget (.encJob 1) == 77) = true := by decide +kernel

/-- An entry: PULSE of pin 3 at 6 s for 100 ns. -/
def actEntry : List Byte := [3, 0, 3, 0] ++ leBytes 4 100 ++ leBytes 8 6000000000 ++ leBytes 4 0 ++ leBytes 12 0

/-- The action of it. -/
def act1 : Act := { chan := 2, op := 3, flags := 0, target := 3, enc := 0, width := 100, when_ := 6000000000, late := 0, d := 0 }

/-- Channel 2 of context 1 has the entry at page 1; fence 5 tells of one. -/
def sAct : State :=
  let s := winAt 0 0 0x20 1 (sF {} 1)
  { s.setBytes 0x200000 actEntry with
    pmt := pmt1, chans := [(2, { state := 1 })], ready := true, clock := { sec := 5 }
    regs := (((s.rset (.taqCfg 2) (2 ^ 31 + 1)).rset (.taqBase 2) 0x10000).rset (.taqFence 2) 5).regs }

theorem test_action_fetch : nextRr 16 sAct.line.rr sAct.chanReady = some 2 ∧ sAct.burst 2 = 1 ∧ actOf 2 actEntry = some act1 ∧
    nx (exec (.actionFetch 2) sAct) (fun t => t.line.queue == [act1] && (t.chan 2).fetched == 1) = true ∧
    nx (exec (.actionFetch 3) sAct) (fun t => t.line.queue == []) = true := by decide +kernel
theorem test_fire : nx (exec .actionFire { sAct with line := { queue := [act1], seq := 1 }, clock := { sec := 6 } }) (fun t => t.line.level == 8 && t.line.queue == [] &&
      t.line.edges == [(3, 6000000100, 0)] && t.rget (.taqFired 2) == 1) = true ∧
    nx (exec .actionFire { sAct with line := { queue := [{ act1 with op := 4, flags := 8 }], seq := 1 }, clock := { sec := 6 } }) (fun t => t.rget (.canTxreqR 1) == 8) = true ∧
    nx (exec .actionFire { sAct with line := { queue := [act1] } }) (fun t => t.line.queue == [act1]) = true := by decide +kernel
theorem test_pulse_end : nx (exec (.pulseTrailingEdge 3) { sAct with line := { level := 8, edges := [(3, 5000000000, 0)], seq := 1 } }) (fun t => t.line.level == 0 && t.line.edges == []) = true ∧
    nx (exec (.pulseTrailingEdge 3) { sAct with line := { level := 8, edges := [(3, 5000000001, 0)], seq := 1 } }) (fun t => t.line.level == 8) = true := by decide +kernel
theorem test_chan_disable : nx (exec (.actionChannelDisable .gallery 2 true) { sAct.fset (.taqCfg 2) 30 30 1 with line := { queue := [act1] } }) (fun t =>
      t.line.queue == [] && t.rget (.taqDiscarded 2) == 1 && (t.chan 2).stopping && nx (exec (.actionChannelDisabled 2) t) (fun u => (u.chan 2).state == 0)) = true ∧
    nx (exec (.actionChannelDisabled 2) sAct) (fun t => (t.chan 2).state == 1) = true := by decide +kernel

/-- CAN controller 1 on the bus; buffers 4 and 5 requested, 5 with the lower identifier. -/
def sCan (q : List (List Byte)) : State :=
  { (((sT.rset (.canCtl 1) (2 ^ 31)).rset (.canTxreqR 1) 0x30).rset (.canTxbuf 1 4 0) 9).rset (.canTxbuf 1 5 0) 8 with canRx := [(1, q)] }

theorem test_can_request : nx (exec (.canTxreq .gallery 1 3) (sCan [])) (fun t => t.rget (.canTxreqR 1) == 0x33) = true := by decide +kernel
theorem test_can_transmit : nx (exec (.canTransmit ⟨1, false⟩) (sCan [])) (fun t => t.rget (.canTxreqR 1) == 0x10 && t.rget (.canTxbuf 1 5 1) == t.now && t.resp.data.length == 80) = true ∧
    nx (exec (.canTransmit ⟨0, false⟩) (sCan [])) (fun t => t.resp == {}) = true := by decide +kernel
theorem test_can_receive : nx (exec (.canReceive ⟨1, false⟩ (leBytes 4 5 ++ leBytes 12 2 ++ [7, 8])) (sCan [])) (fun t => (t.canFifo 1).map (fun (r : List Byte) => (r.length, r.take 8, (r.drop 16).take 2)) ==
      [(80, leBytes 4 5 ++ leBytes 4 2, [7, 8])]) = true ∧
    nx (exec (.canReceive ⟨1, false⟩ []) (sCan (List.replicate 64 []))) (fun t => t.fget (.canRxstat 1) 7 7 == 1) = true := by decide +kernel
theorem test_can_pop : nx (exec (.canRxPop .gallery 1) (sCan [List.replicate 72 0 ++ [9], [1]])) (fun t => t.canFifo 1 == [[1]] && t.resp.data == leBytes 8 9) = true ∧
    nx (exec (.canRxPop .gallery 1) (sCan [])) (fun t => t.resp.data.length == 8) = true := by decide +kernel
theorem test_bus_off : nx (exec (.busOffRecovery 1) (sT.rset (.canCtl 1) (2 ^ 29 + 2 ^ 25 + 0x12300))) (fun t => t.rget (.canCtl 1) == 2 ^ 29) = true := by decide +kernel

/-! ### SEC -/

/-- Studio channels 16 (application cores to SEC) and 17 (back); a request waits with its buffer in slice 0. -/
def sSec (op : Nat) (buf : List Byte) (hold : Bool) : State :=
  let s := ((State.reset.rset .hclRst 0).rset (.mbxCfg 16) (2 ^ 63 + 2 * 2 ^ 56 + 6 * 2 ^ 52)).rset (.mbxCfg 17) (2 ^ 63 + 6 * 2 ^ 56 + 2 * 2 ^ 52)
  { s.setBytes 0x200000 buf with
    mbx := [(16, [BitVec.ofNat 64 (op + 5 * 2 ^ 16 + 0x20000 * 2 ^ 24)])], ready := true, pmc := { hold := hold }
    sec := { up := true, akValid := true, otp := [(8, 1), (20, 3)] } }

theorem test_sec_ready : nextRr 24 (sSec 3 [] false).sec.rr (sSec 3 [] false).secReady = some 16 ∧ (sSec 3 [] false).answerCh 16 = some 17 ∧
    (secReq 16 (3 + 5 * 2 ^ 16 + 0x20000 * 2 ^ 24)).buf = 0x200000 ∧ secBad 16 (3 + 5 * 2 ^ 16 + 0x20000 * 2 ^ 24) = false := by decide +kernel
theorem test_sec_bad : nx (exec (.attest 16) (sSec 7 [] false)) (fun t => t.slots 17 == [BitVec.ofNat 64 (7 + 5 * 2 ^ 16 + 0x10 * 2 ^ 24)] && t.slots 16 == []) = true ∧
    nx (exec (.attest 16) (sSec 3 [] false)) (fun t => t.slots 17 == []) = true := by decide +kernel
theorem test_attest : nx (exec (.attest 16) (sSec 1 (leBytes 32 9) false)) (fun t => t.slots 17 == [BitVec.ofNat 64 (1 + 5 * 2 ^ 16)]) = true := by
  decide +kernel
theorem test_get_cert : (sSec 2 [3] false).cert 3 = none ∧ nx (exec (.getCert 16) (sSec 2 [3] false)) (fun t =>
      t.slots 17 == [BitVec.ofNat 64 (2 + 5 * 2 ^ 16 + 0x10 * 2 ^ 24)]) = true ∧ ((sSec 2 [1] false).cert 1).isSome = true := by decide +kernel
theorem test_extend : nx (exec (.extend 16) (sSec 3 [1] false)) (fun t => t.slots 17 == [BitVec.ofNat 64 (3 + 5 * 2 ^ 16)] &&
      t.meas 6 == beNat (sha256 (beBytes 32 0 ++ 1 :: List.replicate 31 0)) && t.meas 5 == 0) = true := by decide +kernel
theorem test_flash_update : nx (exec (.flashUpdate 16) (sSec 4 (leBytes 8 0x200100 ++ leBytes 4 16) false)) (fun t =>
      t.slots 17 == [BitVec.ofNat 64 (4 + 5 * 2 ^ 16 + 0x10 * 2 ^ 24)] && t.rget .secUpdStat == 2 ^ 30) = true := by decide +kernel
theorem test_counter : nx (exec (.counterAdvance 16) (sSec 5 [10, 7] false)) (fun t => t.slots 17 == [BitVec.ofNat 64 (5 + 5 * 2 ^ 16)] && t.ctr 10 == 7) = true ∧
    nx (exec (.counterAdvance 16) (sSec 5 [10, 2] false)) (fun t => t.slots 17 == [BitVec.ofNat 64 (5 + 5 * 2 ^ 16 + 0x10 * 2 ^ 24)] && t.ctr 10 == 3) = true ∧
    nx (exec (.counterAdvance 16) (sSec (5 + 256) [10, 7] true)) (fun t => t.slots 17 == [BitVec.ofNat 64 (5 + 5 * 2 ^ 16 + 0x80 * 2 ^ 24)] && t.ctr 10 == 3) = true ∧
    nx (exec (.counterAdvance 16) (sSec 5 [10, 7] true)) (fun t => t.slots 17 == [] && t.pmc.holdQ == [⟨.otp 20 7, some (16, 5, 5)⟩]) = true := by decide +kernel
theorem test_key_write : nx (exec (.keyWrite 16) (sSec 6 ([9] ++ List.replicate 15 0 ++ List.replicate 256 0x55) false)) (fun t =>
      t.keyEntry 9 == List.replicate 256 0x55 && t.slots 17 == [BitVec.ofNat 64 (6 + 5 * 2 ^ 16)]) = true := by decide +kernel
theorem test_challenge : nx (exec .debugChallengeRead State.reset) (fun t => t.sec.nonceNo == 1 && t.resp.data.length == 48) = true := by decide +kernel
theorem test_debug_refused : (sSec 1 [] false).debugOk [1] = false ∧ nx (exec (.debugResponseGo [1]) { sSec 1 [] false with sec := { up := true, fails := 2 } }) (fun t =>
      t.sec.locked && t.sec.fails == 3) = true ∧
    nx (exec (.debugResponseGo [1]) { sSec 1 [] false with sec := { up := true, locked := true } }) (fun t => t.sec.fails == 0) = true := by decide +kernel
theorem test_region : nx (exec (.regionDescriptorWrite .studio 3 true 0x5000F) State.reset) (fun t => t.rget (.secRgnCfg 3) == 0x5000F &&
      nx (exec (.regionDescriptorWrite .studio 3 true 0) t) (fun u => u.rget (.secRgnCfg 3) == 0x5000F)) = true ∧
    nx (exec (.regionDescriptorWrite .studio 3 false 0x70123) State.reset) (fun t => t.rget (.secRgnBase 3) == 0x70000) = true := by decide +kernel
theorem test_blkworld : nx (exec (.secBlkworldWrite .studio (2 ^ 64 - 1)) (State.reset.rset .secBlkworld 0)) (fun t => t.rget .secBlkworld == 2 ^ 41 - 1 - fixedBlocks) = true ∧
    nx (exec (.secLockBlk .studio) State.reset) (fun t => t.rget .secLock == 1 && nx (exec (.secBlkworldWrite .studio 0) t) (fun u => u.rget .secBlkworld == t.rget .secBlkworld)) = true := by decide +kernel


/-! ### Application cores, USB, root port, registers -/

theorem test_hc_hold : State.reset.admits .gallery .hclRst true ∧
    nx (exec (.hcRelease .gallery 3) State.reset) (fun t => t.fget .hclRst 7 0 == 0xF7 &&
      nx (exec (.hcHold .gallery 3) t) (fun u => u.fget .hclRst 7 0 == 0xFF)) = true := by
  unfold State.admits; decide +kernel
theorem test_cluster : nx (exec (.cluster .gallery) ((State.reset.rset .hclRst 0).rset (.mbxCfg 3) (2 ^ 63 + 2 * 2 ^ 56 + 2 * 2 ^ 52))) (fun t =>
    t.fget .hclRst 7 0 == 255) = true := by decide +kernel

/-- The USB port attached and enabled, MPS 64; ring `n` in DDR5, of two descriptors, has one given, which names a buffer of `k`
bytes. -/
def sUsb (n k : Nat) : State :=
  let s := { sT with ddr := (sDdr { state := 1 }).ddr, usb := 6 }
  (({ s with regs := (((((s.fset .dmcCfg 31 31 1).rset .usbCtl (2 ^ 31)).rset (.usbEpCfg n) (2 ^ 31 + 64)).rset (.usbEpIdx n) 1).rset (.usbEpRing n) (ddrBase + 1)).regs } : State).setBytes
    ddrBase (leBytes 8 (ddrBase + 0x2000) ++ leBytes 2 k)).setBytes (ddrBase + 0x2000) [1, 2, 3]

theorem test_usb_attach : nx (exec (.usbAttach 2) State.reset) (fun t => t.usbAttached && nx (exec .usbDetach t) (fun u => u.usb == 0)) = true := by
  decide +kernel
/-- What the statement on OUT packets asks, for ring 2: a short packet, and the packet that fills the buffer. -/
theorem test_usb_out : (sUsb 2 64).usbAttached = true ∧ (sUsb 2 64).usbGiven 2 = true ∧ (sUsb 2 64).fget (.usbEpCfg 2) 31 30 = 2 ∧
    (sUsb 2 64).usbMps 2 = 64 ∧ (sUsb 2 64).eccClean = true ∧ (sUsb 2 64).ethDesc (.usbEpRing 2) 0 = ddrBase ∧
    (sUsb 2 64).field (ddrBase + 8) 2 = 64 ∧ (sUsb 2 64).field ddrBase 8 / 64 * 64 = ddrBase + 0x2000 ∧
    mget (fun _ => 0) (sUsb 2 64).usbOut 2 = 0 ∧ inDdr5 ddrBase 32 = true ∧ inDdr5 (ddrBase + 0x2000) 64 = true := by decide +kernel
theorem test_usb_open : (sUsb 2 64).piecesCheck .gallery false false [(ddrBase, 32)] = (none, sUsb 2 64) ∧
    (sUsb 2 64).piecesCheck .gallery false true [(ddrBase + 8, 3)] = (none, sUsb 2 64) ∧
    (sUsb 2 64).piecesCheck .gallery false true [(ddrBase + 0x2000, 64)] = (none, sUsb 2 64) ∧
    (sUsb 3 2).piecesCheck .gallery false false [(ddrBase + 0x2000, 2)] = (none, sUsb 3 2) := ⟨rfl, rfl, rfl, rfl⟩
theorem test_usb_stall : nx (exec (.usbTransfer 2 [7, 8] false) ((sUsb 2 64).fset (.usbEpCfg 2) 30 30 1)) (fun t => t.resp.status == 2 && t.resp.data == [7, 8]) = true ∧
    nx (exec (.usbTransfer 2 [7, 8] false) ((sUsb 2 64).rset (.usbEpIdx 2) 0)) (fun t => t.resp.status == 1) = true ∧
    nx (exec (.usbTransfer 3 [7, 8] false) (sUsb 2 64)) (fun t => t.bytes (ddrBase + 0x2000) 3 == [1, 2, 3]) = true := by decide +kernel
theorem test_usb_in : (sUsb 3 2).usbGiven 3 = true ∧ (sUsb 3 2).field (ddrBase + 8) 2 = 2 ∧ (sUsb 3 2).fget (.usbEpCfg 3) 31 30 = 2 := by
  decide +kernel
theorem test_usb_detach : nx (exec .usbDetach (sUsb 3 2)) (fun t => t.usb == 0) = true ∧ inDdr5 (ddrBase + 8) 3 = true := by decide +kernel

/-- The root port's link up, with an outbound window. -/
def sRp : State := { State.reset.rset .rpAp 0x1000000000 with ready := true, pcie := { rpWidth := 4 } }

theorem test_rp_cfg : nx (exec (.pcierpCfgGo .gallery false 0x10) sRp) (fun t => t.fget .rpCfg 31 31 == 1 &&
      nx (exec (.pcierpCfgCompletion false 0x1234) t) (fun u => u.fget .rpCfg 31 31 == 0 && u.rget .rpCfgdata == 0x1234) &&
      nx (exec (.pcierpCfgCompletion true 0x1234) t) (fun u => u.fget .rpCfg 29 29 == 1 && u.rget .rpCfgdata == 0xFFFFFFFF)) = true := by decide +kernel
theorem test_rp_timeout : nx (exec (.pcierpCfgGo .gallery true 0x10) sRp) (fun t => t.fget .rpCfg 30 30 == 1 &&
      nx (exec .pcierpCfgTimeout t) (fun u => u.fget .rpCfg 31 29 == 3 && u.rget .rpCfgdata == 0)) = true := by decide +kernel
theorem test_aperture : sRp.regOpen .gallery 0x980040 true = true ∧
    nx (exec (.apertureWrite .gallery 0x40 [5]) sRp) (fun t => t.pcie.rpWrites == [(0x1000000040, [5])]) = true ∧
    nx (exec (.apertureWrite .gallery 0x40 [5]) { (sRp.rset .pmcNvgate (0x80 * 2 ^ 32)) with pmc := { hold := true } }) (fun t => t.pcie.rpWrites == [] &&
      t.pmc.held == [⟨.aperture 0x40 [5], none⟩]) = true := by decide +kernel
theorem test_inbound_refused : sRp.inAdmits 0x1000 1 = false ∧
    exec (.inboundRequest 0x1000 (.write [5])) sRp = .next { sRp with resp := { ok := false, status := 0x20, data := [] } } := by
  refine ⟨by decide +kernel, ?_⟩
  show Host.Outcome.next (if 0x1000 = Config.interruptFile.toNat ∧ 1 = 4 then _ else _) = _
  rw [if_neg (by simp)]
  rfl

/-- Requests of the root port reach DDR5. -/
def sIn : State :=
  { ((sDdr {}).rset .rpInLimit (ddrBase + 0x10000)).rset .rpInBase ddrBase with pcie := { rpWidth := 4 } }

theorem test_inbound : ¬ (ddrBase = Config.interruptFile.toNat ∧ [5].length = 4) ∧ sIn.inAdmits ddrBase 1 = true ∧ sIn.eccClean = true ∧
    sIn.piecesCheck .gallery false true [(ddrBase, 1)] = (none, sIn) := by
  refine ⟨by simp, by decide +kernel, by decide +kernel, by rfl⟩
/-- Core 0 runs. -/
def sHc : State := State.reset.fset .hclRst 7 0 0xFE

theorem test_register_write : nx (exec (.registerWrite .gallery .hc (BitVec.ofNat 44 (regsBase + Reg.gsScrubCtl.addr)) 32 77) sHc) (fun t =>
      t.fget .gsScrubCtl 15 0 == 77) = true ∧
    nx (exec (.registerWrite .gallery .hc (BitVec.ofNat 44 (regsBase + Reg.gsScrubCtl.addr)) 32 77) State.reset) (fun t => t.fget .gsScrubCtl 15 0 == 16) = true := by
  decide +kernel
theorem test_register_id : nx (exec (.registerWrite .gallery .hc (BitVec.ofNat 44 (regsBase + Reg.sysctlId.addr)) 32 77) sHc) (fun t =>
      t.rget .sysctlId == State.reset.rget .sysctlId) = true ∧
    nx (exec (.registerWrite .gallery .hc (BitVec.ofNat 44 (regsBase + Reg.timeSrvThr.addr)) 64 77) (sHc.rset .timeSrvCtl (2 ^ 31))) (fun t =>
      t.rget .timeSrvThr == 1000000 * 2 ^ 32 + 100) = true ∧
    nx (exec (.registerWrite .gallery .hc (BitVec.ofNat 44 (regsBase + Reg.timeSrvThr.addr)) 64 77) sHc) (fun t => t.rget .timeSrvThr == 77) = true := by decide +kernel

/-! ### Reset and boot -/

theorem test_power_on : nx (exec (.powerOnReset .vddAon) { State.reset with mem := [(5, 6), (hostBase, 7)], fatal := true, standalone := true }) (fun t =>
      t.mem == [(hostBase, 7)] && t.held && t.lastRst == 1 && t.fatal == false && t.standalone &&
      nx (exec (.resetRelease false true false) t) (fun u => u.held == false && u.refclk && u.standalone == false)) = true := by decide +kernel
theorem test_warm_reset : nx (exec .warmReset { State.reset.rset (.pmcNePerf 1) 50 with mem := [(5, 6), (hostBase, 7)], ready := true }) (fun t =>
      t.mem == [(hostBase, 7)] && t.held && t.lastRst == 2 && t.ready == false && t.rget (.pmcNePerf 1) == 50) = true := by decide +kernel
theorem test_brownout : nx (exec (.brownoutReset ⟨600, 1800, 750⟩) { State.reset.rset (.pmcNePerf 1) 50 with ready := true }) (fun t =>
      t.held == false && t.lastRst == 3 && t.rget .pmcRstcause == 1 && t.rget (.pmcNePerf 1) == (Reg.pmcNePerf 1).reset.toNat) = true := by decide +kernel
theorem test_lock : nx (exec .rootpllLock { State.reset with held := false }) (fun t => t.rootLock && t.clock.runs &&
      nx (exec .serdesPllLock t) (fun u => u.sdLock)) = true := by decide +kernel
theorem test_boot_fails : nx (exec (.bootChain ⟨[], none, [], false⟩) { State.reset with held := false, rootLock := true }) (fun t =>
      t.stage == (1, 0, true) && t.ready == false && t.sec.bootErr == 1 && t.sec.udsOff) = true := by decide +kernel

/-! ### Power -/

theorem test_dip : nx (exec (.dipEpisodeStart ⟨640, 1800, 750⟩ true) State.reset) (fun t => t.pmc.hold && t.pmc.pwrwarn && t.pmc.lowMv == 640 && t.rget .pmcBoCount == 1 &&
      nx (exec (.dipEpisodeStart ⟨630, 1600, 750⟩ false) t) (fun u => u.pmc.causes == 7 && u.pmc.lowMv == 630 && u.pmc.pwrwarn == false && u.pmc.calm == none)) = true ∧
    nx (exec (.dipEpisodeStart ⟨700, 1700, 750⟩ false) State.reset) (fun t => t.pmc.hold == false) = true := by decide +kernel
theorem test_dip_ends : nx (exec .dipEpisodeEnd { State.reset with pmc := { hold := true, causes := 7, lowMv := 630, calm := some 0 }, clock := { ns := 2000000 } }) (fun w =>
      w.pmc.hold == false && w.rget .pmcEvhead == 1 && w.rget (.pmcEvlog 0 1) == 1 + 7 * 2 ^ 8 + 630 * 2 ^ 16 + 2000 * 2 ^ 32) = true ∧
    nx (exec .dipEpisodeEnd { State.reset with pmc := { hold := true, calm := some 0 }, clock := { ns := 1999999 } }) (fun w => w.pmc.hold) = true := by
  decide +kernel
theorem test_held : nx (exec .dipEpisodeEnd { sRp with clock := { ns := 2000000 }, pmc := { hold := true, calm := some 0, order := [false], held := [⟨.aperture 0x40 [5], none⟩] } }) (fun t => t.pmc.releasing) = true ∧
    nx (exec .nvOperationRelease { sRp with pmc := { releasing := true, order := [false, false], held := [⟨.aperture 0x40 [5], none⟩, ⟨.aperture 0x80 [6], none⟩] } }) (fun t => t.pcie.rpWrites == [(0x1000000040, [5])] &&
        t.pmc.held == [⟨.aperture 0x80 [6], none⟩]) = true := by decide +kernel

theorem test_reqn : State.reset.admits .gallery (.pmcNePerf 0) true ∧
    nx (exec (.reqnWrite .gallery 0 64) State.reset) (fun t => t.reqN 0 == 64) = true := by unfold State.admits; decide +kernel
/-- Fuses of a part without trim. -/
def fuse0 : Fuses := { Fuses.ofConfig with vtrim := [0, 0, 0, 0, 0, 0], nmin := [28, 28, 28, 28, 28, 28] }

theorem test_clock_step : nx (exec (.clockStep 0 28) { sE { grant := 28 } with fuse := fuse0 }) (fun t => (t.eng 0).step == some ⟨28, true, false⟩ &&
      nx (exec (.avsVdone 0) t) (fun u => (u.eng 0).vmv == 850)) = true ∧
    nx (exec (.clockStep 0 28) { sE { grant := 28, vmv := 850 } with fuse := fuse0 }) (fun w => (w.eng 0).curN == 28 && (w.eng 0).ramp) = true ∧
    nx (exec (.clockStep 0 64) { sE { grant := 64 } with fuse := fuse0 }) (fun t => (t.eng 0).curN == 64 && (t.eng 0).step == some ⟨64, false, true⟩ && (t.eng 0).stPwr == 16) = true := by
  decide +kernel
theorem test_avs_timeout : nx (exec (.avsTimeout 0) (sE { grant := 28, step := some ⟨28, true, false⟩ })) (fun t => (t.eng 0).step == none && (t.eng 0).grant == 32 &&
      t.rget .pmcEvhead == 1) = true := by decide +kernel
theorem test_ramp : nx (exec (.activityRamp 0 []) (sE { e0 with ramp := true })) (fun t => (t.eng 0).ramp == false && (t.eng 0).stPwr == 120) = true := by
  decide +kernel
theorem test_droop : nx (exec (.droopSuppress 0) (sE e0)) (fun t => (t.eng 0).droop && nx (exec (.droopRecover 0 9) t) (fun u => (u.eng 0).droop == false &&
      u.rget (.pmcNeDroop 0) == 9)) = true := by decide +kernel

/-- Engine 0 idle since 0 at 1 s, RETAIN permitted. -/
def sIdle (x : Engine) : State := { (sE x).fset (.pmcNePerf 0) 26 25 1 with clock := { sec := 1 } }

theorem test_idle_select : (sIdle {}).tNext 0 = none ∧ (sIdle {}).idleSince 0 + 8 * 68000 ≤ 8 * (sIdle {}).now ∧
    nx (exec (.idleStateSelect 0) (sIdle { vregs := [(1, 2)] })) (fun t => (t.eng 0).idle == .retain && (t.eng 0).vregs == []) = true := by decide +kernel
theorem test_idle_exit : nx (exec (.idleExit 0) (sIdle { idle := .gated, queue := [task1] })) (fun t => (t.eng 0).idle == .exiting && (t.eng 0).exitTo == 1000000020 &&
      nx (exec (.idleExitDone 0) { t with clock := { sec := 2 } }) (fun u => (u.eng 0).idle == .active && (u.eng 0).ramp)) = true ∧
    nx (exec (.idleExit 0) { sIdle { idle := .sliceOff, queue := [task1] } with mem := [(5, 6), (0x400000000, 7)] }) (fun t => t.byte 5 == 0 && (t.eng 0).idle == .exiting) = true := by
  decide +kernel
theorem test_domain_hc : nx (exec (.powerDomainOff (.hc 255)) (State.reset.rset .hclPdreq 255)) (fun t => t.pmc.pdHc == false && t.fget .hclStat 7 0 == 255 &&
      nx (exec (.powerDomainOn (.hc 0)) { t with pmc := { t.pmc with wake := [.hc 4] } }) (fun u => u.pmc.pdHc && u.irqs == [.hc 4] && u.rget .hclPdreq == 0)) = true := by
  decide +kernel
theorem test_domain_media : nx (exec (.powerDomainOff .media) (State.reset.fset (.pmcNePerf 0) 27 27 1)) (fun t => t.pmc.pdMedia == false &&
      nx (exec (.powerDomainOn .media) { t with pmc := { t.pmc with mediaWake := [4] } }) (fun u => u.pmc.pdMedia && u.pmc.mediaWake == [])) = true := by
  decide +kernel
theorem test_cap : State.reset.admits .gallery .pmcCap true ∧ nx (exec (.pmcCapWrite .gallery 239) State.reset) (fun t => t.fget .pmcCap 15 0 == State.reset.fget .pmcCap 15 0) = true := by
  unfold State.admits; decide +kernel
theorem test_sample : nx (exec (.powerSample ⟨[(200, 750)], [(5, 100), (6, 50)]⟩) ((State.reset.rset (.pmcPmb 0) 0x8105).rset (.pmcPmb 3) 0x8206)) (fun t =>
    t.pmc.demRt == 100 && t.pmc.demMem == 50 && t.pmc.winSum == some 350 && t.pmc.pkg == 350) = true := by decide +kernel
theorem test_tlimit : (State.reset.setTemps 0 [1000]).nextTlimit = 792 ∧ (State.reset.setTemps 0 [1000]).tempC 0 = 1000 ∧
    ({ State.reset with pmc := { tlimit := 300 } } : State).nextTlimit = 304 := by decide +kernel
theorem test_trip : nx (exec (.thermalTrip 2 1000) State.reset) (fun t => t.tripped && t.fatal && t.ddr.selfRefresh && t.rget .pmcEvhead == 1) = true ∧
    nx (exec (.thermalTrip 2 999) State.reset) (fun t => t.tripped == false) = true := by decide +kernel
theorem test_front : step { State.reset with pending := [.usbAttach 2], held := false } = exec (.usbAttach 2) { State.reset with pending := [], held := false } := rfl
theorem test_tick : nx (step { State.reset with held := false }) (fun t => t.clock.ticks == 1) = true ∧ nx (step { State.reset with held := true }) (fun t => t.clock.ticks == 0) = true := by
  decide +kernel


/-! ### Ill-formed terms: one for each check -/

theorem test_wf_ok : cmmOk cmm1 cx1 = true ∧ Instr.wf (.vop2 h0 .add (vc .int32)) = true ∧ Instr.wf (.drn h0 1 3 true false 0 0 (.imm 0)) = true ∧
    Instr.wf (.pq h0 3 1 3 0 2 0 true 1) = true := by decide +kernel
theorem test_wf_cmm : cmmOk { cmm1 with sfmt := .fp32 } cx1 = false ∧ cmmOk { cmm1 with xfmt := .fp32 } cx1 = false ∧
    cmmOk { cmm1 with xfmt := .cb8 } cx1 = false ∧ cmmOk { cmm1 with sfmt := .fp16 } cx1 = false ∧
    cmmOk { cmm1 with sfmt := .uint8, xfmt := .uint8 } cx1 = false ∧ cmmOk { cmm1 with sfmt := .cb4, xfmt := .int16 } cx1 = false ∧
    cmmOk { cmm1 with complex := true, sfmt := .int16, xfmt := .int16 } cx1 = false := by decide +kernel
theorem test_wf_control : Instr.wf (.loop h0 0 (.imm 3) 0) = false ∧ Instr.wf (.brz h0 0 0) = false ∧ Instr.wf (.brnz h0 0 0) = false := by
  decide +kernel
theorem test_wf_memory : Instr.wf (.ld h0 0 0 6 1 0) = false ∧ Instr.wf (.st h0 0 0 1 63 0) = false ∧ Instr.wf (.rld h0 0 0 6 1) = false ∧
    Instr.wf (.rst h0 0 0 2 61) = false ∧ Instr.wf (.palwr h0 0 .fp32 0 0 1) = false ∧ Instr.wf (.palwr h0 0 .fp16 0 0 0) = false ∧
    Instr.wf (.palwr h0 0 .fp16 0 1 256) = false := by decide +kernel
theorem test_wf_vector : Instr.wf (.vop2 h0 .add (vc (.fmt .int4))) = false ∧ Instr.wf (.vfma h0 (vc (.fmt .cb4))) = false ∧
    Instr.wf (.vcmp h0 .eq 1 { vc (.fmt .fp16) with vd := 0 }) = false ∧ Instr.wf (.vcmp h0 .eq 1 (vc .int32)) = false ∧
    Instr.wf (.vsel h0 (vc (.fmt .mxfp4))) = false ∧ Instr.wf (.vfn h0 .rcp (vc .int32)) = false ∧
    Instr.wf (.vred h0 .sum 0 (vc (.fmt .int8))) = false ∧ Instr.wf (.vperm h0 (vc (.fmt .cb8))) = false ∧
    Instr.wf (.vext h0 0 0 (.fmt .int4) 0) = false ∧ Instr.wf (.vbcast h0 0 (vc (.fmt .cb4))) = false := by decide +kernel
theorem test_wf_convert : Instr.wf (.vcvt h0 .int32 0 { vc .int32 with vc := 0 }) = false ∧ Instr.wf (.vcvt h0 (.fmt .cb4) 0 { vc .int32 with vc := 0 }) = false ∧
    Instr.wf (.vcvt h0 (.fmt .fp16) 2 { vc (.fmt .fp32) with vc := 0 }) = false ∧
    Instr.wf (.vcvt h0 (.fmt .mxfp4) 0 { vc (.fmt .fp32) with vc := 0, vd := 31 }) = false := by decide +kernel
theorem test_wf_rest : Instr.wf (.drn h0 1 4 true false 0 0 (.imm 0)) = false ∧ Instr.wf (.drn h0 1 0 true false 1 0 (.imm 0)) = false ∧
    Instr.wf (.drn h0 1 0 true false 0 1 (.imm 0)) = false ∧ Instr.wf (.wgcfg h0 0 0x26 0) = false ∧ Instr.wf (.pq h0 3 1 4 0 2 0 true 1) = false ∧
    Instr.wf (.pq h0 3 1 8 0 2 0 false 1) = false ∧ Instr.wf (.pq h0 3 1 0 0 2 0 false 16) = false := by decide +kernel
theorem test_wf_refused : exec (.brz h0 0 0) (sE e0) = .fault .reservedEncoding ∧ exec (.vop2 h0 .add (vc (.fmt .int4))) (sE e0) = .fault .reservedEncoding := by
  constructor <;> rfl

/-! ### Words written out from Tables 5.3, 5.5, 5.6 and 5.7 -/

theorem test_words_a :
    decodeSlot h0 .a (0x20 + 5 * 2 ^ 8 + 6 * 2 ^ 14 + 7 * 2 ^ 20 + 0xD * 2 ^ 26) = some (.salu h0 5 6 7 .slt) ∧
    decodeSlot h0 .a (0x21 + 5 * 2 ^ 8 + 6 * 2 ^ 14 + 7 * 2 ^ 26 + 0xFFFFFFFE * 2 ^ 32) = some (.salui h0 5 6 .sra 0xFFFFFFFE) ∧
    decodeSlot h0 .a (0x22 + 63 * 2 ^ 8 + 9 * 2 ^ 32) = some (.lil h0 63 9) ∧ decodeSlot h0 .a (0x23 + 63 * 2 ^ 8 + 9 * 2 ^ 32) = some (.lih h0 63 9) ∧
    decodeSlot h0 .a (0x24 + 2 * 2 ^ 8 + 4 * 2 ^ 14) = some (.movsp h0 2 .phaseid) ∧ decodeSlot h0 .a (0x24 + 2 * 2 ^ 8 + 5 * 2 ^ 14) = none ∧
    decodeSlot h0 .a (0x28 + 31 * 2 ^ 8 + 4 * 2 ^ 13 + 2 ^ 16 + 9 * 2 ^ 17) = some (.arset h0 31 (.stride 3) (.reg 9)) ∧
    decodeSlot h0 .a (0x28 + 31 * 2 ^ 8 + 5 * 2 ^ 13 + 9 * 2 ^ 32) = some (.arset h0 31 .bound (.imm 9)) ∧
    decodeSlot h0 .a (0x20 + 0xF * 2 ^ 26) = none ∧ decodeSlot h0 .a 0x25 = none := by decide +kernel
theorem test_words_control :
    decodeSlot h0 .a (0x30 + 3 * 2 ^ 8 + 2 ^ 10 + 9 * 2 ^ 11 + 7 * 2 ^ 32) = some (.loop h0 3 (.reg 9) 7) ∧
    decodeSlot h0 .a (0x30 + 3 * 2 ^ 8 + 7 * 2 ^ 32 + 9 * 2 ^ 48) = some (.loop h0 3 (.imm 9) 7) ∧
    decodeSlot h0 .a (0x31 + 9 * 2 ^ 14 + 0xFFFFF * 2 ^ 32) = some (.brz h0 9 0xFFFFF) ∧ decodeSlot h0 .a (0x32 + 9 * 2 ^ 14 + 2 ^ 32) = some (.brnz h0 9 1) ∧
    decodeSlot h0 .a (0x38 + 1 * 2 ^ 8 + 2 ^ 14 + 2 * 2 ^ 15 + 3 * 2 ^ 21) = some (.fwait h0 1 (.reg 2) 3) ∧
    decodeSlot h0 .a (0x39 + 1 * 2 ^ 8 + 0x1FFFF * 2 ^ 32) = some (.fsig h0 1 (.imm 0x1FFFF)) ∧
    decodeSlot h0 .a (0x3C + 200 * 2 ^ 8) = some (.phase h0 200) ∧ decodeSlot h0 .a 0x3F = some (.end_ h0) ∧ decodeSlot h0 .a (0x3F + 2 ^ 8) = none := by
  decide +kernel
theorem test_words_m :
    decodeSlot h0 .m (0x40 + 3 * 2 ^ 8 + 4 * 2 ^ 13 + 5 * 2 ^ 18 + 6 * 2 ^ 21 + 7 * 2 ^ 32) = some (.ld h0 3 4 5 6 7) ∧
    decodeSlot h0 .m (0x41 + 3 * 2 ^ 8 + 4 * 2 ^ 13 + 5 * 2 ^ 18 + 6 * 2 ^ 21 + 7 * 2 ^ 32) = some (.st h0 3 4 5 6 7) ∧
    decodeSlot h0 .m (0x42 + 33 * 2 ^ 8 + 4 * 2 ^ 14 + 7 * 2 ^ 32) = some (.lds h0 33 4 7) ∧ decodeSlot h0 .m (0x43 + 33 * 2 ^ 8 + 4 * 2 ^ 14 + 7 * 2 ^ 32) = some (.sts h0 33 4 7) ∧
    decodeSlot h0 .m (0x48 + 3 * 2 ^ 8 + 33 * 2 ^ 13 + 2 * 2 ^ 19 + 5 * 2 ^ 22) = some (.rld h0 3 33 2 5) ∧
    decodeSlot h0 .m (0x49 + 3 * 2 ^ 8 + 33 * 2 ^ 13 + 2 * 2 ^ 19 + 5 * 2 ^ 22) = some (.rst h0 3 33 2 5) ∧
    decodeSlot h0 .m (0x50 + 3 * 2 ^ 8 + 6 * 2 ^ 13) = some (.fqpop h0 3 6) ∧ decodeSlot h0 .m (0x58 + 33 * 2 ^ 8 + 6 * 2 ^ 14 + 2 ^ 17) = some (.racq h0 33 6 .producer) ∧
    decodeSlot h0 .m (0x59 + 6 * 2 ^ 14) = some (.rrel h0 6 .consumer) ∧ decodeSlot h0 .m (0x60 + 2 * 2 ^ 8 + 9 * 2 ^ 10 + 3 * 2 ^ 15) = some (.biasld h0 2 9 3) ∧
    decodeSlot h0 .m (0x61 + 33 * 2 ^ 8 + 6 * 2 ^ 14 + 9 * 2 ^ 18 + 5 * 2 ^ 23 + 251 * 2 ^ 31) = some (.palwr h0 33 .fp16 9 5 251) ∧
    decodeSlot h0 .m (0x40 + 7 * 2 ^ 18) = none := by decide +kernel

/-- The common layout of Table 5.6 with VD 3, VA 1, VB 2, PR 1. -/
def vw (opc et fn vc : Nat) : Nat := opc + et * 2 ^ 8 + 3 * 2 ^ 13 + 1 * 2 ^ 18 + 2 * 2 ^ 23 + vc * 2 ^ 28 + 1 * 2 ^ 33 + fn * 2 ^ 37

theorem test_words_v :
    decodeSlot h0 .v (vw 0x80 0x10 9 4 + 2 ^ 44) = some (.vop2 h0 .shr ⟨.int32, 3, 1, 2, 4, 1, false, true⟩) ∧
    decodeSlot h0 .v (vw 0x81 6 0 4 + 2 ^ 43) = some (.vfma h0 ⟨.fmt .fp16, 3, 1, 2, 4, 1, true, false⟩) ∧
    decodeSlot h0 .v (vw 0x82 8 4 4) = some (.vcmp h0 .gt 3 ⟨.fmt .fp32, 0, 1, 2, 4, 1, false, false⟩) ∧
    decodeSlot h0 .v (vw 0x83 0x10 0 4) = some (.vsel h0 (vc .int32)) ∧ decodeSlot h0 .v (vw 0x84 8 6 1) = some (.vcvt h0 (.fmt .fp16) 1 { vc (.fmt .fp32) with vc := 0 }) ∧
    decodeSlot h0 .v (vw 0x85 8 3 4) = some (.vfn h0 .rsqrt (vc (.fmt .fp32))) ∧ decodeSlot h0 .v (vw 0x86 0x10 (3 + 2 * 16) 4) = some (.vred h0 .argmax 2 (vc .int32)) ∧
    decodeSlot h0 .v (vw 0x87 0x10 0 4) = some (.vperm h0 (vc .int32)) ∧ decodeSlot h0 .v (vw 0x89 0x10 0 4 + 50 * 2 ^ 45) = some (.vbcast h0 50 (vc .int32)) ∧
    decodeSlot h0 .v (vw 0x80 0x10 12 4) = none ∧ decodeSlot h0 .v (vw 0x80 0x11 0 4) = none ∧ decodeSlot h0 .v (vw 0x81 0x10 1 4) = none := by decide +kernel
theorem test_words_v_rest :
    decodeSlot h0 .v (0x88 + 0x10 * 2 ^ 8 + 2 * 2 ^ 18 + 1023 * 2 ^ 45 + 61 * 2 ^ 55) = some (.vext h0 61 2 .int32 1023) ∧
    decodeSlot h0 .v (0x90 + 3 * 2 ^ 13 + 3 * 2 ^ 18 + 2 ^ 23 + 2 ^ 24 + 4095 * 2 ^ 48) = some (.drn h0 3 3 true true 0 0 (.imm 4095)) ∧
    decodeSlot h0 .v (0x90 + 3 * 2 ^ 13 + 31 * 2 ^ 18 + 40 * 2 ^ 25 + 1000 * 2 ^ 31 + 2 ^ 41 + 50 * 2 ^ 42) = some (.drn h0 3 31 false false 40 1000 (.reg 50)) ∧
    decodeSlot h0 .v (0x98 + 3 * 2 ^ 13 + 0x25 * 2 ^ 15 + 50 * 2 ^ 21) = some (.wgcfg h0 3 0x25 50) ∧
    decodeSlot h0 .v (0x99 + 3 * 2 ^ 13 + 1 * 2 ^ 18 + 7 * 2 ^ 23 + 1 * 2 ^ 33 + 33 * 2 ^ 45 + 9 * 2 ^ 51 + 15 * 2 ^ 56) = some (.pq h0 3 1 7 1 33 9 false 15) ∧
    decodeSlot h0 .v (0x99 + 3 * 2 ^ 13 + 1 * 2 ^ 18 + 3 * 2 ^ 23 + 33 * 2 ^ 45 + 2 ^ 55 + 255 * 2 ^ 56) = some (.pq h0 3 1 3 0 33 0 true 255) := by
  decide +kernel
theorem test_words_plog :
    decodeSlot h0 .v (0x8A + 0x10 * 2 ^ 8 + 3 * 2 ^ 13 + 1 * 2 ^ 18 + 2 * 2 ^ 23 + 4 * 2 ^ 33 + 3 * 2 ^ 37 + 50 * 2 ^ 45) =
      some (.plog h0 .andn 3 1 2 4 false 50) ∧
    decodeSlot h0 .v (0x8A + 0xC * 2 ^ 8 + 3 * 2 ^ 13 + 1 * 2 ^ 18 + 2 * 2 ^ 23 + 4 * 2 ^ 33 + 3 * 2 ^ 37 + 50 * 2 ^ 45) = none := by
  decide +kernel
theorem test_word_end_bundle : decodeBundle h0 0 0x3F 0 0 = .ok { a := some (.end_ h0) } ∧ decodeBundle h0 0x11 0 0 0 = .error 0 ∧ decodeBundle h0 0x10 0 0 0 = .error 1 ∧
    decodeBundle h0 0 0x25 0 0 = .error 1 ∧ decodeBundle h0 0 0 0x44 0 = .error 2 ∧ decodeBundle h0 0 0 0 0x8B = .error 3 := by decide +kernel


/-! ### A drain through a layer block -/

/-- Engine 0 with an image of a layer and 512 channel records of zeros; ACM row 7 holds 9. -/
def sDrn : State :=
  { mem1 with images := [(3, { im1 with chrecs := 512 })]
              engines := [(0, { e0 with acm := [(7, { data := 9, tag := 0 })], vregs := [(5, 2 ^ 2048 - 1)] })] }

theorem test_drn : (issuer h0 sDrn).rowBusy 7 = false ∧ (started h0 sDrn).eccClean = true ∧ ((started h0 sDrn).drainBlk 0 0).tfmt = fmtCode .int4 ∧
    ((issuer h0 sDrn).acmRow 7).outs = 256 ∧ 0 + 256 ≤ ((started h0 sDrn).layerSecD 0).2.2 ∧ (issuer h0 sDrn).stores = [] := by decide +kernel

/-! ### A context's parameter block, a stripe's rows -/

theorem test_param : (sIpp {} { state := 1, pseq := 1, pub := [⟨0, 0⟩] } { state := 1 }).piecesCheck .gallery false false (cutPhys 3 mediaBase 40960) =
      (none, sIpp {} { state := 1, pseq := 1, pub := [⟨0, 0⟩] } { state := 1 }) ∧
    ((sIpp {} { state := 1, pseq := 1, pub := [⟨0, 0⟩] } { state := 1 }).source (ippPrimary 0 4)).pending = false := by
  exact ⟨rfl, by decide +kernel⟩
theorem test_stripe_rows : (sStripe.ipp 0).cur = some 4 ∧ mfind (sStripe.ipp 0).row 4 = some 0 ∧ (mfind (sStripe.ipp 0).out 4).isSome = true ∧
    (mfind (sStripe.ring 9).cons (sStripe.inPort 0 4)).isSome = true ∧ sStripe.eccClean = true := by decide +kernel


/-! ### Further cases of the statements on engines, commands and synchronisation -/

/-- With nothing owed the row does nothing. -/
theorem test_drain_nothing : exec (.resultWrite 0) (sE eD) = .next (sE eD) ∧ exec (.ownStorePerformed 0) (sE eD) = .next (sE eD) ∧
    exec (.acmRowWrite 0) (sE eD) = .next (sE eD) ∧ exec (.rldReply 0 3) (sE { eD with pend := [⟨8, 13, .sreg 4, allS, 7, none, none, true⟩] }) = .next (sE { eD with pend := [⟨8, 13, .sreg 4, allS, 7, none, none, true⟩] }) :=
  ⟨rfl, rfl, rfl, rfl⟩
theorem test_drain_least : least (({ eD with pend := [⟨8, 15, .sreg 4, allS, 7, none, none, true⟩, ⟨8, 13, .sreg 5, allS, 7, none, none, true⟩] } : Engine).pend.map (·.due)) = some 13 ∧
    ({ eD with rows := [row1] } : Engine).nextRow = some 12 ∧
    least (({ eD with stores := [⟨8, 14, 0, 0x40, [1]⟩] } : Engine).stores.map (·.due)) = some 14 := by decide +kernel
theorem test_bank_aged : nx (exec (.bankGrant 0 [⟨.stationary, 5⟩, ⟨.remote 16, 453⟩]) (sE e0)) (fun t => (t.eng 0).stBank == 1) = true ∧
    nx (exec (.bankGrant 0 [⟨.stationary, 5⟩, ⟨.remote 15, 453⟩]) (sE e0)) (fun t => (t.eng 0).stBank == 0) = true ∧
    nx (exec (.bankGrant 0 [⟨.stationary, 5⟩, ⟨.streaming, 6⟩]) (sE e0)) (fun t => (t.eng 0).stBank == 0) = true := by decide +kernel

/-- The last part of two ends while the other has ended ST_OK; the engine owes nothing. -/
theorem test_part_last : (eE ⟨0, 0, 9, 1, 5⟩ { task1 with id := ⟨0, 7, some 0⟩ }).quiet ∧
    nx (exec (.partEnd 0) { sE (eE ⟨0, 0, 9, 1, 5⟩ { task1 with id := ⟨0, 7, some 0⟩ }) with
      cmds := [{ cmd 7 .running [(0, 4), (1, 2)] with parts := [⟨0, none⟩, ⟨1, some ⟨task1, ⟨0, 0, 0, 0, 0⟩, false, false, false, 0⟩⟩] }] }) (fun t =>
        t.commitQ.map (fun r => (r.status, r.sub)) == [(0, 0)] && t.cmds == [] && (t.eng 0).run == .idle) = true := by
  unfold Engine.quiet; decide +kernel
theorem test_kick_empty : nx (exec (.kick 1) { sK 5 with sqs := [(1, { dev := 3 })] }) (fun t => (t.sq 1).needKick == false && (t.sq 1).left == 0) = true ∧
    (sK 0).ready = true ∧ (sK 0).fatal = false ∧ (sK 0).standalone = false ∧ (sK 0).eccClean = true ∧ (sK 0).hostOk ((sK 0).sqBell 1 + 8) 8 = true := by
  decide +kernel
theorem test_young_record : exec (.completionWrite 3) { sK 0 with commitQ := [rec1] } = .next { sK 0 with commitQ := [rec1] } := rfl
theorem test_completion_msix : nx (exec (.completionWrite 2) { (((sK 0).rset (.cqCfg 2) 0x80012009).rset (.msixCtl 9) 0) with
      commitQ := [rec1], cqs := [(2, { dev := 9, reserved := 1 })], pcie := { cfg := [(1, 6), (0x2C, 0x80000000)], perst := false, width := 8 } }) (fun t =>
      t.irqs == [.msix 9] && (t.cq 2).since == 0 && t.commitQ == []) = true := by decide +kernel

/-- A forced removal whose aborted command has its record still to be written, and after it. -/
theorem test_pmt_force_waits : (sM (some (.force 5 [(1, 7)]))).recorded [(1, 7)] = true ∧
    ({ sM (some (.force 5 [(1, 7)])) with commitQ := [{ rec1 with key := 7 }] } : State).recorded [(1, 7)] = false ∧
    exec .pmtOpComplete { sM (some (.force 5 [(1, 7)])) with commitQ := [{ rec1 with key := 7 }] } =
      .next { sM (some (.force 5 [(1, 7)])) with commitQ := [{ rec1 with key := 7 }] } :=
  ⟨by decide +kernel, by decide +kernel, rfl⟩
theorem test_w2_write : nx (exec (.window2Access 0x10004 (.write [7, 8])) sW2) (fun t => t.bytes 0x200004 3 == [7, 8, 0] && t.resp == {}) = true := by
  decide +kernel
theorem test_port_none : (sI.portFence 3) = none ∧ nx (exec (.fencePortAttr .gallery 3 1) sI) (fun t => t.fget (.fencePortAttrR 3) 63 63 == 1) = true := by
  decide +kernel
theorem test_range_busy : exec (.fenceCtxRange .gallery 1 (10 * 2 ^ 32 + 300)) { sI with regs := (sI.fset (.ctxState 1) 1 0 1).regs } = .next { sI with regs := (sI.fset (.ctxState 1) 1 0 1).regs } ∧
    nx (exec (.fenceCtxRange .gallery 1 (2 ^ 63)) { sI with regs := ((sI.fset (.ctxState 1) 1 0 1).fset (.fenceCtxRangeR 1) 63 63 1).regs }) (fun t =>
      t.fget (.fenceCtxRangeR 1) 63 63 == 0) = true :=
  ⟨rfl, by decide +kernel⟩
theorem test_no_wait : exec (.waitDeadline ⟨0, 7, none⟩) sI = .next sI ∧ exec (.deadlockProbeRequest ⟨0, 7, none⟩) sI = .next sI ∧
    exec .deadlockProbe sI = .next sI ∧ exec .deadlockVerdict sI = .next sI :=
  ⟨rfl, rfl, rfl, rfl⟩
theorem test_verdict_satisfied : nx (exec .deadlockVerdict { sF { e0 with run := .waitFence } 6 with
      waits := [wait1 .fwait none], probe := { busy := true, verdict := some (wait1 .fwait none) } }) (fun t =>
      t.probe.busy == false && t.waits == [] && t.rget .fenceDropped == 1 && t.commitQ == []) = true := by decide +kernel

/-- Channel 3 from the host to the application cores, which are off or held in reset. -/
def sMh (rst : Nat) : State :=
  { ((sMb []).rset (.mbxCfg 3) (2 ^ 63 + 1 * 2 ^ 56 + 2 * 2 ^ 52)).rset .hclRst rst with pmc := { pdHc := false } }

theorem test_push_hc : (sMh 0).mbxReceiver 3 = some .hc ∧ nx (exec (.mbxPush .gallery .host 3 9) (sMh 0)) (fun t => t.slots 3 == [9] && t.pmc.mail) = true ∧
    (sMh 255).epReset .hc = true ∧ nx (exec (.mbxPush .gallery .host 3 9) (sMh 255)) (fun t => t.slots 3 == [] && t.rget (.mbxLost 3) == 1 &&
      t.fget (.mbxStat 3) 3 3 == 1) = true := by decide +kernel

/-! ### Resets, clocks and power -/

theorem test_lock_held : exec .rootpllLock { State.reset with held := true } = .next { State.reset with held := true } ∧
    exec .serdesPllLock { State.reset with held := true } = .next { State.reset with held := true } ∧
    exec (.bootChain ⟨[], none, [], false⟩) { State.reset with held := true } = .next { State.reset with held := true } :=
  ⟨rfl, rfl, rfl⟩
theorem test_boot_unread : nx (exec (.bootChain ⟨[], none, [], true⟩) { State.reset with held := false, rootLock := true }) (fun t =>
    t.stage == (1, 0, true) && t.ready == false && t.sec.bootErr == 5 && t.mem == []) = true := by decide +kernel
theorem test_dip_orders : nx (exec .dipEpisodeEnd { State.reset with clock := { ns := 2000000 }, pmc := { hold := true, calm := some 0, order := [true, false] } }) (fun t =>
    t.pmc.releasing && t.pmc.hold == false && t.rget .pmcEvhead == 0) = true := by decide +kernel
theorem test_media_off : (State.reset.fset (.pmcNePerf 0) 27 27 1).mediaIdle = true ∧
    nx (exec (.powerDomainOff .media) { State.reset.fset (.pmcNePerf 0) 27 27 1 with sources := [(3, { frames := 7 })] }) (fun t => t.sources == []) = true := by
  decide +kernel
theorem test_domain_mail : nx (exec (.powerDomainOn (.hc 0)) { State.reset with pmc := { pdHc := false, mail := true } }) (fun t => t.pmc.pdHc && !t.pmc.mail) = true ∧
    nx (exec (.powerDomainOn .media) { State.reset with pmc := { pdMedia := false, mediaWake := [4] }, mem := [(mediaBase, 5)] }) (fun t =>
      t.byte mediaBase == 0 && t.pmc.pdMedia) = true := by decide +kernel
theorem test_sleep_thermal : ({ State.reset.fset .pmcThermCfg 7 0 125 with pmc := { tlimit := 241 } } : State).setTemps 0 [1000] |>.nextTlimit |> (· = 240) := by
  decide +kernel


/-! ### Further cases of the statements on streams, memory, cameras, time and security -/

theorem test_copy_rows : (sL [] e0).xlatRange 1 0x10000 3 false = .ok [(0x200000, 3)] ∧ (sL [] e0).xlatRange 1 0x10104 3 true = .ok [(0x200104, 3)] ∧
    (sL [] e0).piecesCheck .gallery false false [(0x200000, 3)] = (none, sL [] e0) ∧ (sL [] e0).piecesCheck .gallery false true [(0x200104, 3)] = (none, sL [] e0) ∧
    (sL [] e0).eccClean = true ∧ (sL [] e0).linkDown 0x200104 = false := ⟨rfl, rfl, rfl, rfl, by decide +kernel, by decide +kernel⟩

/-- An entry with a read of two bytes in flight whose descriptor signals fence 105. -/
theorem test_fetch_signal : nx (exec (.fetchReadComplete 0 2) (sL [] { e0 with fqs := [(2, fqL none [⟨.filling, [9], [(0x10000, 2)], 3, 0, 0, 0, some (105, 8), 0, [], 0⟩])] }))
      (fun t => (t.fence 105).val == 8 && ((t.eng 0).fq 2).ents.map (fun (e : FqEnt) => e.st) == [.ready]) = true ∧
    nx (exec (.fetchReadComplete 0 2) (sL [] { e0 with fqs := [(2, fqL none [⟨.dropping, [9], [(0x10000, 2)], 3, 0, 0, 0, none, 0, [], 0⟩])] }))
      (fun t => ((t.eng 0).fq 2).ents == [] && ((t.eng 0).fq 2).ret == 1) = true := by decide +kernel
theorem test_fetch_failed_sig : nx (exec (.fetchReadComplete 0 2) (sL [] { e0 with
      fqs := [(2, fqL none [⟨.filling, [], [(0x90000, 2)], 2, 0, 0, 0, none, 0, [], 4⟩, ⟨.filling, [], [(0x10000, 2)], 2, 0, 0, 0, some (105, 8), 0, [], 4⟩])] }))
      (fun t => ((t.eng 0).fq 2).ents.map (fun (e : FqEnt) => (e.st, e.sig)) == [(.failed, none), (.filling, none)]) = true := by decide +kernel
theorem test_fetch_idle : (({ e0 with fqs := [(2, fqL none [])] } : Engine).canBegin 2) = false ∧
    exec (.fetchReadComplete 0 2) (sL [] { e0 with fqs := [(2, fqL none [])] }) = .next (sL [] { e0 with fqs := [(2, fqL none [])] }) :=
  ⟨by decide +kernel, rfl⟩
theorem test_remote_no_level : State.reset.mayAccess (.debug 1) = false ∧
    nx (exec (.remoteAccess (.debug 1) 0 0x200004 (.read 2)) State.reset) (fun t => t.resp.status == 0x20) = true := by decide +kernel

/-- DDR5 line `lineSix` stands in the first way of its set of the SLC; its word 2 has a correctable error. -/
def lineSix : Nat := ddrBase / 128
def sSix : State :=
  { State.reset with
    gesso := { wbq := [(6, [lineSix * 4 + 2])] }
    slc := { lines := [(State.reset.slcSet lineSix * 16, ⟨lineSix, true, false, [0, 0, 1, 0]⟩)] } }

theorem test_writeback_slc : sSix.slcSlot lineSix = some (sSix.slcSet lineSix * 16) ∧
    (mfind sSix.slc.lines (sSix.slcSet lineSix * 16)).map (fun x => x.mark 2) = some 1 := by
  have h : sSix.slcSet lineSix = State.reset.slcSet lineSix := rfl
  have m : mfind sSix.slc.lines (State.reset.slcSet lineSix * 16) = some ⟨lineSix, true, false, [0, 0, 1, 0]⟩ := by
    simp [sSix, mfind]
  rw [h]
  exact ⟨by simp [State.slcSlot, State.slcWay, h, show List.range 16 = 0 :: List.range' 1 15 from rfl, m], by rw [m]; rfl⟩
theorem test_tracker : ((sDdr { state := 1 }).rset .gsPfCtl 1).fget .gsPfCtl 0 0 = 1 ∧
    ({ (sDdr { state := 1 }).rset .gsPfCtl 1 with slc := { trackers := [⟨ddrBase, 0, 1, 0⟩] } } : State).slcSlot (ddrBase / 128 + 1) = none := by
  refine ⟨by decide +kernel, ?_⟩
  simp [State.slcSlot, State.slcWay, sDdr, State.rset, State.fset, State.reset, mfind]
theorem test_bist_fail : nx (exec (.bistDone [⟨1, 5, 6⟩]) { State.reset.fset .gsBistStatus 16 16 1 with gesso := { bist := some 2 } }) (fun t =>
    t.fget .gsBistStatus 39 32 == 0 && t.fget .gsBistStatus 47 40 == 2 && t.fget .gsBistFail 47 32 == 1 && t.fget .gsBistFail 28 20 == 5) = true ∧
    nx (exec (.bistStart .gallery 4) { State.reset with ready := true, gesso := { bist := some 2 } }) (fun t => t.gesso.bist == some 2) = true ∧
    nx (exec (.bistStart .gallery 2) { State.reset with ready := true }) (fun t => (t.eng 1).curN == 32) = true := by decide +kernel
theorem test_train_bad : firstBadDimm [some dimm1, some dimm1, none, some dimm1] = some 2 ∧
    nx (exec (.trainingStart .studio [some dimm1, some dimm1, none, some dimm1]) { State.reset with ready := true }) (fun t =>
      (t.dmc 2).trained == 0 && (t.dmc 1).trained == 1 && t.ddr.step == 1) = true ∧
    rateCode (List.replicate 4 (some { dimm1 with speeds := [] })) 0 = none := by decide +kernel
theorem test_ingest_full : nx (exec (arrive none .realTime) (sDdr { state := 1, ingest := List.replicate 256 (rq none) })) (fun t =>
    (t.dmc 0).ingest.length == 256) = true ∧
    nx (exec (arrive none .pcie) (sDdr { state := 1, queues := [(0, List.replicate 16 (rq none))] })) (fun t => (t.dmc 0).input.length == 1) = true := by
  decide +kernel

theorem test_src_media_off : nx (exec (.srcEnable .gallery 3 0x80000064) { sCam { state := 1 } {} 0 with pmc := { pdMedia := false } }) (fun t =>
    t.srcEn 3 == false && t.pmc.mediaWake == [3]) = true ∧ srcReg 0 = none := by decide +kernel
theorem test_cxp_idle : exec (.cxpControlAck 1 5 77) State.reset = .next State.reset ∧ exec (.lfcLine 1) State.reset = .next State.reset ∧
    exec (.csiFrameEnd 2) State.reset = .next State.reset := ⟨rfl, rfl, rfl⟩
theorem test_stripe_state : exec (.ippStripe 0) State.reset = .next State.reset := rfl

theorem test_holdover_off : exec .holdoverEnter sT = .next sT := rfl
theorem test_action_bad : actOf 2 ([9] ++ List.replicate 31 0) = none ∧
    nx (exec (.actionFetch 2) (sAct.setBytes 0x200000 ([9] ++ List.replicate 31 0))) (fun t => t.line.queue == [] && t.rget (.taqDropped 2) == 1) = true := by
  decide +kernel
/-- R365, R370: what is due on a pin applies together, in the order of acceptance; the last leaves the level. -/
theorem test_edge_after : nx (exec (.pulseTrailingEdge 3) { sAct with line := { queue := [{ act1 with op := 1, seq := 3, when_ := 0 }], level := 8, edges := [(3, 5, 2)], seq := 4 } }) (fun t =>
      t.line.level == 8 && t.line.edges == [] && t.line.queue == []) = true ∧
    nx (exec .actionFire { sAct with line := { queue := [{ act1 with op := 1, seq := 1, when_ := 0 }], level := 8, edges := [(3, 5, 2)], seq := 4 } }) (fun t =>
      t.line.level == 0 && t.line.edges == []) = true := by decide +kernel
theorem test_can_off : exec (.canReceive ⟨1, false⟩ [5]) sT = .next sT ∧ exec (.busOffRecovery 1) sT = .next sT := ⟨rfl, rfl⟩

/-- A request of CP0 on channel 2 to the SEC, whose answers go over channel 3; the buffer lies at 2 MiB + 64 KiB × 0, in Studio memory or not. -/
def sGal (op : Nat) (studio : Bool) : State :=
  let s := (State.reset.rset (.mbxCfg 2) (2 ^ 63 + 3 * 2 ^ 56 + 6 * 2 ^ 52)).rset (.mbxCfg 3) (2 ^ 63 + 6 * 2 ^ 56 + 3 * 2 ^ 52)
  let s := if studio then (s.rset (.secRgnBase 5) 0x200000).rset (.secRgnCfg 5) 0x20000B else s
  { s with
    mbx := [(2, [BitVec.ofNat 64 (op + 5 * 2 ^ 16 + 0x20000 * 2 ^ 24)])], ready := true
    sec := { up := true, akValid := true, otp := [(8, 1), (20, 3)] } }

theorem test_sec_studio : (sGal 3 true).touchesStudio 0x200000 32 = true ∧
    nx (exec (.extend 2) (sGal 3 true)) (fun t => t.slots 3 == [BitVec.ofNat 64 (3 + 5 * 2 ^ 16 + 0x22 * 2 ^ 24)]) = true ∧
    (sGal 3 false).touchesStudio 0x200000 32 = false ∧
    nx (exec (.extend 2) (sGal 3 false)) (fun t => t.slots 3 == [BitVec.ofNat 64 (3 + 5 * 2 ^ 16)]) = true := by decide +kernel
theorem test_sec_unread : ({ sGal 3 false with ecc := [(0x200000 / 32, 2)] } : State).eccClean = false ∧
    (({ sGal 3 false with ecc := [(0x200000 / 32, 2)] } : State).secRead 0x200000 32).1 = none := by decide +kernel
theorem test_sec_ranges : fieldAt [1, 7] 0 1 < 2 ∧ nx (exec (.counterAdvance 16) (sSec 5 [1, 7] false)) (fun t => t.sec.otp == (sSec 5 [1, 7] false).sec.otp && t.slots 16 == []) = true ∧
    nx (exec (.keyWrite 16) (sSec 6 [7] false)) (fun t => t.slots 16 == [] && t.sec.keys == []) = true := by decide +kernel
theorem test_key_hold : nx (exec (.keyWrite 16) (sSec 6 [9] true)) (fun t => t.pmc.holdQ.map (·.kind) == [.key 9 (List.replicate 256 0)] && t.slots 17 == []) = true := by
  decide +kernel
theorem test_region_locked : exec (.regionDescriptorWrite .studio 3 true 0) (State.reset.rset (.secRgnCfg 3) 8) = .next (State.reset.rset (.secRgnCfg 3) 8) := rfl
theorem test_usb_given : ∀ n < 16, (sUsb 2 64).usbGiven n = (n == 2) := by decide +kernel
theorem test_usb_idle : exec .usbDetach State.reset = .next State.reset ∧ exec (.usbTransfer 2 [7] false) State.reset = .next State.reset := ⟨rfl, rfl⟩
theorem test_aperture_full : nx (exec (.apertureWrite .gallery 0x40 [5]) { (sRp.rset .pmcNvgate (0x80 * 2 ^ 32)) with
      pmc := { hold := true, held := List.replicate 64 ⟨.aperture 0x40 [5], none⟩ } }) (fun t => !t.resp.ok && t.pmc.held.length == 65) = true ∧
    nx (exec (.apertureWrite .gallery 0x40 [5]) { sRp with pcie := {} }) (fun t => t.pcie.rpWrites == []) = true := by decide +kernel
theorem test_inbound_message : (BitVec.ofNat 64 Config.interruptFile.toNat).toNat = Config.interruptFile.toNat := by simp
theorem test_host_no_link : exec (.registerWrite .gallery .host (BitVec.ofNat 44 (regsBase + Reg.gsScrubCtl.addr)) 32 77) State.reset = .next State.reset := rfl
theorem test_write_refused : (State.reset.rset .secBlkworld (2 ^ 41 - 1)).regOpen .gallery Reg.gsScrubCtl.addr true = false ∧
    nx (exec (.registerWrite .gallery .hc (BitVec.ofNat 44 (regsBase + Reg.gsScrubCtl.addr)) 32 1) (sHc.rset .secBlkworld (2 ^ 41 - 1))) (fun t => t.rget .secViol == 1) = true := by
  decide +kernel

/-- R388: a codec session whose enable waits for PD_MEDIA keeps the fields written, and EN reads 1 once the domain is powered. -/
theorem test_cdc_media_off : nx (exec (.powerDomainOn .media)
    (({ State.reset with pmc := { pdMedia := false } } : State).cdcCtlWrite 2 5 (2 ^ 31 + 9 * 2 ^ 22))) (fun t =>
      t.fget (.cdcCtl 2 5) 31 31 == 1 && t.fget (.cdcCtl 2 5) 26 22 == 9 && t.pmc.mediaWake.isEmpty) = true ∧
    (({ State.reset with pmc := { pdMedia := false } } : State).cdcCtlWrite 2 5 (2 ^ 31)).fget (.cdcCtl 2 5) 31 31 = 0 := by
  decide +kernel

/-- R343: the lines of a group's image whose format is discarded wait nowhere, and the header counts in SRC_ERR. -/
theorem test_cxp_alien : nx (exec (.cxpImageHeader 0 ⟨1, 2⟩ false)
    { State.reset with regs := (((State.reset.fset (.srcCtl 1 0) 31 31 1).fset (.cxpCamCfg 0) 31 31 1).fset (.srcCtl 2 0) 31 31 1).regs })
    (fun t => t.rget (.srcErr 1 0) == 1 && nx (exec (.cxpLine 0 [1, 2] false false) t) (fun u => (u.source 0x29).lines.isEmpty)) = true ∧
  nx (exec (.cxpLine 0 [1, 2] false false)
    { State.reset with regs := (((State.reset.fset (.srcCtl 1 0) 31 31 1).fset (.cxpCamCfg 0) 31 31 1).fset (.srcCtl 2 0) 31 31 1).regs })
    (fun u => (u.source 0x29).lines.length == 1) = true := by decide +kernel


/-! ### Signed bytes: keys for which the given signature, made of one number twice, holds -/

/-- A public key and, after it, a signature whose halves are both `v`. -/
def signed (x y v : Nat) : List Byte := beBytes 32 x ++ beBytes 32 y ++ beBytes 32 v ++ beBytes 32 v

/-- The responses for level 1 by the owner's key and for level 3 by the vendor's. -/
def respOne : List Byte := 1 :: 1 :: List.replicate 30 0 ++
  signed 0x2f03ee43c48e51263ea7f3af5dafadbdbcd0a79f36a10bf4babf20661d7db12a 0xaa1f6427875c013d9d81c35d07938dbc9f047744b8780eb7524aba311c9357d3
    0xb7cfa055bbbddd05272e5a76da87933bcf4abb3f1f06329ab067d024f9869a55
def respThree : List Byte := 3 :: 0 :: List.replicate 30 0 ++
  signed 0x62e15ff753dc35634fe193bfbae4eb159645df86a02aade0cf3803e040335732 0x92d922ce7613f81da41d014f68f5c5c5292dcd4cc8d61d45c1e1825a56fa176d
    0x8ba27749847eaa2bd2a9e0a1cd57122b5666a92b4e63d9790aa600fff17ea515

/-- The SEC is up; KEYHASH0, DBGHASH0 and DBGHASH1 are of those keys; the nonce 5 has been read. -/
def sKey (hold : Bool) : State :=
  { State.reset with
    held := false, rootLock := true, fuse := fuse1, pmc := { hold := hold }
    sec := { up := true, nonce := some 5, otp := [(1, 0x5eeaac543d8b160005bbf46eee063573b867da66604f00f340feac6b20eb82b6), (5, 0),
      (6, 0xee4544d2229cbb32c2ae2096d1c26255715c5af78e43cebae3e69f998bcede59),
      (7, 0x3447a2e67f9154dc01e2d8e0671cf3e61f350c9db1398760c67d6bc705bc499f), (8, 1), (9, 0), (10, 0), (74, 9)] } }

theorem test_debug_grant : nx (exec (.debugResponseGo respOne) (sKey true))
    (fun t => t.sec.dbgLvl == 1 && t.sec.fails == 0) = true := by decide +kernel
theorem test_debug_rma : (sKey false).lifecycle = 1 ∧
    nx (exec (.debugResponseGo respThree) (sKey false))
      (fun t => t.sec.dbgLvl == 3 && t.lifecycle == 2 && t.keyEntry 9 == List.replicate 256 0xFF) = true ∧
    nx (exec (.debugResponseGo respThree) (sKey true))
      (fun t => t.sec.dbgLvl == 0 && t.pmc.holdQ.length == 1 && t.debugBusy) = true := by decide +kernel

/-- A stage entry of a vendor manifest: four bytes at the given offset. -/
def stage1 (typ off : Nat) (b : List Byte) : List Byte := leBytes 4 typ ++ leBytes 4 4 ++ leBytes 8 off ++ sha256 b

/-- A slot with a vendor manifest, signed, and its three stages. -/
def slot1 : List Byte :=
  let h := [0x5A, 0x4B, 0x4D, 0x46] ++ leBytes 2 1 ++ [1, 3] ++ leBytes 4 464 ++ List.replicate 180 0 ++
    stage1 1 512 [0x61, 0x62, 0x63, 0x31] ++ stage1 2 516 [0x61, 0x62, 0x63, 0x32] ++ stage1 3 520 [0x61, 0x62, 0x63, 0x33]
  h ++ signed 0x1b890aa9f6b991ecb2c8bfa05d2e709366bcd40b270c4f367637c7b99674f1b1 0xafe0948c99163ca93b8671053e3b38994e9796fd7810a2b49539eb558799cd4c
      0x5173e0d9ad81b832c77c53b125aa8ffe7e04d2dbfc32eee3d2effcbb799ae13f ++ List.replicate 48 0 ++
    [0x61, 0x62, 0x63, 0x31, 0x61, 0x62, 0x63, 0x32, 0x61, 0x62, 0x63, 0x33]

/-- The device with it in slot A. -/
def sBoot : State := { sKey false with flash := (List.range 524).zip slot1, sec := { (sKey false).sec with up := false } }

theorem test_boot_slot : sBoot.namedSlot = 0 ∧ (match sBoot.bootIdentity.bootSlot 0 with
    | .ok p => p.2.owner.isNone && !(((p.1.bootGive 0 false p.2).trainStart (List.replicate 4 (some dimm1))).trainEnd none).ddr.failed
    | .error _ => false) = true := by decide +kernel
theorem test_boot : nx (exec (.bootChain ⟨List.replicate 4 (some dimm1), none, [], false⟩) sBoot) (fun t => t.ready && t.stage == (4, 10000, false) &&
    t.sec.up && t.sec.slot == 0 && t.fget .dmcCfg 31 31 == 1) = true := by decide +kernel
theorem test_image_ok : (sKey false).imageOk slot1 = true ∧ (sKey false).imageOk (slot1.set 523 0) = false := by decide +kernel


/-! ### Flash updates step by step, register accesses, decisions that give way, invariants -/

/-- An update of 16 bytes at 2 MiB + 256 of slice 0, of slot 1, by channel 16, after `d` steps. -/
def upd1 (d : Nat) : FlashUpd := { ch := 16, tag := 5, nowait := false, addr := 0x200100, size := 16, slot := 1, done := d }
def sUpd (d : Nat) (hold : Bool) : State :=
  { sSec 4 [] hold with sec := { up := true, upd := some (upd1 d) }, flash := [(2 ^ 25, 7)] }

theorem test_upd_steps : (upd1 0).sectors = 1 ∧ (upd1 0).pages = 1 ∧ (upd1 0).body = 3 ∧
    ((sUpd 1 false).updPage (upd1 1) 0).1 = some (List.replicate 16 0) ∧ ((sUpd 1 false).updPage (upd1 1) 0).2.sec.upd = some (upd1 1) := by
  decide +kernel
theorem test_upd_erase : nx (exec (.flashUpdate 16) (sUpd 0 true)) (fun t => t.pmc.holdQ == [⟨.flashErase (2 ^ 25), none⟩] &&
    t.sec.upd == some { upd1 0 with waits := true, heldOp := true } && nx (exec (.flashUpdate 16) t) (fun u => u.sec.upd == t.sec.upd)) = true := by
  decide +kernel
theorem test_upd_program : nx (exec (.flashUpdate 16) (sUpd 1 false)) (fun t => t.sec.upd == some (upd1 2) && t.flashRead (2 ^ 25) 2 == [0, 0]) = true ∧
    nx (exec (.flashUpdate 16) (sUpd 3 true)) (fun t => t.pmc.holdQ.length == 1) = true ∧
    nx (exec (.flashUpdate 16) (sUpd 4 true)) (fun t => t.pmc.holdQ.length == 1) = true := by decide +kernel
theorem test_upd_compare : (sUpd 2 false).flashRead (2 ^ 25) 16 ≠ List.replicate 16 0 ∧
    nx (exec (.flashUpdate 16) { sUpd 2 false with flash := (List.range 16).map fun i => (2 ^ 25 + i, 0) }) (fun t => t.sec.upd == some (upd1 3)) = true := by
  decide +kernel
theorem test_upd_end : (sUpd 5 false).answersTo 16 17 ∧
    nx (exec (.flashUpdate 16) (sUpd 5 false)) (fun t => t.sec.upd == none && t.rget .secUpdStat == 10000 &&
      t.slots 17 == [BitVec.ofNat 64 (4 + 5 * 2 ^ 16)]) = true ∧
    (sUpd 5 false).answerRoom 16 = true ∧ ({ sUpd 5 false with mbx := [(17, List.replicate 8 0)] } : State).answerRoom 16 = false := by
  unfold State.answersTo; decide +kernel

/-- A write of 32 bits by an application core. -/
def wr (r : Reg) (v : Nat) (s : State) : Host.Outcome State Fault Refusal :=
  exec (.registerWrite .gallery .hc (BitVec.ofNat 44 (regsBase + r.addr)) r.width (BitVec.ofNat 64 v)) s

theorem test_plain : Reg.plain .timeSrvThr = true ∧ Reg.ofAddr (Reg.timeSrvThr.addr) = some .timeSrvThr ∧
    (sHc.rset .timeSrvCtl (2 ^ 31)).allLocked .timeSrvThr = true ∧ sHc.allLocked .timeSrvThr = false ∧
    sHc.regOpen .gallery Reg.timeSrvThr.addr true = true ∧ sHc.hcRunning = true ∧ State.reset.hcRunning = false := by decide +kernel
theorem test_en_locks : nx (wr (.ethCfg 1) (2 ^ 31 + 5) (sHc.rset (.ethCfg 1) (2 ^ 31))) (fun t => t.rget (.ethCfg 1) == 2 ^ 31) = true ∧
    nx (wr (.usbEpCfg 2) (2 ^ 31 + 2 ^ 30 + 5) (sHc.rset (.usbEpCfg 2) (2 ^ 31 + 64))) (fun t => t.rget (.usbEpCfg 2) == 2 ^ 31 + 2 ^ 30 + 64) = true ∧
    nx (wr (.csiPortCfg 0) (2 ^ 31) sHc) (fun t => t.fget (.csiPortCfg 0) 31 31 == 1) = true := by decide +kernel
theorem test_counter_write : Reg.ofAddr (Reg.neCyc 2).addr = some (.neCyc 2) ∧ nx (wr (.neCyc 2) 9 sHc) (fun t => t.view (.neCyc 2) == 9) = true := by decide +kernel
theorem test_pmc_ranges : nx (exec (.registerWrite .studio .sec (BitVec.ofNat 44 (regsBase + Reg.pmcBoCfg.addr)) 32 (700 + 1600 * 2 ^ 16)) State.reset) (fun t =>
      t.fget .pmcBoCfg 15 0 == 700 && t.fget .pmcBoCfg 31 16 == 1700) = true ∧
    nx (exec (.registerWrite .studio .sec (BitVec.ofNat 44 (regsBase + Reg.pmcThermCfg.addr)) 32 (60 + 16 * 2 ^ 8)) State.reset) (fun t =>
      t.fget .pmcThermCfg 7 0 == 60 && t.fget .pmcThermCfg 15 8 == 3) = true := by decide +kernel

/-- An access of a register's bytes. -/
def acc (m : Master) (r : Reg) (a : Access) (s : State) : Host.Outcome State Fault Refusal :=
  exec (.remoteAccess m 0 (BitVec.ofNat 48 (regsBase + r.addr)) a) s

theorem test_reg_read : State.reset.mayAccess .sec = true ∧ State.reset.mayAccess .hcUser = false ∧
    nx (acc .sec .dmcScrub (.read 4) State.reset) (fun t => t.resp.data == leBytes 4 100000) = true ∧
    nx (acc .hcUser .dmcScrub (.read 4) State.reset) (fun t => t.resp.status == 0x20) = true ∧
    nx (acc .sec (.secMeas 2 0) (.read 8) State.reset) (fun t => mfind t.wide (Reg.secMeas 2 1).addr == some 0 &&
      nx (acc .sec (.secMeas 2 1) (.read 8) t) (fun u => mfind u.wide (Reg.secMeas 2 1).addr == none)) = true := by decide +kernel
theorem test_reg_refused : nx (acc .hcUser .gsScrubCtl (.read 4) (sHc.rset .secBlkworld (2 ^ 41 - 1))) (fun t => t.resp.data == leBytes 4 0 && t.rget .secViol == 1) = true := by
  decide +kernel
theorem test_reg_credit : nx (acc .pmc (.fqCrgrant 1 2) (.read 8) { State.reset with engines := [(1, { fqs := [(2, { granted := 9, ret := 4 })] })] }) (fun t =>
    t.resp.data == leBytes 8 9 && t.view (.fqCrout 1 2) == 5) = true ∧
    nx (acc .pmc (.fqCrret 1 2) (.read 8) { State.reset with engines := [(1, { fqs := [(2, { granted := 9, ret := 4, lret := some 3 })] })] }) (fun t =>
    t.resp.data == leBytes 8 3 && t.view (.fqCrret 1 2) == 4) = true := by decide +kernel
theorem test_reg_write : nx (acc .sec .dmcScrub (.write (leBytes 4 77)) State.reset) (fun t => t.rget .dmcScrub == 77 && t.resp.ok) = true := by
  decide +kernel

/-- R175: a stop request, and a late fault, met at a decision. -/
theorem test_gives_way : nx (exec (.pentimentoDecision h0) { sD ⟨100, 1, 0, 0⟩ with engines := [(0, { e0 with ctl := { pc := 4 }, stop := true, mons := [(0, ⟨100, 1, 0, 0⟩)] })] }) (fun t =>
      (t.eng 0).run == .ending && (t.eng 0).endRec.status == 2) = true ∧
    nx (exec (.pentimentoDecision h0) { sD ⟨100, 1, 0, 0⟩ with engines := [(0, { e0 with ctl := { pc := 4 }, late := some ⟨0x22, 1, 3, 2, 0⟩, mons := [(0, ⟨100, 1, 0, 0⟩)] })] }) (fun t =>
      (t.eng 0).run == .ending && (t.eng 0).flt == ⟨0x22, 1, 3, 2, 0⟩) = true := by decide +kernel

/-- A queue with one entry, a ring with one published slot, and an idle device meet the invariants. -/
theorem test_credits : ({ State.reset with held := true } : State).creditsOk ∧ step { State.reset with held := true } = .next { State.reset with held := true } := by
  refine ⟨⟨fun e q => ?_, fun e p q c h => ?_⟩, rfl⟩
  · simp [State.eng, Engine.fq, mget, State.reset]
  · simp [mfind, State.reset] at h
theorem test_ring_slots : ({ pub := [⟨0, 0⟩, ⟨1, 1⟩], pseq := 2, prod := some ⟨2, .software⟩ } : Ring).slotsOk := by
  unfold Ring.slotsOk; decide +kernel
theorem test_power_sum : ({ State.reset with held := true } : State).powerOk := by
  refine ⟨?_, fun e _ => ⟨?_, ?_⟩⟩
  · have h : ({ State.reset with held := true } : State).fixedPart ≤ 128 := Nat.min_le_left _ _
    have g : ({ State.reset with held := true } : State).allocSum = 0 := by decide +kernel
    have k : ({ State.reset with held := true } : State).pmc.effcap = 800 := rfl
    omega
  · intro _; simp [State.eng, mget, State.reset]
  · intro a h; simp [State.eng, mget, State.reset] at h

theorem test_inject_used : exec (.dmcEccInjArm .studio 1 2) (sDdr {}) = .next (sDdr {}) := rfl
theorem test_refresh_half : nx (exec (.sameBankRefresh 0 0) { sDdr { state := 1, owed := [(0, 2)], refAt := [(0, 0)], refLast := [(0, 100)] } with clock := { ticks := 9 } }) (fun t =>
    t.ddr == (sDdr { state := 1, owed := [(0, 2)], refAt := [(0, 0)], refLast := [(0, 100)] }).ddr) = true := by decide +kernel

end Sys2Proof.Tests
end

/-! SUPPORT. Bit ranges, fields by access type, and the register index: what a write of a register leaves in its fields, and where
registers stand. -/

namespace Sys2Proof

/-! ### Bit ranges -/

theorem testBit_bits (x h l k : Nat) : (bits x h l).testBit k = (decide (k < h + 1 - l) && x.testBit (l + k)) := by
  simp [bits, Nat.testBit_mod_two_pow, Nat.testBit_shiftRight]

theorem testBit_setBits {h l : Nat} (hl : l ≤ h) (x v k : Nat) :
    (setBits x h l v).testBit k = if l ≤ k ∧ k ≤ h then v.testBit (k - l) else x.testBit k := by
  have inner : 2 ^ l * (v % 2 ^ (h + 1 - l)) + x % 2 ^ l < 2 ^ (h + 1) := by
    have e : 2 ^ (h + 1) = 2 ^ l * 2 ^ (h + 1 - l) := by rw [← Nat.pow_add]; congr 1; omega
    have hv : v % 2 ^ (h + 1 - l) + 1 ≤ 2 ^ (h + 1 - l) := Nat.mod_lt _ (Nat.two_pow_pos _)
    have hx : x % 2 ^ l < 2 ^ l := Nat.mod_lt _ (Nat.two_pow_pos _)
    have := Nat.mul_le_mul_left (2 ^ l) hv
    rw [Nat.mul_add] at this
    omega
  have form : setBits x h l v =
      2 ^ (h + 1) * (x >>> (h + 1)) + (2 ^ l * (v % 2 ^ (h + 1 - l)) + x % 2 ^ l) := by
    unfold setBits; ring
  rw [form, Nat.testBit_two_pow_mul_add _ inner, Nat.testBit_two_pow_mul_add _ (Nat.mod_lt _ (Nat.two_pow_pos l))]
  simp only [Nat.testBit_mod_two_pow, Nat.testBit_shiftRight]
  by_cases below : k < l
  · have : k < h + 1 := by omega
    simp [below, this, Nat.not_le.2 below]
  · by_cases above : k ≤ h
    · have h1 : k < h + 1 := by omega
      have h2 : k - l < h + 1 - l := by omega
      simp [below, above, h1, h2, Nat.not_lt.1 below]
    · have h1 : ¬ k < h + 1 := by omega
      have h2 : h + 1 + (k - (h + 1)) = k := by omega
      simp [above, h1, h2]

theorem bits_lt (x h l : Nat) : bits x h l < 2 ^ (h + 1 - l) := Nat.mod_lt _ (Nat.two_pow_pos _)

theorem bits_setBits_same {h l : Nat} (hl : l ≤ h) (x v : Nat) : bits (setBits x h l v) h l = v % 2 ^ (h + 1 - l) := by
  apply Nat.eq_of_testBit_eq
  intro k
  rw [testBit_bits, testBit_setBits hl, Nat.testBit_mod_two_pow]
  by_cases hk : k < h + 1 - l
  · have : l ≤ l + k ∧ l + k ≤ h := by omega
    simp [hk, this]
  · simp [hk]

theorem bits_setBits_apart {h l h' l' : Nat} (hl : l ≤ h) (ha : h < l' ∨ h' < l) (x v : Nat) :
    bits (setBits x h l v) h' l' = bits x h' l' := by
  apply Nat.eq_of_testBit_eq
  intro k
  rw [testBit_bits, testBit_bits, testBit_setBits hl]
  by_cases hk : k < h' + 1 - l'
  · have : ¬ (l ≤ l' + k ∧ l' + k ≤ h) := by omega
    simp [this]
  · simp [hk]

theorem bits_mod {n h : Nat} (hn : h < n) (x l : Nat) : bits (x % 2 ^ n) h l = bits x h l := by
  apply Nat.eq_of_testBit_eq
  intro k
  rw [testBit_bits, testBit_bits, Nat.testBit_mod_two_pow]
  by_cases hk : k < h + 1 - l
  · have : l + k < n := by omega
    simp [this]
  · simp [hk]

end Sys2Proof

namespace Sys2Proof.Machine

open Sys2Proof

/-! ### Fields by access type (R8) -/

/-- What a field holds after a write of `v` over `old` that takes it. -/
def Field.taken (f : Field) (old v : Nat) : Nat :=
  match f.typ with
  | .rw => bits v f.hi f.lo
  | .w1s => bits old f.hi f.lo ||| bits v f.hi f.lo
  | .w1c => bits old f.hi f.lo &&& (2 ^ (f.hi + 1 - f.lo) - 1 - bits v f.hi f.lo)
  | .ro | .wo => bits old f.hi f.lo

/-- Two fields share no bit. -/
abbrev Field.apart (f g : Field) : Prop := f.hi < g.lo ∨ g.hi < f.lo

theorem bits_fieldWrite_same {f : Field} (hf : f.lo ≤ f.hi) (old v : Nat) :
    bits (f.write old v) f.hi f.lo = f.taken old v := by
  obtain ⟨hi, lo, typ, reset⟩ := f
  have lt := fun x => bits_lt x hi lo
  have set := fun x => bits_setBits_same (h := hi) (l := lo) hf old x
  cases typ with
  | rw => exact (set _).trans (Nat.mod_eq_of_lt (lt v))
  | w1s => exact (set _).trans (Nat.mod_eq_of_lt (Nat.or_lt_two_pow (lt old) (lt v)))
  | w1c => exact (set _).trans (Nat.mod_eq_of_lt (Nat.lt_of_le_of_lt Nat.and_le_left (lt old)))
  | ro => rfl
  | wo => rfl

theorem bits_fieldWrite_apart {f : Field} (hf : f.lo ≤ f.hi) {h l : Nat} (ha : f.hi < l ∨ h < f.lo) (old v : Nat) :
    bits (f.write old v) h l = bits old h l := by
  obtain ⟨hi, lo, typ, reset⟩ := f
  cases typ with
  | rw => exact bits_setBits_apart hf ha _ _
  | w1s => exact bits_setBits_apart hf ha _ _
  | w1c => exact bits_setBits_apart hf ha _ _
  | ro => rfl
  | wo => rfl

theorem Field.taken_congr {f : Field} {old old' : Nat} (h : bits old f.hi f.lo = bits old' f.hi f.lo) (v : Nat) :
    f.taken old v = f.taken old' v := by
  unfold Field.taken; rw [h]

/-- Bits that share none with the fields of a list stay as they are. -/
theorem bits_writeFields_apart {fs : List Field} {free : Nat → Bool} {h l : Nat} (hfs : ∀ f ∈ fs, f.lo ≤ f.hi)
    (ha : ∀ f ∈ fs, free f.lo = true → f.hi < l ∨ h < f.lo) (old v : Nat) :
    bits (writeFields old v free fs) h l = bits old h l := by
  induction fs generalizing old with
  | nil => rfl
  | cons f t ih =>
    rw [writeFields, ih (fun g hg => hfs g (List.mem_cons_of_mem _ hg)) (fun g hg => ha g (List.mem_cons_of_mem _ hg))]
    split
    · exact bits_fieldWrite_apart (hfs f List.mem_cons_self) (ha f List.mem_cons_self ‹_›) old v
    · rfl

/-- Each field of a list takes the write by its access type where it is free. -/
theorem bits_writeFields_mem {fs : List Field} (hp : fs.Pairwise Field.apart) (hfs : ∀ f ∈ fs, f.lo ≤ f.hi)
    {free : Nat → Bool} {f : Field} (hf : f ∈ fs) (old v : Nat) :
    bits (writeFields old v free fs) f.hi f.lo = if free f.lo then f.taken old v else bits old f.hi f.lo := by
  induction fs generalizing old with
  | nil => cases hf
  | cons g t ih =>
    obtain ⟨hg, ht⟩ := List.pairwise_cons.1 hp
    have hg' := hfs g List.mem_cons_self
    have ht' : ∀ f ∈ t, f.lo ≤ f.hi := fun f hf => hfs f (List.mem_cons_of_mem _ hf)
    rw [writeFields]
    rcases List.mem_cons.1 hf with rfl | hf
    · rw [bits_writeFields_apart ht' fun q hq _ => (hg q hq).symm]
      split
      · exact bits_fieldWrite_same hg' old v
      · rfl
    · have same : bits (if free g.lo then g.write old v else old) f.hi f.lo = bits old f.hi f.lo := by
        split
        · exact bits_fieldWrite_apart hg' (hg f hf) old v
        · rfl
      rw [ih ht ht' hf, Field.taken_congr same, same]

/-- The fields of a register lie in its width and share no bits. -/
abbrev Reg.Tidy (r : Reg) : Prop :=
  r.fields.Pairwise Field.apart ∧ ∀ f ∈ r.fields, f.lo ≤ f.hi ∧ f.hi < r.width

theorem Reg.tidy (r : Reg) : r.Tidy := by
  cases r <;> exact of_decide_eq_true rfl

theorem Reg.width_cases (r : Reg) : r.width = 32 ∨ r.width = 64 := by
  cases r <;> simp only [Reg.width] <;> decide

/-! ### Set-up registers -/

theorem State.onlyRegs_refl (s : State) (l : List Reg) : s.onlyRegs s l := ⟨rfl, fun _ _ => rfl⟩

theorem State.onlyRegs_trans {s t u : State} {l : List Reg} (h : s.onlyRegs t l) (g : t.onlyRegs u l) : s.onlyRegs u l := by
  obtain ⟨he, hr⟩ := h
  obtain ⟨ge, gr⟩ := g
  exact ⟨by rw [ge, he], fun q hq => (gr q hq).trans (hr q hq)⟩

theorem State.onlyRegs_rset {r : Reg} {l : List Reg} (hr : r ∈ l) (s : State) (v : Nat) : s.onlyRegs (s.rset r v) l :=
  ⟨rfl, fun _ hq => s.rget_rset_other (hq r hr) v⟩

theorem State.onlyRegs_fset {r : Reg} {l : List Reg} (hr : r ∈ l) (s : State) (h k v : Nat) :
    s.onlyRegs (s.fset r h k v) l := State.onlyRegs_rset hr s _

theorem State.onlyRegs_genWrite {r : Reg} {l : List Reg} (hr : r ∈ l) (s : State) (v : Nat) (free : Nat → Bool) :
    s.onlyRegs (s.genWrite r v free) l := State.onlyRegs_rset hr s _

theorem State.fget_fset_same (s : State) (r : Reg) {h l : Nat} (hl : l ≤ h) (hh : h < 64) (v : Nat) :
    (s.fset r h l v).fget r h l = v % 2 ^ (h + 1 - l) := by
  rw [State.fget, State.fset_eq, State.rget_rset_same, bits_mod hh, bits_setBits_same hl]

theorem State.fget_fset_apart (s : State) (r : Reg) {h l h' l' : Nat} (hl : l ≤ h) (hh : h' < 64) (ha : h < l' ∨ h' < l)
    (v : Nat) : (s.fset r h l v).fget r h' l' = s.fget r h' l' := by
  rw [State.fget, State.fset_eq, State.rget_rset_same, bits_mod hh, bits_setBits_apart hl ha]; rfl

theorem Reg.hi_lt (r : Reg) {f : Field} (hf : f ∈ r.fields) : f.hi < 64 := by
  have := (r.tidy.2 f hf).2
  rcases r.width_cases with h | h <;> omega

/-- A write by access types gives each field what it takes. -/
theorem State.fget_genWrite_mem (s : State) (r : Reg) (v : Nat) (free : Nat → Bool) {f : Field} (hf : f ∈ r.fields) :
    (s.genWrite r v free).fget r f.hi f.lo = if free f.lo then f.taken (s.rget r) v else s.fget r f.hi f.lo := by
  obtain ⟨hp, hw⟩ := r.tidy
  rw [State.fget, State.genWrite, State.rget_rset_same, bits_mod (r.hi_lt hf),
    bits_writeFields_mem hp (fun g hg => (hw g hg).1) hf]
  rfl

/-- A write by access types leaves bits of no free field as they are. -/
theorem State.fget_genWrite_apart (s : State) (r : Reg) (v : Nat) {free : Nat → Bool} {h l : Nat} (hh : h < 64)
    (ha : ∀ f ∈ r.fields, free f.lo = true → f.hi < l ∨ h < f.lo) :
    (s.genWrite r v free).fget r h l = s.fget r h l := by
  rw [State.fget, State.genWrite, State.rget_rset_same, bits_mod hh,
    bits_writeFields_apart (fun g hg => (r.tidy.2 g hg).1) ha]
  rfl

/-- A field takes no bit of a write above the register's width. -/
theorem Field.taken_mod {r : Reg} {f : Field} (hf : f ∈ r.fields) (old v : Nat) :
    f.taken old (v % 2 ^ r.width) = f.taken old v := by
  unfold Field.taken; rw [bits_mod (r.tidy.2 f hf).2]

/-! ### Refused accesses (R405) -/

/-- A refused access changes the count and the record only. -/
theorem State.onlyRegs_violation (s : State) (off : Nat) (wr : Bool) :
    s.onlyRegs (s.violation off wr) [.secViol, .secVlog] := by
  have count : s.onlyRegs (s.rinc .secViol 64 1) [.secViol, .secVlog] := State.onlyRegs_rset (by simp) s _
  unfold State.violation
  dsimp only
  split
  · exact count
  · exact State.onlyRegs_trans count (State.onlyRegs_rset (by simp) _ _)

theorem State.rget_secViol_violation (s : State) (off : Nat) (wr : Bool) :
    (s.violation off wr).rget .secViol = (s.rget .secViol + 1) % 2 ^ 64 := by
  have count : (s.rinc .secViol 64 1).rget .secViol = (s.rget .secViol + 1) % 2 ^ 64 := by
    rw [State.rinc_eq, State.rget_rset_same, Nat.mod_mod]
  unfold State.violation
  dsimp only
  split
  · exact count
  · rw [State.rget_rset_other _ (by decide), count]

theorem State.rget_secVlog_violation (s : State) (off : Nat) :
    (s.violation off true).rget .secVlog = if s.fget .secVlog 63 63 = 1 then s.rget .secVlog
      else 2 ^ 63 + off / 0x100000 % 128 * 2 ^ 56 + 2 ^ 55 + off % 0x100000 := by
  have kept : (s.rinc .secViol 64 1).rget .secVlog = s.rget .secVlog := by
    rw [State.rinc_eq, State.rget_rset_other _ (by decide)]
  have valid : (s.rinc .secViol 64 1).fget .secVlog 63 63 = s.fget .secVlog 63 63 := by
    rw [State.fget, State.fget, kept]
  unfold State.violation
  dsimp only
  rw [valid]
  split
  · exact kept
  · rw [State.rget_rset_same, if_pos rfl]
    exact Nat.mod_eq_of_lt (by omega)

theorem State.regOp_refused {s : State} {w : World} {off : Nat} {wr : Bool} (h : s.regOpen w off wr = false)
    (f : State → State) : s.regOp w off wr f = s.violation off wr := by
  simp [State.regOp, h]

theorem State.regOp_admitted {s : State} {w : World} {r : Reg} {wr : Bool} (h : s.admits w r wr) (f : State → State) :
    s.regOp w r.addr wr f = f s := by
  obtain ⟨ho, hw⟩ := h
  unfold State.regOp
  rw [ho, if_neg (by simp), if_neg]
  rintro ⟨wait, notReady, -⟩
  rw [hw wait] at notReady
  cases notReady

theorem Reg.aligned_access {r : Reg} {off : Nat} (ha : off % (r.width / 8) = 0) :
    ¬ ((r.width ≠ 32 ∧ r.width ≠ 64) ∨ off % (r.width / 8) ≠ 0) := by
  rintro (⟨h32, h64⟩ | h)
  · exact r.width_cases.elim h32 h64
  · exact h ha

/-! ### The register index (R18, R447) -/

theorem regsOfBlock_unused {b : Nat} (h : 0x29 ≤ b) (a : Nat) : regsOfBlock b a = [] := by
  unfold regsOfBlock
  split
  all_goals try omega
  rfl

/-- No register stands above the engines' blocks. -/
theorem Reg.ofAddr_lt {a : Nat} {r : Reg} (h : Reg.ofAddr a = some r) : a < 0x2900000 := by
  by_contra hl
  rw [Reg.ofAddr, regsOfBlock_unused (by omega)] at h
  cases h

theorem firstSome_mem {l : List (Option Reg)} {r : Reg} (h : firstSome l = some r) : some r ∈ l := by
  induction l with
  | nil => cases h
  | cons o t ih =>
    cases o with
    | none => exact List.mem_cons_of_mem _ (ih h)
    | some q => exact h ▸ List.mem_cons_self

theorem inArray_eq_some {a base stride n i : Nat} :
    inArray a base stride n = some i ↔ base ≤ a ∧ (a - base) % stride = 0 ∧ (a - base) / stride < n ∧ i = (a - base) / stride := by
  unfold inArray
  split <;> grind

/-- No register stands in the drive's aperture. -/
theorem Reg.ofAddr_aperture {a : Nat} {r : Reg} (h : Reg.ofAddr a = some r) : ¬ (0x980000 ≤ a ∧ a < 0xA00000) := by
  rintro ⟨lo, hi⟩
  have block : a / 0x100000 = 9 := by omega
  rw [Reg.ofAddr, block] at h
  have mem := firstSome_mem h
  simp only [regsOfBlock, List.mem_cons, Option.some_eq_ite_none_right, Option.some.injEq, List.not_mem_nil,
    or_false] at mem
  omega

/-- Among the MSI-X vectors, only message addresses stand at the first eight bytes of an entry. -/
theorem Reg.ofAddr_msix {a : Nat} {r : Reg} (h : Reg.ofAddr a = some r) (ha : 0x880000 ≤ a ∧ a < 0x888000 ∧ a % 16 < 8) :
    r.width = 64 := by
  have block : a / 0x100000 = 8 := by omega
  rw [Reg.ofAddr, block] at h
  have mem := firstSome_mem h
  simp only [regsOfBlock, List.mem_cons, Option.some_eq_ite_none_right, Option.some.injEq, Option.some_eq_map_iff,
    inArray_eq_some, ↓existsAndEq, and_true, List.not_mem_nil, or_false] at mem
  rcases mem with h | h | h | h | ⟨-, -, -, -, rfl⟩ | h | h | h
  case inr.inr.inr.inr.inl => rfl
  all_goals omega

end Sys2Proof.Machine

/-! SUPPORT. The register bus: a write of a register by its own width reaches that register's effect, and what the effects leave. -/

namespace Sys2Proof.Machine

open Sys2Proof

/-! ### Writes of a register by its own width (R447) -/

/-- A write of a register with its own width, at its own place, reaches that register. -/
theorem busWrite_register (w : World) (ep : Endpoint) {off v : Nat} {r : Reg} (s : State) (hr : Reg.ofAddr off = some r)
    (ha : off % (r.width / 8) = 0) (hv : v < 2 ^ r.width) : busWrite w ep off r.width v s = writeReg w ep r v s := by
  have top := Reg.ofAddr_lt hr
  have aperture := Reg.ofAddr_aperture hr
  have place : aliasOff ep off = off := if_neg (by omega)
  unfold busWrite
  rw [if_neg (Reg.aligned_access ha), if_neg (by omega), if_neg aperture, place]
  rcases r.width_cases with h | h
  · rw [h] at hv ⊢
    rw [if_neg (by decide), write32, if_neg fun m => by simp [Reg.ofAddr_msix hr m] at h, hr]
    simp only [h, if_true, Nat.mod_eq_of_lt hv]
  · rw [h, if_pos rfl, write64, hr]
    simp only [h, if_true]

/-- REGISTER_WRITE while the device, the link and the core are there (R8, R283, R388). -/
theorem execRegisterWrite_bus {w : World} {ep : Endpoint} {a : Pa} {n off : Nat} (v : W64) {s : State} (hh : s.held = false)
    (hl : ep = .host → s.pcie.width ≠ 0) (hc : ep = .hc → s.hcRunning = true) (hlt : off < 0x10000000)
    (haddr : a.toNat = regsBase + off) :
    exec (.registerWrite w ep a n v) s = busWrite (epWorld ep w) ep off n (v.toNat % 2 ^ min n 64) s := by
  have present : ¬ (s.held = true ∨ (ep = .host ∧ s.pcie.width = 0) ∨ (ep = .hc ∧ s.hcRunning = false) ∨
      a.toNat < regsBase ∨ regsBase + 0x10000000 ≤ a.toNat) := by
    rintro (h | ⟨h, h'⟩ | ⟨h, h'⟩ | h | h)
    · simp [hh] at h
    · exact hl h h'
    · simp [hc h] at h'
    · omega
    · omega
  change execRegisterWrite w ep a n v s = _
  rw [execRegisterWrite, if_neg present, haddr, Nat.add_sub_cancel_left]

theorem execRegisterWrite_register {w : World} {ep : Endpoint} {a : Pa} {r : Reg} (v : W64) {s : State}
    (hh : s.held = false) (hl : ep = .host → s.pcie.width ≠ 0) (hc : ep = .hc → s.hcRunning = true)
    (hr : Reg.ofAddr r.addr = some r) (haddr : a.toNat = regsBase + r.addr) (hal : r.addr % (r.width / 8) = 0) :
    exec (.registerWrite w ep a r.width v) s = writeReg (epWorld ep w) ep r (v.toNat % 2 ^ r.width) s := by
  have top := Reg.ofAddr_lt hr
  have wide : min r.width 64 = r.width := by rcases r.width_cases with h | h <;> simp [h]
  rw [execRegisterWrite_bus v hh hl hc (by omega) haddr, wide,
    busWrite_register _ _ s hr hal (Nat.mod_lt _ (Nat.two_pow_pos _))]

/-! ### Registers without an effect of their own (R8, R449) -/

theorem Reg.block_of_plain {r : Reg} (h : r.plain = true) : r.block ≠ 2 := by
  intro block
  unfold Reg.plain at h
  split at h
  case h_68 => simp [block] at h
  all_goals cases h

theorem regEffect_plain {r : Reg} (h : r.plain = true) (s : State) (v : Nat) :
    s.regEffect r v = s.genWrite r v (s.fieldFree r) := by
  unfold State.regEffect
  split
  case h_41 => rw [if_neg (Reg.block_of_plain h)]
  all_goals cases h

theorem writeReg_plain {r : Reg} (h : r.plain = true) (w : World) (ep : Endpoint) (v : Nat) (s : State) :
    writeReg w ep r v s = .next (if s.allLocked r then s else s.regOp w r.addr true fun s => s.genWrite r v (s.fieldFree r)) := by
  unfold writeReg
  split
  case h_28 => simp only [regEffect_plain h]
  all_goals cases h

/-! ### Registers with an enable that locks their other fields (R449) -/

theorem State.onlyRegs_enWrite (s : State) (r : Reg) (v : Nat) (live : Nat → Bool) (ok : State → Bool) :
    s.onlyRegs (s.enWrite r v live ok) [r] := by
  have mem : r ∈ [r] := List.mem_singleton_self r
  unfold State.enWrite
  dsimp only
  have gen := State.onlyRegs_genWrite mem s v fun lo => lo != 31 && (!(s.fget r 31 31 == 1) || live lo)
  split
  · exact State.onlyRegs_trans gen (State.onlyRegs_fset mem _ _ _ _)
  · split
    · exact State.onlyRegs_trans gen (State.onlyRegs_fset mem _ _ _ _)
    · exact gen

/-- Below bit 31, the enable changes nothing that the fields' write has left. -/
theorem State.fget_enWrite_below (s : State) (r : Reg) (v : Nat) (live : Nat → Bool) (ok : State → Bool) {h l : Nat}
    (hh : h < 31) : (s.enWrite r v live ok).fget r h l =
      (s.genWrite r v fun lo => lo != 31 && (!(s.fget r 31 31 == 1) || live lo)).fget r h l := by
  have set := fun (t : State) x => t.fget_fset_apart r (h := 31) (l := 31) (h' := h) (l' := l) (Nat.le_refl 31) (by omega)
    (Or.inr hh) x
  unfold State.enWrite
  dsimp only
  split
  · exact set _ 0
  · split
    · exact set _ 1
    · rfl

/-- The enable is taken while it is set or where the fields admit it, and cleared by a zero. -/
theorem State.fget_enWrite_en (s : State) {r : Reg} (v : Nat) (live : Nat → Bool) (ok : State → Bool)
    (hr : ∀ f ∈ r.fields, f.lo = 31 ∨ f.hi < 31) : (s.enWrite r v live ok).fget r 31 31 =
      if bits v 31 31 = 0 then 0
      else if s.fget r 31 31 = 1 ∨
        ok (s.genWrite r v fun lo => lo != 31 && (!(s.fget r 31 31 == 1) || live lo)) = true then 1
      else s.fget r 31 31 := by
  have kept := s.fget_genWrite_apart r v (free := fun lo => lo != 31 && (!(s.fget r 31 31 == 1) || live lo)) (h := 31)
    (l := 31) (by omega) fun f hf free => Or.inl (by
      rcases hr f hf with e | e
      · simp [e] at free
      · exact e)
  have set := fun (t : State) x => t.fget_fset_same r (h := 31) (l := 31) (Nat.le_refl 31) (by omega) x
  unfold State.enWrite
  dsimp only
  split
  · exact set _ 0
  · by_cases h : s.fget r 31 31 = 1 ∨
        ok (s.genWrite r v fun lo => lo != 31 && (!(s.fget r 31 31 == 1) || live lo)) = true
    · rw [if_pos h, if_pos (by simpa using h)]; exact set _ 1
    · rw [if_neg h, if_neg (by simpa using h)]; exact kept

/-- A 32-bit register of read-write fields with EN in bit 31, a one-bit field below it and a two-bit
code below that (ETH_CFG, CSI_PORT_CFG, USB_EP_CFG). -/
def Reg.Enabled (r : Reg) : Prop :=
  r.width = 32 ∧ (∀ f ∈ r.fields, f.typ = .rw ∧ (f.lo = 31 ∨ f.hi < 31)) ∧ ⟨30, 30, .rw, 0⟩ ∈ r.fields ∧
    ⟨29, 28, .rw, 0⟩ ∈ r.fields

theorem Reg.enabled_ethCfg (p : Nat) : (Reg.ethCfg p).Enabled := by
  simp [Reg.Enabled, Reg.width, Reg.fields]

theorem Reg.enabled_csiPortCfg (p : Nat) : (Reg.csiPortCfg p).Enabled := by
  simp [Reg.Enabled, Reg.width, Reg.fields]

theorem Reg.enabled_usbEpCfg (p : Nat) : (Reg.usbEpCfg p).Enabled := by
  simp [Reg.Enabled, Reg.width, Reg.fields]

/-- A read-write field below EN takes the write while EN is clear or where it is live. -/
theorem State.fget_enWrite_mem (s : State) {r : Reg} (hr : r.Enabled) (v : Nat) (live : Nat → Bool) (ok : State → Bool)
    {f : Field} (hf : f ∈ r.fields) (h31 : f.lo ≠ 31) : (s.enWrite r v live ok).fget r f.hi f.lo =
      if s.fget r 31 31 = 1 ∧ live f.lo = false then s.fget r f.hi f.lo else bits v f.hi f.lo := by
  obtain ⟨-, fields, -, -⟩ := hr
  obtain ⟨readWrite, below⟩ := fields f hf
  have taken : f.taken (s.rget r) v = bits v f.hi f.lo := by unfold Field.taken; rw [readWrite]
  rw [s.fget_enWrite_below r v live ok (below.resolve_left h31), s.fget_genWrite_mem r v _ hf, taken]
  by_cases on : s.fget r 31 31 = 1 <;> cases h : live f.lo <;> simp [on, h31]

/-- What a write of such a register leaves: EN stays as written, or fails where the code is 3 (R449). -/
theorem State.fget_enWrite_en_code (s : State) {r : Reg} (hr : r.Enabled) (v : Nat) (live : Nat → Bool) :
    (s.enWrite r v live fun t => t.fget r 29 28 != 3).fget r 31 31 =
      if bits v 31 31 = 1 ∧ (s.fget r 31 31 = 1 ∨ bits v 29 28 ≠ 3) then 1 else 0 := by
  obtain ⟨-, fields, -, code⟩ := hr
  have lit : bits v 31 31 = 0 ∨ bits v 31 31 = 1 := by have := bits_lt v 31 31; omega
  have code_taken (off : s.fget r 31 31 = 0) : (s.genWrite r v fun lo =>
      lo != 31 && (!(s.fget r 31 31 == 1) || live lo)).fget r 29 28 = bits v 29 28 := by
    rw [s.fget_genWrite_mem r v _ code]
    simp [Field.taken, off]
  rw [s.fget_enWrite_en v live _ fun f hf => (fields f hf).2]
  have was : s.fget r 31 31 = 0 ∨ s.fget r 31 31 = 1 := by have : s.fget r 31 31 < 2 := bits_lt _ 31 31; omega
  rcases was with off | on
  · rw [code_taken off, off]
    rcases lit with h | h <;> simp [h]
  · rw [on]
    rcases lit with h | h <;> simp [h]

/-! ### Fields with a range (R402) -/

/-- A field takes a value of its range only. -/
def State.rangeWrite (s : State) (r : Reg) (h l lo hi v : Nat) : State :=
  if within lo hi (bits v h l) then s.fset r h l (bits v h l) else s

theorem State.onlyRegs_rangeWrite (s : State) (r : Reg) (h l lo hi v : Nat) : s.onlyRegs (s.rangeWrite r h l lo hi v) [r] := by
  unfold State.rangeWrite
  split
  · exact State.onlyRegs_fset (List.mem_singleton_self r) s _ _ _
  · exact s.onlyRegs_refl _

theorem State.fget_rangeWrite_same (s : State) (r : Reg) {h l : Nat} (hl : l ≤ h) (hh : h < 64) (lo hi v : Nat) :
    (s.rangeWrite r h l lo hi v).fget r h l = if lo ≤ bits v h l ∧ bits v h l ≤ hi then bits v h l else s.fget r h l := by
  simp only [State.rangeWrite, within, decide_eq_true_eq]
  split
  · rw [State.fget_fset_same _ _ hl hh, Nat.mod_eq_of_lt (bits_lt v h l)]
  · rfl

theorem State.fget_rangeWrite_apart (s : State) (r : Reg) {h l h' l' : Nat} (hl : l ≤ h) (hh : h' < 64)
    (ha : h < l' ∨ h' < l) (lo hi v : Nat) : (s.rangeWrite r h l lo hi v).fget r h' l' = s.fget r h' l' := by
  unfold State.rangeWrite
  split
  · exact State.fget_fset_apart _ _ hl hh ha _
  · rfl

theorem State.regEffect_pmcBoCfg (s : State) (v : Nat) : s.regEffect .pmcBoCfg v =
    (s.rangeWrite .pmcBoCfg 31 16 1640 1780 v).rangeWrite .pmcBoCfg 15 0 670 730 v := rfl

theorem State.regEffect_pmcThermCfg (s : State) (v : Nat) : s.regEffect .pmcThermCfg v =
    (s.rangeWrite .pmcThermCfg 15 8 1 15 v).rangeWrite .pmcThermCfg 7 0 60 115 v := rfl

theorem writeReg_pmcBoCfg (w : World) (ep : Endpoint) (v : Nat) (s : State) : writeReg w ep .pmcBoCfg v s =
    .next (s.regOp w (Reg.addr .pmcBoCfg) true fun s => s.regEffect .pmcBoCfg v) := rfl

theorem writeReg_pmcThermCfg (w : World) (ep : Endpoint) (v : Nat) (s : State) : writeReg w ep .pmcThermCfg v s =
    .next (s.regOp w (Reg.addr .pmcThermCfg) true fun s => s.regEffect .pmcThermCfg v) := rfl

/-! ### What a register of the engines shows -/

theorem waitsReady_false {b : Nat} (h : 9 ≤ b) : waitsReady b = false := by
  simp [waitsReady]; omega

theorem State.view_of_mirror {s : State} {r : Reg} {x : Nat} (hb : 9 ≤ r.block) (hm : s.mirror r = some x) : s.view r = x := by
  simp [State.view, waitsReady_false hb, hm]

end Sys2Proof.Machine

/-! SUPPORT. What registers of the engines show, and reads of a register by a master. -/

namespace Sys2Proof.Machine

open Sys2Proof

/-! ### Registers of one engine -/

/-- The counters of engine `e` that software writes. -/
def counters (e : Nat) : List Reg :=
  [.neCyc e, .neStallBank e, .neStallRemote e, .neStallWait e, .neStallPwr e, .neHmonCnt e, .cvsLoadcyc e, .cvsStrmcyc e,
    .cvsMacs e, .pntReruns e, .pntRefused e]

/-- A write of a counter goes to its own effect, changes its engine alone, and the register then shows what was written. -/
theorem writeReg_counter {r : Reg} {e : Nat} (hr : r ∈ counters e) : r.width = 64 ∧
    (∀ (w : World) (ep : Endpoint) (v : Nat) (s : State),
      writeReg w ep r v s = .next (s.regOp w r.addr true fun s => s.regEffect r v)) ∧
    ∀ (s : State) (v : Nat), s.onlyEngine (s.regEffect r v) e ∧ (s.regEffect r v).view r = v := by
  simp only [counters, List.mem_cons, List.not_mem_nil, or_false] at hr
  rcases hr with rfl | rfl | rfl | rfl | rfl | rfl | rfl | rfl | rfl | rfl | rfl
  all_goals
    refine ⟨rfl, fun _ _ _ _ => rfl, fun s v => ?_⟩
    simp only [State.regEffect, State.engWrite]
    refine ⟨s.modEng_onlyEngine e _, State.view_of_mirror (by simp only [Reg.block, Reg.addr]; omega) ?_⟩
    simp only [State.mirror, State.engView, State.eng_modEng_same]

theorem State.eng_modFq_same (s : State) (e q : Nat) (f : FetchQ → FetchQ) :
    mget (fun _ => ({} : FetchQ)) ((s.modFq e q f).eng e).fqs q = f (mget (fun _ => ({} : FetchQ)) (s.eng e).fqs q) := by
  unfold State.modFq
  rw [State.eng_modEng_same]
  exact mget_minsert_same _ _ _ _

/-- The registers of a fetch queue show its credits; a latched one what was latched (R223). -/
theorem State.view_fqCrgrant (s : State) (e q : Nat) :
    s.view (.fqCrgrant e q) = (mget (fun _ => ({} : FetchQ)) (s.eng e).fqs q).granted :=
  State.view_of_mirror (by simp only [Reg.block, Reg.addr]; omega) rfl

theorem State.view_fqCrret (s : State) (e q : Nat) : s.view (.fqCrret e q) =
    (mget (fun _ => ({} : FetchQ)) (s.eng e).fqs q).lret.getD (mget (fun _ => ({} : FetchQ)) (s.eng e).fqs q).ret :=
  State.view_of_mirror (by simp only [Reg.block, Reg.addr]; omega) rfl

theorem State.view_fqCrout (s : State) (e q : Nat) : s.view (.fqCrout e q) =
    (mget (fun _ => ({} : FetchQ)) (s.eng e).fqs q).lout.getD ((mget (fun _ => ({} : FetchQ)) (s.eng e).fqs q).granted -
      (mget (fun _ => ({} : FetchQ)) (s.eng e).fqs q).ret) :=
  State.view_of_mirror (by simp only [Reg.block, Reg.addr]; omega) rfl

/-! ### Accesses by a master (R405, R447) -/

theorem leBytes_mod (n v : Nat) : leBytes n (v % 2 ^ (8 * n)) = leBytes n v := by
  unfold leBytes
  refine List.map_congr_left fun i hi => BitVec.eq_of_toNat_eq ?_
  rw [List.mem_range] at hi
  apply Nat.eq_of_testBit_eq
  intro k
  simp only [BitVec.toNat_ofNat, Nat.testBit_mod_two_pow, Nat.testBit_shiftRight]
  by_cases hk : k < 8
  · have : 8 * i + k < 8 * n := by omega
    simp [this]
  · simp [hk]

theorem leBytes_zero (n : Nat) : leBytes n 0 = List.replicate n 0 := by
  unfold leBytes
  simp

/-- An answer after register changes alone. -/
theorem State.answer_onlyRegs {s t : State} {l : List Reg} (h : s.onlyRegs t l) (d : List Byte) :
    t.answer (.ok d) = { s with regs := t.regs, resp := { ok := true, status := 0, data := d } } :=
  congrArg (fun u : State => u.answer (.ok d)) h.1

theorem State.eng_answer_ok (s : State) (d : List Byte) (e : Nat) : (s.answer (.ok d)).eng e = s.eng e := rfl

theorem regionOf_regs {a off : Nat} (h : regionOf a = .regs off) : a = regsBase + off ∧ off < 0x10000000 := by
  unfold regionOf at h
  split_ifs at h with h1 h2 h3 h4 h5
  injection h with h
  simp only [regsBase] at *
  omega

theorem State.stranger_cases (s : State) (off : Nat) : s.stranger off ∈ [Endpoint.pmc, .sec, .hc] := by
  unfold State.stranger
  dsimp only
  cases h : [Endpoint.pmc, .sec, .hc].find? fun e => s.mbxSender ((off - 0x400000) / 0x1000) != some e &&
      s.mbxReceiver ((off - 0x400000) / 0x1000) != some e with
  | none => simp
  | some e => exact List.mem_of_find?_eq_some h

theorem State.masterEp_ne_host {s : State} {off : Nat} {m : Master} {ep : Endpoint} (h : s.masterEp off m = some ep) :
    ep ≠ .host := by
  rintro rfl
  unfold State.masterEp at h
  split at h
  case h_5 => have := s.stranger_cases off; simp_all
  all_goals cases h

/-- A read in the register space by a master that the register bridge knows. -/
theorem execRemoteAccess_read {s : State} {m : Master} {off : Nat} {ep : Endpoint} {va : BitVec 48} (ctx : BitVec 12)
    (hm : s.mayAccess m = true) (hr : regionOf (va.toNat % 2 ^ 44) = .regs off) (he : s.masterEp off m = some ep)
    (n : Nat) : exec (.remoteAccess m ctx va (.read n)) s = s.masterRead (masterWorld m) ep off n := by
  have place : va.toNat % 2 ^ 44 - regsBase = off := by have := (regionOf_regs hr).1; omega
  change execRemoteAccess m ctx va (.read n) s = _
  simp only [execRemoteAccess, hm, Bool.true_eq_false, if_false, place, hr, he]

/-- A write in the register space by such a master. -/
theorem execRemoteAccess_write {s : State} {m : Master} {off : Nat} {ep : Endpoint} {va : BitVec 48} (ctx : BitVec 12)
    (hm : s.mayAccess m = true) (hr : regionOf (va.toNat % 2 ^ 44) = .regs off) (he : s.masterEp off m = some ep)
    (d : List Byte) : exec (.remoteAccess m ctx va (.write d)) s = s.masterWrite (masterWorld m) ep off d := by
  have place : va.toNat % 2 ^ 44 - regsBase = off := by have := (regionOf_regs hr).1; omega
  change execRemoteAccess m ctx va (.write d) s = _
  simp only [execRemoteAccess, hm, Bool.true_eq_false, if_false, place, hr, he]

/-- A read of a register by its own width, but for the two that have an effect of their own at the bridge. -/
theorem State.masterRead_register {s : State} {w : World} {ep : Endpoint} {off : Nat} {r : Reg} (hr : Reg.ofAddr off = some r)
    (hp : ∀ k, r ≠ .mbxPopR k) : s.masterRead w ep off (r.width / 8) = .next ((s.busRead w ep off r.width).2.answer
      (.ok (leBytes (r.width / 8) (s.busRead w ep off r.width).1))) := by
  have width : 8 * (r.width / 8) = r.width := by rcases r.width_cases with h | h <;> simp [h]
  unfold State.masterRead
  rw [hr, width]
  split
  · rename_i k h; exact absurd (Option.some.inj h) (hp k)
  · rfl

/-- What the register bridge returns for a read of the register at an offset by its own width, and what the read does:
refused and counted, or answered with what the register shows. -/
def State.registerRead (s : State) (w : World) (off : Nat) (r : Reg) : Nat × State :=
  if s.regOpen w off false = false then (0, s.violation off false)
  else if r.width = 64 then s.read64 r else (s.view r % 2 ^ 32, s)

theorem State.busRead_register {s : State} {w : World} {ep : Endpoint} {off : Nat} {r : Reg} (he : ep ≠ .host)
    (hr : Reg.ofAddr off = some r) (ha : off % (r.width / 8) = 0) (hd : r ≠ .secDbgStat) :
    s.busRead w ep off r.width = s.registerRead w off r := by
  have aperture := Reg.ofAddr_aperture hr
  have place : aliasOff ep off = off := if_neg fun h => he h.1
  have admissible : ¬ ((r.width ≠ 32 ∧ r.width ≠ 64) ∨ off % (r.width / 8) ≠ 0 ∨ (ep = .host ∧ s.pcie.width = 0) ∨
      (ep = .host ∧ 0x3000000 ≤ off ∧ off < 0x3400000)) := by
    rintro (h | h | h | h)
    · exact Reg.aligned_access ha (Or.inl h)
    · exact h ha
    · exact he h.1
    · exact he h.1
  unfold State.busRead State.registerRead
  dsimp only
  rw [if_neg admissible, if_neg fun h => aperture ⟨h.1, h.2.1⟩, place, hr]
  rcases r.width_cases with h | h <;> cases ho : s.regOpen w off false <;> simp [h, hd, State.read32, hr]

end Sys2Proof.Machine

/-! SUPPORT. Register accesses by REGISTER_WRITE and by masters. -/

namespace Sys2Proof.Machine

open Sys2Proof

/-! ### What REGISTER_WRITE does to one register -/

section Write

variable {w : World} {ep : Endpoint} {a : Pa} {s : State} {r : Reg}
  (hh : s.held = false) (hl : ep = .host → s.pcie.width ≠ 0) (hc : ep = .hc → s.hcRunning = true)
  (hr : Reg.ofAddr r.addr = some r) (haddr : a.toNat = regsBase + r.addr) (hal : r.addr % (r.width / 8) = 0)

include hh hl hc hr haddr hal

theorem registerWrite_locked (hp : r.plain = true) (hlock : s.allLocked r = true) (v : W64) :
    exec (.registerWrite w ep a r.width v) s = .next s := by
  rw [execRegisterWrite_register v hh hl hc hr haddr hal, writeReg_plain hp, if_pos hlock]

theorem registerWrite_plain (hp : r.plain = true) (hlock : s.allLocked r = false) (hadm : s.admits (epWorld ep w) r true)
    (v : W64) : ∃ t, exec (.registerWrite w ep a r.width v) s = .next t ∧ s.onlyRegs t [r] ∧ ∀ f ∈ r.fields,
      t.fget r f.hi f.lo = if s.fieldFree r f.lo = false then s.fget r f.hi f.lo else f.taken (s.rget r) v.toNat := by
  refine ⟨s.genWrite r (v.toNat % 2 ^ r.width) (s.fieldFree r), ?_,
    State.onlyRegs_genWrite (List.mem_singleton_self r) s _ _, fun f hf => ?_⟩
  · rw [execRegisterWrite_register v hh hl hc hr haddr hal, writeReg_plain hp, if_neg (by simp [hlock]),
      State.regOp_admitted hadm]
  · rw [s.fget_genWrite_mem r _ _ hf, Field.taken_mod hf]
    cases s.fieldFree r f.lo <;> rfl

theorem registerWrite_refused (hp : r.plain = true) (hlock : s.allLocked r = false)
    (href : s.regOpen (epWorld ep w) r.addr true = false) (v : W64) :
    exec (.registerWrite w ep a r.width v) s = .next (s.violation r.addr true) := by
  rw [execRegisterWrite_register v hh hl hc hr haddr hal, writeReg_plain hp, if_neg (by simp [hlock]),
    State.regOp_refused href]

theorem registerWrite_enabled (hen : r.Enabled) {live : Nat → Bool} (hlive : ∀ lo, lo ≠ 30 → live lo = false)
    (husb : (∃ p, r = .usbEpCfg p) → live 30 = true) (hother : (∀ p, r ≠ .usbEpCfg p) → live 30 = false)
    (heff : ∀ v, writeReg (epWorld ep w) ep r v s = .next (s.regOp (epWorld ep w) r.addr true fun s =>
      s.enWrite r v live fun t => t.fget r 29 28 != 3))
    (hadm : s.admits (epWorld ep w) r true) (v : W64) :
    ∃ t, exec (.registerWrite w ep a r.width v) s = .next t ∧ s.onlyRegs t [r] ∧
      (s.fget r 31 31 = 1 → t.fget r 31 31 = bits v.toNat 31 31 ∧
        (∀ f ∈ r.fields, f.lo ≠ 31 → f.lo ≠ 30 → t.fget r f.hi f.lo = s.fget r f.hi f.lo) ∧
        ((∃ p, r = .usbEpCfg p) → t.fget r 30 30 = bits v.toNat 30 30) ∧
        ((∀ p, r ≠ .usbEpCfg p) → t.fget r 30 30 = s.fget r 30 30)) ∧
      (s.fget r 31 31 = 0 →
        t.fget r 31 31 = (if bits v.toNat 31 31 = 1 ∧ bits v.toNat 29 28 ≠ 3 then 1 else 0) ∧
        ∀ f ∈ r.fields, f.lo ≠ 31 → t.fget r f.hi f.lo = bits v.toNat f.hi f.lo) := by
  obtain ⟨width, -, flag, -⟩ := id hen
  have low := fun f (hf : f ∈ r.fields) => bits_mod (r.tidy.2 f hf).2 v.toNat f.lo
  have lit : bits v.toNat 31 31 = 0 ∨ bits v.toNat 31 31 = 1 := by have := bits_lt v.toNat 31 31; omega
  have en := s.fget_enWrite_en_code hen (v.toNat % 2 ^ r.width) live
  rw [show bits (v.toNat % 2 ^ r.width) 31 31 = bits v.toNat 31 31 from bits_mod (by omega) _ _,
    show bits (v.toNat % 2 ^ r.width) 29 28 = bits v.toNat 29 28 from bits_mod (by omega) _ _] at en
  have locked := fun on f (hf : f ∈ r.fields) h31 h => (s.fget_enWrite_mem hen (v.toNat % 2 ^ r.width) live
    (fun t => t.fget r 29 28 != 3) hf h31).trans (if_pos ⟨on, h⟩)
  have taken := fun f (hf : f ∈ r.fields) h31 h => ((s.fget_enWrite_mem hen (v.toNat % 2 ^ r.width) live
    (fun t => t.fget r 29 28 != 3) hf h31).trans (if_neg h)).trans (low f hf)
  refine ⟨s.enWrite r (v.toNat % 2 ^ r.width) live fun t => t.fget r 29 28 != 3, ?_, s.onlyRegs_enWrite r _ live _,
    fun on => ⟨?_, fun f hf h31 h30 => locked on f hf h31 (hlive _ h30),
      fun usb => taken _ flag (by decide) (by simp [husb usb]), fun other => locked on _ flag (by decide) (hother other)⟩,
    fun off => ⟨by rw [en]; simp [off], fun f hf h31 => taken f hf h31 (by simp [off])⟩⟩
  · rw [execRegisterWrite_register v hh hl hc hr haddr hal, heff, State.regOp_admitted hadm]
  · rw [en]
    rcases lit with h | h <;> simp [on, h]

theorem registerWrite_counter {e : Nat} (hcount : r ∈ counters e) (hadm : s.admits (epWorld ep w) r true) (v : W64) :
    ∃ t, exec (.registerWrite w ep a r.width v) s = .next t ∧ s.onlyEngine t e ∧ t.view r = v.toNat := by
  obtain ⟨width, write, effect⟩ := writeReg_counter hcount
  refine ⟨s.regEffect r v.toNat, ?_, effect s v.toNat⟩
  rw [execRegisterWrite_register v hh hl hc hr haddr hal, write, State.regOp_admitted hadm, width, Nat.mod_eq_of_lt v.isLt]

/-- Two fields of the PMC that take values of their ranges. -/
theorem registerWrite_ranges {h l k lo hi lo' hi' : Nat} (hlh : l ≤ h) (hh32 : h < 32) (hkl : k < l)
    (width : r.width = 32)
    (heff : ∀ v, writeReg (epWorld ep w) ep r v s = .next (s.regOp (epWorld ep w) r.addr true fun s =>
      (s.rangeWrite r h l lo hi v).rangeWrite r k 0 lo' hi' v))
    (hadm : s.admits (epWorld ep w) r true) (v : W64) :
    ∃ t, exec (.registerWrite w ep a r.width v) s = .next t ∧ s.onlyRegs t [r] ∧
      t.fget r h l = (if lo ≤ bits v.toNat h l ∧ bits v.toNat h l ≤ hi then bits v.toNat h l else s.fget r h l) ∧
      t.fget r k 0 = if lo' ≤ bits v.toNat k 0 ∧ bits v.toNat k 0 ≤ hi' then bits v.toNat k 0 else s.fget r k 0 := by
  refine ⟨(s.rangeWrite r h l lo hi (v.toNat % 2 ^ r.width)).rangeWrite r k 0 lo' hi' (v.toNat % 2 ^ r.width), ?_,
    State.onlyRegs_trans (s.onlyRegs_rangeWrite r _ _ _ _ _) (State.onlyRegs_rangeWrite _ r _ _ _ _ _), ?_, ?_⟩
  · rw [execRegisterWrite_register v hh hl hc hr haddr hal, heff, State.regOp_admitted hadm]
  · rw [State.fget_rangeWrite_apart _ r (Nat.zero_le k) (by omega) (Or.inl hkl),
      State.fget_rangeWrite_same _ r hlh (by omega), width, bits_mod (by omega)]
  · rw [State.fget_rangeWrite_same _ r (Nat.zero_le k) (by omega),
      State.fget_rangeWrite_apart _ r hlh (by omega) (Or.inr hkl), width, bits_mod (by omega)]

end Write

theorem registerWrite_cpqInit {w : World} {ep : Endpoint} {a : Pa} {s : State} (hh : s.held = false)
    (hl : ep = .host → s.pcie.width ≠ 0) (hc : ep = .hc → s.hcRunning = true)
    (haddr : a.toNat = regsBase + Reg.cpqInit.addr) (v : W64) : exec (.registerWrite w ep a 32 v) s =
      exec (.contextModeSelect (epWorld ep w) (BitVec.ofNat 2 v.toNat)) s := by
  have mode : BitVec.ofNat 2 (v.toNat % 2 ^ 32) = BitVec.ofNat 2 v.toNat :=
    BitVec.eq_of_toNat_eq (by simp only [BitVec.toNat_ofNat]; omega)
  refine (execRegisterWrite_register (r := .cpqInit) v hh hl hc (by decide) haddr (by decide)).trans ?_
  change execContextModeSelect _ (BitVec.ofNat 2 (v.toNat % 2 ^ 32)) s = _
  rw [mode]; rfl

theorem Reg.ofAddr_mbxPush (k : Fin 24) : Reg.ofAddr (Reg.mbxPushR k).addr = some (.mbxPushR k) := by
  revert k; decide

theorem registerWrite_mbxPush {w : World} {ep : Endpoint} {a : Pa} {s : State} (hh : s.held = false)
    (hl : ep = .host → s.pcie.width ≠ 0) (hc : ep = .hc → s.hcRunning = true) {k : Fin 24}
    (haddr : a.toNat = regsBase + (Reg.mbxPushR k).addr) (v : W64) : exec (.registerWrite w ep a 64 v) s =
      exec (.mbxPush (epWorld ep w) ep k v) s := by
  have aligned : (Reg.mbxPushR k).addr % (64 / 8) = 0 := by simp only [Reg.addr]; omega
  have channel : Fin.ofNat 24 k.val = k := Fin.ext (Nat.mod_eq_of_lt k.isLt)
  have data : BitVec.ofNat 64 (v.toNat % 2 ^ 64) = v := by
    rw [Nat.mod_eq_of_lt v.isLt, BitVec.ofNat_toNat, BitVec.setWidth_eq]
  refine (execRegisterWrite_register (r := .mbxPushR k) v hh hl hc (Reg.ofAddr_mbxPush k) haddr aligned).trans ?_
  change execMbxPush _ ep (Fin.ofNat 24 k.val) (BitVec.ofNat 64 (v.toNat % 2 ^ 64)) s = _
  rw [channel, data]; rfl

/-! ### What a read by a master does -/

/-- A 64-bit read latches nothing of a register that is no word of a wider structure and has no read effect. -/
theorem State.read64_plain {s : State} {r : Reg} (hw : wideOf r = none) (ht : r ≠ .timeSec)
    (hf : ∀ e q, r ≠ .fqCrgrant e q ∧ r ≠ .fqCrret e q ∧ r ≠ .fqCrout e q) (hx : ∀ c, r ≠ .canRxhead c 9) :
    s.read64 r = (s.view r, s) := by
  have act : s.readAct r = s := by
    unfold State.readAct
    split
    · exact absurd rfl ht
    · exact absurd rfl (hf _ _).1
    · exact absurd rfl (hf _ _).2.1
    · exact absurd rfl (hf _ _).2.2
    · exact absurd rfl (hx _)
    · rfl
  simp [State.read64, hw, act]

section Read

variable {s : State} {m : Master} {ctx : BitVec 12} {va : BitVec 48} {off : Nat} {ep : Endpoint} {r : Reg}
  (hm : s.mayAccess m = true) (hreg : regionOf (va.toNat % 2 ^ 44) = .regs off) (he : s.masterEp off m = some ep)
  (hr : Reg.ofAddr off = some r) (ha : off % (r.width / 8) = 0) (hp : ∀ k, r ≠ .mbxPopR k)
  (hd : r ≠ .secDbgStat)

include hm hreg he hr ha hp hd

/-- A read of a register by its own width answers with what the register bridge returns. -/
theorem remoteRead_register : exec (.remoteAccess m ctx va (.read (r.width / 8))) s =
    .next ((s.registerRead (masterWorld m) off r).2.answer
      (.ok (leBytes (r.width / 8) (s.registerRead (masterWorld m) off r).1))) := by
  rw [execRemoteAccess_read ctx hm hreg he, State.masterRead_register hr hp,
    State.busRead_register (State.masterEp_ne_host he) hr ha hd]

theorem remoteRead_refused (ho : s.regOpen (masterWorld m) off false = false) :
    exec (.remoteAccess m ctx va (.read (r.width / 8))) s =
      .next ((s.violation off false).answer (.ok (List.replicate (r.width / 8) 0))) := by
  rw [remoteRead_register hm hreg he hr ha hp hd, State.registerRead, if_pos ho, leBytes_zero]

variable (ho : s.regOpen (masterWorld m) off false = true)

include ho

theorem remoteRead_64 (hw : r.width = 64) : exec (.remoteAccess m ctx va (.read 8)) s =
    .next ((s.read64 r).2.answer (.ok (leBytes 8 (s.read64 r).1))) := by
  have width : r.width / 8 = 8 := by rw [hw]
  rw [← width, remoteRead_register hm hreg he hr ha hp hd, State.registerRead, if_neg (by simp [ho]), if_pos hw]

theorem remoteRead_plain (hw : wideOf r = none) (ht : r ≠ .timeSec)
    (hf : ∀ e q, r ≠ .fqCrgrant e q ∧ r ≠ .fqCrret e q ∧ r ≠ .fqCrout e q) (hx : ∀ c, r ≠ .canRxhead c 9) :
    exec (.remoteAccess m ctx va (.read (r.width / 8))) s =
      .next (s.answer (.ok (leBytes (r.width / 8) (s.view r)))) := by
  rw [remoteRead_register hm hreg he hr ha hp hd, State.registerRead, if_neg (by simp [ho])]
  rcases r.width_cases with h | h
  · have shown : leBytes 4 (s.view r % 2 ^ 32) = leBytes 4 (s.view r) := leBytes_mod 4 _
    rw [if_neg (by simp [h]), h]
    exact congrArg (fun d => Host.Outcome.next (s.answer (.ok d))) shown
  · rw [if_pos h, State.read64_plain hw ht hf hx]

end Read

/-- A read of the first word of a SEC_MEAS register latches the other three. -/
theorem State.read64_secMeas_first (s : State) (i : Nat) : ∃ m, s.read64 (.secMeas i 0) =
    (s.view (.secMeas i 0), { s with wide := m }) ∧
    ∀ j, 1 ≤ j → j ≤ 3 → mfind m (Reg.secMeas i j).addr = some (s.view (.secMeas i j)) := by
  refine ⟨_, if_pos rfl, fun j lo hi => ?_⟩
  have apart {j k : Nat} (h : j ≠ k) : (Reg.secMeas i j).addr ≠ (Reg.secMeas i k).addr := by
    simp only [Reg.addr]; omega
  simp only [List.foldl]
  have words : j = 1 ∨ j = 2 ∨ j = 3 := by omega
  rcases words with rfl | rfl | rfl
  · rw [mfind_minsert_other (apart (by decide)), mfind_minsert_other (apart (by decide)), mfind_minsert_same]
  · rw [mfind_minsert_other (apart (by decide)), mfind_minsert_same]
  · rw [mfind_minsert_same]

/-- A latched word is returned once (log entry 6). -/
theorem State.read64_secMeas_latched {s : State} {i j x : Nat} (hj : 1 ≤ j)
    (hx : mfind s.wide (Reg.secMeas i j).addr = some x) : s.read64 (.secMeas i j) =
      (x, { s with wide := merase (Reg.secMeas i j).addr s.wide }) := by
  have word : Reg.secMeas i j ≠ .secMeas i 0 := by
    intro h; injection h; omega
  simp only [State.read64, wideOf, if_neg word, hx]

theorem State.read64_fqCrgrant (s : State) (e q : Nat) : s.read64 (.fqCrgrant e q) =
    ((mget (fun _ => ({} : FetchQ)) (s.eng e).fqs q).granted,
      s.modFq e q fun f => { f with lret := some f.ret, lout := some (f.granted - f.ret) }) := by
  rw [← s.view_fqCrgrant]; rfl

theorem State.read64_fqCrret (s : State) (e q : Nat) : s.read64 (.fqCrret e q) =
    ((mget (fun _ => ({} : FetchQ)) (s.eng e).fqs q).lret.getD (mget (fun _ => ({} : FetchQ)) (s.eng e).fqs q).ret,
      s.modFq e q fun f => { f with lret := none }) := by
  rw [← s.view_fqCrret]; rfl

/-! ### A write by a master -/

theorem le_lt (bs : List Byte) : le bs < 2 ^ (8 * bs.length) := by
  induction bs with
  | nil => exact Nat.one_pos
  | cons b t ih =>
    have byte := b.isLt
    simp only [le, List.length_cons, Nat.mul_add, Nat.pow_add]
    omega

theorem fieldAt_all_lt (d : List Byte) : fieldAt d 0 d.length < 2 ^ (8 * d.length) := by
  rw [fieldAt, List.drop_zero, List.take_length]
  exact le_lt d

/-- The world of a master that the register bridge knows, but for the debug port, is that of its endpoint. -/
theorem epWorld_of_masterEp {s : State} {off : Nat} {m : Master} {ep : Endpoint} (he : s.masterEp off m = some ep)
    (hd : ∀ l, m ≠ .debug l) : epWorld ep (masterWorld m) = masterWorld m := by
  cases m with
  | debug l => exact absurd rfl (hd l)
  | sec | pmc | hcMachine | hcUser => cases he; rfl
  | _ => cases he

/-- An application core is an endpoint only while one runs. -/
theorem State.hcRunning_of_masterEp {s : State} {off : Nat} {m : Master} (he : s.masterEp off m = some .hc)
    (hm : s.mayAccess m = true) (hd : ∀ l, m ≠ .debug l) : s.hcRunning = true := by
  cases m with
  | debug l => exact absurd rfl (hd l)
  | hcMachine | hcUser => exact hm
  | _ => cases he

theorem remoteWrite_registerWrite {s t : State} {m : Master} {va : BitVec 48} {off : Nat} {ep : Endpoint} {d : List Byte}
    (ctx : BitVec 12) (hm : s.mayAccess m = true) (hreg : regionOf (va.toNat % 2 ^ 44) = .regs off)
    (he : s.masterEp off m = some ep) (hh : s.held = false) (hd : ∀ l, m ≠ .debug l) (hlen : d.length = 4 ∨ d.length = 8)
    (hw : exec (.registerWrite (masterWorld m) ep (BitVec.ofNat 44 va.toNat) (8 * d.length)
      (BitVec.ofNat 64 (fieldAt d 0 d.length))) s = .next t) :
    exec (.remoteAccess m ctx va (.write d)) s = .next (t.answer (.ok [])) := by
  obtain ⟨place, inside⟩ := regionOf_regs hreg
  have small : fieldAt d 0 d.length < 2 ^ (8 * d.length) := fieldAt_all_lt d
  have addr : (BitVec.ofNat 44 va.toNat).toNat = regsBase + off := by rw [BitVec.toNat_ofNat]; exact place
  have value : (BitVec.ofNat 64 (fieldAt d 0 d.length)).toNat % 2 ^ min (8 * d.length) 64 = fieldAt d 0 d.length := by
    rw [BitVec.toNat_ofNat]
    rcases hlen with h | h <;> rw [h] at small ⊢ <;> norm_num at small ⊢ <;> omega
  rw [execRegisterWrite_bus _ hh (fun h => absurd h (State.masterEp_ne_host he))
    (fun h => State.hcRunning_of_masterEp (h ▸ he) hm hd) inside addr, value, epWorld_of_masterEp he hd] at hw
  rw [execRemoteAccess_write ctx hm hreg he, State.masterWrite, hw]

/-! ### The obligation -/

/-- Settles O43: a write goes by the fields' access types, locks, or the register's own effect, and a read or write by a
master is the register bridge's. -/
theorem registerAccesses : Obligations.RegisterAccesses := by
  unfold Obligations.RegisterAccesses
  refine ⟨fun s w ep a n v => ⟨fun h => if_pos h, fun hh hl hc => ⟨?_, ?_, ?_⟩⟩, fun s m ctx va off => ⟨?_, ?_⟩⟩
  · rintro r hr haddr hal rfl
    refine ⟨fun hp => ⟨fun hk => ?_, fun hk hadm => ?_, fun hk href => ?_⟩, fun hen hadm => ?_, fun e _ hcount hadm => ?_,
      fun hbo hadm => ?_, fun htherm hadm => ?_⟩
    · exact registerWrite_locked hh hl hc hr haddr hal hp hk v
    · exact registerWrite_plain hh hl hc hr haddr hal hp hk hadm v
    · exact ⟨_, registerWrite_refused hh hl hc hr haddr hal hp hk href v, s.onlyRegs_violation _ _,
        s.rget_secViol_violation _ _, s.rget_secVlog_violation _⟩
    · rcases hen with ⟨p, rfl⟩ | ⟨p, rfl⟩ | ⟨p, rfl⟩
      · exact registerWrite_enabled hh hl hc hr haddr hal (Reg.enabled_ethCfg p) (live := fun _ => false)
          (fun _ _ => rfl) (by simp) (by simp) (fun _ => rfl) hadm v
      · exact registerWrite_enabled hh hl hc hr haddr hal (Reg.enabled_csiPortCfg p) (live := fun _ => false)
          (fun _ _ => rfl) (by simp) (by simp) (fun _ => rfl) hadm v
      · exact registerWrite_enabled hh hl hc hr haddr hal (Reg.enabled_usbEpCfg p) (live := fun lo => lo == 30)
          (by simp) (by simp) (by simp) (fun _ => rfl) hadm v
    · exact registerWrite_counter hh hl hc hr haddr hal hcount hadm v
    · subst hbo
      exact registerWrite_ranges hh hl hc hr haddr hal (by decide) (by decide) (by decide) rfl
        (fun _ => by rw [writeReg_pmcBoCfg]; simp only [State.regEffect_pmcBoCfg]) hadm v
    · subst htherm
      exact registerWrite_ranges hh hl hc hr haddr hal (by decide) (by decide) (by decide) rfl
        (fun _ => by rw [writeReg_pmcThermCfg]; simp only [State.regEffect_pmcThermCfg]) hadm v
  · rintro haddr rfl
    exact registerWrite_cpqInit hh hl hc haddr v
  · rintro k haddr rfl
    exact registerWrite_mbxPush hh hl hc haddr v
  · intro hm a
    exact if_pos hm
  · intro ep hm hreg he
    refine ⟨?_, ?_⟩
    · rintro r hr rfl ha hp hd
      refine ⟨fun ho => ⟨?_, ?_, ?_, ?_⟩, fun ho => ?_⟩
      · exact fun ht hw hf hx => remoteRead_plain hm hreg he hr ha hp hd ho hw ht hf hx
      · rintro i rfl
        obtain ⟨wide, read, latched⟩ := s.read64_secMeas_first i
        refine ⟨_, remoteRead_64 hm hreg he hr ha hp hd ho rfl, ?_⟩
        rw [read]
        exact ⟨rfl, latched⟩
      · rintro i j x rfl hj hx
        rw [remoteRead_64 hm hreg he hr ha hp hd ho rfl, State.read64_secMeas_latched hj hx]
        rfl
      · rintro e q f - rfl
        refine ⟨?_, ?_⟩
        · rintro rfl
          refine ⟨_, remoteRead_64 hm hreg he hr ha hp hd ho rfl, ?_⟩
          rw [State.read64_fqCrgrant]
          refine ⟨rfl, ?_, ?_⟩
          · rw [State.view_fqCrret, State.eng_answer_ok, State.eng_modFq_same]; rfl
          · rw [State.view_fqCrout, State.eng_answer_ok, State.eng_modFq_same]; rfl
        · rintro x rfl hx
          refine ⟨_, remoteRead_64 hm hreg he hr ha hp hd ho rfl, ?_⟩
          rw [State.read64_fqCrret, hx]
          refine ⟨rfl, ?_⟩
          rw [State.view_fqCrret, State.eng_answer_ok, State.eng_modFq_same]; rfl
      · exact ⟨_, remoteRead_refused hm hreg he hr ha hp hd ho,
          State.answer_onlyRegs (s.onlyRegs_violation _ _) _, (s.onlyRegs_violation _ _).2,
          s.rget_secViol_violation _ _⟩
    · rintro d w t hh hd rfl hlen hw
      exact remoteWrite_registerWrite ctx hm hreg he hh hd hlen hw

end Sys2Proof.Machine

/-! SUPPORT. What the invariants of R31 say of a part of the state, and what a command keeps of them. -/
namespace Sys2Proof.Machine

open Sys2Proof

-- one proof after the other: a thread for each would need too much memory
set_option Elab.async false

/-! ### The invariants of a part of the state -/

/-- The credits of one fetch queue are in order (R219). -/
def FetchQ.creditsOk (f : FetchQ) : Prop := f.granted = f.ret + f.ents.length ∧ f.ents.length ≤ f.entries

/-- What the allocation procedure rests on for one engine (R391). -/
def Engine.powerOk (x : Engine) : Prop := (x.task = none → x.alloc = 0) ∧ ∀ a, x.fall = some a → a ≤ x.alloc

/-- The queue `g` that takes the place of `f` keeps the credits in order, and no credit that was returned is taken back. -/
def FetchQ.Keeps (f g : FetchQ) : Prop := (f.creditsOk → g.creditsOk) ∧ f.ret ≤ g.ret

/-- The engine `y` that takes the place of `x` keeps what the invariants say of one engine: its credits, its
allocation, which does not rise, and the idle state by which its domains draw power; a command that runs goes on or ends. -/
structure Engine.Keeps (x y : Engine) : Prop where
  fq : ∀ q, (x.fq q).Keeps (y.fq q)
  run : x.run ≠ .idle → y.run ≠ .idle
  idle : y.idle = x.idle
  power : x.powerOk → y.powerOk
  alloc : x.powerOk → y.alloc ≤ x.alloc

/-- What `t`, which follows from `r` within one command, keeps of the invariants; the fixed part of the power sum
stays as it is. -/
structure Keeps (r t : State) : Prop where
  mem : Memory.wf r.mem → Memory.wf t.mem
  credits : r.creditsOk → t.creditsOk
  rings : r.ringsOk → t.ringsOk
  power : r.powerOk → t.powerOk
  fixed : t.fixedPart = r.fixedPart

variable {r s t : State}

theorem Keeps.refl (s : State) : Keeps s s := ⟨id, id, id, id, rfl⟩

theorem Keeps.trans (h : Keeps r s) (g : Keeps s t) : Keeps r t :=
  ⟨g.mem ∘ h.mem, g.credits ∘ h.credits, g.rings ∘ h.rings, g.power ∘ h.power, g.fixed.trans h.fixed⟩

/-- What the power sum and the fixed part read of the PMC. -/
def Pmc.budget (p : Pmc) : Nat × Nat × Nat × SMap Nat × Bool × Bool :=
  (p.effcap, p.allocRt, p.allocMem, p.temps, p.pdHc, p.pdMedia)

/-- `t` has the engines, the rings and the power budget of `s`, and memory in canonical form where `s` has it. -/
structure Calm (s t : State) : Prop where
  mem : Memory.wf s.mem → Memory.wf t.mem
  engines : t.engines = s.engines
  snaps : t.snaps = s.snaps
  rings : t.rings = s.rings
  budget : t.pmc.budget = s.pmc.budget

theorem Calm.refl (s : State) : Calm s s := ⟨id, rfl, rfl, rfl, rfl⟩

theorem Calm.rfl : Calm s s := .refl s

theorem Calm.trans (h : Calm r s) (g : Calm s t) : Calm r t :=
  ⟨g.mem ∘ h.mem, g.engines.trans h.engines, g.snaps.trans h.snaps, g.rings.trans h.rings, g.budget.trans h.budget⟩

theorem Calm.eng (h : Calm s t) (e : Nat) : t.eng e = s.eng e := by rw [State.eng, State.eng, h.engines]

theorem Calm.ring (h : Calm s t) (i : Nat) : t.ring i = s.ring i := by rw [State.ring, State.ring, h.rings]

theorem Calm.ite {c : Prop} [Decidable c] {s t : State} (hs : Calm r s) (ht : Calm r t) : Calm r (if c then s else t) := by
  split
  · exact hs
  · exact ht

theorem Calm.iteP {α : Type} {c : Prop} [Decidable c] {p q : α × State} (hp : Calm r p.2) (hq : Calm r q.2) :
    Calm r (if c then p else q).2 := by
  split
  · exact hp
  · exact hq

theorem Calm.of_eq {α : Type} {p : α × State} {a : α} (h : Calm r p.2) (e : p = (a, t)) : Calm r t := by
  subst e
  exact h

theorem Calm.foldl {α : Type} {f : State → α → State} (h : Calm r s) (l : List α) (hf : ∀ t a, Calm r t → Calm r (f t a)) :
    Calm r (l.foldl f s) := by
  induction l generalizing s with
  | nil => exact h
  | cons a l ih => exact ih (hf s a h)

/-- An update of other fields. -/
theorem Calm.frame (h : Calm r s) {pending regs wide fuse free standalone refclk held testHeld ready flrBusy stage
    lastRst fatal suspended tripped rootLock ddrLock sdLock clock servo ecc gesso slc ddr pmt pmtOp sqs cqs cmds commitQ rrCp
    images fences waits probe mbx sdmas sources ipps codecs encs line chans canRx sec flash pcie usb usbOut cores irqs resp} :
    Calm r { s with
      pending := pending, regs := regs, wide := wide, fuse := fuse, free := free, standalone := standalone, refclk := refclk
      held := held, testHeld := testHeld, ready := ready, flrBusy := flrBusy, stage := stage, lastRst := lastRst
      fatal := fatal
      suspended := suspended, tripped := tripped, rootLock := rootLock, ddrLock := ddrLock, sdLock := sdLock, clock := clock
      servo := servo, ecc := ecc, gesso := gesso, slc := slc, ddr := ddr, pmt := pmt, pmtOp := pmtOp, sqs := sqs, cqs := cqs
      cmds := cmds, commitQ := commitQ, rrCp := rrCp, images := images, fences := fences, waits := waits, probe := probe
      mbx := mbx, sdmas := sdmas, sources := sources, ipps := ipps, codecs := codecs, encs := encs, line := line
      chans := chans
      canRx := canRx, sec := sec, flash := flash, pcie := pcie, usb := usb, usbOut := usbOut, cores := cores, irqs := irqs
      resp := resp } :=
  ⟨h.mem, h.engines, h.snaps, h.rings, h.budget⟩

/-- An update of the PMC that leaves its budget alone. -/
theorem Calm.pmc {p : Pmc} (h : Calm r s) (hp : p.budget = s.pmc.budget := by rfl) : Calm r { s with pmc := p } :=
  ⟨h.mem, h.engines, h.snaps, h.rings, hp.trans h.budget⟩

theorem Calm.setBytes (h : Calm r s) {a : Nat} {bs : List Byte} : Calm r (s.setBytes a bs) :=
  ⟨fun hr => s.setBytes_wf a bs (h.mem hr), h.engines, h.snaps, h.rings, h.budget⟩

theorem Calm.setByte (h : Calm r s) {a : Nat} {b : Byte} : Calm r (s.setByte a b) :=
  ⟨fun hr => s.setByte_wf a b (h.mem hr), h.engines, h.snaps, h.rings, h.budget⟩

theorem Calm.zeroFill (h : Calm r s) {a n : Nat} : Calm r (s.zeroFill a n) :=
  ⟨fun hr => Memory.wf_filter (h.mem hr) _, h.engines, h.snaps, h.rings, h.budget⟩

theorem Keeps.ite {c : Prop} [Decidable c] {s t : State} (hs : Keeps r s) (ht : Keeps r t) :
    Keeps r (if c then s else t) := by
  split
  · exact hs
  · exact ht

theorem Keeps.iteP {α : Type} {c : Prop} [Decidable c] {p q : α × State} (hp : Keeps r p.2) (hq : Keeps r q.2) :
    Keeps r (if c then p else q).2 := by
  split
  · exact hp
  · exact hq

theorem Keeps.iteF {α : Type} {c : Prop} [Decidable c] {p q : State × α} (hp : Keeps r p.1) (hq : Keeps r q.1) :
    Keeps r (if c then p else q).1 := by
  split
  · exact hp
  · exact hq

theorem Keeps.of_eq {α : Type} {p : α × State} {a : α} (h : Keeps r p.2) (e : p = (a, t)) : Keeps r t := by
  subst e
  exact h

theorem Keeps.foldl {α : Type} {f : State → α → State} (h : Keeps r s) (l : List α)
    (hf : ∀ t a, Keeps r t → Keeps r (f t a)) :
    Keeps r (l.foldl f s) := by
  induction l generalizing s with
  | nil => exact h
  | cons a l ih => exact ih (hf s a h)

/-! ### Engines -/

theorem FetchQ.Keeps.refl (f : FetchQ) : f.Keeps f := ⟨id, Nat.le_refl _⟩

theorem FetchQ.Keeps.trans {f g k : FetchQ} (h : f.Keeps g) (h' : g.Keeps k) : f.Keeps k :=
  ⟨h'.1 ∘ h.1, Nat.le_trans h.2 h'.2⟩

theorem Engine.Keeps.refl (x : Engine) : x.Keeps x := ⟨fun _ => .refl _, id, rfl, id, fun _ => Nat.le_refl _⟩

theorem Engine.Keeps.trans {x y z : Engine} (h : x.Keeps y) (g : y.Keeps z) : x.Keeps z :=
  ⟨fun q => (h.fq q).trans (g.fq q), g.run ∘ h.run, g.idle.trans h.idle, g.power ∘ h.power,
    fun hx => Nat.le_trans (g.alloc (h.power hx)) (h.alloc hx)⟩

theorem Engine.Keeps.ite {c : Prop} [Decidable c] {x y z : Engine} (hy : x.Keeps y) (hz : x.Keeps z) :
    x.Keeps (if c then y else z) := by
  split
  · exact hy
  · exact hz

/-- An update of an engine that leaves its queues, its command's allocation and its idle state alone. -/
theorem Engine.Keeps.frame {x y z : Engine} (h : x.Keeps y) (fqs : z.fqs = y.fqs := by rfl)
    (task : z.task = y.task := by rfl) (fall : z.fall = y.fall := by rfl) (alloc : z.alloc = y.alloc := by rfl)
    (idle : z.idle = y.idle := by rfl) (run : y.run ≠ .idle → z.run ≠ .idle := by exact id) : x.Keeps z := by
  refine h.trans ⟨fun q => ?_, run, idle, fun hy => ?_, fun _ => Nat.le_of_eq alloc⟩
  · rw [Engine.fq, Engine.fq, fqs]; exact .refl _
  · rwa [Engine.powerOk, task, fall, alloc]

theorem Engine.fq_minsert_same (x : Engine) (q : Nat) (f : FetchQ) : ({ x with fqs := minsert q f x.fqs } : Engine).fq q
    = f :=
  mget_minsert_same _ _ _ _

theorem Engine.fq_minsert_other (x : Engine) {q p : Nat} (h : p ≠ q) (f : FetchQ) :
    ({ x with fqs := minsert q f x.fqs } : Engine).fq p = x.fq p := mget_minsert_other _ h _ _

/-- One queue of an engine changes. -/
theorem Engine.Keeps.setFq {x y : Engine} (h : x.Keeps y) {q : Nat} {f : FetchQ} (hf : (y.fq q).Keeps f) :
    x.Keeps { y with fqs := minsert q f y.fqs } := by
  refine h.trans ⟨fun p => ?_, id, rfl, id, fun _ => Nat.le_refl _⟩
  by_cases hp : p = q
  · subst hp; rwa [Engine.fq_minsert_same]
  · rw [Engine.fq_minsert_other _ hp]; exact .refl _

theorem State.eng_setEng (s : State) (e f : Nat) (y : Engine) : (s.setEng e y).eng f = if f = e then y else s.eng f := by
  split
  · next h => rw [h, State.eng_setEng_same]
  · next h => rw [State.eng_setEng_other s h]

/-- The fixed part depends on the engines by their idle states alone. -/
theorem State.fixedPart_congr {s t : State} (hp : t.pmc.budget = s.pmc.budget) (hi : ∀ e, (t.eng e).idle = (s.eng e).idle) :
    t.fixedPart = s.fixedPart := by
  simp only [Pmc.budget, Prod.mk.injEq] at hp
  obtain ⟨-, -, -, temps, hc, media⟩ := hp
  simp only [State.fixedPart, State.temp, temps, hc, media, hi]

/-- Allocations that do not rise have no greater sum. -/
theorem State.allocSum_le {s t : State} (hp : t.pmc.budget = s.pmc.budget)
    (ha : ∀ e, e < 6 → (t.eng e).alloc ≤ (s.eng e).alloc) :
    t.allocSum ≤ s.allocSum := by
  simp only [Pmc.budget, Prod.mk.injEq] at hp
  obtain ⟨-, rt, mem, -⟩ := hp
  have eng : ((List.range 6).map fun e => (t.eng e).alloc).sum ≤ ((List.range 6).map fun e => (s.eng e).alloc).sum :=
    List.sum_le_sum fun e he => ha e (List.mem_range.mp he)
  rw [State.allocSum, State.allocSum, rt, mem]
  omega

/-- States that differ in their engines alone, each of which keeps the invariants. -/
theorem Keeps.engines (h : Keeps r s) (ht : t = { s with engines := t.engines }) (he : ∀ e, (s.eng e).Keeps (t.eng e)) :
    Keeps r t := by
  have mem : t.mem = s.mem := by rw [ht]
  have snaps : t.snaps = s.snaps := by rw [ht]
  have ring : t.ring = s.ring := by rw [ht]; rfl
  have pmc : t.pmc = s.pmc := by rw [ht]
  have fixed : t.fixedPart = s.fixedPart := State.fixedPart_congr (by rw [pmc]) fun e => (he e).idle
  refine ⟨fun hr => mem ▸ h.mem hr, fun hr => ?_, fun hr => ?_, fun hr => ?_, fixed.trans h.fixed⟩
  · obtain ⟨queues, pops⟩ := h.credits hr
    refine ⟨fun e q => ((he e).fq q).1 (queues e q), fun e p q c hp hc => ?_⟩
    obtain ⟨returned, runs⟩ := pops e p q c (snaps ▸ hp) hc
    exact ⟨Nat.le_trans returned ((he e).fq q).2, (he e).run runs⟩
  · obtain ⟨rings, saved⟩ := h.rings hr
    exact ⟨ring ▸ rings, snaps ▸ saved⟩
  · obtain ⟨sum, eng⟩ := h.power hr
    have alloc : t.allocSum ≤ s.allocSum := State.allocSum_le (by rw [pmc]) fun e le => (he e).alloc (eng e le)
    exact ⟨by rw [fixed, pmc]; omega, fun e le => (he e).power (eng e le)⟩

/-- A state that is calm against one that keeps the invariants keeps them. -/
theorem Keeps.calm (h : Keeps r s) (c : Calm s t) : Keeps r t := by
  have fixed : t.fixedPart = s.fixedPart := State.fixedPart_congr c.budget fun e => by rw [c.eng]
  refine ⟨c.mem ∘ h.mem, fun hr => ?_, fun hr => ?_, fun hr => ?_, fixed.trans h.fixed⟩
  · simpa only [State.creditsOk, c.eng, c.snaps] using h.credits hr
  · simpa only [State.ringsOk, c.ring, c.snaps] using h.rings hr
  · obtain ⟨sum, eng⟩ := h.power hr
    have alloc : t.allocSum ≤ s.allocSum := State.allocSum_le c.budget fun e _ => by rw [c.eng]
    have cap : t.pmc.effcap = s.pmc.effcap := congrArg Prod.fst c.budget
    exact ⟨by rw [fixed, cap]; omega, fun e le => by simpa only [c.eng] using eng e le⟩

theorem Keeps.frame (h : Keeps r s) {pending regs wide fuse free standalone refclk held testHeld ready flrBusy stage
    lastRst fatal suspended tripped rootLock ddrLock sdLock clock servo ecc gesso slc ddr pmt pmtOp sqs cqs cmds commitQ rrCp
    images fences waits probe mbx sdmas sources ipps codecs encs line chans canRx sec flash pcie usb usbOut cores irqs resp} :
    Keeps r { s with
      pending := pending, regs := regs, wide := wide, fuse := fuse, free := free, standalone := standalone, refclk := refclk
      held := held, testHeld := testHeld, ready := ready, flrBusy := flrBusy, stage := stage, lastRst := lastRst
      fatal := fatal
      suspended := suspended, tripped := tripped, rootLock := rootLock, ddrLock := ddrLock, sdLock := sdLock, clock := clock
      servo := servo, ecc := ecc, gesso := gesso, slc := slc, ddr := ddr, pmt := pmt, pmtOp := pmtOp, sqs := sqs, cqs := cqs
      cmds := cmds, commitQ := commitQ, rrCp := rrCp, images := images, fences := fences, waits := waits, probe := probe
      mbx := mbx, sdmas := sdmas, sources := sources, ipps := ipps, codecs := codecs, encs := encs, line := line
      chans := chans
      canRx := canRx, sec := sec, flash := flash, pcie := pcie, usb := usb, usbOut := usbOut, cores := cores, irqs := irqs
      resp := resp } := h.calm Calm.rfl.frame

theorem Keeps.pmc {p : Pmc} (h : Keeps r s) (hp : p.budget = s.pmc.budget := by rfl) : Keeps r { s with pmc := p } :=
    h.calm (Calm.rfl.pmc hp)

theorem Keeps.setEng (h : Keeps r s) {e : Nat} {y : Engine} (hy : (s.eng e).Keeps y) : Keeps r (s.setEng e y) := by
  refine h.engines rfl fun f => ?_
  rw [State.eng_setEng]
  split
  · next same => exact same ▸ hy
  · exact .refl _

theorem Keeps.modEng (h : Keeps r s) {e : Nat} {f : Engine → Engine} (hf : (s.eng e).Keeps (f (s.eng e))) :
    Keeps r (s.modEng e f) := h.setEng hf

/-! ### Rings -/

theorem State.ring_setRing (s : State) (i j : Nat) (x : Ring) : (s.setRing i x).ring j = if j = i then x else s.ring j := by
  simp only [State.ring, State.setRing]
  split
  · next h => rw [h, mget_minsert_same]
  · next h => rw [mget_minsert_other _ h]

/-- A ring changes to one whose slots are in order. -/
theorem Keeps.putRing (h : Keeps r s) {i : Nat} {x : Ring} (hx : s.ringsOk → x.slotsOk) : Keeps r (s.setRing i x) := by
  refine ⟨h.mem, h.credits, fun hr => ⟨fun j => ?_, (h.rings hr).2⟩, h.power, h.fixed⟩
  rw [State.ring_setRing]
  split
  · exact hx (h.rings hr)
  · exact (h.rings hr).1 j

theorem Keeps.setRing (h : Keeps r s) {i : Nat} {x : Ring} (hx : (s.ring i).slotsOk → x.slotsOk) : Keeps r
    (s.setRing i x) :=
  h.putRing fun hs => hx (hs.1 i)

/-- An update of a ring that leaves its slots alone, or takes the producer's away. -/
theorem Ring.slotsOk.frame {x y : Ring} (h : x.slotsOk) (pub : y.pub = x.pub := by rfl) (pseq : y.pseq = x.pseq := by rfl)
    (prod : y.prod = x.prod ∨ y.prod = none := by exact .inl rfl) : y.slotsOk := by
  obtain ⟨once, order, below, apart⟩ := h
  refine ⟨pub ▸ once, pub ▸ order, by rwa [pub, pseq], fun k hk => ?_⟩
  obtain same | none := prod
  · exact pub ▸ apart k (same ▸ hk)
  · exact absurd hk (none ▸ nofun)

theorem Ring.slotsOk_empty {x : Ring} (pub : x.pub = []) (prod : x.prod = none) : x.slotsOk := by
  rw [Ring.slotsOk, pub, prod]
  exact ⟨List.nodup_nil, .nil, nofun, nofun⟩

theorem Ring.slotsOk.filter {x : Ring} (h : x.slotsOk) (keep : PubSlot → Bool) {n : Nat} :
    ({ x with pub := x.pub.filter keep, fseq := n } : Ring).slotsOk := by
  obtain ⟨once, order, below, apart⟩ := h
  exact ⟨once.sublist (List.filter_sublist.map _), order.filter _, fun p hp => below p (List.mem_filter.mp hp).1,
    fun k hk p hp => apart k hk p (List.mem_filter.mp hp).1⟩

/-- The slot a producer takes is free. -/
theorem Ring.slotsOk.acquire {x : Ring} (h : x.slotsOk) {i : Nat} {k : Holder} (free : x.free i = true) :
    ({ x with prod := some ⟨i, k⟩ } : Ring).slotsOk := by
  obtain ⟨once, order, below, -⟩ := h
  refine ⟨once, order, below, fun _ hk p hp same => ?_⟩
  cases hk
  simp only [Ring.free, Bool.and_eq_true, Bool.not_eq_true', List.any_eq_false, beq_iff_eq] at free
  exact free.1 p hp same

/-- A slot is published behind those published before it. -/
theorem Ring.slotsOk.publish {x : Ring} (h : x.slotsOk) {k : HeldSlot} (prod : x.prod = some k) {l : List Nat} :
    ({ x with prod := none, pub := x.pub ++ [⟨k.slot, x.pseq⟩], pseq := x.pseq + 1, pubT := l } : Ring).slotsOk := by
  obtain ⟨once, order, below, apart⟩ := h
  refine ⟨?_, ?_, fun p hp => ?_, nofun⟩
  · rw [List.map_append, List.nodup_append]
    refine ⟨once, List.nodup_singleton _, fun a ha b hb => ?_⟩
    obtain ⟨p, hp, rfl⟩ := List.mem_map.mp ha
    obtain rfl := List.mem_singleton.mp hb
    exact apart k prod p hp
  · refine List.pairwise_append.mpr ⟨order, List.pairwise_singleton _ _, fun p hp q hq => ?_⟩
    obtain rfl := List.mem_singleton.mp hq
    exact below p hp
  · obtain hp | hp := List.mem_append.mp hp
    · exact Nat.lt_succ_of_lt (below p hp)
    · obtain rfl := List.mem_singleton.mp hp
      exact Nat.lt_succ_self _

/-! ### Commands -/

/-- Where a command answers with a next state, that state has a property. -/
def Yields (P : State → Prop) (x : Host.Outcome State Fault Refusal) : Prop := ∀ t, x = .next t → P t

theorem Keeps.next (h : Keeps r s) : Yields (Keeps r) (.next s) := by
  intro t e
  cases e
  exact h

theorem Keeps.wfOr (h : Keeps r s) {ok : Bool} : Yields (Keeps r) (wfOr ok s) := by
  intro t e
  unfold Machine.wfOr at e
  split at e
  · cases e; exact h
  · cases e

theorem Yields.fault {P : State → Prop} {f : Fault} : Yields P (.fault f) := fun _ e => by contradiction

/-- Where the boot chain goes on or stops, the state it leaves has a property. -/
def Boots (P : State → Prop) : Except BootStop (State × Booted) → Prop
  | .ok p => P p.1
  | .error x => P x.st

theorem Boots.done {P : State → Prop} {b : Booted} (h : P s) : Boots P (.ok (s, b)) := h

theorem Boots.stop {P : State → Prop} {n m : Nat} (h : P s) : Boots P (.error ⟨n, m, s⟩) := h

theorem Boots.ite {P : State → Prop} {c : Prop} [Decidable c] {x y : Except BootStop (State × Booted)} (hx : Boots P x)
    (hy : Boots P y) : Boots P (if c then x else y) := by
  split
  · exact hx
  · exact hy

end Sys2Proof.Machine

/-! SUPPORT. What single engines, their queues and saved contexts keep. -/
namespace Sys2Proof.Machine

open Sys2Proof

-- one proof after the other: a thread for each would need too much memory
set_option Elab.async false

/-! ### Fetch queues -/

/-- An update of a queue that leaves its entries and its counts alone. -/
theorem FetchQ.Keeps.frame {f g k : FetchQ} (h : f.Keeps g) (granted : k.granted = g.granted := by rfl)
    (ret : k.ret = g.ret := by rfl) (ents : k.ents.length = g.ents.length := by rfl)
    (entries : k.entries = g.entries := by rfl) : f.Keeps k :=
  h.trans ⟨fun hg => by rwa [FetchQ.creditsOk, granted, ret, ents, entries], Nat.le_of_eq ret.symm⟩

/-- A queue that has a credit takes it for a new entry. -/
theorem FetchQ.Keeps.grant {f g k : FetchQ} (h : f.Keeps g) (room : g.ents.length < g.entries)
    (granted : k.granted = g.granted + 1 := by rfl) (ret : k.ret = g.ret := by rfl)
    (ents : k.ents.length = g.ents.length + 1 := by simp) (entries : k.entries = g.entries := by rfl) : f.Keeps k := by
  refine h.trans ⟨fun ⟨sum, _⟩ => ?_, Nat.le_of_eq ret.symm⟩
  rw [FetchQ.creditsOk, granted, ret, ents, entries]
  omega

/-- Entries that a queue loses are returned. -/
theorem FetchQ.Keeps.return {f g k : FetchQ} (h : f.Keeps g) (fewer : k.ents.length ≤ g.ents.length)
    (ret : k.ret = g.ret + (g.ents.length - k.ents.length) := by rfl) (granted : k.granted = g.granted := by rfl)
    (entries : k.entries = g.entries := by rfl) : f.Keeps k := by
  refine h.trans ⟨fun ⟨sum, most⟩ => ?_, by omega⟩
  rw [FetchQ.creditsOk, granted, entries]
  omega

theorem FetchQ.Keeps.settle {f g : FetchQ} (h : f.Keeps g) : f.Keeps g.settle := by
  unfold FetchQ.settle
  split
  · split
    · next credit => exact h.grant (by simpa [FetchQ.credit] using credit)
    · exact h
  · exact h

theorem FetchQ.Keeps.cancel {f g : FetchQ} (h : f.Keeps g) : f.Keeps g.cancel.1 := by
  unfold FetchQ.cancel
  split
  · exact h.return (List.length_filterMap_le _ _)
  · exact h

theorem answerEnt_length_eq {f : FqEnt → List FqEnt} (hf : ∀ c, (f c).length = 1) (l : List FqEnt) :
    (answerEnt f l).length = l.length := by
  induction l with
  | nil => rfl
  | cons c l ih =>
    unfold answerEnt
    split
    · rw [List.length_cons, ih, List.length_cons]
    · rw [List.length_append, hf, List.length_cons, Nat.add_comm]

theorem answerEnt_length_le {f : FqEnt → List FqEnt} (hf : ∀ c, (f c).length ≤ 1) (l : List FqEnt) :
    (answerEnt f l).length ≤ l.length := by
  induction l with
  | nil => exact Nat.le_refl _
  | cons c l ih =>
    unfold answerEnt
    split
    · exact Nat.succ_le_succ ih
    · have := hf c
      rw [List.length_append, List.length_cons]
      omega

theorem FetchQ.Keeps.readFail {f g : FetchQ} {c : FqEnt} {a : AccErr} (h : f.Keeps g) : f.Keeps (g.readFail c a) :=
  h.frame (ents := by
    unfold FetchQ.readFail
    rw [List.length_map, answerEnt_length_eq fun _ => by rfl])

theorem Engine.beginOf_credit {x : Engine} {q : Nat} {p : List (Nat × Nat) × List (Nat × Nat) × CurFetch}
    (h : x.beginOf q = some p) : (x.fq q).ents.length < (x.fq q).entries := by
  unfold Engine.beginOf at h
  dsimp only at h
  split at h
  · contradiction
  · split at h
    · next credit => simpa [FetchQ.credit] using credit
    · contradiction

theorem issueEnts_length (room : Nat) (l : List FqEnt) : (issueEnts room l).2.length = l.length := by
  induction l generalizing room with
  | nil => rfl
  | cons c l ih => exact congrArg (· + 1) (ih _)

/-! ### Engine operations -/

/-- An update of an engine that goes on or ends, and leaves its queues, its allocation and its idle state alone. -/
theorem Engine.Keeps.runs {x y z : Engine} (h : x.Keeps y) (run : z.run ≠ .idle) (fqs : z.fqs = y.fqs := by rfl)
    (task : z.task = y.task := by rfl) (fall : z.fall = y.fall := by rfl) (alloc : z.alloc = y.alloc := by rfl)
    (idle : z.idle = y.idle := by rfl) : x.Keeps z := h.frame fqs task fall alloc idle fun _ => run

/-- An update of an engine that changes one of its queues. -/
theorem Engine.Keeps.queues {x y z : Engine} (h : x.Keeps y) {q : Nat} {f : FetchQ} (hf : (y.fq q).Keeps f)
    (fqs : z.fqs = minsert q f y.fqs := by rfl) (task : z.task = y.task := by rfl) (fall : z.fall = y.fall := by rfl)
    (alloc : z.alloc = y.alloc := by rfl) (idle : z.idle = y.idle := by rfl)
        (run : y.run ≠ .idle → z.run ≠ .idle := by exact id) :
    x.Keeps z := (h.setFq hf).frame fqs task fall alloc idle run

namespace Engine.Keeps

variable {o x y : Engine} (h : o.Keeps x)
include h

/-- One queue of an engine changes. -/
theorem queue {q : Nat} {f : FetchQ} (hf : (x.fq q).Keeps f) : o.Keeps { x with fqs := minsert q f x.fqs } := h.setFq hf

theorem put {lat d mask val} : o.Keeps (x.put lat d mask val) := .ite h h.frame

theorem putA {lat d mask val} : o.Keeps (x.putA lat d mask val) := .ite h h.frame

theorem putV {lat vd pr w base zm l} : o.Keeps (x.putV lat vd pr w base zm l) := h.put

theorem putP {lat pd pr zm v} : o.Keeps (x.putP lat pd pr zm v) := h.put

theorem setLate {f} : o.Keeps (x.setLate f) := h.frame

theorem rerank {f} : o.Keeps (x.rerank f) := h.frame

theorem start : o.Keeps x.start := h.frame

theorem land {p} : o.Keeps (x.land p) := by
  unfold Engine.land
  split <;> exact h.frame

theorem tock {iss} : o.Keeps (x.tock iss) := h.frame

theorem noteReads {rd} : o.Keeps (x.noteReads rd) := h.frame

theorem performRow {w} : o.Keeps (x.performRow w) := .ite h.setLate h.frame

theorem performRows : o.Keeps x.performRows := by
  have rows (l : List RowWrite) : ∀ {y : Engine}, o.Keeps y → o.Keeps (l.foldl Engine.performRow y) := by
    induction l with
    | nil => exact id
    | cons w l ih => exact fun hy => ih hy.performRow
  exact rows _ h.frame

theorem clearCtx : o.Keeps x.clearCtx := h.frame

theorem rest : o.Keeps x.rest := .ite h h.frame

theorem switch {n} : o.Keeps (x.switch n) := h.frame

theorem clockStep {mv n} : o.Keeps (x.clockStep mv n) := by
  refine .ite h (.ite h.frame (.ite h
      (.ite (h.switch (n := n)).frame (h.trans ⟨fun _ => .refl _, id, rfl, fun hx => ?_, fun hx => ?_⟩))))
  · obtain ⟨idle, lower⟩ := hx
    refine ⟨fun none => ?_, fun _ some => by contradiction⟩
    have alloc := idle none
    change x.fall.getD x.alloc = 0
    cases fall : x.fall with
    | none => exact alloc
    | some a => exact Nat.le_zero.mp (alloc ▸ lower a fall)
  · change x.fall.getD x.alloc ≤ x.alloc
    cases fall : x.fall with
    | none => exact Nat.le_refl _
    | some a => exact hx.2 a fall

theorem count {lpi os} : o.Keeps (x.count lpi os) := h.frame

theorem drained {ring row} : o.Keeps (x.drained ring row) := .ite h.frame h

theorem oweV {lat vd pos n val f} : o.Keeps (x.oweV lat vd pos n val f) := h.frame

theorem closeGuard {lpi} : o.Keeps (x.closeGuard lpi) := h.frame

theorem tagRows {op} : o.Keeps (x.tagRows op) := h.frame

theorem startCmm {p} : o.Keeps (x.startCmm p) := by
  cases p with
  | empty => exact h.frame
  | tags op => exact (h.tagRows (op := op)).frame
  | run op => exact (h.tagRows (op := op)).frame

theorem issueReads : o.Keeps x.issueReads := by
  unfold Engine.issueReads
  generalize 128 - x.readsOut = room
  generalize List.range 8 = l
  induction l generalizing x room with
  | nil => exact h
  | cons q l ih =>
    rw [List.foldl_cons]
    dsimp only
    split
    · exact ih h room
    · exact ih (h.queue ((FetchQ.Keeps.refl _).frame (ents := issueEnts_length _ _))) _

end Engine.Keeps

/-! ### An engine and its snapshot -/

/-- Engine `e` and its snapshot change together. -/
theorem Keeps.engineSnap {r s : State} (h : Keeps r s) {e : Nat} {y : Engine} {sn : SMap Snap}
    (snaps : ∀ f, f ≠ e → mfind sn f = mfind s.snaps f)
    (queues : s.creditsOk → ∀ q, (y.fq q).creditsOk)
    (pop : s.creditsOk → ∀ p q c, mfind sn e = some p → p.pop = some (q, c) → 1 ≤ (y.fq q).ret ∧ y.run ≠ .idle)
    (ring : s.ringsOk → ∀ p i x, mfind sn e = some p → p.ring = some (i, x) → x.slotsOk)
    (idle : y.idle = (s.eng e).idle) (power : (s.eng e).powerOk → y.powerOk)
    (alloc : (s.eng e).powerOk → y.alloc ≤ (s.eng e).alloc) : Keeps r { s.setEng e y with snaps := sn } := by
  have eng (f : Nat) : ({ s.setEng e y with snaps := sn } : State).eng f = if f = e then y else s.eng f := s.eng_setEng e
      f y
  have fixed : ({ s.setEng e y with snaps := sn } : State).fixedPart = s.fixedPart := by
    refine State.fixedPart_congr rfl fun f => ?_
    rw [eng]
    split
    · next same => rw [same, idle]
    · rfl
  refine ⟨h.mem, fun hr => ⟨fun f q => ?_, fun f p q c hp hc => ?_⟩, fun hr => ?_, fun hr => ?_, fixed.trans h.fixed⟩
  · rw [eng]
    split
    · exact queues (h.credits hr) q
    · exact (h.credits hr).1 f q
  · rw [eng]
    split
    · next same => exact pop (h.credits hr) p q c (same ▸ hp) hc
    · next other => exact (h.credits hr).2 f p q c (snaps f other ▸ hp) hc
  · refine ⟨(h.rings hr).1, fun f p i x hp hx => ?_⟩
    by_cases same : f = e
    · exact ring (h.rings hr) p i x (same ▸ hp) hx
    · exact (h.rings hr).2 f p i x (snaps f same ▸ hp) hx
  · obtain ⟨sum, each⟩ := h.power hr
    have less : ({ s.setEng e y with snaps := sn } : State).allocSum ≤ s.allocSum := by
      refine State.allocSum_le rfl fun f le => ?_
      rw [eng]
      split
      · next same => subst same; exact alloc (each f le)
      · exact Nat.le_refl _
    refine ⟨?_, fun f le => ?_⟩
    · rw [fixed]
      exact Nat.le_trans (Nat.add_le_add_right less _) sum
    · rw [eng]
      split
      · next same => subst same; exact power (each f le)
      · exact each f le

variable {r s : State}

/-- An engine is saved as the snapshot to which it can be taken back. -/
theorem Keeps.saveEng (h : Keeps r s) {e : Nat} {y z : Engine} (hy : (s.eng e).Keeps y) :
    Keeps r { s.setEng e y with snaps := minsert e { eng := z } s.snaps } := by
  refine h.engineSnap (fun f other => mfind_minsert_other other _ _) (fun hs q => (hy.fq q).1 (hs.1 e q))
      (fun _ p q c hp hc => ?_)
    (fun _ p i x hp hx => ?_) hy.idle hy.power hy.alloc
  · rw [mfind_minsert_same] at hp
    cases hp
    contradiction
  · rw [mfind_minsert_same] at hp
    cases hp
    contradiction

/-- An engine changes and its snapshot goes, or no pop is noted in it. -/
theorem Keeps.resetEng (h : Keeps r s) {e : Nat} {y : Engine} (queues : ∀ q, (y.fq q).creditsOk)
    (rests : (s.eng e).run = .idle) (idle : y.idle = (s.eng e).idle) (power : (s.eng e).powerOk → y.powerOk)
    (alloc : (s.eng e).powerOk → y.alloc ≤ (s.eng e).alloc) : Keeps r (s.setEng e y) :=
  h.engineSnap (sn := s.snaps) (fun _ _ => rfl) (fun _ q => queues q)
    (fun hs p q c hp hc => absurd rests (hs.2 e p q c hp hc).2) (fun hs p i x hp hx => hs.2 e p i x hp hx) idle power alloc

theorem Keeps.dropSnap (h : Keeps r s) {e : Nat} {y : Engine} (queues : ∀ q, ((s.eng e).fq q).Keeps (y.fq q))
    (idle : y.idle = (s.eng e).idle) (power : (s.eng e).powerOk → y.powerOk)
    (alloc : (s.eng e).powerOk → y.alloc ≤ (s.eng e).alloc) :
    Keeps r { s.setEng e y with snaps := merase e s.snaps } := by
  refine h.engineSnap (fun f other => mfind_merase_other other _) (fun hs q => (queues q).1 (hs.1 e q))
      (fun _ p q c hp hc => ?_)
    (fun _ p i x hp hx => ?_) idle power alloc
  · rw [mfind_merase_same] at hp
    contradiction
  · rw [mfind_merase_same] at hp
    contradiction

theorem FetchQ.creditsOk.unpop {x : Engine} {q : Nat} {c : FqEnt} (h : (x.fq q).creditsOk) (returned : 1 ≤ (x.fq q).ret) :
    ((x.unpop q c).fq q).creditsOk := by
  obtain ⟨sum, most⟩ := h
  change (x.fq q).granted = _ at sum
  unfold Engine.unpop
  rw [Engine.fq_minsert_same]
  change FetchQ.creditsOk (if (x.fq q).entries < ((x.fq q).ents.length + 1) then _ else _)
  split
  · refine ⟨?_, ?_⟩
    · change (x.fq q).granted - 1 = (x.fq q).ret - 1 + ((c :: (x.fq q).ents).dropLast).length
      rw [List.length_dropLast, List.length_cons]
      omega
    · change ((c :: (x.fq q).ents).dropLast).length ≤ (x.fq q).entries
      rw [List.length_dropLast, List.length_cons]
      omega
  · refine ⟨?_, ?_⟩
    · change (x.fq q).granted = (x.fq q).ret - 1 + ((x.fq q).ents.length + 1)
      omega
    · change (x.fq q).ents.length + 1 ≤ (x.fq q).entries
      omega

theorem Keeps.undoBundle (h : Keeps r s) {e : Nat} : Keeps r (s.undoBundle e) := by
  unfold State.undoBundle
  split
  · exact h
  · next p saved =>
    have undone : Keeps r { s.setEng e (match p.pop with
        | some (q, ent) => ((s.eng e).restore p.eng).unpop q ent
        | none => (s.eng e).restore p.eng) with snaps := minsert e { p with pop := none } s.snaps } := by
      refine h.engineSnap (fun f other => mfind_minsert_other other _ _) (fun hs q => ?_) (fun _ k q c hk hc => ?_)
        (fun hs k i x hk hx => ?_) ?_ ?_ ?_
      · split
        · next i c popped =>
          by_cases same : q = i
          · subst same
            exact FetchQ.creditsOk.unpop (hs.1 e q) (hs.2 e p q c saved popped).1
          · unfold Engine.unpop
            rw [Engine.fq_minsert_other _ same]
            exact hs.1 e q
        · exact hs.1 e q
      · rw [mfind_minsert_same] at hk
        cases hk
        contradiction
      · rw [mfind_minsert_same] at hk
        cases hk
        exact hs.2 e p i x saved hx
      · split <;> rfl
      · split <;> exact id
      · split <;> exact fun _ => Nat.le_refl _
    dsimp only
    split
    · next i x hx => exact undone.putRing fun hs => hs.2 e { p with pop := none } i x (mfind_minsert_same _ _ _) hx
    · exact undone

/-- A ring in order is saved in an engine's snapshot. -/
theorem Keeps.keepRing (h : Keeps r s) {e i : Nat} {x : Ring} (hx : r.ringsOk → x.slotsOk) :
    Keeps r (s.keepRing e i x) := by
  unfold State.keepRing
  split
  · next p saved =>
    refine ⟨h.mem, fun hr => ⟨(h.credits hr).1, fun f k q c hk hc => ?_⟩, fun hr =>
        ⟨(h.rings hr).1, fun f k j y hk hy => ?_⟩,
      h.power, h.fixed⟩
    · by_cases same : f = e
      · subst same
        rw [mfind_minsert_same] at hk
        cases hk
        exact (h.credits hr).2 f p q c saved hc
      · rw [mfind_minsert_other same] at hk
        exact (h.credits hr).2 f k q c hk hc
    · by_cases same : f = e
      · subst same
        rw [mfind_minsert_same] at hk
        cases hk
        cases hy
        exact hx hr
      · rw [mfind_minsert_other same] at hk
        exact (h.rings hr).2 f k j y hk hy
  · exact h

/-- A pop of a READY entry is noted in the engine's snapshot. -/
theorem Keeps.notePop (h : Keeps r s) {e q : Nat} {p : Snap} {c : FqEnt} (saved : mfind s.snaps e = some p)
    (returned : 1 ≤ ((s.eng e).fq q).ret) (runs : (s.eng e).run ≠ .idle) :
    Keeps r { s with snaps := minsert e { p with pop := some (q, c) } s.snaps } := by
  refine ⟨h.mem, fun hr => ⟨(h.credits hr).1, fun f k j d hk hd => ?_⟩, fun hr => ⟨(h.rings hr).1, fun f k j y hk hy => ?_⟩,
    h.power, h.fixed⟩
  · by_cases same : f = e
    · subst same
      rw [mfind_minsert_same] at hk
      cases hk
      cases hd
      exact ⟨returned, runs⟩
    · rw [mfind_minsert_other same] at hk
      exact (h.credits hr).2 f k j d hk hd
  · by_cases same : f = e
    · subst same
      rw [mfind_minsert_same] at hk
      cases hk
      exact (h.rings hr).2 f p j y saved hy
    · rw [mfind_minsert_other same] at hk
      exact (h.rings hr).2 f k j y hk hy

theorem startQueues_creditsOk (t : Task) (q : Nat) : (mget (fun _ => ({} : FetchQ)) (startQueues t) q).creditsOk := by
  unfold startQueues
  generalize t.fbind = l
  have fold (m : SMap FetchQ) (hm : (mget (fun _ => ({} : FetchQ)) m q).creditsOk) :
      (mget (fun _ => ({} : FetchQ)) (l.foldl (fun m b => minsert b.1
        { state := 1, esz := b.2.1, entries := b.2.2.1, run := some (newRun t.ctx b.2.2.2 (some t.id) t.declared) } m)
        m) q).creditsOk := by
    induction l generalizing m with
    | nil => exact hm
    | cons b l ih =>
      refine ih _ ?_
      by_cases same : q = b.1
      · rw [same, mget_minsert_same]
        exact ⟨rfl, Nat.zero_le _⟩
      · rwa [mget_minsert_other _ same]
  exact fold [] ⟨rfl, Nat.zero_le _⟩

/-- A command begins on an engine at rest, with its queues empty (R220). -/
theorem Keeps.beginEng (h : Keeps r s) {e : Nat} (rests : (s.eng e).run = .idle) {t : Task} {im : Image} {c k : Nat} :
    Keeps r (s.setEng e ((s.eng e).begin t im c k)) := by
  have kept : ((s.eng e).begin t im c k).idle = (s.eng e).idle ∧ ((s.eng e).begin t im c k).fall = (s.eng e).fall ∧
      ((s.eng e).begin t im c k).alloc = (s.eng e).alloc := by
    unfold Engine.begin Engine.clearCtx
    dsimp only
    split <;> exact ⟨rfl, rfl, rfl⟩
  obtain ⟨idle, fall, alloc⟩ := kept
  exact h.resetEng (startQueues_creditsOk t) rests idle
    (fun hx => ⟨nofun, by rw [fall, alloc]; exact hx.2⟩) fun _ => Nat.le_of_eq alloc

theorem mget_map {α : Type} (d : Nat → α) (f : α → α) (l : SMap α) (k : Nat) :
    mget d (l.map fun p => (p.1, f p.2)) k = f (mget d l k) ∨ mget d (l.map fun p => (p.1, f p.2)) k = d k := by
  induction l with
  | nil => exact .inr rfl
  | cons p l ih =>
    simp only [List.map_cons, mget]
    split
    · exact .inl rfl
    · exact ih

/-- Every ring changes in the same way. -/
theorem Keeps.mapRings (h : Keeps r s) {f : Ring → Ring} (hf : ∀ {x : Ring}, x.slotsOk → (f x).slotsOk) {pmt cmds commitQ} :
    Keeps r { s with pmt := pmt, cmds := cmds, commitQ := commitQ, rings := s.rings.map fun p => (p.1, f p.2) } := by
  refine ⟨h.mem, h.credits, fun hr => ⟨fun i => ?_, (h.rings hr).2⟩, h.power, h.fixed⟩
  obtain mapped | unset := mget_map (fun _ => ({} : Ring)) f s.rings i
  · rw [State.ring, mapped]
    exact hf ((h.rings hr).1 i)
  · rw [State.ring, unset]
    exact Ring.slotsOk_empty rfl rfl

/-! ### What an acquired slot and a saved ring leave alone -/

theorem State.prodAcquire_eng {s t : State} {i j : Nat} {k : Holder} (got : s.prodAcquire i k = some (j, t)) (e : Nat) :
    t.eng e = s.eng e := by
  unfold State.prodAcquire at got
  dsimp only at got
  split at got
  · cases got; rfl
  · contradiction

theorem State.consAcquire_eng {s t : State} {i j n : Nat} {k : Holder} (got : s.consAcquire i n k = some (j, t)) (e : Nat) :
    t.eng e = s.eng e := by
  unfold State.consAcquire at got
  dsimp only at got
  split at got
  · cases got; rfl
  · contradiction

theorem State.keepRing_eng (s : State) (e i : Nat) (x : Ring) (f : Nat) : (s.keepRing e i x).eng f = s.eng f := by
  unfold State.keepRing
  split <;> rfl

end Sys2Proof.Machine

/-! SUPPORT. Operations that leave the engines, the rings and the power budget alone. -/
namespace Sys2Proof.Machine

open Sys2Proof

-- one proof after the other: a thread for each would need too much memory
set_option Elab.async false

section
variable {o s t : State} (hs : Calm o s)
include hs

theorem Calm.rset {r v} : Calm o (s.rset r v) := hs.frame

theorem Calm.fset {r h l v} : Calm o (s.fset r h l v) := hs.rset

theorem Calm.rinc {r w n} : Calm o (s.rinc r w n) := hs.rset

theorem Calm.rsat {r w n} : Calm o (s.rsat r w n) := hs.rset

theorem Calm.takeFree : Calm o s.takeFree.2 := hs.frame

theorem Calm.cfgSet {r v} : Calm o (s.cfgSet r v) := hs.frame

theorem Calm.coreIrq {i} : Calm o (s.coreIrq i) := .ite hs.frame hs.pmc

theorem Calm.hcIrq {source} : Calm o (s.hcIrq source) := hs.coreIrq

theorem Calm.sendMsix {v} : Calm o (s.sendMsix v) := .ite hs.coreIrq hs.frame

theorem Calm.msix {v} : Calm o (s.msix v) := .ite hs.sendMsix hs.fset

theorem Calm.msixFlush : Calm o s.msixFlush := .ite (hs.foldl _ fun _ _ hs => (.ite hs.fset.sendMsix hs)) hs

theorem Calm.event {bit} : Calm o (s.event bit) := .ite hs.fset.msix hs.fset

theorem Calm.reportFatal : Calm o s.reportFatal := hs.frame.event

theorem Calm.reportUe : Calm o s.reportUe := hs.frame.event

theorem Calm.setDmc {c x} : Calm o (s.setDmc c x) := hs.frame

theorem Calm.slcTouch {slot} : Calm o (s.slcTouch slot) := hs.frame

theorem Calm.modLine {slot f} : Calm o (s.modLine slot f) := by
  unfold State.modLine
  split
  exacts [hs.frame, hs]

theorem Calm.ceCount {r src w} : Calm o (s.ceCount r src w) := hs.rinc.rset

theorem Calm.corrected {r src w} : Calm o (s.corrected r src w) := .ite hs.ceCount (.ite hs.ceCount.frame hs.ceCount.rinc)

theorem Calm.uncorrected {r src w} : Calm o (s.uncorrected r src w) := (Calm.ite hs.rinc hs.rinc.rset).reportUe

theorem Calm.wbCancel {r w} : Calm o (s.wbCancel r w) := by
  unfold State.wbCancel
  split
  exacts [hs.frame, hs]

theorem Calm.gsInject {r} : Calm o (s.gsInject r).2 := .iteP hs.fset hs

theorem Calm.eccRead {src w} : Calm o (s.eccRead src w).2 := by
  unfold State.eccRead
  split
  exacts [hs, hs.corrected, hs.uncorrected, hs]

theorem Calm.eccReads {src l} : Calm o (s.eccReads src l).2 := by
  induction l generalizing s with
  | nil => exact hs
  | cons a l ih => exact ih hs.eccRead

theorem Calm.gessoWrite {src a bs w r} : Calm o (s.gessoWrite src a bs w r).2 :=
  .iteP hs.uncorrected (.ite (Calm.ite hs.ceCount hs).setBytes.frame.wbCancel.gsInject
      (Calm.ite hs.ceCount hs).setBytes.frame.wbCancel.gsInject.frame)

theorem Calm.wordWrite {src a bs w} : Calm o (s.wordWrite src a bs w).2 := by
  unfold State.wordWrite
  split
  exacts [hs.gessoWrite, hs.setBytes]

theorem Calm.wordWrites {src a bs l} : Calm o (s.wordWrites src a bs l).2 := by
  induction l generalizing s with
  | nil => exact hs
  | cons a l ih => exact ih hs.wordWrite

theorem Calm.ddrCorrected {src d nsym} : Calm o (s.ddrCorrected src d nsym) := .ite hs.rinc.rset hs.rinc.rset.setDmc

theorem Calm.noWback {d} : Calm o (s.noWback d) := .ite hs.setDmc hs

theorem Calm.ddrUncorrected {src d poison} : Calm o (s.ddrUncorrected src d poison) :=
  (Calm.ite hs.rinc hs.rinc.rset).reportUe

theorem Calm.ddrDecode {src d n address} : Calm o (s.ddrDecode src d n address).2 :=
  .iteP hs.ddrUncorrected (.iteP hs.ddrUncorrected
      (.iteP hs (.iteP hs.ddrCorrected (.iteP hs.takeFree.ddrUncorrected (.ite hs.takeFree hs.takeFree.ddrCorrected)))))

theorem Calm.ddrWrong {d n} : Calm o (s.ddrWrong d n) := hs.setBytes.frame

theorem Calm.ddrWord {src d n address} : Calm o (s.ddrWord src d n address).2 := by
  unfold State.ddrWord
  split
  · next e => exact hs.ddrDecode.of_eq e
  · next e => exact hs.ddrDecode.of_eq e
  · next e => exact (hs.ddrDecode.of_eq e).ddrWrong

theorem Calm.chanFailure {ch} : Calm o (s.chanFailure ch) := hs.rinc.reportUe

theorem Calm.ddrLine {src d e} : Calm o (s.ddrLine src d e).2 :=
  .iteP hs.ddrUncorrected.noWback (.iteP hs.ddrWord.ddrWord hs.ddrWord.ddrWord.noWback)

theorem Calm.ddrFetch {d} : Calm o (s.ddrFetch d).2 := .iteP hs.chanFailure hs.ddrLine

theorem Calm.ddrInject {ch} : Calm o (s.ddrInject ch).2 := .iteP hs.fset hs

theorem Calm.ddrStore {d poison} : Calm o (s.ddrStore d poison) :=
  .ite hs.chanFailure (.ite hs.noWback.ddrInject.frame hs.noWback.ddrInject.frame)

theorem Calm.slcEvict {slot} : Calm o (s.slcEvict slot) := by
  unfold State.slcEvict
  split
  · exact hs
  · exact (Calm.ite (hs.foldl _ fun _ _ hs => (.ite hs.ceCount (.ite hs.uncorrected hs))).ddrStore hs).frame

theorem Calm.slcFill {line fetch} : Calm o (s.slcFill line fetch) :=
  (Calm.iteP hs.slcEvict.gsInject hs.slcEvict).frame.slcTouch

theorem Calm.slcLine {line fetch} : Calm o (s.slcLine line fetch).2 := by
  unfold State.slcLine
  split
  exacts [hs.slcTouch, .iteP (Calm.iteP hs.ddrFetch hs).slcFill (.iteP hs.ddrFetch hs)]

theorem Calm.slcRefetch {slot w} : Calm o (s.slcRefetch slot w).2 := hs.ceCount.frame.slcLine

theorem Calm.slcWord {src w} : Calm o (s.slcWord src w).2 := by
  unfold State.slcWord
  split
  · exact hs
  · split
    · exact hs
    · split
      exacts [hs, hs.corrected, .iteP hs.uncorrected.modLine hs.slcRefetch]

theorem Calm.slcWords {src l} : Calm o (s.slcWords src l).2 := by
  induction l generalizing s with
  | nil => exact hs
  | cons a l ih => exact ih hs.slcWord

theorem Calm.pfUsed {line} : Calm o (s.pfUsed line) := .ite hs.frame.rinc hs

theorem Calm.lineReads {src a n l} : Calm o (s.lineReads src a n l).2 := by
  induction l generalizing s with
  | nil => exact hs
  | cons a l ih => exact ih (.iteP hs.pfUsed.slcLine.slcWords hs.pfUsed.slcLine)

theorem Calm.slcPut {src a bs w} : Calm o (s.slcPut src a bs w).2 := by
  unfold State.slcPut
  dsimp only
  split
  · exact hs
  · have merged {c d e f : Prop} [Decidable c] [Decidable d] [Decidable e] [Decidable f] {slot g} :
        Calm o (if c then if d then (true, s) else if e then (true, s.ceCount 6 src w)
          else if f then (false, (s.uncorrected 6 src w).modLine slot g) else s.slcRefetch slot w else (true, s)).2 :=
      .iteP (.iteP hs (.iteP hs.ceCount (.iteP hs.uncorrected.modLine hs.slcRefetch))) hs
    exact .iteP merged.setBytes.wbCancel.gsInject.modLine merged

theorem Calm.slcPuts {src a bs l} : Calm o (s.slcPuts src a bs l).2 := by
  induction l generalizing s with
  | nil => exact hs
  | cons a l ih => exact ih hs.slcPut

theorem Calm.lineWrites {src a bs l} : Calm o (s.lineWrites src a bs l).2 := by
  induction l generalizing s with
  | nil => exact hs
  | cons a l ih => exact ih (.iteP hs.slcLine.slcPuts hs.slcLine)

theorem Calm.pread {src a n} : Calm o (s.pread src a n).2 :=
  .iteP (.iteP hs.lineReads hs.eccReads) (.iteP hs.lineReads hs.eccReads)

theorem Calm.pwrite {src a bs} : Calm o (s.pwrite src a bs).2 :=
  .iteP hs (.iteP hs.lineWrites (.iteP hs.setBytes hs.wordWrites))

theorem Calm.ownRead {a n} : Calm o (s.ownRead a n).2 := by
  unfold State.ownRead
  split
  · exact hs
  · split
    · next e => exact hs.pread.of_eq e
    · next e => exact hs.pread.of_eq e

theorem Calm.ownWrite {a bs} : Calm o (s.ownWrite a bs).2 := .iteP hs hs.pwrite

theorem Calm.winRefuse {e o'} : Calm o (s.winRefuse e o').2 := by
  unfold State.winRefuse
  split
  exacts [hs.rsat, hs.rinc]

theorem Calm.hostReport {kind} : Calm o (s.hostReport kind) := by
  unfold State.hostReport
  split
  exacts [hs.cfgSet, hs.cfgSet, hs.cfgSet.cfgSet, hs.cfgSet.cfgSet]

theorem Calm.pieceCheck {w bypass wr all pos p} : Calm o (s.pieceCheck w bypass wr all pos p).2 := by
  unfold State.pieceCheck
  split
  · exact hs
  · split
    · exact hs
    · split
      · exact .iteP hs hs.winRefuse
      · split
        · exact hs
        · split
          exacts [hs.hostReport, hs]
      · exact hs

theorem Calm.checkFrom {w bypass wr all n l} : Calm o (s.checkFrom w bypass wr all n l).2 := by
  induction l generalizing s n with
  | nil => exact hs
  | cons p l ih =>
    unfold State.checkFrom
    split
    · next e => exact hs.pieceCheck.of_eq e
    · next e => exact ih (hs.pieceCheck.of_eq e)

theorem Calm.piecesCheck {w bypass wr ps} : Calm o (s.piecesCheck w bypass wr ps).2 := hs.checkFrom

theorem Calm.readPieces {src l} : Calm o (s.readPieces src l).2 := by
  induction l generalizing s with
  | nil => exact hs
  | cons p l ih =>
    unfold State.readPieces
    split
    · next e => exact hs.pread.of_eq e
    · next e =>
      have rest := ih (hs.pread.of_eq e)
      split
      · next e' => exact rest.of_eq e'
      · next e' => exact rest.of_eq e'

theorem Calm.writePieces {src l bs} : Calm o (s.writePieces src l bs).2 := by
  induction l generalizing s bs with
  | nil => exact hs
  | cons a l ih => exact ih hs.pwrite

theorem Calm.vread {w ctx va n} : Calm o (s.vread w ctx va n).2 := by
  unfold State.vread
  split
  · exact hs
  · split
    · next e' => exact hs.piecesCheck.of_eq e'
    · next e' =>
        split
        · next e'' => exact (hs.piecesCheck.of_eq e').readPieces.of_eq e''
        · next e'' => exact (hs.piecesCheck.of_eq e').readPieces.of_eq e''

theorem Calm.vwrite {w ctx va bs} : Calm o (s.vwrite w ctx va bs).2 := by
  unfold State.vwrite
  split
  · exact hs
  · split
    · next e' => exact hs.piecesCheck.of_eq e'
    · next e' => exact (hs.piecesCheck.of_eq e').writePieces

theorem Calm.askBulk {a wr who} : Calm o (s.askBulk a wr who) := .ite hs.chanFailure hs.setDmc

theorem Calm.prefetchOne {a} : Calm o (s.prefetchOne a) := .ite hs.rinc (.ite hs hs.askBulk.rinc)

theorem Calm.prefetchAhead {a d n} : Calm o (s.prefetchAhead a d n) := by
  induction n generalizing s a with
  | zero => exact hs
  | succ n ih =>
    unfold State.prefetchAhead
    exact .ite (ih hs.prefetchOne) hs

theorem Calm.trackMiss {a} : Calm o (s.trackMiss a).2 := by
  unfold State.trackMiss
  split <;> exact hs.frame

theorem Calm.demandLine {a} : Calm o (s.demandLine a) := by
  unfold State.demandLine
  split
  · exact hs
  · split
    · split
      exacts [hs.frame.prefetchAhead, hs]
    · exact .ite hs.trackMiss.prefetchAhead hs.trackMiss

theorem Calm.train {ps} : Calm o (s.train ps) := hs.foldl _ fun _ _ hs => (hs.foldl _ fun _ _ hs => hs.demandLine)

theorem Calm.freeTrackers : Calm o s.freeTrackers := .ite hs.frame hs

theorem Calm.vreadTrain {w ctx va n} : Calm o (s.vreadTrain w ctx va n).2 := by
  unfold State.vreadTrain
  split
  · exact hs
  · split
    · next e' => exact hs.piecesCheck.of_eq e'
    · next e' =>
        split
        · next e'' => exact (hs.piecesCheck.of_eq e').train.readPieces.of_eq e''
        · next e'' => exact (hs.piecesCheck.of_eq e').train.readPieces.of_eq e''

theorem Calm.hostRead {a n} : Calm o (s.hostRead a n).2 := by
  unfold State.hostRead
  split
  · exact hs
  · split
    · exact .iteP hs.train.pread hs
    · split
      exacts [hs.hostReport, hs]

theorem Calm.hostWrite {a bs} : Calm o (s.hostWrite a bs) := .ite hs.pwrite hs

theorem Calm.violation {off wr} : Calm o (s.violation off wr) := .ite hs.rinc hs.rinc.rset

theorem Calm.regOp {w off wr f} (hf : ∀ {t}, Calm o t → Calm o (f t)) : Calm o (s.regOp w off wr f) := .ite hs.violation
    (.ite hs (hf hs))

theorem Calm.coreHold {k hold} : Calm o (s.coreHold k hold) := .ite hs.fset.fset.frame (.ite hs.fset.frame hs)

theorem Calm.coresHold {v} : Calm o (s.coresHold v) := hs.foldl _ fun _ _ hs => hs.coreHold

theorem Calm.modCmd {sq seq f} : Calm o (s.modCmd sq seq f) := hs.frame

theorem Calm.ctxFault {ctx st} : Calm o (s.ctxFault ctx st) := .ite hs hs.fset

theorem Calm.commitAborts : Calm o s.commitAborts := hs.frame

theorem Calm.commit {c st sub f} : Calm o (s.commit c st sub f) := hs.ctxFault.frame.commitAborts

theorem Calm.fatalStop : Calm o s.fatalStop := hs.reportFatal.foldl _ fun _ _ hs => hs.commit

theorem Calm.setNeed {k l} : Calm o (s.setNeed k l) := hs.pmc

theorem Calm.touchNeed {k} : Calm o (s.touchNeed k) := .ite hs.setNeed hs

theorem Calm.suppress {e n} : Calm o (s.suppress e n) := .ite hs.rinc hs

theorem Calm.touch {l' l} : Calm o (s.touch l' l).2 := by
  induction l generalizing s with
  | nil => exact hs
  | cons a l ih => exact ih (.iteP hs.eccRead hs)

theorem Calm.deliver {α : Type} {v : α} {words} : Calm o (s.deliver v words).2 := by
  unfold State.deliver
  split
  · next e => exact hs.touch.of_eq e
  · next e => exact hs.touch.of_eq e

theorem Calm.readVec {p : CanvasOp} {im v i} : Calm o (p.readVec s im v i).2 := hs.deliver

theorem Calm.applySignal {f v} : Calm o (s.applySignal f v).2 := .iteP hs.frame hs.frame.rinc

theorem Calm.nextPre {c k l} : Calm o (s.nextPre c k l) := by
  induction l generalizing s k with
  | nil => exact hs.modCmd
  | cons p l ih =>
    unfold State.nextPre
    split
    · exact ih hs
    · split
      · exact ih hs
      · exact .ite (ih hs) hs.modCmd.frame

theorem Calm.sdmaEnd {c st sub detail} : Calm o (s.sdmaEnd c st sub detail) := by
  unfold State.sdmaEnd
  dsimp only
  split
  · exact hs
  · split
    · exact hs.frame
    · split
      exacts [hs.frame, hs.frame.commit]

theorem Calm.askNow {w} : Calm o (s.askNow w) := hs.frame

theorem Calm.askAll : Calm o s.askAll := hs.foldl _ fun _ _ hs => hs.askNow

theorem Calm.setSource {p x} : Calm o (s.setSource p x) := hs.frame

theorem Calm.setSrcField {p h l v} : Calm o (s.setSrcField p h l v) := by
  unfold State.setSrcField
  split
  exacts [hs.fset, hs]

theorem Calm.srcCount {p f n} : Calm o (s.srcCount p f n) := by
  unfold State.srcCount
  split
  exacts [hs.rinc, hs]

theorem Calm.applyCommit {p} : Calm o (s.applyCommit p) := by
  unfold State.applyCommit
  dsimp only
  split
  · split
    · split
      exacts [hs.setSource.setSrcField.setSource.rinc, hs.setSource.setSrcField]
    · exact hs.setSource.setSrcField.setSrcField
  · exact hs

theorem Calm.srcCommit {p} : Calm o (s.srcCommit p) := hs.setSource.setSrcField

theorem Calm.srcEnable {p} : Calm o (s.srcEnable p) :=
  .ite hs.pmc (.ite (.ite hs.setSrcField.srcCommit hs.setSrcField.setSource) hs.setSrcField)

theorem Calm.mediaCancel {p} : Calm o (s.mediaCancel p) := hs.pmc

theorem Calm.srcCtlWrite {p v} : Calm o (s.srcCtlWrite p v) := by
  generalize hr : (if bits v 29 29 = 1 then s.setSrcField p 29 29 0 else s) = r
  have reset : Calm o r := hr ▸ .ite hs.setSrcField hs
  unfold State.srcCtlWrite
  rw [hr]
  dsimp only
  generalize hw : (if r.srcEn p then r else (r.setSrcField p 28 19 (bits v 28 19)).setSrcField p 15 0 (bits v 15 0)) = w
  have written : Calm o w := hw ▸ .ite reset reset.setSrcField.setSrcField
  generalize hc : (if bits v 30 30 = 1 then w.srcCommit p else w) = t
  have committed : Calm o t := hc ▸ .ite written.srcCommit written
  exact .ite (.ite committed committed.srcEnable) committed.mediaCancel.setSrcField

theorem Calm.recordWrite {ctx va seq valid drops psrc stamps} :
    Calm o (s.recordWrite ctx va seq valid drops psrc stamps).2 := by
  unfold State.recordWrite
  dsimp only
  split
  · exact hs.vwrite
  · split
    · next e => exact (hs.vwrite.of_eq e).vwrite
    · next e => exact hs.vwrite.of_eq e

theorem Calm.portRes {r ok slot} : Calm o (s.portRes r ok slot) := hs.rset

theorem Calm.remoteReply {p r} : Calm o (s.remoteReply p r).2 := by
  unfold State.remoteReply
  split
  · next e => exact hs.piecesCheck.of_eq e
  · next e =>
      split
      · next e' => exact (hs.piecesCheck.of_eq e).readPieces.of_eq e'
      · next e' => exact (hs.piecesCheck.of_eq e).readPieces.of_eq e'

theorem Calm.bankCycle {e reqs} : Calm o (s.bankCycle e reqs).2 := hs.foldl _ fun _ _ hs => hs.frame

theorem Calm.answerRld {l p} (e : s.answerRld l = some p) : Calm o p.2 := by
  induction l generalizing p with
  | nil => contradiction
  | cons q l ih =>
    unfold State.answerRld at e
    split at e
    · cases e
      exact hs.remoteReply
    · cases rest : s.answerRld l with
      | none => simp [rest] at e
      | some k =>
        rw [rest] at e
        cases e
        exact ih (p := k) rest

theorem Calm.burstRead {k r n} : Calm o (s.burstRead k r n).2 := by
  unfold State.burstRead
  split
  exacts [hs.vreadTrain, hs.vread]

theorem Calm.rowSide {ctx va n wr} : Calm o (s.rowSide ctx va n wr).2 := by
  unfold State.rowSide
  split
  · exact hs
  · split
    · next e' => exact hs.piecesCheck.of_eq e'
    · next e' => exact hs.piecesCheck.of_eq e'

theorem Calm.planRows {ctx d fill n r} : Calm o (s.planRows ctx d fill n r).2.2 := by
  induction n generalizing s r with
  | zero => exact hs
  | succ n ih =>
    unfold State.planRows
    have source : Calm o (if fill then (Except.ok [], s) else s.rowSide ctx (d.src + r * d.spitch) d.rowlen false).2 :=
        .iteP hs hs.rowSide
    dsimp only
    split
    · next e => exact source.of_eq e
    · next e =>
      split
      · next e' => exact (source.of_eq e).rowSide.of_eq e'
      · next e' => exact ih ((source.of_eq e).rowSide.of_eq e')

theorem Calm.readRows {nopf l} : Calm o (s.readRows nopf l).2.2 := by
  induction l generalizing s with
  | nil => exact hs
  | cons p l ih =>
    unfold State.readRows
    split
    · next e => exact (Calm.ite hs hs.train).readPieces.of_eq e
    · next e => exact ih ((Calm.ite hs hs.train).readPieces.of_eq e)

theorem Calm.writeRows {l} : Calm o (s.writeRows l).2.2 := by
  induction l generalizing s with
  | nil => exact hs
  | cons p l ih =>
    unfold State.writeRows
    split
    · next e => exact ih (hs.writePieces.of_eq e)
    · next e => exact hs.writePieces.of_eq e

theorem Calm.overlapFix {ms} : Calm o (s.overlapFix ms) :=
  hs.frame.foldl _ fun _ _ hs => (by
    split
    exacts [hs.setByte, hs])

theorem Calm.transfer {ctx d fill} : Calm o (s.transfer ctx d fill).2.2 :=
  .ite (show Calm o _ by
    split
    exacts [hs.planRows, hs.planRows.readRows]).writeRows (show Calm o _ by
    split
    exacts [hs.planRows, hs.planRows.readRows]).writeRows.overlapFix

theorem Calm.countBytes {c n} : Calm o (s.countBytes c n) := hs.rinc

theorem Calm.mcastRows {ctx d n r} : Calm o (s.mcastRows ctx d n r).2.2 := by
  induction n generalizing s r with
  | zero => exact hs
  | succ n ih =>
    unfold State.mcastRows
    split
    · next e => exact hs.rowSide.of_eq e
    · next e =>
      split
      · exact hs.rowSide.of_eq e
      · exact ih (hs.rowSide.of_eq e)

theorem Calm.mcastCheck {l} : Calm o (s.mcastCheck l).2 := by
  induction l generalizing s with
  | nil => exact hs
  | cons p l ih =>
    unfold State.mcastCheck
    split
    · next e => exact hs.piecesCheck.of_eq e
    · next e => exact ih (hs.piecesCheck.of_eq e)

theorem Calm.mcastOne {e0 rows e} : Calm o (s.mcastOne e0 rows e).2 := by
  unfold State.mcastOne
  dsimp only
  split
  · next e' => exact hs.mcastCheck.of_eq e'
  · next e' => exact (hs.mcastCheck.of_eq e').writeRows

theorem Calm.mcastAll {e0 rows l} : Calm o (s.mcastAll e0 rows l).2 := by
  induction l generalizing s with
  | nil => exact hs
  | cons a l ih => exact ih hs.mcastOne

theorem Calm.sdmaArm {c r} (e : s.sdmaArm c r = some t) : Calm o t := by
  unfold State.sdmaArm at e
  dsimp only at e
  split at e
  · cases e; exact hs.frame
  · cases e; exact hs.frame
  · contradiction

theorem Calm.sdmaAbort {c} : Calm o (s.sdmaAbort c) := .ite hs.sdmaEnd.sdmaEnd hs.sdmaEnd

theorem Calm.winCtl {e w rd wr op cl} : Calm o (s.winCtl e w rd wr op cl) :=
  .ite (.ite (.ite hs.fset.fset.fset hs.fset.fset.fset) hs.fset.fset) (.ite (Calm.ite hs hs.fset).fset (.ite hs hs.fset))

theorem Calm.winSet {e w r v} : Calm o (s.winSet e w r v) := .ite hs.fset hs.fset

theorem Calm.physAccess {w bypass train ps va a} : Calm o (s.physAccess w bypass train ps va a).2 := by
  unfold State.physAccess
  split
  · split
    · next e => exact hs.piecesCheck.of_eq e
    · next e =>
        split
        · next e' => exact (Calm.ite (hs.piecesCheck.of_eq e).train (hs.piecesCheck.of_eq e)).readPieces.of_eq e'
        · next e' => exact (Calm.ite (hs.piecesCheck.of_eq e).train (hs.piecesCheck.of_eq e)).readPieces.of_eq e'
  · split
    · next e => exact hs.piecesCheck.of_eq e
    · next e =>
        split
        · next e' => exact (hs.piecesCheck.of_eq e).writePieces.of_eq e'
        · next e' => exact (hs.piecesCheck.of_eq e).writePieces.of_eq e'

theorem Calm.masterAccess {m ctx va a} : Calm o (s.masterAccess m ctx va a).2 := by
  unfold State.masterAccess
  split
  · split
    exacts [hs, hs.physAccess]
  · exact hs.physAccess

theorem Calm.answer {r} : Calm o (s.answer r) := by
  unfold State.answer
  split <;> exact hs.frame

theorem Calm.writeBack {r w} : Calm o (s.writeBack r w) := by
  unfold State.writeBack
  split
  · split
    exacts [hs.modLine, hs]
  · exact hs.frame

theorem Calm.slcHalf {x h} : Calm o (s.slcHalf x h) := hs.slcWords

theorem Calm.slcScrub {i} : Calm o (s.slcScrub i) :=
  hs.foldl _ fun _ _ hs => (.ite (Calm.ite hs.slcHalf hs).slcHalf (.ite hs.slcHalf hs))

theorem Calm.scrubOne {r} : Calm o (s.scrubOne r) := .ite (Calm.ite hs.slcScrub hs.eccReads).frame hs

theorem Calm.scrubReset {r} : Calm o (s.scrubReset r) := hs.frame

theorem Calm.zeroRegion {r} : Calm o (s.zeroRegion r) := .ite hs.frame (.ite hs.frame.zeroFill hs.frame.zeroFill)

theorem Calm.bistEnd {sel fails} : Calm o (s.bistEnd sel fails) := (hs.frame.foldl _ fun _ _ hs => hs.zeroRegion).rset.rset

theorem Calm.eccInj {region mode arm} : Calm o (s.eccInj region mode arm) := .ite hs.fset.fset.fset hs.fset.fset

theorem Calm.commitEngine {c e r} : Calm o (s.commitEngine c e r) := hs.commit

theorem Calm.commitSplit {c} : Calm o (s.commitSplit c) := hs.commit

theorem Calm.abortArm {c} : Calm o (s.abortArm c) := .ite hs.sdmaEnd (.ite hs.frame.commit hs.commit)

theorem Calm.loadStops {c} : Calm o (s.loadStops c) := .ite hs.rset hs

theorem Calm.failCmd {c x} : Calm o (s.failCmd c x) := hs.commit

theorem Calm.cpRead {ctx va n} : Calm o (s.cpRead ctx va n).2 := by
  unfold State.cpRead
  split
  · next e => exact hs.vreadTrain.of_eq e
  · next e => exact hs.vreadTrain.of_eq e

theorem Calm.readBind {c} : Calm o (s.readBind c).2 := .iteP hs hs.cpRead

theorem Calm.partTask {c split im bind p} : Calm o (s.partTask c split im bind p).2 := by
  unfold State.partTask
  dsimp only
  split
  · exact hs
  · split
    · exact hs
    · split
      · exact hs
      · split
        · exact hs
        · split
          · exact hs
          · split
            · exact hs
            · split
              · next e => exact hs.cpRead.of_eq e
              · next e => split <;> exact hs.cpRead.of_eq e

theorem Calm.partTasks {c split im bind l} : Calm o (s.partTasks c split im bind l).2 := by
  induction l generalizing s with
  | nil => exact hs
  | cons p l ih =>
    unfold State.partTasks
    split
    · next e => exact hs.partTask.of_eq e
    · next e =>
      have rest := ih (hs.partTask.of_eq e)
      split
      · next e' => exact rest.of_eq e'
      · next e' => exact rest.of_eq e'

theorem Calm.runPlan {c} : Calm o (s.runPlan c).2 := by
  unfold State.runPlan
  dsimp only
  split
  · exact hs
  · refine .iteP hs (.iteP (.iteP hs ?_) (.iteP hs ?_))
    · split
      · next e => exact hs.cpRead.of_eq e
      · next e =>
        have parts := hs.cpRead.of_eq e
        split
        · exact parts
        · refine .iteP parts ?_
          split
          · next e' => exact parts.readBind.partTasks.of_eq e'
          · next e' => exact parts.readBind.partTasks.of_eq e'
    · split
      · next e => exact hs.readBind.partTasks.of_eq e
      · next e => exact hs.readBind.partTasks.of_eq e

theorem Calm.setSq {q x} : Calm o (s.setSq q x) := hs.frame

theorem Calm.setCq {c x} : Calm o (s.setCq c x) := hs.frame

theorem Calm.writeSqBell {q} : Calm o (s.writeSqBell q) := hs.hostWrite

theorem Calm.sqError {q} : Calm o (s.sqError q) := hs.setSq.event

theorem Calm.fetchBurst {q n} : Calm o (s.fetchBurst q n) := by
  unfold State.fetchBurst
  dsimp only
  split
  · next e => exact (hs.hostRead.of_eq e).sqError
  · next e => exact .ite (hs.hostRead.of_eq e).setSq.writeSqBell (hs.hostRead.of_eq e).setSq

theorem Calm.sqRead {q} : Calm o (s.sqRead q) := by
  unfold State.sqRead
  split
  · exact hs
  · split
    · next e => exact (hs.hostRead.of_eq e).sqError
    · next e =>
      exact .ite (hs.hostRead.of_eq e).setSq (.ite
          (.ite (hs.hostRead.of_eq e).setSq.writeSqBell (hs.hostRead.of_eq e).setSq) (hs.hostRead.of_eq e).setSq.fetchBurst)

theorem Calm.acceptCheck {c} : Calm o (s.acceptCheck c).2 := by
  unfold State.acceptCheck
  dsimp only
  split
  · exact hs
  · split
    · next e => exact hs.cpRead.of_eq e
    · next e =>
        split
        · next e' => exact (hs.cpRead.of_eq e).cpRead.of_eq e'
        · next e' =>
            split
            · exact (hs.cpRead.of_eq e).cpRead.of_eq e'
            · split
              · exact (hs.cpRead.of_eq e).cpRead.of_eq e'
              · exact .iteP ((hs.cpRead.of_eq e).cpRead.of_eq e') ((hs.cpRead.of_eq e).cpRead.of_eq e')

theorem Calm.cqRefresh {c} : Calm o (s.cqRefresh c) := by
  unfold State.cqRefresh
  split
  · next e => exact (hs.hostRead.of_eq e).setCq
  · next e => exact hs.hostRead.of_eq e

theorem Calm.dispatchCheck {c} : Calm o (s.dispatchCheck c).2 := by
  unfold State.dispatchCheck
  dsimp only
  split
  · exact hs
  · split
    · next e' => exact hs.runPlan.of_eq e'
    · next e' => exact hs.runPlan.of_eq e'
  · exact hs
  · exact .iteP hs hs
  · exact hs

theorem Calm.dispatch {c} : Calm o (s.dispatch c) := by
  unfold State.dispatch
  split
  · next e => exact (hs.dispatchCheck.of_eq e).failCmd
  · next e =>
      split
      exacts [(hs.dispatchCheck.of_eq e).failCmd, (hs.dispatchCheck.of_eq e).modCmd.nextPre]

theorem Calm.cqMessage {c} : Calm o (s.cqMessage c) := hs.setCq.msix

theorem Calm.cfgErr : Calm o s.cfgErr := hs.event

theorem Calm.sqCfgWrite {q v} : Calm o (s.sqCfgWrite q v) :=
  .ite (.ite hs hs.fset.setSq) (.ite hs.fset.fset (.ite hs.fset.fset.fset.setSq hs.fset.fset.cfgErr))

theorem Calm.cqCfgWrite {c v} : Calm o (s.cqCfgWrite c v) :=
  .ite (.ite hs (.ite hs.cfgErr hs.fset)) (.ite hs.fset.fset.fset
      (.ite hs.fset.fset.fset.fset.setCq hs.fset.fset.fset.cfgErr))

theorem Calm.stageRegs {e key} : Calm o (s.stageRegs e key) := by
  unfold State.stageRegs
  split <;> exact hs.rset.rset

theorem Calm.pmtDone {st sub idx} : Calm o (s.pmtDone st sub idx) := hs.frame.rset

theorem Calm.pmtStart {f} (hf : ∀ {t}, Calm o t → Calm o (f t)) : Calm o (s.pmtStart f) := .ite hs.fset (hf hs).fset

theorem Calm.pmtWrite {w f} (hf : ∀ {t}, Calm o t → Calm o (f t)) : Calm o (s.pmtWrite w f) := hs.regOp fun hs =>
    hs.pmtStart hf

theorem Calm.w2Refuse {e} : Calm o (s.w2Refuse e) := hs.cfgSet.cfgSet.rinc.answer

theorem Calm.w2Access {off a} : Calm o (s.w2Access off a) := by
  unfold State.w2Access
  dsimp only
  split
  · exact hs.w2Refuse
  · split
    · exact hs.w2Refuse
    · split
      · exact hs.w2Refuse
      · split
        exacts [hs.physAccess.answer, .ite hs.physAccess.answer hs.physAccess.w2Refuse]

theorem Calm.freeBytes {n} : Calm o (s.freeBytes n).2 := hs.takeFree

theorem Calm.pinTime : Calm o s.pinTime.2 := hs.takeFree

theorem Calm.setEnc {e x} : Calm o (s.setEnc e x) := hs.frame

theorem Calm.srcPos {p ps} : Calm o (s.srcPos p ps).2 := .iteP hs hs.takeFree

theorem Calm.stamp0 {p} : Calm o (s.stamp0 p).2.2 := hs.pinTime.srcPos

theorem Calm.stampFree : Calm o s.stampFree.2.2 := hs.takeFree.takeFree

theorem Calm.stamp {p entry trig} : Calm o (s.stamp p entry trig).2.2 := by
  unfold State.stamp
  split
  · exact hs.stamp0
  · split
    exacts [hs.srcPos, hs.stampFree]
  · split
    · exact hs.srcPos
    · split
      exacts [hs.stamp0, hs.stampFree]

theorem Calm.putLine {p o' off data} : Calm o (s.putLine p o' off data).2 := by
  unfold State.putLine
  split
  · exact hs.srcCount
  · split
    · exact hs
    · split
      · exact hs.srcCount
      · split
        · next e => exact hs.vwrite.of_eq e
        · next e => exact hs.vwrite.of_eq e

theorem Calm.setOpen {p o'} : Calm o (s.setOpen p o') := hs.setSource

theorem Calm.camLine {p o' geom data crcErr held} : Calm o (s.camLine p o' geom data crcErr held).2 :=
  .iteP (.ite hs.srcCount hs) (.iteP (Calm.ite hs.srcCount hs).srcCount (Calm.ite hs.srcCount hs).putLine)

theorem Calm.popTrig {c} : Calm o (s.popTrig c).2.2 := by
  unfold State.popTrig
  dsimp only
  split
  · exact hs
  · split
    exacts [hs.setSource, hs.rinc]

theorem Calm.cxpToLfc {c g payload crcErr held} : Calm o (s.cxpToLfc c g payload crcErr held) := by
  unfold State.cxpToLfc
  dsimp only
  split
  · exact hs.popTrig
  · exact .ite (Calm.ite hs.popTrig.rinc hs.popTrig).pinTime.setSource (Calm.ite hs.popTrig.rinc hs.popTrig).pinTime

theorem Calm.lfcTable {g cfg n} : Calm o (s.lfcTable g cfg n).2 := by
  unfold State.lfcTable
  dsimp only
  split
  exacts [hs.pread, hs.pread.freeBytes]

theorem Calm.lineStamp {g o' j t pos l} : Calm o (s.lineStamp g o' j t pos l) := .ite hs.vwrite hs

theorem Calm.lfcInto {g o' l} : Calm o (s.lfcInto g o' l).2 :=
  .iteP (.ite hs.srcPos.srcCount hs.srcPos) (Calm.ite hs.srcPos.srcCount hs.srcPos).lfcTable.srcCount.putLine.lineStamp

theorem Calm.setIpp {i x} : Calm o (s.setIpp i x) := hs.frame

theorem Calm.paramBlock {a} : Calm o (s.paramBlock a).2 := by
  unfold State.paramBlock
  split
  · next e => exact hs.physAccess.of_eq e
  · next e => exact (hs.physAccess.of_eq e).freeBytes

theorem Calm.mediaRead {ctx va n} : Calm o (s.mediaRead ctx va n).2 := by
  unfold State.mediaRead
  split
  · next e => exact hs.vread.of_eq e
  · next e => exact (hs.vread.of_eq e).freeBytes

theorem Calm.rawRows {r slot f g k} : Calm o (s.rawRows r slot f g k).2 := by
  induction k generalizing s with
  | zero => exact hs
  | succ k ih => exact ih hs.mediaRead

theorem Calm.putRows {p o' l} : Calm o (s.putRows p o' l).2 := by
  induction l generalizing s o' with
  | nil => exact hs
  | cons a l ih => exact ih hs.putLine

theorem Calm.setCodec {u x} : Calm o (s.setCodec u x) := hs.frame

theorem Calm.cdcCommit {u k} : Calm o (s.cdcCommit u k) := .ite hs.fset.setCodec hs

theorem Calm.cdcPut {o' d a t} (e : s.cdcPut o' d = some (a, t)) : Calm o t := by
  unfold State.cdcPut at e
  split at e
  · contradiction
  · split at e
    · next w => cases e; exact hs.vwrite.of_eq w
    · next w => cases e; exact hs.vwrite.of_eq w

theorem Calm.cdcEnable {u k} : Calm o (s.cdcEnable u k) := .ite hs.pmc hs.setCodec.fset

theorem Calm.cdcCtlWrite {u k v} : Calm o (s.cdcCtlWrite u k v) :=
  .ite (Calm.ite (Calm.ite hs hs.fset).fset (.ite hs hs.fset)).mediaCancel.fset
      (.ite (.ite (Calm.ite hs hs.fset).fset (.ite hs hs.fset))
      (Calm.ite (Calm.ite hs hs.fset).fset (.ite hs hs.fset)).cdcEnable)

theorem Calm.markDue {e t} : Calm o (s.markDue e t) := hs.frame

theorem Calm.redoD {e} : Calm o (s.redoD e) := hs.frame

theorem Calm.speedOf {e rs} : Calm o (s.speedOf e rs).2 := by
  unfold State.speedOf
  dsimp only
  split
  exacts [.iteP hs (.iteP hs.takeFree hs), hs]

theorem Calm.encSettle {e} : Calm o (s.encSettle e) := by
  unfold State.encSettle
  dsimp only
  split
  exacts [.ite hs.speedOf.setEnc.redoD.markDue hs, hs]

theorem Calm.encMove {e d t} : Calm o (s.encMove e d t) := hs.encSettle.setEnc.markDue

theorem Calm.encAccept {e a b t} : Calm o (s.encAccept e a b t) := by
  unfold State.encAccept
  dsimp only
  split
  · exact hs.setEnc
  · split
    exacts [hs.setEnc.rinc, .ite hs.setEnc hs.setEnc.encMove]

theorem Calm.encSample {e a b} : Calm o (s.encSample e a b) := by
  unfold State.encSample
  dsimp only
  split
  · exact hs.setEnc
  · exact hs.setEnc.encAccept
  · exact hs.setEnc.encAccept
  · exact .ite hs.setEnc.encAccept (.ite hs.setEnc.encAccept.encAccept hs.setEnc.encAccept.encAccept)

theorem Calm.encIndex {e t} : Calm o (s.encIndex e t) := .ite hs (.ite hs.encSettle.setEnc.markDue hs.encSettle.setEnc)

theorem Calm.encZ {e z} : Calm o (s.encZ e z) := by
  unfold State.encZ
  dsimp only
  split
  exacts [hs.setEnc, .ite hs.setEnc.encIndex hs.setEnc]

theorem Calm.encTick {e} : Calm o (s.encTick e) := .ite (.ite hs hs.encSample) (Calm.ite hs hs.encSample).encZ

theorem Calm.rollJob {e v} : Calm o (s.rollJob e v) := hs.rset.setEnc

theorem Calm.encCfgWrite {e v} : Calm o (s.encCfgWrite e v) :=
  (Calm.ite (Calm.ite hs hs.fset.fset).setEnc (.ite hs hs.fset.fset)).fset

theorem Calm.trigger {pin t ps} : Calm o (s.trigger pin t ps) :=
  hs.foldl _ fun _ _ hs => (.ite (.ite hs.setSource.setSource hs.setSource.rinc) hs)

theorem Calm.pinLow {p} : Calm o (s.pinLow p) := hs.frame

theorem Calm.unqueueAct {a} : Calm o (s.unqueueAct a) := hs.frame

theorem Calm.fire {a} : Calm o (s.fire a) := hs.unqueueAct.frame.rinc

theorem Calm.pinRun {pin n m k} : Calm o (s.pinRun pin n m k).1 := by
  induction k generalizing s m with
  | zero => exact hs
  | succ k ih =>
    unfold State.pinRun
    dsimp only
    split
    · exact hs
    · exact ih hs.fire
    · exact ih hs.pinLow
    · split
      · exact ih hs.pinLow
      · exact ih hs.fire

theorem Calm.pinFire {pin n} : Calm o (s.pinFire pin n) := by
  unfold State.pinFire
  dsimp only
  split
  · exact .ite hs.pinRun.trigger hs.pinRun
  · exact hs.pinRun

theorem Calm.fireCan {a} : Calm o (s.fireCan a) := hs.unqueueAct.fset.rinc

theorem Calm.fireLate {a} : Calm o (s.fireLate a) := (Calm.ite hs.fireCan (.ite hs.takeFree.frame.pinFire hs.pinFire)).rinc

theorem Calm.judge {a} : Calm o (s.judge a) := .ite hs (.ite hs.unqueueAct.rinc (.ite hs.fireLate hs))

theorem Calm.rejudge {old l} : Calm o (s.rejudge old l) := by
  induction l generalizing s with
  | nil => exact hs
  | cons a l ih => exact .ite (ih hs) (ih hs.judge)

theorem Calm.afterStep {old} : Calm o (s.afterStep old) := hs.rejudge

theorem Calm.setChan {k x} : Calm o (s.setChan k x) := hs.frame

theorem Calm.accept {k b} : Calm o (s.accept k b) := by
  unfold State.accept
  split
  exacts [hs.rinc, .ite hs.frame.rinc (.ite hs.frame.judge.markDue hs.frame.judge)]

theorem Calm.acceptAll {k b n} : Calm o (s.acceptAll k b n) := by
  induction n generalizing s b with
  | zero => exact hs
  | succ n ih => exact ih hs.accept

theorem Calm.chanStop {k} : Calm o (s.chanStop k) := .ite hs.fset.setChan.frame.rinc hs.fset.setChan

theorem Calm.taqCfgWrite {k v} : Calm o (s.taqCfgWrite k v) :=
  .ite (.ite (Calm.ite hs.fset hs).chanStop (.ite hs.fset hs))
      (.ite (Calm.ite hs.fset hs).fset.fset.fset.fset.setChan (Calm.ite hs.fset hs).fset.fset.fset)

theorem Calm.stopChannels {c} : Calm o (s.stopChannels c) := hs.foldl _ fun _ _ hs => (.ite hs.chanStop hs)

theorem Calm.cpqInitWrite {mode} : Calm o (s.cpqInitWrite mode) := .ite hs.rset hs

theorem Calm.ctxStat {ctx st sub busy} : Calm o (s.ctxStat ctx st sub busy) := hs.rset

theorem Calm.ctxOp {f} (hf : ∀ {t}, Calm o t → Calm o (f t)) : Calm o (s.ctxOp f) := .ite hs.cfgErr (hf hs)

theorem Calm.clearFences {c} : Calm o (s.clearFences c) := hs.frame

theorem Calm.create {c} : Calm o (s.create c) := .ite hs.ctxStat (.ite hs.ctxStat hs.rset.clearFences.ctxStat)

theorem Calm.disableSqs {c} : Calm o (s.disableSqs c) := hs.foldl _ fun _ _ hs => (.ite hs.fset.setSq hs)

theorem Calm.abortChannels {c} : Calm o (s.abortChannels c) :=
  hs.foldl _ fun _ _ hs => (by
    split
    exacts [.ite hs.sdmaAbort hs, hs])

theorem Calm.freeCtx {c} : Calm o (s.freeCtx c) := (Calm.ite hs.frame hs.frame).fset.ctxStat

theorem Calm.flrSettle : Calm o s.flrSettle := .ite (hs.foldl _ fun _ _ hs => hs.freeCtx).frame.fset.rset hs

theorem Calm.setSlots {k l} : Calm o (s.setSlots k l) := hs.frame

theorem Calm.epIrq {ep k rx} : Calm o (s.epIrq ep k rx) := by
  unfold State.epIrq
  split
  exacts [hs.msix, hs.hcIrq, hs.frame]

theorem Calm.rxIrq {k} : Calm o (s.rxIrq k) := by
  unfold State.rxIrq
  split
  exacts [hs.epIrq, hs]

theorem Calm.txIrq {k} : Calm o (s.txIrq k) := by
  unfold State.txIrq
  split
  exacts [hs.epIrq, hs]

theorem Calm.mbxOp {w k off wr f} (hf : ∀ {t}, Calm o t → Calm o (f t)) : Calm o (s.mbxOp w k off wr f) := .ite
    hs.violation (hf hs)

theorem Calm.mailWake {k} : Calm o (s.mailWake k) := .ite hs.pmc hs

theorem Calm.push {ep k v} : Calm o (s.push ep k v) :=
  .ite hs.rinc (.ite hs.fset.rinc (.ite hs.fset (.ite hs.setSlots.mailWake.rxIrq hs.setSlots.mailWake)))

theorem Calm.reply {v} : Calm o (s.reply v) := hs.frame

theorem Calm.pop {ep k} : Calm o (s.pop ep k) := by
  unfold State.pop
  split
  · exact hs.rinc.reply
  · split
    exacts [hs.fset.reply, .ite hs.setSlots.reply.txIrq hs.setSlots.reply]

theorem Calm.clearChannel {k} : Calm o (s.clearChannel k) := .ite hs hs.setSlots.rinc.fset.txIrq

theorem Calm.receiverReset {ep} : Calm o (s.receiverReset ep) := hs.foldl _ fun _ _ hs => (.ite hs.clearChannel hs)

theorem Calm.mbxCfgWrite {k v} : Calm o (s.mbxCfgWrite k v) :=
  .ite (.ite hs hs.fset) (.ite hs.rset (.ite hs.rset.fset hs.rset.fset))

theorem Calm.pmcEvent {typ sub v16 v32} : Calm o (s.pmcEvent typ sub v16 v32) := .ite hs.rset.rset.rinc.push
    hs.rset.rset.rinc

theorem Calm.setTrained {c n} : Calm o (s.setTrained c n) := hs.setDmc

theorem Calm.trainFail {ch step} : Calm o (s.trainFail ch step) := (hs.foldl _ fun _ _ hs => hs.setTrained).frame

theorem Calm.trainStart {dimms} : Calm o (s.trainStart dimms) := by
  unfold State.trainStart
  dsimp only
  refine .ite hs ?_
  split
  · exact hs.frame.trainFail
  · split
    · split
      exacts [hs.frame.trainFail, .ite hs.frame hs.frame.trainFail]
    · exact hs.frame.trainFail

theorem Calm.trainCtlWrite {v} : Calm o (s.trainCtlWrite v) := .ite hs.trainStart hs

theorem Calm.channelsOn : Calm o s.channelsOn := hs.foldl _ fun _ _ hs => hs.setDmc

theorem Calm.ddrZero {n} : Calm o (s.ddrZero n) := by
  unfold State.ddrZero
  dsimp only
  split
  · exact hs.zeroFill
  · split
    exacts [hs.zeroFill, .ite hs.zeroFill.ddrInject hs.zeroFill.ddrInject.frame]

theorem Calm.trainEnd {fail} : Calm o (s.trainEnd fail) := by
  unfold State.trainEnd
  split
  · exact hs
  · split
    exacts [hs.trainFail, hs.ddrZero.channelsOn.frame]

theorem Calm.setUse : Calm o s.setUse := .ite hs hs.fset.frame

theorem Calm.fillStep : Calm o s.fillStep := .ite hs.frame hs

theorem Calm.fillAsk {ch} : Calm o (s.fillAsk ch) := by
  unfold State.fillAsk
  dsimp only
  split
  · exact hs
  · split
    exacts [hs, hs.setDmc.askBulk]

theorem Calm.panicLevel {ch} : Calm o (s.panicLevel ch) := .ite hs.setDmc.rinc (.ite hs.setDmc hs)

theorem Calm.ddrReply {ch r status data} : Calm o (s.ddrReply ch r status data) := by
  unfold State.ddrReply
  split
  exacts [hs.setDmc.frame, hs]

theorem Calm.failReq {ch r} : Calm o (s.failReq ch r) := hs.chanFailure.ddrReply

theorem Calm.ddrPerform {r} : Calm o (s.ddrPerform r) := by
  unfold State.ddrPerform
  dsimp only
  split
  exacts [hs.setBytes.ddrStore, .ite hs hs.ddrStore.ddrLine, hs.ddrStore]

theorem Calm.ddrIssue {ch x b r} : Calm o (s.ddrIssue ch x b r) := by
  unfold State.ddrIssue
  split
  · exact hs.setDmc
  · split
    · exact hs.setDmc
    · split
      exacts [hs.setDmc.ddrPerform.ddrReply.panicLevel, hs.setDmc.panicLevel]

theorem Calm.ddrSlot {c legal} : Calm o (s.ddrSlot c legal) := by
  unfold State.ddrSlot
  dsimp only
  split
  · exact hs.setDmc
  · split
    exacts [hs.setDmc, hs.ddrIssue]

theorem Calm.rankReading {ch readings rank} : Calm o (s.rankReading ch readings rank) :=
  .ite hs (.ite (Calm.ite hs.setDmc.rinc (.ite hs.setDmc hs.setDmc)).pmcEvent
      (.ite hs.setDmc.rinc (.ite hs.setDmc hs.setDmc)))

theorem Calm.channelFail {ch} : Calm o (s.channelFail ch) :=
  .ite (hs.setDmc.foldl _ fun _ _ hs => hs.failReq).frame (hs.setDmc.foldl _ fun _ _ hs => hs.failReq)

theorem Calm.lineBack {ch r ok} : Calm o (s.lineBack ch r ok) := by
  unfold State.lineBack
  dsimp only
  split
  exacts [.ite (Calm.ite hs hs.slcFill).ddrReply hs.ddrReply, .ite hs.slcFill.frame hs, hs]

theorem Calm.ddrScrubOne {ch} : Calm o (s.ddrScrubOne ch) := .ite hs (.ite hs hs.setDmc.askBulk)

theorem Calm.ddrInj {ch mode arm} : Calm o (s.ddrInj ch mode arm) := .ite hs.fset.fset.fset hs.fset.fset

theorem Calm.setFreq {f} : Calm o (s.setFreq f) := hs.rset.frame

theorem Calm.stepTime {d} : Calm o (s.stepTime d) := hs.frame.rinc.afterStep

theorem Calm.readTimeSec : Calm o s.readTimeSec := hs.frame.reply

theorem Calm.freqWrite {v} : Calm o (s.freqWrite v) := .ite hs hs.setFreq

theorem Calm.anyRound {n d} : Calm o (s.anyRound n d).2 := .iteP hs (.iteP hs hs.takeFree)

theorem Calm.servo1 {o'} : Calm o (s.servo1 o') := .ite hs.anyRound.frame.stepTime hs.anyRound.frame.setFreq

theorem Calm.srvCtlWrite {v} : Calm o (s.srvCtlWrite v) :=
  (Calm.ite (Calm.ite hs hs.fset.fset).frame (.ite (.ite hs hs.fset.fset) (Calm.ite hs hs.fset.fset).frame)).fset

theorem Calm.macRead {a n} : Calm o (s.macRead a n).2 := .iteP hs.physAccess hs

theorem Calm.macWrite {a d} : Calm o (s.macWrite a d) := .ite hs.physAccess hs

theorem Calm.canRequest {c v} : Calm o (s.canRequest c v) := hs.rset

theorem Calm.canErrors {c tec rec} : Calm o (s.canErrors c tec rec) := hs.fset

theorem Calm.canTxError {c} : Calm o (s.canTxError c) := hs.canErrors

theorem Calm.canRxError {c} : Calm o (s.canRxError c) := hs.canErrors

theorem Calm.canTxOk {c} : Calm o (s.canTxOk c) := hs.canErrors

theorem Calm.canRxOk {c} : Calm o (s.canRxOk c) := hs.canErrors

theorem Calm.canPop {c} : Calm o (s.canPop c) := by
  unfold State.canPop
  split
  exacts [hs.takeFree.reply, hs.frame.reply]

theorem Calm.reqnWrite {e n} : Calm o (s.reqnWrite e n) := .ite hs.fset hs

theorem Calm.raiseNeeds : Calm o s.raiseNeeds := hs.foldl _ fun _ _ hs => hs.setNeed

theorem Calm.wakeSource {p} : Calm o (s.wakeSource p) := .ite hs.srcEnable hs.cdcEnable

theorem Calm.trip {sensor temp} : Calm o (s.trip sensor temp) := hs.frame.fatalStop.pmcEvent

theorem Calm.tripCheck : Calm o s.tripCheck := by
  unfold State.tripCheck
  split
  · exact hs
  · split
    exacts [hs.trip, hs]

theorem Calm.otpProgram {i v} : Calm o (s.otpProgram i v) := hs.frame

theorem Calm.extend {i d} : Calm o (s.extend i d) := hs.frame

theorem Calm.flashErase {o' n} : Calm o (s.flashErase o' n) := hs.frame

theorem Calm.flashProgram {o' bs} : Calm o (s.flashProgram o' bs) := hs.frame

theorem Calm.nextRec : Calm o s.nextRec.2 := by
  unfold State.nextRec
  split
  exacts [hs.takeFree, hs, hs, .iteP hs hs]

theorem Calm.updDone : Calm o s.updDone := by
  unfold State.updDone
  split
  exacts [hs, hs.rset.frame]

theorem Calm.grantDebug {lvl digest} : Calm o (s.grantDebug lvl digest) := hs.extend.frame

theorem Calm.eraseKeys : Calm o s.eraseKeys := hs.frame

theorem Calm.nvApply {x} : Calm o (s.nvApply x) := by
  unfold State.nvApply
  split
  · exact hs.flashErase.updDone
  · exact hs.flashProgram.updDone
  · exact hs.otpProgram
  · exact hs.frame
  · exact hs.frame
  · exact hs.eraseKeys.otpProgram.grantDebug

theorem Calm.nvRequest {op nowait} : Calm o (s.nvRequest op nowait).2 := .iteP hs.nvApply (.iteP hs hs.pmc)

theorem Calm.secRead {a n} : Calm o (s.secRead a n).2 := by
  unfold State.secRead
  split
  · next e => exact hs.physAccess.of_eq e
  · next e => exact hs.physAccess.of_eq e

theorem Calm.secWrite {a d} : Calm o (s.secWrite a d).2 := by
  unfold State.secWrite
  split
  · next e => exact hs.physAccess.of_eq e
  · next e => exact hs.physAccess.of_eq e

theorem Calm.secAnswer {k op tag st deferred} : Calm o (s.secAnswer k op tag st deferred) := by
  unfold State.secAnswer
  split
  exacts [hs, hs.push]

theorem Calm.answered {q st} : Calm o (s.answered q st) := hs.secAnswer

theorem Calm.secNv {q kind} : Calm o (s.secNv q kind) := by
  unfold State.secNv
  split
  · next e => exact (hs.nvRequest.of_eq e).answered
  · next e => exact (hs.nvRequest.of_eq e).answered
  · next e => exact hs.nvRequest.of_eq e

theorem Calm.withBuf {q n f} (hf : ∀ {b t}, Calm o t → Calm o (f b t)) : Calm o (s.withBuf q n f) := by
  unfold State.withBuf
  split
  · next e => exact (hs.secRead.of_eq e).answered
  · next e => exact hf (hs.secRead.of_eq e)

theorem Calm.writeBuf {q d} : Calm o (s.writeBuf q d) := by
  unfold State.writeBuf
  split
  · next e => exact (hs.secWrite.of_eq e).answered
  · next e => exact (hs.secWrite.of_eq e).answered

theorem Calm.secAttest {q} : Calm o (s.secAttest q) := hs.withBuf fun hs => (.ite hs.answered hs.frame.writeBuf)

theorem Calm.secCert {q} : Calm o (s.secCert q) := hs.withBuf fun hs => (by
    split
    exacts [hs.answered, hs.writeBuf])

theorem Calm.secExtend {q} : Calm o (s.secExtend q) := hs.withBuf fun hs => hs.extend.answered

theorem Calm.secCounter {q} : Calm o (s.secCounter q) := hs.withBuf fun hs => (.ite hs.answered (.ite hs.answered hs.secNv))

theorem Calm.secKey {q} : Calm o (s.secKey q) := hs.withBuf fun hs => (.ite hs.answered hs.secNv)

theorem Calm.secFlash {q a img} : Calm o (s.secFlash q a img) := .ite hs.rset.frame hs.rset.answered

theorem Calm.updEnd {u st} : Calm o (s.updEnd u st) := .ite hs.rset.frame.secAnswer hs

theorem Calm.updIssue {u op} : Calm o (s.updIssue u op) := by
  unfold State.updIssue
  split
  · next e => exact hs.nvRequest.of_eq e
  · next e => exact (hs.nvRequest.of_eq e).frame
  · next e => exact (hs.nvRequest.of_eq e).updEnd

theorem Calm.updPage {u j} : Calm o (s.updPage u j).2 := hs.secRead

theorem Calm.updRun {u} : Calm o (s.updRun u) := by
  unfold State.updRun
  dsimp only
  split
  · exact hs
  · split
    · exact hs.updIssue
    · split
      · split
        · next e => exact (hs.updPage.of_eq e).updIssue
        · next e => exact (hs.updPage.of_eq e).updEnd
      · split
        · split
          · next e => exact .ite (hs.updPage.of_eq e).updDone (hs.updPage.of_eq e).updEnd
          · next e => exact (hs.updPage.of_eq e).updEnd
        · exact .ite hs.nextRec.updIssue (.ite hs.nextRec.updIssue hs.updEnd)

theorem Calm.secUpdate {q} : Calm o (s.secUpdate q) :=
  hs.withBuf fun hs => (.ite hs.answered (.ite hs.answered (by
    split
    · next e => exact (hs.secRead.of_eq e).answered
    · next e => exact (hs.secRead.of_eq e).secFlash)))

theorem Calm.secDo {k v} : Calm o (s.secDo k v) :=
  .ite hs.answered (.ite hs.answered (.ite hs.secAttest
      (.ite hs.secCert (.ite hs.secExtend (.ite hs.secUpdate (.ite hs.secCounter hs.secKey))))))

theorem Calm.takeHead {k} : Calm o (s.takeHead k) := .ite hs.setSlots.txIrq hs.setSlots

theorem Calm.secServe {k op} : Calm o (s.secServe k op) := by
  unfold State.secServe
  split
  exacts [hs, .ite hs.takeHead.frame.secDo hs]

theorem Calm.brownoutRecord : Calm o s.brownoutRecord := hs.pmcEvent

theorem Calm.nvRelease {o'} : Calm o (s.nvRelease o') := by
  unfold State.nvRelease
  dsimp only
  split
  exacts [hs.nvApply.secAnswer, hs.nvApply]

theorem Calm.releaseDone : Calm o s.releaseDone := .ite hs.pmc.brownoutRecord hs

theorem Calm.rgnWrite {n cfg v} : Calm o (s.rgnWrite n cfg v) := .ite hs.rset hs.rset

theorem Calm.blkworldWrite {v} : Calm o (s.blkworldWrite v) := hs.rset

-- NOSTATE Sys2Proof.Machine.BootStop.st

theorem Calm.bootFirmware {rd b h} : Boots (Calm o) (s.bootFirmware rd b h) :=
  .ite (.stop hs) (.ite (.stop hs.extend) (.done hs.extend.extend))

theorem Calm.bootOwner {rd v o'} : Boots (Calm o) (s.bootOwner rd v o') := by
  unfold State.bootOwner
  dsimp only
  split
  · exact .ite (.stop hs) hs.extend.bootFirmware
  · split
    exacts [.stop hs, hs.extend.bootFirmware]

theorem Calm.bootSlot {slot} : Boots (Calm o) (s.bootSlot slot) := by
  unfold State.bootSlot
  dsimp only
  split
  exacts [.stop hs, .ite (.stop hs) hs.extend.extend.bootOwner]

theorem Calm.bootFail {stage lo hi prog err} : Calm o (s.bootFail stage lo hi prog err) := hs.frame

theorem Calm.bootGive {slot fallback b} : Calm o (s.bootGive slot fallback b) := hs.frame

theorem Calm.bootIdentity : Calm o s.bootIdentity := hs.frame

theorem Calm.loadApp {rd e} : Calm o (s.loadApp rd e) := hs.setBytes

theorem Calm.reserve {units} : Calm o (s.reserve units) := .ite hs hs.rset.rset

theorem Calm.bootAlias : Calm o s.bootAlias := .ite hs hs.frame

theorem Calm.advance {m} : Calm o (s.advance m) := .ite hs.nvRequest hs

theorem Calm.bootReady {b} : Calm o (s.bootReady b) :=
  (show Calm o _ by
    split
    exacts [hs.advance.advance, hs.advance]).frame.event

theorem Calm.bootStage4 {b} : Calm o (s.bootStage4 b) := by
  unfold State.bootStage4
  dsimp only
  split
  · exact hs.extend.bootAlias.bootReady
  · split
    · exact hs.extend.reserve.bootAlias.bootReady
    · exact .ite hs.loadApp.extend.reserve.bootAlias.coreHold.bootReady hs.loadApp.bootFail

theorem Calm.endpointReset : Calm o s.endpointReset := hs.frame.receiverReset

theorem Calm.disableQueues : Calm o s.disableQueues :=
  hs.foldl _ fun _ _ hs => (.ite (Calm.ite hs.fset.setSq hs).fset (.ite hs.fset.setSq hs))

theorem Calm.cfgPut {r v} : Calm o (s.cfgPut r v) := hs.frame

theorem Calm.rpCfgWrite {v} : Calm o (s.rpCfgWrite v) :=
  .ite (Calm.ite hs.fset.fset.fset hs.fset.fset).fset (.ite hs.fset.fset.fset hs.fset.fset)

theorem Calm.rpFail : Calm o s.rpFail := .ite hs.fset.fset.rset hs.fset.fset

theorem Calm.aperture {off data} : Calm o (s.aperture off data) :=
  .ite ⟨hs.mem, hs.engines, hs.snaps, hs.rings, hs.budget⟩ (.ite hs.frame hs.nvApply.frame)

theorem Calm.hclWrite {v} : Calm o (s.hclWrite v) := .ite hs.coresHold.receiverReset hs.coresHold

theorem Calm.usbDone {n len fl} : Calm o (s.usbDone n len fl) := hs.macWrite.fset

theorem Calm.usbAnswer {st d} : Calm o (s.usbAnswer st d) := hs.frame

theorem Calm.usbPacket {n b p setup} : Calm o (s.usbPacket n b p setup).1 := by
  unfold State.usbPacket
  dsimp only
  split
  exacts [hs.macWrite.usbDone.frame, hs.macWrite.frame]

theorem Calm.usbOutRun {n setup k d more} : Calm o (s.usbOutRun n setup k d more) := by
  induction k generalizing s d more with
  | zero => exact hs.usbAnswer
  | succ k ih =>
    unfold State.usbOutRun
    refine .ite hs.usbAnswer (.ite hs.usbAnswer ?_)
    split
    · next e => exact ih (hs.macRead.of_eq e).fset
    · next e => exact ih (hs.macRead.of_eq e).usbPacket

theorem Calm.usbIn {n} : Calm o (s.usbIn n) := by
  unfold State.usbIn
  refine .ite hs.usbAnswer ?_
  split
  · next e => exact (hs.macRead.of_eq e).fset
  · next e =>
    dsimp only
    split
    · next e' => exact ((hs.macRead.of_eq e).macRead.of_eq e').usbDone.usbAnswer
    · next e' => exact ((hs.macRead.of_eq e).macRead.of_eq e').usbDone

theorem Calm.genWrite {r v free} : Calm o (s.genWrite r v free) := hs.rset

theorem Calm.enWrite {r v live ok} : Calm o (s.enWrite r v live ok) :=
  .ite hs.genWrite.fset (.ite hs.genWrite.fset hs.genWrite)

theorem Calm.probeCtlWrite {v} : Calm o (s.probeCtlWrite v) := .ite hs.genWrite.frame (.ite hs.genWrite hs.genWrite.askAll)

theorem Calm.winCtlWrite {e w v} : Calm o (s.winCtlWrite e w v) := (Calm.ite hs.fset hs).winCtl

theorem Calm.dmcCfgWrite {v} : Calm o (s.dmcCfgWrite v) := .ite (Calm.ite hs.fset hs).setUse (.ite hs.fset hs)

theorem Calm.engcycWrite {c v} : Calm o (s.engcycWrite c v) := hs.rset

theorem Calm.frCtlClear {r v} : Calm o (s.frCtlClear r v) := hs.genWrite

theorem Calm.rpCtlWrite {v} : Calm o (s.rpCtlWrite v) := .ite hs.fset.frame hs.fset

theorem Calm.msixHalf {off v} : Calm o (s.msixHalf off v) := .ite hs.fset hs.fset

theorem Calm.placeOne {a bs} : Calm o (s.placeOne a bs).2 := by
  unfold State.placeOne
  dsimp only
  split
  · next e => exact hs.piecesCheck.of_eq e
  · next e => exact (hs.piecesCheck.of_eq e).writePieces

theorem Calm.placeAll {a l} : Calm o (s.placeAll a l).2 := by
  induction l generalizing s with
  | nil => exact hs
  | cons a l ih => exact ih hs.placeOne

theorem Calm.placeOn {b tbase l} : Calm o (s.placeOn b tbase l).2 := by
  induction l generalizing s with
  | nil => exact hs
  | cons a l ih => exact ih hs.placeAll

theorem Calm.loadProg {c n size} : Calm o (s.loadProg c n size) := hs.rset

theorem Calm.loadEnd {c} : Calm o (s.loadEnd c) := hs.rset

end

end Sys2Proof.Machine

/-! SUPPORT. The allocation procedure (R391). -/
namespace Sys2Proof.Machine

open Sys2Proof

-- one proof after the other: a thread for each would need too much memory
set_option Elab.async false

/-! ### The allocation procedure (R391): what it leaves alone -/

/-- `y` is `x` but for its grant and its allocation; an engine that has a command keeps it. -/
structure Engine.Allots (x y : Engine) : Prop where
  frame : y = { x with grant := y.grant, alloc := y.alloc, fall := y.fall, floorHeld := y.floorHeld, run := y.run }
  run : x.run ≠ .idle → y.run ≠ .idle

/-- `t` is `s` but for the grants and the allocations. -/
structure Allots (s t : State) : Prop where
  frame : t = { s with engines := t.engines, pmc := t.pmc }
  pmc : t.pmc = { s.pmc with
    allocRt := t.pmc.allocRt, allocMem := t.pmc.allocMem, avail := t.pmc.avail, effcap := t.pmc.effcap }
  eng : ∀ e, (s.eng e).Allots (t.eng e)

theorem Engine.Allots.refl (x : Engine) : x.Allots x := ⟨rfl, id⟩

theorem Engine.Allots.trans {x y z : Engine} (h : x.Allots y) (g : y.Allots z) : x.Allots z :=
  ⟨by rw [g.frame, h.frame], g.run ∘ h.run⟩

theorem Allots.refl (s : State) : Allots s s := ⟨rfl, rfl, fun _ => .refl _⟩

variable {r s t : State}

theorem Allots.trans (h : Allots r s) (g : Allots s t) : Allots r t :=
  ⟨by rw [g.frame, h.frame], by rw [g.pmc, h.pmc], fun e => (h.eng e).trans (g.eng e)⟩

theorem Allots.modEng (h : Allots r s) {e : Nat} {f : Engine → Engine} (hf : (s.eng e).Allots (f (s.eng e))) :
    Allots r (s.modEng e f) := by
  refine h.trans ⟨rfl, rfl, fun j => ?_⟩
  rw [State.modEng, State.eng_setEng]
  split
  · next same => exact same ▸ hf
  · exact .refl _

theorem Allots.foldl {α : Type} {f : State → α → State} (h : Allots r s) (l : List α)
    (hf : ∀ t a, Allots r t → Allots r (f t a)) : Allots r (l.foldl f s) := by
  induction l generalizing s with
  | nil => exact h
  | cons a l ih => exact ih (hf s a h)

theorem Allots.capTarget (h : Allots s t) : t.capTarget = s.capTarget := by
  have regs : t.regs = s.regs := by rw [h.frame]
  have limit : t.pmc.tlimit = s.pmc.tlimit := by rw [h.pmc]
  rw [State.capTarget, State.capTarget, limit]
  simp only [State.fget, State.rget, regs]

theorem Allots.fixedPart (h : Allots s t) : t.fixedPart = s.fixedPart := by
  have idle (e : Nat) : (t.eng e).idle = (s.eng e).idle := by rw [(h.eng e).frame]
  have temps : t.pmc.temps = s.pmc.temps := by rw [h.pmc]
  have hc : t.pmc.pdHc = s.pmc.pdHc := by rw [h.pmc]
  have media : t.pmc.pdMedia = s.pmc.pdMedia := by rw [h.pmc]
  simp only [State.fixedPart, State.temp, temps, hc, media, idle]

theorem Allots.task (h : Allots s t) (e : Nat) : (t.eng e).task = (s.eng e).task := by rw [(h.eng e).frame]

/-- The allocation procedure keeps every invariant but the power sum. -/
theorem Allots.keeps (h : Allots s t) (power : s.powerOk → t.powerOk) : Keeps s t := by
  have mem : t.mem = s.mem := by rw [h.frame]
  have snaps : t.snaps = s.snaps := by rw [h.frame]
  have ring : t.ring = s.ring := by rw [h.frame]; rfl
  have fq (e q : Nat) : (t.eng e).fq q = (s.eng e).fq q := by rw [(h.eng e).frame]; rfl
  refine ⟨fun hs => mem ▸ hs, fun ⟨queues, pops⟩ => ⟨fun e q => by rw [fq]; exact queues e q, fun e p q c hp hc => ?_⟩,
    fun hs => ?_, power, h.fixedPart⟩
  · obtain ⟨returned, runs⟩ := pops e p q c (snaps ▸ hp) hc
    exact ⟨by rw [fq]; exact returned, (h.eng e).run runs⟩
  · rw [State.ringsOk, ring, snaps]
    exact hs

theorem Allots.withdraw (lim k : Nat) (h : Allots r s) : Allots r (s.withdraw lim k) := by
  induction k generalizing s with
  | zero => exact h
  | succ k ih =>
    unfold State.withdraw
    split
    · split
      · exact ih (h.modEng ⟨rfl, id⟩)
      · exact h
    · exact h

theorem Engine.Allots.lower (x : Engine) (n a : Nat) : x.Allots (x.lower n a) := by
  unfold Engine.lower
  split <;> exact ⟨rfl, id⟩

theorem Engine.Allots.raise (x : Engine) (n a : Nat) : x.Allots (x.raise n a) := by
  refine ⟨rfl, fun hx => ?_⟩
  unfold Engine.raise
  dsimp only
  split
  · nofun
  · exact hx

theorem Allots.applyGrants (h : Allots r s) (gs : List (Nat × Nat × Nat)) : Allots r (s.applyGrants gs) := by
  have falls := h.foldl (f := fun t g => t.modEng g.1 fun x => x.lower g.2.1 g.2.2)
    (gs.filter fun g => (s.eng g.1).floorHeld && decide (g.2.2 ≤ (s.eng g.1).alloc)) fun t g ht => ht.modEng (.lower _ _ _)
  unfold State.applyGrants
  dsimp only
  split
  · exact falls
  · exact falls.foldl _ fun t g ht => ht.modEng (.raise _ _ _)

theorem Allots.classAlloc (h : Allots r s) (rt mem : Nat) : Allots r (s.classAlloc rt mem) := h.trans
    ⟨rfl, rfl, fun _ => .refl _⟩

theorem Allots.followCap (h : Allots r s) : Allots r s.followCap := by
  unfold State.followCap
  dsimp only
  split
  · exact h.trans ⟨rfl, rfl, fun _ => .refl _⟩
  · exact h

theorem Allots.allocate (h : Allots r s) : Allots r s.allocate := by
  have floors := h.withdraw (s.capTarget - s.fixedPart - s.fget .pmcRes 15 0 - s.fget .pmcRes 31 16) 6
  unfold State.allocate
  refine Allots.followCap (Allots.classAlloc (Allots.applyGrants ?_ _) _ _)
  exact floors.trans ⟨rfl, rfl, fun _ => .refl _⟩

/-! ### The floors that are held -/

theorem State.victim_mem {s : State} {l : List Nat} {e : Nat} (h : s.victim l = some e) : e ∈ l := by
  induction l generalizing e with
  | nil => contradiction
  | cons a l ih =>
    unfold State.victim at h
    split at h
    · cases h; exact List.mem_cons_self
    · next f hf =>
      split at h
      · cases h; exact List.mem_cons_self
      · cases h; exact List.mem_cons_of_mem _ (ih hf)

theorem State.victim_isSome {s : State} {l : List Nat} (h : l ≠ []) : (s.victim l).isSome := by
  cases l with
  | nil => contradiction
  | cons a l =>
    unfold State.victim
    split
    · rfl
    · split <;> rfl

theorem State.holders_withdrawn (s : State) (e : Nat) :
    (s.modEng e fun x => { x with floorHeld := false }).holders = s.holders.filter fun f => f ≠ e := by
  rw [State.holders, State.holders, List.filter_filter]
  refine List.filter_congr fun f _ => ?_
  rw [State.modEng, State.eng_setEng]
  split
  · next same => simp [same]
  · next other => simp [other]

/-- Floors are withdrawn until those held fit. -/
theorem State.withdraw_within (lim k : Nat) (s : State) (h : s.holders.length ≤ k) :
    ((s.withdraw lim k).holders.map (s.withdraw lim k).floorOf).sum ≤ lim := by
  induction k generalizing s with
  | zero =>
    rw [State.withdraw, List.length_eq_zero_iff.mp (Nat.le_zero.mp h)]
    exact Nat.zero_le _
  | succ k ih =>
    unfold State.withdraw
    split
    · next exceeds =>
      have some : s.holders ≠ [] := fun none => by simp [none] at exceeds
      obtain ⟨e, he⟩ := Option.isSome_iff_exists.mp (State.victim_isSome (s := s) some)
      rw [he]
      refine ih _ ?_
      have fewer : (s.holders.filter fun f => f ≠ e).length < s.holders.length :=
        List.length_filter_lt_length_iff_exists.mpr ⟨e, State.victim_mem he, by simp⟩
      rw [State.holders_withdrawn]
      omega
    · next fit => exact Nat.le_of_not_lt fit

/-! ### The grants -/

/-- The climb ends at an operating point that fits beside the floor, the lowest at the floor itself. -/
theorem State.climb_within (s : State) (e avail k n : Nat) (hn : n ≤ 112) (hk : 112 ≤ n + k) :
    s.needAt e (s.climb e (s.floorOf e) avail k n) - s.floorOf e ≤ avail := by
  induction k generalizing n with
  | zero =>
    have last : n = 112 := by omega
    rw [State.climb, last, State.floorOf]
    omega
  | succ k ih =>
    unfold State.climb
    split
    · exact ih (n + 1) (by omega) (by omega)
    · next ends =>
      by_cases last : n = 112
      · rw [last, State.floorOf]
        omega
      · omega

/-- What the procedure has reserved for an engine before its turn. -/
def State.heldFloor (s : State) (e : Nat) : Nat := if (s.eng e).floorHeld then s.floorOf e else 0

/-- The sum of granted allocations. -/
def grantSum (gs : List (Nat × Nat × Nat)) : Nat := (gs.map (·.2.2)).sum

theorem grantSum_append (gs : List (Nat × Nat × Nat)) (e n a : Nat) : grantSum (gs ++ [(e, n, a)]) = grantSum gs + a := by
  simp [grantSum]

theorem State.planOne_within (s : State) (p : Nat × List (Nat × Nat × Nat)) (e : Nat) :
    (s.planOne p e).1 + grantSum (s.planOne p e).2 ≤ p.1 + grantSum p.2 + s.heldFloor e := by
  have fits (avail : Nat) := s.climb_within e avail 112 (min 112 (max (s.reqN e) (s.nmin e))) (by omega) (by omega)
  unfold State.planOne State.heldFloor
  cases held : (s.eng e).floorHeld with
  | true =>
    have fit := fits p.1
    simp only [Bool.not_true, Bool.false_and, Bool.false_eq_true, if_false, if_true, grantSum_append]
    omega
  | false =>
    simp only [Bool.not_false, Bool.true_and, decide_eq_true_eq, Bool.false_eq_true, if_false]
    split
    · exact Nat.le_refl _
    · have fit := fits (p.1 - s.floorOf e)
      rw [grantSum_append]
      omega

theorem State.plan_within (s : State) (l : List Nat) (p : Nat × List (Nat × Nat × Nat)) :
    (l.foldl s.planOne p).1 + grantSum (l.foldl s.planOne p).2 ≤ p.1 + grantSum p.2 + (l.map s.heldFloor).sum := by
  induction l generalizing p with
  | nil => exact Nat.le_refl _
  | cons e l ih =>
    have one := s.planOne_within p e
    have rest := ih (s.planOne p e)
    rw [List.foldl_cons, List.map_cons, List.sum_cons]
    omega

/-- The engines that get a grant: some of those in turn, and every one that holds a floor. -/
theorem State.plan_engines (s : State) (l : List Nat) (p : Nat × List (Nat × Nat × Nat)) :
    ∃ k, (l.foldl s.planOne p).2.map (·.1) = p.2.map (·.1) ++ k ∧ k.Sublist l ∧
      ∀ e ∈ l, (s.eng e).floorHeld = true → e ∈ k := by
  induction l generalizing p with
  | nil => exact ⟨[], by simp, .slnil, fun _ h => by contradiction⟩
  | cons a l ih =>
    obtain ⟨k, engines, sub, held⟩ := ih (s.planOne p a)
    rw [List.foldl_cons, engines]
    by_cases skip : (!(s.eng a).floorHeld && decide (p.1 < s.floorOf a)) = true
    · refine ⟨k, by rw [State.planOne, if_pos skip], sub.cons _, fun e he hold => ?_⟩
      obtain rfl | he := List.mem_cons.mp he
      · simp [hold] at skip
      · exact held e he hold
    · refine ⟨a :: k, ?_, sub.cons_cons a, fun e he hold => ?_⟩
      · rw [State.planOne, if_neg skip]
        simp
      · obtain rfl | he := List.mem_cons.mp he
        · exact List.mem_cons_self
        · exact List.mem_cons_of_mem _ (held e he hold)

theorem State.classOf_le (s : State) (e : Nat) : s.classOf e ≤ 7 := by
  unfold State.classOf
  split
  · exact Nat.min_le_left _ _
  · exact Nat.zero_le _

theorem State.mem_planOrder {s : State} {e : Nat} : e ∈ s.planOrder ↔ e < 6 ∧ (s.eng e).task.isSome := by
  have class_ := s.classOf_le e
  simp only [State.planOrder, List.mem_flatMap, List.mem_filter, List.mem_range, Bool.and_eq_true, beq_iff_eq]
  constructor
  · rintro ⟨_, _, he, task, _⟩
    exact ⟨he, task⟩
  · rintro ⟨he, task⟩
    exact ⟨7 - s.classOf e, by omega, he, task, by omega⟩

theorem State.planOrder_nodup (s : State) : s.planOrder.Nodup := by
  refine List.nodup_flatMap.mpr ⟨fun c _ => List.nodup_range.filter _, ?_⟩
  refine List.Pairwise.imp_of_mem ?_ (List.nodup_range (n := 8))
  intro c d hc hd differ e he he'
  simp only [List.mem_range] at hc hd
  simp only [List.mem_filter, Bool.and_eq_true, beq_iff_eq] at he he'
  omega

/-- The floors reserved for the engines in turn are those that are held. -/
theorem State.heldFloor_planOrder (s : State) : (s.planOrder.map s.heldFloor).sum = (s.holders.map s.floorOf).sum := by
  have order : s.planOrder.Perm ((List.range 6).filter fun e => (s.eng e).task.isSome) := by
    refine (List.perm_ext_iff_of_nodup s.planOrder_nodup (List.nodup_range.filter _)).mpr fun e => ?_
    simp only [State.mem_planOrder, List.mem_filter, List.mem_range]
  rw [(order.map s.heldFloor).sum_eq, State.holders]
  generalize List.range 6 = l
  induction l with
  | nil => rfl
  | cons e l ih =>
    cases task : (s.eng e).task.isSome <;> cases held : (s.eng e).floorHeld <;> simp [task, held, ih, State.heldFloor]

/-! ### Grants applied -/

theorem State.eng_foldl_modEng_other (f : Nat × Nat × Nat → Engine → Engine) (gs : List (Nat × Nat × Nat)) (s : State)
    {e : Nat}
    (h : e ∉ gs.map (·.1)) : (gs.foldl (fun t g => t.modEng g.1 (f g)) s).eng e = s.eng e := by
  induction gs generalizing s with
  | nil => rfl
  | cons g gs ih =>
    rw [List.map_cons, List.mem_cons, not_or] at h
    rw [List.foldl_cons, ih _ h.2, State.modEng, State.eng_setEng, if_neg h.1]

theorem State.eng_foldl_modEng_mem (f : Nat × Nat × Nat → Engine → Engine) (gs : List (Nat × Nat × Nat)) (s : State)
    {g : Nat × Nat × Nat} (once : (gs.map (·.1)).Nodup) (h : g ∈ gs) :
    (gs.foldl (fun t g => t.modEng g.1 (f g)) s).eng g.1 = f g (s.eng g.1) := by
  induction gs generalizing s with
  | nil => contradiction
  | cons k gs ih =>
    rw [List.map_cons, List.nodup_cons] at once
    rw [List.foldl_cons]
    obtain rfl | h := List.mem_cons.mp h
    · rw [State.eng_foldl_modEng_other f gs _ once.1, State.modEng, State.eng_setEng, if_pos rfl]
    · have other : g.1 ≠ k.1 := fun same => once.1 (same ▸ List.mem_map_of_mem h)
      rw [ih _ once.2 h, State.modEng, State.eng_setEng, if_neg other]

/-- Allocations of the granted engines alone, each as granted, have the sum of the grants at most. -/
theorem sum_alloc_le (alloc : Nat → Nat) (gs : List (Nat × Nat × Nat)) (once : (gs.map (·.1)).Nodup)
    (granted : ∀ g ∈ gs, alloc g.1 = g.2.2) (other : ∀ e, e < 6 → e ∉ gs.map (·.1) → alloc e = 0) :
    ((List.range 6).map alloc).sum ≤ grantSum gs := by
  have grants : grantSum gs = ((gs.map (·.1)).map alloc).sum := by
    rw [grantSum, List.map_map]
    exact congrArg List.sum (List.map_congr_left fun g hg => (granted g hg).symm)
  rw [grants, ← List.sum_toFinset alloc once, ← List.sum_toFinset alloc List.nodup_range]
  refine Finset.sum_le_sum_of_ne_zero fun e he some => ?_
  simp only [List.mem_toFinset, List.mem_range] at he ⊢
  exact Classical.byContradiction fun none => some (other e he none)

/-! ### The sum after the grants -/

/-- Grants whose allocation does not rise. -/
def State.lowerings (s : State) (gs : List (Nat × Nat × Nat)) : List (Nat × Nat × Nat) :=
  gs.filter fun g => (s.eng g.1).floorHeld && decide (g.2.2 ≤ (s.eng g.1).alloc)

/-- The other grants. -/
def State.raisings (s : State) (gs : List (Nat × Nat × Nat)) : List (Nat × Nat × Nat) :=
  gs.filter fun g => !((s.eng g.1).floorHeld && decide (g.2.2 ≤ (s.eng g.1).alloc))

def State.lowered (s : State) (gs : List (Nat × Nat × Nat)) : State :=
  (s.lowerings gs).foldl (fun t g => t.modEng g.1 fun x => x.lower g.2.1 g.2.2) s

def State.raised (s : State) (gs : List (Nat × Nat × Nat)) : State :=
  (s.raisings gs).foldl (fun t g => t.modEng g.1 fun x => x.raise g.2.1 g.2.2) s

theorem State.applyGrants_falling {s : State} {gs : List (Nat × Nat × Nat)} (h : (s.lowered gs).anyFalling = true) :
    s.applyGrants gs = s.lowered gs := if_pos h

theorem State.applyGrants_settled {s : State} {gs : List (Nat × Nat × Nat)} (h : (s.lowered gs).anyFalling = false) :
    s.applyGrants gs = (s.lowered gs).raised gs := if_neg (Bool.eq_false_iff.mp h)

theorem Engine.lower_powerOk {x : Engine} {n a : Nat} (h : x.powerOk) (le : a ≤ x.alloc) :
    (x.lower n a).powerOk ∧ (x.lower n a).alloc ≤ x.alloc := by
  obtain ⟨none, -⟩ := h
  unfold Engine.lower
  split
  · exact ⟨⟨fun task => Nat.le_zero.mp (none task ▸ le), nofun⟩, le⟩
  · refine ⟨⟨none, fun b fall => ?_⟩, Nat.le_refl _⟩
    cases fall
    exact le

/-- A fall that is not under way has been made. -/
theorem Engine.lower_alloc {x : Engine} {n a : Nat} (h : (x.lower n a).falling = false) : (x.lower n a).alloc = a := by
  by_cases same : n = x.curN
  · rw [Engine.lower, if_pos same]
  · rw [Engine.lower, if_neg same] at h
    simp [Engine.falling] at h

theorem State.not_falling {s : State} (h : s.anyFalling = false) {e : Nat} (le : e < 6) : (s.eng e).falling = false := by
  simpa using List.any_eq_false.mp h e (List.mem_range.mpr le)

/-- The grants of a plan: each engine once, with a command, and every engine that holds a floor. -/
structure Granted (s : State) (gs : List (Nat × Nat × Nat)) : Prop where
  once : (gs.map (·.1)).Nodup
  task : ∀ e ∈ gs.map (·.1), e < 6 ∧ (s.eng e).task.isSome
  held : ∀ e, e < 6 → (s.eng e).task.isSome → (s.eng e).floorHeld = true → e ∈ gs.map (·.1)

section
variable {s : State} {gs : List (Nat × Nat × Nat)} (h : Granted s gs)
include h

theorem Granted.eq {g k : Nat × Nat × Nat} (hg : g ∈ gs) (hk : k ∈ gs) (same : g.1 = k.1) : g = k :=
  List.inj_on_of_nodup_map h.once hg hk same

theorem Granted.lowerings_once : ((s.lowerings gs).map (·.1)).Nodup := h.once.sublist (List.filter_sublist.map _)

theorem Granted.raisings_once (t : State) : ((t.raisings gs).map (·.1)).Nodup := h.once.sublist (List.filter_sublist.map _)

/-- What the first pass makes of an engine. -/
theorem Granted.lowered_eng (e : Nat) :
    (s.lowered gs).eng e = s.eng e ∧ e ∉ (s.lowerings gs).map (·.1) ∨
    ∃ g ∈ gs, g.1 = e ∧ g.2.2 ≤ (s.eng e).alloc ∧ (s.eng e).floorHeld = true ∧
      (s.lowered gs).eng e = (s.eng e).lower g.2.1 g.2.2 := by
  by_cases lowers : e ∈ (s.lowerings gs).map (·.1)
  · obtain ⟨g, hg, rfl⟩ := List.mem_map.mp lowers
    have mem := List.mem_filter.mp hg
    simp only [Bool.and_eq_true, decide_eq_true_eq] at mem
    exact .inr ⟨g, mem.1, rfl, mem.2.2, mem.2.1, State.eng_foldl_modEng_mem (fun g x => x.lower g.2.1 g.2.2) _ s
        h.lowerings_once hg⟩
  · exact .inl ⟨State.eng_foldl_modEng_other (fun g x => x.lower g.2.1 g.2.2) _ s lowers, lowers⟩

theorem Granted.lowered_powerOk {e : Nat} (ok : (s.eng e).powerOk) :
    ((s.lowered gs).eng e).powerOk ∧ ((s.lowered gs).eng e).alloc ≤ (s.eng e).alloc := by
  obtain ⟨eng, -⟩ | ⟨g, -, -, le, -, eng⟩ := h.lowered_eng e
  · rw [eng]
    exact ⟨ok, Nat.le_refl _⟩
  · rw [eng]
    exact Engine.lower_powerOk ok le

theorem Granted.lowered_task (e : Nat) : ((s.lowered gs).eng e).task = (s.eng e).task := by
  obtain ⟨eng, -⟩ | ⟨g, -, -, -, -, eng⟩ := h.lowered_eng e
  · rw [eng]
  · rw [eng, (Engine.Allots.lower _ _ _).frame]

/-- What the second pass makes of an engine. -/
theorem Granted.raised_eng (t : State) (e : Nat) :
    (t.raised gs).eng e = t.eng e ∧ e ∉ (t.raisings gs).map (·.1) ∨
    ∃ g ∈ gs, g.1 = e ∧ (t.raised gs).eng e = (t.eng e).raise g.2.1 g.2.2 := by
  by_cases raises : e ∈ (t.raisings gs).map (·.1)
  · obtain ⟨g, hg, rfl⟩ := List.mem_map.mp raises
    exact .inr ⟨g, (List.mem_filter.mp hg).1, rfl,
      State.eng_foldl_modEng_mem (fun g x => x.raise g.2.1 g.2.2) _ t (h.raisings_once t) hg⟩
  · exact .inl ⟨State.eng_foldl_modEng_other (fun g x => x.raise g.2.1 g.2.2) _ t raises, raises⟩

/-- Where no allocation falls, each engine ends with what it was granted. -/
theorem Granted.raised_alloc (settled : (s.lowered gs).anyFalling = false) {g : Nat × Nat × Nat} (hg : g ∈ gs) :
    (((s.lowered gs).raised gs).eng g.1).alloc = g.2.2 := by
  obtain ⟨eng, stays⟩ | ⟨k, hk, same, eng⟩ := h.raised_eng (s.lowered gs) g.1
  · rw [eng]
    have fits : ((s.lowered gs).eng g.1).floorHeld = true ∧ g.2.2 ≤ ((s.lowered gs).eng g.1).alloc := by
      refine Classical.byContradiction fun not => stays (List.mem_map_of_mem (List.mem_filter.mpr ⟨hg, ?_⟩))
      simpa [-not_and, not_and_or] using not
    obtain ⟨eng', stays'⟩ | ⟨k, hk, same, le, held, eng'⟩ := h.lowered_eng g.1
    · rw [eng'] at fits
      exact absurd (List.mem_map_of_mem (List.mem_filter.mpr ⟨hg, by simpa using fits⟩)) stays'
    · obtain rfl := h.eq hk hg same
      have still := State.not_falling settled (h.task _ (List.mem_map_of_mem hg)).1
      rw [eng'] at still ⊢
      exact Engine.lower_alloc still
  · obtain rfl := h.eq hk hg same
    rw [eng]
    rfl

theorem Granted.raised_other (ok : ∀ e, e < 6 → (s.eng e).powerOk) (settled : (s.lowered gs).anyFalling = false) {e : Nat}
    (le : e < 6) (he : e ∉ gs.map (·.1)) : (((s.lowered gs).raised gs).eng e).alloc = 0 := by
  have unraised : ((s.lowered gs).raised gs).eng e = (s.lowered gs).eng e := by
    obtain ⟨eng, -⟩ | ⟨g, hg, rfl, -⟩ := h.raised_eng (s.lowered gs) e
    · exact eng
    · exact absurd (List.mem_map_of_mem hg) he
  have unlowered : (s.lowered gs).eng e = s.eng e := by
    obtain ⟨eng, -⟩ | ⟨g, hg, rfl, -⟩ := h.lowered_eng e
    · exact eng
    · exact absurd (List.mem_map_of_mem hg) he
  have still := State.not_falling settled le
  rw [unraised]
  rw [unlowered] at still ⊢
  cases task : (s.eng e).task with
  | none => exact (ok e le).1 task
  | some k =>
    have loose : (s.eng e).floorHeld = false := Bool.eq_false_iff.mpr fun held => he (h.held e le (by simp [task]) held)
    simp only [Engine.falling, loose, Bool.not_false, Bool.true_and, Bool.or_eq_false_iff, decide_eq_false_iff_not] at still
    omega

/-- An allocation is still falling and none has risen, or the allocations are what was granted. -/
theorem Granted.sum (ok : ∀ e, e < 6 → (s.eng e).powerOk) :
    (s.applyGrants gs).anyFalling = true ∧ (∀ e, e < 6 → ((s.applyGrants gs).eng e).alloc ≤ (s.eng e).alloc) ∨
    ((List.range 6).map fun e => ((s.applyGrants gs).eng e).alloc).sum ≤ grantSum gs := by
  cases falls : (s.lowered gs).anyFalling with
  | true =>
    rw [State.applyGrants_falling falls]
    exact .inl ⟨falls, fun e le => (h.lowered_powerOk (ok e le)).2⟩
  | false =>
    rw [State.applyGrants_settled falls]
    exact .inr (sum_alloc_le _ gs h.once (fun g hg => h.raised_alloc falls hg) fun e le he => h.raised_other ok falls le he)

theorem Granted.powerOk (ok : ∀ e, e < 6 → (s.eng e).powerOk) {e : Nat} (le : e < 6) :
    ((s.applyGrants gs).eng e).powerOk := by
  have lowered := (h.lowered_powerOk (ok e le)).1
  cases falls : (s.lowered gs).anyFalling with
  | true => rwa [State.applyGrants_falling falls]
  | false =>
    rw [State.applyGrants_settled falls]
    obtain ⟨eng, -⟩ | ⟨g, hg, rfl, eng⟩ := h.raised_eng (s.lowered gs) e
    · rwa [eng]
    · have task := (h.task _ (List.mem_map_of_mem hg)).2
      rw [eng]
      refine ⟨fun none => ?_, nofun⟩
      rw [← h.lowered_task] at task
      exact absurd (show ((s.lowered gs).eng g.1).task = .none from none) (Option.isSome_iff_ne_none.mp task)

end

/-! ### The effective cap -/

theorem State.followCap_engines (s : State) : s.followCap.engines = s.engines := by
  unfold State.followCap
  dsimp only
  split <;> rfl

theorem State.followCap_eng (s : State) (e : Nat) : s.followCap.eng e = s.eng e := by
  rw [State.eng, State.eng, s.followCap_engines]

theorem State.followCap_allocSum (s : State) : s.followCap.allocSum = s.allocSum := by
  unfold State.followCap
  dsimp only
  split <;> rfl

theorem State.followCap_fixedPart (s : State) : s.followCap.fixedPart = s.fixedPart := ((Allots.refl s).followCap).fixedPart

theorem State.followCap_effcap (s : State) :
    s.followCap.pmc.effcap = s.capTarget ∧ (s.pmc.effcap ≤ s.capTarget ∨ s.allocSum + s.fixedPart ≤ s.capTarget) ∨
    s.followCap.pmc.effcap = s.pmc.effcap ∧ s.capTarget < s.pmc.effcap ∧ s.capTarget < s.allocSum + s.fixedPart := by
  unfold State.followCap
  dsimp only
  split
  · next follows => exact .inl ⟨rfl, follows⟩
  · next stays => exact .inr ⟨rfl, by omega⟩

/-- The effective cap follows its target only where the allocations fit under it. -/
theorem State.followCap_powerOk {s : State} (h : s.powerOk) : s.followCap.powerOk := by
  obtain ⟨sum, eng⟩ := h
  refine ⟨?_, fun e le => by rw [s.followCap_eng]; exact eng e le⟩
  rw [s.followCap_allocSum, s.followCap_fixedPart]
  obtain ⟨cap, _⟩ | ⟨cap, _⟩ := s.followCap_effcap <;> omega

/-! ### The procedure as a whole -/

/-- The state with the floors withdrawn that do not fit. -/
@[irreducible] def State.floored (s : State) : State :=
  s.withdraw (s.capTarget - s.fixedPart - s.fget .pmcRes 15 0 - s.fget .pmcRes 31 16) 6

/-- What the target leaves over the fixed part and the floors. -/
def State.spare (s : State) : Nat := s.capTarget - s.fixedPart - (s.floored.holders.map s.floored.floorOf).sum

def State.rtShare (s : State) : Nat := min s.spare (max s.floored.pmc.demRt (s.floored.fget .pmcRes 15 0))

def State.memShare (s : State) : Nat := min (s.spare - s.rtShare) (max s.floored.pmc.demMem (s.floored.fget .pmcRes 31 16))

@[irreducible] def State.plan (s : State) : Nat × List (Nat × Nat × Nat) :=
  s.floored.planOrder.foldl s.floored.planOne (s.spare - s.rtShare - s.memShare, [])

/-- The state to which the grants are applied. -/
def State.planned (s : State) : State :=
  { s.floored with pmc := { s.floored.pmc with
    allocRt := min s.floored.pmc.allocRt s.rtShare, allocMem := min s.floored.pmc.allocMem s.memShare, avail := s.plan.1 } }

/-- The state with the grants applied. -/
@[irreducible] def State.granted (s : State) : State := s.planned.applyGrants s.plan.2

/-- The state that the effective cap follows last. -/
def State.allotted (s : State) : State := s.granted.classAlloc s.rtShare s.memShare

theorem State.allocate_eq (s : State) : s.allocate = s.allotted.followCap := by
  unfold State.allotted State.granted State.planned State.memShare State.rtShare State.plan State.memShare State.rtShare
      State.spare
    State.floored
  rfl

theorem State.withdraw_engine (lim k : Nat) (s : State) (e : Nat) :
    ((s.withdraw lim k).eng e).alloc = (s.eng e).alloc ∧ ((s.withdraw lim k).eng e).fall = (s.eng e).fall := by
  induction k generalizing s with
  | zero => exact ⟨rfl, rfl⟩
  | succ k ih =>
    unfold State.withdraw
    split
    · split
      · next f _ =>
        obtain ⟨alloc, fall⟩ := ih (s.modEng f fun x => { x with floorHeld := false })
        rw [alloc, fall, State.modEng, State.eng_setEng]
        split
        · next same => exact same ▸ ⟨rfl, rfl⟩
        · exact ⟨rfl, rfl⟩
      · exact ⟨rfl, rfl⟩
    · exact ⟨rfl, rfl⟩

theorem State.withdraw_pmc (lim k : Nat) (s : State) : (s.withdraw lim k).pmc = s.pmc := by
  induction k generalizing s with
  | zero => rfl
  | succ k ih =>
    unfold State.withdraw
    split
    · split
      · exact ih _
      · rfl
    · rfl

theorem State.holders_length_le (s : State) : s.holders.length ≤ 6 :=
  Nat.le_trans (List.length_filter_le _ _) (Nat.le_of_eq List.length_range)

/-- A plan over the engines in turn grants each once. -/
theorem State.plan_granted (s : State) (a : Nat) : Granted s (s.planOrder.foldl s.planOne (a, [])).2 := by
  obtain ⟨k, engines, sub, held⟩ := s.plan_engines s.planOrder (a, [])
  rw [List.map_nil, List.nil_append] at engines
  refine ⟨engines ▸ s.planOrder_nodup.sublist sub, fun e he => ?_, fun e le task hold => ?_⟩
  · exact State.mem_planOrder.mp (sub.subset (engines ▸ he))
  · exact engines ▸ held e (State.mem_planOrder.mpr ⟨le, task⟩) hold

theorem State.floored_within (s : State) :
    (s.floored.holders.map s.floored.floorOf).sum ≤ s.capTarget - s.fixedPart - s.fget .pmcRes 15 0 - s.fget .pmcRes 31
        16 := by
  unfold State.floored
  exact State.withdraw_within _ 6 s s.holders_length_le

theorem State.floored_allots (s : State) : Allots s s.floored := by
  unfold State.floored
  exact (Allots.refl s).withdraw _ 6

theorem State.floored_pmc (s : State) : s.floored.pmc = s.pmc := by
  unfold State.floored
  exact State.withdraw_pmc _ 6 s

theorem State.planned_engine (s : State) (e : Nat) :
    (s.planned.eng e).alloc = (s.eng e).alloc ∧ (s.planned.eng e).fall = (s.eng e).fall := by
  change (s.floored.eng e).alloc = _ ∧ (s.floored.eng e).fall = _
  unfold State.floored
  exact State.withdraw_engine _ 6 s e

theorem State.granted_plan (s : State) : Granted s.planned s.plan.2 := by
  unfold State.plan
  obtain ⟨once, task, held⟩ := s.floored.plan_granted (s.spare - s.rtShare - s.memShare)
  exact ⟨once, task, held⟩

/-- What the classes and the grants take fits under the target, above the fixed part. -/
theorem State.plan_fits (s : State) : s.rtShare + s.memShare + grantSum s.plan.2 ≤ s.capTarget - s.fixedPart := by
  have floors := s.floored_within
  have spare : s.spare = s.capTarget - s.fixedPart - (s.floored.holders.map s.floored.floorOf).sum := rfl
  have rt : s.rtShare ≤ s.spare := Nat.min_le_left _ _
  have mem : s.memShare ≤ s.spare - s.rtShare := Nat.min_le_left _ _
  have grants := s.floored.plan_within s.floored.planOrder (s.spare - s.rtShare - s.memShare, [])
  rw [State.heldFloor_planOrder, show grantSum [] = 0 from rfl] at grants
  unfold State.plan
  omega

theorem State.planned_allots (s : State) : Allots s s.planned := s.floored_allots.trans ⟨rfl, rfl, fun _ => .refl _⟩

theorem State.planned_powerOk {s : State} (h : s.powerOk) {e : Nat} (le : e < 6) : (s.planned.eng e).powerOk := by
  obtain ⟨alloc, fall⟩ := s.planned_engine e
  rw [Engine.powerOk, alloc, fall, s.planned_allots.task]
  exact h.2 e le

theorem State.applyGrants_pmc (s : State) (gs : List (Nat × Nat × Nat)) : (s.applyGrants gs).pmc = s.pmc := by
  have fold (f : Nat × Nat × Nat → Engine → Engine) (l : List (Nat × Nat × Nat)) (s : State) :
      (l.foldl (fun t g => t.modEng g.1 (f g)) s).pmc = s.pmc := by
    induction l generalizing s with
    | nil => rfl
    | cons g l ih => exact ih _
  cases falls : (s.lowered gs).anyFalling with
  | true => exact State.applyGrants_falling falls ▸ fold (fun g x => x.lower g.2.1 g.2.2) _ s
  | false =>
    rw [State.applyGrants_settled falls]
    exact (fold (fun g x => x.raise g.2.1 g.2.2) _ _).trans (fold (fun g x => x.lower g.2.1 g.2.2) _ s)

theorem State.granted_pmc (s : State) : s.granted.pmc = s.planned.pmc := by
  unfold State.granted
  exact State.applyGrants_pmc _ _

theorem State.allotted_allots (s : State) : Allots s s.allotted := by
  have granted : Allots s s.granted := by
    unfold State.granted
    exact s.planned_allots.applyGrants _
  exact granted.classAlloc _ _

theorem State.allotted_effcap (s : State) : s.allotted.pmc.effcap = s.pmc.effcap := by
  change s.granted.pmc.effcap = _
  rw [State.granted_pmc]
  change s.floored.pmc.effcap = _
  rw [State.floored_pmc]

/-- The class allocations end within their shares, and do not rise while an allocation falls. -/
theorem State.allotted_classes (s : State) : s.allotted.pmc.allocRt ≤ s.rtShare ∧ s.allotted.pmc.allocMem ≤ s.memShare ∧
    (s.granted.anyFalling = true → s.allotted.pmc.allocRt ≤ s.pmc.allocRt ∧ s.allotted.pmc.allocMem ≤ s.pmc.allocMem) := by
  have rt : s.allotted.pmc.allocRt = if s.granted.anyFalling then min s.granted.pmc.allocRt s.rtShare else s.rtShare := rfl
  have mem : s.allotted.pmc.allocMem = if s.granted.anyFalling then min s.granted.pmc.allocMem s.memShare else s.memShare
      := rfl
  have rt' : s.planned.pmc.allocRt = min s.floored.pmc.allocRt s.rtShare := rfl
  have mem' : s.planned.pmc.allocMem = min s.floored.pmc.allocMem s.memShare := rfl
  rw [rt, mem, s.granted_pmc, rt', mem', s.floored_pmc]
  split
  · omega
  · next still => exact ⟨Nat.le_refl _, Nat.le_refl _, fun falls => absurd falls still⟩

/-- An allocation is still falling and the sum has not risen, or the allocations fit under the target. -/
theorem State.allotted_sum {s : State} (h : s.powerOk) :
    s.allotted.anyFalling = true ∧ s.allotted.allocSum ≤ s.allocSum ∨ s.allotted.allocSum ≤ s.capTarget - s.fixedPart := by
  have fits := s.plan_fits
  have eng (e : Nat) : s.allotted.eng e = s.granted.eng e := rfl
  have falling : s.allotted.anyFalling = s.granted.anyFalling := rfl
  obtain ⟨rt, mem, fall⟩ := s.allotted_classes
  have sum := s.granted_plan.sum fun e le => State.planned_powerOk h le
  rw [State.allocSum, State.allocSum, falling]
  simp only [eng]
  unfold State.granted at fall ⊢
  obtain ⟨falls, le⟩ | sum := sum
  · obtain ⟨rt, mem⟩ := fall falls
    have engines : ((List.range 6).map fun e => ((s.planned.applyGrants s.plan.2).eng e).alloc).sum ≤
        ((List.range 6).map fun e => (s.eng e).alloc).sum := by
      refine List.sum_le_sum fun e he => ?_
      rw [← (s.planned_engine e).1]
      exact le e (List.mem_range.mp he)
    exact .inl ⟨falls, by omega⟩
  · exact .inr (by omega)

theorem State.allotted_powerOk {s : State} (h : s.powerOk) {e : Nat} (le : e < 6) : (s.allotted.eng e).powerOk := by
  change (s.granted.eng e).powerOk
  unfold State.granted
  exact s.granted_plan.powerOk (fun _ le => State.planned_powerOk h le) le

/-- R391: the allocation procedure keeps the power sum. -/
theorem State.allocate_powerOk {s : State} (h : s.powerOk) : s.allocate.powerOk := by
  have sum := State.allotted_sum h
  have old := h.1
  have target := s.allotted_allots.capTarget
  have fixed := s.allotted_allots.fixedPart
  have cap := s.allotted_effcap
  rw [State.allocate_eq]
  refine ⟨?_, fun e le => by rw [State.followCap_eng]; exact State.allotted_powerOk h le⟩
  rw [State.followCap_allocSum, State.followCap_fixedPart]
  obtain ⟨effcap, _⟩ | ⟨effcap, _⟩ := s.allotted.followCap_effcap <;> omega

/-- R391: with nothing falling the allocations fit under the target, and the effective cap has reached it. -/
theorem State.allocate_settled {s : State} (h : s.powerOk) (settled : s.allocate.anyFalling = false)
    (fits : s.fixedPart ≤ s.capTarget) :
    s.allocate.allocSum + s.allocate.fixedPart ≤ s.capTarget ∧ s.allocate.pmc.effcap = s.capTarget := by
  have sum := State.allotted_sum h
  have target := s.allotted_allots.capTarget
  have fixed := s.allotted_allots.fixedPart
  rw [State.allocate_eq] at settled ⊢
  have still : s.allotted.anyFalling = false := by simpa only [State.anyFalling, State.followCap_eng] using settled
  rw [State.followCap_allocSum, State.followCap_fixedPart]
  simp only [still, Bool.false_eq_true, false_and, false_or] at sum
  obtain ⟨effcap, _⟩ | ⟨effcap, _⟩ := s.allotted.followCap_effcap <;> omega

/-- R389: the effective cap stays or reaches its target. -/
theorem State.allocate_effcap (s : State) : s.allocate.pmc.effcap = s.pmc.effcap ∨ s.allocate.pmc.effcap = s.capTarget := by
  have target := s.allotted_allots.capTarget
  have cap := s.allotted_effcap
  rw [State.allocate_eq]
  obtain ⟨effcap, _⟩ | ⟨effcap, _⟩ := s.allotted.followCap_effcap <;> omega

theorem Keeps.allocate {r s : State} (h : Keeps r s) : Keeps r s.allocate :=
  h.trans (((Allots.refl s).allocate).keeps State.allocate_powerOk)

theorem Keeps.followCap {r s : State} (h : Keeps r s) : Keeps r s.followCap :=
  h.trans (((Allots.refl s).followCap).keeps State.followCap_powerOk)

end Sys2Proof.Machine

/-! SUPPORT. Operations that change the engines or the rings. -/
namespace Sys2Proof.Machine

open Sys2Proof

-- one proof after the other: a thread for each would need too much memory
set_option Elab.async false

section
variable {o s t : State} (hs : Keeps o s)
include hs

theorem Keeps.regOp {w off wr f} (hf : ∀ {t}, Keeps o t → Keeps o (f t)) : Keeps o (s.regOp w off wr f) :=
  .ite (hs.calm Calm.rfl.violation) (.ite hs (hf hs))

theorem Keeps.pmtStart {f} (hf : ∀ {t}, Keeps o t → Keeps o (f t)) : Keeps o (s.pmtStart f) :=
  .ite (hs.calm Calm.rfl.fset) ((hf hs).calm Calm.rfl.fset)

theorem Keeps.ctxOp {f} (hf : ∀ {t}, Keeps o t → Keeps o (f t)) : Keeps o (s.ctxOp f) := .ite (hs.calm Calm.rfl.cfgErr)
    (hf hs)

theorem Keeps.mbxOp {w k off wr f} (hf : ∀ {t}, Keeps o t → Keeps o (f t)) : Keeps o (s.mbxOp w k off wr f) :=
  .ite (hs.calm Calm.rfl.violation) (hf hs)

theorem Keeps.pmtWrite {w f} (hf : ∀ {t}, Keeps o t → Keeps o (f t)) : Keeps o (s.pmtWrite w f) := hs.regOp fun hs =>
    hs.pmtStart hf


theorem Keeps.execSlcStreamPrefetch {addr nopf} : Yields (Keeps o) (execSlcStreamPrefetch addr nopf s) :=
  .next (.ite ((Keeps.ite hs (hs.calm Calm.rfl.demandLine)).calm Calm.rfl.pread) hs)

theorem Keeps.fqCancel {e q} : Keeps o (s.fqCancel e q) :=
  .ite hs ((hs.frame.setEng (Engine.Keeps.queues (.refl _) (.cancel (.refl _)))).calm Calm.rfl.rinc)

theorem Keeps.fqCancelAll {e} : Keeps o (s.fqCancelAll e) := hs.foldl _ fun _ _ hs => hs.fqCancel

theorem Keeps.engStop {e rec isFault} : Keeps o (s.engStop e rec isFault) :=
  (hs.frame.setEng (.runs (.refl _) (by nofun))).fqCancelAll

theorem Keeps.openBundle {e} : Keeps o (s.openBundle e) := .ite hs (hs.saveEng (.frame (.refl _)))

theorem Keeps.issueFault {e slot a} : Keeps o (s.issueFault e slot a) := hs.undoBundle.engStop

theorem Keeps.learnPhase {e k} : Keeps o (s.learnPhase e k) := by
  unfold State.learnPhase
  exact (hs.calm Calm.rfl.setNeed).modEng (.frame (.refl _))

theorem Keeps.operandLost {e o' w} : Keeps o (s.operandLost e o' w) := by
  unfold State.operandLost
  exact hs.modEng (.setLate (.refl _))

theorem Keeps.streamVec {o' e j i p v} : Keeps o (streamVec o' e j i p s v) := by
  unfold Machine.streamVec
  dsimp only
  split
  · next e' => exact ((hs.calm Calm.rfl.readVec).of_eq e').operandLost
  · next e' => exact ((hs.calm Calm.rfl.readVec).of_eq e').modEng (.frame (.refl _))

theorem Keeps.canvasWork {e o'} : Keeps o (canvasWork s e o') := by
  unfold Machine.canvasWork
  split
  split
  · dsimp only
    split
    · next w => exact (hs.calm Calm.rfl.deliver |>.of_eq w).operandLost
    · next w => exact (hs.calm Calm.rfl.deliver |>.of_eq w).modEng (.frame (.refl _))
  · exact (hs.foldl _ fun _ _ hs => hs.streamVec).modEng (.frame (.refl _))

theorem Keeps.canvasCycle {e} : Keeps o (canvasCycle s e) := by
  unfold Machine.canvasCycle
  exact (hs.foldl _ fun _ _ hs => hs.canvasWork).modEng (.frame (.refl _))

theorem Keeps.failWait {w st} : Keeps o (s.failWait w st) := by
  unfold State.failWait
  dsimp only
  split
  · split
    exacts [hs.frame, hs.frame.engStop]
  · split
    exacts [hs.frame, hs.frame.calm Calm.rfl.commit]
  · exact hs.frame.calm Calm.rfl.sdmaEnd
  · next e q _ =>
    have failed : Keeps o (({ s with waits := s.waits.filter (· ≠ w) } : State).modEng e.val fun x => { x with
        fqs := minsert q.val ({ mget (fun _ => ({} : FetchQ)) (s.eng e.val).fqs q.val with
          state := 2, run := none
          late := some { st := .failed, data := [], src := [], nsrc := 0, stat := st, sub := 0, det := w.rel } } :
              FetchQ).settle
          x.fqs }) :=
      hs.frame.modEng (.setFq (.refl _) (.settle (.frame (.refl _))))
    split
    exacts [.ite failed.issueFault failed, failed]
  · exact hs.frame

theorem Keeps.satisfyWait {w} : Keeps o (s.satisfyWait w) := by
  unfold State.satisfyWait
  dsimp only
  split
  · split
    exacts [hs.frame, hs.frame.modEng (.ite (.runs (.refl _) nofun) (.refl _))]
  · split
    · exact hs.frame
    · split
      exacts [hs.frame.calm Calm.rfl.nextPre, hs.frame]
  · exact hs.frame

theorem Keeps.wake {f} : Keeps o (s.wake f) := hs.foldl _ fun _ _ hs => hs.satisfyWait

theorem Keeps.signal {f v} : Keeps o (s.signal f v).2 := (hs.calm Calm.rfl.applySignal).wake

theorem Keeps.signals {l} : Keeps o (s.signals l).2 := by
  induction l generalizing s with
  | nil => exact hs
  | cons a l ih => exact ih hs.signal

theorem Keeps.ringSignal {ctx f v} : Keeps o (s.ringSignal ctx f v) := by
  unfold State.ringSignal
  split
  exacts [hs.signal, hs.calm Calm.rfl.rinc]

theorem Keeps.execFenceSignal {sigs} : Yields (Keeps o) (execFenceSignal sigs s) := hs.signals.next

theorem Keeps.execFencePortSig {w p v} : Yields (Keeps o) (execFencePortSig w p v s) :=
  (hs.regOp fun hs => (by
    split
    exacts [.ite hs.signal (hs.calm Calm.rfl.fset), hs.calm Calm.rfl.fset])).next

theorem Keeps.execFencePortAttr {w p v} : Yields (Keeps o) (execFencePortAttr w p v s) :=
  (hs.regOp fun hs => (by
    split
    exacts [hs.calm Calm.rfl.fset, .ite (hs.frame.calm Calm.rfl.fset) hs.frame])).next

theorem Keeps.execFenceCtxRange {w c v} : Yields (Keeps o) (execFenceCtxRange w c v s) := by
  refine Keeps.next (hs.regOp fun {t} ht => ?_)
  have set {p : Prop} [Decidable p] {r h l n} : Keeps o (if p then t.fset r h l n else t) := .ite (ht.calm Calm.rfl.fset) ht
  exact .ite set (.ite (set.calm Calm.rfl.fset) (set.calm Calm.rfl.fset.fset))

theorem Keeps.execWaitDeadline {t} : Yields (Keeps o) (execWaitDeadline t s) := by
  unfold Machine.execWaitDeadline
  refine .next ?_
  split
  · exact hs
  · split
    exacts [hs, .ite hs.failWait hs]

theorem Keeps.execDeadlockProbeRequest {t} : Yields (Keeps o) (execDeadlockProbeRequest t s) := by
  unfold Machine.execDeadlockProbeRequest
  refine .next ?_
  split
  exacts [hs, .ite (hs.calm Calm.rfl.askNow).frame (hs.calm Calm.rfl.askNow)]

theorem Keeps.execDeadlockProbe : Yields (Keeps o) (execDeadlockProbe s) := .next (.ite hs (hs.frame.calm Calm.rfl.rinc))

theorem Keeps.execDeadlockVerdict : Yields (Keeps o) (execDeadlockVerdict s) :=
  .next (.ite hs (by
    dsimp only
    split
    · exact hs.frame
    · exact .ite (.ite (hs.frame.satisfyWait.calm Calm.rfl.rinc) (hs.frame.failWait.calm Calm.rfl.rinc))
        (hs.frame.calm Calm.rfl.rinc)))

theorem Keeps.execSrcEnable {w psrc ctl} : Yields (Keeps o) (execSrcEnable w psrc ctl s) := by
  unfold Machine.execSrcEnable
  refine .next ?_
  split
  exacts [hs.regOp fun hs => (hs.calm Calm.rfl.srcCtlWrite), hs]

theorem Keeps.execCommit {w psrc} : Yields (Keeps o) (execCommit w psrc s) := by
  unfold Machine.execCommit
  refine .next ?_
  split
  exacts [hs.regOp fun hs => (hs.calm Calm.rfl.srcCommit), hs]

theorem Keeps.prodAcquire {r h i t} (e : s.prodAcquire r h = some (i, t)) : Keeps o t := by
  unfold State.prodAcquire at e
  dsimp only at e
  split at e
  · next free =>
    cases e
    exact hs.setRing fun h => h.acquire free.2.2
  · contradiction

theorem Keeps.consAcquire {r k h i t} (e : s.consAcquire r k h = some (i, t)) : Keeps o t := by
  unfold State.consAcquire at e
  dsimp only at e
  split at e
  · cases e
    exact hs.setRing fun h => h.frame
  · contradiction

theorem Keeps.freeSlots {r l} : Keeps o (s.freeSlots r l) := by
  induction l generalizing s with
  | nil => exact hs
  | cons a l ih => exact ih (hs.setRing fun h => h.filter _).ringSignal

theorem Keeps.ringSettle {r} : Keeps o (s.ringSettle r) := by
  have drained : Keeps o (s.setRing r (if (s.ring r).state = 2 then { s.ring r with
      cseq := (List.range (s.ringCons r)).foldl (fun m k =>
        if (mfind (s.ring r).cons k).isNone then minsert k (s.ring r).pseq m else m) (s.ring r).cseq }
      else s.ring r)) := hs.setRing fun h => by
    split
    exacts [h.frame, h]
  exact .ite (drained.freeSlots.setRing fun h => h.frame).frame drained.freeSlots

theorem Keeps.prodRelease {r valid drops stamps} : Keeps o (s.prodRelease r valid drops stamps) := by
  unfold State.prodRelease
  dsimp only
  split
  · exact hs
  · next k prod =>
    have written (t : State) (ht : Calm s t) {l : List Nat} : Keeps o (t.setRing r { s.ring r with
        prod := none, pub := (s.ring r).pub ++ [⟨k.slot, (s.ring r).pseq⟩], pseq := (s.ring r).pseq + 1, pubT := l }) :=
      (hs.calm ht).setRing fun h => (ht.ring r ▸ h : (s.ring r).slotsOk).publish prod
    refine Keeps.ringSettle (Keeps.ringSignal (written _ ?_))
    split
    exacts [Calm.rfl.recordWrite, Calm.rfl.recordWrite.fset]

theorem Keeps.consRelease {r k} : Keeps o (s.consRelease r k) := by
  unfold State.consRelease
  dsimp only
  split
  exacts [hs, (hs.setRing fun h => h.frame).ringSettle]

theorem Keeps.prodEnd {r} : Keeps o (s.prodEnd r) := (hs.setRing fun h => h.frame (prod := .inr rfl)).ringSettle

theorem Keeps.tryRacq {e j sd role t} (got : s.tryRacq e j sd role = some t) : Keeps o t := by
  unfold State.tryRacq at got
  dsimp only at got
  split at got
  · contradiction
  · split at got
    · contradiction
    · next k i u acquired =>
      cases got
      have taken : Keeps o u ∧ u.eng e = s.eng e := by
        cases role with
        | producer => exact ⟨hs.prodAcquire acquired, State.prodAcquire_eng acquired e⟩
        | consumer => exact ⟨hs.consAcquire acquired, State.consAcquire_eng acquired e⟩
      obtain ⟨taken, eng⟩ := taken
      refine (taken.keepRing fun ho => (hs.rings ho).1 _).setEng ?_
      rw [State.keepRing_eng, eng]
      exact .runs (.refl _) (by dsimp only; split <;> nofun)

theorem Keeps.racqWake {r role port e} : Keeps o (s.racqWake r role port e) := by
  unfold State.racqWake
  dsimp only
  split
  · refine .ite (.ite hs.issueFault ?_) hs
    split
    · next got => exact hs.tryRacq got
    · exact hs
  · exact hs

theorem Keeps.ringWake {r} : Keeps o (s.ringWake r) :=
  (hs.foldl _ fun _ _ hs => hs.racqWake).foldl _ fun _ _ hs => (hs.foldl _ fun _ _ hs => hs.racqWake)

theorem Keeps.engRelease {r port role} : Keeps o (s.engRelease r port role) :=
  (show Keeps o _ by
    split
    exacts [hs.prodRelease, hs.consRelease]).ringWake

theorem Keeps.ringEnds {l} : Keeps o (s.ringEnds l) := by
  induction l generalizing s with
  | nil => exact hs
  | cons a l ih =>
    unfold State.ringEnds
    split
    exacts [ih hs.prodEnd.ringWake, ih hs.consRelease.ringWake]

theorem Keeps.execRingEnable {w r} : Yields (Keeps o) (execRingEnable w r s) := by
  refine Keeps.next (hs.regOp fun hs => .ite hs (.ite (hs.calm Calm.rfl.fset) (.ite ?_ (hs.calm Calm.rfl.fset))))
  split
  · exact hs.calm Calm.rfl.fset
  · exact ((hs.putRing fun _ => Ring.slotsOk_empty rfl rfl).frame.calm Calm.rfl.fset).ringWake

theorem Keeps.execRingDisable {w r} : Yields (Keeps o) (execRingDisable w r s) :=
  (hs.regOp fun hs => (.ite ((hs.calm Calm.rfl.fset).setRing fun h => h.frame).ringSettle (hs.calm Calm.rfl.fset))).next

theorem Keeps.execFrPortAcquire {w r role port} : Yields (Keeps o) (execFrPortAcquire w r role port s) := by
  refine Keeps.next (hs.regOp fun hs => ?_)
  dsimp only
  split
  · next got =>
    refine Keeps.calm ?_ Calm.rfl.portRes
    split at got
    · split at got
      · contradiction
      · exact hs.prodAcquire got
    · split at got
      · exact hs.consAcquire got
      · contradiction
  · exact hs.calm Calm.rfl.portRes

theorem Keeps.execFrPortRelease {w r role port} : Yields (Keeps o) (execFrPortRelease w r role port s) :=
  (hs.regOp fun hs => (by
    split
    · split
      exacts [(hs.prodRelease.calm Calm.rfl.portRes).ringWake, hs.calm Calm.rfl.portRes]
    · split
      · exact .ite (hs.consRelease.calm Calm.rfl.portRes).ringWake (hs.calm Calm.rfl.portRes)
      · exact hs.calm Calm.rfl.portRes)).next

theorem Keeps.guardIssue {e} : Keeps o (s.guardIssue e) := hs.setEng (.frame (.refl _))

theorem Keeps.control {e} : Keeps o (s.control e) :=
  .ite hs (.ite (hs.setEng (.frame (.refl _))) (hs.guardIssue.modEng (.frame (.start (.refl _)))))

theorem Keeps.landRes {e p} : Keeps o (s.landRes e p) := by
  have lands {x : Engine} {q : PendRes} : x.Keeps (match q.fault with
      | some f => x.setLate f
      | none => x.land q) := by
    split
    exacts [.setLate (.refl _), .land (.refl _)]
  unfold State.landRes
  refine Keeps.modEng ?_ lands
  split
  exacts [hs.calm Calm.rfl.remoteReply, hs]

theorem Keeps.landDue {e pal} : Keeps o (s.landDue e pal) := (hs.setEng (.frame (.refl _))).foldl _ fun _ _ hs => hs.landRes

theorem Keeps.postOne {e p} : Keeps o (s.postOne e p) := by
  unfold State.postOne
  split
  · next e' => exact ((hs.calm Calm.rfl.piecesCheck).of_eq e').modEng (.setLate (.refl _))
  · next e' =>
      split
      · next e'' => exact (((hs.calm Calm.rfl.piecesCheck).of_eq e').calm Calm.rfl.writePieces).of_eq e''
      · next e'' =>
        exact ((((hs.calm Calm.rfl.piecesCheck).of_eq e').calm Calm.rfl.writePieces).of_eq e'').modEng (.setLate (.refl _))

theorem Keeps.postDue {e} : Keeps o (s.postDue e) := (hs.setEng (.frame (.refl _))).foldl _ fun _ _ hs => hs.postOne

theorem Keeps.storeOne {e st} : Keeps o (s.storeOne e st) := by
  unfold State.storeOne
  split
  · next e' => exact (hs.calm Calm.rfl.ownWrite).of_eq e'
  · next e' => exact ((hs.calm Calm.rfl.ownWrite).of_eq e').modEng (.setLate (.refl _))

theorem Keeps.storesDue {e} : Keeps o (s.storesDue e) := (hs.setEng (.frame (.refl _))).foldl _ fun _ _ hs => hs.storeOne

theorem Keeps.syncOne {e y} : Keeps o (s.syncOne e y) := by
  unfold State.syncOne
  split
  exacts [hs.signal.modEng (.frame (.refl _)), hs.engRelease]

theorem Keeps.syncsDue {e} : Keeps o (s.syncsDue e) := (hs.setEng (.frame (.refl _))).foldl _ fun _ _ hs => hs.syncOne

theorem Keeps.boundary {e} : Keeps o (s.boundary e) := by
  unfold State.boundary
  dsimp only
  split
  · next f _ =>
    exact .ite hs.engStop (.ite (hs.setEng (.frame (.rerank (.refl _) (f := f)))) (hs.setEng (.frame (.refl _))))
  · have waits : (s.eng e).Keeps { s.eng e with run := .budget, alloc := 0, fall := none } :=
      ⟨fun _ => .refl _, fun _ => nofun, rfl, fun _ => ⟨fun _ => rfl, nofun⟩, fun _ => Nat.zero_le _⟩
    exact .ite hs.engStop (.ite (hs.setEng waits).followCap (.ite hs.fqCancelAll hs))

theorem Keeps.phaseDue {e} : Keeps o (s.phaseDue e) := by
  unfold State.phaseDue
  split
  exacts [hs, ((hs.setEng (.frame (.refl _))).learnPhase.calm Calm.rfl.touchNeed).allocate]

theorem Keeps.readsDue {e} : Keeps o (s.readsDue e) :=
  (hs.setEng (.frame (.refl _))).foldl _ fun _ _ hs => (hs.calm Calm.rfl.ownRead)

theorem Keeps.tick {e} : Keeps o (tick e s) := by
  unfold Machine.tick
  refine .ite hs (Keeps.boundary (Keeps.phaseDue
      (Keeps.syncsDue (Keeps.storesDue (Keeps.landDue (Keeps.calm ?_ Calm.rfl.suppress))))))
  exact (hs.readsDue.canvasCycle.modEng (.performRows (.refl _))).landDue.postDue.control.modEng (.tock (.refl _))

theorem Keeps.advance {e n} : Keeps o (advance e n s).1 := by
  induction n generalizing s with
  | zero => exact hs
  | succ n ih =>
    unfold Machine.advance
    exact .iteF (ih hs.tick) hs

theorem Keeps.furtherFault {e slot chk} : Keeps o (s.furtherFault e slot chk) := by
  unfold State.furtherFault
  split
  exacts [hs, hs.modEng (.rerank (.refl _))]

theorem Keeps.issue {h slot rd chk eff} (he : ∀ {t}, Keeps o t → Keeps o (eff t)) :
    Keeps o (issue h slot rd chk eff s) := by
  unfold Machine.issue
  dsimp only
  refine .ite hs (.ite ?_ (.ite hs.furtherFault hs.advance))
  split
  · exact (he hs.advance.openBundle).modEng (.noteReads (.refl _))
  · exact hs.advance.openBundle.issueFault

theorem Keeps.putS {e lat sd v} : Keeps o (s.putS e lat sd v) := hs.modEng (.putA (.refl _))

theorem Keeps.execSalu {h sd sa sb fn} : Yields (Keeps o) (execSalu h sd sa sb fn s) := (hs.issue fun hs => hs.putS).next

theorem Keeps.execSalui {h sd sa fn imm} : Yields (Keeps o) (execSalui h sd sa fn imm s) :=
    (hs.issue fun hs => hs.putS).next

theorem Keeps.execLil {h sd imm} : Yields (Keeps o) (execLil h sd imm s) := (hs.issue fun hs => hs.putS).next

theorem Keeps.execLih {h sd imm} : Yields (Keeps o) (execLih h sd imm s) := (hs.issue fun hs => hs.putS).next

theorem Keeps.execMovsp {h sd spr} : Yields (Keeps o) (execMovsp h sd spr s) := (hs.issue fun hs => hs.putS).next

theorem Keeps.execArset {h ak fld src} : Yields (Keeps o) (execArset h ak fld src s) :=
  (hs.issue fun hs => (hs.modEng (.put (.refl _)))).next

theorem Keeps.redirectTo {e target} : Keeps o (s.redirectTo e target) := hs.modEng (.frame (.refl _))

theorem Keeps.execLoop {h lvl cnt body} : Yields (Keeps o) (execLoop h lvl cnt body s) :=
  (hs.issue fun hs => (.ite hs.redirectTo (hs.setEng (.frame (.refl _))))).wfOr

theorem Keeps.execBrz {h sa off} : Yields (Keeps o) (execBrz h sa off s) :=
    (hs.issue fun hs => (.ite hs.redirectTo hs)).wfOr

theorem Keeps.execBrnz {h sa off} : Yields (Keeps o) (execBrnz h sa off s) :=
  (hs.issue fun hs => (.ite hs hs.redirectTo)).wfOr

theorem Keeps.beginFwait {e rel dev target dl} : Keeps o (s.beginFwait e rel dev target dl) :=
  (hs.undoBundle.setEng (.runs (.refl _) (by nofun))).frame

theorem Keeps.execFwait {h sv f dl} : Yields (Keeps o) (execFwait h sv f dl s) := by
  refine Keeps.next (hs.issue fun hs => ?_)
  dsimp only
  split
  exacts [hs, .ite hs (.ite hs.undoBundle.engStop hs.beginFwait)]

theorem Keeps.execFsig {h sv f} : Yields (Keeps o) (execFsig h sv f s) :=
  (hs.issue fun hs => (by
    dsimp only
    split
    exacts [hs.setEng (.frame (.refl _)), hs])).next

theorem Keeps.execPhase {h ph} : Yields (Keeps o) (execPhase h ph s) :=
  (hs.issue fun hs => (hs.modEng (.frame (.refl _)))).next

theorem Keeps.execEnd {h} : Yields (Keeps o) (execEnd h s) :=
  (hs.issue fun hs => (hs.modEng (.runs (.refl _) (by nofun)))).next

theorem Keeps.loadOwn {e lat d off pos n} : Keeps o (s.loadOwn e lat d off pos n) :=
  hs.setEng (.ite (.frame (.refl _)) (.frame (.refl _)))

theorem Keeps.execLd {h vd ak sz vpos imm} : Yields (Keeps o) (execLd h vd ak sz vpos imm s) :=
  (hs.issue fun hs => hs.loadOwn).wfOr

theorem Keeps.execLds {h sd ak imm} : Yields (Keeps o) (execLds h sd ak imm s) := (hs.issue fun hs => hs.loadOwn).next

theorem Keeps.storeOwn {e off bs} : Keeps o (s.storeOwn e off bs) := by
  unfold State.storeOwn
  refine hs.modEng ?_
  dsimp only
  split
  · exact (Engine.Keeps.frame (.refl _)).setLate
  · exact .frame (.refl _)

theorem Keeps.execSt {h vs ak sz vpos imm} : Yields (Keeps o) (execSt h vs ak sz vpos imm s) :=
  (hs.issue fun hs => hs.storeOwn).wfOr

theorem Keeps.execSts {h ss ak imm} : Yields (Keeps o) (execSts h ss ak imm s) := (hs.issue fun hs => hs.storeOwn).next

theorem Keeps.execRld {h vd sa sz vpos} : Yields (Keeps o) (execRld h vd sa sz vpos s) :=
  (hs.issue fun hs => (hs.setEng (.frame (.refl _)))).wfOr

theorem Keeps.execRst {h vs sa sz vpos} : Yields (Keeps o) (execRst h vs sa sz vpos s) :=
  (hs.issue fun hs => (hs.setEng (.frame (.refl _)))).wfOr

theorem Keeps.popFq {e q vd} : Keeps o (s.popFq e q vd) := by
  have wait : Keeps o (s.setEng e { s.eng e with run := .waitFq q vd, endHold := (s.eng e).endHold || (s.eng e).run ==
      .ending }) :=
    hs.setEng (.runs (.refl _) (by nofun))
  unfold State.popFq
  dsimp only
  split
  · exact wait
  · next c l entries =>
    refine .ite ?_ wait
    generalize hf : ({ (s.eng e).fq q with ents := l, ret := ((s.eng e).fq q).ret + 1 } : FetchQ) = f
    have popped : ((s.eng e).fq q).Keeps f := hf ▸ .return (.refl _) (by simp [entries]) (by simp [entries])
    have runs : (if ((s.eng e).endHold || (s.eng e).run == .ending) = true then RunSt.ending else .issuing) ≠ .idle := by
      split <;> nofun
    generalize hy : ({ s.eng e with
        run := if ((s.eng e).endHold || (s.eng e).run == .ending) = true then .ending else .issuing, endHold := false
        fqs := minsert q f.settle (s.eng e).fqs } : Engine) = y
    have next : (s.eng e).Keeps y := hy ▸ .queues (.refl _) popped.settle (run := fun _ => runs)
    have returned : 1 ≤ (y.fq q).ret := by
      have queue : y.fq q = f.settle := hy ▸ mget_minsert_same _ _ _ _
      have one : 1 ≤ f.ret := hf ▸ Nat.le_add_left 1 _
      rw [queue]
      exact Nat.le_trans one (FetchQ.Keeps.settle (.refl f)).2
    have put := (Engine.Keeps.refl y).put (lat := 4) (d := .vreg vd) (mask := maskAt 0 (512 * 2 ^ ((s.eng e).fq q).esz))
        (val := le c.data)
    split
    · next p saved =>
      refine (hs.setEng (next.trans put)).notePop saved ?_ ?_
      · rw [State.eng_setEng_same]
        exact Nat.le_trans returned (put.fq q).2
      · rw [State.eng_setEng_same]
        exact put.run (hy ▸ runs)
    · exact hs.setEng (next.trans put)

theorem Keeps.execFqpop {h vd q} : Yields (Keeps o) (execFqpop h vd q s) := (hs.issue fun hs => hs.popFq).next

theorem Keeps.fqWake {e} : Keeps o (s.fqWake e) := by
  unfold State.fqWake
  split
  · split
    exacts [hs.issueFault, hs.popFq]
  · exact hs

theorem Keeps.execRacq {h sd rng role} : Yields (Keeps o) (execRacq h sd rng role s) := by
  refine Keeps.next (hs.issue fun hs => ?_)
  split
  · next got => exact hs.tryRacq got
  · exact hs.modEng (.runs (.refl _) (by nofun))

theorem Keeps.execRrel {h rng role} : Yields (Keeps o) (execRrel h rng role s) :=
  (hs.issue fun hs => (hs.setEng (.frame (.refl _)))).next

theorem Keeps.execBiasld {h bb vs lq} : Yields (Keeps o) (execBiasld h bb vs lq s) :=
  (hs.issue fun hs => (hs.modEng (.put (.refl _)))).next

theorem Keeps.execPalwr {h ps tag vs e0 cnt} : Yields (Keeps o) (execPalwr h ps tag vs e0 cnt s) :=
  (hs.issue fun hs => (hs.modEng (.put (.refl _)))).wfOr

theorem Keeps.execBankGrant {ne reqs} : Yields (Keeps o) (execBankGrant ne reqs s) := by
  refine Keeps.next (.ite (Keeps.calm (Keeps.setEng (hs.calm Calm.rfl.bankCycle) ?_) Calm.rfl.suppress) hs)
  rw [(Calm.rfl.bankCycle : Calm s (s.bankCycle ne.val reqs).2).eng]
  exact .frame (.refl _)

theorem Keeps.coast {e n} : Keeps o (coast e n s) := by
  induction n generalizing s with
  | zero => exact hs
  | succ n ih =>
    unfold Machine.coast
    exact .ite (ih hs.tick) hs

theorem Keeps.execResultWrite {ne} : Yields (Keeps o) (execResultWrite ne s) := by
  unfold Machine.execResultWrite
  dsimp only
  refine .next ?_
  split
  exacts [hs.coast, hs]

theorem Keeps.execAcmRowWrite {ne} : Yields (Keeps o) (execAcmRowWrite ne s) := by
  unfold Machine.execAcmRowWrite
  dsimp only
  refine .next ?_
  split
  exacts [hs.coast, hs]

theorem Keeps.execOwnStorePerformed {ne} : Yields (Keeps o) (execOwnStorePerformed ne s) := by
  unfold Machine.execOwnStorePerformed
  dsimp only
  refine .next ?_
  split
  exacts [hs.coast, hs]

theorem Keeps.execRldReply {ne late} : Yields (Keeps o) (execRldReply ne late s) := by
  refine Keeps.next ?_
  dsimp only
  split
  · exact hs
  · have waited {n : Nat} : Keeps o (if late = 0 then s else Machine.coast ne.val n s) := .ite hs hs.coast
    split
    · exact waited
    · next answered =>
      refine Keeps.calm (Keeps.modEng ?_ (.frame (.refl _))) Calm.rfl.suppress
      exact waited.calm (Calm.rfl.answerRld answered)

theorem Keeps.setRun {k r} : Keeps o (s.setRun k r) := by
  unfold State.setRun
  split
  exacts [hs.frame, hs.modEng (.setFq (.refl _) (.frame (.refl _)))]

theorem Keeps.modFq {e q f} (hf : ((s.eng e).fq q).Keeps (f ((s.eng e).fq q))) : Keeps o (s.modFq e q f) :=
  hs.modEng (.setFq (.refl _) hf)

theorem Keeps.listFail {k a} : Keeps o (s.listFail k a) := by
  unfold State.listFail
  dsimp only
  split
  · exact hs.calm Calm.rfl.sdmaEnd
  · split
    · next credit => exact (hs.modFq ((FetchQ.Keeps.refl _).grant (by simpa [FetchQ.credit] using credit))).fqWake
    · exact hs

theorem Keeps.execDescriptorBurstRead {k} : Yields (Keeps o) (execDescriptorBurstRead k s) := by
  unfold Machine.execDescriptorBurstRead
  refine .next ?_
  split
  · exact hs
  · split
    · exact hs
    · dsimp only
      split
      · next e' => exact .ite ((hs.calm Calm.rfl.burstRead).of_eq e').listFail ((hs.calm Calm.rfl.burstRead).of_eq e')
      · next e' => exact ((hs.calm Calm.rfl.burstRead).of_eq e').setRun

theorem Keeps.descSignal {k sig} : Keeps o (s.descSignal k sig) := by
  unfold State.descSignal
  split
  · exact hs
  · dsimp only
    split
    · split
      · split
        exacts [hs.signal.setRun, hs.signal]
      · exact hs.signal.modEng (.frame (.refl _))
    · exact hs.signal

theorem Keeps.descNext {k f} : Keeps o (s.descNext k f) := by
  unfold State.descNext
  split
  exacts [hs.setRun, hs]

theorem Keeps.descDone {k d sig} : Keeps o (s.descDone k d sig) := by
  unfold State.descDone
  dsimp only
  split
  · split
    exacts [hs.descSignal.calm Calm.rfl.sdmaEnd, hs.descSignal.modFq (.frame (.refl _))]
  · exact hs.descSignal.descNext

theorem Keeps.descWait {k r d} : Keeps o (s.descWait k r d) := by
  unfold State.descWait
  split
  · exact hs
  · split
    exacts [hs.engStop, .ite hs hs.frame]

theorem Keeps.execDesc {k op act} (ha : ∀ {t r d}, Keeps o t → Keeps o (act t r d)) : Keeps o (s.execDesc k op act) := by
  unfold State.execDesc
  dsimp only
  split
  · exact hs
  · split
    · exact hs
    · refine .ite hs (.ite hs.listFail (.ite hs ?_))
      split
      exacts [hs.listFail, .ite (ha hs) hs.descWait]

theorem Keeps.sdmaMove {c fill r d} : Keeps o (s.sdmaMove c fill r d) := by
  unfold State.sdmaMove
  dsimp only
  split
  exacts [(hs.calm Calm.rfl.transfer.countBytes).listFail, (hs.calm Calm.rfl.transfer.countBytes).descDone]

theorem Keeps.execCopy {c} : Yields (Keeps o) (execCopy c s) := (hs.execDesc fun hs => hs.sdmaMove).next

theorem Keeps.execFill {c} : Yields (Keeps o) (execFill c s) := (hs.execDesc fun hs => hs.sdmaMove).next

theorem Keeps.execMcast {c} : Yields (Keeps o) (execMcast c s) := by
  refine Keeps.next (hs.execDesc fun {t r d} ht => .ite ht.listFail ?_)
  have moved {es e0 rows k n} : Keeps o (((((t.mcastRows r.ctx d rows 0).2.2.readRows d.nopf
      (t.mcastRows r.ctx d rows 0).1).2.2.mcastAll e0 es k).2.overlapFix n)) := ht.calm
          Calm.rfl.mcastRows.readRows.mcastAll.overlapFix
  refine .ite ?_ (moved.setRun.calm Calm.rfl.countBytes).listFail
  split
  exacts [(moved.setRun.calm Calm.rfl.countBytes).descDone, (moved.setRun.calm Calm.rfl.countBytes).listFail]

theorem Keeps.execLink {k} : Yields (Keeps o) (execLink k s) := (hs.execDesc fun hs => hs.descSignal.descNext).next

theorem Keeps.execDescNop {k} : Yields (Keeps o) (execDescNop k s) := (hs.execDesc fun hs => hs.descDone).next

theorem Keeps.execSdmaChArm {w c v} : Yields (Keeps o) (execSdmaChArm w c v s) :=
  (hs.regOp fun hs => (.ite hs.frame (by
    split
    · next e => exact (hs.calm (Calm.rfl.sdmaArm e)).frame
    · exact hs.frame))).next

theorem Keeps.execFetch {ne q} : Yields (Keeps o) (execFetch ne q s) :=
  (hs.execDesc fun hs => (.ite hs.descDone (hs.setRun.modFq (.frame (.refl _))))).next

theorem Keeps.execFetchEntryBegin {ne} : Yields (Keeps o) (execFetchEntryBegin ne s) := by
  refine Keeps.next ?_
  dsimp only
  split
  · exact hs
  · next q _ =>
    split
    · exact hs
    · next begins =>
      have room := Engine.beginOf_credit begins
      refine .ite hs (Keeps.modEng (Keeps.modFq (hs.setEng (.frame (.refl _))) ?_) (.issueReads (.refl _)))
      rw [State.eng_setEng_same]
      exact (FetchQ.Keeps.refl _).grant room

theorem Keeps.execFetchReadComplete {ne q} : Yields (Keeps o) (execFetchReadComplete ne q s) := by
  refine Keeps.next ?_
  dsimp only
  split
  · exact hs
  · split
    · exact hs
    · split
      · refine hs.modFq ((FetchQ.Keeps.refl _).return (answerEnt_length_le (fun _ => ?_) _))
        split
        exacts [Nat.zero_le _, Nat.le_refl _]
      · split
        · next e =>
          exact ((((hs.calm Calm.rfl.vread).of_eq e).modFq (.readFail (.refl _))).modEng (.issueReads (.refl _))).fqWake
        · next e =>
          have read := (hs.calm Calm.rfl.vread).of_eq e
          refine Keeps.fqWake (.ite (Keeps.descSignal ?_) ?_) <;>
            exact (read.modFq ((FetchQ.Keeps.refl _).frame (ents := answerEnt_length_eq (fun _ => rfl) _))).modEng
              (.issueReads (.refl _))

theorem Keeps.execQueueCancel {w ne q} : Yields (Keeps o) (execQueueCancel w ne q s) :=
  (hs.regOp fun hs => hs.fqCancel.fqWake).next

theorem Keeps.execCreditLatchRead {w ne q} : Yields (Keeps o) (execCreditLatchRead w ne q s) :=
  (hs.frame.regOp fun hs => (hs.modFq (.frame (.refl _))).frame).next

theorem Keeps.execWindowOpen {w slice win rd wr} : Yields (Keeps o) (execWindowOpen w slice win rd wr s) :=
  (hs.regOp fun hs => (hs.calm Calm.rfl.winCtl)).next

theorem Keeps.execWindowClose {w slice win rd wr} : Yields (Keeps o) (execWindowClose w slice win rd wr s) :=
  (hs.regOp fun hs => (hs.calm Calm.rfl.winCtl)).next

theorem Keeps.execWindowClosed {slice win} : Yields (Keeps o) (execWindowClosed slice win s) :=
  .next (.ite ((hs.calm Calm.rfl.fset).foldl _ fun _ _ hs => (hs.calm Calm.rfl.commit)) hs)

theorem Keeps.execEccWriteBack {region} : Yields (Keeps o) (execEccWriteBack region s) := by
  unfold Machine.execEccWriteBack
  refine .next ?_
  split
  exacts [hs, hs.frame.calm Calm.rfl.writeBack]

theorem Keeps.execGessoPatrolScrub : Yields (Keeps o) (execGessoPatrolScrub s) :=
  .next (.ite hs (hs.foldl _ fun _ _ hs => (hs.calm Calm.rfl.scrubOne)))

theorem Keeps.bistClock {sel} : Keeps o (s.bistClock sel) := hs.foldl _ fun _ _ hs => (hs.modEng (.frame (.refl _)))

theorem Keeps.bistStart {sel} : Keeps o (s.bistStart sel) :=
  .ite (hs.calm Calm.rfl.fset) (.ite (hs.calm Calm.rfl.fset.fset)
      ((hs.calm Calm.rfl.fset).frame.bistClock.calm Calm.rfl.rset))

theorem Keeps.execBistStart {w sel} : Yields (Keeps o) (execBistStart w sel s) := (hs.regOp fun hs => hs.bistStart).next

theorem Keeps.execBistDone {fails} : Yields (Keeps o) (execBistDone fails s) := by
  unfold Machine.execBistDone
  refine .next ?_
  split
  exacts [hs, hs.calm Calm.rfl.bistEnd]

theorem Keeps.execGsEccInjArm {w region mode} : Yields (Keeps o) (execGsEccInjArm w region mode s) := by
  unfold Machine.execGsEccInjArm
  refine .next ?_
  split
  exacts [hs.calm Calm.rfl.violation, hs.calm Calm.rfl.eccInj]

theorem Keeps.runOut {e} : Keeps o (s.runOut e) := .ite (Keeps.ite hs.tick hs).coast (.ite hs.tick hs)

theorem Keeps.engIdle {e} : Keeps o (s.engIdle e) := by
  unfold State.engIdle
  refine Keeps.allocate (Keeps.dropSnap ?_ (fun _ => .refl _) rfl (fun _ => ⟨fun _ => rfl, fun _ falls => ?_⟩) fun _ =>
      Nat.zero_le _)
  · exact .ite (hs.ringEnds.calm Calm.rfl.rinc).learnPhase (hs.ringEnds.calm Calm.rfl.rinc)
  · contradiction

theorem Keeps.orphanWaits {c f} : Keeps o (s.orphanWaits c f) := hs.foldl _ fun _ _ hs => (.ite hs.engStop hs)

theorem Keeps.partDone {c e r} : Keeps o (s.partDone c e r) := by
  refine .ite (Keeps.calm ?_ Calm.rfl.commitSplit) ?_ <;>
    exact (hs.calm Calm.rfl.modCmd).foldl _ fun _ _ hs => hs.orphanWaits

theorem Keeps.engDone {e part} : Keeps o (s.engDone e part) := by
  unfold State.engDone
  split
  · exact hs
  · refine .ite hs ?_
    dsimp only
    refine .ite hs.runOut ?_
    split
    exacts [hs.runOut.engIdle, .ite hs.runOut.engIdle.partDone (hs.runOut.engIdle.calm Calm.rfl.commitEngine)]

theorem Keeps.execCommandComplete {ne} : Yields (Keeps o) (execCommandComplete ne s) := hs.engDone.next

theorem Keeps.execPartEnd {ne} : Yields (Keeps o) (execPartEnd ne s) := hs.engDone.next

theorem Keeps.engAbort {e} : Keeps o (s.engAbort e) := by
  unfold State.engAbort
  dsimp only
  split
  exacts [hs, hs, hs.setEng (.frame (.refl _)), hs.engStop]

theorem Keeps.execStopReq {w ne} : Yields (Keeps o) (execStopReq w ne s) := (hs.regOp fun hs => hs.engAbort).next

theorem Keeps.unqueue {t e} : Keeps o (s.unqueue t e) := hs.modEng (.frame (.refl _))

theorem Keeps.abortOn {c t e} : Keeps o (s.abortOn c t e) := by
  unfold State.abortOn
  split
  · split
    · dsimp only
      split
      exacts [hs.unqueue.partDone, hs.unqueue]
    · exact hs.unqueue.calm Calm.rfl.commit
  · split
    exacts [.ite hs.engAbort hs, hs]

theorem Keeps.abortCmd {sq seq} : Keeps o (s.abortCmd sq seq) := by
  unfold State.abortCmd
  split
  · exact hs
  · dsimp only
    split
    · exact hs.calm Calm.rfl.modCmd.loadStops.commit
    · split
      · exact .ite ((hs.calm Calm.rfl.modCmd).foldl _ fun _ _ hs => hs.abortOn)
          ((hs.calm Calm.rfl.modCmd).foldl _ fun _ _ hs => hs.abortOn)
      · exact hs.calm Calm.rfl.modCmd.abortArm
      · exact hs.calm Calm.rfl.modCmd.commit

theorem Keeps.abortAll {l} : Keeps o (s.abortAll l) := by
  induction l generalizing s with
  | nil => exact hs
  | cons a l ih => exact ih hs.abortCmd

theorem Keeps.abortRun {c} : Keeps o (s.abortRun c) := by
  unfold State.abortRun
  split
  · exact hs.calm Calm.rfl.commit
  · split
    · exact hs.calm Calm.rfl.commit
    · exact .ite (hs.calm Calm.rfl.commit) ((hs.calm Calm.rfl.modCmd).abortAll.calm Calm.rfl.commitAborts)

theorem Keeps.enqueue {c l} : Keeps o (s.enqueue c l) := by
  induction l generalizing s with
  | nil => exact hs
  | cons a l ih => exact ih (hs.modEng (.frame (.refl _)))

theorem Keeps.execRun {sq seq} : Yields (Keeps o) (execRun sq seq s) := by
  unfold Machine.execRun
  refine .next ?_
  split
  · exact hs
  · split
    · next e' => exact ((hs.calm Calm.rfl.runPlan).of_eq e').calm Calm.rfl.failCmd
    · next e' => exact (((hs.calm Calm.rfl.runPlan).of_eq e').calm Calm.rfl.modCmd).enqueue

theorem Keeps.engStart {e part} : Keeps o (s.engStart e part) := by
  unfold State.engStart
  split
  · exact hs
  · split
    · exact hs
    · next free =>
      split
      · exact hs
      · have rests : (s.eng e).run = .idle := by
          simp only [not_or, Bool.not_eq_false] at free
          simp only [State.engFree, Bool.and_eq_true, beq_iff_eq] at free
          exact free.2.1.1.1
        exact ((hs.beginEng rests).calm Calm.rfl.touchNeed).allocate

theorem Keeps.execCommandStart {ne} : Yields (Keeps o) (execCommandStart ne s) := hs.engStart.next

theorem Keeps.execPartStart {ne} : Yields (Keeps o) (execPartStart ne s) := hs.engStart.next

theorem Keeps.execKick {sq} : Yields (Keeps o) (execKick sq s) := (hs.calm Calm.rfl.sqRead).next

theorem Keeps.execSqPoll {sq} : Yields (Keeps o) (execSqPoll sq s) := .next (.ite hs (hs.calm Calm.rfl.sqRead))

theorem Keeps.acceptOne {q d} : Keeps o (s.acceptOne q d) := by
  unfold State.acceptOne
  dsimp only
  split
  · exact hs.calm Calm.rfl.setSq.setCq.writeSqBell.commit
  · split
    · next e => exact ((hs.calm Calm.rfl.setSq.setCq.writeSqBell.acceptCheck).of_eq e).calm Calm.rfl.commit
    · next e =>
      exact .ite ((hs.calm Calm.rfl.setSq.setCq.writeSqBell.acceptCheck).of_eq e).frame.abortRun
          ((hs.calm Calm.rfl.setSq.setCq.writeSqBell.acceptCheck).of_eq e).frame

theorem Keeps.acceptNext {q want} : Keeps o (s.acceptNext q want) := by
  unfold State.acceptNext
  dsimp only
  split
  · exact hs.calm Calm.rfl.cqRefresh
  · split
    · split
      · next e'' => exact ((hs.calm Calm.rfl.cqRefresh.hostRead).of_eq e'').calm Calm.rfl.sqError
      · next e'' =>
        exact .ite (.ite (((hs.calm Calm.rfl.cqRefresh.hostRead).of_eq e'').acceptOne.calm Calm.rfl.sqRead)
            ((hs.calm Calm.rfl.cqRefresh.hostRead).of_eq e'').acceptOne) ((hs.calm Calm.rfl.cqRefresh.hostRead).of_eq e'')
    · exact hs.calm Calm.rfl.cqRefresh

theorem Keeps.execDescriptorAccept {sq} : Yields (Keeps o) (execDescriptorAccept sq s) := hs.acceptNext.next

theorem Keeps.execAbort {sq seq} : Yields (Keeps o) (execAbort sq seq s) := .next (.ite hs.acceptNext hs)

theorem Keeps.execCommandDispatch {cp} : Yields (Keeps o) (execCommandDispatch cp s) := by
  unfold Machine.execCommandDispatch
  refine .next ?_
  split
  exacts [hs, hs.frame.calm Calm.rfl.dispatch]

theorem Keeps.execNop {sq seq} : Yields (Keeps o) (execNop sq seq s) := by
  unfold Machine.execNop
  refine .next ?_
  split
  exacts [hs, hs.calm Calm.rfl.commit]

theorem Keeps.execSdmaArm {sq seq} : Yields (Keeps o) (execSdmaArm sq seq s) := by
  unfold Machine.execSdmaArm
  refine .next ?_
  split
  · exact hs
  · split
    · exact hs.calm Calm.rfl.failCmd
    · dsimp only
      split
      · exact hs.calm Calm.rfl.commit
      · next e' => exact (hs.calm (Calm.rfl.sdmaArm e')).calm Calm.rfl.modCmd

theorem Keeps.execWindow {sq seq} : Yields (Keeps o) (execWindow sq seq s) := by
  unfold Machine.execWindow
  refine .next ?_
  split
  · exact hs
  · exact .ite (.ite (hs.calm Calm.rfl.failCmd) (hs.calm Calm.rfl.fset.fset.winCtl.commit))
      (.ite (hs.calm Calm.rfl.commit) (hs.calm Calm.rfl.winCtl.modCmd))

theorem Keeps.writeRec {r} : Keeps o (s.writeRec r) :=
  .ite (hs.signals.calm Calm.rfl.hostWrite.setCq.hostWrite.frame.cqMessage)
      (hs.signals.calm Calm.rfl.hostWrite.setCq.hostWrite).frame

theorem Keeps.execCompletionWrite {cq} : Yields (Keeps o) (execCompletionWrite cq s) := by
  unfold Machine.execCompletionWrite
  refine .next ?_
  split
  exacts [hs, .ite hs.frame.writeRec hs]

theorem Keeps.execCqCoalesceTimer {cq} : Yields (Keeps o) (execCqCoalesceTimer cq s) :=
  .next (.ite (hs.calm Calm.rfl.cqMessage) hs)

theorem Keeps.execQueueEnWrite {w cq q cfg} : Yields (Keeps o) (execQueueEnWrite w cq q cfg s) :=
  .next (.ite (hs.regOp fun hs => (hs.calm Calm.rfl.cqCfgWrite)) (hs.regOp fun hs => (hs.calm Calm.rfl.sqCfgWrite)))

theorem Keeps.execPmtInstall {w} : Yields (Keeps o) (execPmtInstall w s) := (hs.pmtWrite fun hs => hs.frame).next

theorem Keeps.execPmtRemove {w} : Yields (Keeps o) (execPmtRemove w s) :=
  (hs.pmtWrite fun hs => (by
    split
    · exact hs.frame
    · split
      exacts [.ite hs.frame hs.frame, hs.frame])).next

theorem Keeps.execPmtRemoveForce {w} : Yields (Keeps o) (execPmtRemoveForce w s) :=
  (hs.pmtWrite fun hs => (by
    split
    exacts [hs.frame, hs.frame.abortAll])).next

theorem Keeps.execPmtLookup {w} : Yields (Keeps o) (execPmtLookup w s) := (hs.pmtWrite fun hs => hs.frame).next

theorem Keeps.execPmtRead {w} : Yields (Keeps o) (execPmtRead w s) := (hs.pmtWrite fun hs => hs.frame).next

theorem Keeps.dropEntry {i} : Keeps o (s.dropEntry i) :=
  hs.mapRings (f := fun x => { x with pins := x.pins.filter (· ≠ i) }) (fun h => h.frame)

theorem Keeps.execPmtOpComplete : Yields (Keeps o) (execPmtOpComplete s) := by
  unfold Machine.execPmtOpComplete
  refine .next ?_
  split
  · exact hs
  · exact hs.calm Calm.rfl.pmtDone
  · exact hs.frame.calm Calm.rfl.pmtDone
  · exact .ite hs (hs.calm Calm.rfl.pmtDone)
  · exact .ite (hs.dropEntry.calm Calm.rfl.pmtDone) hs
  · split <;> exact hs.calm Calm.rfl.stageRegs.pmtDone
  · exact hs.calm Calm.rfl.stageRegs.pmtDone
  · exact hs.calm Calm.rfl.stageRegs.pmtDone

theorem Keeps.execWindow2Access {off a} : Yields (Keeps o) (execWindow2Access off a s) :=
  .next (.ite hs (hs.calm Calm.rfl.w2Access))

theorem Keeps.hwAcquire {p} : Keeps o (s.hwAcquire p).2 := by
  unfold State.hwAcquire
  split
  · exact hs
  · split
    · next got => exact hs.prodAcquire got
    · exact (hs.setRing fun h => h.frame).calm Calm.rfl.rinc

theorem Keeps.hwPublish {o'} : Keeps o (s.hwPublish o') := .ite (hs.setRing fun h => h.frame).prodRelease.ringWake hs

theorem Keeps.closeSlot {p o'} : Keeps o (s.closeSlot p o') := hs.hwPublish.calm Calm.rfl.setSource

theorem Keeps.noteRaw {p o'} : Keeps o (s.noteRaw p o') := by
  unfold State.noteRaw
  split
  exacts [hs.setRing fun h => h.frame, hs]

theorem Keeps.openSlot {p frame} : Keeps o (s.openSlot p frame).2 :=
  (hs.calm Calm.rfl.applyCommit).hwAcquire.noteRaw.calm Calm.rfl.setSource

theorem Keeps.execCsiFrameStart {i frame} : Yields (Keeps o) (execCsiFrameStart i frame s) :=
  .next (.ite hs (.ite ((show Keeps o _ by
    split
    exacts [hs.closeSlot, hs]).openSlot.calm Calm.rfl.stamp.setOpen) (by
    split
    exacts [hs.closeSlot, hs])))

theorem Keeps.execCsiLongPacket {port vc dt payload crcErr held} :
    Yields (Keeps o) (execCsiLongPacket port vc dt payload crcErr held s) :=
  .next (.ite hs (by
    split
    · split
      exacts [hs.calm Calm.rfl.stamp0.camLine.setOpen, hs]
    · exact hs.calm Calm.rfl.rinc))

theorem Keeps.execCsiFrameEnd {i} : Yields (Keeps o) (execCsiFrameEnd i s) := by
  unfold Machine.execCsiFrameEnd
  refine .next ?_
  dsimp only
  split
  exacts [(hs.calm Calm.rfl.stamp0).closeSlot, hs]

theorem Keeps.execCxpImageHeader {c head known} : Yields (Keeps o) (execCxpImageHeader c head known s) :=
  .next (.ite (.ite (hs.calm Calm.rfl.setSource.srcCount) (hs.calm Calm.rfl.setSource)) (.ite (by
    split
    exacts [hs.closeSlot, hs]) (.ite ((show Keeps o _ by
    split
    exacts [hs.closeSlot, hs]).calm Calm.rfl.srcCount) (.ite ((show Keeps o _ by
    split
    exacts [hs.closeSlot, hs]).openSlot.calm Calm.rfl.setOpen) ((show Keeps o _ by
    split
    exacts [hs.closeSlot, hs]).openSlot.calm Calm.rfl.stamp.setOpen)))))

theorem Keeps.cxpRaw {c payload crcErr held} : Keeps o (s.cxpRaw c payload crcErr held) := by
  unfold State.cxpRaw
  dsimp only
  split
  · exact .ite ((show Keeps o _ by
      split
      exacts [hs.calm Calm.rfl.popTrig.stamp, hs.calm Calm.rfl.popTrig.stamp0]).calm Calm.rfl.camLine).closeSlot
          ((show Keeps o _ by
      split
      exacts [hs.calm Calm.rfl.popTrig.stamp, hs.calm Calm.rfl.popTrig.stamp0]).calm Calm.rfl.camLine.setOpen)
  · exact hs.calm Calm.rfl.popTrig

theorem Keeps.execCxpLine {c payload crcErr held} : Yields (Keeps o) (execCxpLine c payload crcErr held s) :=
  .next (.ite (.ite (hs.calm Calm.rfl.cxpToLfc) hs.cxpRaw) hs)

theorem Keeps.execLfcLine {g} : Yields (Keeps o) (execLfcLine g s) := by
  unfold Machine.execLfcLine
  refine .next ?_
  dsimp only
  split
  · exact hs
  · split
    · exact hs.calm Calm.rfl.setSource
    · exact .ite (hs.calm Calm.rfl.setSource.lfcInto).closeSlot (hs.calm Calm.rfl.setSource.lfcInto.setOpen)
    · exact .ite ((hs.calm Calm.rfl.setSource).openSlot.calm Calm.rfl.lfcInto)
        (.ite ((hs.calm Calm.rfl.setSource).openSlot.calm Calm.rfl.lfcInto).closeSlot
        ((hs.calm Calm.rfl.setSource).openSlot.calm Calm.rfl.lfcInto.setOpen))

theorem Keeps.execCxpControlGo {w c} : Yields (Keeps o) (execCxpControlGo w c s) :=
  (hs.regOp fun hs => (hs.calm Calm.rfl.fset)).next

theorem Keeps.execCxpControlAck {c ack data} : Yields (Keeps o) (execCxpControlAck c ack data s) :=
  .next (.ite (.ite (hs.calm Calm.rfl.fset.fset.rset) (hs.calm Calm.rfl.fset.fset)) hs)

theorem Keeps.execCxpControlTimeout {c} : Yields (Keeps o) (execCxpControlTimeout c s) :=
  .next (.ite (hs.calm Calm.rfl.fset.fset) hs)

theorem Keeps.execIppContextSwitch {ipp} : Yields (Keeps o) (execIppContextSwitch ipp s) :=
  .next (.ite hs (by
    split
    exacts [hs, .ite (hs.calm Calm.rfl.setIpp) (hs.calm Calm.rfl.applyCommit.paramBlock.setIpp)]))

theorem Keeps.ippBegin {i x t} (e : s.ippBegin i x = some t) : Keeps o t := by
  unfold State.ippBegin at e
  dsimp only at e
  split at e
  · split at e
    · contradiction
    · next got =>
      have taken := hs.consAcquire got
      split at e
      · cases e
        exact (taken.calm Calm.rfl.mediaRead).hwAcquire.calm Calm.rfl.setIpp
      · split at e
        · cases e
          exact (taken.calm Calm.rfl.mediaRead).hwAcquire.calm Calm.rfl.rinc.setIpp
        · cases e
          exact (taken.calm Calm.rfl.mediaRead).hwAcquire.hwAcquire.calm Calm.rfl.setIpp
  · contradiction

theorem Keeps.ippDrop {i x} : Keeps o (s.ippDrop i x) := by
  unfold State.ippDrop
  dsimp only
  split
  · split
    · exact (show Keeps o _ by
        split
        · exact .ite (hs.calm Calm.rfl.setIpp).prodEnd.ringWake (hs.calm Calm.rfl.setIpp)
        · exact hs.calm Calm.rfl.setIpp).prodEnd.ringWake
    · split
      · exact .ite (hs.calm Calm.rfl.setIpp).prodEnd.ringWake (hs.calm Calm.rfl.setIpp)
      · exact hs.calm Calm.rfl.setIpp
  · split
    · exact .ite (hs.calm Calm.rfl.setIpp).prodEnd.ringWake (hs.calm Calm.rfl.setIpp)
    · exact hs.calm Calm.rfl.setIpp

theorem Keeps.ippTurn {i x} : Keeps o (s.ippTurn i x) := by
  unfold State.ippTurn
  dsimp only
  split
  · exact .ite (hs.calm Calm.rfl.rawRows.frame.putRows.setIpp) ((show Keeps o _ by
      split
      · exact (hs.calm Calm.rfl.rawRows.frame.putRows.putRows).hwPublish
      · exact hs.calm Calm.rfl.rawRows.frame.putRows).hwPublish.consRelease.ringWake.calm Calm.rfl.setIpp)
  · exact hs.ippDrop

theorem Keeps.execIppStripe {ipp} : Yields (Keeps o) (execIppStripe ipp s) := by
  unfold Machine.execIppStripe
  refine .next ?_
  dsimp only
  split
  · exact hs
  · split
    · exact (hs.calm Calm.rfl.setIpp).ippTurn
    · split
      · next e' => exact ((hs.calm Calm.rfl.setIpp).ippBegin e').ippTurn
      · exact hs.calm Calm.rfl.setIpp

theorem Keeps.cdcBegin {u k a b c t} (e : s.cdcBegin u k = some (a, b, c, t)) : Keeps o t := by
  unfold State.cdcBegin at e
  dsimp only at e
  split at e
  · contradiction
  · next got =>
    cases e
    exact (((hs.calm Calm.rfl.cdcCommit).consAcquire got).calm Calm.rfl.mediaRead.mediaRead).hwAcquire

theorem Keeps.cdcEnd {u k} : Keeps o (s.cdcEnd u k) := hs.consRelease.ringWake

theorem Keeps.encodeOne {u k} : Keeps o (s.encodeOne u k) := by
  unfold State.encodeOne
  split
  · exact hs
  · next e =>
      dsimp only
      split
      · next e' => exact (((hs.cdcBegin e).frame.calm (Calm.rfl.cdcPut e')).calm Calm.rfl.setCodec).hwPublish.cdcEnd
      · exact ((hs.cdcBegin e).frame.calm Calm.rfl.rinc.setCodec).prodEnd.ringWake.cdcEnd

theorem Keeps.execEncodePicture {unit} : Yields (Keeps o) (execEncodePicture unit s) := by
  unfold Machine.execEncodePicture
  refine .next ?_
  split
  exacts [hs, hs.encodeOne]

theorem Keeps.decodeOne {k} : Keeps o (s.decodeOne k) := by
  unfold State.decodeOne
  split
  · exact hs
  · next e =>
    exact .ite ((hs.cdcBegin e).calm Calm.rfl.setCodec).prodEnd.ringWake.cdcEnd
        ((hs.cdcBegin e).frame.calm Calm.rfl.setCodec.putRows).hwPublish.cdcEnd

theorem Keeps.execDecodePicture : Yields (Keeps o) (execDecodePicture s) := by
  unfold Machine.execDecodePicture
  refine .next ?_
  split
  exacts [hs, hs.decodeOne]

theorem Keeps.execEncoderCount {e a b} : Yields (Keeps o) (execEncoderCount e a b s) := (hs.calm Calm.rfl.encSample).next

theorem Keeps.execEncoderIndex {e} : Yields (Keeps o) (execEncoderIndex e s) := (hs.calm Calm.rfl.encZ).next

theorem Keeps.execEncoderRecord {e} : Yields (Keeps o) (execEncoderRecord e s) := (hs.calm Calm.rfl.encSettle).next

theorem Keeps.execSpeedTimeout {e} : Yields (Keeps o) (execSpeedTimeout e s) :=
  .next (.ite (hs.calm Calm.rfl.encSettle.setEnc) (hs.calm Calm.rfl.encSettle))

theorem Keeps.execRollJobStart {w e v} : Yields (Keeps o) (execRollJobStart w e v s) :=
  (hs.regOp fun hs => (hs.calm Calm.rfl.rollJob)).next

theorem Keeps.execActionFire : Yields (Keeps o) (execActionFire s) :=
  .next (.ite (by
    split
    exacts [.ite (hs.calm Calm.rfl.fireCan) (hs.calm Calm.rfl.pinFire), hs]) hs)

theorem Keeps.execPulseTrailingEdge {pin} : Yields (Keeps o) (execPulseTrailingEdge pin s) :=
  .next (.ite (hs.calm Calm.rfl.pinFire) hs)

theorem Keeps.execActionFetch {k} : Yields (Keeps o) (execActionFetch k s) :=
  .next (.ite (by
    dsimp only
    split
    · next e => exact ((hs.frame.calm Calm.rfl.vread).of_eq e).calm Calm.rfl.setChan.fset
    · next e => exact (((hs.frame.calm Calm.rfl.vread).of_eq e).calm Calm.rfl.setChan.acceptAll).ringSignal) hs)

theorem Keeps.execActionChannelDisable {w k flush} : Yields (Keeps o) (execActionChannelDisable w k flush s) :=
  (hs.regOp fun hs => (hs.calm Calm.rfl.taqCfgWrite)).next

theorem Keeps.execActionChannelDisabled {k} : Yields (Keeps o) (execActionChannelDisabled k s) :=
  .next (.ite (hs.calm Calm.rfl.setChan) hs)

theorem Keeps.execContextModeSelect {w mode} : Yields (Keeps o) (execContextModeSelect w mode s) :=
  (hs.regOp fun hs => (hs.calm Calm.rfl.cpqInitWrite)).next

theorem Keeps.execCreate {w ctx} : Yields (Keeps o) (execCreate w ctx s) :=
  (hs.regOp fun hs => (hs.ctxOp fun hs => (hs.calm Calm.rfl.create))).next

theorem Keeps.drainRing {r} : Keeps o (s.drainRing r) := by
  have stops := (hs.setRing (i := r) (x := { s.ring r with state := 2 }) fun h => h.frame).calm
    (Calm.rfl.fset (r := .frCtl r) (h := 0) (l := 0) (v := 0))
  unfold State.drainRing
  dsimp only
  refine .ite hs (Keeps.ringSettle (Keeps.foldl ?_ _ fun t p ht => ?_))
  · split
    exacts [stops, stops.prodEnd, stops]
  · split
    exacts [ht, ht.consRelease]

theorem Keeps.drainRings {c} : Keeps o (s.drainRings c) := hs.foldl _ fun _ _ hs => (.ite hs.drainRing hs)

theorem Keeps.destroy {c} : Keeps o (s.destroy c) :=
  .ite (hs.calm Calm.rfl.ctxStat)
      (((Keeps.ite (hs.calm Calm.rfl.fset.ctxStat) (hs.calm Calm.rfl.fset.ctxStat.disableSqs)).abortAll.calm
      Calm.rfl.abortChannels).drainRings.calm Calm.rfl.stopChannels)

theorem Keeps.execDestroy {w ctx} : Yields (Keeps o) (execDestroy w ctx s) :=
  (hs.regOp fun hs => (hs.ctxOp fun hs => hs.destroy)).next

theorem Keeps.execContextFreed {ctx} : Yields (Keeps o) (execContextFreed ctx s) :=
  .next (.ite (hs.calm Calm.rfl.freeCtx.event.flrSettle) hs)

theorem Keeps.execMbxPush {w ep k data} : Yields (Keeps o) (execMbxPush w ep k data s) :=
  (hs.mbxOp fun hs => (hs.calm Calm.rfl.push)).next

theorem Keeps.execMbxPop {w ep k} : Yields (Keeps o) (execMbxPop w ep k s) :=
  ((hs.calm Calm.rfl.reply).mbxOp fun hs => (hs.calm Calm.rfl.pop)).next

theorem Keeps.execMbxEnable {w k cfg} : Yields (Keeps o) (execMbxEnable w k cfg s) :=
  (hs.mbxOp fun hs => (hs.calm Calm.rfl.mbxCfgWrite)).next

theorem Keeps.execTrainingStart {w dimms} : Yields (Keeps o) (execTrainingStart w dimms s) :=
  .next (.ite hs (hs.regOp fun hs => (hs.calm Calm.rfl.trainStart)))

theorem Keeps.execTrainingDone {fail} : Yields (Keeps o) (execTrainingDone fail s) := (hs.calm Calm.rfl.trainEnd).next

theorem Keeps.execDdrUse {w} : Yields (Keeps o) (execDdrUse w s) :=
  .next (.ite hs (hs.regOp fun hs => (hs.calm Calm.rfl.setUse)))

theorem Keeps.execFillAdvance : Yields (Keeps o) (execFillAdvance s) := (hs.calm Calm.rfl.fillStep).next

theorem Keeps.execDdrRequestArrive {addr wr data origin} : Yields (Keeps o) (execDdrRequestArrive addr wr data origin s) :=
  .next (.ite hs (.ite (hs.calm Calm.rfl.failReq) (.ite (.ite (hs.calm Calm.rfl.setBytes.setDmc.panicLevel) hs)
      (hs.calm Calm.rfl.setBytes.setDmc))))

theorem Keeps.execDdrCommandIssue {ch legal} : Yields (Keeps o) (execDdrCommandIssue ch legal s) :=
  .next (.ite (hs.calm Calm.rfl.setDmc.fillAsk.ddrSlot) (hs.calm Calm.rfl.setDmc))

theorem Keeps.execSameBankRefresh {ch rank} : Yields (Keeps o) (execSameBankRefresh ch rank s) :=
  .next (.ite (hs.calm Calm.rfl.setDmc) hs)

theorem Keeps.execModeRegisterPoll {ch readings} : Yields (Keeps o) (execModeRegisterPoll ch readings s) :=
  .next (.ite (hs.calm Calm.rfl.rankReading.rankReading) hs)

theorem Keeps.execZqCalibration {ch op} : Yields (Keeps o) (execZqCalibration ch op s) :=
  .next (.ite (hs.calm Calm.rfl.setDmc) hs)

theorem Keeps.execRetryEntryRetire {ch} : Yields (Keeps o) (execRetryEntryRetire ch s) :=
  .next (.ite hs (hs.calm Calm.rfl.setDmc))

theorem Keeps.execAlertEpisode {ch} : Yields (Keeps o) (execAlertEpisode ch s) :=
  .next (.ite hs (.ite (hs.calm Calm.rfl.setDmc.rinc.channelFail) (hs.calm Calm.rfl.setDmc.rinc)))

theorem Keeps.execAlertNRelease {ch} : Yields (Keeps o) (execAlertNRelease ch s) := .next
    (.ite hs (hs.calm Calm.rfl.setDmc))

theorem Keeps.execDdrReadReturn {ch err} : Yields (Keeps o) (execDdrReadReturn ch err s) := by
  unfold Machine.execDdrReadReturn
  refine .next ?_
  dsimp only
  split
  exacts [hs, .ite hs (hs.calm Calm.rfl.setDmc.ddrLine.lineBack)]

theorem Keeps.execDdrCorrectionWriteback {ch} : Yields (Keeps o) (execDdrCorrectionWriteback ch s) := by
  unfold Machine.execDdrCorrectionWriteback
  refine .next ?_
  dsimp only
  split
  exacts [hs, .ite (hs.calm Calm.rfl.setDmc) (hs.calm Calm.rfl.setDmc.askBulk)]

theorem Keeps.execDdrPatrolScrub : Yields (Keeps o) (execDdrPatrolScrub s) :=
  .next (.ite hs (hs.foldl _ fun _ _ hs => (hs.calm Calm.rfl.ddrScrubOne)))

theorem Keeps.execDmcEccInjArm {w ch mode} : Yields (Keeps o) (execDmcEccInjArm w ch mode s) :=
  .next (.ite hs (hs.regOp fun hs => (hs.calm Calm.rfl.ddrInj)))

theorem Keeps.execTimeStep {w v} : Yields (Keeps o) (execTimeStep w v s) :=
  (hs.regOp fun hs => (hs.calm Calm.rfl.stepTime)).next

theorem Keeps.execTimeSecRead {w} : Yields (Keeps o) (execTimeSecRead w s) :=
  (hs.regOp fun hs => (hs.calm Calm.rfl.readTimeSec)).next

theorem Keeps.execTimeFreqWrite {w v} : Yields (Keeps o) (execTimeFreqWrite w v s) :=
  (hs.regOp fun hs => (hs.calm Calm.rfl.freqWrite)).next

theorem Keeps.execServoSample {w v} : Yields (Keeps o) (execServoSample w v s) :=
  (hs.regOp fun hs => (.ite (hs.calm Calm.rfl.servo1) hs)).next

theorem Keeps.execHoldoverEnter : Yields (Keeps o) (execHoldoverEnter s) :=
  .next (.ite (.ite hs.frame (hs.frame.calm Calm.rfl.anyRound.setFreq)) hs)

theorem Keeps.execEthReceive {p frame fcsErr} : Yields (Keeps o) (execEthReceive p frame fcsErr s) := by
  refine Keeps.next (.ite hs (.ite (hs.calm Calm.rfl.rinc) ?_))
  dsimp only
  split
  · next e => exact ((hs.calm Calm.rfl.macRead).of_eq e).calm Calm.rfl.fset
  · next e =>
    have read := (hs.calm Calm.rfl.macRead).of_eq e
    exact (Keeps.ite (read.calm Calm.rfl.macWrite.macWrite) (read.calm Calm.rfl.macWrite)).calm Calm.rfl.macWrite.fset

theorem Keeps.execEthTransmit {p} : Yields (Keeps o) (execEthTransmit p s) :=
  .next (.ite hs (by
    dsimp only
    split
    · next e => exact ((hs.calm Calm.rfl.macRead).of_eq e).calm Calm.rfl.fset
    · next e =>
        exact (Keeps.ite ((show Keeps o _ by
          split
          · exact (((hs.calm Calm.rfl.macRead).of_eq e).calm Calm.rfl.macRead).frame
          · exact ((hs.calm Calm.rfl.macRead).of_eq e).calm Calm.rfl.macRead).calm Calm.rfl.macWrite) (by
          split
          · exact (((hs.calm Calm.rfl.macRead).of_eq e).calm Calm.rfl.macRead).frame
          · exact ((hs.calm Calm.rfl.macRead).of_eq e).calm Calm.rfl.macRead)).calm Calm.rfl.macWrite.fset))

theorem Keeps.execCanTxreq {w c v} : Yields (Keeps o) (execCanTxreq w c v s) :=
  (hs.regOp fun hs => (hs.calm Calm.rfl.canRequest)).next

theorem Keeps.execCanTransmit {c} : Yields (Keeps o) (execCanTransmit c s) :=
  .next (.ite (by
    split
    exacts [.ite (hs.calm Calm.rfl.canTxError) (hs.calm Calm.rfl.rset.fset.canTxOk).frame, hs]) hs)

theorem Keeps.execCanReceive {c rec} : Yields (Keeps o) (execCanReceive c rec s) :=
  .next (.ite (.ite (hs.calm Calm.rfl.canRxError) (.ite (hs.calm Calm.rfl.canRxOk.freeBytes).frame
      (hs.calm Calm.rfl.canRxOk.fset))) hs)

theorem Keeps.execCanRxPop {w c} : Yields (Keeps o) (execCanRxPop w c s) :=
  (hs.regOp fun hs => (hs.calm Calm.rfl.canPop)).next

theorem Keeps.execBusOffRecovery {c} : Yields (Keeps o) (execBusOffRecovery c s) := .next (.ite (hs.calm Calm.rfl.fset) hs)

theorem Keeps.execClockStep {ne n} : Yields (Keeps o) (execClockStep ne n s) :=
  .next (.ite hs (Keeps.ite (hs.modEng (.clockStep (.refl _)))
      ((hs.modEng (.clockStep (.refl _))).calm Calm.rfl.suppress)).followCap)

theorem Keeps.execAvsVdone {e} : Yields (Keeps o) (execAvsVdone e s) := by
  refine Keeps.next (hs.modEng ?_)
  split
  · exact .frame (.refl _)
  · exact .frame (.refl _)
  · exact .frame (.refl _)
  · exact .refl _

theorem Keeps.execAvsTimeout {e} : Yields (Keeps o) (execAvsTimeout e s) := by
  unfold Machine.execAvsTimeout
  refine .next ?_
  split
  exacts [.ite ((hs.modEng (.frame (.refl _))).calm Calm.rfl.pmcEvent) hs, hs]

theorem Keeps.execReqnWrite {w e n} : Yields (Keeps o) (execReqnWrite w e n s) :=
  (hs.regOp fun hs => (hs.calm Calm.rfl.reqnWrite)).next

theorem Keeps.execActivityRamp {ne otherStalls} : Yields (Keeps o) (execActivityRamp ne otherStalls s) :=
  .next (.ite ((hs.setEng (.frame (.refl _))).calm Calm.rfl.suppress) hs)

theorem Keeps.execDroopSuppress {ne} : Yields (Keeps o) (execDroopSuppress ne s) := (hs.modEng (.frame (.refl _))).next

theorem Keeps.execDroopRecover {ne pulses} : Yields (Keeps o) (execDroopRecover ne pulses s) :=
  .next (.ite ((hs.modEng (.frame (.refl _))).calm Calm.rfl.rinc) hs)

theorem Keeps.dropPassed {e} : Keeps o (s.dropPassed e) := .ite (hs.modEng (.frame (.refl _))) hs

theorem Keeps.peaks {rails} : Keeps o (s.peaks rails) := hs.foldl _ fun _ _ hs => (.ite (hs.modEng (.frame (.refl _))) hs)

theorem Keeps.window100 {sum} : Keeps o (s.window100 sum) :=
  .ite (.ite ((hs.pmc.calm Calm.rfl.raiseNeeds).allocate.calm Calm.rfl.pmcEvent) hs.pmc) hs.pmc

theorem Keeps.execPowerSample {r} : Yields (Keeps o) (execPowerSample r s) := by
  unfold Machine.execPowerSample
  refine .next ?_
  dsimp only
  split
  exacts [hs.peaks.pmc.window100, hs.peaks.pmc]

theorem Keeps.execAllocate : Yields (Keeps o) (execAllocate s) := hs.allocate.next

theorem Keeps.capWrite {v} : Keeps o (s.capWrite v) := .ite (hs.calm Calm.rfl.fset).followCap.allocate hs

theorem Keeps.execPmcCapWrite {w v} : Yields (Keeps o) (execPmcCapWrite w v s) := (hs.regOp fun hs => hs.capWrite).next

theorem Keeps.execDipEpisodeStart {r warn} : Yields (Keeps o) (execDipEpisodeStart r warn s) :=
  .next (.ite hs (.ite hs.pmc (.ite hs.pmc (hs.calm Calm.rfl.rinc).pmc)))

theorem Keeps.execAttest {k} : Yields (Keeps o) (execAttest k s) := (hs.calm Calm.rfl.secServe).next

theorem Keeps.execGetCert {k} : Yields (Keeps o) (execGetCert k s) := (hs.calm Calm.rfl.secServe).next

theorem Keeps.execExtend {k} : Yields (Keeps o) (execExtend k s) := (hs.calm Calm.rfl.secServe).next

theorem Keeps.execFlashUpdate {k} : Yields (Keeps o) (execFlashUpdate k s) := by
  unfold Machine.execFlashUpdate
  refine .next ?_
  split
  exacts [.ite (hs.calm Calm.rfl.updRun) (hs.calm Calm.rfl.secServe), hs.calm Calm.rfl.secServe]

theorem Keeps.execCounterAdvance {k} : Yields (Keeps o) (execCounterAdvance k s) := (hs.calm Calm.rfl.secServe).next

theorem Keeps.execKeyWrite {k} : Yields (Keeps o) (execKeyWrite k s) := (hs.calm Calm.rfl.secServe).next

theorem Keeps.execDipEpisodeEnd : Yields (Keeps o) (execDipEpisodeEnd s) :=
  .next (.ite hs (.ite (hs.pmc.calm Calm.rfl.brownoutRecord) hs.pmc))

theorem Keeps.execNvOperationRelease : Yields (Keeps o) (execNvOperationRelease s) :=
  .next (.ite hs (by
    split
    · exact .ite (hs.pmc.calm Calm.rfl.nvRelease.releaseDone) hs
    · exact hs.pmc.calm Calm.rfl.nvRelease.releaseDone
    · exact hs))

theorem Keeps.execDebugChallengeRead : Yields (Keeps o) (execDebugChallengeRead s) :=
  (hs.frame.calm Calm.rfl.freeBytes).frame.next

theorem Keeps.execDebugResponseGo {resp} : Yields (Keeps o) (execDebugResponseGo resp s) :=
  .next (.ite hs (.ite (.ite (hs.calm Calm.rfl.nvRequest) (hs.calm Calm.rfl.grantDebug)) hs.frame))

theorem Keeps.execRegionDescriptorWrite {w n cfg v} : Yields (Keeps o) (execRegionDescriptorWrite w n cfg v s) :=
  .next (.ite hs (hs.regOp fun hs => (hs.calm Calm.rfl.rgnWrite)))

theorem Keeps.execSecBlkworldWrite {w v} : Yields (Keeps o) (execSecBlkworldWrite w v s) :=
  .next (.ite hs (hs.regOp fun hs => (hs.calm Calm.rfl.blkworldWrite)))

theorem Keeps.execSecLockBlk {w} : Yields (Keeps o) (execSecLockBlk w s) :=
  .next (.ite hs (hs.regOp fun hs => (hs.calm Calm.rfl.fset)))

theorem Keeps.execRootpllLock : Yields (Keeps o) (execRootpllLock s) := .next (.ite hs hs.frame)

theorem Keeps.execSerdesPllLock : Yields (Keeps o) (execSerdesPllLock s) := .next (.ite hs hs.frame)

theorem Keeps.bootStage23 {env b} : Keeps o (s.bootStage23 env b) :=
  .ite (hs.calm Calm.rfl.trainStart.trainEnd.bootFail) ((hs.calm Calm.rfl.trainStart.trainEnd).bistStart.calm
      Calm.rfl.bistEnd.setUse.bootStage4)

theorem Keeps.boot {env} : Keeps o (s.boot env) := by
  have first := (Calm.refl s).bootIdentity.bootSlot (slot := s.bootIdentity.namedSlot)
  unfold State.boot
  refine .ite (hs.calm Calm.rfl.bootIdentity.bootFail) ?_
  split
  · next booted =>
    rw [booted] at first
    exact ((hs.calm first).calm Calm.rfl.bootGive).bootStage23
  · next stopped =>
    rw [stopped] at first
    have second := Calm.bootSlot first (slot := 1 - s.bootIdentity.namedSlot)
    split
    · next booted =>
      rw [booted] at second
      exact ((hs.calm second).calm Calm.rfl.bootGive).bootStage23
    · next stopped =>
      rw [stopped] at second
      exact (hs.calm second).frame.calm Calm.rfl.bootFail

theorem Keeps.execBootChain {env} : Yields (Keeps o) (execBootChain env s) := .next (.ite hs hs.boot)

theorem Keeps.execCmm {h c x} : Yields (Keeps o) (execCmm h c x s) :=
  (hs.issue fun hs => (by
    split
    exacts [hs, hs.modEng (.startCmm (.refl _))])).wfOr

theorem Keeps.execResetRelease {modeSel refclk test} : Yields (Keeps o) (execResetRelease modeSel refclk test s) :=
  .next (.ite hs.frame hs)

theorem Keeps.execPerstEndpointReset : Yields (Keeps o) (execPerstEndpointReset s) :=
  .next (.ite hs.frame (hs.calm Calm.rfl.endpointReset).frame)

theorem Keeps.execPerstNDeassertion : Yields (Keeps o) (execPerstNDeassertion s) := .next (.ite hs.frame hs)

theorem Keeps.flr : Keeps o s.flr :=
  (hs.foldl _ fun _ _ hs => hs.destroy).calm
      Calm.rfl.disableQueues.frame.rset.receiverReset.receiverReset.receiverReset.flrSettle

theorem Keeps.execFunctionLevelReset : Yields (Keeps o) (execFunctionLevelReset s) := .next (.ite hs hs.flr)

theorem Keeps.cfgWrite {r v} : Keeps o (s.cfgWrite r v) := .ite hs (.ite hs.flr (hs.calm Calm.rfl.cfgPut.msixFlush))

theorem Keeps.cfgAnswer {r wr} : Keeps o (s.cfgAnswer r wr) := by
  unfold State.cfgAnswer
  split
  exacts [.ite hs.frame hs.cfgWrite.frame, hs.frame]

theorem Keeps.execConfigRequest {reg wr} : Yields (Keeps o) (execConfigRequest reg wr s) :=
  .next (.ite hs (.ite (.ite (hs.calm Calm.rfl.takeFree).frame (hs.calm Calm.rfl.takeFree).frame.cfgAnswer)
      hs.frame.cfgAnswer))

theorem Keeps.execPcieLinkTraining {width speed} : Yields (Keeps o) (execPcieLinkTraining width speed s) :=
  .next (.ite hs (.ite hs.frame hs))

theorem Keeps.execRootPortLinkTraining {width speed} : Yields (Keeps o) (execRootPortLinkTraining width speed s) :=
  .next (.ite hs (.ite hs.frame hs))

theorem Keeps.execPcierpCfgGo {w wr reg} : Yields (Keeps o) (execPcierpCfgGo w wr reg s) :=
  (hs.regOp fun hs => (hs.calm Calm.rfl.rpCfgWrite)).next

theorem Keeps.execPcierpCfgCompletion {ur data} : Yields (Keeps o) (execPcierpCfgCompletion ur data s) :=
  .next (.ite hs (.ite (hs.calm Calm.rfl.rpFail) (.ite (hs.calm Calm.rfl.fset.rset) (hs.calm Calm.rfl.fset))))

theorem Keeps.execPcierpCfgTimeout : Yields (Keeps o) (execPcierpCfgTimeout s) := .next (.ite hs (hs.calm Calm.rfl.rpFail))

theorem Keeps.execApertureWrite {w off data} : Yields (Keeps o) (execApertureWrite w off data s) :=
  (hs.regOp fun hs => (hs.calm Calm.rfl.aperture)).next

theorem Keeps.execInboundRequest {addr a} : Yields (Keeps o) (execInboundRequest addr a s) :=
  .next (.ite hs (by
    split
    · exact .ite (hs.calm Calm.rfl.hcIrq).frame (.ite (hs.calm Calm.rfl.physAccess.answer) (hs.calm Calm.rfl.answer))
    · exact .ite (hs.calm Calm.rfl.physAccess.answer) (hs.calm Calm.rfl.answer)))

theorem Keeps.execHcRelease {w k} : Yields (Keeps o) (execHcRelease w k s) :=
  (hs.regOp fun hs => (hs.calm Calm.rfl.hclWrite)).next

theorem Keeps.execHcHold {w k} : Yields (Keeps o) (execHcHold w k s) :=
    (hs.regOp fun hs => (hs.calm Calm.rfl.hclWrite)).next

theorem Keeps.execCluster {w} : Yields (Keeps o) (execCluster w s) := (hs.regOp fun hs => (hs.calm Calm.rfl.hclWrite)).next

theorem Keeps.execUsbAttach {speed} : Yields (Keeps o) (execUsbAttach speed s) := hs.frame.next

theorem Keeps.execUsbDetach : Yields (Keeps o) (execUsbDetach s) :=
  .next (.ite (hs.foldl _ fun _ _ hs => (hs.calm Calm.rfl.usbDone)).frame hs)

theorem Keeps.execUsbTransfer {ring data setup} : Yields (Keeps o) (execUsbTransfer ring data setup s) :=
  .next (.ite hs (.ite (hs.calm Calm.rfl.usbAnswer) (.ite (hs.calm Calm.rfl.usbOutRun) (hs.calm Calm.rfl.usbIn))))

theorem Keeps.execVop2 {h fn c} : Yields (Keeps o) (execVop2 h fn c s) :=
  (hs.issue fun hs => (hs.modEng (.putV (.refl _)))).wfOr

theorem Keeps.execVfma {h c} : Yields (Keeps o) (execVfma h c s) := (hs.issue fun hs => (hs.modEng (.putV (.refl _)))).wfOr

theorem Keeps.execVcmp {h fn pd c} : Yields (Keeps o) (execVcmp h fn pd c s) :=
  (hs.issue fun hs => (hs.modEng (.putP (.refl _)))).wfOr

theorem Keeps.execVsel {h c} : Yields (Keeps o) (execVsel h c s) := (hs.issue fun hs => (hs.modEng (.put (.refl _)))).wfOr

theorem Keeps.execVcvt {h target group c} : Yields (Keeps o) (execVcvt h target group c s) := by
  refine Keeps.wfOr (hs.issue fun hs => hs.modEng ?_)
  dsimp only
  split
  exacts [.putV (.putV (.refl _)), .putV (.refl _)]

theorem Keeps.execVfn {h fn c} : Yields (Keeps o) (execVfn h fn c s) :=
  (hs.issue fun hs => (hs.modEng (.putV (.refl _)))).wfOr

theorem Keeps.execVred {h op segs c} : Yields (Keeps o) (execVred h op segs c s) := by
  refine Keeps.wfOr (hs.issue fun hs => hs.modEng ?_)
  dsimp only
  split
  exacts [.put (.put (.refl _)), .put (.refl _)]

theorem Keeps.execVperm {h c} : Yields (Keeps o) (execVperm h c s) :=
    (hs.issue fun hs => (hs.modEng (.putV (.refl _)))).wfOr

theorem Keeps.execVext {h sd va et lane} : Yields (Keeps o) (execVext h sd va et lane s) :=
  (hs.issue fun hs => (hs.modEng (.put (.refl _)))).wfOr

theorem Keeps.execVbcast {h sa c} : Yields (Keeps o) (execVbcast h sa c s) :=
  (hs.issue fun hs => (hs.modEng (.putV (.refl _)))).wfOr

theorem Keeps.execPlog {h fn pd pa pb pr zm sa} : Yields (Keeps o) (execPlog h fn pd pa pb pr zm sa s) :=
  Keeps.next (hs.issue fun hs => hs.modEng (Engine.Keeps.ite (.put (.refl _)) (.putP (.refl _))))

theorem Keeps.execWgcfg {h set field sa} : Yields (Keeps o) (execWgcfg h set field sa s) :=
  (hs.issue fun hs => (hs.modEng (.put (.refl _)))).wfOr

theorem Keeps.execPq {h vd va gp pr slot sub cb8 cntm1} : Yields (Keeps o) (execPq h vd va gp pr slot sub cb8 cntm1 s) :=
  (hs.issue fun hs => (hs.modEng (.put (.refl _)))).wfOr

theorem Keeps.drain {e vd pos ring chr lpi row} : Keeps o (s.drain e vd pos ring chr lpi row) := by
  unfold State.drain
  dsimp only
  split
  · exact (hs.setEng (.frame (.refl _))).modEng (.ite (.oweV (.oweV (.count (.drained (.refl _)))))
      (.oweV (.count (.drained (.refl _)))))
  · exact (hs.setEng (.frame (.refl _))).modEng (.oweV (.drained (.refl _)))

theorem Keeps.execDrn {h vd pos raw ring chr lpi row} : Yields (Keeps o) (execDrn h vd pos raw ring chr lpi row s) :=
  (hs.issue fun hs => (.ite (hs.setEng (.oweV (.drained (.refl _)))) hs.drain)).wfOr

theorem Keeps.pmcWrite {r v} : Keeps o (s.pmcWrite r v) := by
  unfold State.pmcWrite
  split
  · exact .ite (hs.calm Calm.rfl.fset).followCap.allocate hs
  · exact .ite ((Keeps.ite (hs.calm Calm.rfl.fset) hs).calm Calm.rfl.fset) (.ite (hs.calm Calm.rfl.fset) hs)
  · exact .ite ((Keeps.ite (hs.calm Calm.rfl.fset) hs).calm Calm.rfl.fset) (.ite (hs.calm Calm.rfl.fset) hs)
  · exact hs.capWrite
  · exact .ite (hs.calm Calm.rfl.rset) hs
  · exact hs.calm Calm.rfl.genWrite.reqnWrite
  · exact hs.calm Calm.rfl.genWrite

theorem Keeps.engWrite {e f} (hf : (s.eng e).Keeps (f (s.eng e))) : Keeps o (s.engWrite e f) := hs.modEng hf

theorem Keeps.ctxOpWrite {v} : Keeps o (s.ctxOpWrite v) :=
  .ite (hs.ctxOp fun hs => (hs.calm Calm.rfl.create)) (.ite (hs.ctxOp fun hs => hs.destroy) hs)

theorem Keeps.regEffect {r v} : Keeps o (s.regEffect r v) := by
  unfold State.regEffect
  split
  · exact hs.calm Calm.rfl.sqRead
  · exact hs.ctxOpWrite
  · exact hs.calm Calm.rfl.probeCtlWrite
  · exact hs.calm Calm.rfl.srvCtlWrite
  · exact hs.calm Calm.rfl.encCfgWrite
  · exact hs.calm Calm.rfl.taqCfgWrite
  · exact hs.calm Calm.rfl.enWrite
  · exact hs.calm Calm.rfl.enWrite
  · exact hs.calm Calm.rfl.enWrite
  · exact .ite (hs.calm Calm.rfl.enWrite.canErrors) (hs.calm Calm.rfl.enWrite)
  · split
    exacts [hs.calm Calm.rfl.srcCtlWrite, hs]
  · exact hs.calm Calm.rfl.cdcCtlWrite
  · exact hs.calm Calm.rfl.winSet
  · exact hs.calm Calm.rfl.winSet
  · exact hs.calm Calm.rfl.winCtlWrite
  · exact .ite hs.bistStart (hs.calm Calm.rfl.fset)
  · exact hs.calm Calm.rfl.eccInj
  · exact hs.calm Calm.rfl.ddrInj
  · exact hs.calm Calm.rfl.dmcCfgWrite
  · exact hs.calm Calm.rfl.trainCtlWrite
  · exact hs.calm Calm.rfl.engcycWrite
  · exact hs.calm Calm.rfl.hclWrite
  · exact hs.calm Calm.rfl.rpCtlWrite
  · exact hs.calm Calm.rfl.rpCfgWrite
  · exact hs.calm Calm.rfl.genWrite.msixFlush
  · exact (Keeps.ite hs.engAbort hs).calm Calm.rfl.fset
  · exact hs.engWrite (.frame (.refl _))
  · exact hs.engWrite (.frame (.refl _))
  · exact hs.engWrite (.frame (.refl _))
  · exact hs.engWrite (.frame (.refl _))
  · exact hs.engWrite (.frame (.refl _))
  · exact hs.engWrite (.frame (.refl _))
  · exact hs.engWrite (.frame (.refl _))
  · exact hs.engWrite (.frame (.refl _))
  · exact hs.engWrite (.frame (.refl _))
  · exact hs.calm Calm.rfl.genWrite
  · exact hs.calm Calm.rfl.genWrite.freeTrackers
  · exact .ite (hs.calm Calm.rfl.genWrite.panicLevel) hs
  · exact hs.engWrite (.frame (.refl _))
  · exact hs.engWrite (.frame (.refl _))
  · exact .ite hs.pmcWrite (hs.calm Calm.rfl.genWrite)

theorem Keeps.pmtRoute {w op} : Yields (Keeps o) (pmtRoute w op s) := by
  unfold Machine.pmtRoute
  split
  · exact hs.execPmtInstall
  · split
    · exact hs.execPmtRemove
    · split
      · exact hs.execPmtRemoveForce
      · split
        · exact hs.execPmtLookup
        · split
          exacts [hs.execPmtRead, (hs.regOp fun hs => (.ite (hs.calm Calm.rfl.fset) hs)).next]

theorem Keeps.frPortRoute {w r v} : Yields (Keeps o) (frPortRoute w r v s) := by
  unfold Machine.frPortRoute
  dsimp only
  split
  · exact hs.execFrPortRelease
  · split
    exacts [hs.execFrPortAcquire, hs.next]

theorem Keeps.frCtlRoute {w r v} : Yields (Keeps o) (frCtlRoute w r v s) := by
  unfold Machine.frCtlRoute
  dsimp only
  split
  · exact (Keeps.ite (hs.calm Calm.rfl.frCtlClear) hs).execRingEnable
  · exact (Keeps.ite (hs.calm Calm.rfl.frCtlClear) hs).execRingDisable

theorem Keeps.writeReg {w ep r v} : Yields (Keeps o) (writeReg w ep r v s) := by
  unfold Machine.writeReg
  split
  · exact hs.execContextModeSelect
  · exact hs.execQueueEnWrite
  · exact hs.execQueueEnWrite
  · exact hs.pmtRoute
  · exact hs.execMbxEnable
  · exact hs.execMbxPush
  · exact (hs.mbxOp fun hs => (hs.calm Calm.rfl.genWrite)).next
  · exact (hs.mbxOp fun hs => (hs.calm Calm.rfl.genWrite)).next
  · exact (hs.mbxOp fun hs => (hs.calm Calm.rfl.genWrite)).next
  · exact (hs.mbxOp fun hs => hs).next
  · exact hs.execFencePortSig
  · exact hs.execFencePortAttr
  · exact hs.execFenceCtxRange
  · exact hs.execTimeStep
  · exact hs.execTimeFreqWrite
  · exact hs.execServoSample
  · exact hs.execRollJobStart
  · exact hs.execCanTxreq
  · exact hs.execSdmaChArm
  · exact hs.frCtlRoute
  · exact hs.frPortRoute
  · exact hs.execRegionDescriptorWrite
  · exact hs.execRegionDescriptorWrite
  · exact hs.execSecBlkworldWrite
  · split
    exacts [hs.execSecLockBlk, .next (.ite hs (hs.regOp fun hs => hs))]
  · split
    exacts [hs.execQueueCancel, (hs.regOp fun hs => hs).next]
  · exact (hs.regOp fun hs => hs).next
  · exact .next (.ite hs (hs.regOp fun hs => hs.regEffect))

theorem Keeps.write32 {w ep off v} : Yields (Keeps o) (write32 w ep off v s) := by
  unfold Machine.write32
  split
  · exact (hs.regOp fun hs => (hs.calm Calm.rfl.msixHalf)).next
  · split
    · split
      exacts [hs.writeReg, (hs.regOp fun hs => hs).next]
    · exact (hs.regOp fun hs => hs).next

theorem Keeps.write64 {w ep off v} : Yields (Keeps o) (write64 w ep off v s) := by
  unfold Machine.write64
  split
  · split
    · exact hs.writeReg
    · split
      · next low => exact (hs.writeReg _ low).write32
      · exact hs.writeReg
  · exact hs.write32

theorem Keeps.busWrite {w ep off width v} : Yields (Keeps o) (busWrite w ep off width v s) := by
  unfold Machine.busWrite
  split
  · exact hs.next
  · split
    · split
      exacts [(hs.regOp fun hs => (hs.calm Calm.rfl.sqRead)).next, hs.next]
    · split
      · exact hs.execApertureWrite
      · split
        exacts [hs.write64, hs.write32]

theorem Keeps.execRegisterWrite {w ep addr width v} : Yields (Keeps o) (execRegisterWrite w ep addr width v s) := by
  unfold Machine.execRegisterWrite
  split
  exacts [hs.next, hs.busWrite]

theorem Keeps.forget {h} : Keeps o (s.forget h) := hs.foldl _ fun _ _ hs => (.ite (hs.modEng (.frame (.refl _))) hs)

theorem Keeps.loadPlace {c b} : Keeps o (s.loadPlace c b) :=
  (Keeps.ite (hs.calm Calm.rfl.placeOn.loadEnd) (hs.calm Calm.rfl.placeOn.loadProg)).forget.frame.calm Calm.rfl.commit

theorem Keeps.loadRun {c} : Keeps o (s.loadRun c) := by
  unfold State.loadRun
  dsimp only
  split
  · exact hs.calm Calm.rfl.loadProg.failCmd
  · split
    · exact hs.calm Calm.rfl.loadProg.failCmd
    · split
      · next e => exact ((hs.calm Calm.rfl.cpRead).of_eq e).calm Calm.rfl.loadProg.failCmd
      · next e =>
          split
          · exact ((hs.calm Calm.rfl.cpRead).of_eq e).calm Calm.rfl.loadProg.commit
          · exact .ite (((hs.calm Calm.rfl.cpRead).of_eq e).calm Calm.rfl.loadProg.failCmd)
              ((hs.calm Calm.rfl.cpRead).of_eq e).loadPlace

theorem Keeps.execLoadImage {sq seq} : Yields (Keeps o) (execLoadImage sq seq s) := by
  unfold Machine.execLoadImage
  refine .next ?_
  split
  exacts [hs.loadRun, hs]

theorem Keeps.execUnloadImage {sq seq} : Yields (Keeps o) (execUnloadImage sq seq s) := by
  unfold Machine.execUnloadImage
  refine .next ?_
  split
  · exact hs
  · dsimp only
    split
    · exact hs.calm Calm.rfl.failCmd
    · split
      exacts [hs.calm Calm.rfl.failCmd, .ite (hs.calm Calm.rfl.failCmd) (hs.frame.calm Calm.rfl.commit)]

theorem Keeps.issueDecision {e lpi bs} : Keeps o (s.issueDecision e lpi bs) :=
  (hs.setEng (.frame (.closeGuard (.refl _) (lpi := lpi)))).openBundle

theorem Keeps.decisionLost {e a f} : Keeps o (s.decisionLost e a f) := hs.engStop

theorem Keeps.decideBy {e lpi b} : Keeps o (s.decideBy e lpi b) := by
  have noted {p : Prop} [Decidable p] {l : Nat × Nat × Nat} :
      (s.eng e).Keeps (if p then s.eng e else { s.eng e with pntLast := l }) := .ite (.refl _) (.frame (.refl _))
  unfold State.decideBy
  refine .ite ?_ (Keeps.issueDecision (hs.setEng (.ite (.frame noted) noted)))
  split
  · next lost => exact ((hs.calm Calm.rfl.ownRead).of_eq lost).decisionLost
  · next t read =>
    have same : t.eng e = s.eng e := (Calm.rfl.ownRead.of_eq read).eng e
    refine ((hs.calm Calm.rfl.ownRead).of_eq read).setEng ?_
    rw [same]
    exact .frame noted

theorem Keeps.takeDecision {e lpi b} : Keeps o (s.takeDecision e lpi b) := by
  unfold State.takeDecision
  split
  · exact hs
  · split
    · next e'' => exact ((hs.calm Calm.rfl.ownRead).of_eq e'').decisionLost
    · next e'' => exact ((hs.calm Calm.rfl.ownRead).of_eq e'').decideBy

theorem Keeps.execPentimentoDecision {h} : Yields (Keeps o) (execPentimentoDecision h s) := by
  have arrives := hs.advance (e := h.ne.val) (n := h.dt)
  refine Keeps.next (.ite arrives.boundary (.ite ?_ arrives))
  split
  exacts [arrives.takeDecision, arrives]

theorem Keeps.toAltEnd {e n} : Keeps o (toAltEnd e n s).1 := by
  induction n generalizing s with
  | zero => exact hs
  | succ n ih =>
    unfold Machine.toAltEnd
    exact .iteF hs (.iteF (ih hs.tick) hs)

theorem Keeps.execDecisionBundleResume {ne} : Yields (Keeps o) (execDecisionBundleResume ne s) := by
  have ends {n} := hs.toAltEnd (e := ne.val) (n := n)
  refine Keeps.next ?_
  split
  · exact .ite (.ite ends.advance.issueDecision ends.advance) (.ite hs ends)
  · exact hs

theorem Keeps.readAct {r} : Keeps o (s.readAct r) := by
  unfold State.readAct
  split
  · exact hs.calm Calm.rfl.readTimeSec
  · exact hs.modFq (.frame (.refl _))
  · exact hs.modFq (.frame (.refl _))
  · exact hs.modFq (.frame (.refl _))
  · exact hs.calm Calm.rfl.canPop
  · exact hs

theorem Keeps.read64 {r} : Keeps o (s.read64 r).2 := by
  unfold State.read64
  split
  · exact hs.readAct
  · split
    · exact hs.frame
    · split
      exacts [hs.frame, hs]

theorem Keeps.busRead {w ep off width} : Keeps o (s.busRead w ep off width).2 := by
  unfold State.busRead
  dsimp only
  split
  · exact hs
  · split
    · exact hs.calm Calm.rfl.takeFree
    · split
      · exact .ite (hs.calm Calm.rfl.violation.violation) (hs.calm Calm.rfl.violation)
      · split
        · exact hs
        · split
          · exact hs
          · split
            exacts [.iteP hs.read64 hs, hs]

theorem Keeps.masterRead {w ep off n} : Yields (Keeps o) (s.masterRead w ep off n) := by
  unfold State.masterRead
  split
  · split
    exacts [hs.execMbxPop, (hs.calm Calm.rfl.answer).next]
  · exact (hs.busRead.calm Calm.rfl.answer).next

theorem Keeps.masterWrite {w ep off d} : Yields (Keeps o) (s.masterWrite w ep off d) := by
  unfold State.masterWrite
  split
  · next written => exact ((hs.busWrite _ written).calm Calm.rfl.answer).next
  · exact hs.busWrite

theorem Keeps.execRemoteAccess {m ctx va a} : Yields (Keeps o) (execRemoteAccess m ctx va a s) := by
  unfold Machine.execRemoteAccess
  split
  · exact (hs.calm Calm.rfl.answer).next
  · split
    · split
      exacts [hs.masterRead, hs.masterWrite]
    · exact (hs.calm Calm.rfl.masterAccess.answer).next

theorem Keeps.restEng {e} : Keeps o (s.restEng e) := ((hs.setEng (.rest (.refl _))).calm Calm.rfl.suppress).dropPassed

theorem Keeps.idleTick : Keeps o s.idleTick := by
  have ticked : Keeps o ((List.range 4).foldl State.encTick { s with clock := s.clock.tick }) :=
    hs.frame.foldl _ fun _ _ ht => ht.calm Calm.rfl.encTick
  exact .ite hs (.ite ticked (ticked.foldl _ fun _ _ ht => ht.restEng))

end

end Sys2Proof.Machine

/-! SUPPORT. Every command, and the obligations O53 to O56. -/
namespace Sys2Proof.Machine

open Sys2Proof

-- one proof after the other: a thread for each would need too much memory
set_option Elab.async false

/-! ### Commands that change the fixed part of the power sum -/

/-- What every command keeps of the invariants: the power sum where the fixed part does not rise. -/
structure StepKeeps (r t : State) : Prop where
  mem : Memory.wf r.mem → Memory.wf t.mem
  credits : r.creditsOk → t.creditsOk
  rings : r.ringsOk → t.ringsOk
  power : r.powerOk → t.fixedPart ≤ r.fixedPart → t.powerOk

variable {r s t : State}

theorem Keeps.step (h : Keeps r t) : StepKeeps r t := ⟨h.mem, h.credits, h.rings, fun hr _ => h.power hr⟩

theorem StepKeeps.keeps (h : StepKeeps r s) (g : Keeps s t) : StepKeeps r t :=
  ⟨g.mem ∘ h.mem, g.credits ∘ h.credits, g.rings ∘ h.rings, fun hr le => g.power (h.power hr (g.fixed ▸ le))⟩

theorem Keeps.stepKeeps (h : Keeps r s) (g : StepKeeps s t) : StepKeeps r t :=
  ⟨g.mem ∘ h.mem, g.credits ∘ h.credits, g.rings ∘ h.rings, fun hr le => g.power (h.power hr) (h.fixed ▸ le)⟩

theorem StepKeeps.ite {c : Prop} [Decidable c] (hs : StepKeeps r s) (ht : StepKeeps r t) : StepKeeps r
    (if c then s else t) := by
  split
  · exact hs
  · exact ht

theorem StepKeeps.next (h : StepKeeps r s) : Yields (StepKeeps r) (.next s) := by
  intro t e
  cases e
  exact h

theorem Yields.step {x : Host.Outcome State Fault Refusal} (h : Yields (Keeps r) x) : Yields (StepKeeps r) x :=
  fun t e => (h t e).step

/-- Allocations that do not rise fit where the fixed part does not rise. -/
theorem powerOk_of_le (h : s.powerOk) (cap : t.pmc.effcap = s.pmc.effcap) (rt : t.pmc.allocRt ≤ s.pmc.allocRt)
    (mem : t.pmc.allocMem ≤ s.pmc.allocMem)
    (eng : ∀ e, (s.eng e).powerOk → (t.eng e).powerOk ∧ (t.eng e).alloc ≤ (s.eng e).alloc)
        (le : t.fixedPart ≤ s.fixedPart) :
    t.powerOk := by
  obtain ⟨sum, each⟩ := h
  have engines : ((List.range 6).map fun e => (t.eng e).alloc).sum ≤ ((List.range 6).map fun e => (s.eng e).alloc).sum :=
    List.sum_le_sum fun e he => (eng e (each e (List.mem_range.mp he))).2
  rw [State.allocSum] at sum
  refine ⟨?_, fun e le => (eng e (each e le)).1⟩
  rw [State.allocSum]
  omega

/-- An update of the PMC that leaves the allocations alone. -/
theorem StepKeeps.pmc {p : Pmc} {cores sources ipps codecs irqs regs} (cap : p.effcap = s.pmc.effcap := by rfl)
    (rt : p.allocRt = s.pmc.allocRt := by rfl) (mem : p.allocMem = s.pmc.allocMem := by rfl) :
    StepKeeps s { s with pmc := p, cores := cores, sources := sources, ipps := ipps, codecs := codecs, irqs := irqs, regs
        := regs } :=
  ⟨id, id, id, fun h le => powerOk_of_le h cap (Nat.le_of_eq rt) (Nat.le_of_eq mem) (fun _ h => ⟨h, Nat.le_refl _⟩) le⟩

theorem StepKeeps.pmcOnly {p : Pmc} (cap : p.effcap = s.pmc.effcap := by rfl) (rt : p.allocRt = s.pmc.allocRt := by rfl)
    (mem : p.allocMem = s.pmc.allocMem := by rfl) : StepKeeps s { s with pmc := p } := .pmc cap rt mem

/-- One engine changes, its idle state too. -/
theorem StepKeeps.setEng {e : Nat} {y : Engine} (queues : ∀ q, ((s.eng e).fq q).creditsOk → (y.fq q).creditsOk)
    (pop : (∀ q, (y.fq q).ret = ((s.eng e).fq q).ret) ∧ y.run = (s.eng e).run ∨ (s.eng e).run = .idle)
    (power : (s.eng e).powerOk → y.powerOk ∧ y.alloc ≤ (s.eng e).alloc) : StepKeeps s (s.setEng e y) := by
  refine ⟨id, fun ⟨credits, pops⟩ => ⟨fun f q => ?_, fun f p q c hp hc => ?_⟩, id, fun h le =>
    powerOk_of_le h rfl (Nat.le_refl _) (Nat.le_refl _) (fun f hf => ?_) le⟩
  · rw [State.eng_setEng]
    split
    · next same => subst same; exact queues q (credits f q)
    · exact credits f q
  · have old := pops f p q c hp hc
    rw [State.eng_setEng]
    split
    · next same =>
      subst same
      obtain ⟨ret, run⟩ | rests := pop
      · rw [ret, run]
        exact old
      · exact absurd rests old.2
    · exact old
  · rw [State.eng_setEng]
    split
    · next same => subst same; exact power hf
    · exact ⟨hf, Nat.le_refl _⟩

/-! ### Idle states and domains -/

theorem State.selectIdle_rests {s : State} {e : Nat} {i : IdleSt} (h : s.selectIdle e = i) (off : i ≠ .active)
    (gated : i ≠ .gated) :
    (s.eng e).run = .idle := by
  unfold State.selectIdle at h
  dsimp only at h
  split at h
  · exact absurd h.symm off
  · split at h
    · split at h
      · exact absurd h.symm gated
      · exact absurd h.symm off
    · next rests => exact not_not.mp rests

/-- The queues of an engine that rests are lost with its registers (R384). -/
theorem StepKeeps.enterIdle {e : Nat} {i : IdleSt} (rests : i ≠ .gated → (s.eng e).run = .idle) : StepKeeps s
    (s.enterIdle e i) := by
  have kept : (s.eng e).powerOk → ({ s.eng e with idle := i } : Engine).powerOk ∧ (s.eng e).alloc ≤ (s.eng e).alloc :=
    fun h => ⟨h, Nat.le_refl _⟩
  have entered : StepKeeps s (s.setEng e (if i = .gated then { s.eng e with idle := i } else
      { ({ s.eng e with idle := i } : Engine).clearCtx with lastCtx := none, fqs := [] })) := by
    split
    · exact .setEng (fun _ => id) (.inl ⟨fun _ => rfl, rfl⟩) kept
    · next deep => exact .setEng (fun _ _ => ⟨rfl, Nat.zero_le _⟩) (.inr (rests deep)) kept
  unfold State.enterIdle
  exact .ite (entered.keeps (Keeps.refl _).frame) entered

theorem StepKeeps.execIdleStateSelect (e : Fin 6) (s : State) : Yields (StepKeeps s) (execIdleStateSelect e s) := by
  refine StepKeeps.next ?_
  dsimp only
  split
  · next deeper =>
    refine (Keeps.refl s).dropPassed.stepKeeps (.enterIdle fun deep => State.selectIdle_rests rfl (fun none => ?_) deep)
    rw [none] at deeper
    exact absurd deeper (Nat.not_lt_zero _)
  · exact (Keeps.refl s).dropPassed.step

theorem StepKeeps.execIdleExit (e : Fin 6) (s : State) : Yields (StepKeeps s) (execIdleExit e s) := by
  have woken : Calm s (if (s.eng e.val).idle = .sliceOff then (s.zeroRegion e.val).scrubReset e.val else s) :=
    .ite Calm.rfl.zeroRegion.scrubReset Calm.rfl
  refine StepKeeps.next (.ite (Keeps.refl s).step (.ite (((Keeps.refl s).calm woken).stepKeeps ?_) (Keeps.refl s).step))
  exact .setEng (fun _ => id) (.inl ⟨fun _ => rfl, rfl⟩) fun h => ⟨h, Nat.le_refl _⟩

theorem StepKeeps.execIdleExitDone (e : Fin 6) (s : State) : Yields (StepKeeps s) (execIdleExitDone e s) :=
  StepKeeps.next (.ite (.setEng (fun _ => id) (.inl ⟨fun _ => rfl, rfl⟩) fun h => ⟨h, Nat.le_refl _⟩) (Keeps.refl s).step)

theorem StepKeeps.execPowerDomainOff (d : PowerDomain) (s : State) : Yields (StepKeeps s) (execPowerDomainOff d s) := by
  cases d with
  | hc wfi => exact StepKeeps.next (.ite (Keeps.refl s).step (.ite .pmc ((Keeps.refl s).calm Calm.rfl.fset).step))
  | media => exact StepKeeps.next (.ite .pmc (Keeps.refl s).step)

theorem StepKeeps.execPowerDomainOn (d : PowerDomain) (s : State) : Yields (StepKeeps s) (execPowerDomainOn d s) := by
  cases d with
  | hc wfi => exact StepKeeps.next (.ite .pmc (Keeps.refl s).step)
  | media =>
    refine StepKeeps.next (.ite (.keeps (.pmcOnly (p := { s.pmc with pdMedia := true, mediaWake := [] })) ?_)
        (Keeps.refl s).step)
    exact (Keeps.refl _).calm (Calm.rfl.zeroRegion.scrubReset.foldl _ fun _ _ ht => ht.wakeSource)

/-! ### Temperatures -/

theorem State.setTemps_eq (s : State) (n : Nat) (l : List (BitVec 16)) :
    ∃ temps, s.setTemps n l = { s with pmc := { s.pmc with temps := temps } } := by
  induction l generalizing s n with
  | nil => exact ⟨s.pmc.temps, rfl⟩
  | cons v l ih =>
    unfold State.setTemps
    split
    · obtain ⟨temps, rest⟩ := ih (s.setTemp n v.toNat) (n + 1)
      exact ⟨temps, rest⟩
    · exact ⟨s.pmc.temps, rfl⟩

theorem StepKeeps.setTemps (n : Nat) (l : List (BitVec 16)) : StepKeeps s (s.setTemps n l) := by
  obtain ⟨temps, eq⟩ := s.setTemps_eq n l
  rw [eq]
  exact .pmcOnly

theorem StepKeeps.execTlimitStep (temps : List (BitVec 16)) (s : State) :
    Yields (StepKeeps s) (execTlimitStep temps s) := by
  refine StepKeeps.next (.keeps (.setTemps 0 temps) (Keeps.calm (Keeps.allocate (Keeps.followCap ?_)) Calm.rfl.tripCheck))
  exact .ite ((Keeps.refl _).pmc.calm Calm.rfl.pmcEvent) (Keeps.refl _).pmc

theorem StepKeeps.execThermalTrip (sensor : Fin 12) (temp : BitVec 16) (s : State) :
    Yields (StepKeeps s) (execThermalTrip sensor temp s) :=
  StepKeeps.next (.ite .pmcOnly (.keeps .pmcOnly ((Keeps.refl _).calm Calm.rfl.trip)))

/-! ### Resets -/

theorem State.fixedPart_le (s : State) : s.fixedPart ≤ 128 := Nat.min_le_left _ _

/-- Where nothing is allocated, the fixed part fits under a cap of 32 W. -/
theorem powerOk_of_unused (eng : ∀ e, t.eng e = {}) (rt : t.pmc.allocRt = 0) (mem : t.pmc.allocMem = 0)
    (cap : 128 ≤ t.pmc.effcap) :
    t.powerOk := by
  have alloc (e : Nat) : (t.eng e).alloc = 0 := by rw [eng]
  have fixed := t.fixedPart_le
  refine ⟨?_, fun e _ => ?_⟩
  · simp only [State.allocSum, alloc, rt, mem, List.map_const', List.sum_replicate, smul_zero]
    omega
  · rw [eng]
    exact ⟨fun _ => rfl, nofun⟩

theorem creditsOk_of_unused (queues : ∀ e, (t.eng e).fqs = []) (snaps : t.snaps = []) : t.creditsOk := by
  refine ⟨fun e q => ?_, fun e p q c saved => ?_⟩
  · rw [Engine.fq, queues]
    exact ⟨rfl, Nat.zero_le _⟩
  · rw [snaps] at saved
    contradiction

theorem ringsOk_of_unused (rings : t.rings = []) (snaps : t.snaps = []) : t.ringsOk := by
  refine ⟨fun i => ?_, fun e p i x saved => ?_⟩
  · rw [State.ring, rings]
    exact Ring.slotsOk_empty rfl rfl
  · rw [snaps] at saved
    contradiction

theorem State.powerOk_reset : State.reset.powerOk := powerOk_of_unused (fun _ => rfl) rfl rfl (by decide)

theorem State.creditsOk_reset : State.reset.creditsOk := creditsOk_of_unused (fun _ => rfl) rfl

theorem State.ringsOk_reset : State.reset.ringsOk := ringsOk_of_unused rfl rfl

theorem StepKeeps.resetAll (s : State) : StepKeeps s s.resetAll :=
  ⟨fun h => Memory.wf_filter h _, fun _ => creditsOk_of_unused (fun _ => rfl) rfl, fun _ => ringsOk_of_unused rfl rfl,
    fun _ _ => powerOk_of_unused (fun _ => rfl) rfl rfl (Nat.le_of_ble_eq_true rfl)⟩

theorem Engine.point_unused (x : Engine) : x.point.fqs = [] ∧ x.point.alloc = 0 ∧ x.point.powerOk :=
  ⟨rfl, rfl, fun _ => rfl, fun _ none => by contradiction⟩

theorem StepKeeps.warmReset (s : State) : StepKeeps s s.warmReset := by
  have eng (e : Nat) : (s.warmReset.eng e).fqs = [] ∧ (s.warmReset.eng e).alloc = 0 ∧ (s.warmReset.eng e).powerOk := by
    obtain point | new := mget_map (fun _ => ({} : Engine)) Engine.point s.engines e
    · rw [show s.warmReset.eng e = (s.eng e).point from point]
      exact (s.eng e).point_unused
    · rw [show s.warmReset.eng e = {} from new]
      exact ⟨rfl, rfl, fun _ => rfl, fun _ none => by contradiction⟩
  refine ⟨fun h => Memory.wf_filter h _, fun _ => creditsOk_of_unused (fun e => (eng e).1) rfl, fun _ =>
      ringsOk_of_unused rfl rfl,
    fun h le => powerOk_of_le h rfl (Nat.le_refl _) (Nat.le_refl _) (fun e _ => ?_) le⟩
  obtain ⟨-, alloc, ok⟩ := eng e
  exact ⟨ok, alloc ▸ Nat.zero_le _⟩

theorem StepKeeps.execPowerOnReset (cause : PorCause) (s : State) : Yields (StepKeeps s) (execPowerOnReset cause s) :=
  StepKeeps.next ((StepKeeps.resetAll s).keeps (Keeps.refl _).frame)

theorem StepKeeps.execWarmReset (s : State) : Yields (StepKeeps s) (execWarmReset s) :=
  StepKeeps.next (.ite (Keeps.refl s).frame.step (.ite (Keeps.refl s).step (.warmReset s)))

theorem StepKeeps.execBrownoutReset (r : RailMv) (s : State) : Yields (StepKeeps s) (execBrownoutReset r s) := by
  have all := StepKeeps.resetAll s
  exact StepKeeps.next (.ite (all.keeps (Keeps.refl _).frame) (.ite (Keeps.refl s).step
    (all.keeps ((Keeps.refl _).frame.calm Calm.rfl.rset))))

/-! ### Every command -/

/-- Every command keeps the invariants. -/
theorem exec_stepKeeps (s : State) : ∀ c : Instr, Yields (StepKeeps s) (exec c s)
  | .powerOnReset .. => StepKeeps.execPowerOnReset _ s
  | .resetRelease .. => ((Keeps.refl s).execResetRelease).step
  | .warmReset => StepKeeps.execWarmReset s
  | .perstEndpointReset => ((Keeps.refl s).execPerstEndpointReset).step
  | .functionLevelReset => ((Keeps.refl s).execFunctionLevelReset).step
  | .brownoutReset .. => StepKeeps.execBrownoutReset _ s
  | .dipEpisodeStart .. => ((Keeps.refl s).execDipEpisodeStart).step
  | .dipEpisodeEnd => ((Keeps.refl s).execDipEpisodeEnd).step
  | .nvOperationRelease => ((Keeps.refl s).execNvOperationRelease).step
  | .thermalTrip .. => StepKeeps.execThermalTrip _ _ s
  | .tlimitStep .. => StepKeeps.execTlimitStep _ s
  | .droopSuppress .. => ((Keeps.refl s).execDroopSuppress).step
  | .droopRecover .. => ((Keeps.refl s).execDroopRecover).step
  | .rootpllLock => ((Keeps.refl s).execRootpllLock).step
  | .bootChain .. => ((Keeps.refl s).execBootChain).step
  | .commandStart .. => ((Keeps.refl s).execCommandStart).step
  | .cmm .. => ((Keeps.refl s).execCmm).step
  | .acmRowWrite .. => ((Keeps.refl s).execAcmRowWrite).step
  | .salu .. => ((Keeps.refl s).execSalu).step
  | .salui .. => ((Keeps.refl s).execSalui).step
  | .lil .. => ((Keeps.refl s).execLil).step
  | .lih .. => ((Keeps.refl s).execLih).step
  | .movsp .. => ((Keeps.refl s).execMovsp).step
  | .arset .. => ((Keeps.refl s).execArset).step
  | .loop .. => ((Keeps.refl s).execLoop).step
  | .brz .. => ((Keeps.refl s).execBrz).step
  | .brnz .. => ((Keeps.refl s).execBrnz).step
  | .fwait .. => ((Keeps.refl s).execFwait).step
  | .fsig .. => ((Keeps.refl s).execFsig).step
  | .phase .. => ((Keeps.refl s).execPhase).step
  | .end_ .. => ((Keeps.refl s).execEnd).step
  | .ld .. => ((Keeps.refl s).execLd).step
  | .st .. => ((Keeps.refl s).execSt).step
  | .lds .. => ((Keeps.refl s).execLds).step
  | .sts .. => ((Keeps.refl s).execSts).step
  | .rld .. => ((Keeps.refl s).execRld).step
  | .rst .. => ((Keeps.refl s).execRst).step
  | .fqpop .. => ((Keeps.refl s).execFqpop).step
  | .racq .. => ((Keeps.refl s).execRacq).step
  | .rrel .. => ((Keeps.refl s).execRrel).step
  | .biasld .. => ((Keeps.refl s).execBiasld).step
  | .palwr .. => ((Keeps.refl s).execPalwr).step
  | .vop2 .. => ((Keeps.refl s).execVop2).step
  | .vfma .. => ((Keeps.refl s).execVfma).step
  | .vcmp .. => ((Keeps.refl s).execVcmp).step
  | .vsel .. => ((Keeps.refl s).execVsel).step
  | .vcvt .. => ((Keeps.refl s).execVcvt).step
  | .vfn .. => ((Keeps.refl s).execVfn).step
  | .vred .. => ((Keeps.refl s).execVred).step
  | .vperm .. => ((Keeps.refl s).execVperm).step
  | .vext .. => ((Keeps.refl s).execVext).step
  | .vbcast .. => ((Keeps.refl s).execVbcast).step
  | .plog .. => ((Keeps.refl s).execPlog).step
  | .drn .. => ((Keeps.refl s).execDrn).step
  | .wgcfg .. => ((Keeps.refl s).execWgcfg).step
  | .pq .. => ((Keeps.refl s).execPq).step
  | .resultWrite .. => ((Keeps.refl s).execResultWrite).step
  | .ownStorePerformed .. => ((Keeps.refl s).execOwnStorePerformed).step
  | .rldReply .. => ((Keeps.refl s).execRldReply).step
  | .bankGrant .. => ((Keeps.refl s).execBankGrant).step
  | .pentimentoDecision .. => ((Keeps.refl s).execPentimentoDecision).step
  | .decisionBundleResume .. => ((Keeps.refl s).execDecisionBundleResume).step
  | .activityRamp .. => ((Keeps.refl s).execActivityRamp).step
  | .clockStep .. => ((Keeps.refl s).execClockStep).step
  | .stopReq .. => ((Keeps.refl s).execStopReq).step
  | .commandComplete .. => ((Keeps.refl s).execCommandComplete).step
  | .partStart .. => ((Keeps.refl s).execPartStart).step
  | .partEnd .. => ((Keeps.refl s).execPartEnd).step
  | .kick .. => ((Keeps.refl s).execKick).step
  | .sqPoll .. => ((Keeps.refl s).execSqPoll).step
  | .descriptorAccept .. => ((Keeps.refl s).execDescriptorAccept).step
  | .commandDispatch .. => ((Keeps.refl s).execCommandDispatch).step
  | .nop .. => ((Keeps.refl s).execNop).step
  | .loadImage .. => ((Keeps.refl s).execLoadImage).step
  | .unloadImage .. => ((Keeps.refl s).execUnloadImage).step
  | .run .. => ((Keeps.refl s).execRun).step
  | .sdmaArm .. => ((Keeps.refl s).execSdmaArm).step
  | .abort .. => ((Keeps.refl s).execAbort).step
  | .window .. => ((Keeps.refl s).execWindow).step
  | .completionWrite .. => ((Keeps.refl s).execCompletionWrite).step
  | .cqCoalesceTimer .. => ((Keeps.refl s).execCqCoalesceTimer).step
  | .contextModeSelect .. => ((Keeps.refl s).execContextModeSelect).step
  | .create .. => ((Keeps.refl s).execCreate).step
  | .destroy .. => ((Keeps.refl s).execDestroy).step
  | .contextFreed .. => ((Keeps.refl s).execContextFreed).step
  | .queueEnWrite .. => ((Keeps.refl s).execQueueEnWrite).step
  | .pmtInstall .. => ((Keeps.refl s).execPmtInstall).step
  | .pmtRemove .. => ((Keeps.refl s).execPmtRemove).step
  | .pmtRemoveForce .. => ((Keeps.refl s).execPmtRemoveForce).step
  | .pmtLookup .. => ((Keeps.refl s).execPmtLookup).step
  | .pmtRead .. => ((Keeps.refl s).execPmtRead).step
  | .pmtOpComplete => ((Keeps.refl s).execPmtOpComplete).step
  | .window2Access .. => ((Keeps.refl s).execWindow2Access).step
  | .configRequest .. => ((Keeps.refl s).execConfigRequest).step
  | .fenceSignal .. => ((Keeps.refl s).execFenceSignal).step
  | .fencePortSig .. => ((Keeps.refl s).execFencePortSig).step
  | .fencePortAttr .. => ((Keeps.refl s).execFencePortAttr).step
  | .fenceCtxRange .. => ((Keeps.refl s).execFenceCtxRange).step
  | .waitDeadline .. => ((Keeps.refl s).execWaitDeadline).step
  | .deadlockProbeRequest .. => ((Keeps.refl s).execDeadlockProbeRequest).step
  | .deadlockProbe => ((Keeps.refl s).execDeadlockProbe).step
  | .deadlockVerdict => ((Keeps.refl s).execDeadlockVerdict).step
  | .mbxPush .. => ((Keeps.refl s).execMbxPush).step
  | .mbxPop .. => ((Keeps.refl s).execMbxPop).step
  | .mbxEnable .. => ((Keeps.refl s).execMbxEnable).step
  | .sdmaChArm .. => ((Keeps.refl s).execSdmaChArm).step
  | .descriptorBurstRead .. => ((Keeps.refl s).execDescriptorBurstRead).step
  | .copy .. => ((Keeps.refl s).execCopy).step
  | .mcast .. => ((Keeps.refl s).execMcast).step
  | .fill .. => ((Keeps.refl s).execFill).step
  | .fetch .. => ((Keeps.refl s).execFetch).step
  | .link .. => ((Keeps.refl s).execLink).step
  | .descNop .. => ((Keeps.refl s).execDescNop).step
  | .fetchEntryBegin .. => ((Keeps.refl s).execFetchEntryBegin).step
  | .fetchReadComplete .. => ((Keeps.refl s).execFetchReadComplete).step
  | .queueCancel .. => ((Keeps.refl s).execQueueCancel).step
  | .creditLatchRead .. => ((Keeps.refl s).execCreditLatchRead).step
  | .ringEnable .. => ((Keeps.refl s).execRingEnable).step
  | .ringDisable .. => ((Keeps.refl s).execRingDisable).step
  | .frPortAcquire .. => ((Keeps.refl s).execFrPortAcquire).step
  | .frPortRelease .. => ((Keeps.refl s).execFrPortRelease).step
  | .windowOpen .. => ((Keeps.refl s).execWindowOpen).step
  | .windowClose .. => ((Keeps.refl s).execWindowClose).step
  | .windowClosed .. => ((Keeps.refl s).execWindowClosed).step
  | .remoteAccess .. => ((Keeps.refl s).execRemoteAccess).step
  | .eccWriteBack .. => ((Keeps.refl s).execEccWriteBack).step
  | .gessoPatrolScrub => ((Keeps.refl s).execGessoPatrolScrub).step
  | .bistStart .. => ((Keeps.refl s).execBistStart).step
  | .bistDone .. => ((Keeps.refl s).execBistDone).step
  | .gsEccInjArm .. => ((Keeps.refl s).execGsEccInjArm).step
  | .slcStreamPrefetch .. => ((Keeps.refl s).execSlcStreamPrefetch).step
  | .trainingStart .. => ((Keeps.refl s).execTrainingStart).step
  | .trainingDone .. => ((Keeps.refl s).execTrainingDone).step
  | .ddrUse .. => ((Keeps.refl s).execDdrUse).step
  | .fillAdvance => ((Keeps.refl s).execFillAdvance).step
  | .ddrRequestArrive .. => ((Keeps.refl s).execDdrRequestArrive).step
  | .ddrCommandIssue .. => ((Keeps.refl s).execDdrCommandIssue).step
  | .sameBankRefresh .. => ((Keeps.refl s).execSameBankRefresh).step
  | .modeRegisterPoll .. => ((Keeps.refl s).execModeRegisterPoll).step
  | .zqCalibration .. => ((Keeps.refl s).execZqCalibration).step
  | .retryEntryRetire .. => ((Keeps.refl s).execRetryEntryRetire).step
  | .alertEpisode .. => ((Keeps.refl s).execAlertEpisode).step
  | .ddrReadReturn .. => ((Keeps.refl s).execDdrReadReturn).step
  | .ddrCorrectionWriteback .. => ((Keeps.refl s).execDdrCorrectionWriteback).step
  | .ddrPatrolScrub => ((Keeps.refl s).execDdrPatrolScrub).step
  | .dmcEccInjArm .. => ((Keeps.refl s).execDmcEccInjArm).step
  | .srcEnable .. => ((Keeps.refl s).execSrcEnable).step
  | .commit .. => ((Keeps.refl s).execCommit).step
  | .csiFrameStart .. => ((Keeps.refl s).execCsiFrameStart).step
  | .csiLongPacket .. => ((Keeps.refl s).execCsiLongPacket).step
  | .csiFrameEnd .. => ((Keeps.refl s).execCsiFrameEnd).step
  | .cxpImageHeader .. => ((Keeps.refl s).execCxpImageHeader).step
  | .cxpLine .. => ((Keeps.refl s).execCxpLine).step
  | .lfcLine .. => ((Keeps.refl s).execLfcLine).step
  | .ippContextSwitch .. => ((Keeps.refl s).execIppContextSwitch).step
  | .ippStripe .. => ((Keeps.refl s).execIppStripe).step
  | .encodePicture .. => ((Keeps.refl s).execEncodePicture).step
  | .decodePicture => ((Keeps.refl s).execDecodePicture).step
  | .cxpControlGo .. => ((Keeps.refl s).execCxpControlGo).step
  | .cxpControlAck .. => ((Keeps.refl s).execCxpControlAck).step
  | .cxpControlTimeout .. => ((Keeps.refl s).execCxpControlTimeout).step
  | .timeStep .. => ((Keeps.refl s).execTimeStep).step
  | .timeSecRead .. => ((Keeps.refl s).execTimeSecRead).step
  | .timeFreqWrite .. => ((Keeps.refl s).execTimeFreqWrite).step
  | .servoSample .. => ((Keeps.refl s).execServoSample).step
  | .holdoverEnter => ((Keeps.refl s).execHoldoverEnter).step
  | .ethReceive .. => ((Keeps.refl s).execEthReceive).step
  | .ethTransmit .. => ((Keeps.refl s).execEthTransmit).step
  | .encoderCount .. => ((Keeps.refl s).execEncoderCount).step
  | .encoderIndex .. => ((Keeps.refl s).execEncoderIndex).step
  | .encoderRecord .. => ((Keeps.refl s).execEncoderRecord).step
  | .speedTimeout .. => ((Keeps.refl s).execSpeedTimeout).step
  | .rollJobStart .. => ((Keeps.refl s).execRollJobStart).step
  | .actionFetch .. => ((Keeps.refl s).execActionFetch).step
  | .actionFire => ((Keeps.refl s).execActionFire).step
  | .pulseTrailingEdge .. => ((Keeps.refl s).execPulseTrailingEdge).step
  | .actionChannelDisable .. => ((Keeps.refl s).execActionChannelDisable).step
  | .actionChannelDisabled .. => ((Keeps.refl s).execActionChannelDisabled).step
  | .canTxreq .. => ((Keeps.refl s).execCanTxreq).step
  | .canTransmit .. => ((Keeps.refl s).execCanTransmit).step
  | .canReceive .. => ((Keeps.refl s).execCanReceive).step
  | .canRxPop .. => ((Keeps.refl s).execCanRxPop).step
  | .busOffRecovery .. => ((Keeps.refl s).execBusOffRecovery).step
  | .reqnWrite .. => ((Keeps.refl s).execReqnWrite).step
  | .avsTimeout .. => ((Keeps.refl s).execAvsTimeout).step
  | .idleStateSelect .. => StepKeeps.execIdleStateSelect _ s
  | .idleExit .. => StepKeeps.execIdleExit _ s
  | .powerSample .. => ((Keeps.refl s).execPowerSample).step
  | .allocate => ((Keeps.refl s).execAllocate).step
  | .pmcCapWrite .. => ((Keeps.refl s).execPmcCapWrite).step
  | .powerDomainOff .. => StepKeeps.execPowerDomainOff _ s
  | .powerDomainOn .. => StepKeeps.execPowerDomainOn _ s
  | .attest .. => ((Keeps.refl s).execAttest).step
  | .getCert .. => ((Keeps.refl s).execGetCert).step
  | .extend .. => ((Keeps.refl s).execExtend).step
  | .flashUpdate .. => ((Keeps.refl s).execFlashUpdate).step
  | .counterAdvance .. => ((Keeps.refl s).execCounterAdvance).step
  | .keyWrite .. => ((Keeps.refl s).execKeyWrite).step
  | .debugChallengeRead => ((Keeps.refl s).execDebugChallengeRead).step
  | .debugResponseGo .. => ((Keeps.refl s).execDebugResponseGo).step
  | .regionDescriptorWrite .. => ((Keeps.refl s).execRegionDescriptorWrite).step
  | .secBlkworldWrite .. => ((Keeps.refl s).execSecBlkworldWrite).step
  | .secLockBlk .. => ((Keeps.refl s).execSecLockBlk).step
  | .hcRelease .. => ((Keeps.refl s).execHcRelease).step
  | .hcHold .. => ((Keeps.refl s).execHcHold).step
  | .cluster .. => ((Keeps.refl s).execCluster).step
  | .usbAttach .. => ((Keeps.refl s).execUsbAttach).step
  | .usbDetach => ((Keeps.refl s).execUsbDetach).step
  | .usbTransfer .. => ((Keeps.refl s).execUsbTransfer).step
  | .pcierpCfgGo .. => ((Keeps.refl s).execPcierpCfgGo).step
  | .apertureWrite .. => ((Keeps.refl s).execApertureWrite).step
  | .inboundRequest .. => ((Keeps.refl s).execInboundRequest).step
  | .registerWrite .. => ((Keeps.refl s).execRegisterWrite).step
  | .perstNDeassertion => ((Keeps.refl s).execPerstNDeassertion).step
  | .pcieLinkTraining .. => ((Keeps.refl s).execPcieLinkTraining).step
  | .rootPortLinkTraining .. => ((Keeps.refl s).execRootPortLinkTraining).step
  | .pcierpCfgCompletion .. => ((Keeps.refl s).execPcierpCfgCompletion).step
  | .pcierpCfgTimeout => ((Keeps.refl s).execPcierpCfgTimeout).step
  | .avsVdone .. => ((Keeps.refl s).execAvsVdone).step
  | .alertNRelease .. => ((Keeps.refl s).execAlertNRelease).step
  | .idleExitDone .. => StepKeeps.execIdleExitDone _ s
  | .serdesPllLock => ((Keeps.refl s).execSerdesPllLock).step

/-- Every step keeps the invariants. -/
theorem step_stepKeeps {s t : State} (h : step s = .next t) : StepKeeps s t := by
  unfold step at h
  split at h
  · cases h
    exact (Keeps.refl s).idleTick.step
  · next c l _ => exact (Keeps.refl s).frame.stepKeeps (exec_stepKeeps { s with pending := l } c t h)

/-! ### The obligations -/

/-- Settles O53: a step is a command or an idle cycle, each of which keeps memory in its canonical form. -/
theorem memoryFormKept : Obligations.MemoryFormKept := fun _ _ h e => (step_stepKeeps e).mem h

/-- Settles O54: every queue keeps its credits through each command; a pop that an engine may be taken back to has
returned a credit, and an engine that begins a command with fresh queues has none. -/
theorem fetchCreditsKept : Obligations.FetchCreditsKept := fun _ _ h e => (step_stepKeeps e).credits h

/-- Settles O55: a slot is taken only when free, published behind all others, and saved in a snapshot only in order. -/
theorem ringSlotsKept : Obligations.RingSlotsKept := fun _ _ h e => (step_stepKeeps e).rings h

/-- Settles O56: allocations rise only in the allocation procedure, which grants no more than the target leaves. -/
theorem powerSumKept : Obligations.PowerSumKept := fun _ _ h e le => (step_stepKeeps e).power h le

end Sys2Proof.Machine

/-! SUPPORT. What an idle cycle leaves alone: the encoders' samples, and the engines over the pulses that pass. -/
namespace Sys2Proof.Machine

open Sys2Proof

-- one proof after the other: a thread for each would need too much memory
set_option Elab.async false


/-! ### The encoders' samples -/

/-- The error counters of the encoders. -/
def encErrs : List Reg := [.encErr 0, .encErr 1, .encErr 2, .encErr 3]

/-- `t` follows from `r` by samples of encoders: their state, the action queue, free values and the error counters. -/
def Samples (r t : State) : Prop :=
  t = { r with encs := t.encs, line := t.line, regs := t.regs, free := t.free } ∧ r.regsBut t encErrs

section
variable {r s t : State} {e : Nat}

theorem Samples.refl (s : State) : Samples s s := ⟨rfl, fun _ _ => rfl⟩

theorem Samples.trans (h : Samples r s) (g : Samples s t) : Samples r t := by
  obtain ⟨hs, hr⟩ := h
  obtain ⟨gs, gr⟩ := g
  exact ⟨by rw [gs, hs], fun q hq => (gr q hq).trans (hr q hq)⟩

/-- A part that leaves the registers alone. -/
theorem Samples.frame (h : Samples r s)
    (e : t = { s with encs := t.encs, line := t.line, free := t.free } := by rfl) : Samples r t :=
  h.trans ⟨by rw [e], fun q _ => by rw [e]; rfl⟩

theorem encErr_mem (h : e < 4) : Reg.encErr e ∈ encErrs := by
  unfold encErrs
  interval_cases e <;> simp

theorem Samples.encErr (h : Samples r s) (he : e < 4) (n : Nat) : Samples r (s.rinc (.encErr e) 64 n) :=
  h.trans ⟨rfl, fun _ hq => s.rget_rset_other (hq _ (encErr_mem he)) _⟩

theorem Samples.foldl {α : Type} {f : State → α → State} {l : List α} (h : Samples r s)
    (hf : ∀ t, ∀ a ∈ l, Samples r t → Samples r (f t a)) : Samples r (l.foldl f s) :=
  List.foldlRecOn l f h fun t ht a ha => hf t a ha ht

variable (hs : Samples r s)
include hs

theorem Samples.markDue {t : Nat} : Samples r (s.markDue e t) := hs.frame
theorem Samples.redoD : Samples r (s.redoD e) := hs.frame
theorem Samples.setEnc {x : Enc} : Samples r (s.setEnc e x) := hs.frame

theorem Samples.speedOf {rs : List (Nat × Nat)} : Samples r (s.speedOf e rs).2 := by
  simp only [State.speedOf]
  split
  · split
    · exact hs
    · split
      · exact hs.frame
      · exact hs
  · exact hs

theorem Samples.encSettle : Samples r (s.encSettle e) := by
  simp only [State.encSettle]
  split
  · split
    · exact hs.speedOf.setEnc.redoD.markDue
    · exact hs
  · exact hs

theorem Samples.encMove {d : Int} {t : Nat} : Samples r (s.encMove e d t) := hs.encSettle.setEnc.markDue

theorem Samples.encAccept (he : e < 4) {a b : Bool} {t : Nat} : Samples r (s.encAccept e a b t) := by
  simp only [State.encAccept]
  split
  · exact hs.setEnc
  · split
    · exact hs.setEnc.encErr he 1
    · split
      · exact hs.setEnc
      · exact hs.setEnc.encMove

theorem Samples.encSample (he : e < 4) {a b : Bool} : Samples r (s.encSample e a b) := by
  simp only [State.encSample]
  split
  · exact hs.setEnc
  · exact hs.setEnc.encAccept he
  · exact hs.setEnc.encAccept he
  · split
    · exact hs.setEnc.encAccept he
    · split
      · exact (hs.setEnc.encAccept he).encAccept he
      · exact (hs.setEnc.encAccept he).encAccept he

theorem Samples.encIndex {t : Nat} : Samples r (s.encIndex e t) := by
  simp only [State.encIndex]
  split
  · exact hs
  · split
    · exact hs.encSettle.setEnc.markDue
    · exact hs.encSettle.setEnc

theorem Samples.encZ {z : Bool} : Samples r (s.encZ e z) := by
  simp only [State.encZ]
  split
  · exact hs.setEnc
  · split
    · exact hs.setEnc.encIndex
    · exact hs.setEnc

theorem Samples.encTick (he : e < 4) : Samples r (s.encTick e) := by
  have hab : Samples r (if (s.enc e).ca = none ∧ (s.enc e).cb = none then s
      else s.encSample e ((s.enc e).a != (s.enc e).ca.isSome) ((s.enc e).b != (s.enc e).cb.isSome)) := by
    split
    · exact hs
    · exact hs.encSample he
  simp only [State.encTick]
  split
  · exact hab
  · exact hab.encZ

end

/-- An encoder no input of which shows a change that waits stands still. -/
theorem State.encTick_still {s : State} {e : Nat} (h : (s.enc e).ca = none ∧ (s.enc e).cb = none ∧ (s.enc e).cz = none) :
    s.encTick e = s := by
  obtain ⟨ha, hb, hz⟩ := h
  simp [State.encTick, ha, hb, hz]

theorem samples_encTicks (s : State) : Samples s ((List.range 4).foldl State.encTick s) :=
  (Samples.refl s).foldl fun _ _ he ht => ht.encTick (List.mem_range.mp he)

theorem encTicks_still {s : State} (h : ∀ e, e < 4 → (s.enc e).ca = none ∧ (s.enc e).cb = none ∧ (s.enc e).cz = none) :
    (List.range 4).foldl State.encTick s = s :=
  List.foldlRecOn (motive := fun t => t = s) _ _ rfl fun t ht e he => by
    rw [ht, State.encTick_still (h e (List.mem_range.mp he))]

/-! ### The engines over the pulses that pass -/

/-- The counters of the pulses suppressed in a droop. -/
def droopCounts : List Reg := [.pmcNeDroop 0, .pmcNeDroop 1, .pmcNeDroop 2, .pmcNeDroop 3, .pmcNeDroop 4, .pmcNeDroop 5]

/-- The engine `y` that takes the place of `x` runs the same command with the same scalar registers and results owed. -/
structure Engine.Rests (x y : Engine) : Prop where
  run : y.run = x.run
  sregs : y.sregs = x.sregs
  pend : y.pend = x.pend
  droop : y.droop = x.droop

/-- `t` follows from `r` by pulses that pass over its engines. -/
structure Rests (r t : State) : Prop where
  frame : t = { r with engines := t.engines, regs := t.regs }
  eng : ∀ e, (r.eng e).Rests (t.eng e)
  regsBut : r.regsBut t droopCounts
  regs : (∀ e, (r.eng e).droop = false) → t.regs = r.regs

section
variable {r s t : State} {e : Nat}

theorem Engine.Rests.refl (x : Engine) : x.Rests x := ⟨rfl, rfl, rfl, rfl⟩

theorem Engine.Rests.trans {x y z : Engine} (h : x.Rests y) (g : y.Rests z) : x.Rests z :=
  ⟨g.run.trans h.run, g.sregs.trans h.sregs, g.pend.trans h.pend, g.droop.trans h.droop⟩

theorem Engine.rests_rest (x : Engine) : x.Rests x.rest := by
  unfold Engine.rest
  split
  · exact .refl x
  · exact ⟨rfl, rfl, rfl, rfl⟩

theorem Rests.refl (s : State) : Rests s s := ⟨rfl, fun _ => .refl _, fun _ _ => rfl, fun _ => rfl⟩

theorem Rests.trans (h : Rests r s) (g : Rests s t) : Rests r t where
  frame := by rw [g.frame, h.frame]
  eng e := (h.eng e).trans (g.eng e)
  regsBut q hq := (g.regsBut q hq).trans (h.regsBut q hq)
  regs hd := (g.regs fun e => (h.eng e).droop.trans (hd e)).trans (h.regs hd)

theorem Rests.setEng (h : Rests r s) {x : Engine} (hx : (s.eng e).Rests x) : Rests r (s.setEng e x) :=
  h.trans
    { frame := rfl
      eng := fun f => by
        rw [State.eng_setEng]
        split
        · next hf => exact hf ▸ hx
        · exact .refl _
      regsBut := fun _ _ => rfl
      regs := fun _ => rfl }

theorem droopCount_mem (h : e < 6) : Reg.pmcNeDroop e ∈ droopCounts := by
  unfold droopCounts
  interval_cases e <;> simp

theorem Rests.suppress (h : Rests r s) (he : e < 6) (n : Nat) : Rests r (s.suppress e n) := by
  unfold State.suppress
  split
  · next hd =>
    exact h.trans
      { frame := rfl
        eng := fun _ => .refl _
        regsBut := fun _ hq => s.rget_rset_other (hq _ (droopCount_mem he)) _
        regs := fun hn => absurd hd (by simp [hn e]) }
  · exact h

theorem Rests.dropPassed (h : Rests r s) : Rests r (s.dropPassed e) := by
  simp only [State.dropPassed]
  split
  · exact h.setEng ⟨rfl, rfl, rfl, rfl⟩
  · exact h

theorem Rests.restEng (h : Rests r s) (he : e < 6) : Rests r (s.restEng e) :=
  ((h.setEng (s.eng e).rests_rest).suppress he _).dropPassed

theorem rests_restEngs (s : State) : Rests s ((List.range 6).foldl State.restEng s) :=
  List.foldlRecOn (motive := Rests s) _ _ (.refl s) fun _ ht _ he => ht.restEng (List.mem_range.mp he)

end

/-! ### The idle cycle -/

theorem Clock.tick_ticks (c : Clock) : c.tick.ticks = c.ticks + 1 := by
  simp only [Clock.tick]
  split <;> rfl

theorem State.idleTick_held {s : State} (h : s.held = true) : s.idleTick = s := by simp [State.idleTick, h]

/-- No input of the encoders shows a change that waits. -/
def State.encsStill (s : State) : Prop := ∀ e, e < 4 → (s.enc e).ca = none ∧ (s.enc e).cb = none ∧ (s.enc e).cz = none

/-- Outside reset an idle cycle advances the clock, samples the encoders, and passes over the engines. -/
theorem State.idleTick_parts {s : State} (h : s.held = false) :
    ∃ u, Samples { s with clock := s.clock.tick } u ∧ Rests u s.idleTick ∧
      (s.encsStill → u = { s with clock := s.clock.tick }) := by
  refine ⟨_, samples_encTicks _, ?_, fun hs => encTicks_still hs⟩
  simp only [State.idleTick, h, Bool.false_eq_true, if_false]
  split
  · exact .refl _
  · exact rests_restEngs _

/-- What every idle cycle leaves alone. -/
theorem State.idleTick_frame (s : State) :
    s.idleTick = { s with
      clock := s.idleTick.clock, engines := s.idleTick.engines, encs := s.idleTick.encs, line := s.idleTick.line
      regs := s.idleTick.regs, free := s.idleTick.free } ∧
    s.regsBut s.idleTick (droopCounts ++ encErrs) ∧ ∀ e, (s.eng e).Rests (s.idleTick.eng e) := by
  by_cases h : s.held = true
  · rw [State.idleTick_held h]
    exact ⟨rfl, fun _ _ => rfl, fun _ => .refl _⟩
  · obtain ⟨u, ⟨hf, hb⟩, hr, -⟩ := State.idleTick_parts (Bool.eq_false_of_not_eq_true h)
    refine ⟨by rw [hr.frame, hf], fun q hq => ?_, fun e => ?_⟩
    · exact (hr.regsBut q fun r hm => hq r (by simp [hm])).trans (hb q fun r hm => hq r (by simp [hm]))
    · have hu : u.eng e = s.eng e := by rw [hf]; rfl
      exact hu ▸ hr.eng e

/-- An idle cycle outside reset is one tick of the clock. -/
theorem State.idleTick_ticks {s : State} (h : s.held = false) : s.idleTick.clock.ticks = s.clock.ticks + 1 := by
  obtain ⟨u, ⟨hf, -⟩, hr, -⟩ := State.idleTick_parts h
  rw [hr.frame, hf]
  exact s.clock.tick_ticks

/-- With no change that waits the encoders, the action queue and the free values stand still, and without a droop so do the
registers. -/
theorem State.idleTick_still {s : State} (h : s.encsStill) :
    s.idleTick.encs = s.encs ∧ s.idleTick.line = s.line ∧ s.idleTick.free = s.free ∧
      ((∀ e, (s.eng e).droop = false) → s.idleTick.regs = s.regs) := by
  by_cases hh : s.held = true
  · rw [State.idleTick_held hh]
    exact ⟨rfl, rfl, rfl, fun _ => rfl⟩
  · obtain ⟨u, -, hr, hu⟩ := State.idleTick_parts (Bool.eq_false_of_not_eq_true hh)
    have hu := hu h
    subst hu
    exact ⟨by rw [hr.frame], by rw [hr.frame], by rw [hr.frame], hr.regs⟩

/-- Settles O51: a step takes the front of the queue; an idle cycle changes only what its two parts change. -/
theorem stepFront : Obligations.StepFront := fun s => by
  refine ⟨fun c l h => by simp [step, h], fun h => ⟨s.idleTick, by simp [step, h], ?_⟩⟩
  obtain ⟨hf, hb, he⟩ := s.idleTick_frame
  exact ⟨hf, State.idleTick_held, State.idleTick_ticks, hb, fun e => ⟨(he e).run, (he e).sregs, (he e).pend⟩,
    State.idleTick_still⟩

/-! ### Values at reset -/

/-- A field reads the value of its register's table at reset. -/
theorem State.fget_reset (r : Reg) (h l : Nat) : State.reset.fget r h l = bits (fieldsReset r.fields % 2 ^ 64) h l := rfl

theorem State.sqEn_reset (q : Nat) : State.reset.sqEn q = false := by
  simp [State.sqEn, State.fget_reset, Reg.fields, fieldsReset, bits]

theorem State.cqEn_reset (q : Nat) : State.reset.cqEn q = false := by
  simp [State.cqEn, State.fget_reset, Reg.fields, fieldsReset, bits]

theorem State.mbxEn_reset (k : Nat) : State.reset.mbxEn k = false := by
  simp [State.mbxEn, State.fget_reset, Reg.fields, fieldsReset, bits]

/-- Settles O52: every register reads its table's value at reset, every unit holds its default, and the invariants hold of
a state without engines, queues and rings in use. -/
theorem resetValues : Obligations.ResetValues :=
  ⟨by decide, by decide, by decide, by decide, by decide, fun _ _ => rfl,
    fun q _ => ⟨State.sqEn_reset q, State.cqEn_reset q⟩, fun _ => ⟨rfl, rfl, rfl⟩, fun _ => rfl, fun k _ => ⟨State.mbxEn_reset k, rfl⟩, rfl, rfl, rfl, Memory.wf_nil,
    State.powerOk_reset, State.creditsOk_reset, State.ringsOk_reset, fun _ => rfl⟩

end Sys2Proof.Machine

/-! SUPPORT. Power allocation, PMC_CAP and the power samples. -/
namespace Sys2Proof.Machine

open Sys2Proof

-- one proof after the other: a thread for each would need too much memory
set_option Elab.async false


/-! ### The peaks of the engines' demands -/

/-- `t` is `s` but for the peaks of its engines, none of which has fallen. -/
def Peaks (s t : State) : Prop :=
  t = { s with engines := t.engines } ∧
    ∀ e, t.eng e = { s.eng e with peak := (t.eng e).peak } ∧ (s.eng e).peak ≤ (t.eng e).peak

theorem Peaks.refl (s : State) : Peaks s s := ⟨rfl, fun _ => ⟨rfl, le_refl _⟩⟩

theorem Peaks.trans {r s t : State} (h : Peaks r s) (g : Peaks s t) : Peaks r t := by
  obtain ⟨hs, he⟩ := h
  obtain ⟨gs, ge⟩ := g
  refine ⟨by rw [gs, hs], fun e => ?_⟩
  obtain ⟨he, hp⟩ := he e
  obtain ⟨ge, gp⟩ := ge e
  exact ⟨by rw [ge, he], hp.trans gp⟩

theorem Peaks.raise (s : State) (e m : Nat) : Peaks s (s.modEng e fun x => { x with peak := max x.peak m }) := by
  refine ⟨rfl, fun f => ?_⟩
  rw [State.modEng, State.eng_setEng]
  split
  · next same => exact same ▸ ⟨rfl, Nat.le_max_left _ _⟩
  · exact ⟨rfl, le_refl _⟩

theorem State.peaks_peaks (s : State) (rails : List (Nat × Nat)) : Peaks s (s.peaks rails) :=
  List.foldlRecOn (motive := Peaks s) _ _ (.refl s) fun t h e _ => by
    split
    · exact h.trans (.raise t e _)
    · exact h

/-! ### A sample -/

/-- The power state after a sample of `s`, before a window that it ends is judged. -/
def State.sampledPmc (s : State) (r : PowerReading) : Pmc :=
  { s.pmc with
    demRt := max (s.pmbPower r 1) (s.pmc.demRt - s.pmc.demRt / 16)
    demMem := max (s.pmbPower r 2) (s.pmc.demMem - s.pmc.demMem / 16)
    pkg := s.pkgPower r % 65536
    winSum := match s.pmc.winSum with
      | some _ => none
      | none => some (s.pkgPower r) }

theorem State.pmbPower_peaks (s : State) (rails : List (Nat × Nat)) (r : PowerReading) (cls : Nat) :
    (s.peaks rails).pmbPower r cls = s.pmbPower r cls := by
  rw [(s.peaks_peaks rails).1]
  rfl

theorem State.pkgPower_peaks (s : State) (rails : List (Nat × Nat)) (r : PowerReading) :
    (s.peaks rails).pkgPower r = s.pkgPower r := by
  simp only [State.pkgPower, State.pmbPower_peaks]

theorem State.pmc_peaks (s : State) (rails : List (Nat × Nat)) : (s.peaks rails).pmc = s.pmc := by
  rw [(s.peaks_peaks rails).1]

/-- A window that is not the second one in a row above the cap is only noted. -/
theorem State.window100_noted {s : State} {sum : Nat} (h : sum ≤ 2 * s.pmc.effcap ∨ s.pmc.overWin ≠ 1) :
    s.window100 sum = { s with pmc := { s.pmc with overWin := if 2 * s.pmc.effcap < sum then 1 else 0 } } := by
  unfold State.window100
  by_cases above : 2 * s.pmc.effcap < sum
  · rw [if_pos above, if_pos above, if_neg (h.resolve_left (by omega))]
  · rw [if_neg above, if_neg above]

/-- The first sample of a window. -/
theorem execPowerSample_first {r : PowerReading} {s : State} (h : s.pmc.winSum = none) :
    ∃ u, Peaks s u ∧ exec (.powerSample r) s = .next { u with pmc := s.sampledPmc r } := by
  refine ⟨_, s.peaks_peaks r.rails, ?_⟩
  show execPowerSample r s = _
  simp only [execPowerSample, State.sampledPmc, State.pmc_peaks, State.pmbPower_peaks, State.pkgPower_peaks, h]

/-- The second sample of a window that is only noted. -/
theorem execPowerSample_second {r : PowerReading} {s : State} {a : Nat} (h : s.pmc.winSum = some a)
    (noted : a + s.pkgPower r ≤ 2 * s.pmc.effcap ∨ s.pmc.overWin ≠ 1) :
    ∃ u, Peaks s u ∧ exec (.powerSample r) s = .next { u with pmc := { s.sampledPmc r with
      overWin := if 2 * s.pmc.effcap < a + s.pkgPower r then 1 else 0 } } := by
  refine ⟨_, s.peaks_peaks r.rails, ?_⟩
  show execPowerSample r s = _
  simp only [execPowerSample, State.sampledPmc, State.pmc_peaks, State.pmbPower_peaks, State.pkgPower_peaks, h]
  rw [State.window100_noted]
  exact noted

theorem Peaks.withPmc {s u t : State} {p : Pmc} (h : Peaks s u) (ht : t = { u with pmc := p }) :
    t = { s with engines := t.engines, pmc := t.pmc } ∧
      ∀ e, t.eng e = { s.eng e with peak := (t.eng e).peak } ∧ (s.eng e).peak ≤ (t.eng e).peak := by
  subst ht
  exact ⟨by rw [h.1], h.2⟩

/-- What allocations after a write of a register's field leave alone. -/
theorem Allots.fset_frame {s t : State} {r : Reg} {h l v : Nat} (same : Allots (s.fset r h l v) t) :
    t = { s with regs := t.regs, engines := t.engines, pmc := t.pmc } ∧ t.fget r = (s.fset r h l v).fget r ∧
      s.regsBut t [r] := by
  have regs : t.regs = (s.fset r h l v).regs := by rw [same.frame]
  refine ⟨by rw [same.frame]; rfl, ?_, fun q hq => ?_⟩
  · funext i j
    simp only [State.fget, State.rget, regs]
  · rw [State.rget, regs]
    exact s.rget_rset_other (hq r List.mem_cons_self) _

/-- A write of PMC_CAP that is admitted. -/
theorem execPmcCapWrite_admitted {s : State} {w : World} (h : s.admits w .pmcCap true) (v : BitVec 16) :
    exec (.pmcCapWrite w v) s = .next (s.capWrite v.toNat) := congrArg Host.Outcome.next (State.regOp_admitted h _)

/-- A value of PMC_CAP in its range changes the register, then the cap and the allocations follow. -/
theorem State.capWrite_allots {s : State} {v : Nat} (h : 240 ≤ v ∧ v ≤ 800) :
    Allots (s.fset .pmcCap 15 0 v) (s.capWrite v) := by
  rw [State.capWrite, if_pos h]
  exact (Allots.refl _).followCap.allocate

/-- Settles O49: the allocation procedure grants what the target leaves; PMC_CAP takes its range; a sample folds its
demands in. -/
theorem powerAllocation : Obligations.PowerAllocation := fun s => by
  refine ⟨fun ok => ?_, fun w v open_ lo hi => ?_, fun w v open_ out => ?_, fun r none_ => ?_, fun r a some_ noted => ?_⟩
  · have same : Allots s s.allocate := (Allots.refl s).allocate
    refine ⟨s.allocate, rfl, same.frame, same.pmc, State.allocate_powerOk ok, (State.allocate_powerOk ok).1,
      State.allocate_settled ok, s.allocate_effcap, fun e => ?_⟩
    rw [(same.eng e).frame]
    exact ⟨rfl, rfl, rfl⟩
  · obtain ⟨frame, field, others⟩ := (State.capWrite_allots (s := s) ⟨lo, hi⟩).fset_frame
    refine ⟨_, execPmcCapWrite_admitted open_ v, frame, ?_, others⟩
    rw [field, State.fget_fset_same _ _ (by decide) (by decide)]
    exact Nat.mod_eq_of_lt v.isLt
  · rw [execPmcCapWrite_admitted open_, State.capWrite, if_neg out]
  · obtain ⟨u, same, next⟩ := execPowerSample_first (r := r) none_
    obtain ⟨frame, peaks⟩ := same.withPmc (p := s.sampledPmc r) rfl
    refine ⟨_, next, frame, ?_, peaks⟩
    simp only [State.sampledPmc, none_]
  · obtain ⟨u, same, next⟩ := execPowerSample_second some_ noted
    refine ⟨_, next, (same.withPmc (p := { s.sampledPmc r with overWin := _ }) rfl).1, ?_, ?_⟩
    · simp only [State.sampledPmc, some_]
    · simp only

end Sys2Proof.Machine

/-! SUPPORT. Mailboxes (R300 to R303): pushes, pops and the enable of a channel. -/
namespace Sys2Proof.Machine

open Sys2Proof

-- one proof after the other: a thread for each would need too much memory
set_option Elab.async false


section
variable {s : State} {w : World} {ep : Endpoint} {k : Nat}

/-! ### Access to a channel -/

theorem State.mbxOp_refused (h : 16 ≤ k ∧ w = .gallery) (off : Nat) (wr : Bool) (f : State → State) :
    s.mbxOp w k off wr f = s.violation off wr := by
  obtain ⟨studio, rfl⟩ := h
  simp [State.mbxOp, mbxStudio, studio]

theorem State.mbxOp_admitted (h : 16 ≤ k → w = .studio) (off : Nat) (wr : Bool) (f : State → State) :
    s.mbxOp w k off wr f = f s := by
  rw [State.mbxOp, if_neg]
  simp only [mbxStudio, Bool.and_eq_true, decide_eq_true_eq, beq_iff_eq]
  rintro ⟨studio, rfl⟩
  cases h studio

/-! ### The slots of a channel -/

theorem State.slots_setSlots_same (s : State) (k : Nat) (l : List W64) : (s.setSlots k l).slots k = l :=
  mget_minsert_same ..

theorem State.slots_setSlots_other (s : State) {k j : Nat} (h : j ≠ k) (l : List W64) :
    (s.setSlots k l).slots j = s.slots j := mget_minsert_other _ h ..

/-! ### Flags and counters of a channel -/

theorem State.onlyRegs_rinc {r : Reg} {l : List Reg} (hr : r ∈ l) (s : State) (m n : Nat) : s.onlyRegs (s.rinc r m n) l :=
  State.onlyRegs_rset hr s _

theorem State.rget_rinc_same (s : State) (r : Reg) (n : Nat) : (s.rinc r 64 n).rget r = (s.rget r + n) % 2 ^ 64 := by
  rw [State.rinc_eq, State.rget_rset_same, Nat.mod_mod]

/-- A flag that is set reads 1. -/
theorem State.fget_fset_flag (s : State) (r : Reg) {h : Nat} (hh : h < 64) : (s.fset r h h 1).fget r h h = 1 := by
  rw [State.fget_fset_same s r (Nat.le_refl h) hh, Nat.add_sub_cancel_left]
  rfl

theorem Reg.mbxStat_ne_mbxLost (k : Nat) : (Reg.mbxStat k).addr ≠ (Reg.mbxLost k).addr := by
  simp only [Reg.addr]
  omega

theorem Reg.mbxStat_ne_mbxCfg (k : Nat) : (Reg.mbxStat k).addr ≠ (Reg.mbxCfg k).addr := by
  simp only [Reg.addr]
  omega

/-! ### A push (R302, R303) -/

/-- An endpoint that is not the sender is counted. -/
theorem State.push_stranger (h : s.mbxEn k = false ∨ s.mbxSender k ≠ some ep) (v : W64) :
    s.push ep k v = s.rinc (.mbxBadsrc k) 64 1 := if_pos h

section
variable (en : s.mbxEn k = true) (sender : s.mbxSender k = some ep)
include en sender

/-- A push towards a receiver held in reset is lost. -/
theorem State.push_lost (reset : (s.mbxReceiver k).any s.epReset = true) (v : W64) :
    s.push ep k v = (s.fset (.mbxStat k) 3 3 1).rinc (.mbxLost k) 64 1 := by
  rw [State.push, if_neg (by simp [en, sender]), if_pos reset]

variable (awake : (s.mbxReceiver k).any s.epReset = false)
include awake

theorem State.push_full (full : 8 ≤ (s.slots k).length) (v : W64) : s.push ep k v = s.fset (.mbxStat k) 2 2 1 := by
  rw [State.push, if_neg (by simp [en, sender]), if_neg (by simp [awake])]
  exact if_pos full

/-- A push that finds room, without the interrupt of a channel that was empty. -/
theorem State.push_room (room : (s.slots k).length < 8) (silent : s.fget (.mbxCfg k) 62 62 = 0 ∨ s.slots k ≠ []) (v : W64) :
    s.push ep k v = (s.setSlots k (s.slots k ++ [v])).mailWake k := by
  rw [State.push, if_neg (by simp [en, sender]), if_neg (by simp [awake])]
  have quiet : ((s.slots k).isEmpty && s.fget (.mbxCfg k) 62 62 == 1) = false := by
    obtain cfg | some_ := silent
    · simp [cfg]
    · simp [some_]
  simp only [if_neg (Nat.not_le.mpr room), quiet, Bool.false_eq_true, if_false]

/-- The first message of an empty channel raises the receiver's interrupt where the channel has one. -/
theorem State.push_first (empty : s.slots k = []) (irq : s.fget (.mbxCfg k) 62 62 = 1) (v : W64) :
    s.push ep k v = ((s.setSlots k [v]).mailWake k).rxIrq k := by
  rw [State.push, if_neg (by simp [en, sender]), if_neg (by simp [awake])]
  simp [empty, irq]

end

/-- A message towards the application cores asks for PD_HC while it is off (R27). -/
theorem State.mailWake_eq (s : State) (k : Nat) :
    s.mailWake k = { s with pmc := { s.pmc with
      mail := decide (s.mbxReceiver k = some .hc ∧ s.pmc.pdHc = false) || s.pmc.mail } } := by
  unfold State.mailWake
  split
  · next wake => simp [wake]
  · next still => simp [still]

theorem State.mailWake_still (h : s.mbxReceiver k ≠ some .hc) : s.mailWake k = s := if_neg fun wake => h wake.1

/-- The interrupt of a receiver that is a controller within the device. -/
theorem State.rxIrq_sec (h : s.mbxReceiver k = some .sec) : s.rxIrq k = { s with irqs := s.irqs ++ [.internal .sec] } := by
  rw [State.rxIrq, h]
  rfl

/-! ### A pop (R302, R303) -/

/-- An answer changes no register and no channel. -/
theorem State.rget_reply (s : State) (v : Nat) (r : Reg) : (s.reply v).rget r = s.rget r := rfl

theorem State.fget_reply (s : State) (v : Nat) (r : Reg) (h l : Nat) : (s.reply v).fget r h l = s.fget r h l := rfl

theorem State.mbxEn_reply (s : State) (v k : Nat) : (s.reply v).mbxEn k = s.mbxEn k := rfl

theorem State.mbxReceiver_reply (s : State) (v k : Nat) : (s.reply v).mbxReceiver k = s.mbxReceiver k := rfl

theorem State.slots_reply (s : State) (v k : Nat) : (s.reply v).slots k = s.slots k := rfl

theorem State.pop_stranger (h : s.mbxEn k = false ∨ s.mbxReceiver k ≠ some ep) :
    s.pop ep k = (s.rinc (.mbxBadsrc k) 64 1).reply 0 := if_pos h

theorem State.pop_empty (en : s.mbxEn k = true) (receiver : s.mbxReceiver k = some ep) (empty : s.slots k = []) :
    s.pop ep k = (s.fset (.mbxStat k) 1 1 1).reply 0 := by
  rw [State.pop, if_neg (by simp [en, receiver]), empty]

/-- The oldest value is taken, without the interrupt of a channel that becomes empty. -/
theorem State.pop_oldest (en : s.mbxEn k = true) (receiver : s.mbxReceiver k = some ep) {v : W64} {l : List W64}
    (slots : s.slots k = v :: l) (silent : s.fget (.mbxCfg k) 61 61 = 0 ∨ l ≠ []) :
    s.pop ep k = (s.setSlots k l).reply v.toNat := by
  have quiet : (l.isEmpty && s.fget (.mbxCfg k) 61 61 == 1) = false := by
    obtain cfg | some_ := silent
    · simp [cfg]
    · simp [some_]
  rw [State.pop, if_neg (by simp [en, receiver]), slots]
  simp only [quiet, Bool.false_eq_true, if_false]

/-! ### The configuration of a channel (R301) -/

theorem State.mbxCfgWrite_enabled (en : s.mbxEn k = true) (v : Nat) :
    s.mbxCfgWrite k v = if bits v 63 63 = 1 then s else s.fset (.mbxCfg k) 63 63 0 := if_pos en

/-- The fields that a write of MBX_CFG takes while EN is 0. -/
def mbxFields (v : Nat) : Nat := bits v 62 61 * 2 ^ 61 + bits v 59 52 * 2 ^ 52 + bits v 42 32 * 2 ^ 32 + bits v 10 0

/-- Each part of a number that four parts make up. -/
theorem fields_of_parts {a b c d x : Nat} (ha : a < 4) (hb : b < 256) (hc : c < 2048) (hd : d < 2048)
    (hx : a * 2 ^ 61 + b * 2 ^ 52 + c * 2 ^ 32 + d = x) :
    x < 2 ^ 63 ∧ bits x 62 61 = a ∧ bits x 59 52 = b ∧ bits x 42 32 = c ∧ bits x 10 0 = d := by
  simp only [bits, Nat.shiftRight_eq_div_pow]
  refine ⟨?_, ?_, ?_, ?_, ?_⟩ <;> omega

/-- A field within a field. -/
theorem bits_bits {h l i : Nat} (hi : l + i ≤ h) (x j : Nat) : bits (bits x h l) i j = bits x (l + i) (l + j) := by
  refine Nat.eq_of_testBit_eq fun k => ?_
  simp only [testBit_bits]
  by_cases hk : k < i + 1 - j
  · rw [decide_eq_true hk, decide_eq_true (by omega : j + k < h + 1 - l),
      decide_eq_true (by omega : k < l + i + 1 - (l + j)), Nat.add_assoc]
    rfl
  · rw [decide_eq_false hk, decide_eq_false (by omega : ¬ k < l + i + 1 - (l + j)), Bool.false_and, Bool.false_and]

/-- The taken fields read as written, and EN as 0. -/
theorem bits_mbxFields (v : Nat) :
    mbxFields v < 2 ^ 64 ∧ bits (mbxFields v) 63 63 = 0 ∧ bits (mbxFields v) 62 61 = bits v 62 61 ∧
      bits (mbxFields v) 59 56 = bits v 59 56 ∧ bits (mbxFields v) 55 52 = bits v 55 52 ∧
      bits (mbxFields v) 42 32 = bits v 42 32 ∧ bits (mbxFields v) 10 0 = bits v 10 0 := by
  obtain ⟨lt, irqs, ends, rx, tx⟩ :=
    fields_of_parts (bits_lt v 62 61) (bits_lt v 59 52) (bits_lt v 42 32) (bits_lt v 10 0) (Eq.refl (mbxFields v))
  have en : bits (mbxFields v) 63 63 = 0 := by rw [bits, Nat.shiftRight_eq_div_pow, Nat.div_eq_of_lt lt, Nat.zero_mod]
  have within (i j : Nat) (hi : 52 + i ≤ 59) : bits (mbxFields v) (52 + i) (52 + j) = bits v (52 + i) (52 + j) := by
    rw [← bits_bits hi, ← bits_bits hi, ends]
  exact ⟨lt.trans (by decide), en, irqs, within 7 4 (by decide), within 3 0 (by decide), rx, tx⟩

/-- A channel whose fields are written, before EN is. -/
def State.mbxSet (s : State) (k v : Nat) : State := s.rset (.mbxCfg k) (mbxFields v)

theorem State.mbxCfgWrite_disabled (en : s.mbxEn k = false) {v : Nat} (set : bits v 63 63 = 1) :
    s.mbxCfgWrite k v = if (s.mbxSet k v).mbxMayEnable k then (s.mbxSet k v).fset (.mbxCfg k) 63 63 1
      else (s.mbxSet k v).fset (.mbxStat k) 4 4 1 := by
  simp only [State.mbxCfgWrite, en, set, Bool.false_eq_true, if_false, Nat.one_ne_zero]
  rfl

/-- A field of a channel whose fields are written. -/
theorem State.fget_mbxSet (s : State) (k v h l : Nat) : (s.mbxSet k v).fget (.mbxCfg k) h l = bits (mbxFields v) h l := by
  rw [State.fget, State.mbxSet, State.rget_rset_same, Nat.mod_eq_of_lt (bits_mbxFields v).1]

/-- A channel may be enabled with different endpoints, and a Studio channel without those of Gallery masters. -/
theorem State.mbxMayEnable_iff {a b : Endpoint} (ha : s.mbxSender k = some a) (hb : s.mbxReceiver k = some b) :
    s.mbxMayEnable k = true ↔ a ≠ b ∧ (16 ≤ k → a ≠ .host ∧ b ≠ .host) := by
  simp only [State.mbxMayEnable, ha, hb, mbxStudio]
  by_cases hk : 16 ≤ k <;> simp [hk]

/-- What a write of MBX_CFG that sets EN leaves of the fields it has written. -/
structure MbxWritten (s t : State) (k v : Nat) : Prop where
  sender : t.mbxSender k = epOf (bits v 59 56)
  receiver : t.mbxReceiver k = epOf (bits v 55 52)
  irqs : t.fget (.mbxCfg k) 62 61 = bits v 62 61
  rx : t.fget (.mbxCfg k) 42 32 = bits v 42 32
  tx : t.fget (.mbxCfg k) 10 0 = bits v 10 0
  only : s.onlyRegs t [.mbxCfg k, .mbxStat k]

theorem State.mbxSet_written (s : State) (k v : Nat) : MbxWritten s (s.mbxSet k v) k v := by
  obtain ⟨-, -, irqs, sender, receiver, rx, tx⟩ := bits_mbxFields v
  exact
    { sender := by rw [State.mbxSender, State.fget_mbxSet, sender]
      receiver := by rw [State.mbxReceiver, State.fget_mbxSet, receiver]
      irqs := by rw [State.fget_mbxSet, irqs]
      rx := by rw [State.fget_mbxSet, rx]
      tx := by rw [State.fget_mbxSet, tx]
      only := State.onlyRegs_rset (by simp) s _ }

/-- A further write to the channel's registers that keeps the fields below EN. -/
theorem MbxWritten.trans {t u : State} {v : Nat} (h : MbxWritten s t k v) (only : t.onlyRegs u [.mbxCfg k, .mbxStat k])
    (below : ∀ i j, i < 63 → u.fget (.mbxCfg k) i j = t.fget (.mbxCfg k) i j) : MbxWritten s u k v where
  sender := by rw [← h.sender, State.mbxSender, State.mbxSender, below _ _ (by decide)]
  receiver := by rw [← h.receiver, State.mbxReceiver, State.mbxReceiver, below _ _ (by decide)]
  irqs := by rw [below _ _ (by decide), h.irqs]
  rx := by rw [below _ _ (by decide), h.rx]
  tx := by rw [below _ _ (by decide), h.tx]
  only := State.onlyRegs_trans h.only only

/-- A write of MBX_CFG that sets EN: the fields are taken, and either EN or the flag of a refused enable is set. -/
theorem State.mbxCfgWrite_set (en : s.mbxEn k = false) {v : Nat} (set : bits v 63 63 = 1) :
    MbxWritten s (s.mbxCfgWrite k v) k v ∧
      if (s.mbxSet k v).mbxMayEnable k then
        (s.mbxCfgWrite k v).mbxEn k = true ∧ (s.mbxCfgWrite k v).rget (.mbxStat k) = s.rget (.mbxStat k)
      else (s.mbxCfgWrite k v).mbxEn k = false ∧ (s.mbxCfgWrite k v).fget (.mbxStat k) 4 4 = 1 := by
  have written := s.mbxSet_written k v
  have stat : (s.mbxSet k v).rget (.mbxStat k) = s.rget (.mbxStat k) := s.rget_rset_other (Reg.mbxStat_ne_mbxCfg k) _
  rw [State.mbxCfgWrite_disabled en set]
  by_cases may : (s.mbxSet k v).mbxMayEnable k = true
  · rw [if_pos may, if_pos may]
    refine ⟨written.trans (State.onlyRegs_fset (by simp) _ 63 63 1) fun i j hi =>
      State.fget_fset_apart _ _ (Nat.le_refl 63) (by omega) (.inr hi) _, ?_, ?_⟩
    · rw [State.mbxEn, State.fget_fset_flag _ _ (by decide)]
      rfl
    · rw [State.fset_eq, State.rget_rset_other _ (Reg.mbxStat_ne_mbxCfg k), stat]
  · rw [if_neg may, if_neg may]
    have cfg (i j : Nat) : ((s.mbxSet k v).fset (.mbxStat k) 4 4 1).fget (.mbxCfg k) i j =
        (s.mbxSet k v).fget (.mbxCfg k) i j := by
      rw [State.fget, State.fset_eq, State.rget_rset_other _ (Reg.mbxStat_ne_mbxCfg k).symm, State.fget]
    refine ⟨written.trans (State.onlyRegs_fset (by simp) _ 4 4 1) fun i j _ => cfg i j, ?_, ?_⟩
    · rw [State.mbxEn, cfg, State.fget_mbxSet, (bits_mbxFields v).2.1]
      rfl
    · exact State.fget_fset_flag _ _ (by decide)

end

/-! ### The commands on a channel -/

section
variable {s : State} {w : World} {ep : Endpoint} {k : Fin 24}

theorem execMbxPush_admitted (h : 16 ≤ k.val → w = .studio) (v : W64) :
    exec (.mbxPush w ep k v) s = .next (s.push ep k.val v) := congrArg Host.Outcome.next (State.mbxOp_admitted h ..)

theorem execMbxPop_admitted (h : 16 ≤ k.val → w = .studio) :
    exec (.mbxPop w ep k) s = .next ((s.reply 0).pop ep k.val) := congrArg Host.Outcome.next (State.mbxOp_admitted h ..)

theorem execMbxEnable_admitted (h : 16 ≤ k.val → w = .studio) (v : W64) :
    exec (.mbxEnable w k v) s = .next (s.mbxCfgWrite k.val v.toNat) :=
  congrArg Host.Outcome.next (State.mbxOp_admitted h ..)

end

/-- Settles O26: an access is refused, or the sender's push, the receiver's pop and the enable go by the cases of the
channel's state. -/
theorem mailboxes : Obligations.Mailboxes := by
  intro s w ep k
  refine ⟨fun h v => ?_, fun h v => ?_, fun h => ?_, fun h => ⟨fun v en sender awake room silent => ?_,
    fun v en sender sec empty irq => ?_, fun v en sender awake full => ?_, fun v en sender reset => ?_,
    fun v stranger => ?_, fun v l en receiver slots silent => ?_, fun en receiver empty => ?_, fun stranger => ?_,
    fun v a b en set ha hb => ?_, fun v en => ?_⟩⟩
  · exact ⟨_, congrArg Host.Outcome.next (State.mbxOp_refused h ..), State.onlyRegs_violation ..,
      State.rget_secViol_violation ..⟩
  · exact ⟨_, congrArg Host.Outcome.next (State.mbxOp_refused h ..), State.onlyRegs_violation ..,
      State.rget_secViol_violation ..⟩
  · obtain ⟨frame, others⟩ := State.onlyRegs_violation (s.reply 0) (Reg.mbxPopR k.val).addr false
    refine ⟨_, congrArg Host.Outcome.next (State.mbxOp_refused h ..), by rw [frame]; rfl, others,
      State.rget_secViol_violation .., ?_⟩
    rw [frame]; rfl
  · refine ⟨_, (execMbxPush_admitted h v).trans (congrArg _ (State.push_room en sender awake room silent v)), ?_⟩
    rw [State.mailWake_eq]
    exact ⟨rfl, rfl, s.slots_setSlots_same .., fun j hj => s.slots_setSlots_other hj _⟩
  · have awake : (s.mbxReceiver k.val).any s.epReset = false := by simp [sec, State.epReset]
    refine ⟨_, (execMbxPush_admitted h v).trans (congrArg _ (State.push_first en sender awake empty irq v)), ?_⟩
    have receiver : (s.setSlots k.val [v]).mbxReceiver k.val = some .sec := sec
    rw [State.mailWake_still (by simp [receiver]), State.rxIrq_sec receiver]
    exact ⟨rfl, s.slots_setSlots_same ..⟩
  · exact ⟨_, (execMbxPush_admitted h v).trans (congrArg _ (State.push_full en sender awake full v)),
      State.onlyRegs_fset (by simp) .., State.fget_fset_flag _ _ (by decide)⟩
  · refine ⟨_, (execMbxPush_admitted h v).trans (congrArg _ (State.push_lost en sender reset v)),
      State.onlyRegs_trans (State.onlyRegs_fset (by simp) s 3 3 1) (State.onlyRegs_rinc (by simp) _ 64 1), ?_, ?_⟩
    · rw [State.fget, State.rinc_eq, State.rget_rset_other _ (Reg.mbxStat_ne_mbxLost k.val)]
      exact State.fget_fset_flag _ _ (by decide)
    · rw [State.rget_rinc_same, State.fset_eq, State.rget_rset_other _ (Reg.mbxStat_ne_mbxLost k.val).symm]
  · exact ⟨_, (execMbxPush_admitted h v).trans (congrArg _ (State.push_stranger stranger v)),
      State.onlyRegs_rinc (by simp) .., State.rget_rinc_same ..⟩
  · have pop := State.pop_oldest (s := s.reply 0) (by rwa [State.mbxEn_reply]) (by rwa [State.mbxReceiver_reply])
      (by rwa [State.slots_reply]) (by rwa [State.fget_reply])
    refine ⟨_, (execMbxPop_admitted h).trans (congrArg _ pop), rfl, ?_, rfl, fun j hj => ?_⟩
    · rw [State.slots_reply, State.slots_setSlots_same]
    · rw [State.slots_reply, State.slots_setSlots_other _ hj, State.slots_reply]
  · have pop := State.pop_empty (s := s.reply 0) (by rwa [State.mbxEn_reply]) (by rwa [State.mbxReceiver_reply])
      (by rwa [State.slots_reply])
    refine ⟨_, (execMbxPop_admitted h).trans (congrArg _ pop), rfl, fun q hq => ?_, ?_, rfl⟩
    · rw [State.rget_reply, State.fset_eq, State.rget_rset_other _ (hq _ List.mem_cons_self), State.rget_reply]
    · rw [State.fget_reply, State.fget_fset_flag _ _ (by decide)]
  · have pop := State.pop_stranger (s := s.reply 0) (by rwa [State.mbxEn_reply, State.mbxReceiver_reply])
    refine ⟨_, (execMbxPop_admitted h).trans (congrArg _ pop), rfl, fun q hq => ?_, ?_, rfl⟩
    · rw [State.rget_reply, State.rinc_eq, State.rget_rset_other _ (hq _ List.mem_cons_self), State.rget_reply]
    · rw [State.rget_reply, State.rget_rinc_same, State.rget_reply]
  · obtain ⟨written, enabled⟩ := State.mbxCfgWrite_set en set
    have before := s.mbxSet_written k.val v.toNat
    have may := State.mbxMayEnable_iff (before.sender.trans ha) (before.receiver.trans hb)
    exact ⟨_, execMbxEnable_admitted h v, written.only, written.sender.trans ha, written.receiver.trans hb, written.irqs,
      written.rx, written.tx, by simpa only [may] using enabled⟩
  · refine ⟨_, (execMbxEnable_admitted h v).trans (congrArg _ (State.mbxCfgWrite_enabled en _)), ?_, fun on => if_pos on,
      fun off => ?_⟩
    · split
      · exact State.onlyRegs_refl ..
      · exact State.onlyRegs_fset (by simp) ..
    · rw [if_neg (by omega), State.mbxEn, State.fget_fset_same _ _ (Nat.le_refl 63) (by decide)]
      rfl

end Sys2Proof.Machine

/-! SUPPORT. Idle states of the engines (R384 to R387) and the power domains (R388). -/
namespace Sys2Proof.Machine

open Sys2Proof

-- one proof after the other: a thread for each would need too much memory
set_option Elab.async false


section
variable {s : State} {e : Nat}

/-! ### The selection of an idle state (R386) -/

/-- Known events that have passed change nothing once the idle time began after them. -/
theorem State.dropPassed_still (h : ∀ t ∈ s.soft e ++ s.hard e, t ≤ 8 * s.now → t ≤ (s.eng e).idleSince) :
    s.dropPassed e = s := by
  have old : ((s.soft e ++ s.hard e).filter fun t => decide (t ≤ 8 * s.now)).foldl max (s.idleSince e) ≤ s.idleSince e :=
    List.foldlRecOn (motive := fun m => m ≤ s.idleSince e) _ _ (Nat.le_refl _) fun m hm t ht => by
      obtain ⟨mem, passed⟩ := List.mem_filter.mp ht
      exact Nat.max_le.mpr ⟨hm, h t mem (of_decide_eq_true passed)⟩
  exact if_neg (Nat.not_lt.mpr old)

/-- The time for which an engine is known to idle: to the next known event, or without one so far. -/
def State.idleTime (s : State) (e : Nat) : Nat :=
  match s.tNext e with
  | some t => t - 8 * s.now
  | none => 8 * s.now - (s.eng e).idleSince

/-- Whether an idle state is permitted and pays within the idle time. -/
def State.idleFits (s : State) (e : Nat) (i : IdleSt) : Bool :=
  s.mayIdle e i && decide (8 * (s.exitNs e i + breakEven i) ≤ s.idleTime e)

/-- The deepest state that fits is selected for an engine that rests. -/
theorem State.selectIdle_eq (wanted : (s.eng e).wanted = false) (rests : (s.eng e).run = .idle) :
    s.selectIdle e = if s.idleFits e .sliceOff then .sliceOff else if s.idleFits e .retain then .retain
      else if s.idleFits e .gated then .gated else .active := by
  have select : s.selectIdle e = ([IdleSt.sliceOff, .retain, .gated].find? (s.idleFits e)).getD .active := by
    simp only [State.selectIdle, wanted, rests, Bool.false_eq_true, if_false, ne_eq, not_true_eq_false]
    rfl
  rw [select]
  cases off : s.idleFits e .sliceOff with
  | true => simp [off]
  | false =>
    cases retain : s.idleFits e .retain with
    | true => simp [off, retain]
    | false => cases gated : s.idleFits e .gated <;> simp [off, retain, gated]

theorem State.idleFits_gated :
    s.idleFits e .gated = true ↔ s.fget (.pmcNePerf e) 24 24 = 1 ∧ 8 * (20 + 200) ≤ s.idleTime e := by
  rw [State.idleFits, Bool.and_eq_true, decide_eq_true_eq]
  simp only [State.mayIdle, State.exitNs, breakEven, beq_iff_eq]

theorem State.idleFits_retain :
    s.idleFits e .retain = true ↔ s.fget (.pmcNePerf e) 25 25 = 1 ∧ 8 * (8000 + 60000) ≤ s.idleTime e := by
  rw [State.idleFits, Bool.and_eq_true, decide_eq_true_eq]
  simp only [State.mayIdle, State.exitNs, breakEven, beq_iff_eq]

theorem State.idleFits_sliceOff :
    s.idleFits e .sliceOff = true ↔ s.fget (.pmcNePerf e) 26 26 = 1 ∧ (s.eng e).busy = false ∧
      (∀ w, w < 16 → s.winState e w = 0) ∧
      8 * (120000 + 100000 * s.fget (.pmcNePerf e) 47 32 + 25000000) ≤ s.idleTime e := by
  rw [State.idleFits, Bool.and_eq_true, decide_eq_true_eq]
  simp [State.mayIdle, State.exitNs, breakEven, and_assoc]

/-- An engine that enters an idle state below GATED. -/
def Engine.deep (x : Engine) (i : IdleSt) : Engine :=
  { x with
    idle := i, vregs := [], acm := [], bias := [], pal := [], lastImg := none, tile := {}, lastCtx := none, fqs := [] }

theorem State.onlyEngine_setEng (s : State) (e : Nat) (x : Engine) : s.onlyEngine (s.setEng e x) e :=
  ⟨rfl, fun _ hf => s.eng_setEng_other hf x⟩

theorem State.enterIdle_gated (s : State) (e : Nat) :
    s.enterIdle e .gated = s.setEng e { s.eng e with idle := .gated } := rfl

theorem State.enterIdle_retain (s : State) (e : Nat) : s.enterIdle e .retain = s.setEng e ((s.eng e).deep .retain) := rfl

theorem State.enterIdle_sliceOff (s : State) (e : Nat) :
    s.enterIdle e .sliceOff = { s.setEng e ((s.eng e).deep .sliceOff) with
      images := s.images.map fun p => (p.1, { p.2 with engMask := setBits p.2.engMask e e 0 }) } := rfl

end

/-- A selection with no known event that has just passed. -/
theorem execIdleStateSelect_eq {s : State} {e : Fin 6}
    (h : ∀ t ∈ s.soft e.val ++ s.hard e.val, t ≤ 8 * s.now → t ≤ (s.eng e.val).idleSince) :
    exec (.idleStateSelect e) s = .next
      (if idleRank (s.eng e.val).idle < idleRank (s.selectIdle e.val) then s.enterIdle e.val (s.selectIdle e.val)
        else s) := by
  show execIdleStateSelect e s = _
  simp only [execIdleStateSelect, State.dropPassed_still h]

section
variable {s : State} {e : Fin 6} {i : IdleSt}
  (passed : ∀ t ∈ s.soft e.val ++ s.hard e.val, t ≤ 8 * s.now → t ≤ (s.eng e.val).idleSince)
  (select : s.selectIdle e.val = i)
include passed select

/-- A deeper state that is selected is entered. -/
theorem execIdleStateSelect_enters (deeper : idleRank (s.eng e.val).idle < idleRank i) :
    exec (.idleStateSelect e) s = .next (s.enterIdle e.val i) := by
  rw [execIdleStateSelect_eq passed, select, if_pos deeper]

theorem execIdleStateSelect_stays (deep : idleRank i ≤ idleRank (s.eng e.val).idle) :
    exec (.idleStateSelect e) s = .next s := by
  rw [execIdleStateSelect_eq passed, select, if_neg (Nat.not_lt.mpr deep)]

end

/-! ### The exit from an idle state (R387) -/

theorem mget_filter {α : Type} (d : Nat → α) (p : Nat → Bool) (m : SMap α) (k : Nat) :
    mget d (m.filter fun c => p c.1) k = if p k then mget d m k else d k := by
  induction m with
  | nil => simp [mget]
  | cons c m ih =>
    obtain ⟨j, v⟩ := c
    by_cases same : j = k
    · subst same
      cases hp : p j <;> simp [hp, mget, ih]
    · cases hp : p j <;> simp [hp, mget, same, ih]

/-- A region that is filled with zeros. -/
theorem State.byte_zeroFill (s : State) (a n x : Nat) :
    (s.zeroFill a n).byte x = if a ≤ x ∧ x < a + n then 0 else s.byte x := by
  simp only [State.byte, State.zeroFill]
  rw [mget_filter memDefault (fun j => !decide (a ≤ j ∧ j < a + n))]
  by_cases inside : a ≤ x ∧ x < a + n
  · simp [inside, memDefault]
  · simp only [if_neg inside, decide_eq_false inside, Bool.not_false, if_true]

/-- `t` is `s` but for what a memory region holds. -/
def State.refilled (s t : State) : Prop :=
  t = { s with mem := t.mem, ecc := t.ecc, gesso := t.gesso }

/-- The slice of an engine that was off reads as zero. -/
theorem State.zeroRegion_slice (s : State) {e : Nat} (he : e < 6) :
    s.refilled ((s.zeroRegion e).scrubReset e) ∧
      ∀ a, ((s.zeroRegion e).scrubReset e).byte a =
        if sliceBase e ≤ a ∧ a < sliceBase e + sliceSize then 0 else s.byte a := by
  have fill (t : State) : t = { s with gesso := t.gesso } →
      s.refilled ((t.zeroFill (sliceBase e) sliceSize).scrubReset e) :=
    fun ht => by rw [ht]; rfl
  rw [State.zeroRegion, if_neg (by omega), if_neg (by omega)]
  exact ⟨fill _ rfl, fun a => State.byte_zeroFill _ _ _ a⟩

/-- The region of PD_MEDIA reads as zero. -/
theorem State.zeroRegion_media (s : State) :
    s.refilled ((s.zeroRegion 7).scrubReset 7) ∧
      ∀ a, ((s.zeroRegion 7).scrubReset 7).byte a = if mediaBase ≤ a ∧ a < mediaBase + 0x4000000 then 0 else s.byte a := by
  rw [State.zeroRegion, if_neg (by omega), if_pos rfl]
  exact ⟨rfl, fun a => State.byte_zeroFill _ _ _ a⟩

/-- An engine that leaves its idle state for a command. -/
def State.exiting (s : State) (e : Nat) : Engine :=
  { s.eng e with
    idle := .exiting, exitTo := s.now + s.exitNs e (s.eng e).idle
    idleSince := if (s.eng e).idle = .gated then (s.eng e).idleSince else 8 * s.now }

/-- A command that waits ends the idle state at once; the engine's slice is filled where it was off. -/
theorem execIdleExit_wanted {s : State} {e : Fin 6} (wanted : (s.eng e.val).wanted = true)
    (idle : ¬ ((s.eng e.val).idle = .active ∨ (s.eng e.val).idle = .exiting)) :
    exec (.idleExit e) s = .next
      ((if (s.eng e.val).idle = .sliceOff then (s.zeroRegion e.val).scrubReset e.val else s).setEng e.val
        (s.exiting e.val)) := by
  show execIdleExit e s = _
  simp only [execIdleExit, idle, wanted, Bool.true_or, if_true, if_false]
  split
  · have same := (s.zeroRegion_slice e.isLt).1
    generalize (s.zeroRegion e.val).scrubReset e.val = t at same ⊢
    rw [same]
    rfl
  · rfl

/-! ### Power domains (R388) -/

/-- A map to which one value is put for every key of a list. -/
theorem mfind_foldl_minsert {α : Type} (v : α) (l : List Nat) (m : SMap α) (k : Nat) :
    mfind (l.foldl (fun m k => minsert k v m) m) k = if k ∈ l then some v else mfind m k := by
  induction l generalizing m with
  | nil => simp
  | cons j l ih =>
    rw [List.foldl_cons, ih]
    by_cases here : k = j
    · subst here
      simp [mfind_minsert_same]
    · simp only [mfind_minsert_other here, List.mem_cons, here, false_or]

/-- `t` has the engines, the memory and the power state of `s`. -/
structure MediaOnly (s t : State) : Prop where
  engines : t.engines = s.engines
  mem : t.mem = s.mem
  pmc : t.pmc = s.pmc

section
variable {r s t : State}

theorem MediaOnly.refl (s : State) : MediaOnly s s := ⟨rfl, rfl, rfl⟩

theorem MediaOnly.fset (h : MediaOnly r s) (q : Reg) (i j v : Nat) : MediaOnly r (s.fset q i j v) :=
  ⟨h.engines, h.mem, h.pmc⟩

theorem MediaOnly.setCodec (h : MediaOnly r s) (u : Nat) (x : Codec) : MediaOnly r (s.setCodec u x) :=
  ⟨h.engines, h.mem, h.pmc⟩

theorem MediaOnly.setSrcField (h : MediaOnly r s) (p i j v : Nat) : MediaOnly r (s.setSrcField p i j v) := by
  unfold State.setSrcField
  split
  · exact h.fset _ i j v
  · exact h

theorem MediaOnly.setSource (h : MediaOnly r s) (p : Nat) (x : Source) : MediaOnly r (s.setSource p x) :=
  ⟨h.engines, h.mem, h.pmc⟩

theorem MediaOnly.srcEnable (h : MediaOnly r s) (on : s.pmc.pdMedia = true) (p : Nat) : MediaOnly r (s.srcEnable p) := by
  rw [State.srcEnable, if_neg (by simp [on])]
  split
  · dsimp only
    split
    · exact ((h.setSrcField p 31 31 1).setSource p _).setSrcField p 30 30 1
    · exact (h.setSrcField p 31 31 1).setSource p _
  · exact h.setSrcField p 29 29 1

theorem MediaOnly.cdcEnable (h : MediaOnly r s) (on : s.pmc.pdMedia = true) (u k : Nat) :
    MediaOnly r (s.cdcEnable u k) := by
  rw [State.cdcEnable, if_neg (by simp [on])]
  exact (h.setCodec u _).fset _ 31 31 1

theorem MediaOnly.wakeSource (h : MediaOnly r s) (on : r.pmc.pdMedia = true) (p : Nat) : MediaOnly r (s.wakeSource p) := by
  have on : s.pmc.pdMedia = true := h.pmc ▸ on
  unfold State.wakeSource
  split
  · exact h.srcEnable on p
  · exact h.cdcEnable on _ _

theorem mediaOnly_wakeSources (on : s.pmc.pdMedia = true) (l : List Nat) : MediaOnly s (l.foldl State.wakeSource s) :=
  List.foldlRecOn (motive := MediaOnly s) _ _ (.refl s) fun _ ht p _ => ht.wakeSource on p

end

/-- PD_HC goes off once all cores have asked for it and wait, with nothing that calls them; HCL_STAT shows those that
wait. -/
theorem execPowerDomainOff_hc {s : State} (on : s.pmc.pdHc = true) (wfi : Byte) :
    exec (.powerDomainOff (.hc wfi)) s = .next
      (if s.fget .hclPdreq 7 0 = 255 ∧ wfi = 255 ∧ s.pmc.wake = [] ∧ s.pmc.mail = false then
        { s.fset .hclStat 7 0 wfi.toNat with pmc := { s.pmc with pdHc := false }, cores := [] }
      else s.fset .hclStat 7 0 wfi.toNat) := by
  have asked : (s.fset .hclStat 7 0 wfi.toNat).fget .hclPdreq 7 0 = s.fget .hclPdreq 7 0 := by
    rw [State.fget, State.fset_eq, State.rget_rset_other _ (by decide), State.fget]
  show execPowerDomainOff (.hc wfi) s = _
  simp only [execPowerDomainOff, on, asked, Bool.true_eq_false, if_false]
  rfl

theorem State.fget_fset_hclStat (s : State) (wfi : Byte) :
    (s.fset .hclStat 7 0 wfi.toNat).fget .hclStat 7 0 = wfi.toNat := by
  rw [State.fget_fset_same _ _ (by decide) (by decide)]
  exact Nat.mod_eq_of_lt wfi.isLt

theorem execPowerDomainOff_hc_off {s : State} (off : s.pmc.pdHc = false) (wfi : Byte) :
    exec (.powerDomainOff (.hc wfi)) s = .next s := by
  show execPowerDomainOff (.hc wfi) s = _
  simp only [execPowerDomainOff, off, if_true]

theorem execPowerDomainOff_media {s : State} (idle : s.mediaIdle = true) (permit : s.fget (.pmcNePerf 0) 27 27 = 1)
    (wake : s.pmc.mediaWake = []) :
    exec (.powerDomainOff .media) s = .next { s with
      pmc := { s.pmc with pdMedia := false }, sources := [], ipps := [], codecs := [] } := by
  show execPowerDomainOff .media s = _
  simp [execPowerDomainOff, idle, permit, wake]

/-- The application cores that start anew with PD_HC. -/
def State.coresUp (s : State) : List Nat := (List.range 8).filter fun k => s.fget .hclRst k k == 0

theorem State.mem_coresUp {s : State} {k : Nat} : k ∈ s.coresUp ↔ k < 8 ∧ s.fget .hclRst k k = 0 := by
  simp [State.coresUp]

/-- PD_HC as it comes back. -/
def State.hcUp (s : State) : State :=
  { (s.rset .hclPdreq 0).fset .hclStat 7 0 0 with
    pmc := { s.pmc with pdHc := true, wake := [], mail := false }, irqs := s.irqs ++ s.pmc.wake
    cores := s.coresUp.foldl (fun m k => minsert k {} m) [] }

theorem State.rget_hcUp (s : State) (r : Reg) : s.hcUp.rget r = ((s.rset .hclPdreq 0).fset .hclStat 7 0 0).rget r := by
  simp only [State.rget, State.hcUp]

theorem State.cores_hcUp (s : State) (k : Nat) :
    mfind s.hcUp.cores k = if k < 8 ∧ s.fget .hclRst k k = 0 then some {} else none := by
  rw [State.hcUp, mfind_foldl_minsert]
  simp only [State.mem_coresUp, mfind]

/-- PD_HC comes back for an interrupt or a message that waited. -/
theorem execPowerDomainOn_hc {s : State} (off : s.pmc.pdHc = false) (wake : s.pmc.wake ≠ [] ∨ s.pmc.mail = true)
    (wfi : Byte) : exec (.powerDomainOn (.hc wfi)) s = .next s.hcUp := by
  show execPowerDomainOn (.hc wfi) s = _
  simp only [execPowerDomainOn]
  exact congrArg _ (if_pos ⟨off, wake⟩)

/-- PD_MEDIA as it comes back, before the enables that waited complete. -/
def State.mediaUp (s : State) : State :=
  (({ s with pmc := { s.pmc with pdMedia := true, mediaWake := [] } } : State).zeroRegion 7).scrubReset 7

theorem State.byte_mediaUp (s : State) (a : Nat) :
    s.mediaUp.byte a = if mediaBase ≤ a ∧ a < mediaBase + 0x4000000 then 0 else s.byte a :=
  (State.zeroRegion_media { s with pmc := { s.pmc with pdMedia := true, mediaWake := [] } }).2 a

theorem State.mediaUp_parts (s : State) :
    s.mediaUp.engines = s.engines ∧ s.mediaUp.pmc = { s.pmc with pdMedia := true, mediaWake := [] } := by
  have refilled := (State.zeroRegion_media { s with pmc := { s.pmc with pdMedia := true, mediaWake := [] } }).1
  rw [State.mediaUp, refilled]
  exact ⟨rfl, rfl⟩

theorem execPowerDomainOn_media {s : State} (off : s.pmc.pdMedia = false) (wake : s.pmc.mediaWake ≠ []) :
    exec (.powerDomainOn .media) s = .next (s.pmc.mediaWake.foldl State.wakeSource s.mediaUp) := by
  show execPowerDomainOn .media s = _
  simp only [execPowerDomainOn]
  exact congrArg _ (if_pos ⟨off, wake⟩)

/-! ### The obligation -/

/-- The selection of an idle state by what fits. -/
theorem idleSelection {s : State} {e : Fin 6} {x : Engine} (hx : x = s.eng e.val) {idle : Nat} {gated retain off : Prop}
    (wanted : x.wanted = false) (rests : x.run = .idle) (settled : x.idle ≠ .exiting)
    (passed : ∀ t ∈ s.soft e.val ++ s.hard e.val, t ≤ 8 * s.now → t ≤ x.idleSince) (time : idle = s.idleTime e.val)
    (hoff : off ↔ s.fget (.pmcNePerf e.val) 26 26 = 1 ∧ x.busy = false ∧ (∀ w, w < 16 → s.winState e.val w = 0) ∧
      8 * (120000 + 100000 * s.fget (.pmcNePerf e.val) 47 32 + 25000000) ≤ idle)
    (hretain : retain ↔ s.fget (.pmcNePerf e.val) 25 25 = 1 ∧ 8 * (8000 + 60000) ≤ idle)
    (hgated : gated ↔ s.fget (.pmcNePerf e.val) 24 24 = 1 ∧ 8 * (20 + 200) ≤ idle) :
    (off → x.idle ≠ .sliceOff → exec (.idleStateSelect e) s = .next (s.enterIdle e.val .sliceOff)) ∧
    (¬ off → retain → x.idle = .active ∨ x.idle = .gated →
      exec (.idleStateSelect e) s = .next (s.enterIdle e.val .retain)) ∧
    (¬ off → ¬ retain → gated → x.idle = .active → exec (.idleStateSelect e) s = .next (s.enterIdle e.val .gated)) ∧
    (¬ off → ¬ retain → ¬ gated → exec (.idleStateSelect e) s = .next s) ∧
    (x.idle = .sliceOff → exec (.idleStateSelect e) s = .next s) := by
  subst hx time
  rw [← State.idleFits_sliceOff] at hoff
  rw [← State.idleFits_retain] at hretain
  rw [← State.idleFits_gated] at hgated
  have select := State.selectIdle_eq wanted rests
  refine ⟨fun o above => ?_, fun o r above => ?_, fun o r g above => ?_, fun o r g => ?_, fun bottom => ?_⟩
  · rw [if_pos (hoff.mp o)] at select
    refine execIdleStateSelect_enters passed select ?_
    cases h : (s.eng e.val).idle with
    | sliceOff => exact absurd h above
    | exiting => exact absurd h settled
    | _ => decide
  · rw [if_neg (hoff.not.mp o), if_pos (hretain.mp r)] at select
    exact execIdleStateSelect_enters passed select (by obtain h | h := above <;> rw [h] <;> decide)
  · rw [if_neg (hoff.not.mp o), if_neg (hretain.not.mp r), if_pos (hgated.mp g)] at select
    exact execIdleStateSelect_enters passed select (by rw [above]; decide)
  · rw [if_neg (hoff.not.mp o), if_neg (hretain.not.mp r), if_neg (hgated.not.mp g)] at select
    exact execIdleStateSelect_stays passed select (Nat.zero_le _)
  · have shallow : idleRank (s.selectIdle e.val) ≤ idleRank .sliceOff := by
      rw [select]
      split
      · decide
      · split
        · decide
        · split <;> decide
    exact execIdleStateSelect_stays passed rfl (bottom ▸ shallow)

/-- Settles O48: the selection goes by what fits the idle time, the exits by what an engine waits for; the domains go off
and come back under their conditions. -/
theorem idleAndDomains : Obligations.IdleAndDomains := by
  refine ⟨fun s e x hx => ⟨fun idle gated retain off wanted rests settled passed time hoff hretain hgated => ?_,
    fun state wanted => ?_, fun state wanted => ?_, fun state due => ?_⟩, fun s => ⟨fun on asked wake mail => ?_,
    fun wfi on other => ?_, fun wfi off => execPowerDomainOff_hc_off off wfi, execPowerDomainOff_media,
    fun wfi off wake => ?_, fun off wake => ?_⟩⟩
  · have time : idle = s.idleTime e.val := by
      subst hx
      exact time
    obtain ⟨toOff, toRetain, toGated, stays, bottom⟩ :=
      idleSelection hx wanted rests settled passed time hoff hretain hgated
    subst hx
    refine ⟨fun o above => ?_, fun o r above => ?_, fun o r g above => ?_, stays, bottom⟩
    · refine ⟨_, toOff o above, ?_⟩
      rw [State.enterIdle_sliceOff]
      exact ⟨rfl, (s.onlyEngine_setEng e.val _).2, rfl, s.eng_setEng_same e.val _⟩
    · refine ⟨_, toRetain o r above, ?_⟩
      rw [State.enterIdle_retain]
      exact ⟨s.onlyEngine_setEng e.val _, s.eng_setEng_same e.val _⟩
    · refine ⟨_, toGated o r g above, ?_⟩
      rw [State.enterIdle_gated]
      exact ⟨s.onlyEngine_setEng e.val _, s.eng_setEng_same e.val _⟩
  · subst hx
    have latency : s.exitNs e.val (s.eng e.val).idle = if (s.eng e.val).idle = .gated then 20 else 8000 := by
      obtain h | h := state <;> rw [h] <;> rfl
    have kept : ¬ (s.eng e.val).idle = .sliceOff := by obtain h | h := state <;> simp [h]
    refine ⟨_, execIdleExit_wanted wanted (by obtain h | h := state <;> simp [h]), ?_⟩
    rw [if_neg kept, ← latency]
    exact ⟨s.onlyEngine_setEng e.val _, s.eng_setEng_same e.val _⟩
  · subst hx
    obtain ⟨refilled, filled⟩ := s.zeroRegion_slice e.isLt
    refine ⟨_, execIdleExit_wanted wanted (by simp [state]), ?_⟩
    rw [if_pos state]
    generalize (s.zeroRegion e.val).scrubReset e.val = t at refilled filled ⊢
    refine ⟨by rw [State.eng_setEng_same]; rfl, fun f hf => ?_, ?_, filled⟩
    · rw [State.eng_setEng_other _ hf, refilled]; rfl
    · rw [refilled]; rfl
  · subst hx
    exact ⟨_, congrArg Host.Outcome.next (if_pos ⟨state, due⟩), s.onlyEngine_setEng e.val _, s.eng_setEng_same e.val _⟩
  · refine ⟨_, (execPowerDomainOff_hc on 255).trans (congrArg _ (if_pos ⟨asked, rfl, wake, mail⟩)), rfl,
      s.fget_fset_hclStat 255, fun q hq => s.rget_rset_other (hq _ List.mem_cons_self) _⟩
  · refine ⟨_, (execPowerDomainOff_hc on wfi).trans (congrArg _ (if_neg ?_)),
      State.onlyRegs_fset (by simp) .., s.fget_fset_hclStat wfi⟩
    rintro ⟨asked, all, wake, mail⟩
    obtain h | h | h | h := other
    · exact h asked
    · exact h all
    · exact h wake
    · rw [h] at mail; cases mail
  · refine ⟨_, execPowerDomainOn_hc off wake wfi, rfl, s.cores_hcUp, ?_, ?_, fun q hq => ?_⟩
    · rw [State.rget_hcUp, State.fset_eq, State.rget_rset_other _ (by decide), State.rget_rset_same]
      rfl
    · rw [State.fget, State.rget_hcUp]
      exact State.fget_fset_same _ .hclStat (by decide) (by decide) 0
    · rw [State.rget_hcUp, State.fset_eq, State.rget_rset_other _ (hq .hclStat (by simp)),
        State.rget_rset_other _ (hq .hclPdreq (by simp))]
  · obtain ⟨upEngines, upPmc⟩ := s.mediaUp_parts
    obtain ⟨engines, mem, pmc⟩ := mediaOnly_wakeSources (by rw [upPmc]) s.pmc.mediaWake
    refine ⟨_, execPowerDomainOn_media off wake, engines.trans upEngines, pmc.trans upPmc, fun a => ?_⟩
    rw [State.byte, mem]
    exact s.byte_mediaUp a

end Sys2Proof.Machine

/-! SUPPORT. Elements of results: masks of whole elements, lists of elements, and the results that a V-slot instruction owes. -/
namespace Sys2Proof.Machine

open Sys2Proof

-- one proof after the other: a thread for each would need too much memory
set_option Elab.async false

/-! ### Elements -/

theorem shiftRight_mod_eq_elemOf (w v k : Nat) : (v >>> (k * w)) % 2 ^ w = elemOf w v k := by
  rw [elemOf, Nat.shiftRight_eq_div_pow, Nat.mul_comm]

theorem getD_map_range {α : Type} {n i : Nat} (h : i < n) (f : Nat → α) (d : α) :
    ((List.range n).map f).getD i d = f i := by simp [h]

theorem getD_unpack {n i : Nat} (h : i < n) (w v : Nat) : (unpack w n v).getD i 0 = elemOf w v i := by
  rw [unpack, getD_map_range h, shiftRight_mod_eq_elemOf]

theorem elemOf_pack {w : Nat} (hw : 0 < w) (l : List Nat) (i : Nat) : elemOf w (pack w l) i = l.getD i 0 % 2 ^ w := by
  simpa using elemOf_pack_shift hw l 0 i

theorem elemOf_shiftLeft {a i : Nat} (h : a ≤ i) (w v : Nat) : elemOf w (v <<< (w * a)) i = elemOf w v (i - a) := by
  apply Nat.eq_of_testBit_eq
  intro k
  have low : w * a ≤ w * i := Nat.mul_le_mul_left w h
  have up : w * i + k - w * a = w * (i - a) + k := by rw [Nat.mul_sub]; omega
  have above : w * i + k ≥ w * a := Nat.le_add_right_of_le low
  rw [testBit_elemOf, testBit_elemOf, Nat.testBit_shiftLeft, up, decide_eq_true above, Bool.true_and]

theorem elemOf_maskAt (w a n i : Nat) :
    elemOf w (maskAt (w * a) (w * n)) i = if a ≤ i ∧ i < a + n then 2 ^ w - 1 else 0 := by
  apply Nat.eq_of_testBit_eq
  intro k
  rw [testBit_elemOf, maskAt, Nat.testBit_shiftLeft, Nat.testBit_two_pow_sub_one]
  by_cases hk : k < w
  · by_cases low : a ≤ i
    · have := Nat.mul_le_mul_left w low
      by_cases high : i < a + n
      · have := Nat.mul_le_mul_left w (Nat.succ_le_of_lt high)
        rw [Nat.mul_add, Nat.mul_succ] at this
        rw [if_pos ⟨low, high⟩, Nat.testBit_two_pow_sub_one]
        simp [hk]; omega
      · have := Nat.mul_le_mul_left w (Nat.not_lt.1 high)
        rw [Nat.mul_add] at this
        rw [if_neg (by omega)]
        simp; omega
    · have := Nat.mul_le_mul_left w (Nat.succ_le_of_lt (Nat.not_le.1 low))
      rw [Nat.mul_succ] at this
      rw [if_neg (by omega)]
      simp; omega
  · split <;> simp [hk]

/-- A blend of the elements `a` up to `a + n`. -/
theorem elemOf_blend_maskAt {w : Nat} (hw : 0 < w) (old a n v i : Nat) :
    elemOf w (blend old (maskAt (w * a) (w * n)) v) i = if a ≤ i ∧ i < a + n then elemOf w v i else elemOf w old i := by
  have ones : 2 ^ w - 1 ≠ 0 := by
    have := Nat.one_lt_two_pow hw.ne'
    omega
  rw [elemOf_blend (by rw [elemOf_maskAt]; split <;> simp), elemOf_maskAt]
  by_cases inside : a ≤ i ∧ i < a + n <;> simp [inside, ones]

/-- A blend of the elements from `base` up whose flag is set. -/
theorem elemOf_blend_flags {w : Nat} (hw : 0 < w) (old base : Nat) (flags : List Bool) (l : List Nat) (i : Nat) :
    elemOf w (blend old (pack w (flags.map fun b => if b then 2 ^ w - 1 else 0) <<< (w * base)) (pack w l <<< (w * base))) i =
      if base ≤ i ∧ flags.getD (i - base) false = true then l.getD (i - base) 0 % 2 ^ w else elemOf w old i := by
  have ones : 2 ^ w - 1 ≠ 0 ∧ (2 ^ w - 1) % 2 ^ w = 2 ^ w - 1 := by
    have := Nat.one_lt_two_pow hw.ne'
    exact ⟨by omega, Nat.mod_eq_of_lt (by omega)⟩
  have flag : elemOf w (pack w (flags.map fun b => if b then 2 ^ w - 1 else 0) <<< (w * base)) i =
      if base ≤ i ∧ flags.getD (i - base) false = true then 2 ^ w - 1 else 0 := by
    rw [elemOf_pack_shift hw]
    by_cases low : base ≤ i
    · cases h : flags[i - base]? with
      | none => simp [low, h]
      | some b => cases b <;> simp [low, h, ones.2]
    · simp [low]
  rw [elemOf_blend (by rw [flag]; split <;> simp), flag]
  by_cases taken : base ≤ i ∧ flags.getD (i - base) false = true
  · rw [if_pos taken, if_neg ones.1, if_pos taken, elemOf_pack_shift hw, if_pos taken.1]
  · rw [if_neg taken, if_pos rfl, if_neg taken]

/-- The result that `putV` owes. -/
def Engine.resultV (x : Engine) (lat vd pr w base : Nat) (zm : Bool) (l : List Nat) : PendRes :=
  x.result lat (.vreg vd) (vmask pr w base zm l) (vval pr w base l)

/-- A predicated vector result whose elements are the values of `f`. -/
theorem lanes_resultV {w : Nat} (hw : 0 < w) {x : Engine} {lat vd pr base n : Nat} {zm : Bool} {f : Nat → Nat} :
    lanes (x.resultV lat vd pr w base zm ((List.range n).map f)) w pr base n zm f := by
  intro old i
  have length : ((List.range n).map f).length = n := by simp
  rw [lanes_of hw rfl rfl old i, length]
  split
  · next inside => exact (getD_map_range (f := f) (i := i - base) (n := n) (by omega) 0) ▸ rfl
  · rfl

theorem take_drop_map_range {α : Type} {a b n : Nat} (h : a + b ≤ n) (f : Nat → α) :
    (((List.range n).map f).drop a).take b = (List.range b).map fun i => f (a + i) := by
  apply List.ext_getElem
  · simp; omega
  · simp

/-! ### Results owed -/

theorem wfOr_wf {ok : Bool} (h : ok = true) (s : State) : wfOr ok s = .next s := if_pos h

theorem Engine.resultFor_result (x : Engine) (lat : Nat) (d : Dest) (m v : Nat) : resultFor x lat d (x.result lat d m v) :=
  ⟨rfl, rfl, rfl, rfl, rfl⟩

theorem Engine.put_vreg (x : Engine) (lat r m v : Nat) :
    x.put lat (.vreg r) m v = { x with pend := x.pend ++ [x.result lat (.vreg r) m v] } := x.put_eq lat _ m v

/-- Two results of one slot. -/
theorem Engine.put_put_vreg (x : Engine) (lat r m v q n u : Nat) :
    (x.put lat (.vreg r) m v).put lat (.vreg q) n u =
      { x with pend := x.pend ++ [x.result lat (.vreg r) m v, x.result lat (.vreg q) n u] } := by
  rw [Engine.put_vreg, Engine.put_vreg, List.append_assoc]
  rfl

/-- A slot that issues with its checks passed, and whose effect is that its engine owes `l`. -/
theorem owes_issue {h : Issue} {s : State} {sl : Slot} {rd : List Dest} {chk : State → Option AccErr} {f : Engine → Engine}
    {l : List PendRes} (ready : issues h s) (pass : chk (started h s) = none)
    (effect : f (issuer h s) = { issuer h s with pend := (issuer h s).pend ++ l }) :
    owes h s (issue h sl rd chk (fun s => s.modEng h.ne.val f) s) l := by
  rw [issue_ready ready pass, owes, ← effect]
  exact turns_modEng h s rd f

end Sys2Proof.Machine

/-! SUPPORT. Conversions, palette-quantise, reductions, VEXT and WGCFG (R52, R135, R136, R138, R139). -/
namespace Sys2Proof.Machine

open Sys2Proof

-- one proof after the other: a thread for each would need too much memory
set_option Elab.async false

section
variable {h : Issue} {s : State}

/-! ### VCVT (R135) -/

theorem etBits_pos (t : EType) : 0 < etBits t := by
  cases t with
  | int32 => decide
  | fmt f => cases f <;> decide

/-- No element is narrower than MXFP4's. -/
theorem four_le_etBits (t : EType) : 4 ≤ etBits t := by
  cases t with
  | int32 => decide
  | fmt f => cases f <;> decide

theorem execVcvt_owes {target : EType} {g : Fin 32} {c : VCommon} (ready : issues h s) (wf : vcvtOk target g.val c = true)
    (dst : target ≠ .fmt .mxfp4) (src : c.et ≠ .fmt .mxfp4) (va : (issuer h s).readyV c.va.val)
    (pr : (issuer h s).readyP c.pr.val) (order : (issuer h s).inOrder 4 (.vreg c.vd.val) allV) :
    ∃ t p, exec (.vcvt h target g c) s = .next t ∧ owes h s t [p] ∧ resultFor (issuer h s) 4 (.vreg c.vd.val) p ∧
      lanes p (etBits target) ((issuer h s).preg c.pr.val) (vcvtShape c.et target g.val).2.2 (vcvtShape c.et target g.val).1
        c.zm fun i => convElem c.et target c.ovf
          (elemOf (etBits c.et) ((issuer h s).vreg c.va.val) ((vcvtShape c.et target g.val).2.1 + i)) := by
  have pass : worst [(issuer h s).needV c.va.val, if c.et = .fmt .mxfp4 then (issuer h s).needV (c.va.val + 1) else none,
      (issuer h s).needP c.pr.val, (issuer h s).order 4 (.vreg c.vd.val) allV,
      if (target == .fmt .mxfp4) = true then (issuer h s).order 4 (.vreg (c.vd.val + 1)) allV else none] = none := by
    simp [worst, Engine.needV_none.2 va, Engine.needP_none.2 pr, Engine.order_none order, src, dst]
  refine ⟨_, _, wfOr_wf wf _, owes_issue ready pass ?_, Engine.resultFor_result .., lanes_resultV (etBits_pos target)⟩
  simp only [beq_eq_false_iff_ne.2 dst, Bool.false_eq_true, if_false, if_neg src, shiftRight_mod_eq_elemOf]
  exact Engine.put_vreg ..

theorem execVcvt_mxfp4_owes {g : Fin 32} {c : VCommon} (ready : issues h s) (wf : vcvtOk (.fmt .mxfp4) g.val c = true)
    (va : (issuer h s).readyV c.va.val) (pr : (issuer h s).readyP c.pr.val)
    (order : (issuer h s).inOrder 4 (.vreg c.vd.val) allV) (orderScale : (issuer h s).inOrder 4 (.vreg (c.vd.val + 1)) allV)
    {b : List Nat × List Nat} {tb : Nat} (hb : b = mxBlocks ((issuer h s).cvtVals c.et c.va.val 0 (32768 / etBits c.et)))
    (htb : tb = if 4 < etBits c.et then g.val * (32768 / etBits c.et) else 0) :
    ∃ t p q, exec (.vcvt h (.fmt .mxfp4) g c) s = .next t ∧ owes h s t [p, q] ∧
      resultFor (issuer h s) 4 (.vreg c.vd.val) p ∧ resultFor (issuer h s) 4 (.vreg (c.vd.val + 1)) q ∧
      lanes p 4 ((issuer h s).preg c.pr.val) tb b.2.length c.zm (fun i => b.2.getD i 0) ∧
      lanes q 8 ((issuer h s).preg c.pr.val) (tb / 32) b.1.length c.zm (fun i => b.1.getD i 0) := by
  have src : c.et ≠ .fmt .mxfp4 := by
    intro same
    simp [vcvtOk, same] at wf
  have shape : vcvtShape c.et (.fmt .mxfp4) g.val = (32768 / etBits c.et, 0, tb) := by
    have wide : 4 ≤ etBits c.et := four_le_etBits c.et
    have four : etBits (.fmt .mxfp4) = 4 := rfl
    rw [htb, vcvtShape, four, Nat.max_eq_left wide, if_neg (Nat.not_lt.2 wide)]
  have pass : worst [(issuer h s).needV c.va.val, if c.et = .fmt .mxfp4 then (issuer h s).needV (c.va.val + 1) else none,
      (issuer h s).needP c.pr.val, (issuer h s).order 4 (.vreg c.vd.val) allV,
      (issuer h s).order 4 (.vreg (c.vd.val + 1)) allV] = none := by
    simp [worst, Engine.needV_none.2 va, Engine.needP_none.2 pr, Engine.order_none order, Engine.order_none orderScale, src]
  refine ⟨_, (issuer h s).resultV 4 c.vd.val ((issuer h s).preg c.pr.val) 4 tb c.zm b.2,
    (issuer h s).resultV 4 (c.vd.val + 1) ((issuer h s).preg c.pr.val) 8 (tb / 32) c.zm b.1,
    wfOr_wf wf _, owes_issue ready pass ?_, Engine.resultFor_result .., Engine.resultFor_result ..,
    lanes_of (by decide) rfl rfl, lanes_of (by decide) rfl rfl⟩
  rw [hb]
  simp only [shape, beq_self_eq_true, if_true]
  exact Engine.put_put_vreg ..

/-! ### PQ (R52, R138) -/

theorem execPq_owes {vd va gp : Fin 32} {pr : Fin 16} {slot : Fin 64} {sub : BitVec 4} {cb8 : Bool} {cntm1 : BitVec 8}
    (ready : issues h s) (wf : Instr.wf (.pq h vd va gp pr slot sub cb8 cntm1) = true) (hva : (issuer h s).readyV va.val)
    (hpr : (issuer h s).readyP pr.val) (order : (issuer h s).inOrder 6 (.vreg vd.val) allV) :
    ∃ t p, exec (.pq h vd va gp pr slot sub cb8 cntm1) s = .next t ∧ owes h s t [p] ∧
      resultFor (issuer h s) 6 (.vreg vd.val) p ∧
      ∀ old i, elemOf (if cb8 then 8 else 4) (blend old p.mask p.val) i =
        if 1024 * gp.val ≤ i ∧ i < 1024 * gp.val + 1024 ∧
            enabled ((issuer h s).preg pr.val) 32 (i - 1024 * gp.val) = true then
          pqCode ((issuer h s).palView slot.val).tag
            (palEntries ((issuer h s).palView slot.val) sub.toNat (cntm1.toNat + 1) cb8)
            (elemOf 32 ((issuer h s).vreg va.val) (i - 1024 * gp.val)) % 2 ^ (if cb8 then 8 else 4)
        else elemOf (if cb8 then 8 else 4) old i := by
  have pass : vecChk h.ne.val 6 [va] pr vd.val (started h s) = none := by
    show worst [(issuer h s).needV va.val, (issuer h s).needP pr.val, (issuer h s).order 6 (.vreg vd.val) allV] = none
    simp [worst, Engine.needV_none.2 hva, Engine.needP_none.2 hpr, Engine.order_none order]
  refine ⟨_, _, wfOr_wf wf _, owes_issue ready pass (Engine.put_vreg ..), Engine.resultFor_result .., fun old i => ?_⟩
  generalize hw : (if cb8 then 8 else 4) = w
  have pos : 0 < w := by rw [← hw]; split <;> decide
  have shift : 1024 * w * gp.val = w * (1024 * gp.val) := by ring
  simp only [Engine.result, shift]
  rw [elemOf_blend_flags pos]
  by_cases inside : i - 1024 * gp.val < 1024
  · have codes : (((issuer h s).elems 32 va.val).map
        (pqCode ((issuer h s).palView slot.val).tag
          (palEntries ((issuer h s).palView slot.val) sub.toNat (cntm1.toNat + 1) cb8))).zip
          ((List.range 1024).map (enabled ((issuer h s).preg pr.val) 32)) =
        (List.range 1024).map fun k => (pqCode ((issuer h s).palView slot.val).tag
          (palEntries ((issuer h s).palView slot.val) sub.toNat (cntm1.toNat + 1) cb8)
          (elemOf 32 ((issuer h s).vreg va.val) k), enabled ((issuer h s).preg pr.val) 32 k) := by
      rw [Engine.elems, unpack, List.map_map, show perReg 32 = 1024 from rfl, List.zip_map']
      simp only [Function.comp_def, shiftRight_mod_eq_elemOf]
    rw [codes, List.map_map, getD_map_range inside, getD_map_range inside]
    by_cases taken : 1024 * gp.val ≤ i ∧ enabled ((issuer h s).preg pr.val) 32 (i - 1024 * gp.val) = true
    · rw [if_pos taken, if_pos ⟨taken.1, by omega, taken.2⟩]
      simp [taken.2]
    · rw [if_neg taken, if_neg fun all => taken ⟨all.1, all.2.2⟩]
  · rw [if_neg, if_neg (by omega)]
    simp [Nat.not_lt.1 inside]

/-! ### VRED (R136) -/

theorem segSize_facts : ∀ segs : Fin 4, 1024 / segSize segs.val = 4 ^ segs.val ∧ 4 ^ segs.val * segSize segs.val = 1024 := by
  decide

/-- The lanes of segment `j`, with their enable bits. -/
def Engine.segment (x : Engine) (va pr segs j : Nat) : List (Nat × Bool) :=
  (List.range (1024 / 4 ^ segs)).map fun i =>
    (elemOf 32 (x.vreg va) (j * (1024 / 4 ^ segs) + i), enabled (x.preg pr) 32 (j * (1024 / 4 ^ segs) + i))

theorem Engine.segments_eq (x : Engine) (va pr : Nat) (segs : Fin 4) (reduce : List (Nat × Bool) → Nat × Nat) :
    ((List.range (4 ^ segs.val)).map fun j => reduce
      ((((x.elems 32 va).zip ((List.range 1024).map (enabled (x.preg pr) 32))).drop (j * segSize segs.val)).take
        (segSize segs.val))) =
      (List.range (4 ^ segs.val)).map fun j => reduce (x.segment va pr segs.val j) := by
  obtain ⟨-, whole⟩ := segSize_facts segs
  refine List.map_congr_left fun j hj => congrArg reduce ?_
  have fits : j * segSize segs.val + segSize segs.val ≤ 1024 := by
    have := Nat.mul_le_mul_right (segSize segs.val) (Nat.succ_le_of_lt (List.mem_range.1 hj))
    rw [Nat.succ_mul, whole] at this
    exact this
  rw [Engine.elems, unpack, show perReg 32 = 1024 from rfl, List.zip_map', take_drop_map_range fits]
  simp only [shiftRight_mod_eq_elemOf]
  rfl

/-- The elements that the results of the segments leave. -/
theorem elemOf_reduced (old segs : Nat) (f : Nat → Nat) (j : Nat) :
    elemOf 32 (blend old (maskAt 0 (32 * 4 ^ segs)) (pack 32 ((List.range (4 ^ segs)).map f))) j =
      if j < 4 ^ segs then f j % 2 ^ 32 else elemOf 32 old j := by
  have := elemOf_blend_maskAt (w := 32) (by decide) old 0 (4 ^ segs) (pack 32 ((List.range (4 ^ segs)).map f)) j
  rw [Nat.mul_zero, elemOf_pack (by decide)] at this
  rw [this]
  by_cases inside : j < 4 ^ segs
  · rw [if_pos (by omega), if_pos inside, getD_map_range inside]
  · rw [if_neg (by omega), if_neg inside]

section
variable {op : RedOp} {segs : Fin 4} {c : VCommon} (ready : issues h s) (wide : c.et.wide = true)
  (va : (issuer h s).readyV c.va.val) (pr : (issuer h s).readyP c.pr.val)
  (order : (issuer h s).inOrder 10 (.vreg c.vd.val) (maskAt 0 (32 * 4 ^ segs.val))) {res : Nat → Nat × Nat}
  (hres : ∀ j, res j = reduceSeg op (c.et == .fmt .fp32) c.ovf ((issuer h s).segment c.va.val c.pr.val segs.val j))
include ready wide va pr order hres

omit ready wide hres in
theorem vred_passes (value : (op == .argmax || op == .argmin) = true →
    (issuer h s).inOrder 10 (.vreg c.vc.val) (maskAt 0 (32 * 4 ^ segs.val))) :
    worst [(issuer h s).needV c.va.val, (issuer h s).needP c.pr.val,
      (issuer h s).order 10 (.vreg c.vd.val) (maskAt 0 (32 * (1024 / segSize segs.val))),
      if (op == .argmax || op == .argmin) = true then
        (issuer h s).order 10 (.vreg c.vc.val) (maskAt 0 (32 * (1024 / segSize segs.val))) else none] = none := by
  simp only [(segSize_facts segs).1, Engine.needV_none.2 va, Engine.needP_none.2 pr, Engine.order_none order, worst]
  split
  · next arg => simp only [Engine.order_none (value arg), worst]
  · rfl

theorem execVred_owes (value : op ≠ .argmax ∧ op ≠ .argmin) :
    ∃ t p, exec (.vred h op segs c) s = .next t ∧ owes h s t [p] ∧ resultFor (issuer h s) 10 (.vreg c.vd.val) p ∧
      ∀ old j, elemOf 32 (blend old p.mask p.val) j =
        if j < 4 ^ segs.val then (res j).2 % 2 ^ 32 else elemOf 32 old j := by
  have arg : (op == .argmax || op == .argmin) = false := by simp [value.1, value.2]
  have pass := vred_passes (op := op) va pr order fun index => absurd index (by simp [arg])
  refine ⟨_, (issuer h s).result 10 (.vreg c.vd.val) (maskAt 0 (32 * 4 ^ segs.val))
      (pack 32 ((List.range (4 ^ segs.val)).map fun j => (res j).2)), wfOr_wf wide _, owes_issue ready pass ?_,
    Engine.resultFor_result .., fun old j => elemOf_reduced old segs.val _ j⟩
  simp only [arg, Bool.false_eq_true, if_false, Engine.segments_eq, (segSize_facts segs).1, List.map_map, hres]
  exact Engine.put_vreg ..

theorem execVred_arg_owes (index : op = .argmax ∨ op = .argmin)
    (orderValue : (issuer h s).inOrder 10 (.vreg c.vc.val) (maskAt 0 (32 * 4 ^ segs.val))) :
    ∃ t p q, exec (.vred h op segs c) s = .next t ∧ owes h s t [p, q] ∧
      resultFor (issuer h s) 10 (.vreg c.vd.val) p ∧ resultFor (issuer h s) 10 (.vreg c.vc.val) q ∧
      (∀ old j, elemOf 32 (blend old p.mask p.val) j =
        if j < 4 ^ segs.val then (res j).1 % 2 ^ 32 else elemOf 32 old j) ∧
      ∀ old j, elemOf 32 (blend old q.mask q.val) j =
        if j < 4 ^ segs.val then (res j).2 % 2 ^ 32 else elemOf 32 old j := by
  have arg : (op == .argmax || op == .argmin) = true := by simpa using index
  have pass := vred_passes (op := op) va pr order fun _ => orderValue
  refine ⟨_, (issuer h s).result 10 (.vreg c.vd.val) (maskAt 0 (32 * 4 ^ segs.val))
      (pack 32 ((List.range (4 ^ segs.val)).map fun j => (res j).1)),
    (issuer h s).result 10 (.vreg c.vc.val) (maskAt 0 (32 * 4 ^ segs.val))
      (pack 32 ((List.range (4 ^ segs.val)).map fun j => (res j).2)), wfOr_wf wide _, owes_issue ready pass ?_,
    Engine.resultFor_result .., Engine.resultFor_result .., fun old j => elemOf_reduced old segs.val _ j,
    fun old j => elemOf_reduced old segs.val _ j⟩
  simp only [arg, if_true, Engine.segments_eq, (segSize_facts segs).1, List.map_map, hres]
  exact Engine.put_put_vreg ..

end

/-! ### VEXT and WGCFG (R139, Table 5.7) -/

theorem toNat_signExtend_ofNat (v : Nat) : ((BitVec.ofNat 32 v).signExtend 64).toNat = lowBits 64 (sx 32 v) := by
  have value : (BitVec.ofNat 32 v).toInt = sx 32 v := by
    rw [BitVec.toInt_eq_toNat_cond, BitVec.toNat_ofNat, sx]
    split <;> split <;> omega
  rw [BitVec.signExtend, value, BitVec.toNat_ofInt, lowBits]
  rfl

theorem execVext_owes {sd : Fin 64} {va : Fin 32} {et : EType} {lane : BitVec 10} (ready : issues h s) (wf : et.arith = true)
    (hva : (issuer h s).readyV va.val) (order : (issuer h s).inOrder 3 (.sreg sd.val) allS) :
    ∃ t, exec (.vext h sd va et lane) s = .next t ∧ owes h s t (if sd = 0 then [] else
      [(issuer h s).result 3 (.sreg sd.val) allS (if et = .int32 then
        ((BitVec.ofNat 32 (elemOf 32 ((issuer h s).vreg va.val) lane.toNat)).signExtend 64).toNat
        else elemOf 32 ((issuer h s).vreg va.val) lane.toNat)]) := by
  have pass : worst [(issuer h s).needV va.val, (issuer h s).order 3 (.sreg sd.val) allS] = none := by
    simp only [worst, Engine.needV_none.2 hva, Engine.order_none order]
  have zero : (Dest.sreg sd.val).null = true ↔ sd = 0 := beq_iff_eq.trans Fin.val_eq_zero_iff
  refine ⟨_, wfOr_wf wf _, owes_issue ready pass ?_⟩
  rw [Engine.put_eq, Nat.mul_comm 32, shiftRight_mod_eq_elemOf, toNat_signExtend_ofNat]
  simp only [zero]

theorem execWgcfg_owes {set : Fin 4} {field : BitVec 6} {sa : Fin 64} (ready : issues h s) (wf : field.toNat ≤ 0x25)
    (hsa : (issuer h s).readyS sa.val) :
    ∃ t, exec (.wgcfg h set field sa) s = .next t ∧
      owes h s t [(issuer h s).result 1 (.win set.val field.toNat) (2 ^ 32 - 1) ((issuer h s).sreg sa.val % 2 ^ 32)] := by
  have pass : worst [(issuer h s).needS sa.val] = none := by simp [worst, Engine.needS_none.2 hsa]
  exact ⟨_, wfOr_wf (decide_eq_true wf) _, owes_issue ready pass (Engine.put_eq ..)⟩

end

/-! ### The obligation -/

/-- Settles O8: each form issues with its checks passed, and its elements are those of the lists it packs. -/
theorem convertAndReduce : Obligations.ConvertAndReduce := by
  refine ⟨fun h s pr ready hpr => ⟨?_, ?_, ?_⟩, fun h s ready => ⟨?_, ?_, ?_, ?_⟩⟩
  · rintro target g c n sb tb rfl wf dst src rfl rfl rfl va order
    exact execVcvt_owes ready wf dst src va hpr order
  · rintro g c n sb tb b rfl wf rfl rfl htb hb va order orderScale
    exact execVcvt_mxfp4_owes ready wf va hpr order orderScale hb htb
  · rintro vd va gp slot sub cb8 cntm1 w fits rfl hva order
    have wf : Instr.wf (.pq h vd va gp pr slot sub cb8 cntm1) = true := by
      cases cb8
      · exact decide_eq_true fits
      · exact decide_eq_true fits
    exact execPq_owes ready wf hva hpr order
  · rintro op segs c m res wide max min rfl hres va hpr order
    exact execVred_owes ready wide va hpr order hres ⟨max, min⟩
  · rintro op segs c m res wide index rfl hres va hpr order orderValue
    exact execVred_arg_owes ready wide va hpr order hres index orderValue
  · intro sd va et lane wf hva order
    exact execVext_owes ready wf hva order
  · intro set field sa wf hsa
    exact execWgcfg_owes ready wf hsa

end Sys2Proof.Machine

/-! SUPPORT. The drain of an ACM row, raw and through a layer block (R55 to R61, R81, R105, R137, R167, R169). -/
namespace Sys2Proof.Machine

open Sys2Proof

-- one proof after the other: a thread for each would need too much memory
set_option Elab.async false

/-! ### One engine replaced, and the slice's own port -/

theorem minsert_minsert {α : Type} (k : Nat) (u v : α) (m : SMap α) : minsert k v (minsert k u m) = minsert k v m := by
  induction m with
  | nil => simp [minsert]
  | cons p t ih =>
    obtain ⟨a, b⟩ := p
    by_cases before : k < a
    · simp [minsert, before]
    · by_cases same : a = k
      · simp [minsert, same]
      · simp [minsert, before, same, ih]

theorem State.setEng_setEng (s : State) (e : Nat) (x y : Engine) : (s.setEng e x).setEng e y = s.setEng e y := by
  simp only [State.setEng, minsert_minsert]

theorem State.modEng_setEng (s : State) (e : Nat) (x : Engine) (f : Engine → Engine) :
    (s.setEng e x).modEng e f = s.setEng e (f x) := by
  rw [State.modEng, State.eng_setEng_same, State.setEng_setEng]

theorem inDdr_slice {a : Nat} (h : a < 0x54000000) : inDdr a = false := by simp [inDdr, regionOf, h]

theorem State.ownRead_clean {s : State} {a n : Nat} (clean : s.eccClean = true)
    (admits : s.regionAdmits .gallery false a n = true) (slice : a < 0x54000000) : s.ownRead a n = (.ok (s.bytes a n), s) := by
  simp [State.ownRead, admits, State.pread_clean clean (inDdr_slice slice)]

theorem Engine.storeHazard_none {x : Engine} {a n : Nat} (h : x.noStore a n) (det : Nat) : x.storeHazard a n det = none := by
  refine if_neg ?_
  simp only [List.any_eq_true, decide_eq_true_eq, not_exists, not_and]
  intro p hp low
  have := h p hp
  omega

/-- A slot that issues with its checks passed, and whose effect replaces its engine by `y`. -/
theorem turns_issue {h : Issue} {s : State} {sl : Slot} {rd : List Dest} {chk : State → Option AccErr} {eff : State → State}
    {y : Engine} (ready : issues h s) (pass : chk (started h s) = none)
    (effect : eff (started h s) = (started h s).setEng h.ne.val y) : turns h s (issue h sl rd chk eff s) y := by
  rw [issue_ready ready pass, effect]
  exact turns_modEng h s rd fun _ => y

/-! ### Results of a drain -/

theorem maskAt_and_ones {pos len n : Nat} (h : pos + len ≤ n) : maskAt pos len &&& (2 ^ n - 1) = maskAt pos len := by
  refine Nat.and_two_pow_sub_one_of_lt_two_pow (Nat.lt_of_lt_of_le ?_ (Nat.pow_le_pow_right Nat.two_pos h))
  rw [maskAt, Nat.shiftLeft_eq, Nat.add_comm pos, Nat.pow_add]
  exact Nat.mul_lt_mul_of_pos_right (Nat.sub_lt (Nat.two_pow_pos len) Nat.one_pos) (Nat.two_pow_pos pos)

theorem maskAt_and_allV {pos len : Nat} (h : pos + len ≤ 32768) : maskAt pos len &&& allV = maskAt pos len :=
  maskAt_and_ones h

/-- The result that a drain owes. -/
def Engine.drainRes (x : Engine) (lat vd pos n val : Nat) : PendRes :=
  { iss := x.cyc, due := x.cyc + lat, dest := .vreg vd, mask := maskAt pos n &&& allV, val := val <<< pos }

theorem Engine.oweV_eq (x : Engine) (lat vd pos n val : Nat) :
    x.oweV lat vd pos n val none = { x with pend := x.pend ++ [x.drainRes lat vd pos n val] } := rfl

/-- The `n` elements from `a` up are those of the drained value. -/
theorem Engine.elemOf_drainRes {w a n : Nat} (hw : 0 < w) (fits : w * a + w * n ≤ 32768) (x : Engine)
    (lat vd val old i : Nat) :
    elemOf w (blend old (x.drainRes lat vd (w * a) (w * n) val).mask (x.drainRes lat vd (w * a) (w * n) val).val) i =
      if a ≤ i ∧ i < a + n then elemOf w val (i - a) else elemOf w old i := by
  rw [Engine.drainRes, maskAt_and_allV fits, elemOf_blend_maskAt hw]
  split
  · next inside => rw [elemOf_shiftLeft inside.1]
  · rfl

theorem Engine.acmRow_drained (x : Engine) (ring : Bool) (n r : Nat) :
    (x.drained ring n).acmRow r = { x.acmRow r with undr := (x.acmRow r).undr && !(ring && r == n) } := by
  cases ring with
  | false => simp [Engine.drained]
  | true =>
    by_cases same : r = n
    · subst same
      simp [Engine.drained, Engine.acmRow, mget_minsert_same]
    · simp [Engine.drained, Engine.acmRow, mget_minsert_other _ same, beq_eq_false_iff_ne.2 same]

theorem Engine.drained_acm (x : Engine) (ring : Bool) (n : Nat) :
    x.drained ring n = { x with acm := (x.drained ring n).acm } := by
  cases ring <;> rfl

/-- A row tagged ZERO reads as zeros. -/
theorem Engine.rowData_zero (x : Engine) (r : AcmRow) : x.rowData r = if r.tag = 1 then 0 else x.rowData r := by
  split
  · next zero => simp [Engine.rowData, zero]
  · rfl

/-! ### The raw drain (R71, R81, R105, R137) -/

section
variable {h : Issue} {s : State} {vd : Fin 32} {pos : BitVec 5} {chr : Fin 64} {lpi : BitVec 10} {row : RowSel} {n : Nat}

theorem Engine.needS_rnRow {x : Engine} (select : ∀ r : Fin 64, row = .reg r → x.readyS r.val) :
    x.needS (rnRow row) = none := by
  cases row with
  | imm v => exact Engine.needS_none.2 (.inl rfl)
  | reg r => exact Engine.needS_none.2 (select r rfl)

theorem execDrn_raw {ring : Bool} (ready : issues h s) (wf : Instr.wf (.drn h vd pos true ring chr lpi row) = true)
    (select : ∀ r : Fin 64, row = .reg r → (issuer h s).readyS r.val) (hn : n = (issuer h s).rowSel row)
    (free : (issuer h s).rowBusy n = false) (undr : ring = true → ((issuer h s).acmRow n).undr = true)
    (order : (issuer h s).inOrder 8 (.vreg vd.val) (maskAt (8192 * pos.toNat) 8192)) :
    ∃ t, exec (.drn h vd pos true ring chr lpi row) s = .next t ∧
      turns h s t (((issuer h s).drained ring n).oweV 8 vd.val (8192 * pos.toNat) 8192
        ((issuer h s).rowData ((issuer h s).acmRow n)) none) := by
  subst hn
  have dry : (ring && !((issuer h s).acmRow ((issuer h s).rowSel row)).undr) = false := by
    cases ring with
    | false => rfl
    | true => rw [undr rfl]; rfl
  have pass : worst ([(issuer h s).needS (rnRow row), none] ++ (issuer h s).rowBad ring ((issuer h s).rowSel row) ++
      [(issuer h s).order 8 (.vreg vd.val) (maskAt (8192 * pos.toNat) 8192)]) = none := by
    simp only [Engine.rowBad, Engine.needS_rnRow select, free, dry, Engine.order_none order, List.cons_append, List.nil_append,
      Bool.false_eq_true, if_false, worst]
  exact ⟨_, wfOr_wf wf _, turns_issue ready pass rfl⟩

/-! ### The drain through a layer block (R56 to R61, R167, R169) -/

/-- Output `j` of a drain of row `r` under block `b` with the channel records `recs`. -/
def Engine.drainAt (x : Engine) (b : LayerBlk) (recs : List Byte) (r : AcmRow) (j : Nat) : DrainOut :=
  drainOut b (x.palView b.pslot)
    (drainV b r.fmt (parseCh recs j) (elemOf (8192 / r.outs) (x.rowData r) j),
      r.satBits.testBit (if r.outs = 128 then 2 * j else j))

/-- What the layer's monitor counts of a drain from channel record `cb` on: the outputs of the block's channels. -/
def Engine.drainStats (x : Engine) (b : LayerBlk) (recs : List Byte) (r : AcmRow) (cb : Nat) : List OutStat :=
  ((List.range r.outs).filter fun j => decide (b.ch0 ≤ cb + j ∧ cb + j < b.ch0 + b.nch)).map fun j =>
    (x.drainAt b recs r j).stat

/-- The engine after a drain through block `b` to a format other than MXFP4, at element `pos * outs` of its register. -/
def Engine.afterDrain (x : Engine) (b : LayerBlk) (recs : List Byte) (r : AcmRow) (rs : List (Nat × Nat))
    (vd pos cb lpi : Nat) : Engine :=
  { x with
    reads := x.reads ++ rs
    mons := (x.count lpi (x.drainStats b recs r cb)).mons
    pend := x.pend ++ [x.drainRes (drnLat b.act) vd (tgtBits b * r.outs * pos) (tgtBits b * r.outs)
      (pack (tgtBits b) ((List.range r.outs).map fun j => (x.drainAt b recs r j).code))] }

theorem zip_map_range {α : Type} (f : Nat → α) (n : Nat) :
    ((List.range n).map f).zip (List.range n) = (List.range n).map fun j => (f j, j) := by
  simpa using List.zip_map' (f := f) (g := id) (l := List.range n)

/-- Elements of a row are 64 bits wide where it has 128 outputs, else 32. -/
theorem AcmRow.width_eq (r : AcmRow) :
    (if r.fmt = .i64 then 64 else 32) = 8192 / r.outs ∧ (8192 / r.outs = 64 ↔ r.outs = 128) := by
  rw [AcmRow.outs]
  by_cases wide : r.fmt = .i64 <;> simp [wide]

theorem div_two_pow_mod_two (v k : Nat) : (v / 2 ^ k % 2 == 1) = v.testBit k := by
  rw [Nat.testBit_eq_decide_div_mod_eq]
  rfl

theorem State.drain_eq (s : State) (e vd pos chr lpi row cb : Nat) (hcb : cb = (s.eng e).chb chr) {blk recs : List Byte}
    (hblk : (s.ownRead (s.blockAt e lpi) 128).1 = .ok blk)
    (hrecs : (s.ownRead (s.recsAt e cb) (16 * ((s.eng e).acmRow row).outs)).1 = .ok recs)
    (mx : (parseLayer blk).tfmt ≠ fmtCode .mxfp4) :
    s.drain e vd pos false chr lpi row = s.setEng e ((s.eng e).afterDrain (parseLayer blk) recs ((s.eng e).acmRow row)
      [(s.blockAt e lpi, 128), (s.recsAt e cb, 16 * ((s.eng e).acmRow row).outs)] vd pos cb lpi) := by
  subst hcb
  obtain ⟨width, wide⟩ := ((s.eng e).acmRow row).width_eq
  simp only [State.drain, hblk, hrecs, beq_eq_false_iff_ne.2 mx, Bool.false_eq_true, if_false, State.modEng_setEng]
  simp only [wide, width, unpack, zip_map_range, List.map_map, Function.comp_def, List.filter_map, shiftRight_mod_eq_elemOf,
    div_two_pow_mod_two]
  rfl

theorem execDrn_layer {q w cb : Nat} {b : LayerBlk} (ready : issues h s)
    (select : ∀ r : Fin 64, row = .reg r → (issuer h s).readyS r.val) (hchr : (issuer h s).readyS chr.val)
    (hn : n = (issuer h s).rowSel row) (free : (issuer h s).rowBusy n = false) (clean : (started h s).eccClean = true)
    (blockAdmits : (started h s).regionAdmits .gallery false ((started h s).blockAt h.ne.val lpi.toNat) 128 = true)
    (recsAdmit : (started h s).regionAdmits .gallery false ((started h s).recsAt h.ne.val cb) (16 * q) = true)
    (hb : b = (started h s).drainBlk h.ne.val lpi.toNat) (blockSlice : (started h s).blockAt h.ne.val lpi.toNat < 0x54000000)
    (recsSlice : (started h s).recsAt h.ne.val cb < 0x54000000) (mx : b.tfmt ≠ fmtCode .mxfp4)
    (hq : q = ((issuer h s).acmRow n).outs) (hw : w = tgtBits b) (hcb : cb = (issuer h s).sreg chr.val % 65536)
    (recsFit : cb + q ≤ ((started h s).layerSecD h.ne.val).2.2)
    (blockStores : (issuer h s).noStore ((started h s).blockAt h.ne.val lpi.toNat) 128)
    (recStores : (issuer h s).noStore ((started h s).recsAt h.ne.val cb) (16 * q))
    (order : (issuer h s).inOrder (drnLat b.act) (.vreg vd.val) (maskAt (w * q * pos.toNat) (w * q))) :
    ∃ t, exec (.drn h vd pos false false chr lpi row) s = .next t ∧
      turns h s t ((issuer h s).afterDrain b ((started h s).bytes ((started h s).recsAt h.ne.val cb) (16 * q))
        ((issuer h s).acmRow n) [((started h s).blockAt h.ne.val lpi.toNat, 128), ((started h s).recsAt h.ne.val cb, 16 * q)]
        vd.val pos.toNat cb lpi.toNat) := by
  subst hn hq hw hcb
  have engine : (started h s).eng h.ne.val = issuer h s := rfl
  have params : worst (drnChk h.ne.val vd.val pos.toNat chr.val lpi.toNat ((issuer h s).rowSel row) (started h s)) = none := by
    simp only [drnChk, ← hb, engine, Engine.chb, beq_eq_false_iff_ne.2 mx, if_neg (Nat.not_lt.2 recsFit),
      Engine.storeHazard_none blockStores, Engine.storeHazard_none recStores, Engine.order_none order, Bool.false_eq_true,
      if_false, worst]
  have pass : worst ([(issuer h s).needS (rnRow row), (issuer h s).needS chr.val] ++
      (issuer h s).rowBad false ((issuer h s).rowSel row) ++
      drnChk h.ne.val vd.val pos.toNat chr.val lpi.toNat ((issuer h s).rowSel row) (started h s)) = none := by
    simp only [Engine.rowBad, Engine.needS_rnRow select, Engine.needS_none.2 hchr, free, List.cons_append, List.nil_append,
      Bool.false_and, Bool.false_eq_true, if_false, worst, params]
  refine ⟨_, wfOr_wf rfl _, turns_issue ready pass ?_⟩
  subst hb
  exact State.drain_eq _ _ _ _ _ _ _ _ rfl (congrArg Prod.fst (State.ownRead_clean clean blockAdmits blockSlice))
    (congrArg Prod.fst (State.ownRead_clean clean recsAdmit recsSlice)) mx

end

/-! ### Monitors (R169) -/

theorem outs_foldl_add {l : List OutStat} (h : l ≠ []) (m : Monitor) :
    (l.foldl Monitor.add m).outs = min (m.outs + l.length) (2 ^ 48 - 1) := by
  induction l generalizing m with
  | nil => exact absurd rfl h
  | cons o t ih =>
    cases t with
    | nil => rfl
    | cons p t =>
      rw [List.foldl_cons, ih (by simp)]
      simp only [Monitor.add, List.length_cons]
      omega

theorem Engine.monitor_count_other (x : Engine) {l k : Nat} (h : l ≠ k) (os : List OutStat) :
    (x.count k os).monitor l = x.monitor l := mget_minsert_other _ h _ _

theorem Engine.monitor_count_outs (x : Engine) (k : Nat) {os : List OutStat} (h : os ≠ []) :
    ((x.count k os).monitor k).outs = min ((x.monitor k).outs + os.length) (2 ^ 48 - 1) := by
  rw [Engine.count, Engine.monitor, mget_minsert_same, outs_foldl_add h]

theorem tgtBits_pos (b : LayerBlk) : 0 < tgtBits b := by
  unfold tgtBits
  split
  · next f _ => exact etBits_pos (.fmt f)
  · decide

/-! ### The obligation -/

/-- Settles O11: the two forms of the drain by what their engines become. -/
theorem drainResults : Obligations.DrainResults := by
  refine ⟨fun h s vd pos ring chr lpi row n ready wf select hn free undr order => ?_,
    fun h s vd pos chr lpi row n q w cb b ready wf select hchr hn free clean blockAdmits recsAdmit hb blockSlice recsSlice
      mx hq hw hcb fits recsFit blockStores recStores order => ?_⟩
  · obtain ⟨t, ht, turned⟩ := execDrn_raw ready wf select hn free undr order
    have low : pos.toNat ≤ 3 := by simp [Instr.wf] at wf; exact wf.2
    refine ⟨t, (issuer h s).drainRes 8 vd.val (8192 * pos.toNat) 8192 ((issuer h s).rowData ((issuer h s).acmRow n)), _, ht,
      turned, ?_, ⟨rfl, rfl, rfl, rfl, rfl⟩, fun old i hi => ?_, fun r => (issuer h s).acmRow_drained ring n r⟩
    · rw [Engine.oweV_eq, Engine.drained_acm]
      rfl
    · have place : 8192 * pos.toNat = 32 * (256 * pos.toNat) := by ring
      rw [place, ← Engine.rowData_zero]
      exact Engine.elemOf_drainRes (w := 32) (n := 256) (by decide) (by omega) ..
  · obtain ⟨t, ht, turned⟩ := execDrn_layer ready select hchr hn free clean blockAdmits recsAdmit hb blockSlice recsSlice mx hq
      hw hcb recsFit blockStores recStores order
    refine ⟨t, _, _, ht, turned, rfl, ⟨rfl, rfl, rfl, rfl, rfl⟩, fun old i => ?_, fun l hl => ?_, fun c hc counts => ?_⟩
    · have bits : 0 < w := hw ▸ tgtBits_pos b
      have place : w * q * pos.toNat = w * (q * pos.toNat) := Nat.mul_assoc ..
      rw [← hw, ← hq, place]
      rw [Engine.elemOf_drainRes bits (by rw [← place]; linarith), elemOf_pack bits]
      by_cases inside : q * pos.toNat ≤ i ∧ i < q * pos.toNat + q
      · rw [if_pos inside, if_pos inside, getD_map_range (by omega), Engine.drainAt, ← hq]
      · rw [if_neg inside, if_neg inside]
    · exact (issuer h s).monitor_count_other hl _
    · have count : ((issuer h s).drainStats b ((started h s).bytes ((started h s).recsAt h.ne.val cb) (16 * q))
          ((issuer h s).acmRow n) cb).length = c := by
        rw [Engine.drainStats, List.length_map, ← hq, hc]
      rw [← count]
      refine (issuer h s).monitor_count_outs lpi.toNat fun empty => counts ?_
      rw [← count, empty]
      rfl

end Sys2Proof.Machine

/-! SUPPORT. The cycles of an engine that drains: what passes, and what lands in the last of them (R67, R106, R120). -/
namespace Sys2Proof.Machine

open Sys2Proof

-- one proof after the other: a thread for each would need too much memory
set_option Elab.async false

/-! ### The parts of a cycle -/

/-- An engine outside a droop whose command has ended; results, stores and rows may still be owed, nothing else. -/
structure Engine.Drains (x : Engine) : Prop where
  run : x.run = .ending
  droop : x.droop = false
  ops : x.ops = []
  syncs : x.syncs = []
  posted : x.posted = []
  late : x.late = none
  phaseEnd : x.phaseEnd = none
  fqs : x.fqs = []
  reads : x.reads = []

section
variable {s : State} {e : Nat} {x : Engine}

/-- What an engine that drains owes, and its registers, count for nothing. -/
theorem Engine.Drains.same (h : x.Drains) {y : Engine}
    (same : (y.run, y.droop, y.ops, y.syncs, y.posted, y.late, y.phaseEnd, y.fqs, y.reads) =
      (x.run, x.droop, x.ops, x.syncs, x.posted, x.late, x.phaseEnd, x.fqs, x.reads)) : y.Drains := by
  simp only [Prod.mk.injEq] at same
  obtain ⟨run, droop, ops, syncs, posted, late, phaseEnd, fqs, reads⟩ := same
  exact ⟨run.trans h.run, droop.trans h.droop, ops.trans h.ops, syncs.trans h.syncs, posted.trans h.posted, late.trans h.late,
    phaseEnd.trans h.phaseEnd, fqs.trans h.fqs, reads.trans h.reads⟩

/-- An engine all of whose writes have drained but its results. -/
theorem Engine.drains_of_quiet_pend (h : ({ x with pend := [] } : Engine).quiet) :
    x.Drains ∧ x.rows = [] ∧ x.stores = [] := by
  obtain ⟨run, droop, ops, rows, -, stores, syncs, posted, late, phaseEnd, fqs, reads⟩ := h
  exact ⟨⟨run, droop, ops, syncs, posted, late, phaseEnd, fqs, reads⟩, rows, stores⟩

/-- An engine all of whose writes have drained but its stores. -/
theorem Engine.drains_of_quiet_stores (h : ({ x with stores := [] } : Engine).quiet) :
    x.Drains ∧ x.rows = [] ∧ x.pend = [] := by
  obtain ⟨run, droop, ops, rows, pend, -, syncs, posted, late, phaseEnd, fqs, reads⟩ := h
  exact ⟨⟨run, droop, ops, syncs, posted, late, phaseEnd, fqs, reads⟩, rows, pend⟩

/-- An engine all of whose writes have drained but its rows. -/
theorem Engine.drains_of_quiet_rows (h : ({ x with rows := [] } : Engine).quiet) :
    x.Drains ∧ x.pend = [] ∧ x.stores = [] := by
  obtain ⟨run, droop, ops, -, pend, stores, syncs, posted, late, phaseEnd, fqs, reads⟩ := h
  exact ⟨⟨run, droop, ops, syncs, posted, late, phaseEnd, fqs, reads⟩, pend, stores⟩

theorem State.readsDue_none (h : (s.eng e).reads = []) : s.readsDue e = s.setEng e (s.eng e) := by
  simp only [State.readsDue, h, List.foldl_nil]
  rw [← h]

theorem canvasCycle_none (h : x.ops = []) : canvasCycle (s.setEng e x) e = s.setEng e x := by
  simp only [canvasCycle, State.eng_setEng_same, h, List.filter_nil, List.foldl_nil, State.modEng_setEng, List.map_nil]
  rw [← h]

theorem State.postDue_none (h : x.posted = []) : (s.setEng e x).postDue e = s.setEng e x := by
  simp only [State.postDue, State.eng_setEng_same, h, List.foldl_nil, State.setEng_setEng]
  rw [← h]

theorem State.control_ending (h : x.run = .ending) : (s.setEng e x).control e = s.setEng e x := by
  simp [State.control, State.eng_setEng_same, h]

theorem State.suppress_none (h : (s.eng e).droop = false) (n : Nat) : s.suppress e n = s := by
  simp [State.suppress, h]

theorem State.syncsDue_none (h : x.syncs = []) : (s.setEng e x).syncsDue e = s.setEng e x := by
  simp only [State.syncsDue, State.eng_setEng_same, h, List.filter_nil, List.foldl_nil, State.setEng_setEng]
  rw [← h]

theorem State.phaseDue_none (h : x.phaseEnd = none) : (s.setEng e x).phaseDue e = s.setEng e x := by
  simp only [State.phaseDue, State.eng_setEng_same, h]

theorem State.fqCancelAll_none (h : (s.eng e).fqs = []) : s.fqCancelAll e = s :=
  List.foldl_fixed' (fun q => by simp [State.fqCancel, h, mfind]) _

theorem State.boundary_none (h : x.Drains) : (s.setEng e x).boundary e = s.setEng e x := by
  have cancelled : (s.setEng e x).fqCancelAll e = s.setEng e x :=
    State.fqCancelAll_none (by rw [State.eng_setEng_same, h.fqs])
  simp [State.boundary, State.eng_setEng_same, h.late, h.run, cancelled]

/-! ### What lands -/

theorem Engine.performRows_none (h : ∀ w ∈ x.rows, x.cyc < w.due) : x.performRows = x := by
  have due : x.rows.filter (fun w => decide (w.due ≤ x.cyc)) = [] := by simpa using h
  have kept : x.rows.filter (fun w => !decide (w.due ≤ x.cyc)) = x.rows := by simpa using h
  simp only [Engine.performRows, due, kept, List.foldl_nil]

theorem Engine.performRows_one {w : RowWrite} (rows : x.rows = [w]) (due : w.due ≤ x.cyc) (ring : w.ring = false) :
    x.performRows = { x with rows := [], acm := minsert w.row (x.writeRow w) x.acm } := by
  have taken : x.rows.filter (fun v => decide (v.due ≤ x.cyc)) = [w] := by simp [rows, due]
  have left : x.rows.filter (fun v => !decide (v.due ≤ x.cyc)) = [] := by simp [rows, due]
  have performed (y : Engine) : y.performRow w = { y with acm := minsert w.row (y.writeRow w) y.acm } := by
    simp [Engine.performRow, ring]
  simp only [Engine.performRows, taken, left, List.foldl_cons, List.foldl_nil, performed]
  rfl

theorem State.landDue_none {pal : Bool} (h : ∀ p ∈ x.pend, p.isPal = pal → x.cyc < p.due) :
    (s.setEng e x).landDue e pal = s.setEng e x := by
  have due : x.pend.filter (fun p => decide (p.due ≤ x.cyc) && p.isPal == pal) = [] := by
    simpa using fun p hp late same => Nat.not_lt.2 late (h p hp same)
  have kept : x.pend.filter (fun p => !(decide (p.due ≤ x.cyc) && p.isPal == pal)) = x.pend := by
    simpa using fun p hp => (Classical.em (p.isPal = pal)).imp (h p hp) id
  simp only [State.landDue, State.eng_setEng_same, due, kept, List.foldl_nil, State.setEng_setEng]

theorem State.landDue_one {p : PendRes} (pend : x.pend = [p]) (due : p.due ≤ x.cyc) (fault : p.fault = none)
    (rld : p.rld = none) : (s.setEng e x).landDue e p.isPal = s.setEng e (({ x with pend := [] } : Engine).land p) := by
  simp [State.landDue, State.eng_setEng_same, pend, due, State.landRes, fault, rld, State.setEng_setEng, State.modEng_setEng]

theorem State.storesDue_none (h : ∀ st ∈ x.stores, x.cyc < st.due) : (s.setEng e x).storesDue e = s.setEng e x := by
  have due : x.stores.filter (fun st => decide (st.due ≤ x.cyc)) = [] := by simpa using h
  have kept : x.stores.filter (fun st => !decide (st.due ≤ x.cyc)) = x.stores := by simpa using h
  simp only [State.storesDue, State.eng_setEng_same, due, kept, List.foldl_nil, State.setEng_setEng]

theorem State.storesDue_one {st : PendStore} (stores : x.stores = [st]) (due : st.due ≤ x.cyc) :
    (s.setEng e x).storesDue e = (s.setEng e { x with stores := [] }).storeOne e st := by
  simp [State.storesDue, State.eng_setEng_same, stores, due, State.setEng_setEng]

end

theorem State.storeOne_admitted {s : State} {st : PendStore} (clean : s.eccClean = true)
    (admits : s.regionAdmits .gallery true st.addr st.data.length = true) (slice : st.addr < 0x54000000) (e : Nat) :
    s.storeOne e st = s.setBytes st.addr st.data := by
  have up : s.linkDown st.addr = false := by
    have : ¬ hostBase ≤ st.addr := by unfold hostBase; omega
    simp [State.linkDown, this]
  simp [State.storeOne, State.ownWrite, admits, State.pwrite_clean clean (inDdr_slice slice) up]

theorem State.storeOne_refused {s : State} {st : PendStore}
    (refused : s.regionAdmits .gallery true st.addr st.data.length = false) (e : Nat) :
    s.storeOne e st = s.modEng e fun x =>
      x.setLate ⟨0x20, 4, st.pc, 2, (st.addr - sliceBase e - x.tbase) % 2 ^ 32⟩ := by
  simp [State.storeOne, State.ownWrite, refused]

/-! ### A cycle -/

section
variable {s : State} {e : Nat} {x : Engine}

/-- A cycle of an engine that drains, by what its two halves make of the engine. -/
theorem tick_drains {y : Engine} (running : s.tripped = false) (hx : x.Drains)
    (first : (s.setEng e x.performRows).landDue e true = s.setEng e y) (hy : y.Drains) :
    tick e (s.setEng e x) =
      (((((s.setEng e (y.tock false)).landDue e false).storesDue e).syncsDue e).phaseDue e).boundary e := by
  have read : (s.setEng e x).readsDue e = s.setEng e x := by
    rw [State.readsDue_none (by rw [State.eng_setEng_same, hx.reads]), State.eng_setEng_same, State.setEng_setEng]
  have idle : ((s.setEng e y).eng e).issues = false := by simp [State.eng_setEng_same, Engine.issues, hy.run]
  have paced : (s.setEng e (y.tock false)).suppress e 1 = s.setEng e (y.tock false) :=
    State.suppress_none (by rw [State.eng_setEng_same]; exact hy.droop) 1
  rw [tick, if_neg (by rw [show (s.setEng e x).tripped = s.tripped from rfl, running]; decide)]
  simp only [read, canvasCycle_none hx.ops, State.modEng_setEng, first, State.postDue_none hy.posted, idle,
    State.control_ending hy.run, paced]

/-- Where the landing and storing of a cycle leave the engine draining, nothing more happens in it. -/
theorem settled_drains {z : Engine} (hz : z.Drains) :
    (((s.setEng e z).syncsDue e).phaseDue e).boundary e = s.setEng e z := by
  rw [State.syncsDue_none hz.syncs, State.phaseDue_none hz.phaseEnd, State.boundary_none hz]

theorem Engine.Drains.tock (h : x.Drains) : (x.tock false).Drains := h.same rfl

/-- The first cycle finds the engine whether or not it has been written before. -/
theorem tick_setEng_eng (running : s.tripped = false) (h : (s.eng e).reads = []) :
    tick e (s.setEng e (s.eng e)) = tick e s := by
  have read : (s.setEng e (s.eng e)).readsDue e = s.readsDue e := by
    rw [State.readsDue_none h, State.readsDue_none (by rw [State.eng_setEng_same, h]), State.eng_setEng_same,
      State.setEng_setEng]
  have stopped : ¬ s.tripped = true := by simp [running]
  rw [tick, tick, if_neg stopped, if_neg (show ¬ (s.setEng e (s.eng e)).tripped = true from stopped), read]

/-! ### Cycles that pass -/

/-- Nothing falls due in the engine's next `n` cycles. -/
structure Engine.Waits (x : Engine) (n : Nat) : Prop where
  rows : ∀ w ∈ x.rows, x.cyc + n ≤ w.due
  pals : ∀ p ∈ x.pend, x.cyc + n ≤ p.due
  results : ∀ p ∈ x.pend, p.isPal = false → x.cyc + n < p.due
  stores : ∀ st ∈ x.stores, x.cyc + n < st.due

theorem tick_waits (running : s.tripped = false) (hx : x.Drains) {n : Nat} (waits : x.Waits (n + 1)) :
    tick e (s.setEng e x) = s.setEng e (x.tock false) := by
  have rows : x.performRows = x := Engine.performRows_none fun w hw => by
    have := waits.rows w hw
    omega
  have first : (s.setEng e x.performRows).landDue e true = s.setEng e x := by
    rw [rows]
    exact State.landDue_none fun p hp _ => by
      have := waits.pals p hp
      omega
  have results : (s.setEng e (x.tock false)).landDue e false = s.setEng e (x.tock false) :=
    State.landDue_none fun p hp plain => by
      have := waits.results p hp plain
      show x.cyc + 1 < p.due
      omega
  have stores : (s.setEng e (x.tock false)).storesDue e = s.setEng e (x.tock false) :=
    State.storesDue_none fun st hs => by
      have := waits.stores st hs
      show x.cyc + 1 < st.due
      omega
  rw [tick_drains running hx first hx, results, stores, settled_drains hx.tock]

theorem Engine.Waits.tock {n : Nat} (waits : x.Waits (n + 1)) : (x.tock false).Waits n := by
  have later : (x.tock false).cyc + n = x.cyc + (n + 1) := by
    show x.cyc + 1 + n = _
    omega
  exact ⟨fun w hw => later ▸ waits.rows w hw, fun p hp => later ▸ waits.pals p hp,
    fun p hp plain => later ▸ waits.results p hp plain, fun st hs => later ▸ waits.stores st hs⟩

/-- The engine after `n` cycles of which none need have passed. -/
def Engine.after (x : Engine) : Nat → Engine
  | 0 => x
  | n + 1 => x.aged (n + 1)

theorem Engine.aged_aged (x : Engine) (m n : Nat) : (x.aged m).aged n = x.aged (m + n) := by
  simp only [Engine.aged, Nat.mod_add_mod, Nat.add_assoc]

theorem Engine.tock_after (x : Engine) (n : Nat) : (x.tock false).after n = x.after (n + 1) := by
  cases n with
  | zero => rfl
  | succ n => exact (x.aged_aged 1 (n + 1)).trans (by rw [Nat.add_comm 1]; rfl)

theorem Engine.after_tock (x : Engine) (n : Nat) : (x.after n).tock false = x.aged (n + 1) := by
  cases n with
  | zero => rfl
  | succ n => exact x.aged_aged (n + 1) 1

theorem Engine.tock_after_pend (x : Engine) (n : Nat) (l : List PendRes) :
    ({ x.after n with pend := l } : Engine).tock false = ({ x with pend := l } : Engine).aged (n + 1) :=
  congrArg (fun y : Engine => { y with pend := l }) (x.after_tock n)

@[simp] theorem Engine.after_cyc (x : Engine) (n : Nat) : (x.after n).cyc = x.cyc + n := by cases n <;> rfl

@[simp] theorem Engine.after_pend (x : Engine) (n : Nat) : (x.after n).pend = x.pend := by cases n <;> rfl
@[simp] theorem Engine.after_stores (x : Engine) (n : Nat) : (x.after n).stores = x.stores := by cases n <;> rfl
@[simp] theorem Engine.after_rows (x : Engine) (n : Nat) : (x.after n).rows = x.rows := by cases n <;> rfl
@[simp] theorem Engine.after_acm (x : Engine) (n : Nat) : (x.after n).acm = x.acm := by cases n <;> rfl

theorem Engine.writeRow_after (x : Engine) (n : Nat) (w : RowWrite) : (x.after n).writeRow w = x.writeRow w := by
  cases n <;> rfl

theorem Engine.Drains.after (h : x.Drains) (n : Nat) : (x.after n).Drains := by
  cases n <;> exact h.same rfl

/-- Cycles in which nothing falls due pass, and one more. -/
theorem coast_setEng (running : s.tripped = false) (hx : x.Drains) {n : Nat} (waits : x.Waits n) :
    coast e (n + 1) (s.setEng e x) = tick e (s.setEng e (x.after n)) := by
  induction n generalizing x with
  | zero => simp [coast, State.eng_setEng_same, hx.run, Engine.after]
  | succ n ih =>
    rw [coast, if_pos (.inl (by rw [State.eng_setEng_same, hx.run])), tick_waits running hx waits, ih hx.tock waits.tock,
      Engine.tock_after]

theorem coast_drains (running : s.tripped = false) (hx : (s.eng e).Drains) {n : Nat} (waits : (s.eng e).Waits n) :
    coast e (n + 1) s = tick e (s.setEng e ((s.eng e).after n)) := by
  rw [← coast_setEng running hx waits, coast, coast, tick_setEng_eng running hx.reads, State.eng_setEng_same]
  simp only [hx.run, true_or, if_true]

/-! ### The last cycle -/

theorem Engine.land_tock (x : Engine) (p : PendRes) (b : Bool) : (x.land p).tock b = (x.tock b).land p := by
  unfold Engine.land
  cases p.dest <;> rfl

theorem Engine.Drains.land (h : x.Drains) (p : PendRes) : (x.land p).Drains := by
  unfold Engine.land
  cases p.dest <;> exact h.same rfl

@[simp] theorem Engine.pend_land (x : Engine) (p : PendRes) : (x.land p).pend = x.pend := by
  unfold Engine.land
  cases p.dest <;> rfl

@[simp] theorem Engine.stores_land (x : Engine) (p : PendRes) : (x.land p).stores = x.stores := by
  unfold Engine.land
  cases p.dest <;> rfl

theorem tick_lands {p : PendRes} (running : s.tripped = false) (hx : x.Drains) (rows : x.rows = []) (stores : x.stores = [])
    (pend : x.pend = [p]) (fault : p.fault = none) (rld : p.rld = none)
    (due : p.due = x.cyc + if p.isPal then 0 else 1) :
    tick e (s.setEng e x) = s.setEng e ((({ x with pend := [] } : Engine).tock false).land p) := by
  have noRows : x.performRows = x := Engine.performRows_none (by simp [rows])
  have emptied : ({ x with pend := [] } : Engine).Drains := hx.same rfl
  cases pal : p.isPal with
  | true =>
    simp only [pal, if_true, Nat.add_zero] at due
    have first : (s.setEng e x.performRows).landDue e true = s.setEng e (({ x with pend := [] } : Engine).land p) := by
      rw [noRows, ← pal]
      exact State.landDue_one pend due.le fault rld
    have landed := (emptied.tock).land p
    rw [tick_drains running hx first (emptied.land p), Engine.land_tock]
    rw [State.landDue_none (by simp [Engine.tock]), State.storesDue_none
      (by simp [Engine.tock, stores]), settled_drains landed]
  | false =>
    simp only [pal, Bool.false_eq_true, if_false] at due
    have first : (s.setEng e x.performRows).landDue e true = s.setEng e x := by
      rw [noRows]
      exact State.landDue_none (by simp [pend, pal])
    have second : (s.setEng e (x.tock false)).landDue e false =
        s.setEng e ((({ x with pend := [] } : Engine).tock false).land p) := by
      rw [← pal]
      exact State.landDue_one pend due.le fault rld
    rw [tick_drains running hx first hx, second, State.storesDue_none (by simp [Engine.tock, stores]),
      settled_drains (emptied.tock.land p)]

theorem tick_writesRow {w : RowWrite} (running : s.tripped = false) (hx : x.Drains) (pend : x.pend = [])
    (stores : x.stores = []) (rows : x.rows = [w]) (ring : w.ring = false) (due : w.due = x.cyc) :
    tick e (s.setEng e x) =
      s.setEng e { x.tock false with rows := [], acm := minsert w.row (x.writeRow w) x.acm } := by
  have written : x.performRows = _ := Engine.performRows_one rows due.le ring
  have drained : x.performRows.Drains := by
    rw [written]
    exact hx.same rfl
  have noPend : x.performRows.pend = [] := by rw [written]; exact pend
  have noStores : x.performRows.stores = [] := by rw [written]; exact stores
  rw [tick_drains running hx (State.landDue_none (by simp [noPend])) drained,
    State.landDue_none (by simp [Engine.tock, noPend]), State.storesDue_none (by simp [Engine.tock, noStores]),
    settled_drains drained.tock, written]
  rfl

/-- The cycle in which the engine's only store is due, up to the end of the stores. -/
theorem tick_stores {st : PendStore} (running : s.tripped = false) (hx : x.Drains) (pend : x.pend = []) (rows : x.rows = [])
    (stores : x.stores = [st]) (due : st.due = x.cyc + 1) :
    tick e (s.setEng e x) =
      ((((s.setEng e { x.tock false with stores := [] }).storeOne e st).syncsDue e).phaseDue e).boundary e := by
  have noRows : x.performRows = x := Engine.performRows_none (by simp [rows])
  have first : (s.setEng e x.performRows).landDue e true = s.setEng e x := by
    rw [noRows]
    exact State.landDue_none (by simp [pend])
  rw [tick_drains running hx first hx, State.landDue_none (by simp [Engine.tock, pend]),
    State.storesDue_one (x := x.tock false) stores due.le]

theorem tick_stores_admitted {st : PendStore} (running : s.tripped = false) (hx : x.Drains) (pend : x.pend = [])
    (rows : x.rows = []) (stores : x.stores = [st]) (due : st.due = x.cyc + 1) (clean : s.eccClean = true)
    (admits : s.regionAdmits .gallery true st.addr st.data.length = true) (slice : st.addr < 0x54000000) :
    tick e (s.setEng e x) = (s.setBytes st.addr st.data).setEng e { x.tock false with stores := [] } := by
  have emptied : ({ x.tock false with stores := [] } : Engine).Drains := hx.same rfl
  have stored : (s.setEng e { x.tock false with stores := [] }).storeOne e st =
      (s.setBytes st.addr st.data).setEng e { x.tock false with stores := [] } :=
    State.storeOne_admitted (s := s.setEng e _) clean admits slice e
  rw [tick_stores running hx pend rows stores due, stored, settled_drains emptied]

/-- The boundary of a cycle in which a fault has been found leaves memory and the stores owed. -/
theorem State.boundary_late {f : FaultRec} (late : x.late = some f) (fqs : x.fqs = []) :
    ((s.setEng e x).boundary e).mem = s.mem ∧ (((s.setEng e x).boundary e).eng e).stores = x.stores := by
  simp only [State.boundary, State.eng_setEng_same, late]
  split
  · simp only [State.engStop, State.eng_setEng_same]
    rw [State.fqCancelAll_none (by rw [State.eng_setEng_same]; exact fqs), State.eng_setEng_same]
    exact ⟨rfl, rfl⟩
  · split
    · rw [State.eng_setEng_same]
      exact ⟨rfl, rfl⟩
    · rw [State.eng_setEng_same]
      exact ⟨rfl, rfl⟩

theorem tick_stores_refused {st : PendStore} (running : s.tripped = false) (hx : x.Drains) (pend : x.pend = [])
    (rows : x.rows = []) (stores : x.stores = [st]) (due : st.due = x.cyc + 1)
    (refused : s.regionAdmits .gallery true st.addr st.data.length = false) :
    (tick e (s.setEng e x)).mem = s.mem ∧ ((tick e (s.setEng e x)).eng e).stores = [] := by
  have late : (s.setEng e { x.tock false with stores := [] }).storeOne e st = _ :=
    State.storeOne_refused (s := s.setEng e _) refused e
  rw [tick_stores running hx pend rows stores due, late, State.modEng_setEng,
    State.syncsDue_none (by exact hx.syncs), State.phaseDue_none (by exact hx.phaseEnd)]
  exact State.boundary_late rfl hx.fqs

end

end Sys2Proof.Machine

/-! SUPPORT. Results, stores, rows and remote replies that take effect, the accumulation of a row, and bank conflicts (R43, R67,
R71, R75, R98, R106, R120, R130, R187, R188). -/
namespace Sys2Proof.Machine

open Sys2Proof

-- one proof after the other: a thread for each would need too much memory
set_option Elab.async false

/-! ### The commands that run an engine to its next event -/

section
variable {s : State} {ne : Fin 6}

theorem execResultWrite_due {d : Nat} (h : least ((s.eng ne.val).pend.map (·.due)) = some d) : exec (.resultWrite ne) s =
    .next (coast ne.val (d - (s.eng ne.val).cyc +
      if (s.eng ne.val).pend.any (fun p => p.isPal && p.due == d) then 1 else 0) s) := by
  show execResultWrite ne s = _
  simp only [execResultWrite, h]

theorem execOwnStorePerformed_due {d : Nat} (h : least ((s.eng ne.val).stores.map (·.due)) = some d) :
    exec (.ownStorePerformed ne) s = .next (coast ne.val (d - (s.eng ne.val).cyc) s) := by
  show execOwnStorePerformed ne s = _
  simp only [execOwnStorePerformed, h]

theorem execAcmRowWrite_due {d : Nat} (h : (s.eng ne.val).nextRow = some d) :
    exec (.acmRowWrite ne) s = .next (coast ne.val (d - (s.eng ne.val).cyc + 1) s) := by
  show execAcmRowWrite ne s = _
  simp only [execAcmRowWrite, h]

theorem execResultWrite_none (h : (s.eng ne.val).pend = []) : exec (.resultWrite ne) s = .next s := by
  show execResultWrite ne s = _
  simp only [execResultWrite, h, List.map_nil, least]

theorem execOwnStorePerformed_none (h : (s.eng ne.val).stores = []) : exec (.ownStorePerformed ne) s = .next s := by
  show execOwnStorePerformed ne s = _
  simp only [execOwnStorePerformed, h, List.map_nil, least]

/-- Without an instruction in progress the next row is one in flight. -/
theorem Engine.nextRow_ops_nil {x : Engine} (h : x.ops = []) : x.nextRow = least (x.rows.map (·.due)) := by
  simp only [Engine.nextRow, h, List.filterMap_nil, List.append_nil]

theorem execAcmRowWrite_none (rows : (s.eng ne.val).rows = []) (ops : (s.eng ne.val).ops = []) :
    exec (.acmRowWrite ne) s = .next s := by
  show execAcmRowWrite ne s = _
  simp only [execAcmRowWrite, Engine.nextRow_ops_nil ops, rows, List.map_nil, least]

/-! ### One result, store or row is all that is owed -/

theorem execResultWrite_lands {p : PendRes} {k : Nat} (running : s.tripped = false)
    (quiet : ({ s.eng ne.val with pend := [] } : Engine).quiet) (pend : (s.eng ne.val).pend = [p]) (fault : p.fault = none)
    (rld : p.rld = none) (later : (s.eng ne.val).cyc < p.due)
    (hk : k = p.due - (s.eng ne.val).cyc + if p.isPal then 1 else 0) :
    exec (.resultWrite ne) s =
      .next (s.setEng ne.val ((({ s.eng ne.val with pend := [] } : Engine).aged k).land p)) := by
  obtain ⟨hx, rows, stores⟩ := Engine.drains_of_quiet_pend quiet
  obtain ⟨n, rfl⟩ : ∃ n, k = n + 1 := ⟨k - 1, by omega⟩
  have first : least ((s.eng ne.val).pend.map (·.due)) = some p.due := by rw [pend]; rfl
  have waits : (s.eng ne.val).Waits n :=
    { rows := by simp [rows]
      pals := by
        rw [pend, List.forall_mem_singleton]
        split at hk <;> omega
      results := by
        rw [pend, List.forall_mem_singleton]
        intro plain
        rw [plain] at hk
        simp only [Bool.false_eq_true, if_false] at hk
        omega
      stores := by simp [stores] }
  have due : p.due = ((s.eng ne.val).after n).cyc + if p.isPal then 0 else 1 := by
    rw [Engine.after_cyc]
    split at hk <;> simp [*] <;> omega
  have last := tick_lands (e := ne.val) running (hx.after n) (by rw [Engine.after_rows, rows])
    (by rw [Engine.after_stores, stores]) (by rw [Engine.after_pend, pend]) fault rld due
  have cycles : p.due - (s.eng ne.val).cyc +
      (if (s.eng ne.val).pend.any (fun q => q.isPal && q.due == p.due) then 1 else 0) = n + 1 := by
    rw [hk, pend]
    simp
  rw [execResultWrite_due first, cycles, coast_drains running hx waits, last, Engine.tock_after_pend]

section
variable {st : PendStore} (running : s.tripped = false) (quiet : ({ s.eng ne.val with stores := [] } : Engine).quiet)
  (stores : (s.eng ne.val).stores = [st]) (later : (s.eng ne.val).cyc < st.due)
include running quiet stores later

/-- The engine comes to the cycle of its only store. -/
theorem execOwnStorePerformed_last : ∃ n, st.due = (s.eng ne.val).cyc + (n + 1) ∧ (s.eng ne.val).Drains ∧
    (s.eng ne.val).rows = [] ∧ (s.eng ne.val).pend = [] ∧
    exec (.ownStorePerformed ne) s = .next (tick ne.val (s.setEng ne.val ((s.eng ne.val).after n))) := by
  obtain ⟨hx, rows, pend⟩ := Engine.drains_of_quiet_stores quiet
  obtain ⟨n, hn⟩ : ∃ n, st.due = (s.eng ne.val).cyc + (n + 1) := ⟨st.due - (s.eng ne.val).cyc - 1, by omega⟩
  have first : least ((s.eng ne.val).stores.map (·.due)) = some st.due := by rw [stores]; rfl
  have waits : (s.eng ne.val).Waits n :=
    { rows := by simp [rows]
      pals := by simp [pend]
      results := by simp [pend]
      stores := by
        rw [stores, List.forall_mem_singleton]
        omega }
  refine ⟨n, hn, hx, rows, pend, ?_⟩
  rw [execOwnStorePerformed_due first, show st.due - (s.eng ne.val).cyc = n + 1 by omega, coast_drains running hx waits]

theorem execOwnStorePerformed_admitted (clean : s.eccClean = true) (slice : st.addr < 0x54000000)
    (admits : s.regionAdmits .gallery true st.addr st.data.length = true) :
    exec (.ownStorePerformed ne) s = .next ((s.setBytes st.addr st.data).setEng ne.val
      (({ s.eng ne.val with stores := [] } : Engine).aged (st.due - (s.eng ne.val).cyc))) := by
  obtain ⟨n, hn, hx, rows, pend, run⟩ := execOwnStorePerformed_last running quiet stores later
  rw [run, tick_stores_admitted running (hx.after n) (by rw [Engine.after_pend, pend])
    (by rw [Engine.after_rows, rows]) (by rw [Engine.after_stores, stores]) (by rw [Engine.after_cyc]; omega) clean admits
    slice, Engine.after_tock, show st.due - (s.eng ne.val).cyc = n + 1 by omega]
  rfl

theorem execOwnStorePerformed_refused (refused : s.regionAdmits .gallery true st.addr st.data.length = false) :
    ∃ t, exec (.ownStorePerformed ne) s = .next t ∧ t.mem = s.mem ∧ (t.eng ne.val).stores = [] := by
  obtain ⟨n, hn, hx, rows, pend, run⟩ := execOwnStorePerformed_last running quiet stores later
  exact ⟨_, run, tick_stores_refused running (hx.after n) (by rw [Engine.after_pend, pend])
    (by rw [Engine.after_rows, rows]) (by rw [Engine.after_stores, stores]) (by rw [Engine.after_cyc]; omega) refused⟩

end

theorem execAcmRowWrite_writes {w : RowWrite} (running : s.tripped = false)
    (quiet : ({ s.eng ne.val with rows := [] } : Engine).quiet) (rows : (s.eng ne.val).rows = [w]) (ring : w.ring = false)
    (later : (s.eng ne.val).cyc ≤ w.due) :
    exec (.acmRowWrite ne) s = .next (s.setEng ne.val
      { ({ s.eng ne.val with rows := [] } : Engine).aged (w.due - (s.eng ne.val).cyc + 1) with
        acm := minsert w.row ((s.eng ne.val).writeRow w) (s.eng ne.val).acm }) := by
  obtain ⟨hx, pend, stores⟩ := Engine.drains_of_quiet_rows quiet
  obtain ⟨n, hn⟩ : ∃ n, w.due = (s.eng ne.val).cyc + n := ⟨w.due - (s.eng ne.val).cyc, by omega⟩
  have first : (s.eng ne.val).nextRow = some w.due := by
    rw [Engine.nextRow_ops_nil hx.ops, rows]
    rfl
  have waits : (s.eng ne.val).Waits n :=
    { rows := by
        rw [rows, List.forall_mem_singleton]
        omega
      pals := by simp [pend]
      results := by simp [pend]
      stores := by simp [stores] }
  rw [execAcmRowWrite_due first, show w.due - (s.eng ne.val).cyc = n by omega, coast_drains running hx waits,
    tick_writesRow running (hx.after n) (by rw [Engine.after_pend, pend]) (by rw [Engine.after_stores, stores])
      (by rw [Engine.after_rows, rows]) ring (by rw [Engine.after_cyc, hn]), Engine.writeRow_after,
    Engine.after_acm, Engine.after_tock]
  rfl

/-! ### Replies to remote loads (R130) -/

theorem execRldReply_none (late : Nat) (h : ∀ p ∈ (s.eng ne.val).pend, p.rld = none) :
    exec (.rldReply ne late) s = .next s := by
  have noLoad : (s.eng ne.val).pend.find? (fun p => p.rld.isSome) = none := by simpa using h
  show execRldReply ne late s = _
  simp only [execRldReply, noLoad]

theorem State.answerRld_eq {l m : List PendRes} {p q : PendRes} {r : RemoteLoad} {u : State} (older : ∀ y ∈ l, y.rld = none)
    (load : p.rld = some r) (reply : s.remoteReply p r = (q, u)) : s.answerRld (l ++ p :: m) = some (l ++ q :: m, u) := by
  induction l with
  | nil => simp [State.answerRld, load, reply]
  | cons y l ih =>
    rw [List.forall_mem_cons] at older
    simp [State.answerRld, older.1, ih older.2]

theorem execRldReply_answers {l m : List PendRes} {p q : PendRes} {r : RemoteLoad} {u : State}
    (pend : (s.eng ne.val).pend = l ++ p :: m) (older : ∀ y ∈ l, y.rld = none) (load : p.rld = some r)
    (reply : s.remoteReply p r = (q, u)) :
    exec (.rldReply ne 0) s =
      .next ((u.modEng ne.val fun y => { y with pend := l ++ q :: m, stRemote := y.stRemote % 2 ^ 64 }).suppress ne.val 0) := by
  have found : (s.eng ne.val).pend.find? (fun p => p.rld.isSome) = some p := by
    have passed : l.find? (fun p => p.rld.isSome) = none := by simpa using older
    simp [pend, List.find?_append, passed, load]
  show execRldReply ne 0 s = _
  simp only [execRldReply, found, ite_self, if_true]
  simp only [pend, State.answerRld_eq older load reply]
  rfl

theorem State.remoteReply_slices {p : PendRes} {r : RemoteLoad} (clean : s.eccClean = true)
    (passes : s.piecesCheck .gallery false false r.pieces = (none, s)) (slices : ∀ q ∈ r.pieces, q.1 < 0x54000000) :
    s.remoteReply p r =
      ({ p with rld := none, val := le (r.pieces.flatMap fun q => s.bytes q.1 q.2) * 2 ^ (8 * r.pos) }, s) := by
  simp only [State.remoteReply, passes, State.readPieces_clean clean 1 r.pieces fun q hq => inDdr_slice (slices q hq),
    Nat.shiftLeft_eq]

end

/-! ### Accumulation of a row (R43, R71, R75) -/

theorem sx_mod (v : Nat) : sx 32 (v % 2 ^ 32) = sx 32 v := by simp only [sx, Nat.mod_mod]

theorem sx_lowBits {v : Int} (low : -2147483648 ≤ v) (high : v ≤ 2147483647) : sx 32 (lowBits 32 v) = v := by
  unfold sx lowBits
  dsimp only
  split <;> omega

theorem clampI_eq {lo hi : Int} (h : lo ≤ hi) (v : Int) : clampI lo hi v = max lo (min hi v) := by
  unfold clampI
  split
  · omega
  · split <;> omega

theorem testBit_bit (b : Bool) : ((Engine.writeRow.bit b) % 2 ^ 1).testBit 0 = b := by cases b <;> rfl

/-- What a row of single columns holds after a write. -/
theorem Engine.writeRow_columns (x : Engine) {w : RowWrite} (single : w.pair = false) {i : Nat} (hi : i < 256) :
    let r := x.acmRow w.row
    let old := elemOf 32 (x.rowData { r with fmt := if r.tag = 0 then r.fmt else w.fmt }) i
    let keep := !(w.ring && r.tag == 0)
    let a := accumulate w.fmt w.neg keep old (w.sums.getD i 0)
    elemOf 32 (x.writeRow w).data i = (if w.mask.testBit i then a.1 else old) % 2 ^ 32 ∧
      (x.writeRow w).sat.testBit i = if w.mask.testBit i then a.2 || (keep && r.satBits.testBit i) else r.satBits.testBit i := by
  intro r old keep a
  have one (v : Nat) : (v / 2 ^ i % 2 = 1) ↔ v.testBit i = true := by rw [← div_two_pow_mod_two, beq_iff_eq]
  constructor
  · simp only [Engine.writeRow, single, Bool.false_eq_true, if_false]
    rw [elemOf_pack (by decide), List.map_map, getD_map_range hi]
    simp only [Function.comp_apply, getD_unpack hi, one]
    split <;> rfl
  · simp only [Engine.writeRow, single, Bool.false_eq_true, if_false]
    rw [testBit_pack (by decide), List.map_map, Nat.div_one, getD_map_range hi]
    simp only [Function.comp_apply, getD_unpack hi, one]
    rw [Nat.mod_one, testBit_bit]
    split
    · simp only [div_two_pow_mod_two]
      rfl
    · exact div_two_pow_mod_two ..

/-- R43, R71, R75: a row of INT32 sums. -/
theorem Engine.writeRow_i32 (x : Engine) {w : RowWrite} {i : Nat} (fmt : w.fmt = .i32) (single : w.pair = false)
    (ring : w.ring = false) (neg : w.neg = false) (hi : i < 256) (held : (x.acmRow w.row).fmt = .i32) :
    (w.mask.testBit i = true → sx 32 (elemOf 32 (x.writeRow w).data i) =
      max (-2147483648) (min 2147483647 (sx 32 (elemOf 32 (x.rowData (x.acmRow w.row)) i) + w.sums.getD i 0))) ∧
    (w.mask.testBit i = false →
      elemOf 32 (x.writeRow w).data i = elemOf 32 (x.rowData (x.acmRow w.row)) i ∧
        (x.writeRow w).sat.testBit i = ((x.acmRow w.row).tag == 0 && (x.acmRow w.row).sat.testBit i)) := by
  have same : { x.acmRow w.row with fmt := if (x.acmRow w.row).tag = 0 then (x.acmRow w.row).fmt else .i32 } =
      x.acmRow w.row := by
    rw [← held, ite_self]
  obtain ⟨data, sat⟩ := x.writeRow_columns single hi
  simp only [same, fmt, neg, ring, accumulate, Bool.false_and, Bool.not_false, if_true, Bool.false_eq_true, if_false] at data sat
  refine ⟨fun on => ?_, fun off => ?_⟩
  · rw [data, if_pos on, sx_mod]
    simp only [accInt]
    rw [clampI_eq (by decide)]
    exact sx_lowBits (by omega) (by omega)
  · rw [data, sat, if_neg (by simp [off]), if_neg (by simp [off]), Nat.mod_eq_of_lt (elemOf_lt ..)]
    refine ⟨rfl, ?_⟩
    rw [AcmRow.satBits]
    by_cases valid : (x.acmRow w.row).tag = 0 <;> simp [valid]

/-! ### Bank conflicts (R187, R188) -/

theorem bankRun_nil (c0 n t : Nat) (b : BankRun) : bankRun c0 n t b [] = b := by
  cases n <;> rfl

/-- One request is granted at once. -/
theorem bankRun_one (c0 n t : Nat) (b : BankRun) (q : BankReq) :
    (bankRun c0 (n + 1) t b [q]).stall = if ownAccess q then t else b.stall := by
  simp [bankRun, bankPick, bankRun_nil]

/-- Of two requests that meet in the first cycle the one of higher precedence is granted, the other waits a cycle. -/
theorem bankRun_two (c0 : Nat) (b : BankRun) (p q : BankReq) :
    (bankRun c0 2 0 b [p, q]).stall =
      if rankLt (bankRank 0 (agedOk c0 16 b.remote) (agedOk c0 4096 b.scrub) q)
          (bankRank 0 (agedOk c0 16 b.remote) (agedOk c0 4096 b.scrub) p) then
        if ownAccess p then 1 else if ownAccess q then 0 else b.stall
      else if ownAccess q then 1 else if ownAccess p then 0 else b.stall := by
  generalize higher : rankLt (bankRank 0 (agedOk c0 16 b.remote) (agedOk c0 4096 b.scrub) q)
    (bankRank 0 (agedOk c0 16 b.remote) (agedOk c0 4096 b.scrub) p) = second
  have pick : bankPick 0 (agedOk c0 16 b.remote) (agedOk c0 4096 b.scrub) [p, q] = some (if second then q else p) := by
    simp only [bankPick, higher]
    split <;> rfl
  rw [bankRun, if_neg (by simp)]
  simp only [Nat.add_zero, pick]
  cases second with
  | false => simp only [Bool.false_eq_true, if_false, List.erase_cons_head, bankRun_one]
  | true =>
    by_cases same : p = q
    · subst same
      simp only [if_true, List.erase_cons_head, bankRun_one]
    · have left : [p, q].erase q = [p] := by rw [List.erase_cons_tail (by simpa using same), List.erase_cons_head]
      simp only [if_true, left, bankRun_one]

/-- Precedence of an own access lies between those of aged and of other remote accesses. -/
theorem bankRank_own {q : BankReq} (own : ownAccess q = true) (t : Nat) (ra sa : Bool) :
    3 ≤ (bankRank t ra sa q).1 ∧ (bankRank t ra sa q).1 ≤ 6 := by
  obtain ⟨cls, line⟩ := q
  cases cls with
  | reserved => cases own
  | remote w => cases own
  | scrub w => cases own
  | _ => simp [bankRank]

section
variable {s : State} {e : Nat}

/-- What the arbitration leaves of the device: the cycles of the last aged grants. -/
theorem State.bankCycle_frame (s : State) (e : Nat) (reqs : List BankReq) : (s.bankCycle e reqs).2 = { s with
    gesso := { s.gesso with
      agedRemote := (s.bankCycle e reqs).2.gesso.agedRemote, agedScrub := (s.bankCycle e reqs).2.gesso.agedScrub } } := by
  simp only [State.bankCycle]
  refine List.foldlRecOn (motive := fun t : State => t = { s with
    gesso := { s.gesso with agedRemote := t.gesso.agedRemote, agedScrub := t.gesso.agedScrub } }) _ _ rfl fun t ht b _ => ?_
  rw [ht]

theorem State.eng_bankCycle (s : State) (e : Nat) (reqs : List BankReq) (f : Nat) : (s.bankCycle e reqs).2.eng f = s.eng f := by
  rw [s.bankCycle_frame e reqs]
  rfl

theorem State.rget_bankCycle (s : State) (e : Nat) (reqs : List BankReq) (r : Reg) :
    (s.bankCycle e reqs).2.rget r = s.rget r := by
  rw [s.bankCycle_frame e reqs]
  rfl

theorem State.regs_bankCycle (s : State) (e : Nat) (reqs : List BankReq) : (s.bankCycle e reqs).2.regs = s.regs := by
  rw [s.bankCycle_frame e reqs]

theorem foldl_max_zero {l : List Nat} (h : ∀ k ∈ l, k = 0) : l.foldl max 0 = 0 :=
  List.foldlRecOn (motive := (· = 0)) l max rfl fun k hk j hj => by rw [hk, h j hj, Nat.max_self]

/-- Accesses to different banks stall nothing. -/
theorem State.bankCycle_nodup {reqs : List BankReq} (h : (reqs.map fun q => lineBank e q.line).Nodup) :
    (s.bankCycle e reqs).1 = 0 := by
  refine foldl_max_zero fun k hk => ?_
  obtain ⟨b, -, rfl⟩ := List.mem_map.1 hk
  have alone : (reqs.filter fun q => lineBank e q.line == b).length ≤ 1 := by
    rw [← List.countP_eq_length_filter]
    have := List.nodup_iff_count_le_one.1 h b
    rwa [List.count_eq_countP, List.countP_map] at this
  rw [State.bankAt]
  match hl : reqs.filter fun q => lineBank e q.line == b with
  | [] => rw [hl, bankRun_nil]
  | [q] =>
    cases reqs with
    | nil => cases hl
    | cons r reqs =>
      rw [hl, List.length_cons, bankRun_one]
      split <;> rfl
  | _ :: _ :: _ =>
    rw [hl] at alone
    simp at alone

theorem State.bankCycle_pair {p q : BankReq} (same : lineBank e p.line = lineBank e q.line) :
    (s.bankCycle e [p, q]).1 = (bankRun (s.eng e).clk 2 0
      ⟨0, mfind s.gesso.agedRemote (e * 448 + lineBank e p.line), mfind s.gesso.agedScrub (e * 448 + lineBank e p.line)⟩
      [p, q]).stall := by
  simp [State.bankCycle, same, List.eraseDups_cons, State.bankAt]

theorem State.bankCycle_own {p q : BankReq} (same : lineBank e p.line = lineBank e q.line) (first : ownAccess p = true)
    (second : ownAccess q = true) : (s.bankCycle e [p, q]).1 = 1 := by
  rw [State.bankCycle_pair same, bankRun_two, first, second]
  simp

theorem State.bankCycle_remote {p q : BankReq} (same : lineBank e p.line = lineBank e q.line) (own : ownAccess p = true)
    {w : Nat} (remote : q.cls = .remote w) (aged : 16 ≤ w) :
    (s.bankCycle e [p, q]).1 =
      if agedOk (s.eng e).clk 16 (mfind s.gesso.agedRemote (e * 448 + lineBank e p.line)) = true then 1 else 0 := by
  have other : ownAccess q = false := by simp [ownAccess, remote]
  rw [State.bankCycle_pair same, bankRun_two, own, other]
  simp only [if_true, Bool.false_eq_true, if_false]
  generalize agedOk (s.eng e).clk 16 _ = ra
  generalize agedOk (s.eng e).clk 4096 _ = sa
  obtain ⟨low, high⟩ := bankRank_own own 0 ra sa
  cases ra with
  | true =>
    have rank : bankRank 0 true sa q = (1, 0) := by simp [bankRank, remote, aged]
    have first : rankLt (bankRank 0 true sa q) (bankRank 0 true sa p) = true :=
      decide_eq_true (.inl (Nat.lt_of_lt_of_le (by rw [rank]; decide) low))
    rw [first]
  | false =>
    have rank : bankRank 0 false sa q = (7, 2 ^ 32 - w) := by simp [bankRank, remote]
    have last : rankLt (bankRank 0 false sa q) (bankRank 0 false sa p) = false := by
      refine decide_eq_false ?_
      rw [rank]
      show ¬ (7 < _ ∨ 7 = _ ∧ _)
      omega
    rw [last]

end

theorem execBankGrant_grants {s : State} {ne : Fin 6} (reqs : List BankReq) (running : s.tripped = false)
    (live : (s.eng ne.val).run = .issuing ∨ (s.eng ne.val).run = .ending) {k : Nat} (hk : k = (s.bankCycle ne.val reqs).1) :
    exec (.bankGrant ne reqs) s = .next (((s.bankCycle ne.val reqs).2.setEng ne.val { s.eng ne.val with
      stBank := ((s.eng ne.val).stBank + k) % 2 ^ 64, elapsed := (s.eng ne.val).elapsed + k
      clk := (s.eng ne.val).clk + k, noIssue := (s.eng ne.val).noIssue + k }).suppress ne.val k) := by
  subst hk
  exact congrArg Host.Outcome.next (if_pos ⟨running, live⟩)

/-- Pulses suppressed in a droop are counted, and nothing else changes. -/
theorem State.suppress_frame (s : State) (e n : Nat) : s.onlyRegs (s.suppress e n) [.pmcNeDroop e] ∧
    ((s.eng e).droop = true → (s.suppress e n).rget (.pmcNeDroop e) = (s.rget (.pmcNeDroop e) + n) % 2 ^ 64) := by
  unfold State.suppress
  split
  · refine ⟨State.onlyRegs_rinc (by simp) .., fun _ => ?_⟩
    rw [State.rinc_eq, State.rget_rset_same, Nat.mod_mod]
  · next steady => exact ⟨State.onlyRegs_refl .., fun droop => absurd droop steady⟩

/-! ### The obligation -/

/-- Settles O12: the events by the cycles that pass before them, the row by its columns, the banks by the order of their
grants. -/
theorem drainingEffects : Obligations.DrainingEffects := by
  refine ⟨fun s ne x hx => ?_, fun x w i fmt single ring neg hi held => ⟨rfl, x.writeRow_i32 fmt single ring neg hi held⟩,
    fun s ne reqs k hk live running => ?_⟩
  · subst hx
    refine ⟨fun d => execResultWrite_due, fun d => execOwnStorePerformed_due, fun d => execAcmRowWrite_due, execResultWrite_none,
      execOwnStorePerformed_none, execAcmRowWrite_none, fun late => execRldReply_none late,
      fun l m p q r u pend older load reply => execRldReply_answers pend older load reply,
      fun p k running quiet pend fault rld later hk => ?_, fun st running clean quiet stores later slice admits => ?_,
      fun st running quiet stores later refused => execOwnStorePerformed_refused running quiet stores later refused,
      fun w running quiet rows ops ring later => ?_, fun p r clean steady pend load passes slices => ?_⟩
    · exact ⟨_, execResultWrite_lands running quiet pend fault rld later hk, s.onlyEngine_setEng ne.val _,
        s.eng_setEng_same ne.val _⟩
    · refine ⟨_, execOwnStorePerformed_admitted running quiet stores later clean slice admits, State.eng_setEng_same .., rfl,
        fun f hf => State.eng_setEng_other _ hf _, fun a outside => s.byte_setBytes_outside outside, fun i hi => ?_⟩
      rw [State.byte_setEng, s.byte_setBytes_inside hi, List.getElem?_eq_getElem hi]
    · refine ⟨_, _, execAcmRowWrite_writes running quiet rows ring later, s.onlyEngine_setEng ne.val _,
        s.eng_setEng_same ne.val _, rfl, mget_minsert_same .., fun r hr => mget_minsert_other _ hr ..⟩
    · have reply := execRldReply_answers (l := []) pend (by simp) load (s.remoteReply_slices (p := p) clean passes slices)
      rw [State.suppress_none (by rw [State.eng_modEng_same]; exact steady)] at reply
      exact ⟨_, reply, s.modEng_onlyEngine ne.val _, s.eng_modEng_same ne.val _⟩
  · have frame := s.bankCycle_frame ne.val reqs
    refine ⟨_, execBankGrant_grants reqs running live hk, ?_⟩
    generalize hy : ({ s.eng ne.val with
      stBank := ((s.eng ne.val).stBank + k) % 2 ^ 64, elapsed := (s.eng ne.val).elapsed + k
      clk := (s.eng ne.val).clk + k, noIssue := (s.eng ne.val).noIssue + k } : Engine) = y
    have droop : (((s.bankCycle ne.val reqs).2.setEng ne.val y).eng ne.val).droop = (s.eng ne.val).droop := by
      rw [State.eng_setEng_same, ← hy]
    obtain ⟨⟨only, others⟩, counted⟩ := ((s.bankCycle ne.val reqs).2.setEng ne.val y).suppress_frame ne.val k
    refine ⟨fun q hq => (others q hq).trans (s.rget_bankCycle ne.val reqs q),
      fun on => (counted (droop.trans on)).trans (by rw [State.rget_setEng, s.rget_bankCycle ne.val reqs]),
      fun off => ?_, ?_, fun f hf => ?_, ?_, fun apart => ?_, ?_⟩
    · rw [State.suppress_none (droop.trans off)]
      exact s.regs_bankCycle ne.val reqs
    · generalize (s.bankCycle ne.val reqs).2 = v at frame only
      generalize (v.setEng ne.val y).suppress ne.val k = t at only
      rw [only, frame]
      rfl
    · rw [only]
      exact (State.eng_setEng_other _ hf y).trans (s.eng_bankCycle ne.val reqs f)
    · rw [only]
      exact State.eng_setEng_same ..
    · rw [hk, State.bankCycle_nodup apart]
    · rintro a b rfl same own
      exact ⟨fun own' => hk.trans (State.bankCycle_own same own own'), fun w remote aged =>
        hk.trans (State.bankCycle_remote same own remote aged)⟩

end Sys2Proof.Machine

/-! SUPPORT. FQPOP, RACQ, RREL, BIASLD and PALWR (R72, R131, R132, R219, R228, Table 5.8). -/
namespace Sys2Proof.Machine

open Sys2Proof

-- one proof after the other: a thread for each would need too much memory
set_option Elab.async false

/-! ### Slots that read no register -/

theorem Engine.noteReads_nil (x : Engine) : x.noteReads [] = x := by simp [Engine.noteReads]

theorem State.eng_noteReads_nil (s : State) (e : Nat) : (s.modEng e fun x => x.noteReads []).eng e = s.eng e := by
  rw [State.eng_modEng_same, Engine.noteReads_nil]

/-- A slot that issues with its checks passed, reads no register, and whose effect gives the state `t`. -/
theorem issue_noReads {h : Issue} {sl : Slot} {chk : State → Option AccErr} {eff : State → State} {s t : State}
    (ready : issues h s) (pass : chk (started h s) = none) (effect : eff (started h s) = t) :
    issue h sl [] chk eff s = t.modEng h.ne.val fun x => x.noteReads [] := by
  rw [issue_ready ready pass, effect]

/-! ### Fetch queues (R131, R219) -/

section
variable {s : State} {e q : Nat} {c : FqEnt} {rest : List FqEnt}

/-- The engine once the head entry `c` of queue `q` is popped into VD, with `rest` behind it. -/
def Engine.popped (x : Engine) (q vd : Nat) (c : FqEnt) (rest : List FqEnt) : Engine :=
  { x with
    fqs := minsert q (FetchQ.settle { x.fq q with ents := rest, ret := (x.fq q).ret + 1 }) x.fqs
    pend := x.pend ++ [x.result 4 (.vreg vd) (maskAt 0 (512 * 2 ^ (x.fq q).esz)) (le c.data)] }

theorem Engine.popBad_ready {x : Engine} (cancelling : (x.fq q).state ≠ 3) (cancelled : (x.fq q).state ≠ 4)
    (head : (x.fq q).ents = c :: rest) (ready : c.st = .ready) : x.popBad q = none := by
  simp [Engine.popBad, cancelling, cancelled, head, ready]

theorem State.popFq_ready (vd : Nat) (issuing : (s.eng e).run = .issuing) (free : (s.eng e).endHold = false)
    (head : ((s.eng e).fq q).ents = c :: rest) (ready : c.st = .ready) :
    (s.popFq e q vd).eng e = (s.eng e).popped q vd c rest ∧ (s.popFq e q vd).mem = s.mem ∧
      (s.popFq e q vd).regs = s.regs ∧ (s.popFq e q vd).rings = s.rings := by
  have goesOn : ((s.eng e).endHold || (s.eng e).run == .ending) = false := by rw [free, issuing]; rfl
  have engine : Engine.put { s.eng e with
      run := .issuing
      endHold := false
      fqs := minsert q (FetchQ.settle { (s.eng e).fq q with ents := rest, ret := ((s.eng e).fq q).ret + 1 }) (s.eng e).fqs }
      4 (.vreg vd) (maskAt 0 (512 * 2 ^ ((s.eng e).fq q).esz)) (le c.data) = (s.eng e).popped q vd c rest := by
    rw [Engine.put_vreg, Engine.popped, ← issuing, ← free]
    rfl
  simp only [State.popFq, head, ready, goesOn, Bool.false_eq_true, if_true, if_false, engine]
  split <;> exact ⟨State.eng_setEng_same .., rfl, rfl, rfl⟩

end

/-! ### Frame rings (R131, R228) -/

section
variable {s : State} {e j r i : Nat} {k : Task}

/-- The engine once it holds a slot of ring `r` as the producer, whose handle `v` it will find in SD. -/
def Engine.acquired (x : Engine) (r sd v : Nat) : Engine :=
  { x with
    held := x.held ++ [(r, 0, .producer)]
    pend := x.pend ++ (if sd = 0 then [] else [x.result 4 (.sreg sd) allS v]) }

/-- A ring whose producer holds slot `i`. -/
def State.prodHolds (s : State) (r i : Nat) (holder : Holder) : State :=
  s.setRing r { s.ring r with prod := some ⟨i, holder⟩ }

theorem State.ring_prodHolds (s : State) (r i : Nat) (holder : Holder) :
    (s.prodHolds r i holder).ring r = { s.ring r with prod := some ⟨i, holder⟩ } :=
  (s.ring_setRing r r _).trans (if_pos rfl)

theorem State.prodAcquire_free (holder : Holder) (enabled : (s.ring r).state = 1) (port : (s.ring r).prod = none)
    (hi : i = (s.ring r).pseq % s.ringSlots r) (slot : (s.ring r).free i = true) :
    s.prodAcquire r holder = some (i, s.prodHolds r i holder) := by
  subst hi
  exact if_pos ⟨enabled, port, slot⟩

theorem State.keepRing_snaps (s : State) (e r : Nat) (x : Ring) : ∃ l, s.keepRing e r x = { s with snaps := l } := by
  unfold State.keepRing
  split <;> exact ⟨_, rfl⟩

theorem State.tryRacq_producer (sd : Nat) (task : (s.eng e).task = some k) (issuing : (s.eng e).run = .issuing)
    (free : (s.eng e).endHold = false) (hr : r = ((s.eng e).ringOp j).1) (enabled : (s.ring r).state = 1)
    (port : (s.ring r).prod = none) (hi : i = (s.ring r).pseq % s.ringSlots r) (slot : (s.ring r).free i = true) :
    ∃ t, s.tryRacq e j sd .producer = some t ∧ t.ring r = { s.ring r with prod := some ⟨i, .task k.id⟩ } ∧
      t.eng e = (s.eng e).acquired r sd (s.slotVa r i % 2 ^ 48 + i * 2 ^ 48) ∧ t.mem = s.mem ∧ t.regs = s.regs := by
  subst hr
  have goesOn : ((s.eng e).endHold || (s.eng e).run == .ending) = false := by rw [free, issuing]; rfl
  obtain ⟨l, kept⟩ := (s.prodHolds ((s.eng e).ringOp j).1 i (.task k.id)).keepRing_snaps e ((s.eng e).ringOp j).1
    (s.ring ((s.eng e).ringOp j).1)
  have engine (v : Nat) : { s.eng e with
      run := .issuing
      endHold := false
      task := some k
      held := (s.eng e).held ++ [(((s.eng e).ringOp j).1, 0, .producer)]
      pend := if sd = 0 then (s.eng e).pend
        else (s.eng e).pend ++ [⟨(s.eng e).cyc, (s.eng e).cyc + 4, .sreg sd, 2 ^ 64 - 1, v, none, none, true⟩] } =
      (s.eng e).acquired ((s.eng e).ringOp j).1 sd v := by
    rw [Engine.acquired, ← issuing, ← free, ← task]
    by_cases null : sd = 0
    · rw [if_pos null, if_pos null, List.append_nil]
    · rw [if_neg null, if_neg null]
      rfl
  simp only [State.tryRacq, task, State.prodAcquire_free _ enabled port hi slot, kept, goesOn, Bool.false_eq_true, if_false]
  exact ⟨_, rfl, s.ring_prodHolds .., (State.eng_setEng_same ..).trans (engine _), rfl, rfl⟩

end

/-! ### Bias buffers and palettes (R72, R132) -/

theorem Engine.biasCount_eq_zero {x : Engine} {b : Nat} : x.biasCount b = 0 ↔ ∀ r ∈ x.acm, r.2.tag ≠ 4 + b := by
  simp [Engine.biasCount]

theorem elemOf_mod {i n : Nat} (h : i < n) (w v : Nat) : elemOf w (v % 2 ^ (w * n)) i = elemOf w v i := by
  apply Nat.eq_of_testBit_eq
  intro k
  rw [testBit_elemOf, testBit_elemOf, Nat.testBit_mod_two_pow]
  by_cases hk : k < w
  · have top : w * (i + 1) ≤ w * n := Nat.mul_le_mul_left w h
    have inside : w * i + k < w * n := by rw [Nat.mul_succ] at top; omega
    simp [inside]
  · simp [hk]

theorem elemOf_shiftRight (w v a i : Nat) : elemOf w (v >>> (w * a)) i = elemOf w v (a + i) := by
  rw [elemOf, elemOf, Nat.shiftRight_eq_div_pow, Nat.div_div_eq_div_mul, ← Nat.pow_add, ← Nat.mul_add]

/-- Element `i` of part `q` of a register that is cut into parts of `n` elements, `b` bits each. -/
theorem elemOf_part {w n b i : Nat} (hb : b = w * n) (h : i < n) (v q : Nat) :
    elemOf w (v >>> (b * q) % 2 ^ b) i = elemOf w v (n * q + i) := by
  rw [hb, elemOf_mod h, Nat.mul_assoc, elemOf_shiftRight]

/-! ### The instructions -/

section
variable {h : Issue} {s : State}

theorem execFqpop_pops {vd : Fin 32} {q : Fin 8} {c : FqEnt} {rest : List FqEnt} (ready : issues h s)
    (order : (issuer h s).inOrder 4 (.vreg vd.val) allV) (cancelling : ((issuer h s).fq q.val).state ≠ 3)
    (cancelled : ((issuer h s).fq q.val).state ≠ 4) (head : ((issuer h s).fq q.val).ents = c :: rest) (full : c.st = .ready)
    (issuing : (issuer h s).run = .issuing) (free : (issuer h s).endHold = false) :
    ∃ t, exec (.fqpop h vd q) s = .next t ∧ t.eng h.ne.val = (issuer h s).popped q.val vd.val c rest ∧
      t.mem = (started h s).mem ∧ t.regs = (started h s).regs ∧ t.rings = (started h s).rings := by
  obtain ⟨engine, mem, regs, rings⟩ := State.popFq_ready (s := started h s) vd.val issuing free head full
  have pass : worst [(issuer h s).order 4 (.vreg vd.val) allV, (issuer h s).popBad q.val] = none := by
    rw [Engine.order_none order, Engine.popBad_ready cancelling cancelled head full]
    rfl
  exact ⟨_, congrArg Host.Outcome.next (issue_noReads ready pass rfl), (State.eng_noteReads_nil ..).trans engine, mem, regs,
    rings⟩

theorem execRacq_acquires {sd : Fin 64} {rng : Fin 8} {role : Role} {t : State} (ready : issues h s)
    (order : (issuer h s).inOrder 4 (.sreg sd.val) allS) (use : (started h s).ringMisuse h.ne.val rng.val role true = false)
    (acquire : (started h s).tryRacq h.ne.val rng.val sd.val role = some t) :
    exec (.racq h sd rng role) s = .next (t.modEng h.ne.val fun x => x.noteReads []) := by
  have pass : worst [(issuer h s).order 4 (.sreg sd.val) allS,
      if (started h s).ringMisuse h.ne.val rng.val role true then some ⟨stBound, 8, rng.val⟩ else none] = none := by
    rw [Engine.order_none order, use]
    rfl
  exact congrArg Host.Outcome.next (issue_noReads ready pass (by simp only [acquire]))

theorem execRacq_producer {sd : Fin 64} {rng : Fin 8} {k : Task} {r i : Nat} (ready : issues h s)
    (order : (issuer h s).inOrder 4 (.sreg sd.val) allS) (task : (issuer h s).task = some k)
    (issuing : (issuer h s).run = .issuing) (free : (issuer h s).endHold = false)
    (hr : r = ((issuer h s).ringOp rng.val).1) (use : (started h s).ringMisuse h.ne.val rng.val .producer true = false)
    (enabled : ((started h s).ring r).state = 1) (port : ((started h s).ring r).prod = none)
    (hi : i = ((started h s).ring r).pseq % (started h s).ringSlots r) (slot : ((started h s).ring r).free i = true) :
    ∃ t, exec (.racq h sd rng .producer) s = .next t ∧
      t.ring r = { (started h s).ring r with prod := some ⟨i, .task k.id⟩ } ∧
      t.eng h.ne.val = (issuer h s).acquired r sd.val ((started h s).slotVa r i % 2 ^ 48 + i * 2 ^ 48) ∧
      t.mem = (started h s).mem ∧ t.regs = (started h s).regs := by
  obtain ⟨t, acquire, ring, engine, mem, regs⟩ :=
    State.tryRacq_producer (s := started h s) sd.val task issuing free hr enabled port hi slot
  exact ⟨_, execRacq_acquires ready order use acquire, ring, (State.eng_noteReads_nil ..).trans engine, mem, regs⟩

theorem execRrel_turns {rng : Fin 8} {role : Role} (ready : issues h s)
    (use : (started h s).ringMisuse h.ne.val rng.val role false = false) :
    ∃ t, exec (.rrel h rng role) s = .next t ∧ turns h s t { issuer h s with
      held := (issuer h s).held.filter
        (· ≠ (((issuer h s).ringOp rng.val).1, portOf ((issuer h s).ringOp rng.val).2 role, role))
      syncs := (issuer h s).syncs ++ [⟨(issuer h s).cyc,
        .release ((issuer h s).ringOp rng.val).1 (portOf ((issuer h s).ringOp rng.val).2 role) role⟩] } := by
  have pass : worst [if (started h s).ringMisuse h.ne.val rng.val role false then some ⟨stBound, 8, rng.val⟩ else none] =
      none := by
    rw [use]
    rfl
  exact ⟨_, rfl, turns_issue ready pass rfl⟩

theorem execBiasld_owes {bb : Fin 4} {vs : Fin 32} {lq : Fin 4} (ready : issues h s) (src : (issuer h s).readyV vs.val)
    (order : (issuer h s).inOrder 2 (.bias bb.val) (maskAt 0 8192)) (unused : (issuer h s).biasCount bb.val = 0) :
    ∃ t, exec (.biasld h bb vs lq) s = .next t ∧ owes h s t [(issuer h s).result 2 (.bias bb.val) (maskAt 0 8192)
      ((issuer h s).vreg vs.val >>> (8192 * lq.val) % 2 ^ 8192)] := by
  have pass : worst [(issuer h s).needV vs.val, (issuer h s).order 2 (.bias bb.val) (maskAt 0 8192),
      if (issuer h s).biasCount bb.val = 0 then none else hazard 8 bb.val] = none := by
    rw [Engine.needV_none.2 src, Engine.order_none order, if_pos unused]
    rfl
  exact ⟨_, rfl, owes_issue ready pass (Engine.put_eq ..)⟩

theorem execPalwr_owes {ps : Fin 64} {tag : Format} {vs : Fin 32} {e0 : BitVec 8} {cnt : BitVec 9} (ready : issues h s)
    (wf : Instr.wf (.palwr h ps tag vs e0 cnt) = true) (src : (issuer h s).readyV vs.val)
    (order : (issuer h s).inOrder 2 (.pal ps.val (fmtCode tag)) (maskAt (16 * e0.toNat) (16 * cnt.toNat))) :
    ∃ t, exec (.palwr h ps tag vs e0 cnt) s = .next t ∧ owes h s t [(issuer h s).result 2 (.pal ps.val (fmtCode tag))
      (maskAt (16 * e0.toNat) (16 * cnt.toNat)) (((issuer h s).vreg vs.val % 2 ^ (16 * cnt.toNat)) <<< (16 * e0.toNat))] := by
  have pass : worst [(issuer h s).needV vs.val,
      (issuer h s).order 2 (.pal ps.val (fmtCode tag)) (maskAt (16 * e0.toNat) (16 * cnt.toNat))] = none := by
    rw [Engine.needV_none.2 src, Engine.order_none order]
    rfl
  exact ⟨_, wfOr_wf wf _, owes_issue ready pass (Engine.put_eq ..)⟩

end

/-! ### The obligation -/

/-- Settles O6: each instruction issues with its checks passed, and its engine becomes what its effect makes of it. -/
theorem operandInstructions : Obligations.OperandInstructions := by
  refine ⟨fun h s ready => ⟨?_, ?_, ?_⟩, fun h s ready => ⟨?_, ?_⟩⟩
  · rintro vd q f c rest order rfl cancelling cancelled head full issuing free
    obtain ⟨t, next, engine, mem, regs, rings⟩ := execFqpop_pops ready order cancelling cancelled head full issuing free
    exact ⟨t, _, next, engine, Engine.resultFor_result .., rfl, rfl, mem, regs, rings⟩
  · intro sd rng k r i order task issuing free hr use enabled port hi slot
    obtain ⟨t, next, ring, engine, mem, regs⟩ := execRacq_producer ready order task issuing free hr use enabled port hi slot
    refine ⟨t, next, by rw [ring], by rw [ring], ?_, mem, regs⟩
    rw [engine, Engine.acquired]
    simp only [Fin.ext_iff, Fin.val_zero]
  · intro rng role use
    obtain ⟨t, next, turned⟩ := execRrel_turns ready use
    exact ⟨t, _, next, rfl, turned⟩
  · intro bb vs lq src order untagged
    obtain ⟨t, next, owed⟩ := execBiasld_owes (lq := lq) ready src order (Engine.biasCount_eq_zero.2 untagged)
    refine ⟨t, _, next, owed, Engine.resultFor_result .., fun i hi => ?_⟩
    exact elemOf_part (w := 32) (n := 256) (b := 8192) rfl hi ..
  · intro ps tag vs e0 cnt isTag nonempty fits src order
    have wf : Instr.wf (.palwr h ps tag vs e0 cnt) = true := by simp [Instr.wf, isTag, nonempty, fits]
    obtain ⟨t, next, owed⟩ := execPalwr_owes ready wf src order
    refine ⟨t, _, next, owed, Engine.resultFor_result .., fun old i => ?_⟩
    rw [Engine.result, elemOf_blend_maskAt (by decide)]
    split
    · next inside => rw [elemOf_shiftLeft inside.1, elemOf_mod (by omega)]
    · rfl

end Sys2Proof.Machine

/-! SUPPORT. Issue of a Canvas instruction: the outcome of its checks, the rows that it tags, and its faults (R70, R71, R104,
R107 to R109, R121, R125, R455). -/
namespace Sys2Proof.Machine

open Sys2Proof

-- one proof after the other: a thread for each would need too much memory
set_option Elab.async false

/-! ### A fault at issue (R104, R107, R109) -/

/-- The engine's command has ended with a fault of this status, sub-code and slot. -/
def Engine.faultsWith (x : Engine) (st sub slot : Nat) : Prop :=
  x.run = .ending ∧ x.faulted = true ∧ x.flt.status = st ∧ x.flt.sub = sub ∧ x.flt.slot = slot

theorem Engine.faultsWith.fqCancel {s : State} {e st sub slot : Nat} (h : (s.eng e).faultsWith st sub slot) (q : Nat) :
    ((s.fqCancel e q).eng e).faultsWith st sub slot := by
  unfold State.fqCancel
  dsimp only
  split
  · exact h
  · rw [State.rinc_eq, State.eng_rset, State.eng_setEng_same]
    exact h

theorem Engine.faultsWith.fqCancelAll {s : State} {e st sub slot : Nat} (h : (s.eng e).faultsWith st sub slot) :
    ((s.fqCancelAll e).eng e).faultsWith st sub slot :=
  List.foldlRecOn (motive := fun t : State => (t.eng e).faultsWith st sub slot) _ _ h fun _ faulted q _ => faulted.fqCancel q

theorem State.engStop_faultsWith (s : State) (e : Nat) (f : FaultRec) :
    ((s.engStop e f true).eng e).faultsWith f.status f.sub f.slot := by
  refine Engine.faultsWith.fqCancelAll ?_
  rw [State.eng_setEng_same]
  exact ⟨rfl, rfl, rfl, rfl, rfl⟩

/-- What a slot does when its bundle can issue and one of its checks fails. -/
theorem issue_faultsWith {h : Issue} {sl : Slot} {rd : List Dest} {chk : State → Option AccErr} {eff : State → State}
    {s : State} {a : AccErr} (ready : issues h s) (bad : chk (started h s) = some a) :
    ((issue h sl rd chk eff s).eng h.ne.val).faultsWith a.st a.sub (slotNo sl) := by
  obtain ⟨running, active, passed, can⟩ := ready
  have faults : issue h sl rd chk eff s = (started h s).issueFault h.ne.val sl a := by
    have here : (advance h.ne.val h.dt s).1 = reached h s := rfl
    have begun : (reached h s).openBundle h.ne.val = started h s := rfl
    simp [issue, running, active, passed, here, can, begun, bad]
  rw [faults]
  exact State.engStop_faultsWith ..

/-! ### The checks of R455 -/

theorem firstBad_fail (a : AccErr) (l : List (Option AccErr)) : firstBad (some a :: l) = some a := rfl

section
variable {x : Engine} {ne : Nat} {c : CmmWord} {w : CxWord} {o : CanvasOp}

/-- The C slot is free and the registers that the instruction names can be read. -/
def Engine.cmmReady (x : Engine) (c : CmmWord) (w : CxWord) : Prop :=
  x.cBusy ≤ x.cyc ∧ (∀ f ∈ [c.msz, c.ksz, c.nsz], ∀ r : Fin 64, f = .reg r → x.readyS r.val) ∧
    (c.ring = true → ∀ r : Fin 64, w.ringl = .reg r → x.readyS r.val) ∧ x.readyP w.maskp.val

/-- The instruction's window set, where it has one, passes its checks and gives an output. -/
def Engine.windowOk (x : Engine) (c : CmmWord) (w : CxWord) (o : CanvasOp) : Prop :=
  w.xwg = true → winBad c w.wgs.val o.k o.n (x.winField w.wgs.val) = none ∧
    0 < outH (x.winField w.wgs.val) ∧ 0 < outW (x.winField w.wgs.val)

/-- The palettes, the resident tile and the extents of the operand planes pass their checks. -/
def Engine.operandsOk (x : Engine) (c : CmmWord) (w : CxWord) (o : CanvasOp) : Prop :=
  palBad x c w = none ∧ reuseBad x c w o.k o.n = none ∧
    (c.reuse = false → x.planesBad c.sfmt c.complex w.wa.val (statShape c.sfmt o.k o.n).1 (statShape c.sfmt o.k o.n).2 = none) ∧
    (if w.xwg then x.winPlanesBad c (x.winField w.wgs.val) else x.planesBad c.xfmt c.complex w.xa.val o.m o.k) = none

theorem Engine.needS_rnSize {f : SizeField} (h : ∀ r : Fin 64, f = .reg r → x.readyS r.val) : x.needS (rnSize f) = none := by
  cases f with
  | imm v => exact Engine.needS_none.2 (.inl rfl)
  | reg r => exact Engine.needS_none.2 (h r rfl)

theorem Engine.needS_rnRing {f : RingLen} (h : ∀ r : Fin 64, f = .reg r → x.readyS r.val) : x.needS (rnRing f) = none := by
  cases f with
  | imm v => exact Engine.needS_none.2 (.inl rfl)
  | reg r => exact Engine.needS_none.2 (h r rfl)

/-- No hazard stops an instruction that is ready. -/
theorem Engine.cmmReady.hazards (h : x.cmmReady c w) : firstBad [
    if x.cyc < x.cBusy then hazard 6 0 else none, x.needS (rnSize c.msz), x.needS (rnSize c.ksz), x.needS (rnSize c.nsz),
    if c.ring then x.needS (rnRing w.ringl) else none, x.needP w.maskp.val] = none := by
  obtain ⟨free, sizes, ring, mask⟩ := h
  have length : (if c.ring then x.needS (rnRing w.ringl) else none) = none := by
    split
    · next on => exact Engine.needS_rnRing (ring on)
    · rfl
  rw [if_neg (Nat.not_lt.2 free), Engine.needS_rnSize (sizes _ (by simp)), Engine.needS_rnSize (sizes _ (by simp)),
    Engine.needS_rnSize (sizes _ (by simp)), length, Engine.needP_none.2 mask]
  rfl

theorem Engine.cmmPlan_busy (busy : x.cyc < x.cBusy) : x.cmmPlan ne c w = .error ⟨stHazard, 6, 0⟩ := by
  simp only [Engine.cmmPlan, if_pos busy, hazard, firstBad_fail]

theorem Engine.cmmPlan_empty (ready : x.cmmReady c w) (empty : (x.sample ne c w).m = 0 ∨ (x.sample ne c w).n = 0) :
    x.cmmPlan ne c w = .ok .empty := by
  simp only [Engine.cmmPlan, ready.hazards, if_pos empty]

theorem Engine.windowOk.pass (window : x.windowOk c w o) :
    (if w.xwg then winBad c w.wgs.val o.k o.n (x.winField w.wgs.val) else none) = none := by
  split
  · next on => exact (window on).1
  · rfl

section
variable (ready : x.cmmReady c w) (live : ¬ ((x.sample ne c w).m = 0 ∨ (x.sample ne c w).n = 0))
include ready live

/-- An instruction with K zero stops at the check of its ring length and footprint. -/
theorem Engine.cmmPlan_outside {a : AccErr} (dense : w.xwg = false) (nothing : (x.sample ne c w).k = 0)
    (outside : acmBad (x.sample ne c w) = some a) : x.cmmPlan ne c w = .error a := by
  simp only [Engine.cmmPlan, ready.hazards, if_neg live, dense, Bool.false_eq_true, if_false, if_pos nothing, outside,
    firstBad_fail]

theorem Engine.cmmPlan_tags (window : x.windowOk c w (x.sample ne c w)) (nothing : (x.sample ne c w).k = 0)
    (inside : acmBad (x.sample ne c w) = none) (free : x.tagHazard (x.sample ne c w) = none) :
    x.cmmPlan ne c w = .ok (.tags (x.sample ne c w)) := by
  simp only [Engine.cmmPlan, ready.hazards, if_neg live, window.pass, if_pos nothing, inside, free]
  rfl

theorem Engine.cmmPlan_run (window : x.windowOk c w (x.sample ne c w)) (reduces : (x.sample ne c w).k ≠ 0)
    (operands : x.operandsOk c w (x.sample ne c w)) (inside : acmBad (x.sample ne c w) = none)
    (free : x.tagHazard (x.sample ne c w) = none) : x.cmmPlan ne c w = .ok (.run (x.sample ne c w)) := by
  obtain ⟨palettes, tile, stationary, streaming⟩ := operands
  have stat : (if c.reuse then none else x.planesBad c.sfmt c.complex w.wa.val
      (statShape c.sfmt (x.sample ne c w).k (x.sample ne c w).n).1
      (statShape c.sfmt (x.sample ne c w).k (x.sample ne c w).n).2) = none := by
    split
    · rfl
    · next loads => exact stationary (Bool.not_eq_true _ ▸ loads)
  have output : ¬ (w.xwg = true ∧ (outH (x.winField w.wgs.val) ≤ 0 ∨ outW (x.winField w.wgs.val) ≤ 0)) := by
    rintro ⟨on, outputless⟩
    obtain ⟨-, height, width⟩ := window on
    omega
  simp only [Engine.cmmPlan, ready.hazards, if_neg live, window.pass, if_neg reduces, if_neg output, palettes, tile, stat,
    streaming, inside, free]
  rfl

end

/-! ### What the instruction samples (R70, R124) -/

theorem Engine.sample_words (x : Engine) (ne : Nat) (c : CmmWord) (w : CxWord) :
    (x.sample ne c w).cw = c ∧ (x.sample ne c w).cx = w := by
  unfold Engine.sample
  dsimp only
  split <;> exact ⟨rfl, rfl⟩

theorem Engine.sample_k (x : Engine) (ne : Nat) (c : CmmWord) (w : CxWord) : (x.sample ne c w).k = x.size c.ksz := by
  unfold Engine.sample
  dsimp only
  split <;> rfl

theorem Engine.sample_steps (x : Engine) (ne : Nat) (c : CmmWord) (w : CxWord) (ho : o = x.sample ne c w) :
    o.steps = if o.k = 0 then 8 else ceilDiv o.n 256 * ceilDiv o.k 256 * (o.loads * 256 + o.passes * o.strm1) := by
  subst ho
  by_cases nothing : x.size c.ksz = 0
  · rw [Engine.sample_k, if_pos nothing, Engine.sample]
    dsimp only
    rw [if_pos nothing]
  · rw [Engine.sample_k, if_neg nothing, ← x.sample_k ne c w]
    unfold Engine.sample
    dsimp only
    rw [if_neg nothing]
    rfl

/-- An instruction that stands: its plan tags its rows, adds it to those in progress, and occupies the C slot. -/
theorem Engine.cmmPlan_starts (ready : x.cmmReady c w) (ho : o = x.sample ne c w) (live : ¬ (o.m = 0 ∨ o.n = 0))
    (window : x.windowOk c w o) (operands : o.k ≠ 0 → x.operandsOk c w o) (inside : acmBad o = none)
    (free : x.tagHazard o = none) : ∃ p, x.cmmPlan ne c w = .ok p ∧
      x.startCmm p = { x.tagRows o with ops := x.ops ++ [o], cBusy := x.cyc + o.steps } := by
  have steps := x.sample_steps ne c w ho
  subst ho
  by_cases nothing : (x.sample ne c w).k = 0
  · refine ⟨_, Engine.cmmPlan_tags ready live window nothing inside free, ?_⟩
    rw [steps, if_pos nothing]
    rfl
  · exact ⟨_, Engine.cmmPlan_run ready live window nothing (operands nothing) inside free, rfl⟩

/-! ### Rows of the footprint (R71, R80, R81) -/

theorem mget_foldl_minsert_range {α : Type} (d : Nat → α) (b : Nat) (f : Nat → α) (n : Nat) (m : SMap α) (k : Nat) :
    mget d ((List.range n).foldl (fun m i => minsert (b + i) (f i) m) m) k =
      if b ≤ k ∧ k < b + n then f (k - b) else mget d m k := by
  induction n with
  | zero =>
    rw [if_neg (by omega)]
    rfl
  | succ n ih =>
    rw [List.range_succ, List.foldl_append, List.foldl_cons, List.foldl_nil]
    by_cases last : k = b + n
    · subst last
      rw [mget_minsert_same, if_pos (by omega), Nat.add_sub_cancel_left]
    · rw [mget_minsert_other _ last, ih]
      exact if_congr (by omega) rfl rfl

theorem Engine.tagRows_keep (keep : o.cw.init = .keep) : x.tagRows o = x := by
  have untagged (d : Nat) : initTag o d = none := by simp only [initTag, keep]
  simp only [Engine.tagRows, untagged, List.foldl_fixed]

theorem Engine.acmRow_tagRows {tag : Nat → Nat} (tags : ∀ d, initTag o d = some (tag d)) (r : Nat) :
    (x.tagRows o).acmRow r = if o.cx.acmb.toNat ≤ r ∧ r < o.cx.acmb.toNat + o.footprint then
      { x.acmRow r with
        tag := tag (r - o.cx.acmb.toNat), undr := false, fmt := accOf o.sfm
        half := if o.sfm = .int16 then (r - o.cx.acmb.toNat) % 2 else 0 }
      else x.acmRow r := by
  simp only [Engine.tagRows, tags]
  refine (mget_foldl_minsert_range ..).trans ?_
  by_cases inside : o.cx.acmb.toNat ≤ r ∧ r < o.cx.acmb.toNat + o.footprint
  · rw [if_pos inside, if_pos inside, Nat.add_sub_cancel' inside.1]
  · rw [if_neg inside, if_neg inside]
    rfl

theorem initTag_some (init : o.cw.init ≠ .keep) (d : Nat) : initTag o d = some ((initTag o d).getD 0) := by
  cases mode : o.cw.init with
  | keep => exact absurd mode init
  | zero => simp only [initTag, mode, Option.getD_some]
  | bias b => simp only [initTag, mode]; split <;> rfl

theorem initTag_zero (mode : o.cw.init = .zero) (d : Nat) : (initTag o d).getD 0 = 1 := by
  simp only [initTag, mode, Option.getD_some]

theorem initTag_bias {b : Fin 4} (mode : o.cw.init = .bias b) (d : Nat) :
    (initTag o d).getD 0 = if o.cw.complex = true ∧ ceilDiv o.n 256 * o.m ≤ d then 1 else 4 + b.val := by
  simp only [initTag, mode]
  exact apply_ite (fun tag : Option Nat => tag.getD 0) ..

/-- Where INIT is not KEEP, a row of the footprint takes the tag of the mode. -/
theorem Engine.acmRow_tagRows_init (init : o.cw.init ≠ .keep) (r : Nat) :
    ((x.tagRows o).acmRow r).data = (x.acmRow r).data ∧
    (((x.tagRows o).acmRow r).tag = if o.cx.acmb.toNat ≤ r ∧ r < o.cx.acmb.toNat + o.footprint then
      (initTag o (r - o.cx.acmb.toNat)).getD 0 else (x.acmRow r).tag) ∧
    ((x.tagRows o).acmRow r).undr =
      ((x.acmRow r).undr && !decide (o.cx.acmb.toNat ≤ r ∧ r < o.cx.acmb.toNat + o.footprint)) := by
  rw [Engine.acmRow_tagRows (initTag_some init)]
  split
  · next inside => simp [inside]
  · next outside => simp [outside]

theorem acmBad_outside (outside : if o.cw.ring then
      ¬ (o.ringl % 16 = 0 ∧ 16 ≤ o.ringl ∧ o.cx.acmb.toNat + o.ringl ≤ 4096)
    else 4096 < o.cx.acmb.toNat + o.footprint) : ∃ det, acmBad o = some ⟨stBound, 3, det⟩ := by
  by_cases ring : o.cw.ring = true
  · rw [if_pos ring] at outside
    refine ⟨o.ringl, ?_⟩
    rw [acmBad, if_pos ring, if_pos (by omega)]
  · rw [if_neg ring] at outside
    refine ⟨o.cx.acmb.toNat + o.footprint, ?_⟩
    rw [acmBad, if_neg ring, if_pos outside]

end

/-! ### The command -/

section
variable {h : Issue} {s : State} {c : CmmWord} {x : CxWord}

theorem cmm_wf (wf : cmmOk c x = true) (scatter : c.scat = true → 4 ≤ h.ne.val) :
    (cmmOk c x && (!c.scat || decide (4 ≤ h.ne.val))) = true := by
  cases on : c.scat with
  | false => simp [wf]
  | true => simp [wf, scatter on]

theorem execCmm_turns {p : CmmPlan} (ready : issues h s) (wf : cmmOk c x = true) (scatter : c.scat = true → 4 ≤ h.ne.val)
    (plan : (issuer h s).cmmPlan h.ne.val c x = .ok p) :
    ∃ t, exec (.cmm h c x) s = .next t ∧ turns h s t ((issuer h s).startCmm p) := by
  have here : ((started h s).eng h.ne.val).cmmPlan h.ne.val c x = .ok p := plan
  refine ⟨_, wfOr_wf (cmm_wf wf scatter) _, turns_issue ready ?_ ?_⟩
  · simp only [here]
  · simp only [here]
    rfl

theorem execCmm_faultsWith {a : AccErr} (ready : issues h s) (wf : cmmOk c x = true)
    (scatter : c.scat = true → 4 ≤ h.ne.val) (plan : (issuer h s).cmmPlan h.ne.val c x = .error a) :
    ∃ t, exec (.cmm h c x) s = .next t ∧ (t.eng h.ne.val).faultsWith a.st a.sub 0 := by
  have here : ((started h s).eng h.ne.val).cmmPlan h.ne.val c x = .error a := plan
  exact ⟨_, wfOr_wf (cmm_wf wf scatter) _, issue_faultsWith ready (by simp only [here])⟩

end

/-! ### The obligation -/

/-- Settles O10: the plan of the issue by the outcome of its checks; the plan gives what the engine becomes, or its fault. -/
theorem canvasIssueAndFaults : Obligations.CanvasIssueAndFaults := by
  refine ⟨fun h s c x o ready wf scatter free sizes ring mask ho => ?_, fun h s c x o ready wf scatter ho =>
    ⟨fun busy => ?_, fun free sizes ring mask m n nothing dense outside => ?_⟩⟩
  · have readable : (issuer h s).cmmReady c x := ⟨free, sizes, ring, mask⟩
    refine ⟨fun empty => ?_, fun m n window inside untouched operands => ?_⟩
    · subst ho
      exact execCmm_turns ready wf scatter (Engine.cmmPlan_empty readable empty)
    · obtain ⟨p, plan, start⟩ := Engine.cmmPlan_starts readable ho (not_or.2 ⟨m, n⟩) window operands inside untouched
      obtain ⟨t, next, turned⟩ := execCmm_turns ready wf scatter plan
      rw [start] at turned
      refine ⟨t, _, next, turned, rfl, Engine.sample_steps _ _ _ _ ho, fun r => ?_⟩
      obtain ⟨rfl, rfl⟩ : o.cw = c ∧ o.cx = x := ho ▸ Engine.sample_words ..
      change ((issuer h s).tagRows o |>.acmRow r).data = _ ∧ ((issuer h s).tagRows o |>.acmRow r).tag = _ ∧
        ((issuer h s).tagRows o |>.acmRow r).undr = _
      by_cases keep : o.cw.init = .keep
      · rw [Engine.tagRows_keep keep]
        simp [keep]
      · obtain ⟨data, tag, undr⟩ := (issuer h s).acmRow_tagRows_init keep r
        refine ⟨data, tag.trans ?_, undr.trans (by simp [keep])⟩
        by_cases inside : o.cx.acmb.toNat ≤ r ∧ r < o.cx.acmb.toNat + o.footprint
        · rw [if_pos inside, if_pos ⟨keep, inside⟩]
          cases mode : o.cw.init with
          | keep => exact absurd mode keep
          | zero => exact initTag_zero mode _
          | bias b => exact initTag_bias mode _
        · rw [if_neg inside, if_neg fun tagged => inside tagged.2]
  · exact execCmm_faultsWith ready wf scatter (Engine.cmmPlan_busy busy)
  · subst ho
    obtain ⟨det, bad⟩ := acmBad_outside (o := (issuer h s).sample h.ne.val c x)
      (by simpa only [Engine.sample_words] using outside)
    exact execCmm_faultsWith ready wf scatter
      (Engine.cmmPlan_outside ⟨free, sizes, ring, mask⟩ (not_or.2 ⟨m, n⟩) dense nothing bad)

end Sys2Proof.Machine

/-! SUPPORT. Elementwise vector instructions, predicate results, and results that are discarded (R89, R134, R136, Table 4.1). -/
namespace Sys2Proof.Machine

open Sys2Proof

-- one proof after the other: a thread for each would need too much memory
set_option Elab.async false

/-! ### Elements of sources and of whole results -/

theorem Engine.elems_eq (x : Engine) (w r : Nat) : x.elems w r = (List.range (32768 / w)).map (elemOf w (x.vreg r)) := by
  simp only [Engine.elems, unpack, shiftRight_mod_eq_elemOf, perReg]

theorem elemOf_blend_allV (old v : Nat) {i : Nat} (inside : i < 1024) : elemOf 32 (blend old allV v) i = elemOf 32 v i := by
  have whole : allV = maskAt (32 * 0) (32 * 1024) := by
    rw [allV, maskAt, Nat.mul_zero, Nat.shiftLeft_zero]
  rw [whole, elemOf_blend_maskAt (by decide), if_pos ⟨Nat.zero_le i, by omega⟩]

/-- Lanes chosen by a predicate (Table 5.7). -/
theorem elemOf_blend_enabled (old v pr : Nat) {i : Nat} (inside : i < 1024) :
    elemOf 32 (blend old (pack 32 ((List.range 1024).map fun i => if enabled pr 32 i then 2 ^ 32 - 1 else 0)) v) i =
      if enabled pr 32 i then elemOf 32 v i else elemOf 32 old i := by
  have mask : elemOf 32 (pack 32 ((List.range 1024).map fun i => if enabled pr 32 i then 2 ^ 32 - 1 else 0)) i =
      if enabled pr 32 i then 2 ^ 32 - 1 else 0 := by
    rw [elemOf_pack (by decide), getD_map_range inside]
    split <;> rfl
  rw [elemOf_blend (by rw [mask]; split <;> simp), mask]
  cases enabled pr 32 i <;> simp

/-- A result that takes its elements modulo the element's width. -/
theorem lanes_mod {p : PendRes} {w pr base n : Nat} {zm : Bool} {f : Nat → Nat} :
    lanes p w pr base n zm (fun i => f i % 2 ^ w) ↔ lanes p w pr base n zm f := by
  simp only [lanes, Nat.mod_mod]

/-! ### Elementwise instructions (R134) -/

theorem vecChk_none {e lat vd : Nat} {vs : List (Fin 32)} {pr : Fin 16} {s : State}
    (sources : ∀ v ∈ vs, (s.eng e).readyV v.val) (predicate : (s.eng e).readyP pr.val)
    (order : (s.eng e).inOrder lat (.vreg vd) allV) : vecChk e lat vs pr vd s = none := by
  refine worst_none.2 fun check among => ?_
  simp only [List.mem_append, List.mem_map, List.mem_cons, List.not_mem_nil, or_false] at among
  obtain ⟨v, member, rfl⟩ | rfl | rfl := among
  · exact Engine.needV_none.2 (sources v member)
  · exact Engine.needP_none.2 predicate
  · exact Engine.order_none order

section
variable {h : Issue} {s : State}

/-- A slot that issues with its checks passed, and whose effect is the elements of `g` in VD under a predicate. -/
theorem issue_owes_lanes {w lat vd pr n : Nat} {zm : Bool} {g : Nat → Nat} {rd : List Dest}
    {chk : State → Option AccErr} {f : Engine → Engine} {l : List Nat} (ready : issues h s) (pass : chk (started h s) = none)
    (pos : 0 < w) (effect : f (issuer h s) = (issuer h s).putV lat vd pr w 0 zm l) (values : l = (List.range n).map g) :
    ∃ t p, Host.Outcome.next (φ := Fault) (ρ := Refusal) (issue h .v rd chk (fun s => s.modEng h.ne.val f) s) = .next t ∧
      owes h s t [p] ∧ resultFor (issuer h s) lat (.vreg vd) p ∧ lanes p w pr 0 n zm g := by
  subst values
  exact ⟨_, (issuer h s).resultV lat vd pr w 0 zm ((List.range n).map g), rfl,
    owes_issue ready pass (effect.trans (Engine.put_vreg ..)), Engine.resultFor_result .., lanes_resultV pos⟩

variable {c : VCommon} (ready : issues h s) (arith : c.et.arith = true) (va : (issuer h s).readyV c.va.val)
  (vb : (issuer h s).readyV c.vb.val) (pr : (issuer h s).readyP c.pr.val)
include ready arith va vb pr

theorem execVop2_owes {fn : V2Fn} (order : (issuer h s).inOrder (if fn = .mul then 4 else 3) (.vreg c.vd.val) allV) :
    ∃ t p, exec (.vop2 h fn c) s = .next t ∧ owes h s t [p] ∧
      resultFor (issuer h s) (if fn = .mul then 4 else 3) (.vreg c.vd.val) p ∧
      lanes p (etBits c.et) ((issuer h s).preg c.pr.val) 0 (32768 / etBits c.et) c.zm fun i =>
        vop2Elem fn c.et c.ovf (elemOf (etBits c.et) ((issuer h s).vreg c.va.val) i)
          (elemOf (etBits c.et) ((issuer h s).vreg c.vb.val) i) := by
  have pass : vecChk h.ne.val (if fn = .mul then 4 else 3) [c.va, c.vb] c.pr c.vd.val (started h s) = none :=
    vecChk_none (by simpa using ⟨va, vb⟩) pr order
  rw [show exec (.vop2 h fn c) s = .next _ from wfOr_wf arith _]
  refine issue_owes_lanes ready pass (etBits_pos c.et) rfl ?_
  rw [Engine.elems_eq, Engine.elems_eq, List.zip_map', List.map_map]
  rfl

theorem execVfma_owes (vc : (issuer h s).readyV c.vc.val) (order : (issuer h s).inOrder 4 (.vreg c.vd.val) allV) :
    ∃ t p, exec (.vfma h c) s = .next t ∧ owes h s t [p] ∧ resultFor (issuer h s) 4 (.vreg c.vd.val) p ∧
      lanes p (etBits c.et) ((issuer h s).preg c.pr.val) 0 (32768 / etBits c.et) c.zm fun i =>
        vfmaElem c.et c.ovf (elemOf (etBits c.et) ((issuer h s).vreg c.va.val) i)
          (elemOf (etBits c.et) ((issuer h s).vreg c.vb.val) i) (elemOf (etBits c.et) ((issuer h s).vreg c.vc.val) i) := by
  have pass : vecChk h.ne.val 4 [c.va, c.vb, c.vc] c.pr c.vd.val (started h s) = none :=
    vecChk_none (by simpa using ⟨va, vb, vc⟩) pr order
  rw [show exec (.vfma h c) s = .next _ from wfOr_wf arith _]
  refine issue_owes_lanes ready pass (etBits_pos c.et) rfl ?_
  rw [Engine.elems_eq, Engine.elems_eq, Engine.elems_eq, List.zip_map', List.zip_map', List.map_map]
  rfl

theorem execVsel_owes (order : (issuer h s).inOrder 2 (.vreg c.vd.val) allV) :
    ∃ t p, exec (.vsel h c) s = .next t ∧ owes h s t [p] ∧ resultFor (issuer h s) 2 (.vreg c.vd.val) p ∧
      ∀ old i, i < 1024 → elemOf 32 (blend old p.mask p.val) i =
        if enabled ((issuer h s).preg c.pr.val) 32 i then elemOf 32 ((issuer h s).vreg c.va.val) i
        else elemOf 32 ((issuer h s).vreg c.vb.val) i := by
  have pass : vecChk h.ne.val 2 [c.va, c.vb] c.pr c.vd.val (started h s) = none :=
    vecChk_none (by simpa using ⟨va, vb⟩) pr order
  refine ⟨_, _, wfOr_wf arith _, owes_issue ready pass (Engine.put_vreg ..), Engine.resultFor_result ..,
    fun old i inside => ?_⟩
  rw [Engine.result, elemOf_blend_allV _ _ inside, elemOf_blend_enabled _ _ _ inside]

theorem execVperm_owes (order : (issuer h s).inOrder 4 (.vreg c.vd.val) allV) :
    ∃ t p, exec (.vperm h c) s = .next t ∧ owes h s t [p] ∧ resultFor (issuer h s) 4 (.vreg c.vd.val) p ∧
      lanes p 32 ((issuer h s).preg c.pr.val) 0 1024 c.zm fun i =>
        elemOf 32 ((issuer h s).vreg c.va.val) (elemOf 32 ((issuer h s).vreg c.vb.val) i % 1024) := by
  have pass : vecChk h.ne.val 4 [c.va, c.vb] c.pr c.vd.val (started h s) = none :=
    vecChk_none (by simpa using ⟨va, vb⟩) pr order
  rw [show exec (.vperm h c) s = .next _ from wfOr_wf arith _]
  refine issue_owes_lanes ready pass (by decide) rfl ?_
  rw [Engine.elems_eq, List.map_map]
  simp only [Function.comp_def, Nat.mul_comm 32, shiftRight_mod_eq_elemOf]

omit arith vb in
theorem execVfn_owes {fn : TFn} (fp32 : c.et = .fmt .fp32)
    (order : (issuer h s).inOrder (vfnLat fn) (.vreg c.vd.val) allV) :
    ∃ t p, exec (.vfn h fn c) s = .next t ∧ owes h s t [p] ∧ resultFor (issuer h s) (vfnLat fn) (.vreg c.vd.val) p ∧
      lanes p 32 ((issuer h s).preg c.pr.val) 0 1024 c.zm fun i =>
        vfnElem fn c.ovf (elemOf 32 ((issuer h s).vreg c.va.val) i) := by
  have pass : vecChk h.ne.val (vfnLat fn) [c.va] c.pr c.vd.val (started h s) = none :=
    vecChk_none (by rintro v (_ | ⟨_, ⟨⟩⟩); exact va) pr order
  rw [show exec (.vfn h fn c) s = .next _ from wfOr_wf (beq_iff_eq.2 fp32) _]
  refine issue_owes_lanes ready pass (by decide) rfl ?_
  rw [Engine.elems_eq, List.map_map]
  rfl

omit va vb in
theorem execVbcast_owes {sa : Fin 64} (source : (issuer h s).readyS sa.val)
    (order : (issuer h s).inOrder 2 (.vreg c.vd.val) allV) :
    ∃ t p, exec (.vbcast h sa c) s = .next t ∧ owes h s t [p] ∧ resultFor (issuer h s) 2 (.vreg c.vd.val) p ∧
      lanes p (etBits c.et) ((issuer h s).preg c.pr.val) 0 (32768 / etBits c.et) c.zm fun _ => (issuer h s).sreg sa.val := by
  have pass : worst [(issuer h s).needS sa.val, (issuer h s).needP c.pr.val, (issuer h s).order 2 (.vreg c.vd.val) allV] =
      none := by
    rw [Engine.needS_none.2 source, Engine.needP_none.2 pr, Engine.order_none order]
    rfl
  rw [show exec (.vbcast h sa c) s = .next _ from wfOr_wf arith _]
  simp only [← lanes_mod (f := fun _ => (issuer h s).sreg sa.val)]
  refine issue_owes_lanes ready pass (etBits_pos c.et) rfl ?_
  rw [List.map_const', List.length_range, perReg]

end

/-! ### Predicate results (R89, R136) -/

/-- The mask of a predicate result. -/
def predMask (zm : Bool) (pr : Nat) : Nat := if zm then allP else pr

theorem testBit_allP {i : Nat} (inside : i < 1024) : allP.testBit i = true := by
  rw [allP, Nat.testBit_two_pow_sub_one]
  exact decide_eq_true inside

/-- The bits that a predicate result leaves. -/
theorem testBit_blend_predMask (old pr v : Nat) (zm : Bool) {i : Nat} (inside : i < 1024) :
    (blend old (predMask zm pr) (v &&& pr)).testBit i = if pr.testBit i then v.testBit i else !zm && old.testBit i := by
  rw [testBit_blend, predMask, Nat.testBit_and]
  cases zm <;> cases h : pr.testBit i <;> simp [h, testBit_allP inside]

theorem testBit_pack_bits (f : Nat → Bool) {n i : Nat} (inside : i < n) :
    (pack 1 ((List.range n).map fun i => bit (f i))).testBit i = f i := by
  rw [testBit_pack Nat.one_pos, Nat.div_one, getD_map_range inside, Nat.mod_one]
  cases f i <;> rfl

/-- One bit of a PLOG function other than FIRSTN (Table 5.7). -/
def plogBit (fn : PlogFn) (a b : Bool) : Bool :=
  match fn with
  | .and => a && b
  | .or => a || b
  | .xor => a != b
  | .andn => a && !b
  | _ => !a

theorem testBit_plogFn (fn : PlogFn) (a b : Nat) {i : Nat} (other : fn ≠ .firstn) (inside : i < 1024) :
    (plogFn fn a b).testBit i = plogBit fn (a.testBit i) (b.testBit i) := by
  cases fn with
  | and => exact Nat.testBit_and ..
  | or => exact Nat.testBit_or ..
  | xor => exact Nat.testBit_xor ..
  | andn =>
    rw [plogFn, Nat.testBit_xor, Nat.testBit_and]
    cases a.testBit i <;> cases b.testBit i <;> rfl
  | not =>
    rw [plogFn, Nat.testBit_xor, Nat.testBit_and, testBit_allP inside, Bool.true_and, Bool.true_xor]
    rfl
  | firstn => exact absurd rfl other

theorem Engine.put_preg (x : Engine) {pd : Fin 16} (written : pd ≠ 0) (lat m v : Nat) :
    x.put lat (.preg pd.val) m v = { x with pend := x.pend ++ [x.result lat (.preg pd.val) m v] } := by
  have stays : (Dest.preg pd.val).null = false := beq_eq_false_iff_ne.2 fun zero => written (Fin.ext zero)
  rw [Engine.put_eq, stays]
  rfl

/-- A result to PR0 or S0 is owed by nobody. -/
theorem Engine.put_null (x : Engine) {d : Dest} (discarded : d.null = true) (lat m v : Nat) :
    x.put lat d m v = { x with pend := x.pend ++ [] } := by
  rw [Engine.put_eq, discarded]
  rfl

theorem Engine.inOrder_null (x : Engine) {d : Dest} (discarded : d.null = true) (lat m : Nat) : x.inOrder lat d m :=
  ⟨.inl discarded, .inl discarded⟩

section
variable {h : Issue} {s : State} (ready : issues h s)
include ready

theorem execVcmp_owes {fn : CmpFn} {pd : Fin 16} {c : VCommon} {l : List PendRes} (wide : c.et.wide = true) (unused : c.vd = 0)
    (va : (issuer h s).readyV c.va.val) (vb : (issuer h s).readyV c.vb.val) (pr : (issuer h s).readyP c.pr.val)
    (order : (issuer h s).inOrder 2 (.preg pd.val) allP)
    (effect : (issuer h s).put 2 (.preg pd.val) (predMask c.zm ((issuer h s).preg c.pr.val))
      (pack 1 ((List.range 1024).map fun i => bit (vcmpElem fn c.et (elemOf 32 ((issuer h s).vreg c.va.val) i)
        (elemOf 32 ((issuer h s).vreg c.vb.val) i))) &&& (issuer h s).preg c.pr.val) =
      { issuer h s with pend := (issuer h s).pend ++ l }) :
    ∃ t, exec (.vcmp h fn pd c) s = .next t ∧ owes h s t l := by
  have wf : Instr.wf (.vcmp h fn pd c) = true := by simp [Instr.wf, wide, unused]
  have pass : worst [(issuer h s).needV c.va.val, (issuer h s).needV c.vb.val, (issuer h s).needP c.pr.val,
      (issuer h s).order 2 (.preg pd.val) allP] = none := by
    rw [Engine.needV_none.2 va, Engine.needV_none.2 vb, Engine.needP_none.2 pr, Engine.order_none order]
    rfl
  refine ⟨_, wfOr_wf wf _, owes_issue ready pass ?_⟩
  rw [← effect, Engine.elems_eq, Engine.elems_eq, List.zip_map', List.map_map]
  rfl

/-- The checks of PLOG read what its function reads. -/
theorem execPlog_owes {fn : PlogFn} {pd pa pb pr : Fin 16} {zm : Bool} {sa : Fin 64} {l : List PendRes}
    (scalar : fn = .firstn → (issuer h s).readyS sa.val)
    (predicates : fn ≠ .firstn →
      (issuer h s).readyP pa.val ∧ (issuer h s).readyP pb.val ∧ (issuer h s).readyP pr.val)
    (order : (issuer h s).inOrder 1 (.preg pd.val) allP)
    (effect : (if fn = .firstn then (issuer h s).put 1 (.preg pd.val) allP (2 ^ min ((issuer h s).sreg sa.val) 1024 - 1)
      else (issuer h s).putP 1 pd.val ((issuer h s).preg pr.val) zm
        (plogFn fn ((issuer h s).preg pa.val) ((issuer h s).preg pb.val))) =
      { issuer h s with pend := (issuer h s).pend ++ l }) :
    ∃ t, exec (.plog h fn pd pa pb pr zm sa) s = .next t ∧ owes h s t l := by
  have pass : worst ((if fn = .firstn then [(issuer h s).needS sa.val]
      else [(issuer h s).needP pa.val, if fn = .not then none else (issuer h s).needP pb.val, (issuer h s).needP pr.val]) ++
      [(issuer h s).order 1 (.preg pd.val) allP]) = none := by
    rw [Engine.order_none order]
    by_cases first : fn = .firstn
    · rw [if_pos first, Engine.needS_none.2 (scalar first)]
      rfl
    · obtain ⟨a, b, p⟩ := predicates first
      rw [if_neg first, Engine.needP_none.2 a, Engine.needP_none.2 b, Engine.needP_none.2 p, ite_self]
      rfl
  exact ⟨_, rfl, owes_issue ready pass effect⟩

theorem execSalu_discards {sa sb : Fin 64} {fn : SFn} (ha : (issuer h s).readyS sa.val) (hb : (issuer h s).readyS sb.val) :
    ∃ t, exec (.salu h 0 sa sb fn) s = .next t ∧ owes h s t [] := by
  have pass : worst [(issuer h s).needS sa.val, (issuer h s).needS sb.val,
      (issuer h s).orderA (sfnLat fn) (.sreg 0) allS] = none := by
    rw [Engine.needS_none.2 ha, Engine.needS_none.2 hb, Engine.orderA_none.2 (.inl rfl)]
    rfl
  refine ⟨_, rfl, owes_issue ready pass ?_⟩
  rw [List.append_nil]
  rfl

end

/-! ### The obligations -/

/-- Settles O7: each form issues with its checks passed, and packs the function of its sources' elements. -/
theorem vectorElementwise : Obligations.VectorElementwise := by
  intro h s c ready arith va vb pr
  refine ⟨fun fn order => execVop2_owes ready arith va vb pr order, fun vc order => execVfma_owes ready arith va vb pr vc order,
    fun order => execVsel_owes ready arith va vb pr order, fun order => execVperm_owes ready arith va vb pr order,
    fun fp32 fn order => execVfn_owes ready va pr fp32 order, fun sa source order => execVbcast_owes ready arith pr source order⟩

/-- Settles O9: the bits of a predicate result by its mask; a result to a discarding destination adds none. -/
theorem predicateResults : Obligations.PredicateResults := by
  refine ⟨fun h s pd ready written => ⟨?_, ?_, ?_⟩, fun h s ready => ⟨?_, ?_, ?_, ?_⟩⟩
  · intro fn c wide unused va vb pr order
    obtain ⟨t, next, owed⟩ := execVcmp_owes ready wide unused va vb pr order (Engine.put_preg _ written ..)
    refine ⟨t, _, next, owed, Engine.resultFor_result .., fun old i inside => ?_⟩
    rw [Engine.result, testBit_blend_predMask _ _ _ _ inside, testBit_pack_bits _ inside]
  · intro fn pa pb pr zm sa other ha hb hp order
    obtain ⟨t, next, owed⟩ := execPlog_owes (zm := zm) (sa := sa) ready (fun first => absurd first other)
      (fun _ => ⟨ha, hb, hp⟩) order ((if_neg other).trans (Engine.put_preg _ written ..))
    refine ⟨t, _, next, owed, Engine.resultFor_result .., fun old i inside => ?_⟩
    exact (testBit_blend_predMask _ _ _ _ inside).trans (by rw [testBit_plogFn _ _ _ other inside]; rfl)
  · intro pa pb pr zm sa source order
    obtain ⟨t, next, owed⟩ := execPlog_owes (fn := .firstn) (pa := pa) (pb := pb) (pr := pr) (zm := zm) ready
      (fun _ => source) (absurd rfl) order ((if_pos rfl).trans (Engine.put_preg _ written ..))
    refine ⟨t, _, next, owed, Engine.resultFor_result .., fun old i inside => ?_⟩
    rw [Engine.result, testBit_blend, testBit_allP inside, if_pos rfl, Nat.testBit_two_pow_sub_one]
    simp [inside]
  · intro sa sb fn ha hb
    exact execSalu_discards ready ha hb
  · intro va et lane arith hva
    exact execVext_owes ready arith hva (Engine.inOrder_null _ rfl ..)
  · intro fn c wide unused va vb pr
    exact execVcmp_owes ready wide unused va vb pr (Engine.inOrder_null _ rfl ..) (Engine.put_null _ rfl ..)
  · intro fn pa pb pr zm sa ha hb hp source
    refine execPlog_owes ready (fun _ => source) (fun _ => ⟨ha, hb, hp⟩) (Engine.inOrder_null _ rfl ..) ?_
    split <;> exact Engine.put_null _ rfl ..

end Sys2Proof.Machine

/-! SUPPORT. ARSET, control flow, PHASE, END and fences (R110, R127, R128, Tables 5.3 and 5.8). -/
namespace Sys2Proof.Machine

open Sys2Proof

-- one proof after the other: a thread for each would need too much memory
set_option Elab.async false

/-! ### Operands of the A slot -/

theorem Engine.needS_rnSrc {x : Engine} {src : Src32} (source : ∀ r : Fin 64, src = .reg r → x.readyS r.val) :
    x.needS (rnSrc src) = none := by
  cases src with
  | imm v => exact Engine.needS_none.2 (.inl rfl)
  | reg r => exact Engine.needS_none.2 (source r rfl)

theorem Engine.needS_rnLoop {x : Engine} {cnt : LoopCount} (source : ∀ r : Fin 64, cnt = .reg r → x.readyS r.val) :
    x.needS (rnLoop cnt) = none := by
  cases cnt with
  | imm v => exact Engine.needS_none.2 (.inl rfl)
  | reg r => exact Engine.needS_none.2 (source r rfl)

theorem Engine.needS_rnFence {x : Engine} {f : FenceSel} (source : ∀ r : Fin 64, f = .reg r → x.readyS r.val) :
    x.needS (rnFence f) = none := by
  cases f with
  | imm v => exact Engine.needS_none.2 (.inl rfl)
  | reg r => exact Engine.needS_none.2 (source r rfl)

theorem State.fenceBad_none {s : State} {e f d : Nat} (mapped : s.fenceMap (s.eng e).ctx f = some d) :
    s.fenceBad e f = none := by
  rw [State.fenceBad, mapped]
  rfl

/-! ### The bundle's slots undone -/

theorem State.undoBundle_waits (s : State) (e : Nat) : (s.undoBundle e).waits = s.waits := by
  unfold State.undoBundle
  split
  · rfl
  · dsimp only
    split <;> rfl

/-- The undone engine keeps its command. -/
theorem State.undoBundle_task (s : State) (e : Nat) : ((s.undoBundle e).eng e).task = (s.eng e).task := by
  unfold State.undoBundle
  split
  · rfl
  · next p _ =>
    have kept : (match p.pop with
        | some (q, ent) => ((s.eng e).restore p.eng).unpop q ent
        | none => (s.eng e).restore p.eng).task = (s.eng e).task := by
      split <;> rfl
    dsimp only
    split <;> exact (congrArg Engine.task (State.eng_setEng_same ..)).trans kept

/-! ### The instructions -/

section
variable {h : Issue} {s : State} (ready : issues h s)
include ready

/-- A slot that issues with its checks passed and has no effect. -/
theorem turns_issue_idle {sl : Slot} {rd : List Dest} {chk : State → Option AccErr} {eff : State → State}
    (pass : chk (started h s) = none) (effect : eff (started h s) = started h s) :
    turns h s (issue h sl rd chk eff s) (issuer h s) := by
  rw [issue_ready ready pass, effect]
  refine ⟨State.modEng_onlyEngine .., ?_⟩
  rw [State.eng_modEng_same]
  rfl

theorem execArset_owes (ak : Fin 32) (fld : AField) {src : Src32}
    (source : ∀ r : Fin 64, src = .reg r → (issuer h s).readyS r.val) :
    ∃ t, exec (.arset h ak fld src) s = .next t ∧
      owes h s t [(issuer h s).result 1 (.areg ak.val fld) (2 ^ 32 - 1) ((issuer h s).src32 src)] := by
  have pass : worst [(issuer h s).needS (rnSrc src)] = none := by
    rw [Engine.needS_rnSrc source]
    rfl
  exact ⟨_, rfl, owes_issue ready pass (Engine.put_eq ..)⟩

theorem execLoop_turns (lvl : Fin 4) {cnt : LoopCount} {body : BitVec 16} (nonempty : body ≠ 0)
    (source : ∀ r : Fin 64, cnt = .reg r → (issuer h s).readyS r.val) :
    ∃ t, exec (.loop h lvl cnt body) s = .next t ∧ turns h s t { issuer h s with
      ctl := if (issuer h s).loopCount cnt = 0 then
          { (issuer h s).ctl with redirect := some ((issuer h s).ctl.pc + body.toNat + 1) }
        else { (issuer h s).ctl with
          loops := ⟨lvl.val, (issuer h s).ctl.pc + 1, (issuer h s).ctl.pc + body.toNat, 0, (issuer h s).loopCount cnt⟩ ::
            (issuer h s).ctl.loops } } := by
  have pass : worst [(issuer h s).needS (rnLoop cnt)] = none := by
    rw [Engine.needS_rnLoop source]
    rfl
  refine ⟨_, wfOr_wf (bne_iff_ne.2 nonempty) _, turns_issue ready pass ?_⟩
  change (if (issuer h s).loopCount cnt = 0 then _ else _) = _
  by_cases skipped : (issuer h s).loopCount cnt = 0
  · rw [if_pos skipped, if_pos skipped]
    rfl
  · rw [if_neg skipped, if_neg skipped]
    rfl

/-- A branch that is taken on `taken`. -/
theorem branch_turns {sa : Fin 64} {off : BitVec 20} {taken : Prop} [Decidable taken] {eff : State → State}
    (source : (issuer h s).readyS sa.val)
    (jump : taken → eff (started h s) = (started h s).redirectTo h.ne.val ((issuer h s).ctl.pc + off.toNat))
    (stay : ¬ taken → eff (started h s) = started h s) :
    turns h s (issue h .a [.sreg sa.val] (fun s => worst [(s.eng h.ne.val).needS sa.val]) eff s) { issuer h s with
      ctl := if taken then { (issuer h s).ctl with redirect := some ((issuer h s).ctl.pc + off.toNat) }
        else (issuer h s).ctl } := by
  have pass : worst [(issuer h s).needS sa.val] = none := by
    rw [Engine.needS_none.2 source]
    rfl
  by_cases goes : taken
  · rw [if_pos goes]
    exact turns_issue ready pass (jump goes)
  · rw [if_neg goes]
    exact turns_issue_idle ready pass (stay goes)

theorem execBrz_turns {sa : Fin 64} {off : BitVec 20} (away : off ≠ 0) (source : (issuer h s).readyS sa.val) :
    ∃ t, exec (.brz h sa off) s = .next t ∧ turns h s t { issuer h s with
      ctl := if (issuer h s).sreg sa.val = 0 then
          { (issuer h s).ctl with redirect := some ((issuer h s).ctl.pc + off.toNat) }
        else (issuer h s).ctl } :=
  ⟨_, wfOr_wf (bne_iff_ne.2 away) _, branch_turns ready source (fun zero => if_pos zero) fun other => if_neg other⟩

theorem execBrnz_turns {sa : Fin 64} {off : BitVec 20} (away : off ≠ 0) (source : (issuer h s).readyS sa.val) :
    ∃ t, exec (.brnz h sa off) s = .next t ∧ turns h s t { issuer h s with
      ctl := if (issuer h s).sreg sa.val = 0 then (issuer h s).ctl
        else { (issuer h s).ctl with redirect := some ((issuer h s).ctl.pc + off.toNat) } } := by
  refine ⟨_, wfOr_wf (bne_iff_ne.2 away) _, ?_⟩
  rw [← ite_not]
  exact branch_turns ready source (fun other => if_neg other) fun zero => if_pos (not_not.1 zero)

theorem execFsig_turns {sv : Fin 64} {f : FenceSel} {d : Nat} (value : (issuer h s).readyS sv.val)
    (source : ∀ r : Fin 64, f = .reg r → (issuer h s).readyS r.val)
    (mapped : (started h s).fenceMap (issuer h s).ctx ((issuer h s).fenceNo f) = some d)
    (declared : (issuer h s).declaresFence d = true) :
    ∃ t, exec (.fsig h sv f) s = .next t ∧ turns h s t { issuer h s with
      syncs := (issuer h s).syncs ++ [⟨(issuer h s).cyc, .signal d ((issuer h s).sw sv.val)⟩] } := by
  refine ⟨_, rfl, turns_issue ready ?_ ?_⟩
  · change worst [(issuer h s).needS sv.val, (issuer h s).needS (rnFence f),
      (started h s).fenceBad h.ne.val ((issuer h s).fenceNo f), _] = none
    rw [Engine.needS_none.2 value, Engine.needS_rnFence source, State.fenceBad_none mapped]
    change worst [none, none, none, match (started h s).fenceMap (issuer h s).ctx ((issuer h s).fenceNo f) with
      | some d => if (issuer h s).declaresFence d then none else some ⟨stBound, 0xE, (issuer h s).fenceNo f⟩
      | none => none] = none
    rw [mapped]
    dsimp only
    rw [if_pos declared]
    rfl
  · change (match (started h s).fenceMap (issuer h s).ctx ((issuer h s).fenceNo f) with
      | some d => _
      | none => _) = _
    rw [mapped]
    rfl

section
variable {sv dl : Fin 64} {f : FenceSel} {d : Nat} (value : (issuer h s).readyS sv.val) (deadline : (issuer h s).readyS dl.val)
  (source : ∀ r : Fin 64, f = .reg r → (issuer h s).readyS r.val)
  (mapped : (started h s).fenceMap (issuer h s).ctx ((issuer h s).fenceNo f) = some d)
include value deadline source mapped

omit ready in
theorem fwait_passes : worst [(issuer h s).needS sv.val, (issuer h s).needS (rnFence f), (issuer h s).needS dl.val,
    (started h s).fenceBad h.ne.val ((issuer h s).fenceNo f)] = none := by
  rw [Engine.needS_none.2 value, Engine.needS_none.2 deadline, Engine.needS_rnFence source, State.fenceBad_none mapped]
  rfl

theorem execFwait_reached (reached : (issuer h s).sreg sv.val ≤ ((started h s).fence d).val.toNat) :
    ∃ t, exec (.fwait h sv f dl) s = .next t ∧ turns h s t (issuer h s) := by
  refine ⟨_, rfl, turns_issue_idle ready (fwait_passes value deadline source mapped) ?_⟩
  change (match (started h s).fenceMap (issuer h s).ctx ((issuer h s).fenceNo f) with
    | none => _
    | some d => if (issuer h s).sreg sv.val ≤ ((started h s).fence d).val.toNat then _ else _) = _
  rw [mapped]
  exact if_pos reached

theorem execFwait_waits (early : ((started h s).fence d).val.toNat < (issuer h s).sreg sv.val)
    (kept : (started h s).orphaned h.ne.val d = false) :
    exec (.fwait h sv f dl) s = .next (((started h s).beginFwait h.ne.val ((issuer h s).fenceNo f) d
      ((issuer h s).sreg sv.val) (if dl = 0 then none else some ((started h s).now + (issuer h s).sreg dl.val))).modEng h.ne.val
        fun x => x.noteReads [.sreg sv.val, .sreg (rnFence f), .sreg dl.val]) := by
  refine congrArg Host.Outcome.next ((issue_ready ready (fwait_passes value deadline source mapped)).trans ?_)
  refine congrArg (fun t : State => t.modEng h.ne.val _) ?_
  change (match (started h s).fenceMap (issuer h s).ctx ((issuer h s).fenceNo f) with
    | none => _
    | some d => if (issuer h s).sreg sv.val ≤ ((started h s).fence d).val.toNat then _
      else if (started h s).orphaned h.ne.val d then _ else _) = _
  rw [mapped]
  dsimp only
  rw [if_neg (Nat.not_le.2 early), kept]
  rfl

end

end

/-- A fence wait that begins: its engine waits, and it stands in place of its task's other waits. -/
theorem State.beginFwait_waits (s : State) (e rel dev target : Nat) (dl : Option Nat) :
    ∃ w, ((s.beginFwait e rel dev target dl).eng e).run = .waitFence ∧
      (s.beginFwait e rel dev target dl).waits =
        (s.waits.filter fun v => !(v.task.isSome && v.task == w.task)) ++ [w] ∧
      w.task = (s.eng e).task.map (·.id) ∧ w.kind = .fwait ∧ w.fence = dev ∧ w.target = target ∧ w.deadline = dl := by
  refine ⟨⟨(s.eng e).task.map (·.id), .fwait, dev, rel, target, dl, (s.undoBundle e).clock.ticks⟩,
    congrArg Engine.run (State.eng_setEng_same ..), ?_, rfl, rfl, rfl, rfl, rfl⟩
  simp only [State.beginFwait, State.undoBundle_waits, State.undoBundle_task]

/-! ### The obligation -/

/-- Settles O3: each form issues with its checks passed, and its engine becomes what its effect makes of it; a fence wait
that begins registers itself. -/
theorem controlAndSync : Obligations.ControlAndSync := by
  refine ⟨fun h s ready => ⟨?_, ?_, ?_, ?_⟩, fun h s ready => ⟨?_, ?_, ?_, ?_, ?_⟩⟩
  · intro ak fld src source
    obtain ⟨t, next, owed⟩ := execArset_owes ready ak fld source
    exact ⟨t, next, by cases src <;> exact owed⟩
  · rintro lvl cnt body n nonempty source rfl
    obtain ⟨t, next, turned⟩ := execLoop_turns ready lvl nonempty source
    exact ⟨t, next, by cases cnt <;> exact turned⟩
  · intro sa off away source
    exact execBrz_turns ready away source
  · intro sa off away source
    exact execBrnz_turns ready away source
  · intro ph
    exact ⟨_, rfl, turns_issue ready rfl rfl⟩
  · exact ⟨_, rfl, turns_issue ready rfl rfl⟩
  · intro sv f d value source mapped declared
    exact execFsig_turns ready value source mapped declared
  · intro sv dl f d value deadline source mapped reached
    exact execFwait_reached ready value deadline source mapped reached
  · intro sv dl f d value deadline source mapped early kept
    obtain ⟨w, run, waits, task, kind, fence, target, due⟩ := (started h s).beginFwait_waits h.ne.val
      ((issuer h s).fenceNo f) d ((issuer h s).sreg sv.val)
      (if dl = 0 then none else some ((started h s).now + (issuer h s).sreg dl.val))
    refine ⟨_, w, execFwait_waits ready value deadline source mapped early kept, ?_, waits, task, kind, fence, target, due⟩
    rw [State.eng_modEng_same]
    exact run

end Sys2Proof.Machine

/-! SUPPORT. Loads and stores of the own slice (R102, R106, R107, R129, R179, R407, Table 5.8). -/
namespace Sys2Proof.Machine

open Sys2Proof

-- one proof after the other: a thread for each would need too much memory
set_option Elab.async false

/-! ### Offsets (R102, R129) -/

theorem Engine.access_eq {x : Engine} {k n off : Nat} {imm : W32} (aligned : x.form k imm.toInt / (n : Int) * n = off) :
    x.access k imm n = off := aligned

theorem Engine.pa_ofNat (x : Engine) (e off : Nat) : x.pa e (off : Int) = sliceBase e + x.tbase + off := rfl

theorem Engine.boundBad_none {x : Engine} {off n bound : Nat} (fits : off + n ≤ min bound x.tlimit) :
    x.boundBad off n bound = none := by
  have low : ¬ (off : Int) < 0 := by omega
  have high : ¬ ((min bound x.tlimit : Nat) : Int) < (off : Int) + (n : Int) := by omega
  rw [Engine.boundBad]
  simp only [if_neg low, if_neg high]

theorem toNat_detail (off : Nat) : ((off : Int) % (2 ^ 32 : Int)).toNat = off % 2 ^ 32 := by omega

/-! ### Loads -/

/-- The result that a load owes, by what its read of the slice finds (R107, R407). -/
def Engine.loadRes (x : Engine) (lat : Nat) (d : Dest) (off pos n : Nat) (found : Except (Nat × Nat) (List Byte)) : PendRes :=
  match found with
  | .ok bs => x.result lat d (maskAt (8 * pos) (8 * n)) (le bs <<< (8 * pos))
  | .error f => { x.result lat d (maskAt (8 * pos) (8 * n)) 0 with fault := some ⟨f.1, f.2, x.ctl.pc, 2, off % 2 ^ 32⟩ }

theorem State.loadOwn_eq {s : State} {e n off : Nat} {found : Except (Nat × Nat) (List Byte)}
    (read : (s.ownRead ((s.eng e).pa e off) n).1 = found) (lat : Nat) (d : Dest) (pos : Nat) :
    s.loadOwn e lat d off pos n = s.setEng e { s.eng e with
      reads := (s.eng e).reads ++ [((s.eng e).pa e off, n)]
      pend := (s.eng e).pend ++
        (if d.null && ((s.eng e).loadRes lat d off pos n found).fault.isNone then []
        else [(s.eng e).loadRes lat d off pos n found]) } := by
  simp only [State.loadOwn, read, toNat_detail]
  cases found with
  | ok bs =>
    cases null : d.null with
    | true =>
      simp only [Engine.loadRes, Engine.result, Option.isNone_none, Bool.and_self, if_true, List.append_nil]
    | false => rfl
  | error f =>
    simp only [Engine.loadRes, Option.isNone_some, Bool.and_false, Bool.false_eq_true, if_false]
    rfl

theorem State.ownRead_refused {s : State} {a n : Nat} (refused : s.regionAdmits .gallery false a n = false) :
    s.ownRead a n = (.error (0x20, 4), s) := by
  simp [State.ownRead, refused]

section
variable {h : Issue} {s : State} {ak : Fin 32} {imm : W32} {off a al n : Nat} (ready : issues h s)
  (aligned : (issuer h s).form ak.val imm.toInt / (al : Int) * al = off)
  (place : a = sliceBase h.ne.val + (issuer h s).tbase + off)
  (fits : off + n ≤ min ((issuer h s).areg ak.val).bound.toNat (issuer h s).tlimit)
include aligned fits

theorem loadChk_none {lat pos : Nat} {d : Dest} (order : (issuer h s).inOrder lat d (maskAt (8 * pos) (8 * n)))
    (place : a = sliceBase h.ne.val + (issuer h s).tbase + off) (free : (issuer h s).noStore a n) :
    loadChk h.ne.val lat d ak.val imm al pos n (started h s) = none := by
  subst place
  change worst [(issuer h s).order lat d (maskAt (8 * pos) (8 * n)),
    (issuer h s).accessBad ak.val ((issuer h s).access ak.val imm al) n,
    (issuer h s).storeHazard ((issuer h s).pa h.ne.val ((issuer h s).access ak.val imm al)) n _] = none
  rw [Engine.access_eq aligned, Engine.pa_ofNat, Engine.order_none order, Engine.accessBad, Engine.boundBad_none fits,
    Engine.storeHazard_none free]
  rfl

include ready place

/-- A load that issues with its checks passed. -/
theorem load_turns {lat pos : Nat} {d : Dest} (order : (issuer h s).inOrder lat d (maskAt (8 * pos) (8 * n)))
    (free : (issuer h s).noStore a n) :
    turns h s (issue h .m [] (loadChk h.ne.val lat d ak.val imm al pos n)
      (fun s => s.loadOwn h.ne.val lat d ((s.eng h.ne.val).access ak.val imm al) pos n) s) { issuer h s with
        reads := (issuer h s).reads ++ [(a, n)]
        pend := (issuer h s).pend ++
          (if d.null && ((issuer h s).loadRes lat d off pos n ((started h s).ownRead a n).1).fault.isNone then []
          else [(issuer h s).loadRes lat d off pos n ((started h s).ownRead a n).1]) } := by
  refine turns_issue ready (loadChk_none aligned fits order place free) ?_
  subst place
  change (started h s).loadOwn h.ne.val lat d ((issuer h s).access ak.val imm al) pos n = _
  rw [Engine.access_eq aligned]
  exact State.loadOwn_eq rfl ..

end

/-! ### Stores -/

theorem State.storeOwn_eq {s : State} {e : Nat} (read : s.lostRead e 2 (s.guardReads e) = none) (off : Nat)
    (bs : List Byte) :
    s.storeOwn e off bs = s.setEng e { s.eng e with
      reads := (s.eng e).reads ++ s.guardReads e
      stores := (s.eng e).stores ++
        [⟨(s.eng e).cyc, (s.eng e).cyc + 6, (s.eng e).ctl.pc, sliceBase e + (s.eng e).tbase + off, bs⟩] } := by
  simp only [State.storeOwn, read]
  rfl

section
variable {h : Issue} {s : State} {ak : Fin 32} {imm : W32} {off a al n : Nat} (ready : issues h s)
  (aligned : (issuer h s).form ak.val imm.toInt / (al : Int) * al = off)
  (place : a = sliceBase h.ne.val + (issuer h s).tbase + off)
  (fits : off + n ≤ min ((issuer h s).areg ak.val).bound.toNat (issuer h s).tlimit)
  (open_ : (started h s).guarded h.ne.val off n = false)
  (read : (started h s).lostRead h.ne.val 2 ((started h s).guardReads h.ne.val) = none)
include ready aligned place fits open_ read

/-- A store that issues with its source ready and its checks passed. -/
theorem store_turns {rd : List Dest} {need : Engine → Option AccErr} {bs : Engine → List Byte}
    (source : need (issuer h s) = none) :
    turns h s (issue h .m rd (fun s => worst (need (s.eng h.ne.val) :: storeChk h.ne.val ak.val imm al n s))
      (fun s => s.storeOwn h.ne.val ((s.eng h.ne.val).access ak.val imm al) (bs (s.eng h.ne.val))) s) { issuer h s with
        reads := (issuer h s).reads ++ (started h s).guardReads h.ne.val
        stores := (issuer h s).stores ++
          [⟨(issuer h s).cyc, (issuer h s).cyc + 6, (issuer h s).ctl.pc, a, bs (issuer h s)⟩] } := by
  subst place
  refine turns_issue ready ?_ ?_
  · change worst [need (issuer h s), (issuer h s).accessBad ak.val ((issuer h s).access ak.val imm al) n,
      if (started h s).guarded h.ne.val ((issuer h s).access ak.val imm al) n = true then _ else none] = none
    rw [Engine.access_eq aligned, source, Engine.accessBad, Engine.boundBad_none fits, open_]
    rfl
  · change (started h s).storeOwn h.ne.val ((issuer h s).access ak.val imm al) (bs (issuer h s)) = _
    rw [Engine.access_eq aligned]
    exact State.storeOwn_eq read off _

end

/-! ### The obligation -/

theorem szBytes_le {sz pos : Nat} (fits : 64 * pos + 64 * 2 ^ sz ≤ 4096) : decide (pos * 64 + szBytes sz ≤ 4096) = true := by
  rw [szBytes, decide_eq_true_eq, Nat.mul_comm pos]
  exact fits

/-- Settles O4: the checks pass, a load owes what its read of the slice finds, and a store its register's bytes. -/
theorem ownSliceAccess : Obligations.OwnSliceAccess := by
  intro h s ak imm ready
  refine ⟨?_, ?_, ?_, ?_⟩
  · intro vd sz vpos off a whole aligned place fits order free clean slice
    have bits : maskAt (512 * vpos.toNat) (512 * 2 ^ sz.val) = maskAt (8 * (64 * vpos.toNat)) (8 * (64 * 2 ^ sz.val)) := by
      rw [← Nat.mul_assoc, ← Nat.mul_assoc]
    rw [bits] at order ⊢
    refine ⟨_, (issuer h s).loadRes 14 (.vreg vd.val) off (64 * vpos.toNat) (64 * 2 ^ sz.val)
      ((started h s).ownRead a (64 * 2 ^ sz.val)).1, wfOr_wf (szBytes_le whole) _,
      load_turns ready aligned place fits order free, ?_⟩
    cases admits : (started h s).regionAdmits .gallery false a (64 * 2 ^ sz.val) with
    | true =>
      rw [State.ownRead_clean clean admits slice]
      refine ⟨rfl, rfl, rfl, rfl, rfl, fun _ => ⟨rfl, ?_⟩, nofun⟩
      rw [Engine.loadRes, Engine.result, Nat.shiftLeft_eq, ← Nat.mul_assoc]
    | false =>
      rw [State.ownRead_refused admits]
      exact ⟨rfl, rfl, rfl, rfl, rfl, nofun, fun _ => rfl⟩
  · intro sd off a aligned place fits order free clean slice admits
    have turned := load_turns (pos := 0) ready aligned place fits order free
    rw [State.ownRead_clean clean admits slice] at turned
    refine ⟨_, _, rfl, turned, ?_⟩
    have zero : (Dest.sreg sd.val).null = true ↔ sd = 0 := beq_iff_eq.trans Fin.val_eq_zero_iff
    have whole : maskAt (8 * 0) (8 * 8) = allS := rfl
    simp only [Engine.loadRes, Engine.result, Option.isNone_none, Bool.and_true, zero, whole, Nat.mul_zero,
      Nat.shiftLeft_zero]
  · intro vs sz vpos off a whole aligned place fits source open_ read
    refine ⟨_, leBytes (64 * 2 ^ sz.val) ((issuer h s).vreg vs.val >>> (512 * vpos.toNat)), wfOr_wf (szBytes_le whole) _,
      store_turns ready aligned place fits open_ read (need := fun x => x.needV vs.val)
        (bs := fun x => leBytes (64 * 2 ^ sz.val) (x.vreg vs.val >>> (512 * vpos.toNat))) (Engine.needV_none.2 source),
      length_leBytes .., fun i inside => ?_⟩
    rw [length_leBytes] at inside
    rw [getElem?_leBytes, if_pos inside, Nat.shiftRight_add]
  · intro ss off a aligned place fits source open_ read
    exact ⟨_, rfl, store_turns ready aligned place fits open_ read (need := fun x => x.needS ss.val)
      (bs := fun x => leBytes 8 (x.sreg ss.val)) (Engine.needS_none.2 source)⟩

end Sys2Proof.Machine

/-! SUPPORT. Writes of address registers (R102, R103): what a cycle of an engine leaves of them, and when one takes effect. -/
namespace Sys2Proof.Machine

open Sys2Proof

-- one proof after the other: a thread for each would need too much memory
set_option Elab.async false

/-! ### Address registers of an engine -/

/-- Whether a result goes to an address register. -/
def PendRes.isAreg (p : PendRes) : Bool :=
  match p.dest with
  | .areg .. => true
  | _ => false

/-- The writes of address registers that an engine owes. -/
def Engine.owedA (x : Engine) : List PendRes := x.pend.filter PendRes.isAreg

/-- Whether an engine waits for a slot of a ring: a fault there undoes its bundle (R104, R228). -/
def Engine.onRing (x : Engine) : Bool :=
  match x.run with
  | .waitRing .. => true
  | _ => false

/-- An engine that waits for no ring has these address registers, owed writes of them, and this cycle. -/
def Engine.addrIs (x : Engine) (aregs : SMap AReg) (owed : List PendRes) (cyc : Nat) : Prop :=
  x.onRing = false ∧ x.aregs = aregs ∧ x.owedA = owed ∧ x.cyc = cyc

/-- `y`, which takes the place of an engine `x` that waits for no ring, waits for none, and has the address registers, the owed
writes of them and the cycle of `x`. -/
structure Engine.AddrKept (x y : Engine) : Prop where
  kept : ∀ {aregs owed cyc}, x.addrIs aregs owed cyc → y.addrIs aregs owed cyc

namespace Engine.AddrKept

theorem refl (x : Engine) : x.AddrKept x := ⟨id⟩

theorem trans {x y z : Engine} (h : x.AddrKept y) (g : y.AddrKept z) : x.AddrKept z := ⟨g.kept ∘ h.kept⟩

/-- An update of other fields of an engine. -/
theorem frame {x y : Engine} (aregs : y.aregs = x.aregs := by rfl) (pend : y.pend = x.pend := by rfl)
    (cyc : y.cyc = x.cyc := by rfl) (run : x.onRing = false → y.onRing = false := by exact id) : x.AddrKept y := by
  refine ⟨fun ⟨off, a, p, c⟩ => ⟨run off, aregs.trans a, Eq.trans ?_ p, cyc.trans c⟩⟩
  rw [Engine.owedA, pend]
  rfl

/-- An update of an engine that waits for no ring from then on. -/
theorem runs {x y : Engine} (run : y.onRing = false := by rfl) (aregs : y.aregs = x.aregs := by rfl)
    (pend : y.pend = x.pend := by rfl) (cyc : y.cyc = x.cyc := by rfl) : x.AddrKept y := frame aregs pend cyc fun _ => run

theorem ite {c : Prop} [Decidable c] {x y z : Engine} (hy : x.AddrKept y) (hz : x.AddrKept z) :
    x.AddrKept (if c then y else z) := by
  split
  · exact hy
  · exact hz

theorem performRow (x : Engine) (w : RowWrite) : x.AddrKept (x.performRow w) := ite frame frame

theorem performRows (x : Engine) : x.AddrKept x.performRows := by
  have rows (l : List RowWrite) (y : Engine) : y.AddrKept (l.foldl Engine.performRow y) := by
    induction l generalizing y with
    | nil => exact refl y
    | cons w l ih => exact (performRow y w).trans (ih _)
  exact (frame : x.AddrKept { x with rows := x.rows.filter fun w => !decide (w.due ≤ x.cyc) }).trans (rows _ _)

theorem lower (x : Engine) (n a : Nat) : x.AddrKept (x.lower n a) := ite frame frame

theorem raise (x : Engine) (n a : Nat) : x.AddrKept (x.raise n a) := by
  refine frame rfl rfl rfl fun off => ?_
  by_cases budget : x.run = .budget
  · simp [Engine.onRing, Engine.raise, budget]
  · simpa [Engine.onRing, Engine.raise, budget] using off

theorem land {x : Engine} {p : PendRes} (other : p.isAreg = false) : x.AddrKept (x.land p) := by
  unfold Engine.land
  split
  case h_4 r f dest => simp [PendRes.isAreg, dest] at other
  all_goals exact frame

end Engine.AddrKept

/-! ### What leaves the address registers of engine `e` alone -/

/-- Engine `e` of `t` has the address registers, and what is owed to them, of engine `e` of `o`. -/
structure AddrKept (e : Nat) (o t : State) : Prop where
  eng : (o.eng e).AddrKept (t.eng e)

section
variable {e : Nat} {o s t : State}

theorem AddrKept.refl (s : State) : AddrKept e s s := ⟨.refl _⟩

variable (hs : AddrKept e o s)
include hs

theorem AddrKept.of_eng (same : t.eng e = s.eng e) : AddrKept e o t := ⟨same ▸ hs.eng⟩

theorem AddrKept.calm (h : Calm s t) : AddrKept e o t := hs.of_eng (h.eng e)

theorem AddrKept.setRing {r : Nat} {x : Ring} : AddrKept e o (s.setRing r x) := hs.of_eng rfl

omit hs in
theorem AddrKept.foldl {α : Type} {f : State → α → State} {l : List α} (hs : AddrKept e o s)
    (step : ∀ t, ∀ a ∈ l, AddrKept e o t → AddrKept e o (f t a)) : AddrKept e o (l.foldl f s) := by
  induction l generalizing s with
  | nil => exact hs
  | cons a l ih =>
    exact ih (step s a List.mem_cons_self hs) fun t b hb => step t b (List.mem_cons_of_mem _ hb)

omit hs in
theorem AddrKept.ite {c : Prop} [Decidable c] (hs : AddrKept e o s) (ht : AddrKept e o t) :
    AddrKept e o (if c then s else t) := by
  split
  · exact hs
  · exact ht

omit hs in
theorem AddrKept.of_eq {α : Type} {p : α × State} {a : α} (h : AddrKept e o p.2) (eq : p = (a, t)) : AddrKept e o t := by
  subst eq
  exact h

/-- An engine that is replaced, of which the address registers stay where it is `e`. -/
theorem AddrKept.setEng {f : Nat} {y : Engine} (h : (s.eng f).AddrKept y) : AddrKept e o (s.setEng f y) := by
  constructor
  rw [State.eng_setEng]
  split
  · next same => exact hs.eng.trans (same ▸ h)
  · exact hs.eng

theorem AddrKept.modEng {f : Nat} {g : Engine → Engine} (h : (s.eng f).AddrKept (g (s.eng f))) :
    AddrKept e o (s.modEng f g) := hs.setEng h

theorem AddrKept.fqCancel {f q : Nat} : AddrKept e o (s.fqCancel f q) :=
  .ite hs (((hs.calm Calm.rfl.frame).setEng .frame).calm Calm.rfl.rinc)

theorem AddrKept.fqCancelAll {f : Nat} : AddrKept e o (s.fqCancelAll f) := hs.foldl fun _ _ _ hs => hs.fqCancel

theorem AddrKept.engStop {f : Nat} {rec : FaultRec} {isFault : Bool} : AddrKept e o (s.engStop f rec isFault) :=
  ((hs.calm Calm.rfl.frame).setEng .runs).fqCancelAll

theorem AddrKept.learnPhase {f : Nat} {k : Nat × Nat} : AddrKept e o (s.learnPhase f k) :=
  (hs.calm Calm.rfl.setNeed).setEng .frame

/-! #### The Canvas -/

theorem AddrKept.operandLost {f : Nat} {p : CanvasOp} {w : Nat} : AddrKept e o (s.operandLost f p w) := hs.setEng .frame

theorem AddrKept.streamVec {p : CanvasOp} {f j i n v : Nat} : AddrKept e o (streamVec p f j i n s v) := by
  unfold Machine.streamVec
  dsimp only
  split
  · next read => exact ((hs.calm Calm.rfl.readVec).of_eq read).operandLost
  · next read => exact ((hs.calm Calm.rfl.readVec).of_eq read).modEng .frame

theorem AddrKept.canvasWork {f : Nat} {p : CanvasOp} : AddrKept e o (canvasWork s f p) := by
  unfold Machine.canvasWork
  split
  split
  · dsimp only
    split
    · next read => exact ((hs.calm Calm.rfl.deliver).of_eq read).operandLost
    · next read => exact ((hs.calm Calm.rfl.deliver).of_eq read).modEng .frame
  · exact (hs.foldl fun _ _ _ hs => hs.streamVec).modEng .frame

theorem AddrKept.canvasCycle {f : Nat} : AddrKept e o (canvasCycle s f) := by
  unfold Machine.canvasCycle
  exact (hs.foldl fun _ _ _ hs => hs.canvasWork).modEng .frame

/-! #### Signals and rings -/

theorem AddrKept.satisfyWait {w : WaitReg} : AddrKept e o (s.satisfyWait w) := by
  have lapsed := hs.calm (t := { s with waits := s.waits.filter (· ≠ w) }) Calm.rfl.frame
  unfold State.satisfyWait
  dsimp only
  split
  · split
    · exact lapsed
    · exact lapsed.modEng (.ite .runs (.refl _))
  · split
    · exact lapsed
    · split
      · exact lapsed.calm Calm.rfl.nextPre
      · exact lapsed
  · exact lapsed

theorem AddrKept.signal {f v : Nat} : AddrKept e o (s.signal f v).2 :=
  (hs.calm Calm.rfl.applySignal).foldl fun _ _ _ hs => hs.satisfyWait

theorem AddrKept.ringSignal {ctx f v : Nat} : AddrKept e o (s.ringSignal ctx f v) := by
  unfold State.ringSignal
  split
  · exact hs.signal
  · exact hs.calm Calm.rfl.rinc

theorem AddrKept.freeSlots {r : Nat} {l : List PubSlot} : AddrKept e o (s.freeSlots r l) := by
  induction l generalizing s with
  | nil => exact hs
  | cons p l ih => exact ih hs.setRing.ringSignal

theorem AddrKept.ringSettle {r : Nat} : AddrKept e o (s.ringSettle r) :=
  .ite (hs.setRing.freeSlots.setRing.calm Calm.rfl.frame) hs.setRing.freeSlots

theorem AddrKept.prodRelease {r : Nat} {valid : Option Nat} {drops : Nat} {stamps : List Byte} :
    AddrKept e o (s.prodRelease r valid drops stamps) := by
  unfold State.prodRelease
  dsimp only
  split
  · exact hs
  · refine AddrKept.ringSettle (AddrKept.ringSignal (AddrKept.setRing ?_))
    split
    · exact hs.calm Calm.rfl.recordWrite
    · exact hs.calm Calm.rfl.recordWrite.fset

theorem AddrKept.consRelease {r k : Nat} : AddrKept e o (s.consRelease r k) := by
  unfold State.consRelease
  dsimp only
  split
  · exact hs
  · exact hs.setRing.ringSettle

omit hs in
theorem State.undoBundle_eng_other {f : Nat} (other : e ≠ f) (s : State) : (s.undoBundle f).eng e = s.eng e := by
  unfold State.undoBundle
  split
  · rfl
  · dsimp only
    split <;> exact State.eng_setEng_other _ other _

omit hs in
theorem State.tryRacq_eng_other {f j sd : Nat} {role : Role} (other : e ≠ f) (got : s.tryRacq f j sd role = some t) :
    t.eng e = s.eng e := by
  unfold State.tryRacq at got
  dsimp only at got
  split at got
  · contradiction
  · split at got
    · contradiction
    · next i u acquired =>
      cases got
      rw [State.eng_setEng_other _ other, State.keepRing_eng]
      cases role with
      | producer => exact State.prodAcquire_eng acquired e
      | consumer => exact State.consAcquire_eng acquired e

/-- An engine that waits for no ring is woken by none. -/
theorem AddrKept.racqWake {r : Nat} {role : Role} {port f : Nat} : AddrKept e o (s.racqWake r role port f) := by
  unfold State.racqWake
  dsimp only
  split
  · next waits =>
    by_cases same : e = f
    · subst same
      refine ⟨⟨fun is => ?_⟩⟩
      obtain ⟨off, -⟩ := hs.eng.kept is
      simp [Engine.onRing, waits] at off
    · refine .ite (.ite (AddrKept.engStop (hs.of_eng (State.undoBundle_eng_other same s))) ?_) hs
      split
      · next got => exact hs.of_eng (State.tryRacq_eng_other same got)
      · exact hs
  · exact hs

theorem AddrKept.ringWake {r : Nat} : AddrKept e o (s.ringWake r) :=
  (hs.foldl fun _ _ _ hs => hs.racqWake).foldl fun _ _ _ hs => hs.foldl fun _ _ _ hs => hs.racqWake

theorem AddrKept.engRelease {r port : Nat} {role : Role} : AddrKept e o (s.engRelease r port role) := by
  cases role with
  | producer => exact hs.prodRelease.ringWake
  | consumer => exact hs.consRelease.ringWake

/-! #### Power -/

theorem AddrKept.withdraw {lim k : Nat} : AddrKept e o (s.withdraw lim k) := by
  induction k generalizing s with
  | zero => exact hs
  | succ k ih =>
    unfold State.withdraw
    split
    · split
      · exact ih (hs.modEng .frame)
      · exact hs
    · exact hs

theorem AddrKept.applyGrants {gs : List (Nat × Nat × Nat)} : AddrKept e o (s.applyGrants gs) := by
  have falls {l : List (Nat × Nat × Nat)} : AddrKept e o (l.foldl (fun t g => t.modEng g.1 fun x => x.lower g.2.1 g.2.2) s) :=
    hs.foldl fun _ _ _ hs => hs.modEng (.lower _ _ _)
  exact .ite falls (falls.foldl fun _ _ _ hs => hs.modEng (.raise _ _ _))

/-- An update of the PMC. -/
theorem AddrKept.pmc {p : Pmc} : AddrKept e o { s with pmc := p } := hs.of_eng rfl

theorem AddrKept.followCap : AddrKept e o s.followCap := .ite hs.pmc hs

theorem AddrKept.allocate : AddrKept e o s.allocate := hs.withdraw.pmc.applyGrants.pmc.followCap

/-! ### The parts of a cycle -/

theorem AddrKept.readsDue {f : Nat} : AddrKept e o (s.readsDue f) :=
  (hs.setEng .frame).foldl fun _ _ _ hs => hs.calm Calm.rfl.ownRead

theorem AddrKept.postOne {f : Nat} {p : Posted} : AddrKept e o (s.postOne f p) := by
  unfold State.postOne
  split
  · next checked => exact ((hs.calm Calm.rfl.piecesCheck).of_eq checked).modEng .frame
  · next checked =>
    have checked := (hs.calm Calm.rfl.piecesCheck).of_eq checked
    split
    · next written => exact (checked.calm Calm.rfl.writePieces).of_eq written
    · next written => exact ((checked.calm Calm.rfl.writePieces).of_eq written).modEng .frame

theorem AddrKept.postDue {f : Nat} : AddrKept e o (s.postDue f) := (hs.setEng .frame).foldl fun _ _ _ hs => hs.postOne

theorem AddrKept.control {f : Nat} : AddrKept e o (s.control f) :=
  .ite hs (.ite (hs.setEng .frame) (AddrKept.modEng (hs.setEng .frame) .frame))

theorem AddrKept.storeOne {f : Nat} {p : PendStore} : AddrKept e o (s.storeOne f p) := by
  unfold State.storeOne
  split
  · next written => exact (hs.calm Calm.rfl.ownWrite).of_eq written
  · next written => exact ((hs.calm Calm.rfl.ownWrite).of_eq written).modEng .frame

theorem AddrKept.storesDue {f : Nat} : AddrKept e o (s.storesDue f) := (hs.setEng .frame).foldl fun _ _ _ hs => hs.storeOne

theorem AddrKept.syncOne {f : Nat} {y : PendSync} : AddrKept e o (s.syncOne f y) := by
  unfold State.syncOne
  split
  · exact hs.signal.modEng .frame
  · exact hs.engRelease

theorem AddrKept.syncsDue {f : Nat} : AddrKept e o (s.syncsDue f) := (hs.setEng .frame).foldl fun _ _ _ hs => hs.syncOne

theorem AddrKept.phaseDue {f : Nat} : AddrKept e o (s.phaseDue f) := by
  unfold State.phaseDue
  split
  · exact hs
  · exact ((hs.setEng .frame).learnPhase.calm Calm.rfl.touchNeed).allocate

theorem AddrKept.boundary {f : Nat} : AddrKept e o (s.boundary f) := by
  unfold State.boundary
  dsimp only
  split
  · exact .ite hs.engStop (.ite (hs.setEng .frame) (hs.setEng .frame))
  · exact .ite hs.engStop (.ite (hs.setEng .runs).followCap (.ite hs.fqCancelAll hs))

end

/-! ### Results that land -/

theorem State.remoteReply_dest (s : State) (p : PendRes) (r : RemoteLoad) : (s.remoteReply p r).1.dest = p.dest := by
  unfold State.remoteReply
  split
  · rfl
  · split <;> rfl

/-- An engine that has landed a result, or found its fault. -/
def Engine.landed (x : Engine) (p : PendRes) : Engine :=
  match p.fault with
  | some f => x.setLate f
  | none => x.land p

theorem Engine.AddrKept.landed {x : Engine} {p : PendRes} (other : p.isAreg = false) : x.AddrKept (x.landed p) := by
  unfold Engine.landed
  split
  · exact .frame
  · exact .land other

section
variable {e : Nat} {o s : State}

/-- A result for another register lands. -/
theorem AddrKept.landRes {p : PendRes} (hs : AddrKept e o s) (other : p.isAreg = false) : AddrKept e o (s.landRes e p) := by
  unfold State.landRes
  dsimp only
  split
  · next r _ =>
    refine (hs.calm Calm.rfl.remoteReply).modEng (.landed (p := (s.remoteReply p r).1) ?_)
    rw [PendRes.isAreg, State.remoteReply_dest]
    exact other
  · exact hs.modEng (.landed other)

/-- A result that is data at issue, and no fault. -/
def PendRes.sure (p : PendRes) : Prop := p.rld = none ∧ p.fault = none

/-- The address registers after results have landed in order. -/
def landA (m : SMap AReg) (p : PendRes) : SMap AReg :=
  match p.dest with
  | .areg r f => minsert r ((mget (fun _ => {}) m r).set f (BitVec.ofNat 32 p.val)) m
  | _ => m

/-- An address register after a write of one of its fields. -/
theorem areg_landA {p : PendRes} {ak : Nat} {fld : AField} {v : W32} (dest : p.dest = .areg ak fld) (val : p.val = v.toNat)
    (x : Engine) (k : Nat) :
    mget (fun _ => {}) (landA x.aregs p) k = if k = ak then (x.areg k).set fld v else x.areg k := by
  simp only [landA, dest, val, BitVec.ofNat_toNat, BitVec.setWidth_eq]
  split
  · next same =>
    rw [same]
    exact mget_minsert_same ..
  · next other => exact mget_minsert_other _ other ..

theorem State.landRes_sure {p : PendRes} (sure : p.sure) (s : State) : s.landRes e p = s.modEng e fun x => x.land p := by
  simp only [State.landRes, sure.1, sure.2]

theorem Engine.addrIs_land {x : Engine} {p : PendRes} {m : SMap AReg} {l : List PendRes} {c : Nat} (dest : p.isAreg = true)
    (is : x.addrIs m l c) : (x.land p).addrIs (landA m p) l c := by
  obtain ⟨off, rfl, owed, cyc⟩ := is
  unfold Engine.land landA
  unfold PendRes.isAreg at dest
  split at dest
  · next r f same =>
    rw [same]
    exact ⟨off, rfl, owed, cyc⟩
  · contradiction

/-- Results land: those for address registers in order. -/
theorem State.addrIs_landRes_foldl {m : SMap AReg} {owed : List PendRes} {c : Nat} (l : List PendRes)
    (sure : ∀ p ∈ l, p.isAreg = true → p.sure) (is : (s.eng e).addrIs m owed c) :
    ((l.foldl (fun t p => t.landRes e p) s).eng e).addrIs ((l.filter PendRes.isAreg).foldl landA m) owed c := by
  induction l generalizing s m with
  | nil => exact is
  | cons p l ih =>
    have later : ∀ p ∈ l, p.isAreg = true → p.sure := fun q hq => sure q (List.mem_cons_of_mem _ hq)
    rw [List.foldl_cons]
    cases dest : p.isAreg with
    | true =>
      rw [List.filter_cons_of_pos dest, State.landRes_sure (sure p List.mem_cons_self dest)]
      refine ih later ?_
      rw [State.eng_modEng_same]
      exact Engine.addrIs_land dest is
    | false =>
      rw [List.filter_cons_of_neg (by simp [dest])]
      exact ih later ((AddrKept.refl s).landRes dest |>.eng.kept is)

/-- The palette writes of a cycle land. -/
theorem AddrKept.landDue_pal (hs : AddrKept e o s) : AddrKept e o (s.landDue e true) := by
  unfold State.landDue
  dsimp only
  refine AddrKept.foldl (hs.setEng ⟨fun ⟨off, aregs, owed, cyc⟩ => ⟨off, aregs, Eq.trans ?_ owed, cyc⟩⟩) fun t p hp hs => ?_
  · rw [Engine.owedA, Engine.owedA, List.filter_filter]
    refine List.filter_congr fun p _ => ?_
    unfold PendRes.isAreg PendRes.isPal
    cases p.dest <;> simp
  · refine hs.landRes ?_
    have pal := (List.mem_filter.1 hp).2
    unfold PendRes.isPal at pal
    unfold PendRes.isAreg
    cases dest : p.dest <;> simp [dest] at pal ⊢

/-- The other results of a cycle land. -/
theorem State.addrIs_landDue {m : SMap AReg} {owed : List PendRes} {c : Nat} (sure : ∀ p ∈ owed, p.sure)
    (is : (s.eng e).addrIs m owed c) :
    ((s.landDue e false).eng e).addrIs ((owed.filter fun p => decide (p.due ≤ c)).foldl landA m)
      (owed.filter fun p => !decide (p.due ≤ c)) c := by
  obtain ⟨off, rfl, rfl, rfl⟩ := is
  have late (p : PendRes) (dest : p.isAreg = true) :
      (decide (p.due ≤ (s.eng e).cyc) && p.isPal == false) = decide (p.due ≤ (s.eng e).cyc) := by
    unfold PendRes.isAreg at dest
    unfold PendRes.isPal
    cases h : p.dest <;> simp [h] at dest ⊢
  have lands : ((s.eng e).pend.filter fun p => decide (p.due ≤ (s.eng e).cyc) && p.isPal == false).filter PendRes.isAreg =
      (s.eng e).owedA.filter fun p => decide (p.due ≤ (s.eng e).cyc) := by
    rw [List.filter_comm, Engine.owedA]
    exact List.filter_congr fun p hp => late p (List.mem_filter.1 hp).2
  have stays : ((s.eng e).pend.filter fun p => !(decide (p.due ≤ (s.eng e).cyc) && p.isPal == false)).filter PendRes.isAreg =
      (s.eng e).owedA.filter fun p => !decide (p.due ≤ (s.eng e).cyc) := by
    rw [List.filter_comm, Engine.owedA]
    exact List.filter_congr fun p hp => congrArg not (late p (List.mem_filter.1 hp).2)
  rw [← lands, ← stays]
  refine State.addrIs_landRes_foldl _ (fun p hp dest => ?_) ?_
  · exact sure p (List.mem_filter.2 ⟨(List.mem_filter.1 hp).1, dest⟩)
  · rw [State.eng_setEng_same]
    exact ⟨off, rfl, rfl, rfl⟩

/-! ### A cycle, and the cycles up to a bundle -/

/-- The address registers and what is owed to them after one cycle (R103). -/
theorem addrIs_tick {m : SMap AReg} {owed : List PendRes} {c : Nat} (runs : s.tripped = false) (sure : ∀ p ∈ owed, p.sure)
    (is : (s.eng e).addrIs m owed c) :
    ((tick e s).eng e).addrIs ((owed.filter fun p => decide (p.due ≤ c + 1)).foldl landA m)
      (owed.filter fun p => !decide (p.due ≤ c + 1)) (c + 1) := by
  have front : AddrKept e s ((((canvasCycle (s.readsDue e) e).modEng e Engine.performRows).landDue e true).postDue e |>.control e) :=
    (AddrKept.refl s).readsDue.canvasCycle.modEng (.performRows _) |>.landDue_pal.postDue.control
  unfold tick
  rw [runs]
  dsimp only
  rw [if_neg (by decide)]
  generalize (((canvasCycle (s.readsDue e) e).modEng e Engine.performRows).landDue e true).postDue e = u at front ⊢
  have ticked : (((((u.control e).modEng e fun x => x.tock (u.eng e).issues).suppress e 1)).eng e).addrIs m owed (c + 1) := by
    rw [Calm.rfl.suppress.eng, State.eng_modEng_same]
    obtain ⟨off, aregs, owes, cyc⟩ := front.eng.kept is
    exact ⟨off, aregs, owes, congrArg (· + 1) cyc⟩
  have tail {v : State} : AddrKept e v ((((v.storesDue e).syncsDue e).phaseDue e).boundary e) :=
    (AddrKept.refl v).storesDue.syncsDue.phaseDue.boundary
  exact tail.eng.kept (State.addrIs_landDue sure ticked)

/-- Where nothing is owed to an address register, none changes. -/
theorem addrIs_advance {m : SMap AReg} (n : Nat) {c : Nat} (is : (s.eng e).addrIs m [] c) :
    ∃ d, (((advance e n s).1).eng e).addrIs m [] d := by
  induction n generalizing s c with
  | zero => exact ⟨c, is⟩
  | succ n ih =>
    unfold advance
    split
    · cases trip : s.tripped with
      | true => exact ih (by unfold tick; rw [if_pos trip]; exact is)
      | false => exact ih (addrIs_tick (owed := []) trip nofun is)
    · exact ⟨c, is⟩

end

/-! ### The bundle that writes, and later ones -/

theorem State.openBundle_opened (s : State) (e : Nat) : ((s.openBundle e).eng e).opened = true := by
  unfold State.openBundle
  dsimp only
  split
  · next opened => exact opened
  · exact congrArg Engine.opened (State.eng_setEng_same s e _)

theorem State.openBundle_of_opened {s : State} {e : Nat} (opened : (s.eng e).opened = true) : s.openBundle e = s :=
  if_pos opened

theorem State.openBundle_areg (s : State) (e k : Nat) : ((s.openBundle e).eng e).areg k = (s.eng e).areg k := by
  unfold State.openBundle
  dsimp only
  split
  · rfl
  · exact congrArg (fun x => x.areg k) (State.eng_setEng_same s e _)

section
variable {h g : Issue} {s t : State} (engine : g.ne = h.ne)
  {ak : Fin 32} {fld : AField} {v : W32}
include engine

/-- A slot of the same bundle finds the old value. -/
theorem issuer_sameBundle (same : g.dt = 0) (opened : (t.eng h.ne.val).opened = true) : issuer g t = t.eng h.ne.val := by
  rw [issuer, started, reached, engine, same]
  change (t.openBundle _).eng _ = _
  rw [State.openBundle_of_opened opened]

/-- A later bundle finds the address registers with the write, where nothing else is owed to them. -/
theorem areg_issuer_later (later : 1 ≤ g.dt) (ready : issues g t) {p : PendRes} (owed : (t.eng h.ne.val).owedA = [p])
    (sure : p.sure) (due : p.due ≤ (t.eng h.ne.val).cyc + 1) (k : Nat) :
    (issuer g t).areg k = mget (fun _ => {}) (landA (t.eng h.ne.val).aregs p) k := by
  obtain ⟨n, hn⟩ : ∃ n, g.dt = n + 1 := ⟨g.dt - 1, by omega⟩
  obtain ⟨runs, -, reach, -⟩ := ready
  rw [issuer, started, reached, State.openBundle_areg]
  rw [engine, hn] at reach ⊢
  unfold advance at reach ⊢
  split at reach
  · next goes =>
    rw [if_pos goes]
    have off : (t.eng h.ne.val).onRing = false := by rw [Engine.onRing, goes.1]
    have landed := addrIs_tick runs (by simpa using sure) ⟨off, rfl, owed, rfl⟩
    simp only [List.filter_cons_of_pos, due, decide_true, List.filter_nil, List.foldl_cons, List.foldl_nil, Bool.not_true,
      Bool.false_eq_true, not_false_eq_true, List.filter_cons_of_neg] at landed
    obtain ⟨d, -, aregs, -⟩ := addrIs_advance n landed
    rw [Engine.areg, aregs]
  · contradiction

end

/-- Settles O2: in its own bundle the write is owed; the first cycle after it lands it, and no later one touches it. -/
theorem addressWriteTiming : Obligations.AddressWriteTiming := by
  intro h s ak fld v ready
  have pass : worst [(issuer h s).needS 0] = none := by
    rw [Engine.needS_none.2 (.inl rfl)]
    rfl
  generalize ht : (((started h s).modEng h.ne.val fun x => x.put 1 (.areg ak.val fld) (2 ^ 32 - 1) v.toNat).modEng h.ne.val
    fun x => x.noteReads [.sreg 0]) = t
  have eng : t.eng h.ne.val = { issuer h s with
      pend := (issuer h s).pend ++ [(issuer h s).result 1 (.areg ak.val fld) (2 ^ 32 - 1) v.toNat]
      regReads := (issuer h s).regReads ++ [.sreg 0] } := by
    rw [← ht, State.eng_modEng_same, State.eng_modEng_same]
    rfl
  refine ⟨t, (congrArg Host.Outcome.next ((issue_ready ready pass).trans ht)), fun g engine same _ k imm => ?_,
    fun g engine later ready' none k => ?_⟩
  · rw [issuer_sameBundle engine same (by rw [eng]; exact State.openBundle_opened ..), eng]
    exact ⟨rfl, rfl⟩
  · have aregs : (t.eng h.ne.val).aregs = (issuer h s).aregs := by rw [eng]
    have owed : (t.eng h.ne.val).owedA = [(issuer h s).result 1 (.areg ak.val fld) (2 ^ 32 - 1) v.toNat] := by
      rw [eng, Engine.owedA, List.filter_append, List.filter_eq_nil_iff.2 fun p hp => ?_]
      · rfl
      · have := none p hp
        unfold PendRes.isAreg
        split
        · next dest => exact absurd dest (this _ _)
        · simp
    rw [areg_issuer_later engine later ready' owed ⟨rfl, rfl⟩ (by rw [eng]; exact Nat.le_refl _), aregs]
    rw [areg_landA rfl rfl]
    refine if_congr Iff.rfl ?_ rfl
    cases fld with
    | base => rfl
    | bound => rfl
    | stride i => fin_cases i <;> rfl

end Sys2Proof.Machine

/-! SUPPORT. Commands that commit (R267, R268, R278, R281), and RUN (R91, R233, R234, R264, R266). -/
namespace Sys2Proof.Machine

open Sys2Proof

-- one proof after the other: a thread for each would need too much memory
set_option Elab.async false

/-! ### The record of a command -/

/-- The fields of a record that its command and its status decide. -/
def Rec.head (r : Rec) : Nat × Nat × Nat × Nat × Nat × Nat × Nat × List Nat × Nat × List (Nat × Nat) :=
  (r.status, r.sub, r.cmdId, r.seq, r.key, r.sq, r.ctx, r.pins, r.cq, r.signals)

theorem State.recordOf_head (s : State) (c : Cmd) (st sub : Nat) {f : Rec → Rec} (keeps : ∀ r, (f r).head = r.head) :
    (s.recordOf c st sub f).head = (if s.fatal then 0xF0 else st, if s.fatal then 0 else sub, fieldAt c.desc 8 4, c.rseq, c.seq,
      c.sq, c.ctx, c.pins, c.cq, if s.fatal = false ∧ st = 0 then s.cmdSignals c else []) := by
  unfold State.recordOf
  cases s.fatal with
  | true => rfl
  | false =>
    dsimp only
    rw [if_neg Bool.false_ne_true, keeps]
    simp only [Rec.head, Cmd.record, true_and, Bool.false_eq_true, if_false]
    rfl

theorem State.recordOf_fatal {s : State} (fatal : s.fatal = false) (c : Cmd) (st sub : Nat) (f : Rec → Rec) :
    s.recordOf c st sub f = f { c.record with
      status := st, sub := sub, signals := if st = stOk then s.cmdSignals c else [] } := by
  rw [State.recordOf, fatal]
  rfl

/-! ### What a commit does -/

theorem State.ctxFault_frame (s : State) (ctx st : Nat) : s.ctxFault ctx st = { s with regs := (s.ctxFault ctx st).regs } := by
  unfold State.ctxFault
  split <;> rfl

/-- A commit leaves everything alone but the registers, the commands, their records and their waits. -/
theorem State.commit_frame (s : State) (c : Cmd) (st sub : Nat) (f : Rec → Rec) :
    s.commit c st sub f = { s with
      regs := (s.ctxFault c.ctx (s.recordOf c st sub f).status).regs
      cmds := (s.commit c st sub f).cmds
      commitQ := (s.commit c st sub f).commitQ
      waits := (s.commit c st sub f).waits } := by
  unfold State.commit State.commitAborts
  dsimp only
  rw [s.ctxFault_frame]

/-- A command leaves with its record, before the ABORTs that waited for it commit. -/
def State.enrolled (s : State) (c : Cmd) (r : Rec) : State :=
  { s.ctxFault c.ctx r.status with
    cmds := (s.cmds.filter fun d => !(d.sq == c.sq && d.seq == c.seq)).map fun d =>
      { d with targets := d.targets.filter (· ≠ (c.sq, c.seq)) }
    commitQ := s.commitQ ++ [r]
    waits := s.waits.filter fun w => !(match w.task with
      | some t => t.sq == c.sq && t.seq == c.seq
      | none => false) }

theorem State.commit_eq (s : State) (c : Cmd) (st sub : Nat) (f : Rec → Rec) :
    s.commit c st sub f = (s.enrolled c (s.recordOf c st sub f)).commitAborts := rfl

theorem State.commitAborts_commitQ (s : State) : ∃ l, s.commitAborts.commitQ = s.commitQ ++ l := ⟨_, rfl⟩

theorem State.commit_commitQ (s : State) (c : Cmd) (st sub : Nat) (f : Rec → Rec) :
    ∃ l, (s.commit c st sub f).commitQ = s.commitQ ++ s.recordOf c st sub f :: l := by
  obtain ⟨l, commits⟩ := (s.enrolled c (s.recordOf c st sub f)).commitAborts_commitQ
  exact ⟨l, commits.trans (List.append_assoc ..)⟩

theorem State.mem_commit_cmds {s : State} {c d : Cmd} {st sub : Nat} {f : Rec → Rec} (stays : d ∈ (s.commit c st sub f).cmds) :
    ¬ (d.sq = c.sq ∧ d.seq = c.seq) := by
  obtain ⟨stays, -⟩ := List.mem_filter.1 (show d ∈ (s.enrolled c (s.recordOf c st sub f)).cmds.filter _ from stays)
  obtain ⟨e, he, rfl⟩ := List.mem_map.1 stays
  obtain ⟨-, other⟩ := List.mem_filter.1 he
  rintro ⟨same, next⟩
  simp [show e.sq = c.sq from same, show e.seq = c.seq from next] at other

/-- A command that commits in a state that has the commit queue, the fatal mark and the signals of `s`. -/
theorem State.completes_commit {s u : State} {c : Cmd} {st sub : Nat} {f : Rec → Rec} (queue : u.commitQ = s.commitQ)
    (fatal : u.fatal = s.fatal) (signals : st = 0 → u.cmdSignals c = s.cmdSignals c) (keeps : ∀ r, (f r).head = r.head) :
    s.completes (u.commit c st sub f) c st sub := by
  obtain ⟨l, commits⟩ := u.commit_commitQ c st sub f
  have head := u.recordOf_head c st sub keeps
  simp only [Rec.head, Prod.mk.injEq, fatal] at head
  obtain ⟨status, sub', cmdId, seq, key, sq, ctx, pins, cq, sigs⟩ := head
  refine ⟨⟨_, l, by rw [commits, queue], status, sub', cmdId, seq, key, sq, ctx, pins, cq, sigs.trans ?_⟩,
    fun d hd same next => ?_⟩
  · by_cases ok : s.fatal = false ∧ st = 0
    · rw [if_pos ok, if_pos ok, signals ok.2]
    · rw [if_neg ok, if_neg ok]
  · exact State.mem_commit_cmds hd ⟨same, next⟩

/-- A command that commits. -/
theorem State.completes_commit_self (s : State) (c : Cmd) (st sub : Nat) {f : Rec → Rec} (keeps : ∀ r, (f r).head = r.head) :
    s.completes (s.commit c st sub f) c st sub :=
  State.completes_commit rfl rfl (fun _ => rfl) keeps

theorem State.commit_engines (s : State) (c : Cmd) (st sub : Nat) (f : Rec → Rec) :
    (s.commit c st sub f).engines = s.engines := by rw [State.commit_frame]

theorem State.commit_mem (s : State) (c : Cmd) (st sub : Nat) (f : Rec → Rec) : (s.commit c st sub f).mem = s.mem := by
  rw [State.commit_frame]

theorem State.ready?_cmd {s : State} {sq seq op : Nat} {c : Cmd} (ready : s.ready? sq seq op = some c) :
    s.cmd? sq seq = some c := by
  unfold State.ready? at ready
  split at ready
  · next d found =>
    split at ready
    · exact found.trans ready
    · contradiction
  · contradiction

/-! ### The tasks of a RUN -/

/-- An engine with further tasks behind those it has. -/
def Engine.queued (x : Engine) (l : List Task) : Engine := { x with queue := x.queue ++ l }

theorem Engine.queued_nil (x : Engine) : x.queued [] = x := by
  rw [Engine.queued, List.append_nil]

theorem Engine.queued_queued (x : Engine) (l m : List Task) : (x.queued l).queued m = x.queued (l ++ m) := by
  simp only [Engine.queued, List.append_assoc]

theorem State.enqueue_cons (s : State) (c : Cmd) (k : Task) (ts : List Task) :
    s.enqueue c (k :: ts) = (s.modEng (k.engine c) fun x => x.queued [k]).enqueue c ts := rfl

theorem State.enqueue_frame (s : State) (c : Cmd) (ts : List Task) :
    s.enqueue c ts = { s with engines := (s.enqueue c ts).engines } := by
  induction ts generalizing s with
  | nil => rfl
  | cons k ts ih =>
    rw [State.enqueue_cons]
    conv_lhs => rw [ih]
    rfl

theorem State.enqueue_cmds (s : State) (c : Cmd) (ts : List Task) : (s.enqueue c ts).cmds = s.cmds := by
  rw [State.enqueue_frame]

/-- Tasks queued on their engines: each behind what its engine has. -/
theorem State.enqueue_eng (s : State) (c : Cmd) (ts : List Task) (e : Nat) :
    (s.enqueue c ts).eng e = (s.eng e).queued (ts.filter fun k => k.engine c == e) := by
  induction ts generalizing s with
  | nil => exact (Engine.queued_nil _).symm
  | cons k ts ih =>
    rw [State.enqueue_cons, ih, State.modEng, State.eng_setEng]
    by_cases own : k.engine c = e
    · subst own
      have first : (k :: ts).filter (fun j => j.engine c == k.engine c) = k :: ts.filter fun j => j.engine c == k.engine c :=
        List.filter_cons_of_pos (beq_self_eq_true _)
      rw [if_pos rfl, first, Engine.queued_queued]
      rfl
    · have skipped : (k :: ts).filter (fun j => j.engine c == e) = ts.filter fun j => j.engine c == e :=
        List.filter_cons_of_neg (by simpa using own)
      rw [if_neg (Ne.symm own), skipped]

/-- A task that the checks of R234 pass is the part's. -/
theorem State.partTask_ok {s u : State} {c : Cmd} {split : Bool} {im : Image} {bind : Except CmdErr (List Byte)}
    {p : PartReq × Bool} {k : Task} (pass : s.partTask c split im bind p = (.ok k, u)) :
    p.1.tbase + p.1.tlimit ≤ 3584 ∧ k.ctx = c.ctx ∧ k.image = fieldAt c.desc 16 2 ∧ k.tbase = p.1.tbase * 65536 ∧
      k.tlimit = p.1.tlimit * 65536 ∧ k.id = ⟨c.sq, c.seq, if split then engFin p.1.eng else none⟩ := by
  unfold State.partTask at pass
  dsimp only at pass
  split at pass
  · cases pass
  split at pass
  · cases pass
  next fits =>
  split at pass
  · cases pass
  split at pass
  · cases pass
  split at pass
  · cases pass
  split at pass
  · cases pass
  split at pass
  · cases pass
  split at pass
  · cases pass
  cases pass
  exact ⟨Nat.not_lt.1 fits, rfl, rfl, rfl, rfl, rfl⟩

/-- The plan of an unsplit RUN is the one task of its descriptor. -/
theorem State.runPlan_unsplit {s u : State} {c : Cmd} {ts : List Task} {st : List (Nat × Nat × Nat)}
    (plan : s.runPlan c = (.ok (ts, st), u)) (whole : c.split = false) :
    ∃ (v : State) (im : Image) (bind : Except CmdErr (List Byte)) (k : Task), ts = [k] ∧
      v.partTask c false im bind ({ eng := fieldAt c.desc 18 1, tbase := fieldAt c.desc 20 2, tlimit := fieldAt c.desc 22 2
                                    args := fieldAt c.desc 24 8 }, true) = (.ok k, u) := by
  unfold State.runPlan at plan
  split at plan
  · cases plan
  next im _ =>
  split at plan
  · cases plan
  rw [whole] at plan
  dsimp only at plan
  rw [if_neg (by decide)] at plan
  split at plan
  · cases plan
  split at plan
  · cases plan
  next tasks =>
  cases plan
  unfold State.partTasks at tasks
  split at tasks
  · cases tasks
  next task =>
  cases tasks
  exact ⟨_, im, _, _, rfl, task⟩

/-- A RUN whose handle holds no image of its context, or one that R264 refuses. -/
theorem State.runPlan_refused {s : State} {c : Cmd}
    (refused : ∀ im, mfind s.images (fieldAt c.desc 16 2) = some im → s.pmtCtx im.ctx = s.pmtCtx c.ctx →
      c.split = false ∧ ¬ (fieldAt c.desc 18 1 ≤ 5 ∧ im.engs / 2 ^ fieldAt c.desc 18 1 % 2 = 1 ∧
        fieldAt c.desc 20 2 * 65536 = im.tbase ∧ im.taskMin ≤ fieldAt c.desc 22 2 * 65536)) :
    s.runPlan c = (.error { st := stRejected, sub := 0x11 }, s) := by
  unfold State.runPlan
  split
  · rfl
  next im found =>
  split
  · rfl
  next same =>
  obtain ⟨whole, bad⟩ := refused im found (not_not.1 same)
  rw [whole]
  dsimp only
  have stays : im.admits { eng := fieldAt c.desc 18 1, tbase := fieldAt c.desc 20 2, tlimit := fieldAt c.desc 22 2
                           args := fieldAt c.desc 24 8 } = false := by
    refine Bool.eq_false_iff.2 fun admits => bad ?_
    simpa [Image.admits, and_assoc] using admits
  rw [if_neg (by decide), stays]
  rfl

theorem execRun_refused {s : State} {sq : Fin 1024} {seq : W32} {c : Cmd} (ready : s.ready? sq.val seq.toNat 4 = some c)
    (plan : s.runPlan c = (.error { st := stRejected, sub := 0x11 }, s)) :
    ∃ t, exec (.run sq seq) s = .next t ∧ s.completes t c 0x10 0x11 ∧ t.engines = s.engines ∧ t.mem = s.mem := by
  refine ⟨s.failCmd c { st := stRejected, sub := 0x11 }, ?_, s.completes_commit_self c _ _ fun _ => rfl,
    s.commit_engines .., s.commit_mem ..⟩
  change Host.Outcome.next (match s.ready? sq.val seq.toNat 4 with
    | none => s
    | some c => match s.runPlan c with
      | (.error x, s) => s.failCmd c x
      | (.ok p, s) => _) = _
  rw [ready]
  dsimp only
  rw [plan]

theorem execRun_queues {s u : State} {sq : Fin 1024} {seq : W32} {c : Cmd} {ts : List Task} {st : List (Nat × Nat × Nat)}
    (ready : s.ready? sq.val seq.toNat 4 = some c) (plan : s.runPlan c = (.ok (ts, st), u)) :
    exec (.run sq seq) s = .next ((u.modCmd c.sq c.seq fun d => { d with
      phase := .running, parts := if c.split then ts.map fun k => ⟨k.engine c, none⟩ else [] }).enqueue c ts) := by
  change Host.Outcome.next (match s.ready? sq.val seq.toNat 4 with
    | none => s
    | some c => match s.runPlan c with
      | (.error x, s) => _
      | (.ok p, s) => (s.modCmd c.sq c.seq fun d => { d with
          phase := .running, parts := if c.split then p.1.map fun t : Task => ⟨t.engine c, none⟩ else [] }).enqueue c p.1) = _
  rw [ready]
  dsimp only
  rw [plan]

/-- Settles O19: the plan's tasks are queued in order, an unsplit plan is the one task that R234 passes, and R264's checks
come first. -/
theorem runCommand : Obligations.RunCommand := by
  intro s sq seq c ready
  refine ⟨fun ts st u plan => ?_, fun ts st u k plan whole member => ?_, fun foreign => ?_, fun im found own whole bad => ?_⟩
  · refine ⟨_, execRun_queues ready plan, ?_, fun e => State.enqueue_eng .., ?_⟩
    · rw [State.enqueue_cmds]
      conv_lhs => rw [State.enqueue_frame]
      rfl
    · rw [State.enqueue_cmds]
      rfl
  · obtain ⟨v, im, bind, j, rfl, task⟩ := State.runPlan_unsplit plan whole
    cases List.mem_singleton.1 member
    obtain ⟨fits, ctx, image, tbase, tlimit, id⟩ := State.partTask_ok task
    exact ⟨rfl, ctx, image, tbase, tlimit, id, fits⟩
  · exact execRun_refused ready (State.runPlan_refused fun im found own => absurd own (foreign im found))
  · refine execRun_refused ready (State.runPlan_refused fun im' found' _ => ⟨whole, ?_⟩)
    cases found.symm.trans found'
    exact bad

end Sys2Proof.Machine

/-! SUPPORT. A load by a command whose context number no range register of R286 stands for (R91, R264). -/
namespace Sys2Proof.Machine

open Sys2Proof

-- one proof after the other: a thread for each would need too much memory
set_option Elab.async false

/-! ### LOAD_IMAGE of a context without a range register

`Obligations.LoadAndUnload` bounds the context of its command by nothing, and the model finds the range register of
context `x` at 0x501000 + 8·x. For x = 130567 that is 0x600038, the address of CPQ_LOADPROG: the progress that the load
writes there as it ends takes the place of the range, its COUNT becomes 0, and the record carries no SIGNAL entry. -/

/-- The number of the context. -/
def strayCtx : Nat := 130567

/-- A section table entry: type, offset, size and place. -/
def straySection (l : List Nat) : List Byte := (l.map (leBytes 8)).flatten

/-- An image without its digest: header, five sections, their contents; its program is the one bundle END. -/
def strayUndigested : List Byte :=
  [leBytes 4 0x424B4149, leBytes 2 1, leBytes 2 128, leBytes 4 0, leBytes 4 5, leBytes 8 512, leBytes 8 128,
    leBytes 2 1, leBytes 94 0,
    straySection [1, 320, 16, 0], straySection [2, 384, 64, 0], straySection [3, 448, 32, 0x400],
    straySection [4, 512, 0, 0], straySection [5, 512, 0, 0], leBytes 32 0,
    leBytes 64 1, leBytes 8 0x10000, leBytes 2 1, leBytes 10 0, leBytes 1 0x3F, leBytes 43 0,
    leBytes 8 0, leBytes 8 (((encodeWord (.end_ ⟨0, 0⟩)).map (·.2)).getD 0), leBytes 48 0].flatten

/-- The image. -/
def strayImage : List Byte :=
  strayUndigested.take 48 ++ sha256 (digested strayUndigested) ++ strayUndigested.drop 80

/-- LOAD_IMAGE of 512 bytes at page 1 into handle 3 for engine 0, which signals fence 0 of its context with 7. -/
def strayLoad : Cmd :=
  { sq := 0, seq := 7, rseq := 7, ctx := strayCtx, sync := [⟨0, 1, 0, 7⟩], phase := .dispatched, pins := [], pre := none
    desc := [leBytes 16 2, leBytes 2 3, leBytes 4 1, leBytes 4 1, leBytes 6 1, leBytes 32 512].flatten }

/-- The registers: windows over the image and over the task region of slice 0, and one fence for the context. -/
def strayRegs : State :=
  State.reset |>.rset (.gsWinCtl 0 1) 0x10C |>.rset (.gsWinSize 0 1) 0x20000
    |>.rset (.gsWinCtl 0 0) 0x10C |>.rset (.gsWinBase 0 0) 0x200000 |>.rset (.gsWinSize 0 0) 0x10000
    |>.rset (.fenceCtxRangeR strayCtx) (2 ^ 32)

/-- The device with the image, the page of the context that holds it, and the command. -/
def strayState : State :=
  { strayRegs.setBytes 0x200000 strayImage with
    pmt := [(pmtSet 0 1 strayCtx * 8, ⟨false, true, true, strayCtx, 1, 32, 0⟩)], cmds := [strayLoad] }

/-- The device after the command has read the image. -/
def strayRead : State := (strayState.cpRead strayCtx 0x10000 512).2

/-- What a read answers. -/
def readBytes (r : Except CmdErr (List Byte) × State) : Option (List Byte) :=
  match r.1 with
  | .ok b => some b
  | .error _ => none

/-- The SIGNAL entries of the records that an instruction leaves. -/
def signalsLeft (o : Host.Outcome State Fault Refusal) : Option (List (List (Nat × Nat))) :=
  match o with
  | .next t => some (t.commitQ.map (·.signals))
  | _ => none

/-- A read that answers bytes is that answer with the state it leaves. -/
theorem eq_ok_of_readBytes {r : Except CmdErr (List Byte) × State} {b : List Byte} (h : readBytes r = some b) :
    r = (.ok b, r.2) := by
  obtain ⟨_ | bs, s⟩ := r
  · cases h
  · cases h
    rfl

theorem strayState_ready : (strayState.ready? 0 7 2).isSome = true := by decide +kernel

theorem strayState_reads : readBytes (strayState.cpRead strayCtx 0x10000 512) = some strayImage := by decide +kernel

/-- The verifier accepts the image, its task region is large enough, and every section is placed. -/
theorem strayRead_accepts : strayRead.verify strayImage 1 = none ∧ (parseRes (sectBody strayImage 2)).taskMin = 65536 ∧
    (strayRead.placeOn strayImage 0 [0]).1 = [] := by decide +kernel

/-- Before the load the command has one SIGNAL entry to send; no record waits and the device runs. -/
theorem strayRead_signals : strayRead.cmdSignals strayLoad = [(0, 7)] ∧ strayRead.commitQ = [] ∧
    strayRead.fatal = false := by decide +kernel

/-- The record of the load carries none. -/
theorem strayState_signalsLeft : signalsLeft (exec (.loadImage 0 7) strayState) = some [[]] := by decide +kernel

/-- The fields of the command's descriptor: handle, engines, task region, address and size. -/
theorem strayLoad_fields : fieldAt strayLoad.desc 16 2 = 3 ∧ maskList (fieldAt strayLoad.desc 18 1) = [0] ∧
    fieldAt strayLoad.desc 18 1 = 1 ∧ fieldAt strayLoad.desc 20 2 = 0 ∧ fieldAt strayLoad.desc 22 2 = 1 ∧
    fieldAt strayLoad.desc 24 8 = 0x10000 ∧ fieldAt strayLoad.desc 32 8 = 512 := by decide +kernel

/-- The command is the one that is dispatched. -/
theorem strayState_ready_eq : strayState.ready? (0 : Fin 1024).val (7 : W32).toNat 2 = some strayLoad := by
  obtain ⟨c, found⟩ := Option.isSome_iff_exists.mp strayState_ready
  have among : c ∈ strayState.cmds := by
    have cmd := State.ready?_cmd found
    exact List.mem_of_find?_eq_some cmd
  rw [List.mem_singleton.mp among] at found
  exact found

/-- The record of a load that ends as the statement says would carry the entry. -/
theorem not_completes_of_signalsLeft {u t : State} {c : Cmd} {o : Host.Outcome State Fault Refusal} (next : o = .next t)
    (left : signalsLeft o = some [[]]) (none_waits : u.commitQ = []) (runs : u.fatal = false)
    (sends : u.cmdSignals c ≠ []) : ¬ u.completes t c 0 0 := by
  rintro ⟨⟨r, l, queue, -, -, -, -, -, -, -, -, -, signals⟩, -⟩
  subst next
  have all : t.commitQ.map (·.signals) = [[]] := Option.some.inj left
  rw [queue, none_waits] at all
  have first : r.signals = [] := (List.cons.inj all).1
  rw [signals, if_pos ⟨runs, rfl⟩] at first
  exact sends first

/-- Refutes O18: of a context without a range register, the load's own progress register stands where its fence range
does, and the record that ends a successful load loses its SIGNAL entry. -/
theorem not_loadAndUnload : ¬ Obligations.LoadAndUnload := by
  intro holds
  obtain ⟨handle, engs, mask, base, limit, addr, size⟩ := strayLoad_fields
  obtain ⟨accepts, taskMin, placed⟩ := strayRead_accepts
  obtain ⟨sends, none_waits, runs⟩ := strayRead_signals
  have loads := (holds strayState 0 7 strayLoad 3 handle.symm).1 strayImage strayRead
  rw [base, limit, addr, size, mask, taskMin] at loads
  obtain ⟨t, next, -, succeeds⟩ := loads strayState_ready_eq rfl (by decide) (eq_ok_of_readBytes strayState_reads)
  obtain ⟨completes, -⟩ := succeeds accepts (by decide) (by rw [mask] at engs; rw [engs]; exact placed)
  exact not_completes_of_signalsLeft next strayState_signalsLeft none_waits runs (by rw [sends]; decide) completes

end Sys2Proof.Machine

/-! SUPPORT. What a write to memory leaves of the registers: those of queues and contexts (R195, R200, R205, R326 to R329). -/
namespace Sys2Proof.Machine

open Sys2Proof

-- one proof after the other: a thread for each would need too much memory
set_option Elab.async false

/-! ### Registers that an access to memory writes -/

/-- The error counters and logs, the injection and prefetch registers, MSIX_PBA and CPQ_EVENT. -/
inductive Reg.OfMemory : Reg → Prop
  | cpqEvent : OfMemory .cpqEvent
  | msixPba (i : Nat) : OfMemory (.msixPba i)
  | dmcEccInj : OfMemory .dmcEccInj
  | dmcCount (i j : Nat) : OfMemory (.dmcCount i j)
  | dmcUeLog (i : Nat) : OfMemory (.dmcUeLog i)
  | dmcCeLog (i : Nat) : OfMemory (.dmcCeLog i)
  | gsEccInj : OfMemory .gsEccInj
  | gsCeCount (i : Nat) : OfMemory (.gsCeCount i)
  | gsUeCount (i : Nat) : OfMemory (.gsUeCount i)
  | gsWbDrop : OfMemory .gsWbDrop
  | gsUeLog : OfMemory .gsUeLog
  | gsCeLog : OfMemory .gsCeLog

/-- All but CPQ_EVENT stand above the registers of queues and contexts. -/
theorem Reg.OfMemory.addr {r : Reg} (h : r.OfMemory) : r.addr = 0x600010 ∨ 0x650000 ≤ r.addr := by
  cases h <;> simp [Reg.addr] <;> omega

/-- A register below that is not CPQ_EVENT. -/
def Reg.ofQueues (r : Reg) : Prop := r.addr < 0x650000 ∧ r.addr ≠ 0x600010

theorem Reg.ofQueues.addr_ne {q r : Reg} (hq : q.ofQueues) (hr : r.OfMemory) : q.addr ≠ r.addr := by
  obtain ⟨below, other⟩ := hq
  have place := hr.addr
  omega

/-- The registers of queues and contexts stand in `t` as in `s`. -/
structure QueueRegs (s t : State) : Prop where
  rget : ∀ q : Reg, q.ofQueues → t.rget q = s.rget q

namespace QueueRegs

variable {o s t : State}

protected theorem rfl : QueueRegs s s := ⟨fun _ _ => Eq.refl _⟩

/-- An update of other fields. -/
theorem frame (hs : QueueRegs o s) (same : t.regs = s.regs := by rfl) : QueueRegs o t :=
  ⟨fun q hq => by rw [← hs.rget q hq, State.rget, State.rget, same]⟩

theorem rset (hs : QueueRegs o s) {r v} (hr : r.OfMemory) : QueueRegs o (s.rset r v) :=
  ⟨fun q hq => by rw [State.rget_rset_other s (hq.addr_ne hr), hs.rget q hq]⟩

theorem fset (hs : QueueRegs o s) {r h l v} (hr : r.OfMemory) : QueueRegs o (s.fset r h l v) := hs.rset hr

theorem rinc (hs : QueueRegs o s) {r w n} (hr : r.OfMemory) : QueueRegs o (s.rinc r w n) := hs.rset hr

theorem ite {c : Prop} [Decidable c] {s t : State} (hs : QueueRegs o s) (ht : QueueRegs o t) :
    QueueRegs o (if c then s else t) := by
  split
  · exact hs
  · exact ht

theorem iteP {α : Type} {c : Prop} [Decidable c] {p q : α × State} (hp : QueueRegs o p.2) (hq : QueueRegs o q.2) :
    QueueRegs o (if c then p else q).2 := by
  split
  · exact hp
  · exact hq

theorem of_eq {α : Type} {p : α × State} {a : α} (h : QueueRegs o p.2) (e : p = (a, t)) : QueueRegs o t := by
  subst e
  exact h

section
variable (hs : QueueRegs o s)
include hs

theorem setBytes {a bs} : QueueRegs o (s.setBytes a bs) := hs.frame

theorem setDmc {c x} : QueueRegs o (s.setDmc c x) := hs.frame

theorem sendMsix {v} : QueueRegs o (s.sendMsix v) := .ite (.ite hs.frame hs.frame) hs.frame

theorem event {bit} : QueueRegs o (s.event bit) := 
  .ite (.ite (hs.fset .cpqEvent).sendMsix ((hs.fset .cpqEvent).fset (.msixPba _))) (hs.fset .cpqEvent)

theorem reportUe : QueueRegs o s.reportUe := (hs.frame (t := { s with suspended := true })).event

theorem modLine {slot f} : QueueRegs o (s.modLine slot f) := by
  unfold State.modLine
  split
  exacts [hs.frame, hs]

theorem ceCount {r src w} : QueueRegs o (s.ceCount r src w) :=
  (hs.rinc (.gsCeCount _)).rset .gsCeLog

theorem corrected {r src w} : QueueRegs o (s.corrected r src w) :=
  .ite hs.ceCount (.ite hs.ceCount.frame (hs.ceCount.rinc .gsWbDrop))

theorem uncorrected {r src w} : QueueRegs o (s.uncorrected r src w) :=
  (QueueRegs.ite (hs.rinc (.gsUeCount _)) ((hs.rinc (.gsUeCount _)).rset .gsUeLog)).reportUe

theorem wbCancel {r w} : QueueRegs o (s.wbCancel r w) := by
  unfold State.wbCancel
  split
  exacts [hs.frame, hs]

theorem gsInject {r} : QueueRegs o (s.gsInject r).2 := .iteP (hs.fset .gsEccInj) hs

theorem ddrCorrected {src d nsym} : QueueRegs o (s.ddrCorrected src d nsym) :=
  .ite ((hs.rinc (.dmcCount _ _)).rset (.dmcCeLog _)) ((hs.rinc (.dmcCount _ _)).rset (.dmcCeLog _)).setDmc

theorem noWback {d} : QueueRegs o (s.noWback d) := .ite hs.setDmc hs

theorem ddrUncorrected {src d poison} : QueueRegs o (s.ddrUncorrected src d poison) :=
  (QueueRegs.ite (hs.rinc (.dmcCount _ _)) ((hs.rinc (.dmcCount _ _)).rset (.dmcUeLog _))).reportUe

theorem takeFree : QueueRegs o s.takeFree.2 := hs.frame

theorem ddrDecode {src d n address} : QueueRegs o (s.ddrDecode src d n address).2 :=
  .iteP hs.ddrUncorrected (.iteP hs.ddrUncorrected
    (.iteP hs (.iteP hs.ddrCorrected (.iteP hs.takeFree.ddrUncorrected (.ite hs.takeFree hs.takeFree.ddrCorrected)))))

theorem ddrWrong {d n} : QueueRegs o (s.ddrWrong d n) :=
  ⟨fun q hq => hs.rget q hq⟩

theorem ddrWord {src d n address} : QueueRegs o (s.ddrWord src d n address).2 := by
  unfold State.ddrWord
  split
  case h_3 e => exact (hs.ddrDecode.of_eq e).ddrWrong
  all_goals next e => exact hs.ddrDecode.of_eq e

theorem chanFailure {ch} : QueueRegs o (s.chanFailure ch) := (hs.rinc (.dmcCount _ _)).reportUe

theorem ddrLine {src d e} : QueueRegs o (s.ddrLine src d e).2 :=
  .iteP hs.ddrUncorrected.noWback (.iteP hs.ddrWord.ddrWord hs.ddrWord.ddrWord.noWback)

theorem ddrFetch {d} : QueueRegs o (s.ddrFetch d).2 := .iteP hs.chanFailure hs.ddrLine

theorem ddrInject {ch} : QueueRegs o (s.ddrInject ch).2 := .iteP (hs.fset .dmcEccInj) hs

theorem ddrStore {d poison} : QueueRegs o (s.ddrStore d poison) :=
  .ite hs.chanFailure (.ite hs.noWback.ddrInject.frame hs.noWback.ddrInject.frame)

/-- The words of a line that leaves the SLC are counted. -/
theorem countMarks {x : SlcLine} {l : List Nat} : QueueRegs o (l.foldl (fun (t : State) k =>
    if x.mark k = 1 then t.ceCount 6 2 (x.addr * 4 + k)
    else if 2 ≤ x.mark k then t.uncorrected 6 2 (x.addr * 4 + k) else t) s) := by
  induction l generalizing s with
  | nil => exact hs
  | cons k l ih => exact ih (.ite hs.ceCount (.ite hs.uncorrected hs))

theorem slcEvict {slot} : QueueRegs o (s.slcEvict slot) := by
  unfold State.slcEvict
  split
  · exact hs
  · exact (QueueRegs.ite hs.countMarks.ddrStore hs).frame

theorem slcFill {line fetch} : QueueRegs o (s.slcFill line fetch) :=
  (QueueRegs.iteP hs.slcEvict.gsInject hs.slcEvict).frame

theorem slcLine {line fetch} : QueueRegs o (s.slcLine line fetch).2 := by
  unfold State.slcLine
  split
  exacts [hs.frame, .iteP (QueueRegs.iteP hs.ddrFetch hs).slcFill (.iteP hs.ddrFetch hs)]

theorem slcRefetch {slot w} : QueueRegs o (s.slcRefetch slot w).2 :=
  (hs.ceCount.frame (t := { s.ceCount 6 3 w with
    slc := { (s.ceCount 6 3 w).slc with lines := merase slot (s.ceCount 6 3 w).slc.lines } })).slcLine

theorem slcPut {src a bs w} : QueueRegs o (s.slcPut src a bs w).2 := by
  unfold State.slcPut
  dsimp only
  split
  · exact hs
  · have merged {c d e f : Prop} [Decidable c] [Decidable d] [Decidable e] [Decidable f] {slot g} :
        QueueRegs o (if c then if d then (true, s) else if e then (true, s.ceCount 6 src w)
          else if f then (false, (s.uncorrected 6 src w).modLine slot g) else s.slcRefetch slot w else (true, s)).2 :=
      .iteP (.iteP hs (.iteP hs.ceCount (.iteP hs.uncorrected.modLine hs.slcRefetch))) hs
    exact .iteP merged.setBytes.wbCancel.gsInject.modLine merged

theorem slcPuts {src a bs l} : QueueRegs o (s.slcPuts src a bs l).2 := by
  induction l generalizing s with
  | nil => exact hs
  | cons w l ih => exact ih hs.slcPut

theorem lineWrites {src a bs l} : QueueRegs o (s.lineWrites src a bs l).2 := by
  induction l generalizing s with
  | nil => exact hs
  | cons a l ih => exact ih (.iteP hs.slcLine.slcPuts hs.slcLine)

theorem gessoWrite {src a bs w r} : QueueRegs o (s.gessoWrite src a bs w r).2 := by
  have read {c : Prop} [Decidable c] : QueueRegs o (if c then s.ceCount r src w else s) := .ite hs.ceCount hs
  have stored {c : Prop} [Decidable c] {p : Nat × List Byte} {m : SMap Nat} := 
    (read (c := c)).frame (t := { (if c then s.ceCount r src w else s).setBytes p.1 p.2 with ecc := m })
  exact .iteP hs.uncorrected (.ite stored.wbCancel.gsInject stored.wbCancel.gsInject.frame)

theorem wordWrite {src a bs w} : QueueRegs o (s.wordWrite src a bs w).2 := by
  unfold State.wordWrite
  split
  exacts [hs.gessoWrite, hs.setBytes]

theorem wordWrites {src a bs l} : QueueRegs o (s.wordWrites src a bs l).2 := by
  induction l generalizing s with
  | nil => exact hs
  | cons w l ih => exact ih hs.wordWrite

theorem pwrite {src a bs} : QueueRegs o (s.pwrite src a bs).2 :=
  .iteP hs (.iteP hs.lineWrites (.iteP hs.setBytes hs.wordWrites))

theorem hostWrite {a bs} : QueueRegs o (s.hostWrite a bs) := .ite hs.pwrite hs

theorem writeSqBell {q} : QueueRegs o (s.writeSqBell q) := hs.hostWrite

end

end QueueRegs

end Sys2Proof.Machine

/-! SUPPORT. Stop requests (R100, R117) and ABORT (R278). -/
namespace Sys2Proof.Machine

open Sys2Proof

-- one proof after the other: a thread for each would need too much memory
set_option Elab.async false

/-! ### A stop request -/

/-- The command of engine `e` has ended ST_ABORTED, without a fault; the memory and the other engines stand as in `s`. -/
structure StopsAborted (s t : State) (e : Nat) : Prop where
  run : (t.eng e).run = .ending
  status : (t.eng e).endRec.status = 2
  faulted : (t.eng e).faulted = false
  mem : t.mem = s.mem
  others : ∀ f, f ≠ e → t.eng f = s.eng f

theorem StopsAborted.fqCancel {s t : State} {e : Nat} (h : StopsAborted s t e) (q : Nat) :
    StopsAborted s (t.fqCancel e q) e := by
  unfold State.fqCancel
  dsimp only
  split
  · exact h
  · rw [State.rinc_eq]
    obtain ⟨run, status, faulted, mem, others⟩ := h
    refine ⟨?_, ?_, ?_, mem, fun f other => ?_⟩
    · rwa [State.eng_rset, State.eng_setEng_same]
    · rwa [State.eng_rset, State.eng_setEng_same]
    · rwa [State.eng_rset, State.eng_setEng_same]
    · rw [State.eng_rset, State.eng_setEng_other _ other]
      exact others f other

theorem State.engStop_stopsAborted (s : State) (e pc slot det : Nat) :
    StopsAborted s (s.engStop e ⟨stAborted, 0, pc, slot, det⟩ false) e := by
  refine List.foldlRecOn (motive := fun t => StopsAborted s t e) _ _ ?_ fun _ stopped q _ => stopped.fqCancel q
  refine ⟨?_, ?_, ?_, rfl, fun f other => State.eng_setEng_other _ other _⟩ <;> rw [State.eng_setEng_same]
  rfl

theorem execStopReq_admitted {s : State} {w : World} {ne : Fin 6} (admitted : s.admits w (.neCtl ne.val) true) :
    exec (.stopReq w ne) s = .next (s.engAbort ne.val) :=
  congrArg Host.Outcome.next (State.regOp_admitted admitted _)

theorem State.engAbort_issuing {s : State} {e : Nat} (run : (s.eng e).run = .issuing) :
    s.engAbort e = s.setEng e { s.eng e with stop := true } := by
  unfold State.engAbort
  simp only [run]

theorem State.engAbort_waitFence {s : State} {e : Nat} (run : (s.eng e).run = .waitFence) :
    s.engAbort e = s.engStop e ⟨stAborted, 0, (s.eng e).ctl.pc, 0, 0⟩ false := by
  unfold State.engAbort
  simp only [run]

/-! ### Acceptance of a descriptor without lists -/

/-- The state in which an accepted descriptor of a queue is checked: it has left the burst, DEV_INDEX has risen, in the
doorbell record too, and an entry of the completion queue is reserved. -/
def State.accepting (s : State) (q : Nat) : State :=
  ((s.setSq q { s.sq q with dev := (s.sq q).dev + 1, fetched := (s.sq q).fetched.tail }).setCq
    (s.cqOf q) { s.cq (s.cqOf q) with reserved := (s.cq (s.cqOf q)).reserved + 1 }).writeSqBell q

/-- The command that it becomes, before its checks. -/
def State.acceptedCmd (s : State) (q : Nat) (d : List Byte) : Cmd :=
  { sq := q, seq := ((s.sq q).base + (s.sq q).dev) % 2 ^ 32, rseq := (s.sq q).dev % 2 ^ 32, cq := s.cqOf q
    ctx := (s.accepting q).descCtx q d, desc := d, sync := [], phase := .accepted, pins := [], pre := none }

theorem State.accepting_queueRegs (s : State) (q : Nat) : QueueRegs s (s.accepting q) :=
  (QueueRegs.rfl.frame (t := State.setCq _ _ _)).writeSqBell

namespace QueueRegs

variable {s t : State} (h : QueueRegs s t)
include h

theorem tagged : t.tagged = s.tagged := by
  rw [State.tagged, State.tagged, h.rget .cpqInit ⟨by decide, by decide⟩]

theorem descCtx (q : Fin 1024) (d : List Byte) : t.descCtx q d = s.descCtx q d := by
  have place : (Reg.sqCfg q).ofQueues := by
    simp only [Reg.ofQueues, Reg.addr]
    omega
  rw [State.descCtx, State.descCtx, h.tagged, State.fget, State.fget, h.rget _ place]

theorem ctxSt {c : Nat} (bound : c < 4096) : t.ctxSt c = s.ctxSt c := by
  have place : (Reg.ctxState c).ofQueues := by
    simp only [Reg.ofQueues, Reg.addr]
    omega
  rw [State.ctxSt, State.ctxSt, State.fget, State.fget, h.rget _ place, h.rget .cpqInit ⟨by decide, by decide⟩]

end QueueRegs

theorem State.descCtx_lt (s : State) (q : Nat) (d : List Byte) : s.descCtx q d < 4096 := by
  unfold State.descCtx
  split
  · exact Nat.mod_lt _ (by decide)
  · exact Nat.mod_lt _ (by decide)

/-- A read of no bytes. -/
theorem State.cpRead_zero (s : State) (ctx va : Nat) : s.cpRead ctx va 0 = (.ok [], s) := rfl

theorem State.acceptCheck_without_lists {s : State} {c : Cmd} (wf : descBad s.tagged c.desc = false)
    (objs : fieldAt c.desc 48 2 = 0) (syncs : fieldAt c.desc 50 2 = 0) : s.acceptCheck c = (.ok ([], []), s) := by
  unfold State.acceptCheck
  rw [wf]
  dsimp only
  rw [if_neg Bool.false_ne_true, objs, syncs, Nat.mul_zero, State.cpRead_zero]
  dsimp only
  rw [State.cpRead_zero]
  dsimp only
  have none_bad : ((cut16 0 []).any objBad || (cut16 0 []).any (syncBad c.split) ||
      (fieldAt c.desc 0 1 == 6 && (cut16 0 []).any fun e => fieldAt e 4 1 == 0)) = false := by
    simp [cut16]
  rw [none_bad]
  rfl

/-- An ABORT as it is accepted: dispatched, with the commands it names. -/
def State.dispatchedAbort (s : State) (c : Cmd) : Cmd := { c with phase := .dispatched, targets := s.abortTargets c }

/-- An accepted command joins those accepted before it. -/
def State.joined (s : State) (c : Cmd) : State := { s with cmds := s.cmds ++ [c] }

/-- Acceptance, by the names above. -/
theorem State.acceptOne_eq (s : State) (q : Nat) (d : List Byte) :
    s.acceptOne q d =
      if (s.accepting q).tagged && (s.accepting q).ctxSt (s.acceptedCmd q d).ctx == 2 then
        (s.accepting q).commit (s.acceptedCmd q d) stAborted 0 id
      else
        match (s.accepting q).acceptCheck (s.acceptedCmd q d) with
        | (.error (e, i), t) =>
          t.commit (s.acceptedCmd q d) e.st e.sub fun r => { r with detail := e.det, index := i }
        | (.ok (sy, ps), t) =>
          let c := { s.acceptedCmd q d with sync := sy, pins := ps }
          let ab := fieldAt d 0 1 == 6
          let c := if ab then { c with phase := .dispatched, targets := t.abortTargets c } else c
          let t : State := { t with cmds := t.cmds ++ [c], pmt := pinAll t.pmt ps }
          if ab then t.abortRun c else t := by
  unfold State.acceptOne State.acceptedCmd State.accepting
  rfl

/-- A well-formed ABORT without lists takes effect as it is accepted. -/
theorem State.acceptOne_abort {v : State} {q : Fin 1024} {d : List Byte} (opcode : fieldAt d 0 1 = 6)
    (live : v.tagged = true → v.ctxSt (v.descCtx q d) ≠ 2) (wf : descBad v.tagged d = false)
    (objs : fieldAt d 48 2 = 0) (syncs : fieldAt d 50 2 = 0) :
    v.acceptOne q d = ((v.accepting q).joined ((v.accepting q).dispatchedAbort (v.acceptedCmd q d))).abortRun
      ((v.accepting q).dispatchedAbort (v.acceptedCmd q d)) := by
  have regs := v.accepting_queueRegs q
  have ctx : (v.acceptedCmd q d).ctx = v.descCtx q d := regs.descCtx q d
  have stays : ((v.accepting q).tagged && (v.accepting q).ctxSt (v.acceptedCmd q d).ctx == 2) = false := by
    rw [regs.tagged, ctx, regs.ctxSt (v.descCtx_lt q d)]
    cases tagged : v.tagged with
    | false => rfl
    | true => simpa using live tagged
  have checked : (v.accepting q).acceptCheck (v.acceptedCmd q d) = (.ok ([], []), v.accepting q) :=
    State.acceptCheck_without_lists (by rwa [regs.tagged]) objs syncs
  rw [State.acceptOne_eq, stays, if_neg Bool.false_ne_true, checked]
  simp only [opcode]
  rfl

/-! ### The effect of an ABORT -/

/-- An ABORT of what is not to be aborted by its queue. -/
theorem State.abortRun_refused {w : State} {c : Cmd} (refused : w.abortRefused c = true) :
    (w.joined (w.dispatchedAbort c)).abortRun (w.dispatchedAbort c) =
      (w.joined (w.dispatchedAbort c)).commit (w.dispatchedAbort c) stRejected 0x12 id := by
  have same : (w.joined (w.dispatchedAbort c)).abortRefused (w.dispatchedAbort c) = w.abortRefused c := rfl
  rw [State.abortRun, same, if_pos refused]

/-- An ABORT without sync entries that may be performed. -/
theorem State.abortRun_admitted {w : State} {c : Cmd} (sync : c.sync = []) (admitted : w.abortRefused c = false) :
    (w.joined (w.dispatchedAbort c)).abortRun (w.dispatchedAbort c) =
      if (w.abortTargets c).isEmpty && !abortEvery c.desc then
        (w.joined (w.dispatchedAbort c)).commit (w.dispatchedAbort c) stAlreadyDone 0 id
      else
        (((w.joined (w.dispatchedAbort c)).modCmd c.sq c.seq fun d =>
          { d with phase := .running, naborted := (w.abortTargets c).length }).abortAll (w.abortTargets c)).commitAborts := by
  have same : (w.joined (w.dispatchedAbort c)).abortRefused (w.dispatchedAbort c) = w.abortRefused c := rfl
  have within : (w.joined (w.dispatchedAbort c)).syncOver (w.dispatchedAbort c) = none := by
    rw [State.syncOver, show (w.dispatchedAbort c).sync = [] from sync]
    rfl
  rw [State.abortRun, same, admitted, if_neg Bool.false_ne_true, within]
  rfl

theorem State.completes_joined (w : State) (c : Cmd) (st sub : Nat) :
    w.completes ((w.joined (w.dispatchedAbort c)).commit (w.dispatchedAbort c) st sub id) c st sub :=
  State.completes_commit (c := w.dispatchedAbort c) rfl rfl (fun _ => rfl) fun _ => rfl

theorem State.commitAborts_of_no_cmds {s : State} (cmds : s.cmds = []) : s.commitAborts.cmds = [] ∧
    s.commitAborts.commitQ = s.commitQ := by
  unfold State.commitAborts
  dsimp only
  rw [cmds]
  exact ⟨rfl, List.append_nil _⟩

/-- The last command accepted is an ABORT without targets left: it commits ST_OK. -/
theorem State.commitAborts_of_last {s : State} {c : Cmd} (fatal : s.fatal = false) (cmds : s.cmds = [c])
    (phase : c.phase = .running) (opcode : fieldAt c.desc 0 1 = 6) (targets : c.targets = []) :
    ∃ b, s.commitAborts.cmds = [] ∧ s.commitAborts.commitQ = s.commitQ ++ [b] ∧ b.status = 0 ∧ b.seq = c.rseq ∧
      b.sq = c.sq := by
  unfold State.commitAborts
  dsimp only
  simp [cmds, phase, opcode, targets, fatal, Cmd.record]

/-- A command that is being aborted. -/
def Cmd.abortBegun (c : Cmd) : Cmd := { c with aborting := true }

/-- A command that does not run yet, and is no load under way, commits ST_ABORTED. -/
theorem State.abortCmd_of_accepted {s : State} {x : Cmd} (found : s.cmd? x.sq x.seq = some x) (pending : x.phase = .accepted) :
    ∃ f : Rec → Rec, (∀ r, (f r).head = r.head) ∧
      s.abortCmd x.sq x.seq = (s.modCmd x.sq x.seq Cmd.abortBegun).commit x.abortBegun stAborted 0 f := by
  have begun : x.abortBegun.phase = .accepted := pending
  have idle : (s.modCmd x.sq x.seq Cmd.abortBegun).loadStops x.abortBegun = s.modCmd x.sq x.seq Cmd.abortBegun := by
    rw [State.loadStops, if_neg]
    rintro ⟨-, dispatched⟩
    rw [begun] at dispatched
    cases dispatched
  refine ⟨fun r => { r with partmap :=
    ((s.modCmd x.sq x.seq Cmd.abortBegun).splitEngines x.abortBegun).foldl (fun m e => m + 2 ^ e) 0 }, fun _ => rfl, ?_⟩
  have not_running : x.phase ≠ .running := by
    rw [pending]
    decide
  rw [State.abortCmd, found]
  dsimp only
  rw [if_pos not_running]
  exact congrArg (State.commit · x.abortBegun stAborted 0 _) idle

/-- The record of a command stands where its enrolment adds it; the other commands no longer name it. -/
theorem State.enrolled_of_pair {s : State} {x c : Cmd} (r : Rec) (cmds : s.cmds = [x, c])
    (other : ¬ (c.sq = x.sq ∧ c.seq = x.seq)) :
    (s.enrolled x r).cmds = [{ c with targets := c.targets.filter (· ≠ (x.sq, x.seq)) }] := by
  have stays : (c.sq == x.sq && c.seq == x.seq) = false := by simpa using other
  have kept : s.cmds.filter (fun d => !(d.sq == x.sq && d.seq == x.seq)) = [c] := by
    simp only [cmds, List.filter, beq_self_eq_true, Bool.and_self, stays, Bool.not_true, Bool.not_false]
  rw [State.enrolled]
  dsimp only
  rw [kept]
  rfl

/-- The only command before an ABORT, which does not run yet, commits ST_ABORTED, and the ABORT behind it. -/
theorem State.abortCmd_of_pending {s : State} {x c : Cmd} (fatal : s.fatal = false) (cmds : s.cmds = [x, c])
    (pending : x.phase = .accepted) (other : ¬ (c.sq = x.sq ∧ c.seq = x.seq)) (phase : c.phase = .running)
    (opcode : fieldAt c.desc 0 1 = 6) (targets : c.targets = [(x.sq, x.seq)]) :
    ∃ a b, (s.abortCmd x.sq x.seq).cmds = [] ∧ (s.abortCmd x.sq x.seq).commitQ = s.commitQ ++ [a, b] ∧ a.status = 2 ∧
      a.seq = x.rseq ∧ a.sq = x.sq ∧ b.status = 0 ∧ b.seq = c.rseq ∧ b.sq = c.sq ∧
      (s.abortCmd x.sq x.seq).engines = s.engines ∧ (s.abortCmd x.sq x.seq).mem = s.mem := by
  have found : s.cmd? x.sq x.seq = some x := by simp [State.cmd?, cmds]
  obtain ⟨f, keeps, aborts⟩ := State.abortCmd_of_accepted found pending
  have pair : (s.modCmd x.sq x.seq Cmd.abortBegun).cmds = [x.abortBegun, c] := by
    simp [State.modCmd, cmds, other]
  have head := (s.modCmd x.sq x.seq Cmd.abortBegun).recordOf_head x.abortBegun stAborted 0 keeps
  have still_fatal : (s.modCmd x.sq x.seq Cmd.abortBegun).fatal = false := fatal
  simp only [Rec.head, Prod.mk.injEq, still_fatal] at head
  obtain ⟨status, -, -, seq, -, sq, -⟩ := head
  rw [aborts, State.commit_engines, State.commit_mem, State.commit_eq]
  generalize (s.modCmd x.sq x.seq Cmd.abortBegun).recordOf x.abortBegun stAborted 0 f = a at status seq sq ⊢
  have left := State.enrolled_of_pair a pair other
  have enrolled_fatal : ((s.modCmd x.sq x.seq Cmd.abortBegun).enrolled x.abortBegun a).fatal = false := by
    rw [State.enrolled, State.ctxFault_frame]
    exact fatal
  obtain ⟨b, none_left, queue, ok, bseq, bsq⟩ := State.commitAborts_of_last enrolled_fatal left phase opcode
    (by simp [targets, Cmd.abortBegun])
  exact ⟨a, b, none_left, by rw [queue]; exact List.append_assoc .., status, seq, sq, ok, bseq, bsq, rfl, rfl⟩

/-- The next descriptor of a burst that does not end with it is accepted as host memory holds it. -/
theorem State.acceptNext_of_burst {s u v : State} {q : Nat} {want : List Byte → Bool} {d d0 : List Byte}
    {rest : List (List Byte)} (fresh : u = s.cqRefresh (s.cqOf q)) (burst : (u.sq q).fetched = d0 :: rest) (more : rest ≠ [])
    (may : u.mayAccept q = true) (read : u.hostRead (u.sqRing q + 64 * ((u.sq q).dev % u.sqSize q)) 64 = (some d, v))
    (wanted : want d = true) : s.acceptNext q want = v.acceptOne q d := by
  have not_last : rest.isEmpty = false := by simpa using more
  rw [State.acceptNext, ← fresh]
  dsimp only
  rw [burst]
  dsimp only
  rw [if_pos may, read]
  dsimp only
  rw [if_pos wanted, not_last]
  rfl

/-- The targets of an ABORT are not the ABORT itself. -/
theorem State.not_self_of_abortTargets {w : State} {c x : Cmd} (cmds : w.cmds = [x])
    (targets : w.abortTargets c = [(x.sq, x.seq)]) : ¬ (c.sq = x.sq ∧ c.seq = x.seq) := by
  rintro ⟨sq, seq⟩
  simp [State.abortTargets, cmds, sq, seq] at targets

/-- An ABORT of the only command accepted before it, which does not run yet. -/
theorem State.abortRun_of_pending {w : State} {c x : Cmd} (sync : c.sync = []) (admitted : w.abortRefused c = false)
    (fatal : w.fatal = false) (cmds : w.cmds = [x]) (pending : x.phase = .accepted) (opcode : fieldAt c.desc 0 1 = 6)
    (targets : w.abortTargets c = [(x.sq, x.seq)]) :
    ∃ t a b, (w.joined (w.dispatchedAbort c)).abortRun (w.dispatchedAbort c) = t ∧ t.cmds = [] ∧
      t.commitQ = w.commitQ ++ [a, b] ∧ a.status = 2 ∧ a.seq = x.rseq ∧ a.sq = x.sq ∧ b.status = 0 ∧ b.seq = c.rseq ∧
      b.sq = c.sq ∧ t.engines = w.engines ∧ t.mem = w.mem := by
  have other := State.not_self_of_abortTargets cmds targets
  rw [State.abortRun_admitted sync admitted, targets]
  rw [if_neg (by simp)]
  have pair : ((w.joined (w.dispatchedAbort c)).modCmd c.sq c.seq fun d =>
      { d with phase := .running, naborted := [(x.sq, x.seq)].length }).cmds =
      [x, { w.dispatchedAbort c with phase := .running, naborted := 1 }] := by
    have stays : ¬ (x.sq = c.sq ∧ x.seq = c.seq) := fun same => other ⟨same.1.symm, same.2.symm⟩
    simp [State.modCmd, State.joined, cmds, stays, State.dispatchedAbort]
  obtain ⟨a, b, none_left, queue, aborted, aseq, asq, ok, bseq, bsq, engines, mem⟩ :=
    State.abortCmd_of_pending (by exact fatal) pair pending other rfl opcode targets
  obtain ⟨still_none, same⟩ := State.commitAborts_of_no_cmds none_left
  exact ⟨_, a, b, rfl, still_none, same.trans queue, aborted, aseq, asq, ok, bseq, bsq, engines, mem⟩

/-! ### The obligation -/

/-- An ABORT that is the next descriptor of its queue is accepted. -/
theorem execAbort_next {s : State} {q : Fin 1024} {seq : W32}
    (next : ((s.sq q.val).base + (s.sq q.val).dev) % 2 ^ 32 = seq.toNat) :
    exec (.abort q seq) s = .next (s.acceptNext q.val fun d => fieldAt d 0 1 == 6) :=
  congrArg Host.Outcome.next (if_pos next)

/-- Settles O15: a stop request of an issuing engine marks it and one of a fence wait ends its command; an ABORT takes effect on
the commands that its acceptance finds. -/
theorem stopAndAbort : Obligations.StopAndAbort := by
  intro s
  refine ⟨fun w ne admitted run => ⟨_, execStopReq_admitted admitted, ?_⟩, fun w ne admitted run =>
    ⟨_, execStopReq_admitted admitted, ?_⟩, fun q seq other => congrArg Host.Outcome.next (if_neg other), ?_⟩
  · rw [State.engAbort_issuing run]
    exact ⟨s.onlyEngine_setEng ne.val _, State.eng_setEng_same ..⟩
  · rw [State.engAbort_waitFence run]
    obtain ⟨ending, status, faulted, mem, others⟩ := s.engStop_stopsAborted ne.val (s.eng ne.val).ctl.pc 0 0
    exact ⟨ending, status, faulted, mem, others⟩
  intro q seq u v w d d0 rest c next fresh burst more may read opcode live wf objs syncs hw hc
  have accepts : exec (.abort q seq) s = .next ((w.joined (w.dispatchedAbort c)).abortRun (w.dispatchedAbort c)) := by
    rw [execAbort_next next, State.acceptNext_of_burst fresh burst more may read (by simpa using opcode),
      State.acceptOne_abort opcode live wf objs syncs, hc, hw]
    rfl
  have desc : c.desc = d := by rw [hc]
  have sync : c.sync = [] := by rw [hc]
  refine ⟨fun refused => ?_, fun admitted single none_found => ?_, fun x admitted fatal cmds pending targets named => ?_⟩
  · exact ⟨_, accepts.trans (congrArg _ (State.abortRun_refused refused)), w.completes_joined c stRejected 0x12,
      State.commit_engines .., State.commit_mem ..⟩
  · have done : (w.joined (w.dispatchedAbort c)).abortRun (w.dispatchedAbort c) =
        (w.joined (w.dispatchedAbort c)).commit (w.dispatchedAbort c) stAlreadyDone 0 id := by
      rw [State.abortRun_admitted sync admitted, none_found, desc, single]
      rfl
    exact ⟨_, accepts.trans (congrArg _ done), w.completes_joined c stAlreadyDone 0, State.commit_engines ..,
      State.commit_mem ..⟩
  · obtain ⟨t, a, b, runs, effect⟩ :=
      State.abortRun_of_pending sync admitted fatal cmds pending (by rw [desc]; exact opcode) named
    exact ⟨t, a, b, by rw [accepts, runs], effect⟩

end Sys2Proof.Machine

/-! SUPPORT. How an engine starts a command and ends one (R93 to R95, R109, R235, R237, R257, R267). -/
namespace Sys2Proof.Machine

open Sys2Proof

-- one proof after the other: a thread for each would need too much memory
set_option Elab.async false

/-! ### What an allocation makes of an engine's run -/

/-- An engine runs as before, or has the budget that it waited for. -/
def Engine.RunsOn (x y : Engine) : Prop := y.run = x.run ∨ (x.run = .budget ∧ y.run = .issuing)

theorem Engine.RunsOn.refl (x : Engine) : x.RunsOn x := .inl rfl

theorem Engine.RunsOn.trans {x y z : Engine} (h : x.RunsOn y) (g : y.RunsOn z) : x.RunsOn z := by
  obtain same | ⟨waited, issues⟩ := h
  · rwa [Engine.RunsOn, same] at g
  · obtain kept | ⟨waits, -⟩ := g
    · exact .inr ⟨waited, kept.trans issues⟩
    · rw [issues] at waits
      cases waits

theorem Engine.RunsOn.idle {x y : Engine} (h : x.RunsOn y) (idle : x.run = .idle) : y.run = .idle := by
  obtain same | ⟨waited, -⟩ := h
  · rw [same, idle]
  · rw [idle] at waited
    cases waited

theorem Engine.RunsOn.budget {x y : Engine} (h : x.RunsOn y) (budget : x.run = .budget) :
    y.run = .budget ∨ y.run = .issuing := by
  obtain same | ⟨-, issues⟩ := h
  · exact .inl (same.trans budget)
  · exact .inr issues

theorem Engine.RunsOn.lower (x : Engine) (n a : Nat) : x.RunsOn (x.lower n a) := by
  unfold Engine.lower
  split <;> exact .inl rfl

theorem Engine.RunsOn.raise (x : Engine) (n a : Nat) : x.RunsOn (x.raise n a) := by
  by_cases waited : x.run = .budget
  · exact .inr ⟨waited, if_pos waited⟩
  · exact .inl (if_neg waited)

/-- So do all the engines. -/
structure RunsOn (s t : State) : Prop where
  eng : ∀ e, (s.eng e).RunsOn (t.eng e)

namespace RunsOn

variable {r s t : State}

protected theorem rfl : RunsOn s s := ⟨fun _ => .refl _⟩

/-- An update of other fields. -/
theorem frame (h : RunsOn r s) (same : t.engines = s.engines := by rfl) : RunsOn r t :=
  ⟨fun e => by rw [show t.eng e = mget (fun _ => {}) t.engines e from rfl, same]; exact h.eng e⟩

theorem modEng (h : RunsOn r s) {e : Nat} {f : Engine → Engine} (hf : ∀ x : Engine, x.RunsOn (f x)) :
    RunsOn r (s.modEng e f) := by
  refine ⟨fun j => (h.eng j).trans ?_⟩
  rw [State.modEng, State.eng_setEng]
  split
  · next same => exact same ▸ hf _
  · exact .refl _

theorem foldl {α : Type} {f : State → α → State} (h : RunsOn r s) (l : List α)
    (hf : ∀ t a, RunsOn r t → RunsOn r (f t a)) : RunsOn r (l.foldl f s) := by
  induction l generalizing s with
  | nil => exact h
  | cons a l ih => exact ih (hf s a h)

theorem withdraw (h : RunsOn r s) (lim k : Nat) : RunsOn r (s.withdraw lim k) := by
  induction k generalizing s with
  | zero => exact h
  | succ k ih =>
    unfold State.withdraw
    split
    · split
      · exact ih (h.modEng fun _ => .inl rfl)
      · exact h
    · exact h

theorem applyGrants (h : RunsOn r s) (gs : List (Nat × Nat × Nat)) : RunsOn r (s.applyGrants gs) := by
  have falls := h.foldl (f := fun t g => t.modEng g.1 fun x => x.lower g.2.1 g.2.2)
    (s.lowerings gs) fun _ g ht => ht.modEng fun x => .lower x _ _
  unfold State.applyGrants
  dsimp only
  split
  · exact falls
  · exact falls.foldl _ fun _ g ht => ht.modEng fun x => .raise x _ _

theorem classAlloc (h : RunsOn r s) (rt mem : Nat) : RunsOn r (s.classAlloc rt mem) := ⟨h.eng⟩

theorem followCap (h : RunsOn r s) : RunsOn r s.followCap := by
  unfold State.followCap
  dsimp only
  split
  · exact h.frame
  · exact h

theorem allocate (h : RunsOn r s) : RunsOn r s.allocate := by
  have floors := h.withdraw (s.capTarget - s.fixedPart - s.fget .pmcRes 15 0 - s.fget .pmcRes 31 16) 6
  unfold State.allocate
  refine followCap (classAlloc (applyGrants ?_ _) _ _)
  exact ⟨fun e => floors.eng e⟩

end RunsOn

/-! ### The start of a command (R93, R94, R235) -/

/-- The engine that starts the command of task `k` with image `im`. -/
def State.startOf (s : State) (e : Nat) (k : Task) (im : Image) : Engine :=
  (s.eng e).begin k im (s.pmtCtx k.ctx) (s.rget (.pntCtl e))

/-- The device as power is allocated anew for it. -/
def State.beginning (s : State) (e : Nat) (k : Task) (im : Image) : State :=
  (s.setEng e (s.startOf e k im)).touchNeed (s.startOf e k im).phaseKey

theorem State.touchNeed_frame (s : State) (k : Nat × Nat) : ∃ p, s.touchNeed k = { s with pmc := p } := by
  unfold State.touchNeed
  split <;> exact ⟨_, rfl⟩

theorem State.beginning_eng (s : State) (e : Nat) (k : Task) (im : Image) (f : Nat) :
    (s.beginning e k im).eng f = if f = e then s.startOf e k im else s.eng f := by
  obtain ⟨p, touched⟩ := (s.setEng e (s.startOf e k im)).touchNeed_frame (s.startOf e k im).phaseKey
  rw [State.beginning, touched, ← State.eng_setEng]
  rfl

theorem State.engStart_free {s : State} {e : Nat} {k : Task} {im : Image} (next : nextTask (s.eng e).queue = some k)
    (free : s.engFree e = true) (image : mfind s.images k.image = some im) :
    s.engStart e k.id.eng.isSome = (s.beginning e k im).allocate := by
  rw [State.engStart, next]
  dsimp only
  rw [if_neg (by simp [free]), image]
  dsimp only
  rw [State.eng_setEng_same]
  rfl

theorem execStart {ne : Fin 6} {k : Task} {c : Instr} (s : State)
    (hc : c = if k.id.eng.isSome then .partStart ne else .commandStart ne) :
    exec c s = .next (s.engStart ne.val k.id.eng.isSome) := by
  subst hc
  cases k.id.eng.isSome <;> rfl

/-- What a command starts with is decided by its task but for what the context keeps, and the queue it leaves. -/
theorem Engine.begin_persists (x : Engine) (k : Task) (im : Image) (ctx ctl : Nat) :
    (x.begin k im ctx ctl).vregs = (if x.lastCtx = some ctx then x.vregs else []) ∧
      (x.begin k im ctx ctl).acm = (if x.lastCtx = some ctx then x.acm else []) ∧
      (x.begin k im ctx ctl).queue = x.queue.filter fun j => !(j.id == k.id) := by
  unfold Engine.begin
  by_cases same : x.lastCtx = some ctx
  · simp only [if_pos same, and_self]
  · simp only [if_neg same, Engine.clearCtx, and_self]

/-! ### Scalar registers at the start (R93, R235) -/

/-- The value of a scalar register, by its number, as a command of eight arguments starts. -/
def startSreg (k : Task) (j : Nat) : W64 := mget (fun _ => (0 : W64)) (startRegs k) j

theorem startSreg_arg {k : Task} (eight : k.args.length = 8) {j : Nat} (bound : j < 8) :
    (startSreg k (56 + j)).toNat = (k.args.getD j 0).toNat := by
  unfold startSreg startRegs
  match args : k.args, eight with
  | [a, b, c, d, f, g, h, i], _ =>
    interval_cases j <;> rfl

theorem mget_eq_default {α : Type} (d : Nat → α) {k : Nat} {m : SMap α} (absent : ∀ p ∈ m, p.1 ≠ k) : mget d m k = d k := by
  induction m with
  | nil => rfl
  | cons p m ih =>
    obtain ⟨j, v⟩ := p
    rw [mget, if_neg (absent _ (List.mem_cons_self ..)), ih fun q hq => absent q (List.mem_cons_of_mem _ hq)]

theorem startSreg_low (k : Task) {j : Nat} (low : j < 53) : startSreg k j = 0 := by
  refine mget_eq_default _ fun p hp => ?_
  simp only [startRegs, List.mem_append, List.mem_cons, List.not_mem_nil, or_false, List.mem_map] at hp
  obtain (rfl | rfl | rfl) | ⟨q, -, rfl⟩ := hp
  · exact Nat.ne_of_gt low
  · show 54 ≠ j
    omega
  · show 55 ≠ j
    omega
  · show 56 + q.2 ≠ j
    omega

/-- The registers that a command starts with, by the engine. -/
theorem State.startOf_sreg (s : State) (e : Nat) (k : Task) (im : Image) {j : Nat} (named : j ≠ 0) :
    (s.startOf e k im).sreg j = (startSreg k j).toNat := by
  rw [Engine.sreg, if_neg named]
  rfl

theorem powerFrame_trans {s u t : State} (h : u = { s with engines := u.engines, pmc := u.pmc })
    (g : t = { u with engines := t.engines, pmc := t.pmc }) : t = { s with engines := t.engines, pmc := t.pmc } :=
  g.trans (by rw [h])

theorem State.beginning_frame (s : State) (e : Nat) (k : Task) (im : Image) :
    s.beginning e k im = { s with engines := (s.beginning e k im).engines, pmc := (s.beginning e k im).pmc } := by
  obtain ⟨p, touched⟩ := (s.setEng e (s.startOf e k im)).touchNeed_frame (s.startOf e k im).phaseKey
  rw [State.beginning, touched]
  rfl

/-- A command that starts: what an engine that is free becomes. -/
structure StartsTask (s : State) (e : Nat) (k : Task) (im : Image) (t : State) : Prop where
  frame : t = { s with engines := t.engines, pmc := t.pmc }
  run : (t.eng e).run = .budget ∨ (t.eng e).run = .issuing
  eng : (s.startOf e k im).Allots (t.eng e)
  others : ∀ f, f ≠ e → (s.eng f).Allots (t.eng f)

theorem State.engStart_startsTask {s : State} {e : Nat} {k : Task} {im : Image} (next : nextTask (s.eng e).queue = some k)
    (free : s.engFree e = true) (image : mfind s.images k.image = some im) :
    StartsTask s e k im (s.engStart e k.id.eng.isSome) := by
  have allots : Allots (s.beginning e k im) (s.beginning e k im).allocate := (Allots.refl _).allocate
  have runs : RunsOn (s.beginning e k im) (s.beginning e k im).allocate := RunsOn.rfl.allocate
  have here : (s.beginning e k im).eng e = s.startOf e k im := by rw [State.beginning_eng, if_pos rfl]
  have waits : (s.startOf e k im).run = .budget := rfl
  rw [State.engStart_free next free image]
  refine ⟨powerFrame_trans (s.beginning_frame e k im) allots.frame, ?_, ?_, fun f other => ?_⟩
  · exact (runs.eng e).budget (by rw [here, waits])
  · have grants := allots.eng e
    rwa [here] at grants
  · have grants := allots.eng f
    rwa [State.beginning_eng, if_neg other] at grants

/-! ### The end of a command (R95, R109, R257, R267) -/

/-- The cycles that an engine all of whose writes have drained still takes. -/
def Engine.lastCycles (x : Engine) : Nat := max x.cyc x.cBusy + 2 - x.cyc

theorem Engine.quiet_drains {x : Engine} (quiet : x.quiet) : x.Drains ∧ x.rows = [] ∧ x.pend = [] ∧ x.stores = [] := by
  obtain ⟨run, droop, ops, rows, pend, stores, syncs, posted, late, phaseEnd, fqs, reads⟩ := quiet
  exact ⟨⟨run, droop, ops, syncs, posted, late, phaseEnd, fqs, reads⟩, rows, pend, stores⟩

theorem Engine.drainCycles_quiet {x : Engine} (quiet : x.quiet) : x.drainCycles = x.lastCycles := by
  obtain ⟨drains, rows, pend, stores⟩ := Engine.quiet_drains quiet
  rw [Engine.drainCycles, drains.ops, rows, pend, stores]
  rfl

/-- The engine's last cycles pass, and nothing happens in them. -/
theorem State.runOut_quiet {s : State} {e : Nat} (quiet : (s.eng e).quiet) (running : s.tripped = false) :
    s.runOut e = s.setEng e ((s.eng e).aged (s.eng e).lastCycles) := by
  obtain ⟨drains, rows, pend, stores⟩ := Engine.quiet_drains quiet
  obtain ⟨n, cycles⟩ : ∃ n, (s.eng e).lastCycles = n + 1 := ⟨(s.eng e).lastCycles - 1, by
    unfold Engine.lastCycles
    omega⟩
  have waits (x : Engine) (rows : x.rows = []) (pend : x.pend = []) (stores : x.stores = []) (m : Nat) : x.Waits m :=
    ⟨by simp [rows], by simp [pend], by simp [pend], by simp [stores]⟩
  have not_issuing : ¬ ((s.eng e).run = .issuing ∧ (s.eng e).stop = true) := by
    rw [drains.run]
    rintro ⟨issuing, -⟩
    cases issuing
  rw [State.runOut]
  rw [if_neg not_issuing, if_pos drains.run, Engine.drainCycles_quiet quiet, cycles,
    coast_drains running drains (waits _ rows pend stores n),
    tick_waits running (drains.after n) (waits _ (by simpa) (by simpa) (by simpa) 1), Engine.after_tock]

/-- What an engine is as its command leaves it. -/
def Engine.vacated (x : Engine) (now : Nat) : Engine :=
  { x with
    run := .idle, task := none, held := [], ops := [], pend := [], opened := false, stop := false, late := none
    idleSince := now, floorHeld := false, alloc := 0, fall := none, phaseEnd := none }

/-- `t` is `s` as the command of engine `e`, of this context and with so many cycles, has left the engine. -/
structure Vacates (s t : State) (e ctx cycles : Nat) : Prop where
  run : (t.eng e).run = .idle
  task : (t.eng e).task = none
  frame : ∃ l p m, t = { s.rinc (.ctxEngcyc ctx) 64 cycles with engines := l, pmc := p, snaps := m }

/-- The phase of a command that has ended ST_OK is learned. -/
def State.counted (s : State) (e : Nat) : State :=
  let t := s.rinc (.ctxEngcyc (s.eng e).ctx) 64 (s.eng e).elapsed
  if (s.eng e).endRec.status = stOk then t.learnPhase e (s.eng e).phaseKey else t

theorem State.counted_frame (s : State) (e : Nat) : ∃ l p, s.counted e =
    { s.rinc (.ctxEngcyc (s.eng e).ctx) 64 (s.eng e).elapsed with engines := l, pmc := p } := by
  unfold State.counted
  dsimp only
  split <;> exact ⟨_, _, rfl⟩

/-- The device as power is allocated anew for the engines that still run. -/
def State.vacating (s : State) (e : Nat) : State :=
  { (s.counted e).setEng e (((s.counted e).eng e).vacated (8 * (s.counted e).now)) with snaps := merase e (s.counted e).snaps }

theorem State.vacating_frame (s : State) (e : Nat) : ∃ l p m, s.vacating e =
    { s.rinc (.ctxEngcyc (s.eng e).ctx) 64 (s.eng e).elapsed with engines := l, pmc := p, snaps := m } := by
  obtain ⟨l, p, counts⟩ := s.counted_frame e
  rw [State.vacating, counts]
  exact ⟨_, _, _, rfl⟩

theorem State.vacating_eng (s : State) (e : Nat) :
    (s.vacating e).eng e = ((s.counted e).eng e).vacated (8 * (s.counted e).now) := State.eng_setEng_same ..

theorem State.engIdle_of_none_held {s : State} {e : Nat} (held : (s.eng e).held = []) :
    s.engIdle e = (s.vacating e).allocate := by
  rw [State.engIdle, held]
  rfl

theorem State.engIdle_vacates {s : State} {e : Nat} (held : (s.eng e).held = []) :
    Vacates s (s.engIdle e) e (s.eng e).ctx (s.eng e).elapsed := by
  have allots : Allots (s.vacating e) (s.vacating e).allocate := (Allots.refl _).allocate
  have runs : RunsOn (s.vacating e) (s.vacating e).allocate := RunsOn.rfl.allocate
  obtain ⟨l, p, m, vacating⟩ := s.vacating_frame e
  rw [State.engIdle_of_none_held held]
  refine ⟨(runs.eng e).idle (by rw [State.vacating_eng]; rfl), ?_, ?_⟩
  · rw [allots.task, State.vacating_eng]
    rfl
  · have frame := allots.frame
    generalize (s.vacating e).allocate = t at frame ⊢
    rw [vacating] at frame
    exact ⟨_, _, m, frame⟩

/-- Cycles of the engine alone count for nothing else. -/
theorem Vacates.of_setEng {s t : State} {e ctx cycles : Nat} {x : Engine} (h : Vacates (s.setEng e x) t e ctx cycles) :
    Vacates s t e ctx cycles := by
  obtain ⟨run, task, l, p, m, frame⟩ := h
  exact ⟨run, task, l, p, m, frame⟩

theorem Vacates.cmd? {s t : State} {e ctx cycles : Nat} (h : Vacates s t e ctx cycles) (sq seq : Nat) :
    t.cmd? sq seq = s.cmd? sq seq := by
  obtain ⟨-, -, l, p, m, rfl⟩ := h
  rfl

/-- An engine all of whose writes have drained leaves its command, and the command, or its part, ends. -/
theorem State.engDone_quiet {s : State} {e : Nat} {k : Task} {c : Cmd} (quiet : (s.eng e).quiet) (running : s.tripped = false)
    (held : (s.eng e).held = []) (task : (s.eng e).task = some k) (named : s.cmd? k.id.sq k.id.seq = some c) :
    ∃ u, Vacates s u e k.ctx ((s.eng e).elapsed + (s.eng e).lastCycles) ∧
      s.engDone e k.id.eng.isSome = if k.id.eng.isSome then u.partDone c e ((s.eng e).resultOf k)
        else u.commitEngine c e ((s.eng e).resultOf k) := by
  have ran := State.runOut_quiet quiet running
  have here : ((s.runOut e).eng e) = (s.eng e).aged (s.eng e).lastCycles := by rw [ran, State.eng_setEng_same]
  have ended : ((s.eng e).aged (s.eng e).lastCycles).run = .ending := quiet.1
  have result : ((s.eng e).aged (s.eng e).lastCycles).resultOf k = (s.eng e).resultOf k := rfl
  have vacates : Vacates s ((s.runOut e).engIdle e) e k.ctx ((s.eng e).elapsed + (s.eng e).lastCycles) := by
    have ends := State.engIdle_vacates (s := s.runOut e) (e := e) (by rw [here]; exact held)
    have ctx : ((s.eng e).aged (s.eng e).lastCycles).ctx = k.ctx := by
      rw [Engine.ctx, show ((s.eng e).aged (s.eng e).lastCycles).task = some k from task]
    rw [here, ctx] at ends
    generalize (s.runOut e).engIdle e = u at ends ⊢
    rw [ran] at ends
    exact ends.of_setEng
  refine ⟨_, vacates, ?_⟩
  rw [State.engDone, task]
  dsimp only
  rw [if_neg (by simp [running]), here, if_neg (by rw [ended]; decide), result, vacates.cmd?, named]

/-! ### What the command of a vacated engine commits -/

section
variable {s u : State} {e ctx cycles : Nat} (h : Vacates s u e ctx cycles)
include h

theorem Vacates.mem : u.mem = s.mem := by
  obtain ⟨-, -, l, p, m, rfl⟩ := h
  rfl

theorem Vacates.commitQ : u.commitQ = s.commitQ := by
  obtain ⟨-, -, l, p, m, rfl⟩ := h
  rfl

theorem Vacates.fatal : u.fatal = s.fatal := by
  obtain ⟨-, -, l, p, m, rfl⟩ := h
  rfl

theorem Vacates.rget_other {r : Reg} (other : r.addr ≠ (Reg.ctxEngcyc ctx).addr) : u.rget r = s.rget r := by
  obtain ⟨-, -, l, p, m, rfl⟩ := h
  exact s.rget_rset_other other _

theorem Vacates.rget_same : u.rget (.ctxEngcyc ctx) = (s.rget (.ctxEngcyc ctx) + cycles) % 2 ^ 64 := by
  obtain ⟨-, -, l, p, m, rfl⟩ := h
  exact s.rget_rinc_same ..

/-- The fences of a context stand elsewhere than the cycle counts. -/
theorem Vacates.cmdSignals {c : Cmd} (bound : c.ctx < 4096) : u.cmdSignals c = s.cmdSignals c := by
  have mode : u.rget .cpqInit = s.rget .cpqInit := h.rget_other (by simp only [Reg.addr]; omega)
  have ctx : u.pmtCtx c.ctx = s.pmtCtx c.ctx := by rw [State.pmtCtx, State.pmtCtx, mode]
  have below : s.pmtCtx c.ctx < 4096 := by
    unfold State.pmtCtx
    split
    · decide
    · exact bound
  have range : u.rget (.fenceCtxRangeR (s.pmtCtx c.ctx)) = s.rget (.fenceCtxRangeR (s.pmtCtx c.ctx)) :=
    h.rget_other (by simp only [Reg.addr]; omega)
  have maps (f : Nat) : u.fenceMap c.ctx f = s.fenceMap c.ctx f := by
    unfold State.fenceMap State.fget
    dsimp only
    rw [ctx, range]
  simp only [State.cmdSignals, maps]

theorem Vacates.completes {c : Cmd} {st sub : Nat} {f : Rec → Rec} (bound : c.ctx < 4096) (keeps : ∀ r, (f r).head = r.head) :
    s.completes (u.commit c st sub f) c st sub :=
  State.completes_commit h.commitQ h.fatal (fun _ => h.cmdSignals bound) keeps

end

theorem State.commit_eng (s : State) (c : Cmd) (st sub : Nat) (f : Rec → Rec) (e : Nat) :
    (s.commit c st sub f).eng e = s.eng e := by rw [State.eng, State.commit_engines]; rfl

/-- A commit leaves the cycle counts of the contexts alone. -/
theorem State.commit_rget_ctxEngcyc (s : State) (c : Cmd) (st sub : Nat) (f : Rec → Rec) (ctx : Nat) :
    (s.commit c st sub f).rget (.ctxEngcyc ctx) = s.rget (.ctxEngcyc ctx) := by
  have same : (s.ctxFault c.ctx (s.recordOf c st sub f).status).rget (.ctxEngcyc ctx) = s.rget (.ctxEngcyc ctx) := by
    unfold State.ctxFault
    split
    · rfl
    · exact s.rget_rset_other (by simp only [Reg.addr]; omega) _
  rw [State.commit_frame]
  exact same

/-! ### An unsplit command -/

/-- A result names a failed engine unless its status is ST_OK or ST_ABORTED. -/
theorem EngResult.ite_failed {α : Type} (r : EngResult) (a b : α) :
    (if r.failed then a else b) = if r.fault.status = 0 ∨ r.fault.status = 2 then b else a := by
  by_cases ok : r.fault.status = 0 ∨ r.fault.status = 2
  · have kept : r.failed = false := by
      obtain ok | aborted := ok
      · simp [EngResult.failed, ok, stOk]
      · simp [EngResult.failed, aborted, stAborted]
    rw [if_pos ok, kept, if_neg Bool.false_ne_true]
  · have fails : r.failed = true := by
      rw [not_or] at ok
      simp [EngResult.failed, ok, stOk, stAborted]
    rw [if_neg ok, if_pos fails]

/-- The record of an engine command beyond the fields that every record has. -/
def EngResult.complete (r : EngResult) (e : Nat) (x : Rec) : Rec :=
  { r.fill e x with flags := r.flags, discard := min r.discard 0xFFFFFFFF }

theorem State.commitEngine_eq (s : State) {c : Cmd} (e : Nat) (r : EngResult) (lives : c.aborting = false) :
    s.commitEngine c e r = s.commit c r.fault.status (if r.fault.status = 0 ∨ r.fault.status = 2 then 0 else r.fault.sub)
      (r.complete e) := by
  have status : r.status c.aborting = r.fault.status := by rw [EngResult.status, lives]; rfl
  rw [State.commitEngine, status, EngResult.ite_failed]
  rfl

/-- A record stands behind those that were committed before. -/
theorem State.getElem?_commit (s : State) (c : Cmd) (st sub : Nat) (f : Rec → Rec) :
    (s.commit c st sub f).commitQ[s.commitQ.length]? = some (s.recordOf c st sub f) := by
  obtain ⟨l, commits⟩ := s.commit_commitQ c st sub f
  rw [commits, List.getElem?_append_right (Nat.le_refl _), Nat.sub_self]
  rfl

/-! ### A part that ends ST_OK -/

/-- The command once the part of engine `e` has ended with `r`. -/
def Cmd.withResult (c : Cmd) (e : Nat) (r : EngResult) : Cmd :=
  { c with
    parts := c.parts.map fun p => if p.eng = e then { p with result := some r } else p
    orphans := union c.orphans [] }

/-- It takes the place of the command. -/
def State.withPart (s : State) (c : Cmd) (e : Nat) (r : EngResult) : State :=
  s.modCmd c.sq c.seq fun _ => c.withResult e r

theorem State.partDone_ok (s : State) (c : Cmd) (e : Nat) {r : EngResult} (ok : r.fault.status = 0) :
    s.partDone c e r = if (c.withResult e r).parts.all (·.result.isSome) then (s.withPart c e r).commitSplit (c.withResult e r)
      else s.withPart c e r := by
  have good : ¬ r.fault.status ≠ stOk := fun bad => bad ok
  rw [State.partDone]
  dsimp only
  rw [if_neg good, if_neg good]
  rfl

theorem State.cmd?_withPart {s : State} {sq seq : Nat} {c : Cmd} (e : Nat) (r : EngResult) (named : s.cmd? sq seq = some c) :
    (s.withPart c e r).cmd? sq seq = some (c.withResult e r) := by
  obtain ⟨rfl, rfl⟩ : c.sq = sq ∧ c.seq = seq := by simpa using List.find?_some named
  have same : ((fun d : Cmd => d.sq == c.sq && d.seq == c.seq) ∘
      fun d => if d.sq = c.sq ∧ d.seq = c.seq then c.withResult e r else d) =
      fun d => d.sq == c.sq && d.seq == c.seq := by
    funext d
    by_cases here : d.sq = c.sq ∧ d.seq = c.seq
    · rw [Function.comp_apply, if_pos here, here.1, here.2]
      rfl
    · rw [Function.comp_apply, if_neg here]
  rw [State.cmd?, State.withPart, State.modCmd, List.find?_map, same, ← State.cmd?, named, Option.map_some, if_pos ⟨rfl, rfl⟩]

theorem partMap_eq_zero {ps : List Part} (ok : ∀ p ∈ ps, ∃ r, p.result = some r ∧ r.fault.status = 0) : partMap ps = 0 := by
  refine congrArg (List.foldl (fun m (p : Part) => m + 2 ^ p.eng) 0) (List.filter_eq_nil_iff.mpr fun p hp => ?_)
  obtain ⟨r, result, good⟩ := ok p hp
  simp [result, good, stOk]

/-- The record of a split command without a failed part, beyond the fields that every record has. -/
def Cmd.splitRecord (c : Cmd) (x : Rec) : Rec :=
  { x with
    partmap := 0
    flags := bitOf ((c.parts.filterMap (·.result)).any (·.pent)) + 2 * bitOf ((c.parts.filterMap (·.result)).any (·.empty)) +
      4 * bitOf ((c.parts.filterMap (·.result)).any (·.ooo))
    discard := min ((c.parts.filterMap (·.result)).map (·.discard)).sum 0xFFFFFFFF }

/-- The last part of a split command whose parts have all ended ST_OK. -/
theorem State.commitSplit_ok (s : State) {c : Cmd} (lives : c.aborting = false) (order : c.order = [])
    (ok : ∀ p ∈ c.parts, ∃ r, p.result = some r ∧ r.fault.status = 0) :
    ∃ f : Rec → Rec, (∀ r, (f r).head = r.head) ∧ s.commitSplit c = s.commit c 0 0 f := by
  rw [State.commitSplit, order, partMap_eq_zero ok, lives]
  exact ⟨c.splitRecord, fun _ => rfl, rfl⟩

theorem Cmd.mem_withResult {c : Cmd} {e : Nat} {r : EngResult} {p : Part} (among : p ∈ (c.withResult e r).parts) :
    if p.eng = e then p.result = some r else p ∈ c.parts := by
  obtain ⟨q, hq, rfl⟩ := List.mem_map.mp among
  by_cases here : q.eng = e
  · rw [if_pos here, if_pos here]
  · rw [if_neg here, if_neg here]
    exact hq

/-! ### The obligation -/

theorem State.engFree_of {s : State} {e : Nat} (run : (s.eng e).run = .idle) (idle : (s.eng e).idle = .active)
    (enabled : s.fget (.neCtl e) 0 0 = 1) (running : s.tripped = false) : s.engFree e = true := by
  simp [State.engFree, run, idle, enabled, running]

theorem State.startOf_sreg_low (s : State) (e : Nat) (k : Task) (im : Image) {j : Nat} (low : j < 53) :
    (s.startOf e k im).sreg j = 0 := by
  by_cases zero : j = 0
  · rw [Engine.sreg, if_pos zero]
  · rw [State.startOf_sreg _ _ _ _ zero, startSreg_low k low]
    rfl

/-- The first statement: the state in which a command or a part starts. -/
theorem engineStart {s : State} {ne : Fin 6} {k : Task} {im : Image} {c : Instr} (next : nextTask (s.eng ne.val).queue = some k)
    (hc : c = if k.id.eng.isSome then .partStart ne else .commandStart ne) (free : s.engFree ne.val = true)
    (image : mfind s.images k.image = some im) :
    exec c s = .next (s.engStart ne.val k.id.eng.isSome) ∧ StartsTask s ne.val k im (s.engStart ne.val k.id.eng.isSome) :=
  ⟨execStart s hc, State.engStart_startsTask next free image⟩

/-- Settles O14: a command starts as its task says, and ends once its last cycles have passed; the last part commits for all. -/
theorem engineStartAndEnd : Obligations.EngineStartAndEnd := by
  refine ⟨?_, ?_⟩
  · rintro s ne x k im c rfl next hc run idle enabled running image eight
    obtain ⟨starts, frame, runs, eng, others⟩ := engineStart next hc (State.engFree_of run idle enabled running) image
    obtain ⟨grant, alloc, fall, floor, r, begun⟩ : ∃ grant alloc fall floor r, (s.engStart ne.val k.id.eng.isSome).eng ne.val =
        { s.startOf ne.val k im with grant := grant, alloc := alloc, fall := fall, floorHeld := floor, run := r } :=
      ⟨_, _, _, _, _, eng.frame⟩
    rw [begun] at runs
    obtain ⟨vregs, acm, queue⟩ := (s.eng ne.val).begin_persists k im (s.pmtCtx k.ctx) (s.rget (.pntCtl ne.val))
    refine ⟨_, _, starts, frame, begun, rfl, runs, rfl, rfl, rfl, queue, rfl, rfl, rfl, rfl, rfl, rfl, rfl, rfl, rfl,
      fun j bound => ?_, ?_, ?_, ?_, fun j low => ?_, vregs, acm, fun f other => ?_⟩
    · exact (s.startOf_sreg ne.val k im (by omega)).trans (startSreg_arg eight bound)
    · exact (s.startOf_sreg ne.val k im (by decide)).trans (BitVec.toNat_ofNat ..)
    · exact (s.startOf_sreg ne.val k im (by decide)).trans (BitVec.toNat_ofNat ..)
    · exact (s.startOf_sreg ne.val k im (by decide)).trans (BitVec.toNat_ofNat ..)
    · exact s.startOf_sreg_low ne.val k im low
    · rw [(others f other).frame]
      exact ⟨rfl, rfl, rfl⟩
  rintro s ne x k c rfl quiet running held task named k_bound c_bound q_bound
  obtain ⟨u, vacates, ends⟩ := State.engDone_quiet quiet running held task named
  refine ⟨fun whole lives => ?_, fun part ok waits own => ?_, fun part ok lives order own done => ?_⟩
  · have commits : exec (.commandComplete ne) s = .next (u.commitEngine c ne.val ((s.eng ne.val).resultOf k)) := by
      rw [whole] at ends
      exact congrArg Host.Outcome.next ends
    rw [State.commitEngine_eq _ _ _ lives] at commits
    refine ⟨_, commits, ?_, ?_, ?_, ?_, vacates.completes c_bound fun _ => rfl, fun fatal => ?_⟩
    · rw [State.commit_eng, vacates.run]
    · rw [State.commit_eng, vacates.task]
    · rw [State.commit_mem, vacates.mem]
    · rw [State.commit_rget_ctxEngcyc, vacates.rget_same, Nat.add_assoc]
      rfl
    · refine ⟨_, by rw [← vacates.commitQ]; exact State.getElem?_commit .., ?_⟩
      rw [State.recordOf_fatal (vacates.fatal.trans fatal)]
      exact ⟨EngResult.ite_failed .., rfl, rfl, rfl, rfl, rfl⟩
  · have ended : exec (.partEnd ne) s = .next (u.partDone c ne.val ((s.eng ne.val).resultOf k)) := by
      rw [part] at ends
      exact congrArg Host.Outcome.next ends
    obtain ⟨p, among, elsewhere, unfinished⟩ := waits
    have more : ¬ (c.withResult ne.val ((s.eng ne.val).resultOf k)).parts.all (·.result.isSome) = true := by
      rw [List.all_eq_true]
      intro all
      have kept := all _ (List.mem_map_of_mem among)
      rw [if_neg elsewhere, unfinished] at kept
      cases kept
    rw [State.partDone_ok _ _ _ (by exact ok), if_neg more] at ended
    refine ⟨_, _, ended, vacates.run, vacates.task, vacates.commitQ, vacates.mem,
      State.cmd?_withPart _ _ ((vacates.cmd? ..).trans named), fun q hq => ?_⟩
    have result := Cmd.mem_withResult hq
    by_cases here : q.eng = ne.val
    · rw [if_pos here] at result ⊢
      rw [result]
      rfl
    · rw [if_neg here] at result ⊢
      exact ⟨q, result, rfl, rfl⟩
  · have ended : exec (.partEnd ne) s = .next (u.partDone c ne.val ((s.eng ne.val).resultOf k)) := by
      rw [part] at ends
      exact congrArg Host.Outcome.next ends
    have all_ok : ∀ p ∈ (c.withResult ne.val ((s.eng ne.val).resultOf k)).parts,
        ∃ r, p.result = some r ∧ r.fault.status = 0 := by
      intro q hq
      have result := Cmd.mem_withResult hq
      by_cases here : q.eng = ne.val
      · rw [if_pos here] at result
        exact ⟨_, result, ok⟩
      · rw [if_neg here] at result
        exact done q result here
    have all : (c.withResult ne.val ((s.eng ne.val).resultOf k)).parts.all (·.result.isSome) = true := by
      rw [List.all_eq_true]
      intro q hq
      obtain ⟨r, result, -⟩ := all_ok q hq
      rw [result]
      rfl
    obtain ⟨f, keeps, commits⟩ := State.commitSplit_ok (u.withPart c ne.val ((s.eng ne.val).resultOf k))
      (c := c.withResult ne.val ((s.eng ne.val).resultOf k)) lives order all_ok
    rw [State.partDone_ok _ _ _ (by exact ok), if_pos all, commits] at ended
    refine ⟨_, ended, ?_, ?_, ?_⟩
    · rw [State.commit_eng]
      exact vacates.run
    · rw [State.commit_eng]
      exact vacates.task
    · exact State.completes_commit (c := c.withResult ne.val ((s.eng ne.val).resultOf k)) vacates.commitQ vacates.fatal
        (fun _ => vacates.cmdSignals c_bound) keeps

end Sys2Proof.Machine

/-! SUPPORT. Scalar instructions (R126, Table 5.4): the result that one owes, and what the scalar functions compute. -/
namespace Sys2Proof.Machine

open Sys2Proof

-- one proof after the other: a thread for each would need too much memory
set_option Elab.async false

/-! ### Results of the A slot -/

/-- A result of the A slot: one that its destination discards is not owed. -/
theorem Engine.putA_sreg (x : Engine) (lat : Nat) (sd : Fin 64) (m v : Nat) :
    x.putA lat (.sreg sd.val) m v =
      { x with pend := x.pend ++ (if sd = 0 then [] else [x.resultA lat (.sreg sd.val) m v]) } := by
  have null : (Dest.sreg sd.val).null = true ↔ sd = 0 := beq_iff_eq.trans Fin.val_eq_zero_iff
  unfold Engine.putA
  by_cases zero : sd = 0
  · rw [if_pos (null.2 zero), if_pos zero, List.append_nil]
  · rw [if_neg (mt null.1 zero), if_neg zero]
    rfl

/-- The checks pass where every source is ready and the last check passes. -/
theorem worst_needS {x : Engine} {rs : List Nat} {last : Option AccErr} (sources : ∀ r ∈ rs, x.readyS r)
    (pass : last = none) : worst ((rs.map fun r => x.needS r) ++ [last]) = none := by
  induction rs with
  | nil =>
    rw [pass]
    rfl
  | cons r rs ih =>
    rw [List.map_cons, List.cons_append, Engine.needS_none.2 (sources r List.mem_cons_self)]
    exact ih fun q hq => sources q (List.mem_cons_of_mem _ hq)

/-- A scalar instruction that issues with its sources ready owes the value `v` that it computes of its engine. -/
theorem scalar_owes {h : Issue} {s : State} {lat : Nat} {rs : List Nat} {rd : List Dest} {sd : Fin 64} {v : Engine → W64}
    (ready : issues h s) (sources : ∀ r ∈ rs, (issuer h s).readyS r)
    (order : (issuer h s).inOrderA lat (.sreg sd.val) allS) :
    owes h s (issue h .a rd (scalarChk h.ne.val lat rs sd.val)
        (fun s => s.putS h.ne.val lat sd.val (v (s.eng h.ne.val))) s)
      (if sd = 0 then [] else [(issuer h s).resultA lat (.sreg sd.val) allS (v (issuer h s)).toNat]) := by
  have pass : scalarChk h.ne.val lat rs sd.val (started h s) = none := worst_needS sources (Engine.orderA_none.2 order)
  exact owes_issue ready (f := fun x => x.putA lat (.sreg sd.val) allS (v x).toNat) pass (Engine.putA_sreg ..)

/-! ### Scalar functions (R126, Table 5.4) -/

theorem toNat_sw (x : Engine) (r : Nat) : (x.sw r).toNat = x.sreg r % 2 ^ 64 := BitVec.toNat_ofNat ..

/-- LIH keeps the low half of its register. -/
theorem toNat_high_low (imm : W32) (v : W64) :
    (imm ++ v.truncate 32 : W64).toNat = imm.toNat * 2 ^ 32 + v.toNat % 2 ^ 32 := by
  have low : (v.truncate 32).toNat = v.toNat % 2 ^ 32 := BitVec.toNat_setWidth ..
  rw [BitVec.toNat_append, ← Nat.shiftLeft_add_eq_or_of_lt (BitVec.isLt _), Nat.shiftLeft_eq, low]

theorem toNat_sub_mod (a b : W64) : (a - b).toNat = (a.toNat + 2 ^ 64 - b.toNat) % 2 ^ 64 := by
  have := b.isLt
  rw [BitVec.toNat_sub, Nat.add_comm a.toNat, Nat.sub_add_comm (Nat.le_of_lt this)]

theorem toInt_sshiftRight_eq_div (a : W64) (n : Nat) : (a.sshiftRight n).toInt = a.toInt / 2 ^ n := by
  rw [BitVec.toInt_sshiftRight, Int.shiftRight_eq_div_pow]
  norm_cast

/-- The lesser and the greater of two words, by a key that orders them. -/
theorem key_ite_lt {α : Type} [LinearOrder α] (key : W64 → α) {a b : W64} {c : Bool} (hc : c = true ↔ key a < key b) :
    key (if c then a else b) = min (key a) (key b) ∧ key (if c then b else a) = max (key a) (key b) := by
  by_cases less : key a < key b
  · rw [if_pos (hc.2 less), if_pos (hc.2 less), min_eq_left less.le, max_eq_right less.le]
    exact ⟨rfl, rfl⟩
  · rw [if_neg (mt hc.1 less), if_neg (mt hc.1 less), min_eq_right (not_lt.1 less), max_eq_left (not_lt.1 less)]
    exact ⟨rfl, rfl⟩

/-- A comparison gives 1 or 0. -/
theorem toNat_ite_one {c : Bool} {p : Prop} [Decidable p] (hc : c = true ↔ p) :
    (if c then 1 else 0 : W64).toNat = if p then 1 else 0 := by
  by_cases holds : p
  · rw [if_pos (hc.2 holds), if_pos holds]
    rfl
  · rw [if_neg (mt hc.1 holds), if_neg holds]
    rfl

/-! ### The obligation -/

/-- Settles O1: each form owes the value it computes of its engine; each function by the library's facts about words. -/
theorem scalarResults : Obligations.ScalarResults := by
  refine ⟨fun h s ready => ⟨?_, ?_, ?_, ?_, ?_⟩, fun a b => ?_⟩
  · intro sd sa sb fn first second order
    refine ⟨_, rfl, scalar_owes (v := fun x => sfn fn (x.sw sa.val) (x.sw sb.val)) ready ?_ order⟩
    simp [first, second]
  · intro sd sa fn imm source order
    refine ⟨_, rfl, scalar_owes (v := fun x => sfn fn (x.sw sa.val) (imm.signExtend 64)) ready ?_ order⟩
    simp [source]
  · intro sd imm order
    exact ⟨_, rfl, scalar_owes (v := fun _ => imm.signExtend 64) ready (by simp) order⟩
  · intro sd imm source order
    have value : (imm ++ ((issuer h s).sw sd.val).truncate 32 : W64).toNat =
        imm.toNat * 2 ^ 32 + (issuer h s).sreg sd.val % 2 ^ 32 := by
      rw [toNat_high_low, toNat_sw, Nat.mod_mod_of_dvd _ (by decide)]
    rw [← value]
    refine ⟨_, rfl, scalar_owes (v := fun x => imm ++ (x.sw sd.val).truncate 32) ready ?_ order⟩
    simp [source]
  · intro sd spr order
    rw [← BitVec.toNat_ofNat]
    exact ⟨_, rfl, scalar_owes (v := fun x => BitVec.ofNat 64 (x.spr h.ne.val spr)) ready (by simp) order⟩
  · have signed : a.slt b = true ↔ a.toInt < b.toInt := BitVec.slt_iff_toInt_lt
    have unsigned : a.ult b = true ↔ a.toNat < b.toNat := BitVec.ult_iff_toNat_lt
    obtain ⟨min, max⟩ := key_ite_lt BitVec.toInt signed
    obtain ⟨minu, maxu⟩ := key_ite_lt BitVec.toNat unsigned
    refine ⟨BitVec.toNat_add .., toNat_sub_mod .., BitVec.toNat_mul .., ?_, ?_, toInt_sshiftRight_eq_div .., min, max, minu,
      maxu, toNat_ite_one signed, toNat_ite_one unsigned⟩
    · rw [← Nat.shiftLeft_eq]
      exact BitVec.toNat_shiftLeft
    · rw [← Nat.shiftRight_eq_div_pow]
      exact BitVec.toNat_ushiftRight ..

end Sys2Proof.Machine

/-! SUPPORT. Remote loads and stores (R130, Table 5.8). -/
namespace Sys2Proof.Machine

open Sys2Proof

-- one proof after the other: a thread for each would need too much memory
set_option Elab.async false

section
variable {s : State} {e sa n va : Nat} {wr : Bool} {ps : List (Nat × Nat)}
  (address : va = (s.eng e).sreg sa % 2 ^ 48 / 64 * 64) (translated : s.xlatRange (s.eng e).ctx va n wr = .ok ps)
include address translated

/-- A range that is mapped passes the check of a remote access. -/
theorem State.remoteBad_none : s.remoteBad e sa n wr = none := by
  subst address
  rw [State.remoteBad, Engine.remoteVa, translated]

theorem State.remotePieces_eq : s.remotePieces e sa n wr = ps := by
  subst address
  rw [State.remotePieces, Engine.remoteVa, translated]

end

section
variable {h : Issue} {s : State} {sa : Fin 64} {sz : Fin 7} {vpos : BitVec 6} {va : Nat} {ps : List (Nat × Nat)}
  (ready : issues h s) (whole : 64 * vpos.toNat + 64 * 2 ^ sz.val ≤ 4096) (source : (issuer h s).readyS sa.val)
  (address : va = (issuer h s).sreg sa.val % 2 ^ 48 / 64 * 64)
include ready whole source address

theorem execRld_owes {vd : Fin 32}
    (order : (issuer h s).inOrder 320 (.vreg vd.val) (maskAt (512 * vpos.toNat) (512 * 2 ^ sz.val)))
    (translated : (started h s).xlatRange (issuer h s).ctx va (64 * 2 ^ sz.val) false = .ok ps) :
    ∃ t, exec (.rld h vd sa sz vpos) s = .next t ∧ owes h s t
      [{ (issuer h s).result 320 (.vreg vd.val) (maskAt (512 * vpos.toNat) (512 * 2 ^ sz.val)) 0 with
        rld := some ⟨va, ps, 64 * vpos.toNat, (issuer h s).ctl.pc⟩ }] := by
  have bits : maskAt (512 * vpos.toNat) (512 * 2 ^ sz.val) = maskAt (8 * (64 * vpos.toNat)) (8 * (64 * 2 ^ sz.val)) := by
    rw [← Nat.mul_assoc, ← Nat.mul_assoc]
  rw [bits] at order ⊢
  refine ⟨_, wfOr_wf (szBytes_le whole) _, turns_issue ready ?_ ?_⟩
  · change worst [(issuer h s).needS sa.val,
      (issuer h s).order 320 (.vreg vd.val) (maskAt (8 * (64 * vpos.toNat)) (8 * (64 * 2 ^ sz.val))),
      (started h s).remoteBad h.ne.val sa.val (64 * 2 ^ sz.val) false] = none
    rw [Engine.needS_none.2 source, Engine.order_none order, State.remoteBad_none address translated]
    rfl
  · subst address
    dsimp only
    rw [szBytes, State.remotePieces_eq rfl translated]
    rfl

theorem execRst_posts {vs : Fin 32} (data : (issuer h s).readyV vs.val)
    (translated : (started h s).xlatRange (issuer h s).ctx va (64 * 2 ^ sz.val) true = .ok ps) :
    ∃ t, exec (.rst h vs sa sz vpos) s = .next t ∧ turns h s t { issuer h s with
      posted := (issuer h s).posted ++ [⟨va, ps,
        leBytes (64 * 2 ^ sz.val) ((issuer h s).vreg vs.val >>> (512 * vpos.toNat)), (issuer h s).ctl.pc⟩] } := by
  refine ⟨_, wfOr_wf (szBytes_le whole) _, turns_issue ready ?_ ?_⟩
  · change worst [(issuer h s).needV vs.val, (issuer h s).needS sa.val,
      (started h s).remoteBad h.ne.val sa.val (64 * 2 ^ sz.val) true] = none
    rw [Engine.needV_none.2 data, Engine.needS_none.2 source, State.remoteBad_none address translated]
    rfl
  · subst address
    dsimp only
    rw [szBytes, State.remotePieces_eq rfl translated]
    rfl

end

/-! ### The obligation -/

/-- Settles O5: the checks pass, and the access goes to the pieces that the translation of its range gives. -/
theorem remoteAccess : Obligations.RemoteAccess := by
  intro h s sa sz vpos va ps ready whole source address
  refine ⟨fun vd order translated => ?_, fun vs data translated => ?_⟩
  · obtain ⟨t, next, owed⟩ := execRld_owes ready whole source address order translated
    exact ⟨t, _, next, owed, rfl, rfl, rfl, rfl, rfl, rfl⟩
  · obtain ⟨t, next, turned⟩ := execRst_posts ready whole source address data translated
    refine ⟨t, _, next, turned, length_leBytes .., fun i inside => ?_⟩
    rw [length_leBytes] at inside
    rw [getElem?_leBytes, if_pos inside, Nat.shiftRight_add]

end Sys2Proof.Machine

/-! SUPPORT. The outcome of a command: only a word that a loader verifier refuses gives one other than a next state (R119, R160,
log entry 57). -/
namespace Sys2Proof.Machine

open Sys2Proof

-- one proof after the other: a thread for each would need too much memory
set_option Elab.async false

/-- A command answers with a next state. -/
def Answers (x : Host.Outcome State Fault Refusal) : Prop := ∃ t, x = .next t

theorem Answers.next (t : State) : Answers (.next t) := ⟨t, rfl⟩

theorem Answers.ite {c : Prop} [Decidable c] {x y : Host.Outcome State Fault Refusal} (hx : Answers x) (hy : Answers y) :
    Answers (if c then x else y) := by
  split
  · exact hx
  · exact hy

/-! ### Writes on the register bus (R447) -/

theorem answers_pmtRoute (w : World) (op : Nat) (s : State) : Answers (pmtRoute w op s) :=
  .ite (.next _) (.ite (.next _) (.ite (.next _) (.ite (.next _) (.ite (.next _) (.next _)))))

theorem answers_frPortRoute (w : World) (r v : Nat) (s : State) : Answers (frPortRoute w r v s) :=
  .ite (.next _) (.ite (.next _) (.next _))

theorem answers_frCtlRoute (w : World) (r v : Nat) (s : State) : Answers (frCtlRoute w r v s) := .ite (.next _) (.next _)

theorem answers_writeReg (w : World) (ep : Endpoint) (r : Reg) (v : Nat) (s : State) : Answers (writeReg w ep r v s) := by
  cases r with
  | pmtInstallR => exact answers_pmtRoute ..
  | frPortOp => exact answers_frPortRoute ..
  | frCtl => exact answers_frCtlRoute ..
  | secLock | fqCtl => exact .ite (.next _) (.next _)
  | _ => exact .next _

theorem answers_write32 (w : World) (ep : Endpoint) (off v : Nat) (s : State) : Answers (write32 w ep off v s) := by
  refine .ite (.next _) ?_
  split
  · exact .ite (answers_writeReg ..) (.next _)
  · exact .next _

theorem answers_write64 (w : World) (ep : Endpoint) (off v : Nat) (s : State) : Answers (write64 w ep off v s) := by
  unfold write64
  split
  · next r _ =>
    obtain ⟨t, low⟩ := answers_writeReg w ep r (v % 2 ^ 32) s
    rw [low]
    exact .ite (answers_writeReg ..) (answers_write32 ..)
  · exact answers_write32 ..

theorem answers_busWrite (w : World) (ep : Endpoint) (off width v : Nat) (s : State) :
    Answers (busWrite w ep off width v s) :=
  .ite (.next _) (.ite (.ite (.next _) (.next _)) (.ite (.next _) (.ite (answers_write64 ..) (answers_write32 ..))))

theorem answers_execRegisterWrite (w : World) (ep : Endpoint) (a : Pa) (width : Nat) (v : W64) (s : State) :
    Answers (execRegisterWrite w ep a width v s) := .ite (.next _) (answers_busWrite ..)

/-! ### Accesses by a master -/

theorem answers_masterRead (w : World) (ep : Endpoint) (off n : Nat) (s : State) : Answers (s.masterRead w ep off n) := by
  unfold State.masterRead
  split
  · exact .ite (.next _) (.next _)
  · exact .next _

theorem answers_masterWrite (w : World) (ep : Endpoint) (off : Nat) (d : List Byte) (s : State) :
    Answers (s.masterWrite w ep off d) := by
  obtain ⟨t, written⟩ := answers_busWrite w ep off (8 * d.length) (fieldAt d 0 d.length) s
  rw [State.masterWrite, written]
  exact .next _

theorem answers_execRemoteAccess (m : Master) (ctx : BitVec 12) (va : BitVec 48) (a : Access) (s : State) :
    Answers (execRemoteAccess m ctx va a s) := by
  refine .ite (.next _) ?_
  split
  · cases a with
    | read n => exact answers_masterRead ..
    | write d => exact answers_masterWrite ..
  · exact .next _

/-! ### Every command -/

/-- A command that is issuable in every state answers as its own arm does. -/
theorem outcome_of_answers {c : Instr} {s : State} (accepted : issuable c = true) (h : Answers (exec c s)) :
    ∃ t, exec c s = wfOr (issuable c) t := by
  obtain ⟨t, next⟩ := h
  exact ⟨t, next.trans (wfOr_wf accepted t).symm⟩

/-- An engine instruction that its own fields alone can make a reserved word. -/
theorem outcome_of_wf {c : Instr} {s t : State} (fields : issuable c = c.wf) (h : exec c s = wfOr c.wf t) :
    ∃ t, exec c s = wfOr (issuable c) t := ⟨t, h.trans (by rw [fields])⟩

/-- Whether a command answers with a next state or faults depends on the command alone. -/
theorem exec_eq_wfOr (c : Instr) (s : State) : ∃ t, exec c s = wfOr (issuable c) t := by
  cases c with
  | cmm => exact ⟨_, rfl⟩
  | loop | brz | brnz | ld | st | rld | rst | palwr | vop2 | vfma | vcmp | vsel | vcvt | vfn | vred | vperm | vext | vbcast | drn
  | wgcfg | pq => exact outcome_of_wf (Bool.and_true _) rfl
  | registerWrite => exact outcome_of_answers rfl (answers_execRegisterWrite ..)
  | remoteAccess => exact outcome_of_answers rfl (answers_execRemoteAccess ..)
  | _ => exact outcome_of_answers rfl (.next _)

/-! ### The obligation -/

/-- Settles O60: every command answers as `wfOr` does for the words that a verifier accepts. -/
theorem noStop : Obligations.NoStop := by
  intro c s
  obtain ⟨t, outcome⟩ := exec_eq_wfOr c s
  rw [outcome]
  exact ⟨fun accepted => ⟨t, wfOr_wf accepted t⟩, fun rejected => if_neg (Bool.eq_false_iff.1 rejected)⟩

end Sys2Proof.Machine

/-! SUPPORT. Instruction words (R118, R119, Tables 5.1 to 5.7): fields joined and cut again, and the codes of enumerated fields. -/
namespace Sys2Proof

open Machine

-- one proof after the other: a thread for each would need too much memory
set_option Elab.async false

/-! ### Fields of a word -/

/-- Every field's value fits its width. -/
def Fits (fs : List (Nat × Nat)) : Prop := ∀ p ∈ fs, p.2 < 2 ^ p.1

@[simp] theorem fits_nil : Fits [] := nofun

@[simp] theorem fits_append {fs gs : List (Nat × Nat)} : Fits (fs ++ gs) ↔ Fits fs ∧ Fits gs := List.forall_mem_append

@[simp] theorem fits_cons {k v : Nat} {fs : List (Nat × Nat)} : Fits ((k, v) :: fs) ↔ v < 2 ^ k ∧ Fits fs :=
  List.forall_mem_cons

/-- The bits that the fields take together. -/
def fieldsWidth (fs : List (Nat × Nat)) : Nat := (fs.map Prod.fst).sum

theorem fieldsWidth_append (fs gs : List (Nat × Nat)) : fieldsWidth (fs ++ gs) = fieldsWidth fs + fieldsWidth gs := by
  rw [fieldsWidth, List.map_append, List.sum_append]
  rfl

theorem joinW_lt {fs : List (Nat × Nat)} (fits : Fits fs) : joinW fs < 2 ^ fieldsWidth fs := by
  induction fs with
  | nil => exact Nat.one_pos
  | cons p fs ih =>
    obtain ⟨k, v⟩ := p
    obtain ⟨first, rest⟩ := fits_cons.1 fits
    have : 2 ^ fieldsWidth ((k, v) :: fs) = 2 ^ k * 2 ^ fieldsWidth fs := Nat.pow_add ..
    rw [this, joinW]
    calc v + 2 ^ k * joinW fs < 2 ^ k + 2 ^ k * joinW fs := Nat.add_lt_add_right first _
      _ = 2 ^ k * (joinW fs + 1) := by ring
      _ ≤ 2 ^ k * 2 ^ fieldsWidth fs := Nat.mul_le_mul_left _ (ih rest)

/-- Fields that fit are cut out again, and what lies above them stays joined. -/
theorem splitW_joinW {fs : List (Nat × Nat)} (fits : Fits fs) (above : List (Nat × Nat)) :
    splitW (fs.map Prod.fst) (joinW (fs ++ above)) = fs.map Prod.snd ++ [joinW above] := by
  induction fs with
  | nil => rfl
  | cons p fs ih =>
    obtain ⟨k, v⟩ := p
    obtain ⟨first, rest⟩ := fits_cons.1 fits
    have low : (v + 2 ^ k * joinW (fs ++ above)) % 2 ^ k = v := by rw [Nat.add_mul_mod_self_left, Nat.mod_eq_of_lt first]
    have high : (v + 2 ^ k * joinW (fs ++ above)) / 2 ^ k = joinW (fs ++ above) := by
      rw [Nat.add_mul_div_left _ _ (Nat.two_pow_pos k), Nat.div_eq_of_lt first, Nat.zero_add]
    simp only [List.map_cons, List.cons_append, splitW, joinW, low, high, ih rest]

/-! ### Codes of fields -/

@[simp] theorem fin_val {n : Nat} [NeZero n] (x : Fin n) : fin n x.val = x := Fin.ofNat_val_eq_self x

theorem val_lt_of_le {n m : Nat} (room : n ≤ m) (x : Fin n) : x.val < m := x.isLt.trans_le room

theorem toNat_lt_of_two_pow_le {w n : Nat} (room : 2 ^ w ≤ n) (x : BitVec w) : x.toNat < n := x.isLt.trans_le room

@[simp] theorem bitN_beq_one (b : Bool) : (bitN b == 1) = b := by cases b <;> rfl

@[simp] theorem bitN_le_one (b : Bool) : bitN b ≤ 1 := by cases b <;> decide

@[simp] theorem SFn.ofCode_code (f : SFn) : SFn.ofCode f.code = some f := by cases f <;> rfl

@[simp] theorem SFn.code_lt (f : SFn) : f.code < 16 := by cases f <;> decide

@[simp] theorem V2Fn.ofCode_code (f : V2Fn) : V2Fn.ofCode f.code = some f := by cases f <;> rfl

@[simp] theorem V2Fn.code_lt (f : V2Fn) : f.code < 64 := by cases f <;> decide

@[simp] theorem CmpFn.ofCode_code (f : CmpFn) : CmpFn.ofCode f.code = some f := by cases f <;> rfl

@[simp] theorem CmpFn.code_lt (f : CmpFn) : f.code < 64 := by cases f <;> decide

@[simp] theorem TFn.ofCode_code (f : TFn) : TFn.ofCode f.code = some f := by cases f <;> rfl

@[simp] theorem TFn.code_lt (f : TFn) : f.code < 64 := by cases f <;> decide

@[simp] theorem RedOp.ofCode_code (f : RedOp) : RedOp.ofCode f.code = some f := by cases f <;> rfl

@[simp] theorem RedOp.code_lt (f : RedOp) : f.code < 16 := by cases f <;> decide

@[simp] theorem PlogFn.ofCode_code (f : PlogFn) : PlogFn.ofCode f.code = some f := by cases f <;> rfl

@[simp] theorem PlogFn.code_lt (f : PlogFn) : f.code < 64 := by cases f <;> decide

@[simp] theorem Spr.ofCode_code (r : Spr) : Spr.ofCode r.code = some r := by cases r <;> rfl

@[simp] theorem Spr.code_lt (r : Spr) : r.code < 16 := by cases r <;> decide

@[simp] theorem AField.ofCode_code (f : AField) : AField.ofCode f.code = some f := by
  cases f with
  | base => rfl
  | stride i => fin_cases i <;> rfl
  | bound => rfl

@[simp] theorem AField.code_lt (f : AField) : f.code < 8 := by
  cases f with
  | base => decide
  | stride i => have := i.isLt; simp only [AField.code]; omega
  | bound => decide

@[simp] theorem fmtOfCode_fmtCode (f : Format) : fmtOfCode (fmtCode f) = some f := by cases f <;> rfl

@[simp] theorem fmtCode_lt (f : Format) : fmtCode f < 16 := by cases f <;> decide

@[simp] theorem EType.code_lt (t : EType) : t.code < 32 := by
  cases t with
  | int32 => decide
  | fmt f => exact Nat.lt_trans (fmtCode_lt f) (by decide)

@[simp] theorem EType.ofCode_code (t : EType) : EType.ofCode t.code = some t := by
  cases t with
  | int32 => rfl
  | fmt f =>
    have other : fmtCode f ≠ 16 := (fmtCode_lt f).ne
    rw [EType.code, EType.ofCode, if_neg other, fmtOfCode_fmtCode]
    rfl

@[simp] theorem InitMode.ofCode_code (m : InitMode) : InitMode.ofCode m.code = some m := by
  cases m with
  | keep => rfl
  | zero => rfl
  | bias b => fin_cases b <;> rfl

@[simp] theorem InitMode.code_lt (m : InitMode) : m.code < 8 := by
  cases m with
  | keep => decide
  | zero => decide
  | bias b => have := b.isLt; simp only [InitMode.code]; omega

@[simp] theorem Role.ofCode_code (r : Role) : Role.ofCode r.code = r := by cases r <;> rfl

@[simp] theorem Role.code_le_one (r : Role) : r.code ≤ 1 := by cases r <;> decide

@[simp] theorem SizeField.ofCode_code (f : SizeField) : SizeField.ofCode f.code = some f := by
  cases f with
  | imm v =>
    have low : v.toNat < 4096 := v.isLt
    simp [SizeField.code, SizeField.ofCode, low]
  | reg r =>
    have high : 4096 + r.val < 4096 + 64 := Nat.add_lt_add_left r.isLt _
    rw [SizeField.code, SizeField.ofCode, if_neg (by omega), if_pos high, Nat.add_sub_cancel_left, fin_val]

@[simp] theorem SizeField.code_lt (f : SizeField) : f.code < 8192 := by
  cases f with
  | imm v => exact Nat.lt_trans v.isLt (by decide)
  | reg r => have := r.isLt; simp only [SizeField.code]; omega

@[simp] theorem RingLen.rlr_le_one (l : RingLen) : l.rlr ≤ 1 := by cases l <;> simp [RingLen.rlr]

@[simp] theorem RingLen.code_lt (l : RingLen) : l.code < 256 := by
  cases l with
  | imm v => exact v.isLt
  | reg r => exact Nat.lt_trans r.isLt (by decide)

theorem checked_wf {i : Instr} (ok : i.wf = true) : checked i = some i := if_pos ok

/-! ### Words of slots A and M (Tables 5.3 and 5.5) -/

/-- A word that spells an instruction in a slot. -/
def Spells (sl : Slot) (w : Nat) (i : Instr) : Prop := w ≠ 0 ∧ w < 2 ^ 64 ∧ ∃ h, decodeSlot h sl w = some i

/-- A word with an opcode and fields that fit spells what the decoder makes of that opcode, of those fields, and of what lies
above them. -/
theorem spells_joinW_append {sl : Slot} {o : Nat} {fs above : List (Nat × Nat)} {i : Instr} (opcode : 0 < o ∧ o < 256)
    (fits : Fits (fs ++ above)) (room : fieldsWidth (fs ++ above) ≤ 56)
    (decodes : ∀ w, w % 256 = o →
      (∀ ks, ks = 8 :: fs.map Prod.fst → splitW ks w = o :: (fs.map Prod.snd ++ [joinW above])) →
      ∃ h, decodeSlot h sl w = some i) : Spells sl (joinW ((8, o) :: (fs ++ above))) i := by
  have whole : Fits ((8, o) :: (fs ++ above)) := fits_cons.2 ⟨opcode.2, fits⟩
  have low : joinW ((8, o) :: (fs ++ above)) % 256 = o :=
    (Nat.add_mul_mod_self_left ..).trans (Nat.mod_eq_of_lt opcode.2)
  refine ⟨fun zero => ?_, (joinW_lt whole).trans_le (Nat.pow_le_pow_right Nat.two_pos ?_), decodes _ low ?_⟩
  · rw [zero] at low
    exact opcode.1.ne low
  · exact Nat.add_le_add_left room 8
  · rintro ks rfl
    exact splitW_joinW (fs := (8, o) :: fs) (fun p hp => whole p (List.mem_append_left above hp)) above

/-- A word whose fields are all that it holds. -/
theorem spells_joinW {sl : Slot} {o : Nat} {fs : List (Nat × Nat)} {i : Instr}
    (decodes : ∀ w, w % 256 = o → (∀ ks, ks = 8 :: fs.map Prod.fst → splitW ks w = o :: (fs.map Prod.snd ++ [0])) →
      ∃ h, decodeSlot h sl w = some i)
    (opcode : 0 < o ∧ o < 256 := by decide) (fits : Fits fs := by simp [val_lt_of_le, toNat_lt_of_two_pow_le])
    (room : fieldsWidth fs ≤ 56 := by simp [fieldsWidth]) : Spells sl (joinW ((8, o) :: fs)) i := by
  have nothing : fs ++ [] = fs := List.append_nil fs
  have spells := spells_joinW_append (above := []) opcode (nothing.symm ▸ fits) (nothing.symm ▸ room) decodes
  rwa [nothing] at spells

/-- The fields that V-slot instructions share, behind the opcode. -/
def commonFields (funct vd vc : Nat) (c : VCommon) : List (Nat × Nat) :=
  [(5, c.et.code), (5, vd), (5, c.va.val), (5, c.vb.val), (5, vc), (4, c.pr.val), (6, funct), (1, bitN c.ovf), (1, bitN c.zm)]

/-- A V-slot word spells what the decoder makes of its opcode, its common fields, its FUNCT, and what lies above them. -/
theorem spells_encV {o funct : Nat} {vd vc : Fin 32} {c : VCommon} {above : List (Nat × Nat)} {i : Instr}
    (decodes : ∀ w, w % 256 = o → decV w = some ({ c with vd := vd, vc := vc }, funct, joinW above) →
      ∃ h, decodeV h w = some i)
    (opcode : 0 < o ∧ o < 256 := by decide) (functFits : funct < 64 := by simp)
    (fits : Fits above := by simp [val_lt_of_le]) (room : fieldsWidth above ≤ 19 := by simp [fieldsWidth]) :
    Spells .v (encV o funct vd.val vc.val c above) i := by
  refine spells_joinW_append (fs := commonFields funct vd.val vc.val c) opcode ?_ ?_ fun w op fields => decodes w op ?_
  · simp [commonFields, functFits, fits]
  · rw [fieldsWidth_append]
    exact Nat.add_le_add_left room 37
  · simp [decV, fields, commonFields]

/-- The group of a VCVT stands in the field of VC. -/
theorem vc_eq_zero_of_vcvtOk {target : EType} {g : Nat} {c : VCommon} (ok : vcvtOk target g c = true) : c.vc = 0 := by
  by_contra other
  simp [vcvtOk, other] at ok

/-! ### Every word -/

/-- Every well-formed instruction is spelt by its word: the decoder's branch of its opcode finds its fields. -/
theorem encodeWord_spells {i : Instr} {sl : Slot} {w : Nat} (ok : i.wf = true) (enc : encodeWord i = some (sl, w)) :
    Spells sl w i := by
  cases i with
  | salu h | salui h | lil h | lih h | movsp h | phase h | brz h | brnz h =>
    cases enc
    exact spells_joinW fun w op fields =>
      ⟨h, by simp [decodeSlot, decodeA, op, fields, checked_wf ok]⟩
  | arset h _ _ operand | loop h _ operand | fwait h _ operand | fsig h _ operand =>
    cases operand <;> cases enc <;> exact spells_joinW fun w op fields =>
      ⟨h, by simp [decodeSlot, decodeA, op, fields, checked_wf ok]⟩
  | end_ h =>
    cases enc
    exact ⟨by decide, by decide, h, rfl⟩
  | ld h | st h | rld h | rst h | lds h | sts h | fqpop h | racq h | rrel h | biasld h | palwr h =>
    cases enc
    exact spells_joinW fun w op fields =>
      ⟨h, by simp [decodeSlot, decodeM, op, fields, checked_wf ok]⟩
  | vext h | plog h | wgcfg h | pq h =>
    cases enc
    exact spells_joinW fun w op fields =>
      ⟨h, by simp [decodeSlot, decodeV, op, fields, checked_wf ok, EType.arith]⟩
  | drn h _ _ _ _ _ _ row =>
    cases row <;> cases enc <;> exact spells_joinW fun w op fields =>
      ⟨h, by simp [decodeSlot, decodeV, op, fields, checked_wf ok]⟩
  | vop2 h | vfn h | vfma h | vsel h | vperm h | vbcast h =>
    cases enc
    exact spells_encV fun w op common =>
      ⟨h, by simp [decodeV, op, common, joinW, checked_wf ok]⟩
  | vred h f segs c =>
    cases enc
    have code := f.code_lt
    have low : (f.code + 16 * segs.val) % 16 = f.code := by omega
    have high : (f.code + 16 * segs.val) / 16 = segs.val := by omega
    exact spells_encV (functFits := by omega) fun w op common =>
      ⟨h, by simp [decodeV, op, common, joinW, low, high, checked_wf ok]⟩
  | vcmp h _ pd c =>
    cases enc
    have unused : { c with vd := 0 } = c := by
      obtain ⟨-, zero⟩ := Bool.and_eq_true_iff.1 ok
      rw [← beq_iff_eq.1 zero]
    exact spells_encV (vd := pd.castLE (by decide)) fun w op common =>
      ⟨h, by simp [decodeV, op, common, joinW, unused, checked_wf ok]⟩
  | vcvt h target _ c =>
    cases enc
    have unused : { c with vc := 0 } = c := by rw [← vc_eq_zero_of_vcvtOk ok]
    exact spells_encV (functFits := target.code_lt.trans (by decide)) fun w op common =>
      ⟨h, by simp [decodeV, op, common, joinW, unused, checked_wf ok]⟩
  | _ => nomatch enc

/-! ### The two words of a CMM (Tables 5.1 and 5.2) -/

/-- The fields of a CMM word. -/
def cmmFields (c : CmmWord) : List (Nat × Nat) :=
  [(8, 0x10), (4, fmtCode c.sfmt), (4, fmtCode c.xfmt), (13, c.msz.code), (13, c.ksz.code), (13, c.nsz.code), (3, c.init.code),
    (1, bitN c.reuse), (1, bitN c.complex), (1, bitN c.ring), (1, bitN c.psel), (1, bitN c.scat)]

theorem fits_cmmFields (c : CmmWord) : Fits (cmmFields c) := by simp [cmmFields]

theorem encodeCmm_lt (c : CmmWord) : encodeCmm c < 2 ^ 64 :=
  (joinW_lt (fits_cmmFields c)).trans_le (Nat.pow_le_pow_right Nat.two_pos (by simp [cmmFields, fieldsWidth]))

theorem encodeCmm_ne_zero (c : CmmWord) : encodeCmm c ≠ 0 := by
  rw [encodeCmm, joinW]
  omega

theorem decodeCmm_encodeCmm (c : CmmWord) : decodeCmm (encodeCmm c) = some c := by
  have fields : splitW [8, 4, 4, 13, 13, 13, 3, 1, 1, 1, 1, 1] (encodeCmm c) = _ := splitW_joinW (fits_cmmFields c) []
  simp [decodeCmm, fields, cmmFields, joinW]

/-- The fields of a CX word. -/
def cxFields (x : CxWord) : List (Nat × Nat) :=
  [(8, 0x3E), (5, x.wa.val), (5, x.xa.val), (1, bitN x.xwg), (2, x.wgs.val), (12, x.acmb.toNat), (8, x.ringl.code),
    (4, x.maskp.val), (6, x.pslot.toNat), (4, x.psub.toNat), (1, x.ringl.rlr)]

theorem fits_cxFields (x : CxWord) : Fits (cxFields x) := by simp [cxFields, toNat_lt_of_two_pow_le]

theorem encodeCx_lt (x : CxWord) : encodeCx x < 2 ^ 64 :=
  (joinW_lt (fits_cxFields x)).trans_le (Nat.pow_le_pow_right Nat.two_pos (by simp [cxFields, fieldsWidth]))

theorem decodeCx_encodeCx (x : CxWord) : decodeCx (encodeCx x) = some x := by
  have fields : splitW [8, 5, 5, 1, 2, 12, 8, 4, 6, 4, 1] (encodeCx x) = _ := splitW_joinW (fits_cxFields x) []
  obtain ⟨ringl, psub, pslot, maskp, acmb, wgs, xwg, xa, wa⟩ := x
  cases ringl with
  | imm v => simp [decodeCx, fields, cxFields, joinW, RingLen.rlr, RingLen.code]
  | reg r => simp [decodeCx, fields, cxFields, joinW, RingLen.rlr, RingLen.code]

/-- A bundle of a CMM and its CX, with nothing in slots M and V. -/
theorem decodeBundle_cmm (h : Issue) (c : CmmWord) (x : CxWord) :
    decodeBundle h (encodeCmm c) (encodeCx x) 0 0 = .ok { c := some (.cmm h c x) } := by
  simp [decodeBundle, encodeCmm_ne_zero, decodeCmm_encodeCmm, decodeCx_encodeCx, decodeOpt]

/-! ### The obligation -/

/-- Settles O59: a word's fields fit and are cut out again, each by the code of its field; so are those of CMM's two words. -/
theorem decodeEncode : Obligations.DecodeEncode :=
  ⟨fun _ _ _ ok enc => encodeWord_spells ok enc, fun h c x => ⟨decodeBundle_cmm h c x, encodeCmm_lt c, encodeCx_lt x⟩⟩

end Sys2Proof

/-! SUPPORT. The pentimento decision (R172 to R175, Table 7.4): its rule, the bundle that begins to issue with its record, the
alternate body that begins, and the return from it. -/
namespace Sys2Proof.Machine

open Sys2Proof

/-! ### The rule of the decision -/

theorem triggered_iff {eff : Nat} {b : LayerBlk} {m : Monitor} : triggered eff b m = true ↔
    (eff = 3 ∨ (b.minOuts ≤ m.outs ∧
      ((b.satThr ≠ 0 ∧ b.satThr * m.outs < m.satc * 2 ^ 20) ∨ (b.headThr ≠ 0 ∧ b.headThr * m.outs < m.headc * 2 ^ 20) ∨
        (b.nanLim ≠ 0 ∧ b.nanLim ≤ m.nanc)))) := by
  simp only [triggered, satHit, headHit, nanHit, Bool.or_eq_true, Bool.and_eq_true, decide_eq_true_eq, bne_iff_ne,
    beq_iff_eq, or_assoc]
  exact or_comm

section
variable {eff : Nat} {b : LayerBlk} {m : Monitor} {reruns cap elapsed : Nat}

theorem decision_of_untriggered (quiet : triggered eff b m = false) : decision eff b m reruns cap elapsed = .fits :=
  if_pos quiet

theorem decision_of_triggered (trig : triggered eff b m = true) : decision eff b m reruns cap elapsed =
    if eff = 1 then .countOnly else if cap ≤ reruns then .refusedCount
    else if b.rrLatest ≠ 0xFFFFFFFF ∧ b.rrLatest < elapsed then .refusedDeadline else .rerun :=
  if_neg (by simp [trig])

/-- Each outcome exactly where the rule gives it (R172). -/
theorem decision_iff {trig : Prop} (rule : triggered eff b m = true ↔ trig) :
    (decision eff b m reruns cap elapsed = .fits ↔ ¬ trig) ∧
    (decision eff b m reruns cap elapsed = .countOnly ↔ trig ∧ eff = 1) ∧
    (decision eff b m reruns cap elapsed = .refusedCount ↔ trig ∧ eff ≠ 1 ∧ cap ≤ reruns) ∧
    (decision eff b m reruns cap elapsed = .refusedDeadline ↔
      trig ∧ eff ≠ 1 ∧ reruns < cap ∧ b.rrLatest ≠ 0xFFFFFFFF ∧ b.rrLatest < elapsed) ∧
    (decision eff b m reruns cap elapsed = .rerun ↔
      trig ∧ eff ≠ 1 ∧ reruns < cap ∧ (b.rrLatest = 0xFFFFFFFF ∨ elapsed ≤ b.rrLatest)) := by
  by_cases hit : trig
  · rw [decision_of_triggered (rule.2 hit)]
    by_cases count : eff = 1
    · simp [hit, count]
    by_cases spent : cap ≤ reruns
    · simp [hit, count, spent]
    have room : reruns < cap := Nat.not_le.1 spent
    by_cases late : b.rrLatest ≠ 0xFFFFFFFF ∧ b.rrLatest < elapsed
    · simp [hit, count, spent, room, late]
    · have inTime : b.rrLatest = 0xFFFFFFFF ∨ elapsed ≤ b.rrLatest := by omega
      simp [hit, count, spent, room, late, inTime]
  · rw [decision_of_untriggered (Bool.eq_false_iff.2 (mt rule.1 hit))]
    simp [hit]

end

/-! ### The decision bundle begins to issue -/

/-- The decision bundle of block `lpi` has begun to issue in engine `e` and has stored the record `bs` (R174); memory, the set-up
registers and the other engines stand as in `s`. -/
structure DecisionIssues (s t : State) (e lpi : Nat) (bs : List Byte) : Prop where
  mem : t.mem = s.mem
  regs : t.regs = s.regs
  others : ∀ f, f ≠ e → t.eng f = s.eng f
  opened : (t.eng e).opened = true
  resume : (t.eng e).ctl.resume = none
  decided : (t.eng e).ctl.decided = true
  pc : (t.eng e).ctl.pc = (s.eng e).ctl.pc
  pent : (t.eng e).pent = (s.eng e).pent
  reruns : (t.eng e).reruns = (s.eng e).reruns
  guards : (t.eng e).guards = (s.eng e).guards.filter (· ≠ lpi)
  stores : (t.eng e).stores = (s.eng e).stores ++ [⟨(s.eng e).cyc, (s.eng e).cyc + 6, (s.eng e).ctl.pc,
    sliceBase e + (s.eng e).tbase + ((s.pntImage e).1 + 16 * lpi), bs⟩]

theorem State.openBundle_of_closed {s : State} {e : Nat} (closed : (s.eng e).opened = false) :
    s.openBundle e = { s.setEng e { (s.eng e).start with
      opened := true
      regReads := []
      stores := (s.eng e).stores ++ (s.eng e).ctl.record.toList.map fun r =>
        ⟨(s.eng e).cyc, (s.eng e).cyc + 6, (s.eng e).ctl.pc, r.1, r.2⟩
      ctl := { (s.eng e).ctl with record := none } } with snaps := minsert e { eng := s.eng e } s.snaps } :=
  if_neg (by simp [closed])

theorem State.issueDecision_issues {s : State} {e : Nat} (closed : (s.eng e).opened = false) (lpi : Nat) (bs : List Byte) :
    DecisionIssues s (s.issueDecision e lpi bs) e lpi bs := by
  have eng (x : Engine) (l : SMap Snap) : ({ s.setEng e x with snaps := l } : State).eng e = x := s.eng_setEng_same e x
  unfold State.issueDecision
  rw [State.openBundle_of_closed (by rw [State.eng_setEng_same]; exact closed), State.eng_setEng_same, State.setEng_setEng]
  refine ⟨rfl, rfl, fun f other => s.eng_setEng_other other _, ?_, ?_, ?_, ?_, ?_, ?_, ?_, ?_⟩ <;> rw [eng] <;> rfl

/-! ### What a decision leads to -/

theorem State.pntImage_setEng {s : State} {e : Nat} {x : Engine} (task : x.task = (s.eng e).task) :
    (s.setEng e x).pntImage e = s.pntImage e := by
  rw [State.pntImage, State.imageOf, State.eng_setEng_same, task]
  rfl

/-- The counters of decisions that registers report (R182) have no part in the decision bundle. -/
theorem DecisionIssues.of_counters {s t : State} {e lpi : Nat} {bs : List Byte} {x : Engine} {last : Nat × Nat × Nat}
    {refused : Nat} (counters : x = { s.eng e with pntLast := last, pntRefused := refused })
    (h : DecisionIssues (s.setEng e x) t e lpi bs) : DecisionIssues s t e lpi bs := by
  obtain ⟨mem, regs, others, opened, resume, decided, pc, pent, reruns, guards, stores⟩ := h
  rw [State.pntImage_setEng (by rw [counters])] at stores
  rw [State.eng_setEng_same] at pc pent reruns guards stores
  subst counters
  exact ⟨mem, regs, fun f other => (others f other).trans (s.eng_setEng_other other _), opened, resume, decided, pc, pent, reruns,
    guards, stores⟩

/-- The alternate body of block `b` has begun in engine `e`, to return to the decision bundle with the record `bs` (R175);
memory, the set-up registers and the other engines stand as in `s`. -/
structure AlternateBegins (s t : State) (e lpi : Nat) (b : LayerBlk) (bs : List Byte) : Prop where
  mem : t.mem = s.mem
  regs : t.regs = s.regs
  others : ∀ f, f ≠ e → t.eng f = s.eng f
  pent : (t.eng e).pent = true
  reruns : (t.eng e).reruns = (s.eng e).reruns + 1
  pc : (t.eng e).ctl.pc = (s.altBody e b.alt).1
  altRet : (t.eng e).ctl.altRet = some (s.eng e).ctl.pc
  hold : (t.eng e).ctl.hold = 2
  stores : (t.eng e).stores = (s.eng e).stores
  resume : (t.eng e).ctl.resume = some (lpi, bs)

section
variable {s : State} {e lpi : Nat} {b : LayerBlk} {d : Decision} {bs : List Byte}
  (outcome : d = decision (effMode (s.eng e).gmode b.mmode) b ((s.eng e).monitor lpi) (s.eng e).reruns
    (min (s.pntImage e).2 (bits (s.eng e).pntCtl 15 8)) (s.eng e).elapsedNow)
  (record : bs = pntRecord d (testBits (effMode (s.eng e).gmode b.mmode) b ((s.eng e).monitor lpi)) ((s.eng e).monitor lpi))
include outcome record

theorem State.decideBy_begins (rerun : d = .rerun) (clean : s.eccClean = true)
    (slice : s.altEntry e b.alt < 0x54000000) (admits : s.regionAdmits .gallery false (s.altEntry e b.alt) 32 = true) :
    AlternateBegins s (s.decideBy e lpi b) e lpi b bs := by
  subst record
  rw [rerun] at outcome ⊢
  unfold State.decideBy
  simp only [← outcome, if_true, State.ownRead_clean clean admits slice]
  refine ⟨rfl, rfl, fun f other => s.eng_setEng_other other _, ?_, ?_, ?_, ?_, ?_, ?_, ?_⟩ <;> rw [State.eng_setEng_same]
  all_goals rfl

theorem State.decideBy_issues (stands : d ≠ .rerun) (closed : (s.eng e).opened = false) :
    DecisionIssues s (s.decideBy e lpi b) e lpi bs := by
  subst record
  have issued : ∃ last refused, s.decideBy e lpi b =
      (s.setEng e { s.eng e with pntLast := last, pntRefused := refused }).issueDecision e lpi
        (pntRecord d (testBits (effMode (s.eng e).gmode b.mmode) b ((s.eng e).monitor lpi)) ((s.eng e).monitor lpi)) := by
    unfold State.decideBy
    simp only [← outcome, if_neg stands]
    cases d with
    | rerun => exact absurd rfl stands
    | fits | refusedCount | refusedDeadline | countOnly => exact ⟨_, _, rfl⟩
  obtain ⟨last, refused, issued⟩ := issued
  rw [issued]
  refine (State.issueDecision_issues ?_ lpi _).of_counters rfl
  rw [State.eng_setEng_same]
  exact closed

end

/-! ### The commands -/

theorem State.layerSec_of_decisionDue {s : State} {e : Nat} {p : Nat × LayerBlk} (due : s.decisionDue e = some p) :
    ∃ l, s.layerSec e = some l := by
  cases sec : s.layerSec e with
  | some l => exact ⟨l, rfl⟩
  | none => simp [State.decisionDue, State.layers, sec] at due

theorem State.takeDecision_clean {s : State} {e lpi : Nat} {b c : LayerBlk} (due : s.decisionDue e = some (lpi, c))
    (clean : s.eccClean = true) (slice : s.blockAt e lpi < 0x54000000)
    (admits : s.regionAdmits .gallery false (s.blockAt e lpi) 128 = true) : s.takeDecision e lpi b = s.decideBy e lpi b := by
  obtain ⟨⟨p, n, k⟩, sec⟩ := State.layerSec_of_decisionDue due
  have place : s.blockAt e lpi = p + 64 + 128 * lpi := by rw [State.blockAt, State.layerSecD, sec]; rfl
  rw [place] at slice admits
  simp only [State.takeDecision, sec, State.ownRead_clean clean admits slice]

section
variable {h : Issue} {s u : State} {c : Bool} (reaches : advance h.ne.val h.dt s = (u, c))
  (run : (u.eng h.ne.val).run = .issuing)
include reaches run

/-- What the engine has met at the bundle wins (R175). -/
theorem execPentimentoDecision_boundary (met : (u.eng h.ne.val).stop = true ∨ (u.eng h.ne.val).late.isSome = true) :
    exec (.pentimentoDecision h) s = .next (u.boundary h.ne.val) := by
  change Host.Outcome.next _ = _
  simp only [reaches, run, met, and_self, if_true]

theorem execPentimentoDecision_decides {lpi : Nat} {b : LayerBlk} (arrives : c = true)
    (stop : (u.eng h.ne.val).stop = false) (late : (u.eng h.ne.val).late = none) (undecided : u.undecided h.ne.val = true)
    (resume : (u.eng h.ne.val).ctl.resume = none) (due : u.decisionDue h.ne.val = some (lpi, b)) :
    exec (.pentimentoDecision h) s = .next (u.takeDecision h.ne.val lpi b) := by
  change Host.Outcome.next _ = _
  simp [reaches, run, arrives, stop, late, undecided, resume, due]

end

theorem State.boundary_stopped {s : State} {e : Nat} (run : (s.eng e).run = .issuing) (late : (s.eng e).late = none)
    (stop : (s.eng e).stop = true) : s.boundary e = s.engStop e ⟨stAborted, 0, (s.eng e).ctl.pc, 0, 0⟩ false := by
  simp [State.boundary, run, late, stop]

theorem State.boundary_lateFault {s : State} {e : Nat} {f : FaultRec} (run : (s.eng e).run = .issuing)
    (late : (s.eng e).late = some f) : s.boundary e = s.engStop e f true := by
  simp [State.boundary, run, late]

section
variable {s v : State} {ne : Fin 6} {lpi : Nat} {bs : List Byte} {c : Bool}
  (resume : (s.eng ne.val).ctl.resume = some (lpi, bs)) (ends : toAltEnd ne.val (altLeft (s.eng ne.val)) s = (v, c))
include resume ends

theorem execDecisionBundleResume_within (within : c = false) :
    exec (.decisionBundleResume ne) s = .next (if (v.eng ne.val).run = .issuing then s else v) := by
  change Host.Outcome.next _ = _
  simp [resume, ends, within]

theorem execDecisionBundleResume_ended {u : State} (ended : c = true)
    (passes : advance ne.val (v.eng ne.val).ctl.hold v = (u, true)) (run : (u.eng ne.val).run = .issuing) :
    exec (.decisionBundleResume ne) s = .next (u.issueDecision ne.val lpi bs) := by
  change Host.Outcome.next _ = _
  simp [resume, ends, ended, bubbles, passes, run]

end

/-! ### The obligation -/

/-- Settles O13: the decision by the cases of its outcome, what wins over it by the cases of the bundle's boundary, and the
return by whether the alternate body has ended. -/
theorem pentimentoDecisions : Obligations.PentimentoDecisions := by
  refine ⟨fun h s u x lpi b d reaches eng run closed stop late undecided resume due clean slice admits alternate outcome => ?_,
    fun eff b m reruns cap elapsed trig rule => decision_iff (triggered_iff.trans rule.symm),
    fun h s u c reaches run => ⟨fun late stop => ?_, fun f late => ?_⟩,
    fun s v ne lpi bs c resume ends => ⟨execDecisionBundleResume_within resume ends,
      fun u x ended passes eng run closed => ?_⟩⟩
  · subst eng
    refine ⟨u.decideBy h.ne.val lpi b, ?_, ?_⟩
    · rw [execPentimentoDecision_decides reaches run rfl stop late undecided resume due,
        State.takeDecision_clean due clean slice admits]
    by_cases rerun : d = .rerun
    · obtain ⟨altSlice, altAdmits⟩ := alternate rerun
      obtain ⟨mem, regs, others, pent, reruns, pc, altRet, hold, stores, resumes⟩ :=
        State.decideBy_begins outcome rfl rerun clean altSlice altAdmits
      exact ⟨mem, regs, others, fun _ => ⟨pent, reruns, pc, altRet, hold, stores, resumes⟩, (absurd rerun ·)⟩
    · obtain ⟨mem, regs, others, opened, _, decided, pc, pent, reruns, _, stores⟩ :=
        State.decideBy_issues outcome rfl rerun closed
      exact ⟨mem, regs, others, (absurd · rerun), fun _ => ⟨pent, reruns, pc, decided, opened, stores⟩⟩
  · rw [execPentimentoDecision_boundary reaches run (.inl stop), State.boundary_stopped run late stop]
    rfl
  · rw [execPentimentoDecision_boundary reaches run (.inr (by simp [late])), State.boundary_lateFault run late]
  · subst eng
    obtain ⟨mem, regs, others, _, resumed, decided, pc, _, _, guards, stores⟩ := State.issueDecision_issues closed lpi bs
    exact ⟨_, execDecisionBundleResume_ended resume ends ended passes run, mem, regs, others, resumed, decided, pc, guards, stores⟩

end Sys2Proof.Machine

/-! SUPPORT. WINDOW commands of a context whose range register of R286 stands where a window's control does (R191, R264). -/
namespace Sys2Proof.Machine

open Sys2Proof

-- one proof after the other: a thread for each would need too much memory
set_option Elab.async false

/-! ### A context whose fence range stands where GS_WIN_CTL does

`Obligations.DispatchAndCommands` and `Obligations.WindowsAndAccess` bound the context of their command by nothing, and the
model finds the range register of context `x` at 0x501000 + 8·x. For x = 3407873 that is 0x1F01008, the address of
GS_WIN_CTL of window 0 of slice 0: a window that opens or closes changes the BASE of the range, and the record of the
command that did it names another fence than the command had to signal. -/

/-- The number of the context. -/
def windowCtx : Nat := 3407873

/-- A WINDOW command on window 0 of slice 0 that signals fence 0 of its context with 7: `op` is 1 for an open, 2 for a
close; the range is the first 64 KiB of the slice. -/
def strayWindow (op : Nat) (phase : CmdPhase) : Cmd :=
  { sq := 0, seq := 7, rseq := 7, ctx := windowCtx, sync := [⟨0, 1, 0, 7⟩], phase := phase, pins := [], pre := none
    desc := [leBytes 18 7, leBytes 1 op, leBytes 1 3, leBytes 2 0, leBytes 42 1].flatten }

/-- The device with one fence for the context and the window in a state, before the command runs or ends. -/
def strayWindowState (state : Nat) (c : Cmd) : State :=
  { State.reset.rset (.gsWinCtl 0 0) (2 ^ 32 + state * 2 ^ 8) with cmds := [c] }

/-- A command whose only record carries other SIGNAL entries than the command had does not complete as R265 says. -/
theorem not_completes_of_other_signals {u t : State} {c : Cmd} {o : Host.Outcome State Fault Refusal} {l : List (Nat × Nat)}
    (next : o = .next t) (left : signalsLeft o = some [l]) (none_waits : u.commitQ = []) (runs : u.fatal = false)
    (other : u.cmdSignals c ≠ l) : ¬ u.completes t c 0 0 := by
  rintro ⟨⟨r, m, queue, -, -, -, -, -, -, -, -, -, signals⟩, -⟩
  subst next
  have all : t.commitQ.map (·.signals) = [l] := Option.some.inj left
  rw [queue, none_waits] at all
  have first : r.signals = l := (List.cons.inj all).1
  rw [signals, if_pos ⟨runs, rfl⟩] at first
  exact other first

/-! ### A WINDOW command that opens -/

def strayOpen : Cmd := strayWindow 1 .dispatched

theorem strayOpen_fields : fieldAt strayOpen.desc 16 1 = 0 ∧ fieldAt strayOpen.desc 17 1 = 0 ∧
    fieldAt strayOpen.desc 18 1 = 1 := by decide +kernel

theorem strayOpen_ready : (strayWindowState 0 strayOpen).ready? (0 : Fin 1024).val (7 : W32).toNat 7 = some strayOpen := by
  decide +kernel

theorem strayOpen_admitted : (strayWindowState 0 strayOpen).winCmdRefused strayOpen.desc = false := by decide +kernel

/-- The command has fence 0 to signal, and its record names fence 268: bits 8, 3 and 2 are the state and the
rights that the window took. -/
theorem strayOpen_signals : (strayWindowState 0 strayOpen).cmdSignals strayOpen = [(0, 7)] ∧
    signalsLeft (exec (.window 0 7) (strayWindowState 0 strayOpen)) = some [[(268, 7)]] := by decide +kernel

/-- Refutes O17: of a context without a range register, the window that the command opens stands where its fence range
does, and the record of the WINDOW command names another fence. -/
theorem not_dispatchAndCommands : ¬ Obligations.DispatchAndCommands := by
  intro holds
  obtain ⟨slice, window, opens⟩ := strayOpen_fields
  obtain ⟨before, after⟩ := strayOpen_signals
  obtain ⟨-, runs⟩ := holds
  obtain ⟨-, open_, -⟩ := runs (strayWindowState 0 strayOpen) 0 7 strayOpen
  obtain ⟨t, next, completes, -⟩ :=
    open_ 0 0 rfl strayOpen_ready slice.symm window.symm (by decide) (by decide) opens strayOpen_admitted
  exact not_completes_of_other_signals next after rfl rfl (by rw [before]; decide) completes

/-! ### A window that has closed -/

def strayClose : Cmd := strayWindow 2 .running

theorem strayClose_closes : (strayWindowState 2 strayClose).cmds.filter (Cmd.closes 0 0) = [strayClose] ∧
    (strayWindowState 2 strayClose).winState 0 0 = 2 := by decide +kernel

/-- The command has fence 512 to signal, and its record names fence 0: bit 9 is the state that the window left. -/
theorem strayClose_signals : (strayWindowState 2 strayClose).cmdSignals strayClose = [(512, 7)] ∧
    signalsLeft (exec (.windowClosed 0 0) (strayWindowState 2 strayClose)) = some [[(0, 7)]] := by decide +kernel

/-- Refutes O31: of a context without a range register, the window that closes stands where the fence range of the WINDOW
command that waits for it does, and the command's record names another fence. -/
theorem not_windowsAndAccess : ¬ Obligations.WindowsAndAccess := by
  intro holds
  obtain ⟨waits, closing⟩ := strayClose_closes
  obtain ⟨before, after⟩ := strayClose_signals
  obtain ⟨-, -, closed, -⟩ := holds (strayWindowState 2 strayClose)
  obtain ⟨t, next, completes, -⟩ := closed 0 0 strayClose closing waits
  exact not_completes_of_other_signals next after rfl rfl (by rw [before]; decide) completes

end Sys2Proof.Machine

/-! SUPPORT. Upkeep of the gesso: write-backs, patrol reads, self-test and error injection (R196, R199, R203 to R205). -/
namespace Sys2Proof.Machine

open Sys2Proof

-- one proof after the other: a thread for each would need too much memory
set_option Elab.async false

/-! ### Write-backs (R196) -/

theorem execEccWriteBack_oldest {s : State} {r : Fin 8} {a : Nat} {l : List Nat}
    (queue : mget (fun _ => []) s.gesso.wbq r.val = a :: l) : exec (.eccWriteBack r) s =
      .next (State.writeBack { s with gesso := { s.gesso with wbq := minsert r.val l s.gesso.wbq } } r.val a) := by
  change Host.Outcome.next (match mget (fun _ => []) s.gesso.wbq r.val with
    | [] => s
    | w :: t => State.writeBack { s with gesso := { s.gesso with wbq := minsert r.val t s.gesso.wbq } } r.val w) = _
  rw [queue]

theorem execEccWriteBack_empty {s : State} {r : Fin 8} (queue : mget (fun _ => []) s.gesso.wbq r.val = []) :
    exec (.eccWriteBack r) s = .next s := by
  change Host.Outcome.next (match mget (fun _ => []) s.gesso.wbq r.val with
    | [] => s
    | w :: t => _) = _
  rw [queue]

/-- A queued word of the SLC is written back in its line. -/
theorem State.writeBack_slc {s : State} {w slot : Nat} {x : SlcLine} (place : s.slcSlot (w / 4) = some slot)
    (line : mfind s.slc.lines slot = some x) (mark : x.mark (w % 4) = 1) :
    s.writeBack 6 w = { s with slc := { s.slc with lines := minsert slot (x.setMark (w % 4) 0) s.slc.lines } } := by
  simp [State.writeBack, State.modLine, place, line, mark]

/-! ### Patrol reads where no word is in error (R199) -/

/-- No word needs the error-correction path: what that says of the parts of the state. -/
theorem State.eccClean_iff {s : State} : s.eccClean = true ↔ s.ecc = [] ∧ s.gesso.wbq = [] ∧ s.fget .gsEccInj 8 8 = 0 ∧
    s.fget .dmcEccInj 8 8 = 0 ∧ (∀ p ∈ s.ddr.chans, p.2.state ≠ 3 ∧ p.2.wback = []) ∧
    ∀ p ∈ s.slc.lines, p.2.poison = false ∧ p.2.marks = [0, 0, 0, 0] := by
  simp only [State.eccClean, Bool.and_eq_true, List.isEmpty_iff, beq_iff_eq, Bool.not_eq_true', List.any_eq_false,
    Bool.or_eq_true, not_or, List.all_eq_true, Bool.not_eq_false, and_assoc, ne_eq]

theorem mem_of_mfind {α : Type} {m : SMap α} {k : Nat} {v : α} (h : mfind m k = some v) : (k, v) ∈ m := by
  induction m with
  | nil => cases h
  | cons p m ih =>
    obtain ⟨j, u⟩ := p
    by_cases same : j = k
    · simp_all [mfind]
    · exact List.mem_cons_of_mem _ (ih (by simpa [mfind, same] using h))

theorem State.mark_clean {s : State} (clean : s.eccClean = true) {slot : Nat} {x : SlcLine}
    (line : mfind s.slc.lines slot = some x) (k : Nat) : x.mark k = 0 := by
  obtain ⟨-, -, -, -, -, lines⟩ := State.eccClean_iff.1 clean
  obtain ⟨-, marks⟩ := lines _ (mem_of_mfind line)
  rw [SlcLine.mark, marks]
  match k with
  | 0 | 1 | 2 | 3 | k + 4 => rfl

theorem State.slcWord_clean {s : State} (clean : s.eccClean = true) (src w : Nat) : s.slcWord src w = (true, s) := by
  unfold State.slcWord
  split
  · rfl
  split
  · rfl
  next x line => simp only [State.mark_clean clean line]

theorem State.slcWords_clean {s : State} (clean : s.eccClean = true) (src : Nat) (l : List Nat) :
    s.slcWords src l = (true, s) := by
  induction l with
  | nil => rfl
  | cons w l ih => simp only [State.slcWords, State.slcWord_clean clean, ih, Bool.and_self]

theorem State.slcScrub_clean {s : State} (clean : s.eccClean = true) (i : Nat) : s.slcScrub i = s := by
  refine List.foldlRecOn (motive := fun t => t = s) s.slc.lines _ rfl fun t same p _ => ?_
  subst same
  simp only [State.slcHalf, State.slcWords_clean clean, ite_self]

/-- The scrubber of region `r` a line further. -/
def State.scrubbed (s : State) (r : Nat) : State :=
  { s with gesso := { s.gesso with scrub := minsert r ((mget (fun _ => 0) s.gesso.scrub r + 1) % regionLines r) s.gesso.scrub } }

theorem State.scrubOne_clean {s : State} (clean : s.eccClean = true) (r : Nat) :
    s.scrubOne r = if s.regionPowered r then s.scrubbed r else s := by
  unfold State.scrubOne
  split
  · simp only [State.eccReads_clean clean, State.slcScrub_clean clean, ite_self]
    rfl
  · rfl

/-- A patrol of different regions: each powered one is a line further. -/
theorem State.scrubs_clean {s : State} (clean : s.eccClean = true) {l : List Nat} (once : l.Nodup) :
    l.foldl State.scrubOne s = { s with gesso := { s.gesso with scrub := (l.foldl State.scrubOne s).gesso.scrub } } ∧
      ∀ r, mget (fun _ => 0) (l.foldl State.scrubOne s).gesso.scrub r =
        if r ∈ l ∧ s.regionPowered r = true then (mget (fun _ => 0) s.gesso.scrub r + 1) % regionLines r
        else mget (fun _ => 0) s.gesso.scrub r := by
  induction l generalizing s with
  | nil => exact ⟨rfl, fun r => by simp⟩
  | cons a l ih =>
    obtain ⟨fresh, once⟩ := List.nodup_cons.1 once
    rw [List.foldl_cons, State.scrubOne_clean clean]
    split
    · next powered =>
      obtain ⟨frame, at_⟩ := ih (s := s.scrubbed a) clean once
      refine ⟨frame, fun r => ?_⟩
      rw [at_ r]
      by_cases same : r = a
      · subst same
        rw [if_neg fun h => fresh h.1, if_pos ⟨List.mem_cons_self, powered⟩]
        exact mget_minsert_same ..
      · have other : mget (fun _ => 0) (s.scrubbed a).gesso.scrub r = mget (fun _ => 0) s.gesso.scrub r :=
          mget_minsert_other _ same ..
        simp only [other, List.mem_cons, same, false_or]
        rfl
    · next off =>
      obtain ⟨frame, at_⟩ := ih clean once
      refine ⟨frame, fun r => ?_⟩
      rw [at_ r]
      by_cases same : r = a
      · subst same
        rw [if_neg fun h => fresh h.1, if_neg fun h => off h.2]
      · simp only [List.mem_cons, same, false_or]

theorem execGessoPatrolScrub_clean {s : State} (on : s.fget .gsScrubCtl 15 0 ≠ 0) (clean : s.eccClean = true) :
    ∃ t, exec .gessoPatrolScrub s = .next t ∧ t = { s with gesso := t.gesso } ∧
      t.gesso = { s.gesso with scrub := t.gesso.scrub } ∧
      ∀ r, r < 8 → mget (fun _ => 0) t.gesso.scrub r =
        if s.regionPowered r then (mget (fun _ => 0) s.gesso.scrub r + 1) % regionLines r
        else mget (fun _ => 0) s.gesso.scrub r := by
  obtain ⟨frame, at_⟩ := State.scrubs_clean clean (List.nodup_range (n := 8))
  refine ⟨_, congrArg Host.Outcome.next (if_neg on), by rw [frame], by rw [frame], fun r low => ?_⟩
  rw [at_ r]
  simp only [List.mem_range, low, true_and]

/-! ### Self-test (R203, R204) -/

theorem mem_selRegions {sel r : Nat} : r ∈ selRegions sel ↔ r < 8 ∧ sel / 2 ^ r % 2 = 1 := by
  simp [selRegions]

theorem selRegions_nodup (sel : Nat) : (selRegions sel).Nodup := List.nodup_range.filter _

theorem any_congr_of_mem {α : Type} {l : List α} {p q : α → Bool} (same : ∀ a ∈ l, p a = q a) : l.any p = l.any q := by
  rw [Bool.eq_iff_iff, List.any_eq_true, List.any_eq_true]
  exact exists_congr fun a => and_congr_right fun among => by rw [same a among]

/-- A start depends on the windows of the slices and on DMC_CFG, not on the registers of the test. -/
theorem State.bistRefused_fset (s : State) (sel v h l : Nat) : (s.fset .gsBistCtl h l v).bistRefused sel =
    s.bistRefused sel := by
  unfold State.bistRefused
  refine any_congr_of_mem fun r hr => ?_
  obtain ⟨low, -⟩ := mem_selRegions.1 hr
  have cfg : (s.fset .gsBistCtl h l v).fget .dmcCfg 31 31 = s.fget .dmcCfg 31 31 :=
    congrArg (bits · 31 31) (s.rget_rset_other (by decide) _)
  have window : ∀ w ∈ List.range 16,
      ((s.fset .gsBistCtl h l v).winState r w != 0) = (s.winState r w != 0) := fun w hw => by
    have apart : (Reg.gsWinCtl r w).addr ≠ Reg.gsBistCtl.addr := by
      have := List.mem_range.1 hw
      simp only [Reg.addr]
      omega
    exact congrArg (bits · 9 8 != 0) (s.rget_rset_other apart _)
  rw [cfg, any_congr_of_mem window]
  rfl

theorem State.eng_foldl_modEng {f : Engine → Engine} (again : ∀ x, f (f x) = f x) (s : State) (l : List Nat) (e : Nat) :
    (l.foldl (fun t e => t.modEng e f) s).eng e = if e ∈ l then f (s.eng e) else s.eng e := by
  induction l generalizing s with
  | nil => rfl
  | cons a l ih =>
    rw [List.foldl_cons, ih, State.modEng, State.eng_setEng]
    by_cases same : e = a
    · subst same
      simp [again]
    · simp [same]

theorem State.eng_bistClock (s : State) (sel : Nat) {e : Nat} (he : e < 6) :
    (s.bistClock sel).eng e = if sel / 2 ^ e % 2 = 1 then { s.eng e with curN := 32 } else s.eng e := by
  have low : e < 8 := by omega
  rw [State.bistClock, State.eng_foldl_modEng (f := fun x => { x with curN := 32 }) fun _ => rfl]
  simp [mem_selRegions, he, low]

theorem State.bistClock_frame (s : State) (sel : Nat) : s.bistClock sel = { s with engines := (s.bistClock sel).engines } := by
  refine List.foldlRecOn (motive := fun t : State => t = { s with engines := t.engines }) _ _ rfl fun t frame e _ => ?_
  rw [frame]
  rfl

/-- `s` with SEL taken and the test of the selection running. -/
def State.testing (s : State) (sel : Nat) : State :=
  let u := s.fset .gsBistCtl 7 0 sel
  State.bistClock { u with gesso := { s.gesso with bist := some sel, bistAt := s.clock.ticks } } sel

theorem State.testing_frame (s : State) (sel : Nat) : s.testing sel = { s with
    regs := (s.fset .gsBistCtl 7 0 sel).regs, gesso := { s.gesso with bist := some sel, bistAt := s.clock.ticks }
    engines := (s.testing sel).engines } := by
  rw [State.testing, State.bistClock_frame]
  rfl

theorem State.rget_testing (s : State) (sel : Nat) (q : Reg) :
    (s.testing sel).rget q = (s.fset .gsBistCtl 7 0 sel).rget q := by
  rw [State.testing_frame]
  rfl

theorem State.bistStart_fit {s : State} {sel : Nat} (rests : s.gesso.bist = none) (fit : s.bistRefused sel = false) :
    s.bistStart sel = (s.testing sel).rset .gsBistStatus ((s.fget .gsBistStatus 17 17) * 2 ^ 17 + 2 ^ 16) := by
  let u := s.fset .gsBistCtl 7 0 sel
  have idle : u.gesso.bist = none := rests
  have accepted : u.bistRefused sel = false := (s.bistRefused_fset ..).trans fit
  have err : u.fget .gsBistStatus 17 17 = s.fget .gsBistStatus 17 17 :=
    congrArg (bits · 17 17) (s.rget_rset_other (by decide) _)
  change (if u.gesso.bist.isSome then u else if u.bistRefused sel then _ else
    (s.testing sel).rset .gsBistStatus (u.fget .gsBistStatus 17 17 * 2 ^ 17 + 2 ^ 16)) = _
  rw [idle, accepted, err]
  rfl

/-- The test begins: BUSY is set, and the slices that it selects run at N = 32. -/
theorem execBistStart_starts {s : State} {w : World} {sel : Byte} (admits : s.admits w .gsBistCtl true)
    (rests : s.gesso.bist = none) (fit : s.bistRefused sel.toNat = false) :
    ∃ t, exec (.bistStart w sel) s = .next t ∧ t = { s with regs := t.regs, gesso := t.gesso, engines := t.engines } ∧
      t.gesso = { s.gesso with bist := some sel.toNat, bistAt := s.clock.ticks } ∧
      s.regsBut t [.gsBistCtl, .gsBistStatus] ∧ t.fget .gsBistCtl 7 0 = sel.toNat ∧ t.fget .gsBistStatus 16 16 = 1 ∧
      ∀ e, e < 6 → t.eng e = if sel.toNat / 2 ^ e % 2 = 1 then { s.eng e with curN := 32 } else s.eng e := by
  have runs := (State.regOp_admitted admits fun s => s.bistStart sel.toNat).trans (State.bistStart_fit rests fit)
  have frame := s.testing_frame sel.toNat
  refine ⟨_, congrArg Host.Outcome.next runs, ?_, ?_, fun q hq => ?_, ?_, ?_, fun e he => ?_⟩
  · generalize s.fget .gsBistStatus 17 17 * 2 ^ 17 + 2 ^ 16 = v
    rw [frame]
    rfl
  · rw [State.rset_gesso, frame]
  · rw [State.rget_rset_other _ (hq _ (by simp)), State.rget_testing, State.fset_eq, State.rget_rset_other _ (hq _ (by simp))]
  · have low : sel.toNat < 2 ^ 8 := sel.isLt
    have taken : (s.fset .gsBistCtl 7 0 sel.toNat).fget .gsBistCtl 7 0 = sel.toNat % 2 ^ 8 :=
      s.fget_fset_same .gsBistCtl (by omega) (by omega) _
    rw [State.fget, State.rget_rset_other _ (by decide), State.rget_testing]
    exact taken.trans (Nat.mod_eq_of_lt low)
  · have flag : s.fget .gsBistStatus 17 17 < 2 := bits_lt _ 17 17
    rw [State.fget, State.rget_rset_same, bits, Nat.shiftRight_eq_div_pow]
    omega
  · rw [State.eng_rset, State.testing, State.eng_bistClock _ _ he]
    rfl

theorem execBistStart_refused {s : State} {w : World} {sel : Byte} (admits : s.admits w .gsBistCtl true)
    (rests : s.gesso.bist = none) (unfit : s.bistRefused sel.toNat = true) :
    ∃ t, exec (.bistStart w sel) s = .next t ∧ s.onlyRegs t [.gsBistCtl, .gsBistStatus] ∧ t.fget .gsBistStatus 17 17 = 1 := by
  let u := s.fset .gsBistCtl 7 0 sel.toNat
  have err : exec (.bistStart w sel) s = .next (u.fset .gsBistStatus 17 17 1) := by
    refine congrArg Host.Outcome.next ((State.regOp_admitted admits _).trans ?_)
    have idle : u.gesso.bist = none := rests
    have refused : u.bistRefused sel.toNat = true := (s.bistRefused_fset ..).trans unfit
    change (if u.gesso.bist.isSome then u else if u.bistRefused sel.toNat then _ else _) = _
    rw [idle, refused]
    rfl
  exact ⟨_, err, State.onlyRegs_trans (State.onlyRegs_fset (by simp) ..) (State.onlyRegs_fset (by simp) ..),
    State.fget_fset_flag _ _ (by omega)⟩

theorem execBistStart_busy {s : State} {w : World} {sel : Byte} {old : Nat} (admits : s.admits w .gsBistCtl true)
    (busy : s.gesso.bist = some old) : ∃ t, exec (.bistStart w sel) s = .next t ∧ s.onlyRegs t [.gsBistCtl] := by
  refine ⟨s.fset .gsBistCtl 7 0 sel.toNat, congrArg Host.Outcome.next ((State.regOp_admitted admits _).trans ?_),
    State.onlyRegs_fset (by simp) ..⟩
  exact if_pos (Option.isSome_iff_exists.2 ⟨old, busy⟩)

/-- A region filled with zeros changes memory, its marks and write-backs, and the lines of the SLC. -/
theorem State.zeroRegion_frame (s : State) (r : Nat) : s.zeroRegion r = { s with
    mem := (s.zeroRegion r).mem, ecc := (s.zeroRegion r).ecc, slc := (s.zeroRegion r).slc
    gesso := { s.gesso with wbq := (s.zeroRegion r).gesso.wbq } } := by
  unfold State.zeroRegion
  split
  · rfl
  split
  · rfl
  · rfl

theorem State.zeroRegions_frame (s : State) (l : List Nat) : l.foldl State.zeroRegion s = { s with
    mem := (l.foldl State.zeroRegion s).mem, ecc := (l.foldl State.zeroRegion s).ecc, slc := (l.foldl State.zeroRegion s).slc
    gesso := { s.gesso with wbq := (l.foldl State.zeroRegion s).gesso.wbq } } := by
  refine List.foldlRecOn (motive := fun t : State => t = { s with
    mem := t.mem, ecc := t.ecc, slc := t.slc, gesso := { s.gesso with wbq := t.gesso.wbq } }) l _ rfl fun t frame r _ => ?_
  rw [t.zeroRegion_frame, frame]

/-- A byte that reads as zero does so after any region has been filled with zeros. -/
theorem State.byte_zeroRegion_zero {s : State} {x : Nat} (zero : s.byte x = 0) (r : Nat) : (s.zeroRegion r).byte x = 0 := by
  have fill (t : State) (same : t.mem = s.mem) (a n : Nat) : (t.zeroFill a n).byte x = 0 := by
    rw [State.byte_zeroFill, State.byte, same]
    split
    · rfl
    · exact zero
  unfold State.zeroRegion
  split
  · exact zero
  split
  · exact fill _ rfl ..
  · exact fill _ rfl ..

/-- Slices among the regions that are filled with zeros read as zero. -/
theorem State.byte_zeroRegions {l : List Nat} {e : Nat} (among : e ∈ l) (he : e < 6) (s : State) {x : Nat}
    (low : sliceBase e ≤ x) (high : x < sliceBase e + sliceSize) : (l.foldl State.zeroRegion s).byte x = 0 := by
  induction l generalizing s with
  | nil => cases among
  | cons a l ih =>
    rw [List.foldl_cons]
    rcases List.mem_cons.1 among with rfl | later
    · have zero : (s.zeroRegion e).byte x = 0 := ((s.zeroRegion_slice he).2 x).trans (if_pos ⟨low, high⟩)
      exact List.foldlRecOn (motive := fun t : State => t.byte x = 0) l _ zero fun t zero r _ =>
        State.byte_zeroRegion_zero zero r
    · exact ih later _

/-- GS_BIST_STATUS as a test leaves it: the failing regions, those that passed, ERR and PROGRESS. -/
def bistStatus (bad good err : Nat) : Nat := bad * 2 ^ 40 + good * 2 ^ 32 + err * 2 ^ 17 + 10000

theorem bits_bistStatus_low (bad good err : Nat) :
    bits (bistStatus bad good err % 2 ^ 64) 16 16 = 0 ∧ bits (bistStatus bad good err % 2 ^ 64) 13 0 = 10000 := by
  simp only [bistStatus, bits, Nat.shiftRight_eq_div_pow]
  omega

theorem bits_bistStatus_high {bad good err : Nat} (hb : bad < 256) (hg : good < 256) (flag : err < 2) :
    bits (bistStatus bad good err % 2 ^ 64) 47 40 = bad ∧ bits (bistStatus bad good err % 2 ^ 64) 39 32 = good := by
  simp only [bistStatus, bits, Nat.shiftRight_eq_div_pow]
  omega

/-- GS_BIST_FAIL for a first failure, with the number of failing banks. -/
def bistFailure (banks : Nat) (f : BistFail) : Nat :=
  banks % 65536 * 2 ^ 32 + f.region % 8 * 2 ^ 29 + f.bank % 512 * 2 ^ 20 + f.row % 8192

theorem bits_bistFailure (banks : Nat) (f : BistFail) :
    bits (bistFailure banks f % 2 ^ 64) 47 32 = banks % 65536 ∧ bits (bistFailure banks f % 2 ^ 64) 31 29 = f.region % 8 ∧
      bits (bistFailure banks f % 2 ^ 64) 28 20 = f.bank % 512 ∧ bits (bistFailure banks f % 2 ^ 64) 12 0 = f.row % 8192 := by
  simp only [bistFailure, bits, Nat.shiftRight_eq_div_pow]
  omega

/-- The failures that a test of a selection reports, and the regions that they name. -/
def bistFails (sel : Nat) (fails : List BistFail) : List BistFail := fails.filter fun f => (selRegions sel).contains f.region
def bistBad (sel : Nat) (fs : List BistFail) : Nat :=
  ((selRegions sel).filter fun r => fs.any fun f => f.region == r).foldl (fun m r => m + 2 ^ r) 0

theorem bistBad_nil (sel : Nat) : bistBad sel [] = 0 := by
  have none_ : (selRegions sel).filter (fun r => ([] : List BistFail).any fun f => f.region == r) = [] := by simp
  rw [bistBad, none_]
  rfl

theorem bistBad_one {sel : Nat} {f : BistFail} (tested : f.region ∈ selRegions sel) : bistBad sel [f] = 2 ^ f.region := by
  have only : (selRegions sel).filter (fun r => [f].any fun g => g.region == r) = [f.region] := by
    have same : (fun r => [f].any fun g => g.region == r) = (· == f.region) := by
      funext r
      simp [BEq.comm (a := r)]
    rw [same, List.filter_beq, List.count_eq_one_of_mem (selRegions_nodup sel) tested]
    rfl
  rw [bistBad, only]
  exact Nat.zero_add _

/-- GS_BIST_FAIL after a test with these failures. -/
def bistFailReg (fs : List BistFail) : Nat :=
  match fs with
  | [] => 0
  | f :: _ => bistFailure (fs.map fun g => (g.region, g.bank)).eraseDups.length f

/-- The end of a test: what it reports and what it leaves. -/
theorem State.bistEnd_eq (s : State) (sel : Nat) (fails : List BistFail) :
    s.bistEnd sel fails =
      (((selRegions sel).foldl State.zeroRegion { s with gesso := { s.gesso with bist := none } }).rset .gsBistStatus
        (bistStatus (bistBad sel (bistFails sel fails)) (sel - bistBad sel (bistFails sel fails))
          (s.fget .gsBistStatus 17 17))).rset .gsBistFail (bistFailReg (bistFails sel fails)) := by
  have err : ((selRegions sel).foldl State.zeroRegion { s with gesso := { s.gesso with bist := none } }).fget
      .gsBistStatus 17 17 = s.fget .gsBistStatus 17 17 := by
    rw [State.zeroRegions_frame]
    rfl
  rw [← err]
  rfl

/-- The test ends with its results in the registers and the regions that it tested zero. -/
theorem execBistDone_ends {s : State} {sel : Nat} (runs : s.gesso.bist = some sel) (fails : List BistFail) :
    exec (.bistDone fails) s = .next (s.bistEnd sel fails) ∧ (s.bistEnd sel fails).gesso.bist = none ∧
      (s.bistEnd sel fails).engines = s.engines ∧ s.regsBut (s.bistEnd sel fails) [.gsBistStatus, .gsBistFail] ∧
      ∀ e x, e < 6 → sel / 2 ^ e % 2 = 1 → sliceBase e ≤ x → x < sliceBase e + sliceSize →
        (s.bistEnd sel fails).byte x = 0 := by
  have frame := State.zeroRegions_frame { s with gesso := { s.gesso with bist := none } } (selRegions sel)
  refine ⟨?_, ?_, ?_, fun q hq => ?_, fun e x he tested low high => ?_⟩
  · change Host.Outcome.next (match s.gesso.bist with
      | none => s
      | some sel => s.bistEnd sel fails) = _
    rw [runs]
  · rw [State.bistEnd_eq, State.rset_gesso, State.rset_gesso, frame]
  · rw [State.bistEnd_eq, State.rset_engines, State.rset_engines, frame]
  · rw [State.bistEnd_eq, State.rget_rset_other _ (hq _ (by simp)), State.rget_rset_other _ (hq _ (by simp)), frame]
    rfl
  · rw [State.bistEnd_eq, State.byte_rset, State.byte_rset]
    exact State.byte_zeroRegions (mem_selRegions.2 ⟨by omega, tested⟩) he _ low high

theorem execBistDone_rests {s : State} (rests : s.gesso.bist = none) (fails : List BistFail) :
    exec (.bistDone fails) s = .next s := by
  change Host.Outcome.next (match s.gesso.bist with
    | none => s
    | some sel => s.bistEnd sel fails) = _
  rw [rests]

/-- What GS_BIST_STATUS and GS_BIST_FAIL hold at the end. -/
theorem State.rget_bistEnd (s : State) (sel : Nat) (fails : List BistFail) :
    (s.bistEnd sel fails).rget .gsBistStatus = bistStatus (bistBad sel (bistFails sel fails))
        (sel - bistBad sel (bistFails sel fails)) (s.fget .gsBistStatus 17 17) % 2 ^ 64 ∧
      (s.bistEnd sel fails).rget .gsBistFail = bistFailReg (bistFails sel fails) % 2 ^ 64 := by
  rw [State.bistEnd_eq]
  exact ⟨by rw [State.rget_rset_other _ (by decide), State.rget_rset_same], State.rget_rset_same ..⟩

theorem two_pow_le_of_bit {n k : Nat} (set : n / 2 ^ k % 2 = 1) : 2 ^ k ≤ n := by
  by_contra below
  rw [Nat.div_eq_of_lt (Nat.not_le.1 below)] at set
  cases set

theorem State.bistEnd_done (s : State) (sel : Nat) (fails : List BistFail) :
    (s.bistEnd sel fails).fget .gsBistStatus 16 16 = 0 ∧ (s.bistEnd sel fails).fget .gsBistStatus 13 0 = 10000 := by
  obtain ⟨status, -⟩ := s.rget_bistEnd sel fails
  rw [State.fget, State.fget, status]
  exact bits_bistStatus_low ..

/-- Without a failure every region has passed. -/
theorem State.bistEnd_passed (s : State) {sel : Nat} (low : sel < 256) :
    (s.bistEnd sel []).fget .gsBistStatus 39 32 = sel ∧ (s.bistEnd sel []).fget .gsBistStatus 47 40 = 0 ∧
      (s.bistEnd sel []).rget .gsBistFail = 0 := by
  obtain ⟨status, fail⟩ := s.rget_bistEnd sel []
  rw [show bistFails sel [] = [] from rfl, bistBad_nil] at status
  obtain ⟨bad, good⟩ := bits_bistStatus_high (bad := 0) (by omega) (show sel - 0 < 256 by omega)
    (bits_lt (s.rget .gsBistStatus) 17 17)
  rw [State.fget, State.fget, status]
  exact ⟨good, bad, fail.trans rfl⟩

/-- One failure in a region that was tested: that region has failed, the others have passed. -/
theorem State.bistEnd_failed (s : State) {sel : Nat} (low : sel < 256) {f : BistFail} (region : f.region < 8)
    (tested : sel / 2 ^ f.region % 2 = 1) :
    (s.bistEnd sel [f]).fget .gsBistStatus 39 32 = sel - 2 ^ f.region ∧
      (s.bistEnd sel [f]).fget .gsBistStatus 47 40 = 2 ^ f.region ∧ (s.bistEnd sel [f]).fget .gsBistFail 47 32 = 1 ∧
      (s.bistEnd sel [f]).fget .gsBistFail 31 29 = f.region ∧ (s.bistEnd sel [f]).fget .gsBistFail 28 20 = f.bank % 512 ∧
      (s.bistEnd sel [f]).fget .gsBistFail 12 0 = f.row % 8192 := by
  have among : f.region ∈ selRegions sel := mem_selRegions.2 ⟨region, tested⟩
  have counted : bistFails sel [f] = [f] := List.filter_eq_self.2 fun g hg => by
    rw [List.mem_singleton.1 hg]
    exact List.contains_iff_mem.2 among
  obtain ⟨status, fail⟩ := s.rget_bistEnd sel [f]
  rw [counted, bistBad_one among] at status
  rw [counted] at fail
  have within : 2 ^ f.region ≤ sel := two_pow_le_of_bit tested
  obtain ⟨bad, good⟩ := bits_bistStatus_high (Nat.lt_of_le_of_lt within low)
    (Nat.lt_of_le_of_lt (Nat.sub_le sel (2 ^ f.region)) low) (bits_lt (s.rget .gsBistStatus) 17 17)
  obtain ⟨banks, place, bank, row⟩ := bits_bistFailure 1 f
  rw [Nat.mod_eq_of_lt region] at place
  simp only [State.fget, status]
  rw [show (s.bistEnd sel [f]).rget .gsBistFail = bistFailure 1 f % 2 ^ 64 from fail]
  exact ⟨good, bad, banks, place, bank, row⟩

/-! ### Error injection (R205) -/

/-- A write of an injection register: its target from bit 4 up, MODE, and ARM where the write sets it. -/
def State.injWrite (s : State) (r : Reg) (h target mode : Nat) (arm : Bool) : State :=
  let u := (s.fset r h 4 target).fset r 1 0 mode
  if arm then u.fset r 8 8 1 else u

theorem State.injWrite_fields (s : State) (r : Reg) {h : Nat} (low : 4 ≤ h) (high : h < 8) (target mode : Nat) (arm : Bool) :
    s.onlyRegs (s.injWrite r h target mode arm) [r] ∧
      (s.injWrite r h target mode arm).fget r h 4 = target % 2 ^ (h + 1 - 4) ∧
      (s.injWrite r h target mode arm).fget r 1 0 = mode % 4 ∧
      (s.injWrite r h target mode arm).fget r 8 8 = if arm then 1 else s.fget r 8 8 := by
  let u := (s.fset r h 4 target).fset r 1 0 mode
  have only : s.onlyRegs u [r] := State.onlyRegs_trans (State.onlyRegs_fset (by simp) ..) (State.onlyRegs_fset (by simp) ..)
  have at_ : u.fget r h 4 = target % 2 ^ (h + 1 - 4) := by
    rw [State.fget_fset_apart _ _ (by omega) (by omega) (by omega), State.fget_fset_same _ _ low (by omega)]
  have set : u.fget r 1 0 = mode % 4 := State.fget_fset_same _ _ (by omega) (by omega) _
  cases arm with
  | false =>
    refine ⟨only, at_, set, ?_⟩
    exact (State.fget_fset_apart _ _ (by omega) (by omega) (by omega) _).trans
      (State.fget_fset_apart _ _ low (by omega) (by omega) _)
  | true =>
    refine ⟨State.onlyRegs_trans only (State.onlyRegs_fset (by simp) ..), ?_, ?_, State.fget_fset_flag _ _ (by omega)⟩
    · exact (State.fget_fset_apart _ _ (by omega) (by omega) (by omega) _).trans at_
    · exact (State.fget_fset_apart _ _ (by omega) (by omega) (by omega) _).trans set

theorem toNat_bne_three (m : BitVec 2) : (true && m.toNat != 3) = !decide (m = 3) := by
  rw [Bool.true_and, bne, Bool.not_inj_iff, Bool.eq_iff_iff, beq_iff_eq, decide_eq_true_iff]
  exact ⟨fun same => BitVec.eq_of_toNat_eq same, fun same => by rw [same]; rfl⟩

/-- An injection armed by a command: MODE 3 leaves ARM. -/
theorem State.injWrite_armed (s : State) (r : Reg) {h : Nat} (low : 4 ≤ h) (high : h < 8) {target : Nat}
    (fits : target < 2 ^ (h + 1 - 4)) (m : BitVec 2) :
    let t := s.injWrite r h target m.toNat !decide (m = 3)
    s.onlyRegs t [r] ∧ t.fget r h 4 = target ∧ t.fget r 1 0 = m.toNat ∧ t.fget r 8 8 = if m = 3 then s.fget r 8 8 else 1 := by
  obtain ⟨only, place, mode, armed⟩ := s.injWrite_fields r low high target m.toNat !decide (m = 3)
  refine ⟨only, place.trans (Nat.mod_eq_of_lt fits), mode.trans (Nat.mod_eq_of_lt m.isLt), armed.trans ?_⟩
  by_cases three : m = 3
  · rw [if_pos three, decide_eq_true three]
    rfl
  · rw [if_neg three, decide_eq_false three]
    rfl

/-- From the Studio world the injection is armed, unless MODE is 3. -/
theorem execGsEccInjArm_studio (s : State) (r : Fin 8) (m : BitVec 2) :
    ∃ t, exec (.gsEccInjArm .studio r m) s = .next t ∧ s.onlyRegs t [.gsEccInj] ∧ t.fget .gsEccInj 6 4 = r.val ∧
      t.fget .gsEccInj 1 0 = m.toNat ∧ t.fget .gsEccInj 8 8 = if m = 3 then s.fget .gsEccInj 8 8 else 1 := by
  have runs : exec (.gsEccInjArm .studio r m) s = .next (s.injWrite .gsEccInj 6 r.val m.toNat !decide (m = 3)) := by
    rw [← toNat_bne_three]
    rfl
  exact ⟨_, runs, s.injWrite_armed .gsEccInj (by omega) (by omega) r.isLt m⟩

/-- From the Gallery world it is discarded and counted (R405). -/
theorem execGsEccInjArm_gallery (s : State) (r : Fin 8) (m : BitVec 2) :
    exec (.gsEccInjArm .gallery r m) s = .next (s.violation Reg.gsEccInj.addr true) := rfl

end Sys2Proof.Machine

/-! SUPPORT. A demand read of a DDR5 line where no word is in error, and the stream trackers that it trains (R200, R231). -/
namespace Sys2Proof.Machine

open Sys2Proof

-- one proof after the other: a thread for each would need too much memory
set_option Elab.async false

/-! ### Channels where no word is in error -/

section
variable {s : State} (clean : s.eccClean = true)
include clean

theorem State.ddrFailed_clean (d : Nat) : s.ddrFailed d = false := by
  obtain ⟨-, -, -, -, chans, -⟩ := State.eccClean_iff.1 clean
  have none_failed : (s.ddr.chans.any fun p => p.2.state == 3) = false := by
    simpa using fun c x among => (chans (c, x) among).1
  rw [State.ddrFailed, none_failed]
  rfl

theorem State.ddrWord_clean (src d : Nat) : s.ddrWord src d 0 false = (true, s) := by
  obtain ⟨marks, -⟩ := State.eccClean_iff.1 clean
  simp [State.ddrWord, State.ddrDecode, marks, mget, poisonMark]

theorem State.ddrFetch_clean (d : Nat) : s.ddrFetch d = (true, s) := by
  obtain ⟨marks, -⟩ := State.eccClean_iff.1 clean
  have sound : s.ddrPoisoned d ⟨0, 0, false⟩ = false := by simp [State.ddrPoisoned, marks, mget, poisonMark]
  simp only [State.ddrFetch, State.ddrFailed_clean clean, State.ddrLine, sound, State.ddrWord_clean clean, Bool.and_self,
    Bool.false_eq_true, if_false, if_true]

theorem State.wback_clean (c : Nat) : (s.dmc c).wback = [] := by
  obtain ⟨-, -, -, -, chans, -⟩ := State.eccClean_iff.1 clean
  have among (m : SMap Dmc) (empty : ∀ p ∈ m, p.2.wback = []) : (mget (fun _ => ({} : Dmc)) m c).wback = [] := by
    induction m with
    | nil => rfl
    | cons p m ih =>
      obtain ⟨j, x⟩ := p
      by_cases same : j = c
      · simpa [mget, same] using empty (j, x) List.mem_cons_self
      · simpa [mget, same] using ih fun p hp => empty p (List.mem_cons_of_mem _ hp)
  exact among _ fun p hp => (chans p hp).2

/-- A line written to its channel: no mark, no write-back and no injection is there to change. -/
theorem State.ddrStore_clean (d : Nat) : s.ddrStore d false = s := by
  obtain ⟨marks, -, -, unarmed, -, -⟩ := State.eccClean_iff.1 clean
  have waits : s.noWback d = s := by simp [State.noWback, State.wback_clean clean]
  have inject (c : Nat) : s.ddrInject c = (0, s) := by simp [State.ddrInject, unarmed]
  simp only [State.ddrStore, State.ddrFailed_clean clean, waits, inject, marks, merase, Bool.false_eq_true, if_false, if_true]
  rw [← marks]

theorem State.gsInject_clean (r : Nat) : s.gsInject r = (0, s) := by
  obtain ⟨-, -, unarmed, -⟩ := State.eccClean_iff.1 clean
  simp [State.gsInject, unarmed]

/-! ### Lines of the SLC (R200) -/

/-- A line that leaves its place leaves the others, and the trackers. -/
theorem State.slcEvict_clean (slot : Nat) : ∃ c : Slc, s.slcEvict slot = { s with slc := c } ∧
    c.trackers = s.slc.trackers ∧ ∀ p ∈ c.lines, p ∈ s.slc.lines := by
  obtain ⟨-, queues, -, -, -, lines⟩ := State.eccClean_iff.1 clean
  unfold State.slcEvict
  split
  · exact ⟨s.slc, rfl, rfl, fun _ hp => hp⟩
  next x line =>
  obtain ⟨sound, marks⟩ : x.poison = false ∧ x.marks = [0, 0, 0, 0] := lines _ (mem_of_mfind line)
  have poison : (x.poison || x.marks.any fun m => decide (2 ≤ m)) = false := by simp [sound, marks]
  have words : (List.range 4).foldl (fun (t : State) k =>
      if x.mark k = 1 then t.ceCount 6 2 (x.addr * 4 + k)
      else if 2 ≤ x.mark k then t.uncorrected 6 2 (x.addr * 4 + k) else t) s = s :=
    List.foldlRecOn (motive := fun t => t = s) _ _ rfl fun t same k _ => by
      rw [State.mark_clean clean line, if_neg (by omega), if_neg (by omega), same]
  refine ⟨{ s.slc with lines := merase slot s.slc.lines, fetched := s.slc.fetched.filter (· ≠ x.addr) }, ?_, rfl,
    fun p hp => merase_mem hp⟩
  simp only [words, poison, State.ddrStore_clean clean, ite_self, queues, mget, List.isEmpty_nil, if_true]

end

theorem plruVictim_lt (b : Nat) : plruVictim b < 16 := by
  unfold plruVictim
  dsimp only
  omega

/-- The place that a line takes is a way of its set. -/
theorem State.slcVictim_way (s : State) (line : Nat) : ∃ w, w < 16 ∧ s.slcVictim line = s.slcSet line * 16 + w := by
  refine ⟨_, ?_, rfl⟩
  cases found : (List.range 16).find? fun w => (mfind s.slc.lines (s.slcSet line * 16 + w)).isNone with
  | none => exact plruVictim_lt _
  | some w => exact List.mem_range.1 (List.mem_of_find?_eq_some found)

theorem State.slcSlot_isSome {s : State} {line w : Nat} {x : SlcLine} (way : w < 16)
    (here : mfind s.slc.lines (s.slcSet line * 16 + w) = some x) (addr : x.addr = line) : (s.slcSlot line).isSome = true := by
  rw [State.slcSlot, Option.isSome_map, State.slcWay, List.find?_isSome]
  exact ⟨w, List.mem_range.2 way, by simp [here, addr]⟩

/-- What a demand read of a line changes where no word is in error: the SLC but for its trackers, and the count of used
prefetches. -/
structure Demands (s t : State) : Prop where
  frame : t = { s with slc := t.slc, regs := t.regs }
  regsBut : s.regsBut t [.gsPf 1]
  trackers : t.slc.trackers = s.slc.trackers
  clean : t.eccClean = true

/-- Another SLC whose lines are sound. -/
theorem Demands.slc {r s : State} (h : Demands r s) {c : Slc} (trackers : c.trackers = s.slc.trackers)
    (lines : ∀ p ∈ c.lines, p.2.poison = false ∧ p.2.marks = [0, 0, 0, 0]) : Demands r { s with slc := c } where
  frame := by
    conv_lhs => rw [h.frame]
  regsBut := h.regsBut
  trackers := trackers.trans h.trackers
  clean := by
    obtain ⟨marks, queues, gs, dmc, chans, -⟩ := State.eccClean_iff.1 h.clean
    exact State.eccClean_iff.2 ⟨marks, queues, gs, dmc, chans, lines⟩

theorem Demands.refl {s : State} (clean : s.eccClean = true) : Demands s s := ⟨rfl, fun _ _ => rfl, rfl, clean⟩

theorem Demands.lines {r s : State} (h : Demands r s) : ∀ p ∈ s.slc.lines, p.2.poison = false ∧ p.2.marks = [0, 0, 0, 0] := by
  obtain ⟨-, -, -, -, -, lines⟩ := State.eccClean_iff.1 h.clean
  exact lines

theorem Demands.pfUsed {r s : State} (h : Demands r s) (line : Nat) : Demands r (s.pfUsed line) := by
  unfold State.pfUsed
  split
  · have g : Demands r { s with slc := { s.slc with fetched := s.slc.fetched.filter (· ≠ line) } } := h.slc rfl h.lines
    obtain ⟨marks, queues, gs, dmc, chans, lines⟩ := State.eccClean_iff.1 g.clean
    refine ⟨?_, fun q hq => ?_, g.trackers, State.eccClean_iff.2 ⟨marks, queues, ?_, ?_, chans, lines⟩⟩
    · conv_lhs => rw [g.frame]
      rfl
    · rw [State.rinc_eq, State.rget_rset_other _ (hq _ (by simp)), g.regsBut q hq]
    · exact (congrArg (bits · 8 8) (State.rget_rset_other _ (by decide) _)).trans gs
    · exact (congrArg (bits · 8 8) (State.rget_rset_other _ (by decide) _)).trans dmc
  · exact h

theorem Demands.slcTouch {r s : State} (h : Demands r s) (slot : Nat) : Demands r (s.slcTouch slot) := h.slc rfl h.lines

/-- A line read from DDR5 stands in its set. -/
theorem Demands.slcFill {r s : State} (h : Demands r s) (line : Nat) :
    Demands r (s.slcFill line true) ∧ ((s.slcFill line true).slcSlot line).isSome = true := by
  obtain ⟨c, evicted, trackers, kept⟩ := State.slcEvict_clean h.clean (s.slcVictim line)
  have g : Demands r { s with slc := c } := h.slc trackers fun p hp => h.lines p (kept p hp)
  let filled : State :=
    { s with slc := { c with lines := minsert (s.slcVictim line) ⟨line, false, false, [0, 0, 0, 0]⟩ c.lines } }
  have fill : s.slcFill line true = filled.slcTouch (s.slcVictim line) := by
    simp only [State.slcFill, if_true, evicted, State.gsInject_clean g.clean]
    rfl
  have sound : Demands r filled := h.slc trackers fun p hp => by
    rcases minsert_mem hp with rfl | old
    · exact ⟨rfl, rfl⟩
    · exact g.lines p old
  obtain ⟨w, way, place⟩ := s.slcVictim_way line
  rw [fill]
  refine ⟨sound.slcTouch _, State.slcSlot_isSome way (x := ⟨line, false, false, [0, 0, 0, 0]⟩) ?_ rfl⟩
  change mfind filled.slc.lines (s.slcSet line * 16 + w) = _
  rw [← place]
  exact mfind_minsert_same ..

/-- A demand finds its line in the SLC, or leaves it there. -/
theorem Demands.slcLine {r s : State} (h : Demands r s) (line : Nat) : ∃ t, s.slcLine line true = (true, t) ∧ Demands r t ∧
    (t.slcSlot line).isSome = true := by
  unfold State.slcLine
  split
  · next slot held => exact ⟨_, rfl, h.slcTouch slot, Option.isSome_iff_exists.2 ⟨slot, held⟩⟩
  · simp only [State.ddrFetch_clean h.clean, if_true]
    exact ⟨_, rfl, h.slcFill line⟩

theorem lineUnits_line (l : Nat) : lineUnits (l * 128) 128 = [l] := by
  have one : (l * 128 + 128 - 1) / 128 + 1 - l * 128 / 128 = 1 := by omega
  have first : l * 128 / 128 = l := by omega
  rw [lineUnits, if_neg (by omega), one, first]
  rfl

/-- A physical read of one DDR5 line. -/
theorem State.pread_line_clean {s : State} (clean : s.eccClean = true) {l : Nat} (ddr : inDdr (l * 128) = true) (src : Nat) :
    Demands s (s.pread src (l * 128) 128).2 ∧ ((s.pread src (l * 128) 128).2.slcSlot l).isSome = true := by
  obtain ⟨t, line, demands, held⟩ := ((Demands.refl clean).pfUsed l).slcLine l
  have reads : s.lineReads src (l * 128) 128 [l] = (true, t) := by
    simp only [State.lineReads, line, if_true, State.slcWords_clean demands.clean, Bool.and_self]
  have read : (s.pread src (l * 128) 128).2 = t := by
    simp only [State.pread, ddr, if_true, lineUnits_line, reads]
  rw [read]
  exact ⟨demands, held⟩

/-! ### The command (R231) -/

theorem execSlcStreamPrefetch_backed {s : State} {addr : Pa} {nopf : Bool} {l : Nat} (line : l = addr.toNat / 128)
    (ddr : inDdr (l * 128) = true) (backed : s.backed (l * 128) = true) : exec (.slcStreamPrefetch addr nopf) s =
      .next ((if nopf then s else s.demandLine (l * 128)).pread 1 (l * 128) 128).2 := by
  subst line
  refine congrArg Host.Outcome.next (if_pos ?_)
  rw [ddr, backed]
  rfl

theorem execSlcStreamPrefetch_unbacked {s : State} {addr : Pa} {nopf : Bool}
    (outside : inDdr (addr.toNat / 128 * 128) = false ∨ s.backed (addr.toNat / 128 * 128) = false) :
    exec (.slcStreamPrefetch addr nopf) s = .next s := by
  refine congrArg Host.Outcome.next (if_neg ?_)
  rcases outside with out | out <;> simp [out]

/-- A first further miss one line on gives an untrained tracker its stride. -/
theorem State.demandLine_second {s : State} {a : Nat} {u : Tracker} (on : s.fget .gsPfCtl 0 0 = 1)
    (miss : s.slcSlot (a / 128) = none) (only : s.slc.trackers = [u]) (once : u.count = 1) (next : u.last + 128 = a) :
    s.demandLine a = { s with slc := { s.slc with trackers := [{ u with last := a, stride := 128, count := 2 }] } } := by
  have stride : (a : Int) - u.last = 128 := by omega
  have fits : matchTracker a u = true := by simp [matchTracker, once, stride, strideOk]
  have missed : u.miss a = { u with last := a, stride := 128, count := 2 } := by simp [Tracker.miss, once, stride]
  simp [State.demandLine, on, miss, State.trackMiss, only, fits, missed]

end Sys2Proof.Machine

/-! SUPPORT. Upkeep of DDR5: refreshes, mode register polls, periodic operations, correction write-backs, patrol reads and
error injection (R321 to R324, R328, R330). -/
namespace Sys2Proof.Machine

open Sys2Proof

-- one proof after the other: a thread for each would need too much memory
set_option Elab.async false

/-! ### One channel -/

theorem State.dmc_setDmc_same (s : State) (c : Nat) (x : Dmc) : (s.setDmc c x).dmc c = x := mget_minsert_same ..

theorem State.dmc_setDmc_other (s : State) {c d : Nat} (other : d ≠ c) (x : Dmc) : (s.setDmc c x).dmc d = s.dmc d :=
  mget_minsert_other _ other ..

theorem State.setDmc_setDmc (s : State) (c : Nat) (x y : Dmc) : (s.setDmc c x).setDmc c y = s.setDmc c y := by
  simp only [State.setDmc, minsert_minsert]

/-! ### Refreshes (R321) -/

/-- Counting the refreshes that are owed changes their count and its time alone. -/
theorem State.refCount_frame (s : State) (x : Dmc) :
    s.refCount x = { x with refAt := (s.refCount x).refAt, owed := (s.refCount x).owed } := by
  refine List.foldlRecOn (motive := fun y : Dmc => y = { x with refAt := y.refAt, owed := y.owed }) _ _ rfl
    fun y frame r _ => ?_
  rw [frame]
  rfl

theorem State.canCommand_refCount (s : State) (x : Dmc) : s.canCommand (s.refCount x) = s.canCommand x := by
  rw [State.refCount_frame]
  rfl

theorem mget_of_mfind {α : Type} {d : Nat → α} {m : SMap α} {k : Nat} {v : α} (h : mfind m k = some v) : mget d m k = v := by
  induction m with
  | nil => cases h
  | cons p m ih =>
    obtain ⟨j, u⟩ := p
    by_cases same : j = k
    · simpa [mfind, mget, same] using h
    · simpa [mfind, mget, same] using ih (by simpa [mfind, same] using h)

/-- A refresh closes its bank of every group. -/
theorem State.row_refresh (s : State) (x : Dmc) (rank : Nat) {g : Nat} (group : g < 8) :
    (s.refresh x rank).row ((rank * 8 + g) * s.bankCount + mget (fun _ => 0) x.refBank rank) = none := by
  refine mget_of_mfind (mfind_foldl_minsert none _ x.opened _ |>.trans (if_pos ?_))
  exact List.mem_map.2 ⟨g, List.mem_range.2 group, rfl⟩

/-- Whether a rank's refresh takes a slot. -/
def State.refreshes (s : State) (x : Dmc) (rank : Nat) : Prop :=
  s.canCommand x = true ∧ rank < s.ddr.ranks ∧ 0 < (s.refCount x).owes rank ∧
    mget (fun _ => 0) x.refLast rank + s.refInterval (s.refCount x) rank / 2 ≤ s.halfNs

theorem execSameBankRefresh_eq (s : State) (c : Fin 4) (k : Fin 2) :
    ∃ b : Bool, (b = true ↔ s.refreshes (s.dmc c.val) k.val) ∧ exec (.sameBankRefresh c k) s =
      .next (if b then s.setDmc c.val (s.refresh (s.refCount (s.dmc c.val)) k.val) else s) := by
  refine ⟨_, ?_, rfl⟩
  rw [Bool.and_eq_true, Bool.and_eq_true, decide_eq_true_iff, decide_eq_true_iff, State.canCommand_refCount, State.refreshes,
    show (s.refCount (s.dmc c.val)).refLast = (s.dmc c.val).refLast by rw [State.refCount_frame], and_assoc]

theorem execSameBankRefresh_due {s : State} {c : Fin 4} {x : Dmc} (here : x = s.dmc c.val) {k : Fin 2} {b : Nat}
    (due : s.refreshes x k.val) (bank : b = mget (fun _ => 0) x.refBank k.val) :
    ∃ t, exec (.sameBankRefresh c k) s = .next t ∧ t = { s with ddr := t.ddr } ∧
      (∀ g, g < 8 → (t.dmc c.val).row ((k.val * 8 + g) * s.bankCount + b) = none) ∧
      mget (fun _ => 0) (t.dmc c.val).refBank k.val = (b + 1) % s.bankCount ∧
      (t.dmc c.val).owes k.val = (s.refCount x).owes k.val - 1 ∧ mget (fun _ => 0) (t.dmc c.val).refLast k.val = s.halfNs ∧
      (t.dmc c.val).retry = x.retry ++ [.refresh k.val b] ∧ (t.dmc c.val).queues = x.queues := by
  subst here
  obtain ⟨r, taken, runs⟩ := execSameBankRefresh_eq s c k
  rw [taken.2 due, if_pos rfl] at runs
  have banks : (s.refCount (s.dmc c.val)).refBank = (s.dmc c.val).refBank := by rw [State.refCount_frame]
  have retry : (s.refCount (s.dmc c.val)).retry = (s.dmc c.val).retry := by rw [State.refCount_frame]
  have queues : (s.refCount (s.dmc c.val)).queues = (s.dmc c.val).queues := by rw [State.refCount_frame]
  rw [← banks] at bank
  refine ⟨_, runs, rfl, ?_⟩
  rw [State.dmc_setDmc_same, bank, ← retry, ← queues]
  exact ⟨fun g group => s.row_refresh _ _ group, mget_minsert_same .., mget_minsert_same .., mget_minsert_same .., rfl, rfl⟩

theorem execSameBankRefresh_not_due {s : State} {c : Fin 4} {k : Fin 2} (early : ¬ s.refreshes (s.dmc c.val) k.val) :
    exec (.sameBankRefresh c k) s = .next s := by
  obtain ⟨r, taken, runs⟩ := execSameBankRefresh_eq s c k
  rw [runs, if_neg fun h => early (taken.1 h)]

/-! ### Events of the PMC (R395) -/

theorem State.regs_coreIrq (s : State) (i : Irq) : (s.coreIrq i).regs = s.regs := by
  unfold State.coreIrq
  split <;> rfl

/-- An interrupt changes no register but the pending bits of the vectors. -/
theorem State.rget_msix (s : State) (v : Nat) {q : Reg} (other : q.addr ≠ (Reg.msixPba (v / 64)).addr) :
    (s.msix v).rget q = s.rget q := by
  unfold State.msix State.sendMsix
  split
  · split
    · rw [State.rget, State.regs_coreIrq, State.rget]
    · rfl
  · exact State.rget_rset_other _ other _

theorem State.rget_rxIrq (s : State) (k : Nat) {q : Reg} (below : q.addr < 0x400000) : (s.rxIrq k).rget q = s.rget q := by
  unfold State.rxIrq State.epIrq
  split
  · split
    · have far (i : Nat) : 0x400000 ≤ (Reg.msixPba i).addr := by
        simp only [Reg.addr]
        omega
      exact s.rget_msix _ (Nat.ne_of_lt (Nat.lt_of_lt_of_le below (far _)))
    · rw [State.rget, State.hcIrq, State.regs_coreIrq, State.rget]
    · rfl
  · rfl

/-- A push changes registers of the mailboxes and the pending bits of the vectors alone. -/
theorem State.rget_push (s : State) (ep : Endpoint) (k : Nat) (v : W64) {q : Reg} (below : q.addr < 0x400000) :
    (s.push ep k v).rget q = s.rget q := by
  have far : 0x400000 ≤ (Reg.mbxBadsrc k).addr ∧ 0x400000 ≤ (Reg.mbxLost k).addr ∧ 0x400000 ≤ (Reg.mbxStat k).addr := by
    simp only [Reg.addr]
    omega
  have badsrc : q.addr ≠ (Reg.mbxBadsrc k).addr := by omega
  have lost : q.addr ≠ (Reg.mbxLost k).addr := by omega
  have stat : q.addr ≠ (Reg.mbxStat k).addr := by omega
  have wake (t : State) : (t.mailWake k).rget q = t.rget q := by
    rw [State.mailWake_eq]
    rfl
  unfold State.push
  split
  · exact State.rget_rset_other _ badsrc _
  split
  · exact (State.rget_rset_other _ lost _).trans (State.rget_rset_other _ stat _)
  dsimp only
  split
  · exact State.rget_rset_other _ stat _
  split
  · exact (State.rget_rxIrq _ _ below).trans (wake _)
  · exact wake _

/-- An event counts in PMC_EVHEAD. -/
theorem State.rget_pmcEvent (s : State) (typ sub v16 v32 : Nat) :
    (s.pmcEvent typ sub v16 v32).rget .pmcEvhead = (s.rget .pmcEvhead + 1) % 2 ^ 64 := by
  have log (i j : Nat) : Reg.pmcEvhead.addr ≠ (Reg.pmcEvlog i j).addr := by
    simp only [Reg.addr]
    omega
  unfold State.pmcEvent
  dsimp only
  split
  · rw [State.rget_push _ _ _ _ (by decide), State.rget_rinc_same, State.rget_rset_other _ (log _ _),
      State.rget_rset_other _ (log _ _)]
  · rw [State.rget_rinc_same, State.rget_rset_other _ (log _ _), State.rget_rset_other _ (log _ _)]

/-! ### Mode register polls (R322) -/

/-- A poll with one reading changes what that reading's rank has. -/
theorem execModeRegisterPoll_one {s : State} {c : Fin 4} {k : Fin 2} (can : s.canCommand (s.dmc c.val) = true)
    (room : (s.dmc c.val).retry.length < 63) (two hot : Bool) : exec (.modeRegisterPoll c [⟨k.val, two, hot⟩]) s =
      .next (s.rankReading c.val [⟨k.val, two, hot⟩] k.val) := by
  have other {t : State} {j : Nat} (h : k.val ≠ j) : t.rankReading c.val [⟨k.val, two, hot⟩] j = t := by
    simp [State.rankReading, h]
  refine congrArg Host.Outcome.next ((if_pos (by simp [can, room])).trans ?_)
  match k with
  | 0 => exact other (by decide)
  | 1 => exact congrArg (State.rankReading · c.val [⟨1, two, hot⟩] 1) (other (by decide))

/-- The channel with the read in its retry buffer. -/
def Dmc.polled (x : Dmc) (k : Nat) : Dmc := { x with retry := x.retry ++ [.mrr k] }

theorem State.rankReading_one (s : State) (c k : Nat) (two hot : Bool) :
    s.rankReading c [⟨k, two, hot⟩] k =
      (let x := s.dmc c
       let was := x.ref2x / 2 ^ k % 2 == 1
       let u := if two && !was then (s.setDmc c { x.polled k with ref2x := x.ref2x + 2 ^ k }).rinc (.dmcCount c 5) 64 1
         else if was && !two then s.setDmc c { x.polled k with ref2x := x.ref2x - 2 ^ k }
         else s.setDmc c (x.polled k)
       if hot then u.pmcEvent 4 (c * 2 + k) 0 0 else u) := by
  simp [State.rankReading, Dmc.polled]

/-- A rank that begins to read twice the rate is counted. -/
theorem State.rankReading_rises {s : State} {c k : Nat} (slow : (s.dmc c).ref2x / 2 ^ k % 2 = 0) :
    s.rankReading c [⟨k, true, false⟩] k =
      (s.setDmc c { (s.dmc c).polled k with ref2x := (s.dmc c).ref2x + 2 ^ k }).rinc (.dmcCount c 5) 64 1 := by
  simp [State.rankReading_one, slow]

theorem State.rankReading_falls {s : State} {c k : Nat} (fast : (s.dmc c).ref2x / 2 ^ k % 2 = 1) :
    s.rankReading c [⟨k, false, false⟩] k =
      s.setDmc c { (s.dmc c).polled k with ref2x := (s.dmc c).ref2x - 2 ^ k } := by
  simp [State.rankReading_one, fast]

/-- A rank that reads hot is an event of the PMC. -/
theorem State.rget_rankReading_hot (s : State) (c k : Nat) :
    (s.rankReading c [⟨k, false, true⟩] k).rget .pmcEvhead = (s.rget .pmcEvhead + 1) % 2 ^ 64 := by
  rw [State.rankReading_one]
  simp only [Bool.false_and, Bool.false_eq_true, if_false, if_true, Bool.not_false, Bool.and_true]
  rw [State.rget_pmcEvent]
  split <;> rfl

theorem execModeRegisterPoll_waits {s : State} {c : Fin 4}
    (waits : s.canCommand (s.dmc c.val) = false ∨ 63 ≤ (s.dmc c.val).retry.length) (l : List MrReading) :
    exec (.modeRegisterPoll c l) s = .next s := by
  refine congrArg Host.Outcome.next (if_neg fun h => ?_)
  rw [Bool.and_eq_true, decide_eq_true_iff] at h
  rcases waits with still | full
  · rw [h.1] at still
    cases still
  · omega

/-- The rate of a rank that begins to read twice it. -/
theorem execModeRegisterPoll_rises {s : State} {c : Fin 4} {k : Fin 2} (can : s.canCommand (s.dmc c.val) = true)
    (room : (s.dmc c.val).retry.length < 63) (slow : (s.dmc c.val).ref2x / 2 ^ k.val % 2 = 0) :
    ∃ t, exec (.modeRegisterPoll c [⟨k.val, true, false⟩]) s = .next t ∧ t = { s with ddr := t.ddr, regs := t.regs } ∧
      t.dmc c.val = { s.dmc c.val with
        ref2x := (s.dmc c.val).ref2x + 2 ^ k.val, retry := (s.dmc c.val).retry ++ [.mrr k.val] } ∧
      s.regsBut t [.dmcCount c.val 5] ∧ t.rget (.dmcCount c.val 5) = (s.rget (.dmcCount c.val 5) + 1) % 2 ^ 64 := by
  refine ⟨_, (execModeRegisterPoll_one can room true false).trans (congrArg _ (State.rankReading_rises slow)), rfl,
    State.dmc_setDmc_same .., fun q hq => ?_, State.rget_rinc_same ..⟩
  rw [State.rinc_eq, State.rget_rset_other _ (hq _ (by simp))]
  rfl

/-! ### Periodic operations (R323) -/

theorem execZqCalibration_runs {s : State} {c : Fin 4} {o : RankOp} (can : s.canCommand (s.dmc c.val) = true)
    (rank : rankOf o < s.ddr.ranks) : exec (.zqCalibration c o) s = .next (s.setDmc c.val (s.rankOp (s.dmc c.val) o)) :=
  congrArg Host.Outcome.next (if_pos (by simp [can, rank]))

theorem execZqCalibration_waits {s : State} {c : Fin 4} {o : RankOp}
    (waits : s.canCommand (s.dmc c.val) = false ∨ s.ddr.ranks ≤ rankOf o) : exec (.zqCalibration c o) s = .next s := by
  refine congrArg Host.Outcome.next (if_neg fun h => ?_)
  rw [Bool.and_eq_true, decide_eq_true_iff] at h
  rcases waits with still | rank
  · rw [h.1] at still
    cases still
  · omega

/-! ### Bulk requests of the controller (R317) -/

theorem State.askBulk_alive {s : State} {a : Nat} (alive : (s.dmc (s.ddrChannel (ddrOff a))).state ≠ 3) (wr : Option (List Byte))
    (who : DdrWho) : s.askBulk a wr who = s.setDmc (s.ddrChannel (ddrOff a))
      (s.bulkIn { s.dmc (s.ddrChannel (ddrOff a)) with order := (s.dmc (s.ddrChannel (ddrOff a))).order + 1 }
        ⟨a, wr, false, 0, (s.dmc (s.ddrChannel (ddrOff a))).order, 0, who⟩) := if_neg alive

theorem ddrOff_ddrBase (d : Nat) : ddrOff (ddrBase + d) = d := Nat.add_sub_cancel_left ..

/-! ### Correction write-backs (R328) -/

theorem execDdrCorrectionWriteback_oldest {s : State} {c : Fin 4} {l : Nat} {m : List Nat}
    (queue : (s.dmc c.val).wback = l :: m) : exec (.ddrCorrectionWriteback c) s = .next
      (if ((s.dmc c.val).entries ++ (s.dmc c.val).input ++ (s.dmc c.val).ingest).any
          (fun q => q.addr == ddrBase + l * 128 && q.wr.isSome)
        then s.setDmc c.val { s.dmc c.val with wback := m }
        else (s.setDmc c.val { s.dmc c.val with wback := m }).askBulk (ddrBase + l * 128) (some []) .wback) := by
  change Host.Outcome.next (match (s.dmc c.val).wback with
    | [] => s
    | l :: t => _) = _
  rw [queue]

theorem execDdrCorrectionWriteback_empty {s : State} {c : Fin 4} (queue : (s.dmc c.val).wback = []) :
    exec (.ddrCorrectionWriteback c) s = .next s := by
  change Host.Outcome.next (match (s.dmc c.val).wback with
    | [] => s
    | l :: t => _) = _
  rw [queue]

/-- The write of the oldest line enters its bank queue, or the channel input while that is full. -/
theorem State.askBulk_writeback {s : State} {c l : Nat} {m : List Nat} {x : Dmc} {r : DdrReq} (alive : x.state ≠ 3)
    (own : s.ddrChannel (l * 128) = c) (request : r = ⟨ddrBase + l * 128, some [], false, 0, x.order, 0, .wback⟩) :
    (s.setDmc c { x with wback := m }).askBulk (ddrBase + l * 128) (some []) .wback = s.setDmc c
      (if (x.queue (s.reqBank r)).length < 16 then { x with
        wback := m, order := x.order + 1, queues := minsert (s.reqBank r) (x.queue (s.reqBank r) ++ [r]) x.queues }
      else { x with wback := m, order := x.order + 1, input := x.input ++ [r] }) := by
  let u := s.setDmc c { x with wback := m }
  have channel : u.ddrChannel (ddrOff (ddrBase + l * 128)) = c := (congrArg u.ddrChannel (ddrOff_ddrBase _)).trans own
  have here : u.dmc c = { x with wback := m } := s.dmc_setDmc_same ..
  have asked := State.askBulk_alive (s := u) (a := ddrBase + l * 128) (by rw [channel, here]; exact alive) (some []) .wback
  rw [channel, here, s.setDmc_setDmc] at asked
  subst request
  exact asked

/-! ### Patrol reads (R330) -/

theorem mem_minsert_self {α : Type} (k : Nat) (v : α) (m : SMap α) : (k, v) ∈ minsert k v m := mem_of_mfind (mfind_minsert_same ..)

/-- An entry stays beside a new one, or is the one that the new one replaces. -/
theorem mem_minsert_of_mem {α : Type} (d : Nat → α) {k : Nat} (v : α) {m : SMap α} {p : Nat × α} (h : p ∈ m) :
    p ∈ minsert k v m ∨ p.2 = mget d m k := by
  induction m with
  | nil => cases h
  | cons q m ih =>
    obtain ⟨a, u⟩ := q
    by_cases before : k < a
    · simp [minsert, before, List.mem_cons.1 h]
    by_cases same : a = k
    · rcases List.mem_cons.1 h with rfl | later
      · exact .inr (by simp [mget, same])
      · exact .inl (by simp [minsert, same, later])
    · rcases List.mem_cons.1 h with rfl | later
      · exact .inl (by simp [minsert, before, same])
      · simpa [minsert, before, same, mget] using (ih later).imp_left .inr

/-- A channel that has taken further requests. -/
structure Dmc.Asked (x y : Dmc) : Prop where
  state : y.state = x.state
  panic : y.panic = x.panic
  requests : ∀ q ∈ x.requests, q ∈ y.requests

theorem Dmc.Asked.refl (x : Dmc) : x.Asked x := ⟨rfl, rfl, fun _ hq => hq⟩

theorem Dmc.Asked.trans {x y z : Dmc} (h : x.Asked y) (g : y.Asked z) : x.Asked z :=
  ⟨g.state.trans h.state, g.panic.trans h.panic, fun q hq => g.requests q (h.requests q hq)⟩

/-- A request stands in its channel, beside the others. -/
theorem State.bulkIn_asked (s : State) (x : Dmc) (r : DdrReq) : x.Asked (s.bulkIn x r) ∧ (s.bulkIn x r).scrub = x.scrub ∧
    { r with wait := 0 } ∈ (s.bulkIn x r).requests := by
  unfold State.bulkIn
  dsimp only
  split
  · have entries (q : DdrReq) (hq : q ∈ x.entries) :
        q ∈ Dmc.entries { x with queues := minsert (s.reqBank r) (x.queue (s.reqBank r) ++ [{ r with wait := 0 }]) x.queues } := by
      obtain ⟨p, hp, hq⟩ := List.mem_flatMap.1 hq
      rcases mem_minsert_of_mem (fun _ => []) (k := s.reqBank r) (x.queue (s.reqBank r) ++ [{ r with wait := 0 }]) hp with
        stays | replaced
      · exact List.mem_flatMap.2 ⟨p, stays, hq⟩
      · exact List.mem_flatMap.2 ⟨_, mem_minsert_self .., List.mem_append_left _ (by rwa [Dmc.queue, ← replaced])⟩
    refine ⟨⟨rfl, rfl, fun q hq => ?_⟩, rfl, ?_⟩
    · simp only [Dmc.requests, List.mem_append] at hq ⊢
      exact hq.imp_left (Or.imp_left (Or.imp_left (entries q)))
    · simp only [Dmc.requests, List.mem_append]
      exact .inl (.inl (.inl (List.mem_flatMap.2 ⟨_, mem_minsert_self .., by simp⟩)))
  · refine ⟨⟨rfl, rfl, fun q hq => ?_⟩, rfl, ?_⟩
    · simp only [Dmc.requests, List.mem_append] at hq ⊢
      exact hq.imp_left (Or.imp_left (Or.imp_right .inl))
    · simp [Dmc.requests]

/-- `t` is `s` but for requests that its channels have taken, and the places of their patrols. -/
structure Patrols (s t : State) : Prop where
  frame : t = { s with ddr := { s.ddr with chans := t.ddr.chans } }
  asked : ∀ d, (s.dmc d).Asked (t.dmc d)

theorem Patrols.refl (s : State) : Patrols s s := ⟨rfl, fun _ => .refl _⟩

theorem Patrols.trans {r s t : State} (h : Patrols r s) (g : Patrols s t) : Patrols r t where
  frame := by
    conv_lhs => rw [g.frame, h.frame]
  asked d := (h.asked d).trans (g.asked d)

theorem Patrols.setDmc {s : State} {c : Nat} {y : Dmc} (h : (s.dmc c).Asked y) : Patrols s (s.setDmc c y) where
  frame := rfl
  asked d := by
    by_cases own : d = c
    · subst own
      rw [State.dmc_setDmc_same]
      exact h
    · rw [State.dmc_setDmc_other _ own]
      exact .refl _

theorem Patrols.fill {s t : State} (h : Patrols s t) : t.ddr.fill = s.ddr.fill := by rw [h.frame]

theorem Patrols.scrubLine {s t : State} (h : Patrols s t) (c n : Nat) : t.scrubLine c n = s.scrubLine c n := by
  rw [h.frame]
  rfl

theorem Patrols.ddrChannel {s t : State} (h : Patrols s t) (d : Nat) : t.ddrChannel d = s.ddrChannel d := by
  rw [h.frame]
  rfl

/-- The line that the patrol of a channel reads next: its first once the next lies above the fill boundary. -/
def State.patrolLine (s : State) (c : Nat) : Nat := if s.scrubLine c (s.dmc c).scrub < s.ddr.fill then (s.dmc c).scrub else 0

/-- A patrol read of a line, as a request. -/
def DdrReq.patrols (q : DdrReq) (d : Nat) : Prop := q.who = .scrub ∧ q.addr = ddrBase + d ∧ q.wr = none ∧ q.prio = 0

theorem ddrChannel_lt (s : State) (d : Nat) : s.ddrChannel d < 4 := by
  unfold State.ddrChannel parity
  omega

/-- Channels that all work. -/
def State.channelsWork (s : State) : Prop := ∀ d, d < 4 → (s.dmc d).state = 1 ∧ (s.dmc d).panic = false

theorem Patrols.channelsWork {s t : State} (h : Patrols s t) (work : s.channelsWork) : t.channelsWork := fun d low => by
  rw [(h.asked d).state, (h.asked d).panic]
  exact work d low

/-- One patrol read: asked for where its line lies below the fill boundary, and the patrol is a line further. -/
theorem State.ddrScrubOne_patrols {s : State} (work : s.channelsWork) {c : Nat} (low : c < 4) :
    Patrols s (s.ddrScrubOne c) ∧ (∀ d, d ≠ c → ((s.ddrScrubOne c).dmc d).scrub = (s.dmc d).scrub) ∧
      ((s.ddrScrubOne c).dmc c).scrub =
        (if s.scrubLine c (s.patrolLine c) < s.ddr.fill then s.patrolLine c + 1 else (s.dmc c).scrub) ∧
      (s.scrubLine c (s.patrolLine c) < s.ddr.fill →
        ∃ q ∈ ((s.ddrScrubOne c).dmc (s.ddrChannel (s.scrubLine c (s.patrolLine c)))).requests,
          q.patrols (s.scrubLine c (s.patrolLine c))) := by
  obtain ⟨active, calm⟩ := work c low
  have reads : s.ddrScrubOne c = if s.ddr.fill ≤ s.scrubLine c (s.patrolLine c) then s else
      (s.setDmc c { s.dmc c with scrub := s.patrolLine c + 1 }).askBulk (ddrBase + s.scrubLine c (s.patrolLine c)) none .scrub := by
    rw [State.ddrScrubOne, if_neg (by simp [active, calm])]
    rfl
  by_cases below : s.scrubLine c (s.patrolLine c) < s.ddr.fill
  · rw [if_neg (Nat.not_le.2 below)] at reads
    let u := s.setDmc c { s.dmc c with scrub := s.patrolLine c + 1 }
    let ch := u.ddrChannel (ddrOff (ddrBase + s.scrubLine c (s.patrolLine c)))
    have further : Patrols s u := .setDmc ⟨rfl, rfl, fun _ hq => hq⟩
    have place : ch = s.ddrChannel (s.scrubLine c (s.patrolLine c)) :=
      (congrArg u.ddrChannel (ddrOff_ddrBase _)).trans (further.ddrChannel _)
    obtain ⟨working, -⟩ := further.channelsWork work ch (ddrChannel_lt ..)
    rw [State.askBulk_alive (by rw [working]; decide)] at reads
    obtain ⟨asked, kept, there⟩ := u.bulkIn_asked { u.dmc ch with order := (u.dmc ch).order + 1 }
      ⟨ddrBase + s.scrubLine c (s.patrolLine c), none, false, 0, (u.dmc ch).order, 0, .scrub⟩
    have scrub (d : Nat) : ((s.ddrScrubOne c).dmc d).scrub = (u.dmc d).scrub := by
      rw [reads]
      by_cases own : d = ch
      · rw [own, State.dmc_setDmc_same]
        exact kept
      · rw [State.dmc_setDmc_other _ own]
    refine ⟨further.trans (reads ▸ .setDmc ⟨asked.state, asked.panic, asked.requests⟩), fun d other => ?_, ?_, fun _ => ?_⟩
    · rw [scrub, State.dmc_setDmc_other _ other]
    · rw [scrub, State.dmc_setDmc_same, if_pos below]
    · rw [reads, ← place, State.dmc_setDmc_same]
      exact ⟨_, there, rfl, rfl, rfl, rfl⟩
  · rw [if_pos (Nat.not_lt.1 below)] at reads
    rw [reads]
    exact ⟨.refl s, fun _ _ => rfl, (if_neg below).symm, fun h => absurd h below⟩

theorem Patrols.patrolLine {s t : State} (h : Patrols s t) {c : Nat} (place : (t.dmc c).scrub = (s.dmc c).scrub) :
    t.patrolLine c = s.patrolLine c := by
  simp only [State.patrolLine, place, h.scrubLine, h.fill]

/-- Patrol reads of different channels. -/
theorem State.ddrScrubs_patrols {s : State} (work : s.channelsWork) {l : List Nat} (once : l.Nodup) (low : ∀ c ∈ l, c < 4) :
    Patrols s (l.foldl State.ddrScrubOne s) ∧
      (∀ d, d ∉ l → ((l.foldl State.ddrScrubOne s).dmc d).scrub = (s.dmc d).scrub) ∧
      ∀ d ∈ l, ((l.foldl State.ddrScrubOne s).dmc d).scrub =
          (if s.scrubLine d (s.patrolLine d) < s.ddr.fill then s.patrolLine d + 1 else (s.dmc d).scrub) ∧
        (s.scrubLine d (s.patrolLine d) < s.ddr.fill →
          ∃ q ∈ ((l.foldl State.ddrScrubOne s).dmc (s.ddrChannel (s.scrubLine d (s.patrolLine d)))).requests,
            q.patrols (s.scrubLine d (s.patrolLine d))) := by
  induction l generalizing s with
  | nil => exact ⟨.refl s, fun _ _ => rfl, fun _ h => nomatch h⟩
  | cons a l ih =>
    obtain ⟨fresh, once⟩ := List.nodup_cons.1 once
    obtain ⟨first, others, place, asked⟩ := State.ddrScrubOne_patrols work (low a List.mem_cons_self)
    obtain ⟨rest, kept, later⟩ := ih (first.channelsWork work) once fun c hc => low c (List.mem_cons_of_mem _ hc)
    rw [List.foldl_cons]
    refine ⟨first.trans rest, fun d out => ?_, fun d among => ?_⟩
    · rw [List.mem_cons, not_or] at out
      rw [kept d out.2, others d out.1]
    rcases List.mem_cons.1 among with rfl | among
    · refine ⟨(kept d fresh).trans place, fun below => ?_⟩
      obtain ⟨q, hq, reads⟩ := asked below
      exact ⟨q, (rest.asked _).requests q hq, reads⟩
    · have other : d ≠ a := fun same => fresh (same ▸ among)
      have moved := later d among
      rw [first.patrolLine (others d other), first.scrubLine, first.fill, first.ddrChannel, others d other] at moved
      exact moved

theorem execDdrPatrolScrub_reads {s : State} (on : s.rget .dmcScrub ≠ 0) (work : s.channelsWork) :
    ∃ t, exec .ddrPatrolScrub s = .next t ∧ t = { s with ddr := t.ddr } ∧ ∀ d n : Nat, d < 4 →
      n = (if s.scrubLine d (s.dmc d).scrub < s.ddr.fill then (s.dmc d).scrub else 0) →
      (t.dmc d).scrub = (if s.scrubLine d n < s.ddr.fill then n + 1 else (s.dmc d).scrub) ∧
      (s.scrubLine d n < s.ddr.fill → ∃ q ∈ (t.dmc (s.ddrChannel (s.scrubLine d n))).requests,
        q.who = .scrub ∧ q.addr = ddrBase + s.scrubLine d n ∧ q.wr = none ∧ q.prio = 0) := by
  obtain ⟨patrols, -, moved⟩ := State.ddrScrubs_patrols work (List.nodup_range (n := 4)) fun _ hc => List.mem_range.1 hc
  refine ⟨_, congrArg Host.Outcome.next (if_neg on), ?_, fun d n low line => ?_⟩
  · conv_lhs => rw [patrols.frame]
    rw [patrols.frame]
  · subst line
    exact moved d (List.mem_range.2 low)

/-! ### Error injection (R332, Table 13.8) -/

theorem execDmcEccInjArm_locked {s : State} (used : s.ddrUsed = true) (w : World) (c : Fin 4) (m : BitVec 2) :
    exec (.dmcEccInjArm w c m) s = .next s := congrArg Host.Outcome.next (if_pos used)

theorem execDmcEccInjArm_arms {s : State} {w : World} (admits : s.admits w .dmcEccInj true) (unused : s.ddrUsed = false)
    (c : Fin 4) (m : BitVec 2) :
    ∃ t, exec (.dmcEccInjArm w c m) s = .next t ∧ s.onlyRegs t [.dmcEccInj] ∧ t.fget .dmcEccInj 5 4 = c.val ∧
      t.fget .dmcEccInj 1 0 = m.toNat ∧ t.fget .dmcEccInj 8 8 = if m = 3 then s.fget .dmcEccInj 8 8 else 1 := by
  have runs : exec (.dmcEccInjArm w c m) s = .next (s.injWrite .dmcEccInj 5 c.val m.toNat !decide (m = 3)) := by
    rw [← toNat_bne_three]
    refine congrArg Host.Outcome.next ((if_neg (by simp [unused])).trans ?_)
    exact State.regOp_admitted admits fun s => s.ddrInj c.val m.toNat true
  exact ⟨_, runs, s.injWrite_armed .dmcEccInj (by omega) (by omega) c.isLt m⟩

end Sys2Proof.Machine

/-! SUPPORT. What keeps memory sound, command by command (R196, R199, R203 to R205, R231, R321 to R324, R328, R330). -/
namespace Sys2Proof.Machine

open Sys2Proof

-- one proof after the other: a thread for each would need too much memory
set_option Elab.async false

/-! ### The gesso and the SLC -/

theorem eccWriteBack_word {s : State} {r : Fin 8} {a : Nat} {l : List Nat}
    (queue : mget (fun _ => []) s.gesso.wbq r.val = a :: l) (gesso : r.val ≠ 6) :
    ∃ t, exec (.eccWriteBack r) s = .next t ∧
      t = { s with gesso := t.gesso, ecc := if mget (fun _ => 0) s.ecc a = 1 then merase a s.ecc else s.ecc } ∧
      t.gesso = { s.gesso with wbq := t.gesso.wbq } ∧ mget (fun _ => []) t.gesso.wbq r.val = l ∧
      ∀ j, j ≠ r.val → mget (fun _ => []) t.gesso.wbq j = mget (fun _ => []) s.gesso.wbq j :=
  ⟨_, (execEccWriteBack_oldest queue).trans (congrArg _ (if_neg gesso)), rfl, rfl, mget_minsert_same ..,
    fun _ other => mget_minsert_other _ other ..⟩

theorem eccWriteBack_slc {s : State} {a slot : Nat} {l : List Nat} {x : SlcLine}
    (queue : mget (fun _ => []) s.gesso.wbq 6 = a :: l) (place : s.slcSlot (a / 4) = some slot)
    (line : mfind s.slc.lines slot = some x) (mark : x.mark (a % 4) = 1) :
    ∃ t, exec (.eccWriteBack 6) s = .next t ∧ t = { s with gesso := t.gesso, slc := t.slc } ∧
      mget (fun _ => []) t.gesso.wbq 6 = l ∧ mfind t.slc.lines slot = some (x.setMark (a % 4) 0) :=
  ⟨_, (execEccWriteBack_oldest (r := 6) queue).trans (congrArg _ (State.writeBack_slc place line mark)), rfl,
    mget_minsert_same .., mfind_minsert_same ..⟩

theorem bistDone_reports {s : State} {sel : Nat} (runs : s.gesso.bist = some sel) (low : sel < 256) (fails : List BistFail) :
    ∃ t, exec (.bistDone fails) s = .next t ∧ t.gesso.bist = none ∧ t.fget .gsBistStatus 16 16 = 0 ∧
      t.fget .gsBistStatus 13 0 = 10000 ∧ t.engines = s.engines ∧ s.regsBut t [.gsBistStatus, .gsBistFail] ∧
      (∀ e x, e < 6 → sel / 2 ^ e % 2 = 1 → sliceBase e ≤ x → x < sliceBase e + sliceSize → t.byte x = 0) ∧
      (fails = [] → t.fget .gsBistStatus 39 32 = sel ∧ t.fget .gsBistStatus 47 40 = 0 ∧ t.rget .gsBistFail = 0) ∧
      ∀ f : BistFail, fails = [f] → f.region < 8 → sel / 2 ^ f.region % 2 = 1 →
        t.fget .gsBistStatus 39 32 = sel - 2 ^ f.region ∧ t.fget .gsBistStatus 47 40 = 2 ^ f.region ∧
        t.fget .gsBistFail 47 32 = 1 ∧ t.fget .gsBistFail 31 29 = f.region ∧ t.fget .gsBistFail 28 20 = f.bank % 512 ∧
        t.fget .gsBistFail 12 0 = f.row % 8192 := by
  obtain ⟨ends, vacant, engines, regs, zero⟩ := execBistDone_ends runs fails
  obtain ⟨idle, progress⟩ := s.bistEnd_done sel fails
  refine ⟨_, ends, vacant, idle, progress, engines, regs, zero, fun none_ => ?_, fun f one region tested => ?_⟩
  · rw [none_]
    exact s.bistEnd_passed low
  · rw [one]
    exact s.bistEnd_failed low region tested

theorem gsEccInjArm_gallery (s : State) (r : Fin 8) (m : BitVec 2) :
    ∃ t, exec (.gsEccInjArm .gallery r m) s = .next t ∧ s.onlyRegs t [.secViol, .secVlog] ∧
      t.rget .secViol = (s.rget .secViol + 1) % 2 ^ 64 :=
  ⟨_, execGsEccInjArm_gallery s r m, s.onlyRegs_violation .., s.rget_secViol_violation ..⟩

theorem slcStreamPrefetch_untrained {s : State} {addr : Pa} {nopf : Bool} {l : Nat} (line : l = addr.toNat / 128)
    (ddr : inDdr (l * 128) = true) (backed : s.backed (l * 128) = true) (clean : s.eccClean = true)
    (off : nopf = true ∨ s.fget .gsPfCtl 0 0 = 0) :
    ∃ t, exec (.slcStreamPrefetch addr nopf) s = .next t ∧ t = { s with slc := t.slc, regs := t.regs } ∧
      (t.slcSlot l).isSome = true ∧ s.regsBut t [.gsPf 1] ∧ t.slc.trackers = s.slc.trackers := by
  have untrained : (if nopf then s else s.demandLine (l * 128)) = s := by
    rcases off with flag | off
    · exact if_pos flag
    · rw [State.demandLine, if_pos off, ite_self]
  have runs := execSlcStreamPrefetch_backed (nopf := nopf) line ddr backed
  rw [untrained] at runs
  obtain ⟨demands, held⟩ := State.pread_line_clean clean ddr 1
  exact ⟨_, runs, demands.frame, held, demands.regsBut, demands.trackers⟩

theorem slcStreamPrefetch_second {s : State} {addr : Pa} {l : Nat} {u : Tracker} (line : l = addr.toNat / 128)
    (ddr : inDdr (l * 128) = true) (backed : s.backed (l * 128) = true) (clean : s.eccClean = true)
    (on : s.fget .gsPfCtl 0 0 = 1) (miss : s.slcSlot l = none) (only : s.slc.trackers = [u]) (once : u.count = 1)
    (next : u.last + 128 = l * 128) :
    ∃ t, exec (.slcStreamPrefetch addr false) s = .next t ∧ t = { s with slc := t.slc, regs := t.regs } ∧
      s.regsBut t [.gsPf 1] ∧ (t.slcSlot l).isSome = true ∧
      t.slc.trackers = [{ u with last := l * 128, stride := 128, count := 2 }] := by
  have trained := State.demandLine_second (a := l * 128) on (by rwa [Nat.mul_div_cancel l (by omega)]) only once next
  have runs := execSlcStreamPrefetch_backed (nopf := false) line ddr backed
  rw [if_neg Bool.false_ne_true, trained] at runs
  obtain ⟨demands, held⟩ := State.pread_line_clean (s := { s with slc := { s.slc with
    trackers := [{ u with last := l * 128, stride := 128, count := 2 }] } }) clean ddr 1
  exact ⟨_, runs, demands.frame, demands.regsBut, held, demands.trackers⟩

/-! ### DDR5 -/

theorem modeRegisterPoll_falls {s : State} {c : Fin 4} {k : Fin 2} (can : s.canCommand (s.dmc c.val) = true)
    (room : (s.dmc c.val).retry.length < 63) (fast : (s.dmc c.val).ref2x / 2 ^ k.val % 2 = 1) :
    exec (.modeRegisterPoll c [⟨k.val, false, false⟩]) s = .next (s.setDmc c.val { s.dmc c.val with
      ref2x := (s.dmc c.val).ref2x - 2 ^ k.val, retry := (s.dmc c.val).retry ++ [.mrr k.val] }) :=
  (execModeRegisterPoll_one can room false false).trans (congrArg _ (State.rankReading_falls fast))

theorem modeRegisterPoll_hot {s : State} {c : Fin 4} (k : Fin 2) (can : s.canCommand (s.dmc c.val) = true)
    (room : (s.dmc c.val).retry.length < 63) : ∃ t, exec (.modeRegisterPoll c [⟨k.val, false, true⟩]) s = .next t ∧
      t.rget .pmcEvhead = (s.rget .pmcEvhead + 1) % 2 ^ 64 :=
  ⟨_, execModeRegisterPoll_one can room false true, s.rget_rankReading_hot ..⟩

/-- Settles O32: each command by the lemma that says what it does in the clause's case. -/
theorem memoryUpkeep : Obligations.MemoryUpkeep := by
  refine ⟨fun s => ⟨fun _ _ _ => eccWriteBack_word, fun _ _ _ _ => eccWriteBack_slc, fun _ => execEccWriteBack_empty,
    execGessoPatrolScrub_clean, fun off => congrArg Host.Outcome.next (if_pos off), fun _ _ => execBistStart_starts,
    fun _ _ => execBistStart_refused, fun _ _ _ => execBistStart_busy, fun _ fails runs low => bistDone_reports runs low fails,
    fun fails rests => execBistDone_rests rests fails, fun r m armed => ?_, fun r => execGsEccInjArm_studio s r 3, gsEccInjArm_gallery s,
    fun _ _ _ => slcStreamPrefetch_untrained, fun _ _ _ => slcStreamPrefetch_second,
    fun _ _ => execSlcStreamPrefetch_unbacked⟩, ?_⟩
  · obtain ⟨t, runs, only, region, mode, arm⟩ := execGsEccInjArm_studio s r m
    exact ⟨t, runs, only, region, mode, arm.trans (if_neg armed)⟩
  · rintro s c x rfl
    refine ⟨fun k b can rank owed late bank => execSameBankRefresh_due rfl ⟨can, rank, owed, late⟩ bank,
      fun k early => execSameBankRefresh_not_due ?_,
      fun k can room =>
        ⟨execModeRegisterPoll_rises can room, modeRegisterPoll_falls can room, modeRegisterPoll_hot k can room⟩,
      fun l waits => execModeRegisterPoll_waits waits l,
      fun k can rank => ⟨execZqCalibration_runs can rank, fun l => execZqCalibration_runs (o := .osc k l) can rank⟩,
      fun _ => execZqCalibration_waits, fun l m r queue alive own request => ⟨fun free => ?_, fun newer => ?_⟩,
      execDdrCorrectionWriteback_empty, execDdrPatrolScrub_reads, fun off => congrArg Host.Outcome.next (if_pos off),
      fun w m used => execDmcEccInjArm_locked used w c m, fun w m admits unused => execDmcEccInjArm_arms admits unused c m⟩
    · rintro ⟨can, rank, owed, late⟩
      rcases early with still | few | even | soon
      · exact Bool.false_ne_true (still.symm.trans can)
      all_goals omega
    · rw [execDdrCorrectionWriteback_oldest queue, free, if_neg Bool.false_ne_true, State.askBulk_writeback alive own request]
    · rw [execDdrCorrectionWriteback_oldest queue, newer, if_pos rfl]

end Sys2Proof.Machine
